-- ==== Sys2Proof/Word.lean ====
section
/-! DEFINITION. The word types of the 9640 and the plainest arithmetic over them (spec 00_scope.md, R6 to R8, R13). -/

namespace Sys2Proof

/-- A register word: every register is 32 bits wide (R8). -/
abbrev Word := BitVec 32

/-- One byte of a memory or of a frame. -/
abbrev Byte := BitVec 8

/-- A word given as a natural number, reduced to 32 bits. -/
def word (n : Nat) : Word := BitVec.ofNat 32 n

/-- A byte given as a natural number, reduced to 8 bits. -/
def byte (n : Nat) : Byte := BitVec.ofNat 8 n

end Sys2Proof
end

