-- ==== Sys2Proof/Syntax.lean ====
section
/-! DEFINITION. The commands the block takes: one constructor per row of spec/opcode_table.json, with the operands that
the row's rule gives it. Commands of the command language carry the carrier and the tag and CRC of their line (R126 to
R128); events that come from outside carry `dt`, the number of cycles of the 32.768 kHz time base that pass before
them, and the quantities the outside world presents (log entry 1). -/

namespace Sys2Proof

/-- Text of the command language: its characters (R123). -/
abbrev Text := List Char

/-- The carriers of Table 4.1; each neighbour-table partner has its own tunnel session (R122). -/
inductive Carrier where
  | uart | optical | tunnel (nb : Fin 32)
  deriving DecidableEq, Repr

/-- The roles of R132 and R355, lowest first. -/
inductive Role where
  | publicRole | reader | installer | utility | manufacturer
  deriving DecidableEq, Repr

/-- The two meter points. -/
inductive MeterPoint where
  | mpa | mpb
  deriving DecidableEq, Repr

/-- The generated form around a command line: its tag, empty when none, and whether it carried a valid CRC suffix
(R126 to R128). -/
structure LineForm where
  tag : Text
  crc : Bool
  deriving DecidableEq, Repr

/-- What a command line names: a register, field, quantity or COSEM attribute by name, or an address (R140, R141). -/
inductive ObjRef where
  | name (n : Text)
  | addr (a : Nat)
  deriving DecidableEq, Repr

/-- Who a request comes from: a command carrier, or a link partner's neighbour entry with whether its frame was protected
(R122, R358, R387). -/
inductive Source where
  | carrier (c : Carrier)
  | link (nb : Fin 32) (sec : Bool)
  deriving DecidableEq, Repr

/-- What the supply monitors and converters measure at a Capture (R65, R114, R490), whether the 24 MHz oscillator is
stable there when it runs (R113), and the words of the Carousel, by number, that have gone wrong since the previous Capture, with
whether the error is uncorrectable (R54). -/
structure CaptureEnv where
  vio : Bool
  vbatMv : Nat
  vbkupMv : Nat
  dieTemp : Int
  xo24Stable : Bool
  upsets : List (Nat × Bool)
  deriving DecidableEq, Repr

/-- Hardware conditions that the diagnostics of a Compute find (Table 14.3), and whether a continuous test of the random number
generator has failed (R457). -/
structure DiagIn where
  coreRam : Option Nat
  ownership : List (Nat × Nat)
  cfgUpset : Bool
  energyDiff : List (Fin 2 × Int)
  flashBad : Option (Nat × Nat)
  staleFound : Option (Nat × Nat)
  frameUpset : Bool
  rngBad : Bool
  computeUs : Nat
  deriving DecidableEq, Repr

/-- The measurement of one resistive input in a conversion sequence: the ratio of the sensor's to the reference's
voltage in both current directions, in units of 2^-24, and whether a sense lead is open (R245, R248, R249). -/
structure InputConv where
  ratioPos : Int
  ratioNeg : Int
  leadOpen : Bool
  deriving DecidableEq, Repr

/-- The measurement of the bridge: its ratio in 2^-24 units and its excitation current in µA (R251). -/
structure BridgeConv where
  ratio : Int
  excUa : Nat
  deriving DecidableEq, Repr

/-- A conversion sequence as the converters present it (R246), with the reference test of R476: the errors found, in
signed ppm. -/
structure ConvSeq where
  inputs : List (Option InputConv)
  bridge : Option BridgeConv
  refRatioPpm : Int
  refDirPpm : Int
  deriving DecidableEq, Repr

/-- A radio frame as received: its bytes from the PHY header to the CRC, and its signal strength in dBm (R369, R381). -/
structure RxFrame where
  bytes : List Byte
  rssi : Int
  deriving DecidableEq, Repr

/-- The three key messages and the queries arrive as the bytes of Table 13.6 or Table 13.8; `src` is who sent them. -/
structure KeyMsg where
  src : Source
  bytes : List Byte
  deriving DecidableEq, Repr

/-- Time in a tick for shots that admission does not reserve, in units of 10 µs: what the tick's other work leaves for optional shots,
and what the diagnostics repetitions that it asks for take (R34). -/
structure WindowRoom where
  budget : Nat
  reps : Nat
  deriving DecidableEq, Repr

/-- A low pulse at RESETN: the cycles before it, and how long it lasts in µs (R73). -/
structure ResetPulse where
  dt : Nat
  lowUs : Nat
  deriving DecidableEq, Repr

/-- What the tests of a start-up find: whether every entry of the trouble log passes its check (R106), the root keys that fail theirs
(R429), and whether the random number generator fails its start-up test (R457). -/
structure BootIn where
  logOk : Bool
  rootsBad : List (Fin 3)
  rngBad : Bool
  deriving DecidableEq, Repr

/-- A slice of a Service task: how long the task's step work would take, in units of 10 µs (R33). -/
abbrev SliceTime := Nat

/-- The work of a Service window: the time that each task's step work would take, and whether an erase or a read-back of the code
flash in the UPD slice did not match (R33, R503). -/
structure ServiceIn where
  slices : List (Fin 6 × SliceTime)
  flashBad : Bool
  deriving DecidableEq, Repr

/-- The commands of the block: one constructor per row of spec/opcode_table.json, in the order of the table. -/
inductive Instr where
  -- Ringmaster and ticks
  | tickBoundary (dt : Nat) (env : CaptureEnv)
  | tickPreWake (dt : Nat)
  | acousticWindow (room : WindowRoom) (disagree : Int)
  | ucodeSelp
  | ucodeWait
  | ucodeFire (vtxbMv : Nat)
  | ucodeWaitf
  | ucodeWaite
  | ucodeSwap
  | ucodeEnd
  | captureEnd (chain0 chain1 : List Int)
  | correlationEnd
  | vtxbReady (dt : Nat)
  | conversionSequenceEnd (dt : Nat) (conv : ConvSeq)
  | compute (diag : DiagIn)
  | demandBoundary
  | periodBoundary
  | tariffSwitch
  | safeStateExit
  | emptyPipe (mp : MeterPoint)
  | emptyPipeClear (mp : MeterPoint)
  | holdExpiry (path : Fin 4)
  | recoveryEnd (mp : MeterPoint)
  | reverseFlowTamper (mp : MeterPoint)
  | pathSignTamper (mp : MeterPoint)
  | sensorPlausibilityFault (mp : MeterPoint)
  | depositBlock (path : Fin 4)
  | zerocalCollectionEnd
  | zerocalTimeout
  | taskPromotion
  | serviceWindow (avail : Nat) (work : ServiceIn)
  | persist
  | commitInterval
  | saveComplete
  -- power, resets, start-up
  | powerFailWarning (dt : Nat) (external : Option Nat) (vbatMv : Nat)
  | emergencyCommitEnd (dt : Nat) (vbatMv : Nat)
  | ticksResume (dt : Nat)
  | powerFailWaitExpiry (dt : Nat)
  | brownOut (dt : Nat)
  | switchOver (dt : Nat) (toBackup : Bool)
  | backupEntry (dt : Nat)
  | aonPowerOn (dt : Nat)
  | retentionLoss (dt : Nat)
  | minlow (dt : Nat)
  | backupDomainPowerOn (dt : Nat)
  | startGate (dt : Nat)
  | resetnLow (pulse : ResetPulse)
  | watchdogReset (dt : Nat)
  | commandReset
  | resetDrainTimeout
  | startUp (dt : Nat) (found : BootIn)
  | hibernateWake (dt : Nat)
  -- carriers
  | carrierWake (dt : Nat) (c : Carrier)
  | carrierIdle (dt : Nat) (c : Carrier)
  | gpioWake (dt : Nat) (ball : Fin 12)
  | characterReceived (dt : Nat) (c : Carrier) (ch : Byte)
  | signOnRequest (dt : Nat) (address : Text)
  | identification (dt : Nat)
  | optionSelect (dt : Nat) (z mode : Char)
  | optionSelectTimeout (dt : Nat)
  | breakMessage (dt : Nat)
  -- the command language
  | get (c : Carrier) (l : LineForm) (obj : ObjRef) (pendingView raw : Bool) (count : Option Nat)
  | set (c : Carrier) (l : LineForm) (obj : ObjRef) (value : Text)
  | showObj (c : Carrier) (l : LineForm) (obj : ObjRef)
  | shot (c : Carrier) (l : LineForm) (path : Nat) (count : Option Nat)
  | shotRequestAbandon
  | capture (c : Carrier) (l : LineForm)
  | logTrouble (c : Carrier) (l : LineForm) (first count : Option Nat)
  | logLegal (c : Carrier) (l : LineForm) (first count : Option Nat)
  | login (c : Carrier) (l : LineForm) (role : Role) (secret : Option Text)
  | loginLockExpiry (dt : Nat) (c : Carrier)
  | challengeExpiry (dt : Nat) (c : Carrier)
  | logout (c : Carrier) (l : LineForm)
  | keyLoad (c : Carrier) (l : LineForm) (piece : Text)
  | keyLoadBufferExpiry (dt : Nat) (c : Carrier)
  | keyStatus (c : Carrier) (l : LineForm) (digest : Text)
  | keyPassword (c : Carrier) (l : LineForm) (role : Role) (text : Text)
  | token (c : Carrier) (l : LineForm) (digits : Text)
  | tokenLockoutExpiry
  | zerocal (c : Carrier) (l : LineForm) (mp : MeterPoint)
  | commit (c : Carrier) (l : LineForm)
  | scheduleCommit (c : Carrier) (l : LineForm)
  | scheduleDiscard (c : Carrier) (l : LineForm)
  | scheduleShow (c : Carrier) (l : LineForm) (pendingView : Bool)
  | reset (c : Carrier) (l : LineForm)
  | status (c : Carrier) (l : LineForm)
  | help (c : Carrier) (l : LineForm) (command : Option Text)
  -- register writes with behaviour
  | registerWrite (src : Source) (addr : Nat) (value : Word)
  | hibernate (src : Source)
  | timeWrite (src : Source) (value : Word)
  | timeWriteApplied
  | setDate (src : Source) (value : Word)
  | setTime (src : Source) (value : Word)
  | countdownTimerWrite (src : Source) (value : Word)
  | countdownTimerExpiry
  | trimWindow
  | wrap
  | xt32Stopped (dt : Nat)
  | pllUnlocked (dt : Nat)
  | rcNotLocked (dt : Nat)
  | close (src : Source)
  | remoteDisconnect (src : Source)
  | remoteReconnect (src : Source)
  | prepaymentModeWrite (src : Source) (mode : BitVec 2)
  -- actuator, inputs, keypad
  | actuatorDrive
  | driveCurrentCheck (dt : Nat) (milliAmp : Nat)
  | drivePulseExpiry (dt : Nat)
  | actuatorTimeout (dt : Nat)
  | feedbackChange (dt : Nat) (first : Bool × Bool) (more : List (Bool × Bool))
  | sealChange (dt : Nat) (samples : List Bool)
  | tamperInputChange (dt : Nat) (input : Fin 4) (samples : List Bool)
  | shottrigEdge (dt : Nat)
  | keypadWake (dt : Nat)
  | keyAccepted (dt : Nat) (key : Fin 16)
  | keyReleased (dt : Nat)
  | entryTimeout (dt : Nat)
  -- safety and keys
  | holdack (src : Source)
  | dbgen (src : Source)
  | ack (src : Source)
  | force (src : Source)
  | keyUpdate (m : KeyMsg)
  | lifeCycleTransition (m : KeyMsg)
  | authorityChange (m : KeyMsg)
  | tamperAcknowledgement (m : KeyMsg)
  | statusQuery (nb : Fin 32) (digest : List Byte)
  | ecdsaVerificationEnd
  -- the object service
  | objectGet (nb : Fin 32) (sec : Bool) (invoke : Byte) (cls : Nat) (obis : List Byte) (index : Nat) (select : Option (Nat × Nat × Nat))
  | objectSet (nb : Fin 32) (sec : Bool) (invoke : Byte) (cls : Nat) (obis : List Byte) (index : Nat) (data : List Byte)
  | objectAction (nb : Fin 32) (sec : Bool) (invoke : Byte) (cls : Nat) (obis : List Byte) (index : Nat) (data : List Byte)
  | aclLine (nb : Fin 32) (sec : Bool) (invoke : Byte) (line : List Byte)
  | specialDayInsert (src : Source) (data : List Byte)
  | specialDayDelete (src : Source) (data : List Byte)
  -- radio
  | channelSample (dt : Nat) (preamble : Bool)
  | syncWaitLimit (dt : Nat)
  | frameReceived (dt : Nat) (f : RxFrame)
  | acknowledgement (dt : Nat)
  | frameQueued (slot : Nat)
  | transmissionStart (dt : Nat) (channelRssi : Int)
  | clearChannelRetry (dt : Nat) (channelRssi : Int)
  | transmissionEnd (dt : Nat)
  | ackTimeout (dt : Nat)
  | busyRetry (dt : Nat)
  | dutyBinExpiry (dt : Nat)
  | join (dt : Nat)
  | telegramDue (dt : Nat)
  -- display
  | install (dt : Nat)
  | bistableUpdateEnd (dt : Nat)
  | dischargeEnd (dt : Nat)
  | pageReturn (dt : Nat)
  | pageScroll (dt : Nat)
  -- firmware update
  | updateBegin (src : Source) (data : List Byte)
  | updateData (src : Source) (data : List Byte)
  | updateEnd (src : Source) (data : List Byte)
  | updateActivate (src : Source) (data : List Byte)
  | updateAbort (src : Source) (data : List Byte)
  | updateStatus (src : Source) (data : List Byte)
  | updateSessionTimeout (dt : Nat)
  | trialConfirmation
  -- clocks, radio and display events of the table's end
  | xt32Ok (dt : Nat)
  | rcLock (dt : Nat)
  | syncWord (dt : Nat)
  | lcdPowerOff (dt : Nat)
  deriving DecidableEq, Repr

end Sys2Proof
end

