-- ==== Sys2Proof/Config.lean ====
section
/-! DEFINITION. What one part fixes and the spec does not state, and the free values: constants without a body, so that no
proof can see a value of one (log entries 2, 3, 9, 15 and 18). -/

namespace Sys2Proof.Config

/-- The free values drawn in turn where the spec leaves a value open: the n-th draw (log entry 2). -/
opaque free : Nat → BitVec 64

/-- The free values of Level 3 to 5 values, in a sequence of their own: the n-th draw (R20, R42; log entry 2). -/
opaque freeLevel : Nat → BitVec 64

/-- The device unique key of the one-time cells (Table 13.1; log entry 9). -/
opaque duk : BitVec 256

/-- The manufacturer root of the one-time cells (Table 13.1; log entry 9). -/
opaque mrk : BitVec 256

/-- The test root of the one-time cells (Table 13.1; log entry 9). -/
opaque trk : BitVec 256

/-- The production and the test key of R494 that firmware signatures verify under, X then Y (log entry 9). -/
opaque fwProd : BitVec 512
opaque fwTest : BitVec 512

/-- The built-in glycol tables of R254, whose values the spec does not give: medium (Table 7.8), property (0 density in
2^-16 kg/m³, 1 heat capacity in 2^-8 J/(kg K), 2 kinematic viscosity in 2^-64 m²/s, 3 speed of sound in 2^-16 m/s) and
number of the 2.5 K step from 0 °C (log entry 15). -/
opaque glycol : (medium property : Nat) → (step : Int) → BitVec 64

/-- The compressibility factor of SGERG-88 (R262), whose equations the spec does not give, with a 30-bit fraction: superior
calorific value in 10^-5 MJ/m³, relative density in 2^-16 × 10^-7, carbon dioxide in 10^-7, hydrogen in 10^-3, absolute
pressure in 1/256 Pa, temperature in 1/65536 K (log entry 15). -/
opaque sgerg : (hs d xco2 xh2 p t : Nat) → BitVec 32

/-- The CRC-32 of R473 over the Staged and Locked fields in force, given by the registers whose value is not their reset
value: the spec does not state the order in which the fields enter it (log entry 18). -/
opaque cfgCrc : List (Nat × BitVec 32) → BitVec 32

end Sys2Proof.Config
end

