-- ==== Sys2Proof/Machine/Bits.lean ====
section
/-! DEFINITION. Bit fields, signed values, byte order, rounding and small integer functions (R7, R8, R13, R44). -/

namespace Sys2Proof.Machine

/-- Bits [hi:lo] of a word (R7). -/
def bitsOf (w : Word) (hi lo : Nat) : Nat := (w.toNat / 2 ^ lo) % 2 ^ (hi + 1 - lo)

/-- The word with bits [hi:lo] replaced by `v`, reduced to the field's width. -/
def withBits (w : Word) (hi lo v : Nat) : Word :=
  word (w.toNat % 2 ^ lo + (v % 2 ^ (hi + 1 - lo)) * 2 ^ lo + (w.toNat / 2 ^ (hi + 1)) * 2 ^ (hi + 1))

/-- An `n`-bit pattern read in two's complement (R13). -/
def toSigned (n v : Nat) : Int :=
  if v % 2 ^ n < 2 ^ (n - 1) then (v % 2 ^ n : Nat) else ((v % 2 ^ n : Nat) : Int) - (2 ^ n : Nat)

/-- The `n`-bit two's-complement pattern of an integer. -/
def ofSigned (n : Nat) (i : Int) : Nat := (i % (2 ^ n : Nat)).toNat

/-- An integer limited to a range. -/
def clampInt (lo hi i : Int) : Int := if i < lo then lo else if hi < i then hi else i

/-- An integer saturated to `n` signed bits. -/
def satSigned (n : Nat) (i : Int) : Int := clampInt (-(2 ^ (n - 1) : Nat)) ((2 ^ (n - 1) : Nat) - 1) i

/-- A natural number saturated to `n` bits. -/
def satNat (n v : Nat) : Nat := min v (2 ^ n - 1)

/-- Integer quotient rounded to the nearest, halves away from zero (the rounding R135 and R136 state for values;
used as the rounding of a last bit elsewhere, log entry 7). A zero divisor gives 0. -/
def roundDiv (a : Int) (b : Nat) : Int :=
  if b = 0 then 0
  else if 0 ≤ a then ((2 * a.toNat + b) / (2 * b) : Nat) else -(((2 * (-a).toNat + b) / (2 * b) : Nat) : Int)

/-- `roundDiv` with a signed divisor. -/
def roundDivI (a b : Int) : Int := if b < 0 then roundDiv (-a) (-b).toNat else roundDiv a b.toNat

/-- Absolute value as a natural number. -/
def absNat (i : Int) : Nat := i.natAbs

/-- One bit of a number. -/
def bit (v i : Nat) : Bool := v / 2 ^ i % 2 = 1

/-- A number with bit `i` set or cleared. -/
def setBit (v i : Nat) (b : Bool) : Nat :=
  if bit v i then (if b then v else v - 2 ^ i) else (if b then v + 2 ^ i else v)

/-- A truth value as a bit. -/
def b2n (b : Bool) : Nat := if b then 1 else 0

/-- The `n` bytes of a number, lowest first (R8). -/
def bytesLE : Nat → Nat → List Byte
  | 0, _ => []
  | n + 1, v => byte (v % 256) :: bytesLE n (v / 256)

/-- The number whose bytes, lowest first, are given (R8). -/
def natLE : List Byte → Nat
  | [] => 0
  | b :: t => b.toNat + 256 * natLE t

/-- The `n` bytes of a number, highest first. -/
def bytesBE (n v : Nat) : List Byte := (bytesLE n v).reverse

/-- The number whose bytes, highest first, are given. -/
def natBE (l : List Byte) : Nat := natLE l.reverse

/-- `n` zero bytes. -/
def zeros (n : Nat) : List Byte := List.replicate n 0#8

/-- Greatest `r` with `r * r ≤ n`, found bit by bit from bit `k - 1` down. -/
def isqrtFrom (n : Nat) : Nat → Nat → Nat
  | 0, r => r
  | k + 1, r => if (r + 2 ^ k) * (r + 2 ^ k) ≤ n then isqrtFrom n k (r + 2 ^ k) else isqrtFrom n k r

/-- Integer square root. -/
def isqrt (n : Nat) : Nat := isqrtFrom n (Nat.log2 n / 2 + 1) 0

/-- Integer square root, rounded to the nearest. -/
def isqrtRound (n : Nat) : Nat := let r := isqrt n; if n > r * r + r then r + 1 else r

/-- The least count `c` below `n` for which `p c` holds, else `n`, tried upwards from `i`. -/
def leastFrom (p : Nat → Bool) : Nat → Nat → Nat
  | 0, i => i
  | n + 1, i => if p i then i else leastFrom p n (i + 1)

/-- Bisection: the largest `x` in [lo, lo + 2^k) for which the falling test `p` holds, `lo` where none does. -/
def bisect (p : Int → Bool) : Nat → Int → Int
  | 0, lo => lo
  | k + 1, lo => if p (lo + (2 ^ k : Nat)) then bisect p k (lo + (2 ^ k : Nat)) else bisect p k lo

/-- The sum of a list of integers. -/
def sumInt (l : List Int) : Int := l.foldl (· + ·) 0

/-- The sum of a list of natural numbers. -/
def sumNat (l : List Nat) : Nat := l.foldl (· + ·) 0

/-- Inserts into a rising list of integers. -/
def insertInt (x : Int) : List Int → List Int
  | [] => [x]
  | y :: t => if x ≤ y then x :: y :: t else y :: insertInt x t

/-- A list of integers in rising order. -/
def sortInt : List Int → List Int
  | [] => []
  | x :: t => insertInt x (sortInt t)

/-- The numbers 0 to n − 1. -/
def upTo (n : Nat) : List Nat := List.range n

/-- `f` applied `n` times. -/
def iter {α : Type} (f : α → α) : Nat → α → α
  | 0, a => a
  | n + 1, a => iter f n (f a)

end Sys2Proof.Machine
end

