-- ==== Sys2Proof/Machine/Calendar.lean ====
section
/-! DEFINITION. The 9640's calendar: every year divisible by 4 is a leap year, 2100 included (R282 to R286). -/

namespace Sys2Proof.Machine

/-- A date and time of the calendar view; the year counts from 2000. -/
structure CalTime where
  year : Nat
  month : Nat
  day : Nat
  hour : Nat
  minute : Nat
  second : Nat
  wday : Nat
  deriving DecidableEq, Repr

/-- Days before 1 January of year 2000 + y (R282). -/
def daysBeforeYear (y : Int) : Int := 365 * y + (y + 3) / 4

/-- Days of month `m` (1 to 12) of year 2000 + y. -/
def daysInMonth (y : Int) (m : Nat) : Nat :=
  match m with
  | 2 => if y % 4 = 0 then 29 else 28
  | 4 | 6 | 9 | 11 => 30
  | _ => 31

/-- Days of year 2000 + y before month `m`. -/
def daysBeforeMonth (y : Int) (m : Nat) : Nat :=
  sumNat ((List.range (m - 1)).map (fun i => daysInMonth y (i + 1)))

/-- Weekday of a day count: 1 Monday to 7 Sunday (R282). -/
def weekdayOf (d : Nat) : Nat := (d + 5) % 7 + 1

/-- The seconds of a written calendar time, not yet clamped (R284). -/
def calToSecRaw (year : Nat) (month day hour minute second : Nat) : Int :=
  let c : Int := ((month : Int) - 1) / 12
  let y : Int := (year : Int) + c
  let mo : Nat := ((month : Int) - 12 * c).toNat
  let d : Int := daysBeforeYear y + (daysBeforeMonth y mo : Int) + (day : Int) - 1
  d * 86400 + hour * 3600 + minute * 60 + second

/-- The clamped seconds of a written calendar time and whether it was clamped (R284). -/
def calToSec (year month day hour minute second : Nat) : Nat × Bool :=
  let t := calToSecRaw year month day hour minute second
  if t < 0 then (0, true) else if 0xFFFFFFFF < t then (0xFFFFFFFF, true) else (t.toNat, false)

/-- The month and day of a day of the year, found month by month. -/
def monthDayOf (y : Int) : Nat → Nat → Nat → Nat × Nat
  | 0, m, d => (m, d + 1)
  | k + 1, m, d =>
    if d < daysInMonth y m then (m, d + 1) else monthDayOf y k (m + 1) (d - daysInMonth y m)

/-- The calendar view of a count of seconds (R282, R283). -/
def secToCal (sec : Nat) : CalTime :=
  let d := sec / 86400
  let r := sec % 86400
  -- a cycle of four years has 1,461 days and begins with its leap year
  let q := d / 1461
  let e := d % 1461
  let y := 4 * q + (if e < 366 then 0 else 1 + (e - 366) / 365)
  let doy := if e < 366 then e else (e - 366) % 365
  let md := monthDayOf (y : Int) 11 1 doy
  { year := y, month := md.1, day := md.2, hour := r / 3600, minute := r % 3600 / 60, second := r % 60
    wday := weekdayOf d }

end Sys2Proof.Machine
end

