-- ==== Sys2Proof/Machine/Crc.lean ====
section
/-! DEFINITION. The two check codes of the spec: the CRC-16 of R128 and the CRC-32 of R473. -/

namespace Sys2Proof.Machine

/-- One bit of the CRC-16 register, polynomial 0x1021, no reflection (R128). -/
def crc16Bit (c : Nat) : Nat := if 0x8000 ≤ c then ((c * 2) % 0x10000) ^^^ 0x1021 else c * 2

/-- One byte of the CRC-16. -/
def crc16Byte (c b : Nat) : Nat := iter crc16Bit 8 ((c ^^^ (b * 256)) % 0x10000)

/-- CRC-16 with initial value 0xFFFF and no final XOR (R128). -/
def crc16 (l : List Nat) : Nat := l.foldl crc16Byte 0xFFFF

/-- CRC-16 over bytes. -/
def crc16Bytes (l : List Byte) : Nat := crc16 (l.map BitVec.toNat)

/-- One bit of the reflected IEEE 802.3 CRC-32 register. -/
def crc32Bit (c : Nat) : Nat := if c % 2 = 1 then (c / 2) ^^^ 0xEDB88320 else c / 2

/-- One byte of the CRC-32. -/
def crc32Byte (c : Nat) (b : Byte) : Nat := iter crc32Bit 8 (c ^^^ b.toNat)

/-- CRC-32 with the IEEE 802.3 polynomial (R473); its initial value, reflection and final XOR are those of
IEEE 802.3 (PRESUMED, log entry 8). -/
def crc32 (l : List Byte) : Nat := (l.foldl crc32Byte 0xFFFFFFFF) ^^^ 0xFFFFFFFF

end Sys2Proof.Machine
end

