-- ==== Sys2Proof/Machine/RegTypes.lean ====
section
/-! DEFINITION. The shapes in which the register maps of the spec are written down (spec 00_scope.md, R9 to R12). -/

namespace Sys2Proof.Machine

/-- The access codes of Table 0.2 (R10). -/
inductive Access where
  | rw | ro | w1c | wo
  deriving DecidableEq, Repr

/-- The configuration classes of R11 and R38. -/
inductive FieldClass where
  | staged | locked | immediate
  deriving DecidableEq, Repr

/-- The register blocks of Table 1.10, with the two instances of the MP block apart (R140). -/
inductive Block where
  | sys | pwr | clk | ft | ame | shot | mpa | mpb | sens | rtc | bill | alm | pay | radio | link | disp
  | keys | safe | log | cmd | mgmt
  deriving DecidableEq, Repr

/-- One row of a field table: bits [hi:lo], access, class, whether the field is signed, and the range the
table states, where it states one that is narrower than the field. -/
structure FieldRow where
  name : String
  hi : Nat
  lo : Nat
  acc : Access
  cls : FieldClass
  signed : Bool
  range : Option (Int × Int)
  deriving DecidableEq, Repr

/-- One register heading: its name without the block prefix, with '#' where an index stands (R140), its offset,
its index ranges (a count and a stride each), its reset value and its field table. -/
structure RegRow where
  name : String
  off : Nat
  n1 : Nat
  s1 : Nat
  n2 : Nat
  s2 : Nat
  rst : Nat
  fields : List FieldRow
  deriving DecidableEq, Repr

/-- A field of one register, by the register's byte address and its bits. -/
structure Fld where
  addr : Nat
  hi : Nat
  lo : Nat
  deriving DecidableEq, Repr

end Sys2Proof.Machine
end

