-- ==== Sys2Proof/Machine/RegMap.lean ====
section
/-! DEFINITION. The register maps of the 9640, one row per register heading of the spec's chapters (R56, R59, R114,
R115, R150, R192, R231, R232, R269, R296, R342 to R344, R391, R392, R427, R458, R487, R488, R510), and a name for
every register address and every field. Where a register's reset differs by index, each value has a row of its own. -/

namespace Sys2Proof.Machine

/-- The SYS registers (01_architecture.md). -/
def sysRows : List RegRow := [
  ⟨"CRS_ECC", 0x0, 1, 1, 1, 1, 0x0,
    [⟨"UNCORR", 16, 16, .w1c, .immediate, false, none⟩, ⟨"CORR", 15, 0, .ro, .immediate, false, none⟩]⟩,
  ⟨"CRS_ERR", 0x4, 1, 1, 1, 1, 0x0,
    [⟨"COUNT", 15, 0, .ro, .immediate, false, none⟩]⟩,
  ⟨"RING0_A", 0x100, 1, 1, 1, 1, 0x1F07F000,
    [⟨"KIND", 31, 28, .ro, .immediate, false, none⟩, ⟨"RECM1", 27, 24, .ro, .immediate, false, none⟩, ⟨"COUNTM1", 22, 12, .ro, .immediate, false, none⟩, ⟨"BASE", 10, 0, .ro, .immediate, false, none⟩]⟩,
  ⟨"RING1_A", 0x108, 1, 1, 1, 1, 0x7F080,
    [⟨"KIND", 31, 28, .ro, .immediate, false, none⟩, ⟨"RECM1", 27, 24, .ro, .immediate, false, none⟩, ⟨"COUNTM1", 22, 12, .ro, .immediate, false, none⟩, ⟨"BASE", 10, 0, .ro, .immediate, false, none⟩]⟩,
  ⟨"RING2_A", 0x110, 1, 1, 1, 1, 0x10FF100,
    [⟨"KIND", 31, 28, .ro, .immediate, false, none⟩, ⟨"RECM1", 27, 24, .ro, .immediate, false, none⟩, ⟨"COUNTM1", 22, 12, .ro, .immediate, false, none⟩, ⟨"BASE", 10, 0, .ro, .immediate, false, none⟩]⟩,
  ⟨"RING3_A", 0x118, 1, 1, 1, 1, 0x1205F200,
    [⟨"KIND", 31, 28, .ro, .immediate, false, none⟩, ⟨"RECM1", 27, 24, .ro, .immediate, false, none⟩, ⟨"COUNTM1", 22, 12, .ro, .immediate, false, none⟩, ⟨"BASE", 10, 0, .ro, .immediate, false, none⟩]⟩,
  ⟨"RING4_A", 0x120, 1, 1, 1, 1, 0x1203F260,
    [⟨"KIND", 31, 28, .ro, .immediate, false, none⟩, ⟨"RECM1", 27, 24, .ro, .immediate, false, none⟩, ⟨"COUNTM1", 22, 12, .ro, .immediate, false, none⟩, ⟨"BASE", 10, 0, .ro, .immediate, false, none⟩]⟩,
  ⟨"RING5_A", 0x128, 1, 1, 1, 1, 0x1700F2A0,
    [⟨"KIND", 31, 28, .ro, .immediate, false, none⟩, ⟨"RECM1", 27, 24, .ro, .immediate, false, none⟩, ⟨"COUNTM1", 22, 12, .ro, .immediate, false, none⟩, ⟨"BASE", 10, 0, .ro, .immediate, false, none⟩]⟩,
  ⟨"RING6_A", 0x130, 1, 1, 1, 1, 0x130172B0,
    [⟨"KIND", 31, 28, .ro, .immediate, false, none⟩, ⟨"RECM1", 27, 24, .ro, .immediate, false, none⟩, ⟨"COUNTM1", 22, 12, .ro, .immediate, false, none⟩, ⟨"BASE", 10, 0, .ro, .immediate, false, none⟩]⟩,
  ⟨"RING7_A", 0x138, 1, 1, 1, 1, 0x7F2C8,
    [⟨"KIND", 31, 28, .ro, .immediate, false, none⟩, ⟨"RECM1", 27, 24, .ro, .immediate, false, none⟩, ⟨"COUNTM1", 22, 12, .ro, .immediate, false, none⟩, ⟨"BASE", 10, 0, .ro, .immediate, false, none⟩]⟩,
  ⟨"RING8_A", 0x140, 1, 1, 1, 1, 0x100FF348,
    [⟨"KIND", 31, 28, .ro, .immediate, false, none⟩, ⟨"RECM1", 27, 24, .ro, .immediate, false, none⟩, ⟨"COUNTM1", 22, 12, .ro, .immediate, false, none⟩, ⟨"BASE", 10, 0, .ro, .immediate, false, none⟩]⟩,
  ⟨"RING9_A", 0x148, 1, 1, 1, 1, 0x203AF448,
    [⟨"KIND", 31, 28, .ro, .immediate, false, none⟩, ⟨"RECM1", 27, 24, .ro, .immediate, false, none⟩, ⟨"COUNTM1", 22, 12, .ro, .immediate, false, none⟩, ⟨"BASE", 10, 0, .ro, .immediate, false, none⟩]⟩] ++ [
  ⟨"RING10_A", 0x150, 1, 1, 1, 1, 0x100077F8,
    [⟨"KIND", 31, 28, .ro, .immediate, false, none⟩, ⟨"RECM1", 27, 24, .ro, .immediate, false, none⟩, ⟨"COUNTM1", 22, 12, .ro, .immediate, false, none⟩, ⟨"BASE", 10, 0, .ro, .immediate, false, none⟩]⟩,
  ⟨"RING#_B", 0x104, 11, 0x8, 1, 1, 0x0,
    [⟨"HEAD2", 29, 23, .ro, .immediate, false, none⟩, ⟨"FILL", 22, 12, .ro, .immediate, false, none⟩, ⟨"HEAD", 10, 0, .ro, .immediate, false, none⟩]⟩]

/-- The PWR registers (03_power_clocks_start.md). -/
def pwrRows : List RegRow := [
  ⟨"STATE", 0x0, 1, 1, 1, 1, 0x0,
    [⟨"VIO_OK", 9, 9, .ro, .immediate, false, none⟩, ⟨"BKSRC", 8, 8, .ro, .immediate, false, none⟩, ⟨"STATE", 2, 0, .ro, .immediate, false, none⟩]⟩,
  ⟨"RSTCAUSE", 0x4, 1, 1, 1, 1, 0x1,
    [⟨"BKPOR", 7, 7, .w1c, .immediate, false, none⟩, ⟨"HIBWAKE", 6, 6, .w1c, .immediate, false, none⟩, ⟨"CMD", 5, 5, .w1c, .immediate, false, none⟩, ⟨"SAFETY", 4, 4, .w1c, .immediate, false, none⟩, ⟨"WDOG", 3, 3, .w1c, .immediate, false, none⟩, ⟨"BOR", 2, 2, .w1c, .immediate, false, none⟩, ⟨"EXTRST", 1, 1, .w1c, .immediate, false, none⟩, ⟨"POR", 0, 0, .w1c, .immediate, false, none⟩]⟩,
  ⟨"PFCFG", 0x8, 1, 1, 1, 1, 0x804,
    [⟨"ROWS", 11, 8, .rw, .staged, false, some (4, 15)⟩, ⟨"THR", 3, 0, .rw, .staged, false, some (0, 9)⟩]⟩,
  ⟨"PFSTAT", 0xC, 1, 1, 1, 1, 0x0,
    [⟨"LAST_ROWS", 23, 20, .ro, .immediate, false, none⟩, ⟨"INCOMPLETE", 19, 19, .w1c, .immediate, false, none⟩, ⟨"EXT", 18, 18, .w1c, .immediate, false, none⟩, ⟨"COUNT", 15, 0, .ro, .immediate, false, none⟩]⟩,
  ⟨"SUPPLY", 0x10, 1, 1, 1, 1, 0x0,
    [⟨"VBKUP_MV", 27, 16, .ro, .immediate, false, none⟩, ⟨"VBAT_MV", 11, 0, .ro, .immediate, false, none⟩]⟩,
  ⟨"CTRL", 0x14, 1, 1, 1, 1, 0x700,
    [⟨"WAKE_CDT", 10, 10, .rw, .staged, false, none⟩, ⟨"WAKE_TAMP", 9, 9, .rw, .staged, false, none⟩, ⟨"WAKE_KEY", 8, 8, .rw, .staged, false, none⟩, ⟨"HIBERNATE", 0, 0, .wo, .immediate, false, none⟩]⟩,
  ⟨"BKSW", 0x18, 1, 1, 1, 1, 0x0,
    [⟨"MINLOW", 16, 16, .w1c, .immediate, false, none⟩, ⟨"SWCNT", 15, 0, .ro, .immediate, false, none⟩]⟩]

/-- The CLK registers (03_power_clocks_start.md). -/
def clkRows : List RegRow := [
  ⟨"CFG", 0x0, 1, 1, 1, 1, 0x10,
    [⟨"XO24_SRC", 8, 8, .rw, .staged, false, none⟩, ⟨"XT32_TRIM", 4, 1, .rw, .staged, false, none⟩, ⟨"XT32_CL", 0, 0, .rw, .staged, false, none⟩]⟩,
  ⟨"STAT", 0x4, 1, 1, 1, 1, 0x0,
    [⟨"RC_LOCK", 3, 3, .ro, .immediate, false, none⟩, ⟨"PLL_LOCK", 2, 2, .ro, .immediate, false, none⟩, ⟨"XO24_OK", 1, 1, .ro, .immediate, false, none⟩, ⟨"XT32_OK", 0, 0, .ro, .immediate, false, none⟩]⟩,
  ⟨"MON", 0x8, 1, 1, 1, 1, 0x0,
    [⟨"RC_UNLOCK", 4, 4, .w1c, .immediate, false, none⟩, ⟨"PLL_UNLOCK", 3, 3, .w1c, .immediate, false, none⟩, ⟨"XO24_FAIL", 2, 2, .w1c, .immediate, false, none⟩, ⟨"CROSS", 1, 1, .w1c, .immediate, false, none⟩, ⟨"XT32_STOP", 0, 0, .w1c, .immediate, false, none⟩]⟩,
  ⟨"XO24ERR", 0xC, 1, 1, 1, 1, 0x0,
    [⟨"ERR", 15, 0, .ro, .immediate, true, none⟩]⟩]

/-- The FT registers (01_architecture.md). -/
def ftRows : List RegRow := [
  ⟨"PERIOD", 0x0, 1, 1, 1, 1, 0x8,
    [⟨"N", 6, 0, .rw, .staged, false, some (2, 64)⟩]⟩,
  ⟨"CTRL", 0x4, 1, 1, 1, 1, 0x1000,
    [⟨"PROMO", 15, 8, .rw, .staged, false, some (4, 64)⟩, ⟨"HOLD", 0, 0, .rw, .immediate, false, none⟩]⟩,
  ⟨"CMD", 0x8, 1, 1, 1, 1, 0x0,
    [⟨"DISCARD", 1, 1, .wo, .immediate, false, none⟩, ⟨"COMMIT", 0, 0, .wo, .immediate, false, none⟩]⟩,
  ⟨"ADMIT", 0xC, 1, 1, 1, 1, 0x0,
    [⟨"COST", 31, 12, .ro, .immediate, false, none⟩, ⟨"PENDING", 2, 2, .ro, .immediate, false, none⟩, ⟨"RESULT", 1, 0, .ro, .immediate, false, none⟩]⟩,
  ⟨"TICK_LO", 0x10, 1, 1, 1, 1, 0x0,
    [⟨"TICK", 31, 0, .ro, .immediate, false, none⟩]⟩,
  ⟨"TICK_HI", 0x14, 1, 1, 1, 1, 0x0,
    [⟨"TICK", 15, 0, .ro, .immediate, false, none⟩]⟩,
  ⟨"PUBTICK", 0x18, 1, 1, 1, 1, 0x0,
    [⟨"TICK", 31, 0, .ro, .immediate, false, none⟩]⟩,
  ⟨"PHASE", 0x1C, 1, 1, 1, 1, 0x0,
    [⟨"PHASE", 2, 0, .ro, .immediate, false, none⟩]⟩,
  ⟨"STAT", 0x20, 1, 1, 1, 1, 0x0,
    [⟨"PERIOD_CHG", 3, 3, .w1c, .immediate, false, none⟩, ⟨"PROMOTED", 2, 2, .w1c, .immediate, false, none⟩, ⟨"DROPX", 1, 1, .w1c, .immediate, false, none⟩, ⟨"OVERRUN", 0, 0, .w1c, .immediate, false, none⟩]⟩,
  ⟨"OVRCNT", 0x24, 1, 1, 1, 1, 0x0,
    [⟨"COUNT", 15, 0, .ro, .immediate, false, none⟩]⟩,
  ⟨"SCHED#", 0x100, 64, 0x4, 1, 1, 0x0,
    [⟨"EVERY", 21, 16, .rw, .staged, false, none⟩, ⟨"MULT_MAX", 15, 11, .rw, .staged, false, none⟩, ⟨"MULT_MIN", 10, 6, .rw, .staged, false, none⟩, ⟨"PATH", 5, 4, .rw, .staged, false, none⟩, ⟨"SLICE", 23, 8, .rw, .staged, false, none⟩, ⟨"TASK", 7, 4, .rw, .staged, false, none⟩, ⟨"KIND", 3, 0, .rw, .staged, false, none⟩]⟩]

/-- The AME registers (05_acoustic_front_end.md). -/
def ameRows : List RegRow := [
  ⟨"CTRL", 0x0, 1, 1, 1, 1, 0x0,
    [⟨"DRV_V", 11, 8, .rw, .locked, false, some (0, 8)⟩, ⟨"EN", 0, 0, .rw, .staged, false, none⟩]⟩,
  ⟨"STAT", 0x4, 1, 1, 1, 1, 0x0,
    [⟨"VTXB_NR", 7, 7, .w1c, .immediate, false, none⟩, ⟨"UCODE", 6, 6, .w1c, .immediate, false, none⟩, ⟨"CAPFULL", 5, 5, .w1c, .immediate, false, none⟩, ⟨"PLLDISC", 4, 4, .w1c, .immediate, false, none⟩, ⟨"VTXB_LOW", 3, 3, .w1c, .immediate, false, none⟩, ⟨"CLIP", 2, 2, .w1c, .immediate, false, none⟩, ⟨"READY", 0, 0, .ro, .immediate, false, none⟩]⟩,
  ⟨"DISC", 0x8, 1, 1, 1, 1, 0x0,
    [⟨"COUNT", 15, 0, .ro, .immediate, false, none⟩]⟩,
  ⟨"AGC", 0xC, 1, 1, 1, 1, 0x141000,
    [⟨"DEAD", 21, 20, .rw, .staged, false, none⟩, ⟨"STEP", 19, 16, .rw, .staged, false, some (1, 8)⟩, ⟨"TARGET", 13, 0, .rw, .staged, false, some (512, 8000)⟩]⟩,
  ⟨"TRIG", 0x10, 1, 1, 1, 1, 0x10100,
    [⟨"PATHS", 19, 16, .rw, .staged, false, none⟩, ⟨"COUNT", 12, 8, .rw, .staged, false, some (1, 16)⟩, ⟨"EN", 0, 0, .rw, .staged, false, none⟩]⟩,
  ⟨"TRIGCNT", 0x14, 1, 1, 1, 1, 0x0,
    [⟨"IGNORED", 31, 16, .ro, .immediate, false, none⟩, ⟨"ACCEPTED", 15, 0, .ro, .immediate, false, none⟩]⟩,
  ⟨"LB", 0x18, 1, 1, 1, 1, 0x1,
    [⟨"COUNT", 31, 16, .ro, .immediate, false, none⟩, ⟨"ASYMALT", 0, 0, .rw, .staged, false, none⟩]⟩,
  ⟨"LBREF", 0x1C, 1, 1, 1, 1, 0x3333,
    [⟨"ASYM", 15, 0, .ro, .immediate, false, none⟩]⟩,
  ⟨"VTXB", 0x20, 1, 1, 1, 1, 0x0,
    [⟨"MV", 13, 0, .ro, .immediate, false, none⟩]⟩,
  ⟨"WIN", 0x24, 1, 1, 1, 1, 0x0,
    [⟨"SHOTS", 23, 16, .ro, .immediate, false, none⟩, ⟨"LEN", 15, 0, .ro, .immediate, false, none⟩]⟩,
  ⟨"P0PORT", 0x100, 1, 1, 1, 1, 0x110,
    [⟨"EN", 31, 31, .rw, .staged, false, none⟩, ⟨"RECIP", 8, 8, .rw, .staged, false, none⟩, ⟨"PORTD", 6, 4, .rw, .locked, false, none⟩, ⟨"PORTU", 2, 0, .rw, .locked, false, none⟩]⟩,
  ⟨"P1PORT", 0x140, 1, 1, 1, 1, 0x132,
    [⟨"EN", 31, 31, .rw, .staged, false, none⟩, ⟨"RECIP", 8, 8, .rw, .staged, false, none⟩, ⟨"PORTD", 6, 4, .rw, .locked, false, none⟩, ⟨"PORTU", 2, 0, .rw, .locked, false, none⟩]⟩] ++ [
  ⟨"P2PORT", 0x180, 1, 1, 1, 1, 0x154,
    [⟨"EN", 31, 31, .rw, .staged, false, none⟩, ⟨"RECIP", 8, 8, .rw, .staged, false, none⟩, ⟨"PORTD", 6, 4, .rw, .locked, false, none⟩, ⟨"PORTU", 2, 0, .rw, .locked, false, none⟩]⟩,
  ⟨"P3PORT", 0x1C0, 1, 1, 1, 1, 0x176,
    [⟨"EN", 31, 31, .rw, .staged, false, none⟩, ⟨"RECIP", 8, 8, .rw, .staged, false, none⟩, ⟨"PORTD", 6, 4, .rw, .locked, false, none⟩, ⟨"PORTU", 2, 0, .rw, .locked, false, none⟩]⟩,
  ⟨"P#FIRE", 0x104, 4, 0x40, 1, 1, 0x601C3C,
    [⟨"DIV", 25, 16, .rw, .staged, false, some (24, 960)⟩, ⟨"CYCLES", 15, 10, .rw, .staged, false, none⟩, ⟨"CPC", 9, 8, .rw, .staged, false, none⟩, ⟨"LOG2LEN", 6, 4, .rw, .staged, false, some (2, 6)⟩, ⟨"POLALT", 3, 3, .rw, .staged, false, none⟩, ⟨"BINV", 2, 2, .rw, .staged, false, none⟩, ⟨"KIND", 1, 0, .rw, .staged, false, some (0, 2)⟩]⟩,
  ⟨"P#CHIRP", 0x108, 4, 0x40, 1, 1, 0x200050,
    [⟨"CLEN", 23, 16, .rw, .staged, false, some (8, 128)⟩, ⟨"DIV1", 9, 0, .rw, .staged, false, some (24, 960)⟩]⟩,
  ⟨"P#TIME", 0x10C, 4, 0x40, 1, 1, 0x15E02A0,
    [⟨"GAP", 27, 16, .rw, .staged, false, some (40, 4095)⟩, ⟨"WINDLY", 15, 0, .rw, .staged, false, none⟩]⟩,
  ⟨"P#RX", 0x110, 4, 0x40, 1, 1, 0x9C001020,
    [⟨"AGCEN", 31, 31, .rw, .staged, false, none⟩, ⟨"GMAX", 28, 24, .rw, .staged, false, some (0, 28)⟩, ⟨"GMIN", 20, 16, .rw, .staged, false, some (0, 28)⟩, ⟨"GINIT", 12, 8, .rw, .staged, false, some (0, 28)⟩, ⟨"CAPLEN", 5, 4, .rw, .staged, false, some (0, 2)⟩, ⟨"FSDIV", 1, 0, .rw, .staged, false, none⟩]⟩,
  ⟨"P#DUR", 0x114, 4, 0x40, 1, 1, 0x3C003C,
    [⟨"PDUR", 27, 16, .ro, .immediate, false, none⟩, ⟨"DUR", 11, 0, .ro, .immediate, false, none⟩]⟩,
  ⟨"P#STAT", 0x118, 4, 0x40, 1, 1, 0x10,
    [⟨"POL", 11, 11, .ro, .immediate, false, none⟩, ⟨"SKIPPED", 10, 10, .w1c, .immediate, false, none⟩, ⟨"CLIP", 9, 9, .w1c, .immediate, false, none⟩, ⟨"ZSTALE", 8, 8, .ro, .immediate, false, none⟩, ⟨"GAIN", 4, 0, .ro, .immediate, false, none⟩]⟩,
  ⟨"UCODE#", 0x800, 128, 0x4, 1, 1, 0x0,
    [⟨"WORD", 31, 0, .ro, .immediate, false, none⟩]⟩]

/-- The SHOT registers (06_shot_processing.md). -/
def shotRows : List RegRow := [
  ⟨"ZCCFG", 0x0, 1, 1, 1, 1, 0x800028F,
    [⟨"TIMEOUT", 31, 16, .rw, .staged, false, some (512, 65535)⟩, ⟨"SPREAD", 15, 0, .rw, .staged, false, some (1, 65535)⟩]⟩,
  ⟨"ZCMAX", 0x4, 1, 1, 1, 1, 0x200,
    [⟨"MAXOFF", 15, 0, .rw, .staged, false, some (1, 65535)⟩]⟩,
  ⟨"ZCSTAT", 0x8, 1, 1, 1, 1, 0x0,
    [⟨"LEAST", 24, 16, .ro, .immediate, false, none⟩, ⟨"CAUSE", 11, 8, .ro, .immediate, false, none⟩, ⟨"RESULT", 5, 4, .ro, .immediate, false, none⟩, ⟨"MP", 2, 2, .ro, .immediate, false, none⟩, ⟨"STATE", 1, 0, .ro, .immediate, false, none⟩]⟩,
  ⟨"LBSYM", 0xC, 1, 1, 1, 1, 0x0,
    [⟨"DTOF", 31, 0, .ro, .immediate, true, none⟩]⟩,
  ⟨"LBASYM", 0x10, 1, 1, 1, 1, 0x0,
    [⟨"DTOF", 31, 0, .ro, .immediate, true, none⟩]⟩,
  ⟨"LBSTAT", 0x14, 1, 1, 1, 1, 0x0,
    [⟨"ASEEN", 9, 9, .ro, .immediate, false, none⟩, ⟨"SSEEN", 8, 8, .ro, .immediate, false, none⟩, ⟨"ACLASS", 6, 4, .ro, .immediate, false, none⟩, ⟨"SCLASS", 2, 0, .ro, .immediate, false, none⟩]⟩,
  ⟨"RULEA", 0x40, 1, 1, 1, 1, 0x100404,
    [⟨"MEDIAN_TICKS", 23, 16, .rw, .staged, false, some (1, 255)⟩, ⟨"HOLD_TICKS", 11, 8, .rw, .staged, false, none⟩, ⟨"EP_COUNT", 3, 0, .rw, .staged, false, some (1, 15)⟩]⟩,
  ⟨"MSTATA", 0x44, 1, 1, 1, 1, 0x0,
    [⟨"EMPTY", 31, 31, .ro, .immediate, false, none⟩, ⟨"UNKNOWN", 30, 30, .ro, .immediate, false, none⟩, ⟨"RECTICK", 29, 29, .ro, .immediate, false, none⟩, ⟨"RECOV", 23, 16, .ro, .immediate, false, none⟩, ⟨"CLRCNT", 11, 8, .ro, .immediate, false, none⟩, ⟨"EPCNT", 3, 0, .ro, .immediate, false, none⟩]⟩,
  ⟨"RULEB", 0x48, 1, 1, 1, 1, 0x100404,
    [⟨"MEDIAN_TICKS", 23, 16, .rw, .staged, false, some (1, 255)⟩, ⟨"HOLD_TICKS", 11, 8, .rw, .staged, false, none⟩, ⟨"EP_COUNT", 3, 0, .rw, .staged, false, some (1, 15)⟩]⟩,
  ⟨"MSTATB", 0x4C, 1, 1, 1, 1, 0x0,
    [⟨"EMPTY", 31, 31, .ro, .immediate, false, none⟩, ⟨"UNKNOWN", 30, 30, .ro, .immediate, false, none⟩, ⟨"RECTICK", 29, 29, .ro, .immediate, false, none⟩, ⟨"RECOV", 23, 16, .ro, .immediate, false, none⟩, ⟨"CLRCNT", 11, 8, .ro, .immediate, false, none⟩, ⟨"EPCNT", 3, 0, .ro, .immediate, false, none⟩]⟩,
  ⟨"P#VAL", 0x100, 4, 0x40, 1, 1, 0x801850,
    [⟨"BIRMIN", 23, 16, .rw, .staged, false, some (1, 255)⟩, ⟨"SLMIN", 15, 8, .rw, .staged, false, none⟩, ⟨"SNRMIN", 7, 0, .rw, .staged, false, some (40, 240)⟩]⟩,
  ⟨"P#AWIN", 0x104, 4, 0x40, 1, 1, 0xFFFF0008,
    [⟨"AMAX", 31, 16, .rw, .staged, false, none⟩, ⟨"AMIN", 15, 0, .rw, .staged, false, none⟩]⟩] ++ [
  ⟨"P#LIM", 0x108, 4, 0x40, 1, 1, 0x20001000,
    [⟨"DEPTHR", 31, 16, .rw, .staged, false, none⟩, ⟨"MEDLIM", 15, 0, .rw, .staged, false, some (1, 65535)⟩]⟩,
  ⟨"P#ZOFF", 0x10C, 4, 0x40, 1, 1, 0x0,
    [⟨"ZOFF", 31, 0, .ro, .immediate, true, none⟩]⟩,
  ⟨"P#DELTA", 0x110, 4, 0x40, 1, 1, 0x0,
    [⟨"DELTA", 31, 0, .ro, .immediate, true, none⟩]⟩,
  ⟨"P#ZSPR", 0x114, 4, 0x40, 1, 1, 0x0,
    [⟨"SPREAD", 15, 0, .ro, .immediate, false, none⟩]⟩,
  ⟨"P#TDT", 0x118, 4, 0x40, 1, 1, 0x0,
    [⟨"DTOF", 31, 0, .ro, .immediate, true, none⟩]⟩,
  ⟨"P#TUP", 0x11C, 4, 0x40, 1, 1, 0x0,
    [⟨"TOF", 31, 0, .ro, .immediate, false, none⟩]⟩,
  ⟨"P#TDN", 0x120, 4, 0x40, 1, 1, 0x0,
    [⟨"TOF", 31, 0, .ro, .immediate, false, none⟩]⟩,
  ⟨"P#TSTAT", 0x124, 4, 0x40, 1, 1, 0x2000000,
    [⟨"STATE", 25, 24, .ro, .immediate, false, none⟩, ⟨"HELDCNT", 23, 20, .ro, .immediate, false, none⟩, ⟨"NREJ", 19, 15, .ro, .immediate, false, none⟩, ⟨"NVOID", 14, 10, .ro, .immediate, false, none⟩, ⟨"NHALF", 9, 5, .ro, .immediate, false, none⟩, ⟨"NVALID", 4, 0, .ro, .immediate, false, none⟩]⟩,
  ⟨"P#CNT0", 0x128, 4, 0x40, 1, 1, 0x0,
    [⟨"HALF", 31, 16, .ro, .immediate, false, none⟩, ⟨"VALID", 15, 0, .ro, .immediate, false, none⟩]⟩,
  ⟨"P#CNT1", 0x12C, 4, 0x40, 1, 1, 0x0,
    [⟨"TIMEOUT", 31, 16, .ro, .immediate, false, none⟩, ⟨"SIDELOBE", 15, 0, .ro, .immediate, false, none⟩]⟩,
  ⟨"P#CNT2", 0x130, 4, 0x40, 1, 1, 0x0,
    [⟨"REJECTED", 31, 16, .ro, .immediate, false, none⟩, ⟨"AMPLITUDE", 15, 0, .ro, .immediate, false, none⟩]⟩,
  ⟨"P#DEP", 0x134, 4, 0x40, 1, 1, 0x0,
    [⟨"FLAG", 31, 31, .ro, .immediate, false, none⟩, ⟨"RATIO", 15, 0, .ro, .immediate, false, none⟩]⟩] ++ [
  ⟨"P#DREF", 0x138, 4, 0x40, 1, 1, 0x0,
    [⟨"DREF", 19, 0, .ro, .immediate, false, none⟩]⟩]

/-- The MP registers; `cfgRst` is the reset value of MP_CFG in the instance. -/
def mpRows (cfgRst : Nat) : List RegRow := [
  ⟨"CTRL", 0x0, 1, 1, 1, 1, 0x0,
    [⟨"SVC", 1, 1, .rw, .staged, false, none⟩, ⟨"EN", 0, 0, .rw, .staged, false, none⟩]⟩,
  ⟨"CFG", 0x4, 1, 1, 1, 1, cfgRst,
    [⟨"SENS2", 23, 20, .rw, .locked, false, none⟩, ⟨"SENS1", 19, 16, .rw, .locked, false, none⟩, ⟨"PATHS", 11, 8, .rw, .locked, false, none⟩, ⟨"POS", 6, 6, .rw, .locked, false, none⟩, ⟨"APPL", 5, 4, .rw, .locked, false, none⟩, ⟨"MEDIUM", 3, 0, .rw, .locked, false, none⟩]⟩,
  ⟨"GEOM", 0x8, 1, 1, 1, 1, 0x4E20,
    [⟨"D", 23, 0, .rw, .locked, false, some (1000, 2000000)⟩]⟩,
  ⟨"WPRESS", 0xC, 1, 1, 1, 1, 0x3E8,
    [⟨"P", 15, 0, .rw, .staged, false, some (100, 4000)⟩]⟩,
  ⟨"DT", 0x10, 1, 1, 1, 1, 0x1905,
    [⟨"DTC", 15, 8, .rw, .staged, false, none⟩, ⟨"DTH", 7, 0, .rw, .staged, false, none⟩]⟩,
  ⟨"LIMITS", 0x14, 1, 1, 1, 1, 0x640010,
    [⟨"REVTH", 31, 16, .rw, .staged, false, none⟩, ⟨"QCUT", 15, 0, .rw, .staged, false, none⟩]⟩,
  ⟨"PULSE", 0x18, 1, 1, 1, 1, 0x3E8,
    [⟨"BASE", 24, 24, .rw, .staged, false, none⟩, ⟨"QUANT", 23, 0, .rw, .staged, false, some (1, 16777215)⟩]⟩,
  ⟨"PATM", 0x1C, 1, 1, 1, 1, 0x18BCD00,
    [⟨"PATM", 31, 0, .rw, .staged, false, none⟩]⟩,
  ⟨"GAS0", 0x20, 1, 1, 1, 1, 0x999A0FA0,
    [⟨"D", 31, 16, .rw, .staged, false, some (36045, 58982)⟩, ⟨"HS", 15, 0, .rw, .staged, false, some (3000, 4500)⟩]⟩,
  ⟨"GAS1", 0x24, 1, 1, 1, 1, 0xC1C19000,
    [⟨"GAMMA", 31, 20, .rw, .staged, false, some (2500, 4000)⟩, ⟨"XCO2", 19, 10, .rw, .staged, false, some (0, 1000)⟩, ⟨"XH2", 9, 0, .rw, .staged, false, some (0, 300)⟩]⟩,
  ⟨"GASB", 0x28, 1, 1, 1, 1, 0x2,
    [⟨"PMODE", 1, 1, .rw, .locked, false, none⟩, ⟨"TB", 0, 0, .rw, .locked, false, none⟩]⟩,
  ⟨"PSUB", 0x2C, 1, 1, 1, 1, 0x18BCD00,
    [⟨"PSUB", 31, 0, .rw, .staged, false, none⟩]⟩] ++ [
  ⟨"TSUB", 0x30, 1, 1, 1, 1, 0xF0000,
    [⟨"TSUB", 31, 0, .rw, .staged, true, none⟩]⟩,
  ⟨"STAT", 0x200, 1, 1, 1, 1, 0x4,
    [⟨"CFGERR", 31, 31, .ro, .immediate, false, none⟩, ⟨"SIGNTAMP", 22, 22, .w1c, .immediate, false, none⟩, ⟨"REVTAMP", 21, 21, .w1c, .immediate, false, none⟩, ⟨"PLAUSFLT", 20, 20, .w1c, .immediate, false, none⟩, ⟨"PLAUSCNT", 19, 16, .ro, .immediate, false, none⟩, ⟨"T0ERR", 15, 15, .ro, .immediate, false, none⟩, ⟨"OVERRUN", 14, 14, .ro, .immediate, false, none⟩, ⟨"CALC", 13, 13, .ro, .immediate, false, none⟩, ⟨"ZSTALE", 12, 12, .ro, .immediate, false, none⟩, ⟨"OUTRANGE", 11, 11, .ro, .immediate, false, none⟩, ⟨"SUBST", 10, 10, .ro, .immediate, false, none⟩, ⟨"PINVALID", 9, 9, .ro, .immediate, false, none⟩, ⟨"TINVALID", 8, 8, .ro, .immediate, false, none⟩, ⟨"COOL", 7, 7, .ro, .immediate, false, none⟩, ⟨"HEAT", 6, 6, .ro, .immediate, false, none⟩, ⟨"FLOWSAT", 5, 5, .ro, .immediate, false, none⟩, ⟨"REVERSE", 4, 4, .ro, .immediate, false, none⟩, ⟨"LOWCUT", 3, 3, .ro, .immediate, false, none⟩, ⟨"FSTATE", 2, 0, .ro, .immediate, false, none⟩]⟩,
  ⟨"FLOW", 0x204, 1, 1, 1, 1, 0x0,
    [⟨"FLOW", 31, 0, .ro, .immediate, true, none⟩]⟩,
  ⟨"FLOWW", 0x208, 1, 1, 1, 1, 0x0,
    [⟨"FLOW", 31, 0, .ro, .immediate, true, none⟩]⟩,
  ⟨"VEL", 0x20C, 1, 1, 1, 1, 0x0,
    [⟨"VEL", 31, 0, .ro, .immediate, true, none⟩]⟩,
  ⟨"RE", 0x210, 1, 1, 1, 1, 0x0,
    [⟨"RE", 31, 0, .ro, .immediate, false, none⟩]⟩,
  ⟨"KPROF", 0x214, 1, 1, 1, 1, 0x0,
    [⟨"K", 31, 0, .ro, .immediate, false, none⟩]⟩,
  ⟨"TF", 0x218, 1, 1, 1, 1, 0x0,
    [⟨"T", 31, 0, .ro, .immediate, true, none⟩]⟩,
  ⟨"TR", 0x21C, 1, 1, 1, 1, 0x0,
    [⟨"T", 31, 0, .ro, .immediate, true, none⟩]⟩,
  ⟨"TAC", 0x220, 1, 1, 1, 1, 0x0,
    [⟨"T", 31, 0, .ro, .immediate, true, none⟩]⟩,
  ⟨"SOS", 0x224, 1, 1, 1, 1, 0x0,
    [⟨"C", 31, 0, .ro, .immediate, false, none⟩]⟩,
  ⟨"PRESS", 0x228, 1, 1, 1, 1, 0x0,
    [⟨"P", 31, 0, .ro, .immediate, false, none⟩]⟩] ++ [
  ⟨"POWER", 0x22C, 1, 1, 1, 1, 0x0,
    [⟨"POWER", 31, 0, .ro, .immediate, true, none⟩]⟩,
  ⟨"CONV", 0x230, 1, 1, 1, 1, 0x0,
    [⟨"C", 31, 0, .ro, .immediate, false, none⟩]⟩,
  ⟨"Z", 0x234, 1, 1, 1, 1, 0x0,
    [⟨"Z", 31, 0, .ro, .immediate, false, none⟩]⟩,
  ⟨"ZB", 0x238, 1, 1, 1, 1, 0x0,
    [⟨"Z", 31, 0, .ro, .immediate, false, none⟩]⟩,
  ⟨"XH2E", 0x23C, 1, 1, 1, 1, 0x0,
    [⟨"CLAMP", 17, 17, .ro, .immediate, false, none⟩, ⟨"VALID", 16, 16, .ro, .immediate, false, none⟩, ⟨"XH2", 15, 0, .ro, .immediate, false, none⟩]⟩,
  ⟨"P#LEN", 0x40, 4, 0x10, 1, 1, 0x124F8,
    [⟨"LEN", 31, 0, .rw, .locked, false, some (1000, 4000000)⟩]⟩,
  ⟨"P#AX", 0x44, 4, 0x10, 1, 1, 0x124F8,
    [⟨"AX", 31, 0, .rw, .locked, false, some (1000, 4000000)⟩]⟩,
  ⟨"P#T0", 0x48, 4, 0x10, 1, 1, 0x70800,
    [⟨"T0", 31, 0, .rw, .locked, false, none⟩]⟩,
  ⟨"P#W", 0x4C, 4, 0x10, 1, 1, 0x20000000,
    [⟨"W", 31, 0, .rw, .locked, false, some (0, 2147483648)⟩]⟩,
  ⟨"KRE0", 0x100, 1, 1, 1, 1, 0x0,
    [⟨"RE", 31, 0, .rw, .locked, false, none⟩]⟩,
  ⟨"KRE#", 0x100, 16, 0x8, 1, 1, 0xFFFFFFFF,
    [⟨"RE", 31, 0, .rw, .locked, false, none⟩]⟩,
  ⟨"KF#", 0x104, 16, 0x8, 1, 1, 0x40000000,
    [⟨"K", 31, 0, .rw, .locked, false, none⟩]⟩]

/-- The SENS registers (07_meter_points.md). -/
def sensRows : List RegRow := [
  ⟨"CTRL", 0x0, 1, 1, 1, 1, 0x0,
    [⟨"EN", 16, 16, .rw, .staged, false, none⟩, ⟨"REFEXT", 15, 15, .rw, .locked, false, none⟩, ⟨"REFSEL", 14, 12, .rw, .locked, false, some (0, 5)⟩, ⟨"PBEN", 8, 8, .rw, .staged, false, none⟩, ⟨"TSEN", 5, 0, .rw, .staged, false, none⟩]⟩,
  ⟨"CAD", 0x4, 1, 1, 1, 1, 0x2020,
    [⟨"BR_DIV", 15, 8, .rw, .staged, false, some (1, 255)⟩, ⟨"RTD_DIV", 7, 0, .rw, .staged, false, some (1, 255)⟩]⟩,
  ⟨"RREF", 0x8, 1, 1, 1, 1, 0xF424000,
    [⟨"RREF", 31, 0, .rw, .locked, false, none⟩]⟩,
  ⟨"SEQ", 0xC, 1, 1, 1, 1, 0x0,
    [⟨"PSEQ", 31, 16, .ro, .immediate, false, none⟩, ⟨"TSEQ", 15, 0, .ro, .immediate, false, none⟩]⟩,
  ⟨"T#CFG", 0x40, 6, 0x10, 1, 1, 0x2,
    [⟨"LEAD", 31, 16, .rw, .locked, false, none⟩, ⟨"REF", 3, 3, .rw, .locked, false, none⟩, ⟨"WIRES", 2, 2, .rw, .locked, false, none⟩, ⟨"TYPE", 1, 0, .rw, .locked, false, some (0, 2)⟩]⟩,
  ⟨"T#CAL", 0x44, 6, 0x10, 1, 1, 0x0,
    [⟨"GAIN", 31, 16, .rw, .locked, true, none⟩, ⟨"OFF", 15, 0, .rw, .locked, true, none⟩]⟩,
  ⟨"T#VAL", 0x48, 6, 0x10, 1, 1, 0x0,
    [⟨"T", 31, 0, .ro, .immediate, true, none⟩]⟩,
  ⟨"T#STAT", 0x4C, 6, 0x10, 1, 1, 0xC0000000,
    [⟨"STATE", 31, 30, .ro, .immediate, false, none⟩, ⟨"RES", 23, 0, .ro, .immediate, false, none⟩]⟩,
  ⟨"PBCFG#", 0x100, 3, 0x4, 1, 1, 0x0,
    [⟨"P", 31, 0, .rw, .locked, true, none⟩]⟩,
  ⟨"PBVAL", 0x10C, 1, 1, 1, 1, 0x0,
    [⟨"P", 31, 0, .ro, .immediate, true, none⟩]⟩,
  ⟨"PBSTAT", 0x110, 1, 1, 1, 1, 0xC0000000,
    [⟨"STATE", 31, 30, .ro, .immediate, false, none⟩, ⟨"RATIO", 23, 0, .ro, .immediate, true, none⟩]⟩]

/-- The RTC registers (08_clock_backup.md). -/
def rtcRows : List RegRow := [
  ⟨"SEC", 0x0, 1, 1, 1, 1, 0x0,
    [⟨"SEC", 31, 0, .rw, .immediate, false, none⟩]⟩,
  ⟨"FRAC", 0x4, 1, 1, 1, 1, 0x0,
    [⟨"FRAC", 15, 0, .ro, .immediate, false, none⟩]⟩,
  ⟨"CTRL", 0x8, 1, 1, 1, 1, 0x0,
    [⟨"CAPTURE", 0, 0, .wo, .immediate, false, none⟩]⟩,
  ⟨"CAPSEC", 0xC, 1, 1, 1, 1, 0x0,
    [⟨"SEC", 31, 0, .ro, .immediate, false, none⟩]⟩,
  ⟨"CAPFRAC", 0x10, 1, 1, 1, 1, 0x0,
    [⟨"FRAC", 15, 0, .ro, .immediate, false, none⟩]⟩,
  ⟨"CALD", 0x14, 1, 1, 1, 1, 0x101,
    [⟨"YEAR", 23, 16, .ro, .immediate, false, none⟩, ⟨"MONTH", 11, 8, .ro, .immediate, false, none⟩, ⟨"DAY", 4, 0, .ro, .immediate, false, none⟩]⟩,
  ⟨"CALT", 0x18, 1, 1, 1, 1, 0x6000000,
    [⟨"WDAY", 26, 24, .ro, .immediate, false, none⟩, ⟨"HOUR", 20, 16, .ro, .immediate, false, none⟩, ⟨"MINUTE", 13, 8, .ro, .immediate, false, none⟩, ⟨"SECOND", 5, 0, .ro, .immediate, false, none⟩]⟩,
  ⟨"SETD", 0x1C, 1, 1, 1, 1, 0x0,
    [⟨"YEAR", 23, 16, .wo, .immediate, false, none⟩, ⟨"MONTH", 11, 8, .wo, .immediate, false, none⟩, ⟨"DAY", 4, 0, .wo, .immediate, false, none⟩]⟩,
  ⟨"SETT", 0x20, 1, 1, 1, 1, 0x0,
    [⟨"HOUR", 20, 16, .wo, .immediate, false, none⟩, ⟨"MINUTE", 13, 8, .wo, .immediate, false, none⟩, ⟨"SECOND", 5, 0, .wo, .immediate, false, none⟩]⟩,
  ⟨"STAT", 0x24, 1, 1, 1, 1, 0x3,
    [⟨"RETERR", 10, 10, .w1c, .immediate, false, none⟩, ⟨"CDTEXP", 9, 9, .w1c, .immediate, false, none⟩, ⟨"CLAMPED", 8, 8, .w1c, .immediate, false, none⟩, ⟨"STEPUNTR", 7, 7, .w1c, .immediate, false, none⟩, ⟨"STEPPED", 6, 6, .w1c, .immediate, false, none⟩, ⟨"CBUSY", 5, 5, .ro, .immediate, false, none⟩, ⟨"WBUSY", 4, 4, .ro, .immediate, false, none⟩, ⟨"WRAP", 3, 3, .ro, .immediate, false, none⟩, ⟨"XT32STOP", 2, 2, .ro, .immediate, false, none⟩, ⟨"BKPOR", 1, 1, .ro, .immediate, false, none⟩, ⟨"OSF", 0, 0, .ro, .immediate, false, none⟩]⟩,
  ⟨"STEP", 0x28, 1, 1, 1, 1, 0x0,
    [⟨"STEP", 31, 0, .ro, .immediate, true, none⟩]⟩,
  ⟨"STEPFRAC", 0x2C, 1, 1, 1, 1, 0x0,
    [⟨"FRAC", 15, 0, .ro, .immediate, false, none⟩]⟩] ++ [
  ⟨"TRIM", 0x30, 1, 1, 1, 1, 0x0,
    [⟨"APPLIED", 26, 16, .ro, .immediate, true, none⟩, ⟨"VAL", 10, 0, .rw, .staged, true, some (-1023, 1023)⟩]⟩,
  ⟨"CDT", 0x34, 1, 1, 1, 1, 0x0,
    [⟨"COUNT", 23, 0, .rw, .immediate, false, none⟩]⟩,
  ⟨"TICKSEC", 0x38, 1, 1, 1, 1, 0x0,
    [⟨"SEC", 31, 0, .ro, .immediate, false, none⟩]⟩,
  ⟨"TICKFRAC", 0x3C, 1, 1, 1, 1, 0x0,
    [⟨"FRAC", 15, 0, .ro, .immediate, false, none⟩]⟩,
  ⟨"RET#", 0x40, 16, 0x4, 1, 1, 0x0,
    [⟨"DATA", 31, 0, .rw, .immediate, false, none⟩]⟩]

/-- The BILL registers (09_billing.md). -/
def billRows : List RegRow := [
  ⟨"CFG", 0x0, 1, 1, 1, 1, 0x1E0002,
    [⟨"SYNC", 23, 16, .rw, .staged, false, some (1, 255)⟩, ⟨"DEMLEN", 2, 0, .rw, .staged, false, some (0, 4)⟩]⟩,
  ⟨"PER", 0x4, 1, 1, 1, 1, 0x1010001,
    [⟨"EVERY", 27, 24, .rw, .staged, false, some (1, 12)⟩, ⟨"FIRST", 19, 16, .rw, .staged, false, some (1, 12)⟩, ⟨"HOUR", 12, 8, .rw, .staged, false, some (0, 23)⟩, ⟨"DAY", 4, 0, .rw, .staged, false, some (1, 28)⟩]⟩,
  ⟨"CMD", 0x8, 1, 1, 1, 1, 0x0,
    [⟨"CLOSE", 0, 0, .wo, .immediate, false, none⟩]⟩,
  ⟨"STAT", 0xC, 1, 1, 1, 1, 0x0,
    [⟨"PERIODS", 31, 16, .ro, .immediate, false, none⟩, ⟨"UNTR", 7, 7, .ro, .immediate, false, none⟩, ⟨"STEP", 6, 6, .w1c, .immediate, false, none⟩, ⟨"CATCHUP", 5, 5, .w1c, .immediate, false, none⟩, ⟨"CLOSEPEND", 4, 4, .ro, .immediate, false, none⟩, ⟨"TARIFF", 2, 0, .ro, .immediate, false, none⟩]⟩,
  ⟨"LASTD", 0x10, 1, 1, 1, 1, 0x0,
    [⟨"SEC", 31, 0, .ro, .immediate, false, none⟩]⟩,
  ⟨"LASTP", 0x14, 1, 1, 1, 1, 0x0,
    [⟨"SEC", 31, 0, .ro, .immediate, false, none⟩]⟩,
  ⟨"LASTT", 0x18, 1, 1, 1, 1, 0x0,
    [⟨"SEC", 31, 0, .ro, .immediate, false, none⟩]⟩,
  ⟨"SWCNT", 0x1C, 1, 1, 1, 1, 0x0,
    [⟨"SWITCHES", 15, 0, .ro, .immediate, false, none⟩]⟩,
  ⟨"ADJCNT", 0x20, 1, 1, 1, 1, 0x0,
    [⟨"STEPS", 31, 16, .ro, .immediate, false, none⟩, ⟨"SYNCS", 15, 0, .ro, .immediate, false, none⟩]⟩,
  ⟨"JRNL", 0x24, 1, 1, 1, 1, 0x0,
    [⟨"HEAD", 24, 16, .ro, .immediate, false, none⟩, ⟨"PEND", 7, 4, .ro, .immediate, false, none⟩, ⟨"OPEN", 3, 3, .ro, .immediate, false, none⟩]⟩,
  ⟨"JSEQ", 0x28, 1, 1, 1, 1, 0x0,
    [⟨"SEQ", 31, 0, .ro, .immediate, false, none⟩]⟩,
  ⟨"AREG#_#", 0x400, 64, 0x10, 3, 0x4, 0x0,
    [⟨"VALUE", 31, 0, .ro, .immediate, false, none⟩]⟩] ++ [
  ⟨"AMD#", 0xC00, 3, 0x8, 1, 1, 0x0,
    [⟨"MD", 31, 0, .ro, .immediate, false, none⟩]⟩,
  ⟨"AMDT#", 0xC04, 3, 0x8, 1, 1, 0x0,
    [⟨"SEC", 31, 0, .ro, .immediate, false, none⟩]⟩,
  ⟨"ALD#", 0xC20, 3, 0x4, 1, 1, 0x0,
    [⟨"DEM", 31, 0, .ro, .immediate, false, none⟩]⟩,
  ⟨"ALSTART", 0xC30, 1, 1, 1, 1, 0x0,
    [⟨"SEC", 31, 0, .ro, .immediate, false, none⟩]⟩,
  ⟨"ALEND", 0xC34, 1, 1, 1, 1, 0x0,
    [⟨"SEC", 31, 0, .ro, .immediate, false, none⟩]⟩,
  ⟨"ALFLG", 0xC38, 1, 1, 1, 1, 0x0,
    [⟨"SKIPPED", 31, 16, .ro, .immediate, false, none⟩, ⟨"TARIFF", 10, 8, .ro, .immediate, false, none⟩, ⟨"ELIG", 3, 3, .ro, .immediate, false, none⟩, ⟨"UNTR", 2, 2, .ro, .immediate, false, none⟩, ⟨"POWER", 1, 1, .ro, .immediate, false, none⟩, ⟨"SHORT", 0, 0, .ro, .immediate, false, none⟩]⟩,
  ⟨"BREG#_#", 0x800, 64, 0x10, 3, 0x4, 0x0,
    [⟨"VALUE", 31, 0, .ro, .immediate, false, none⟩]⟩,
  ⟨"BMD#", 0xD00, 3, 0x8, 1, 1, 0x0,
    [⟨"MD", 31, 0, .ro, .immediate, false, none⟩]⟩,
  ⟨"BMDT#", 0xD04, 3, 0x8, 1, 1, 0x0,
    [⟨"SEC", 31, 0, .ro, .immediate, false, none⟩]⟩,
  ⟨"BLD#", 0xD20, 3, 0x4, 1, 1, 0x0,
    [⟨"DEM", 31, 0, .ro, .immediate, false, none⟩]⟩,
  ⟨"BLSTART", 0xD30, 1, 1, 1, 1, 0x0,
    [⟨"SEC", 31, 0, .ro, .immediate, false, none⟩]⟩,
  ⟨"BLEND", 0xD34, 1, 1, 1, 1, 0x0,
    [⟨"SEC", 31, 0, .ro, .immediate, false, none⟩]⟩] ++ [
  ⟨"BLFLG", 0xD38, 1, 1, 1, 1, 0x0,
    [⟨"SKIPPED", 31, 16, .ro, .immediate, false, none⟩, ⟨"TARIFF", 10, 8, .ro, .immediate, false, none⟩, ⟨"ELIG", 3, 3, .ro, .immediate, false, none⟩, ⟨"UNTR", 2, 2, .ro, .immediate, false, none⟩, ⟨"POWER", 1, 1, .ro, .immediate, false, none⟩, ⟨"SHORT", 0, 0, .ro, .immediate, false, none⟩]⟩]

/-- The ALM registers (09_billing.md). -/
def almRows : List RegRow := [
  ⟨"SEASON0", 0x0, 1, 1, 1, 1, 0x80000101,
    [⟨"EN", 31, 31, .rw, .staged, false, none⟩, ⟨"WEEK", 18, 16, .rw, .staged, false, none⟩, ⟨"MONTH", 11, 8, .rw, .staged, false, some (1, 12)⟩, ⟨"DAY", 4, 0, .rw, .staged, false, some (1, 31)⟩]⟩,
  ⟨"SEASON#", 0x0, 4, 0x4, 1, 1, 0x0,
    [⟨"EN", 31, 31, .rw, .staged, false, none⟩, ⟨"WEEK", 18, 16, .rw, .staged, false, none⟩, ⟨"MONTH", 11, 8, .rw, .staged, false, some (1, 12)⟩, ⟨"DAY", 4, 0, .rw, .staged, false, some (1, 31)⟩]⟩,
  ⟨"WEEK#", 0x40, 8, 0x4, 1, 1, 0x0,
    [⟨"DAYS", 27, 0, .rw, .staged, false, none⟩]⟩,
  ⟨"DAY#_0", 0x100, 16, 0x20, 1, 1, 0x80000000,
    [⟨"EN", 31, 31, .rw, .staged, false, none⟩, ⟨"TARIFF", 18, 16, .rw, .staged, false, none⟩, ⟨"HOUR", 12, 8, .rw, .staged, false, some (0, 23)⟩, ⟨"MINUTE", 5, 0, .rw, .staged, false, some (0, 59)⟩]⟩,
  ⟨"DAY#_#", 0x100, 16, 0x20, 8, 0x4, 0x0,
    [⟨"EN", 31, 31, .rw, .staged, false, none⟩, ⟨"TARIFF", 18, 16, .rw, .staged, false, none⟩, ⟨"HOUR", 12, 8, .rw, .staged, false, some (0, 23)⟩, ⟨"MINUTE", 5, 0, .rw, .staged, false, some (0, 59)⟩]⟩,
  ⟨"SPEC#", 0x400, 64, 0x4, 1, 1, 0x0,
    [⟨"EN", 31, 31, .rw, .staged, false, none⟩, ⟨"RECUR", 30, 30, .rw, .staged, false, none⟩, ⟨"YEAR", 27, 20, .rw, .staged, false, none⟩, ⟨"MONTH", 19, 16, .rw, .staged, false, some (1, 12)⟩, ⟨"DAY", 15, 11, .rw, .staged, false, some (1, 31)⟩, ⟨"PROFILE", 3, 0, .rw, .staged, false, none⟩]⟩,
  ⟨"STAT", 0x600, 1, 1, 1, 1, 0x0,
    [⟨"TARIFF", 26, 24, .ro, .immediate, false, none⟩, ⟨"SPECIAL", 21, 16, .ro, .immediate, false, none⟩, ⟨"SPECHIT", 15, 15, .ro, .immediate, false, none⟩, ⟨"ENTRY", 14, 12, .ro, .immediate, false, none⟩, ⟨"DAYPROF", 11, 8, .ro, .immediate, false, none⟩, ⟨"WEEK", 6, 4, .ro, .immediate, false, none⟩, ⟨"NOSEASON", 2, 2, .ro, .immediate, false, none⟩, ⟨"SEASON", 1, 0, .ro, .immediate, false, none⟩]⟩]

/-- The PAY registers (09_billing.md). -/
def payRows : List RegRow := [
  ⟨"CFG", 0x0, 1, 1, 1, 1, 0x8004,
    [⟨"FRIENDLY", 23, 16, .rw, .staged, false, none⟩, ⟨"ARM", 15, 15, .rw, .staged, false, none⟩, ⟨"QMP", 10, 10, .rw, .staged, false, none⟩, ⟨"QSEL", 9, 8, .rw, .staged, false, none⟩, ⟨"ECEN", 3, 3, .rw, .staged, false, none⟩, ⟨"KEYEN", 2, 2, .rw, .staged, false, none⟩, ⟨"MODE", 1, 0, .rw, .staged, false, some (0, 2)⟩]⟩,
  ⟨"TKCFG", 0x4, 1, 1, 1, 1, 0x0,
    [⟨"SLOT", 2, 0, .rw, .staged, false, none⟩]⟩,
  ⟨"PRICE#", 0x20, 8, 0x4, 1, 1, 0x0,
    [⟨"PRICE", 31, 0, .rw, .staged, false, none⟩]⟩,
  ⟨"CREDIT_LO", 0x40, 1, 1, 1, 1, 0x0,
    [⟨"CREDIT", 31, 0, .ro, .immediate, false, none⟩]⟩,
  ⟨"CREDIT_HI", 0x44, 1, 1, 1, 1, 0x0,
    [⟨"CREDIT", 31, 0, .ro, .immediate, false, none⟩]⟩,
  ⟨"LOW", 0x48, 1, 1, 1, 1, 0x0,
    [⟨"LOW", 31, 0, .rw, .staged, false, none⟩]⟩,
  ⟨"EC", 0x4C, 1, 1, 1, 1, 0x0,
    [⟨"EC", 31, 0, .rw, .staged, false, none⟩]⟩,
  ⟨"STAT", 0x50, 1, 1, 1, 1, 0x0,
    [⟨"REJRUN", 18, 16, .ro, .immediate, false, none⟩, ⟨"LOCKOUT", 9, 9, .ro, .immediate, false, none⟩, ⟨"ECAVAIL", 8, 8, .ro, .immediate, false, none⟩, ⟨"REMOTE", 7, 7, .ro, .immediate, false, none⟩, ⟨"CMODE", 4, 3, .ro, .immediate, false, none⟩, ⟨"STATE", 2, 0, .ro, .immediate, false, none⟩]⟩,
  ⟨"TKHWM", 0x54, 1, 1, 1, 1, 0x0,
    [⟨"HWM", 21, 0, .ro, .immediate, false, none⟩]⟩,
  ⟨"TKMAP_LO", 0x58, 1, 1, 1, 1, 0x1,
    [⟨"MAP", 31, 0, .ro, .immediate, false, none⟩]⟩,
  ⟨"TKMAP_HI", 0x5C, 1, 1, 1, 1, 0x0,
    [⟨"MAP", 31, 0, .ro, .immediate, false, none⟩]⟩,
  ⟨"TKLAST", 0x60, 1, 1, 1, 1, 0x0,
    [⟨"RESULT", 31, 28, .ro, .immediate, false, none⟩, ⟨"CLASS", 25, 22, .ro, .immediate, false, none⟩, ⟨"ID", 21, 0, .ro, .immediate, false, none⟩]⟩] ++ [
  ⟨"TKCNT", 0x64, 1, 1, 1, 1, 0x0,
    [⟨"REJECTED", 31, 16, .ro, .immediate, false, none⟩, ⟨"ACCEPTED", 15, 0, .ro, .immediate, false, none⟩]⟩,
  ⟨"ACT", 0x70, 1, 1, 1, 1, 0x0,
    [⟨"FBC", 9, 9, .ro, .immediate, false, none⟩, ⟨"FBO", 8, 8, .ro, .immediate, false, none⟩, ⟨"STATE", 6, 4, .ro, .immediate, false, none⟩, ⟨"CMD", 1, 0, .wo, .immediate, false, none⟩]⟩,
  ⟨"VLV", 0x74, 1, 1, 1, 1, 0x500BB8,
    [⟨"EN", 31, 31, .rw, .staged, false, none⟩, ⟨"TIMEOUT", 23, 16, .rw, .staged, false, some (1, 255)⟩, ⟨"PULSE", 15, 0, .rw, .staged, false, some (10, 10000)⟩]⟩]

/-- The RADIO registers (11_radio_link.md). -/
def radioRows : List RegRow := [
  ⟨"CTRL", 0x0, 1, 1, 1, 1, 0x0,
    [⟨"EXTPA", 2, 2, .rw, .staged, false, none⟩, ⟨"EN", 0, 0, .rw, .staged, false, none⟩]⟩,
  ⟨"FREQ", 0x4, 1, 1, 1, 1, 0x33CB1FF0,
    [⟨"HZ", 31, 0, .rw, .staged, false, none⟩]⟩,
  ⟨"MOD", 0x8, 1, 1, 1, 1, 0x5,
    [⟨"RATE", 2, 0, .rw, .staged, false, none⟩]⟩,
  ⟨"PWR", 0xC, 1, 1, 1, 1, 0xE,
    [⟨"LEVEL", 4, 0, .rw, .staged, true, some (-10, 14)⟩]⟩,
  ⟨"CCA", 0x10, 1, 1, 1, 1, 0xA100,
    [⟨"THR", 15, 8, .rw, .staged, true, some (-120, -60)⟩, ⟨"EN", 0, 0, .rw, .staged, false, none⟩]⟩,
  ⟨"DUTY", 0x14, 1, 1, 1, 1, 0x168,
    [⟨"USED", 31, 16, .ro, .immediate, false, none⟩, ⟨"LIMIT", 15, 0, .rw, .staged, false, some (1, 65535)⟩]⟩,
  ⟨"STAT", 0x18, 1, 1, 1, 1, 0x0,
    [⟨"RSSI", 31, 24, .ro, .immediate, true, none⟩, ⟨"STATE", 2, 0, .ro, .immediate, false, none⟩]⟩,
  ⟨"CNT", 0x1C, 1, 1, 1, 1, 0x0,
    [⟨"RX", 31, 16, .ro, .immediate, false, none⟩, ⟨"TX", 15, 0, .ro, .immediate, false, none⟩]⟩]

/-- The LINK registers (11_radio_link.md). -/
def linkRows : List RegRow := [
  ⟨"CFG", 0x0, 1, 1, 1, 1, 0x2040800,
    [⟨"EN", 31, 31, .rw, .staged, false, none⟩, ⟨"SAMPEN", 30, 30, .rw, .staged, false, none⟩, ⟨"PLAIN", 29, 29, .rw, .staged, false, none⟩, ⟨"JOINEN", 28, 28, .rw, .staged, false, none⟩, ⟨"CSI", 26, 24, .rw, .staged, false, some (0, 5)⟩, ⟨"JSLOT", 22, 20, .rw, .staged, false, none⟩, ⟨"RETRIES", 19, 16, .rw, .staged, false, some (1, 15)⟩, ⟨"TRAINMAX", 15, 8, .rw, .staged, false, none⟩]⟩,
  ⟨"ADDR", 0x4, 1, 1, 1, 1, 0xFFFE,
    [⟨"ADDR", 15, 0, .rw, .staged, false, some (0, 65534)⟩]⟩,
  ⟨"DRIFT", 0x8, 1, 1, 1, 1, 0x5008,
    [⟨"DRIFTB", 15, 8, .rw, .staged, false, none⟩, ⟨"DRIFTR", 7, 0, .rw, .staged, false, none⟩]⟩,
  ⟨"TXSEQ", 0xC, 1, 1, 1, 1, 0x0,
    [⟨"SEQ", 15, 0, .ro, .immediate, false, none⟩]⟩,
  ⟨"STAT", 0x10, 1, 1, 1, 1, 0x0,
    [⟨"QUEUED", 31, 16, .ro, .immediate, false, none⟩, ⟨"WMBKEY", 3, 3, .ro, .immediate, false, none⟩, ⟨"FCEXH", 2, 2, .ro, .immediate, false, none⟩, ⟨"RESWAIT", 1, 1, .ro, .immediate, false, none⟩, ⟨"JOINED", 0, 0, .ro, .immediate, false, none⟩]⟩,
  ⟨"CNT0", 0x14, 1, 1, 1, 1, 0x0,
    [⟨"DUPACK", 31, 16, .ro, .immediate, false, none⟩, ⟨"MICFAIL", 15, 0, .ro, .immediate, false, none⟩]⟩,
  ⟨"CNT1", 0x18, 1, 1, 1, 1, 0x0,
    [⟨"FAILED", 31, 16, .ro, .immediate, false, none⟩, ⟨"FALLBACK", 15, 0, .ro, .immediate, false, none⟩]⟩,
  ⟨"CNT2", 0x1C, 1, 1, 1, 1, 0x0,
    [⟨"QFULL", 31, 16, .ro, .immediate, false, none⟩, ⟨"STALE", 15, 0, .ro, .immediate, false, none⟩]⟩,
  ⟨"WMB", 0x20, 1, 1, 1, 1, 0x28000078,
    [⟨"EN", 31, 31, .rw, .staged, false, none⟩, ⟨"MODE", 30, 28, .rw, .staged, false, some (0, 3)⟩, ⟨"FMTB", 27, 27, .rw, .staged, false, none⟩, ⟨"SLOT", 26, 24, .rw, .staged, false, none⟩, ⟨"SEC", 23, 23, .rw, .staged, false, none⟩, ⟨"GASBASE", 22, 22, .rw, .staged, false, none⟩, ⟨"NCH", 21, 16, .rw, .staged, false, none⟩, ⟨"INTERVAL", 15, 0, .rw, .staged, false, some (2, 65535)⟩]⟩,
  ⟨"WMBID", 0x24, 1, 1, 1, 1, 0x0,
    [⟨"ID", 31, 0, .rw, .staged, false, none⟩]⟩,
  ⟨"WMBHDR", 0x28, 1, 1, 1, 1, 0x6B5A0104,
    [⟨"MFR", 31, 16, .rw, .staged, false, none⟩, ⟨"VER", 15, 8, .rw, .staged, false, none⟩, ⟨"TYPE", 7, 0, .rw, .staged, false, none⟩]⟩,
  ⟨"WMBOBJ#", 0x30, 4, 0x4, 1, 1, 0x0,
    [⟨"ENTRY", 31, 0, .rw, .staged, false, none⟩]⟩] ++ [
  ⟨"FC#", 0x100, 8, 0x4, 1, 1, 0x0,
    [⟨"FC", 31, 0, .ro, .immediate, false, none⟩]⟩,
  ⟨"NB#_A", 0x400, 32, 0x20, 1, 1, 0x0,
    [⟨"VALID", 31, 31, .rw, .staged, false, none⟩, ⟨"CSI", 30, 28, .rw, .staged, false, none⟩, ⟨"KEY", 26, 24, .rw, .staged, false, none⟩, ⟨"KID", 23, 16, .rw, .staged, false, none⟩, ⟨"ADDR", 15, 0, .rw, .staged, false, none⟩]⟩,
  ⟨"NB#_B", 0x404, 32, 0x20, 1, 1, 0x0,
    [⟨"PHASEOK", 31, 31, .ro, .immediate, false, none⟩, ⟨"DRIFTOK", 30, 30, .ro, .immediate, false, none⟩, ⟨"SEQOK", 29, 29, .ro, .immediate, false, none⟩, ⟨"ACKST", 27, 26, .ro, .immediate, false, none⟩, ⟨"LASTSEQ", 15, 0, .ro, .immediate, false, none⟩]⟩,
  ⟨"NB#_C", 0x408, 32, 0x20, 1, 1, 0x0,
    [⟨"PSEC", 31, 0, .ro, .immediate, false, none⟩]⟩,
  ⟨"NB#_D", 0x40C, 32, 0x20, 1, 1, 0x0,
    [⟨"PFRAC", 31, 16, .ro, .immediate, false, none⟩, ⟨"DRIFT", 15, 0, .ro, .immediate, true, none⟩]⟩,
  ⟨"NB#_E", 0x410, 32, 0x20, 1, 1, 0x0,
    [⟨"RXFC", 31, 0, .ro, .immediate, false, none⟩]⟩]

/-- The DISP registers (12_display.md). -/
def dispRows : List RegRow := [
  ⟨"CTRL", 0x0, 1, 1, 1, 1, 0x0,
    [⟨"REDALM", 8, 8, .rw, .staged, false, none⟩, ⟨"MODE", 3, 2, .rw, .locked, false, some (0, 2)⟩, ⟨"MQHOLD", 1, 1, .rw, .staged, false, none⟩, ⟨"EN", 0, 0, .rw, .staged, false, none⟩]⟩,
  ⟨"LCD", 0x4, 1, 1, 1, 1, 0x478,
    [⟨"TCOMP", 20, 16, .rw, .staged, false, none⟩, ⟨"VOP", 12, 8, .rw, .staged, false, some (0, 24)⟩, ⟨"PHASE", 7, 3, .rw, .staged, false, none⟩, ⟨"BIAS", 1, 1, .rw, .locked, false, none⟩, ⟨"DUTY", 0, 0, .rw, .locked, false, none⟩]⟩,
  ⟨"BCFG", 0x8, 1, 1, 1, 1, 0x220820,
    [⟨"MININT", 31, 24, .rw, .staged, false, none⟩, ⟨"VLOW", 23, 20, .rw, .staged, false, some (0, 9)⟩, ⟨"VMQ", 19, 16, .rw, .staged, false, some (0, 7)⟩, ⟨"BALMAX", 15, 8, .rw, .staged, false, none⟩, ⟨"BALLIM", 7, 0, .rw, .staged, false, none⟩]⟩,
  ⟨"CUR0_CFG", 0x10, 1, 1, 1, 1, 0x280B,
    [⟨"PHLEN", 15, 8, .rw, .staged, false, some (1, 255)⟩, ⟨"NPHM1", 4, 0, .rw, .staged, false, none⟩]⟩,
  ⟨"CUR0_LO", 0x14, 1, 1, 1, 1, 0xAAAA99,
    [⟨"PH", 31, 0, .rw, .staged, false, none⟩]⟩,
  ⟨"CUR0_HI", 0x18, 1, 1, 1, 1, 0x0,
    [⟨"PH", 31, 0, .rw, .staged, false, none⟩]⟩,
  ⟨"CUR1_CFG", 0x20, 1, 1, 1, 1, 0x280B,
    [⟨"PHLEN", 15, 8, .rw, .staged, false, some (1, 255)⟩, ⟨"NPHM1", 4, 0, .rw, .staged, false, none⟩]⟩,
  ⟨"CUR1_LO", 0x24, 1, 1, 1, 1, 0x555566,
    [⟨"PH", 31, 0, .rw, .staged, false, none⟩]⟩,
  ⟨"CUR1_HI", 0x28, 1, 1, 1, 1, 0x0,
    [⟨"PH", 31, 0, .rw, .staged, false, none⟩]⟩,
  ⟨"CUR2_CFG", 0x30, 1, 1, 1, 1, 0x7817,
    [⟨"PHLEN", 15, 8, .rw, .staged, false, some (1, 255)⟩, ⟨"NPHM1", 4, 0, .rw, .staged, false, none⟩]⟩,
  ⟨"CUR2_LO", 0x34, 1, 1, 1, 1, 0xFFFFAA66,
    [⟨"PH", 31, 0, .rw, .staged, false, none⟩]⟩,
  ⟨"CUR2_HI", 0x38, 1, 1, 1, 1, 0xFFFF,
    [⟨"PH", 31, 0, .rw, .staged, false, none⟩]⟩] ++ [
  ⟨"MQCFG", 0x40, 1, 1, 1, 1, 0x3E82800,
    [⟨"QREF", 31, 16, .rw, .staged, false, some (1, 65535)⟩, ⟨"PHLEN", 15, 8, .rw, .staged, false, some (1, 255)⟩]⟩,
  ⟨"OD0", 0x44, 1, 1, 1, 1, 0x8C888400,
    [⟨"TO0", 7, 0, .rw, .staged, false, none⟩, ⟨"TO1", 15, 8, .rw, .staged, false, none⟩, ⟨"TO2", 23, 16, .rw, .staged, false, none⟩, ⟨"TO3", 31, 24, .rw, .staged, false, none⟩]⟩,
  ⟨"OD1", 0x48, 1, 1, 1, 1, 0x88840004,
    [⟨"TO0", 7, 0, .rw, .staged, false, none⟩, ⟨"TO1", 15, 8, .rw, .staged, false, none⟩, ⟨"TO2", 23, 16, .rw, .staged, false, none⟩, ⟨"TO3", 31, 24, .rw, .staged, false, none⟩]⟩,
  ⟨"OD2", 0x4C, 1, 1, 1, 1, 0x84000408,
    [⟨"TO0", 7, 0, .rw, .staged, false, none⟩, ⟨"TO1", 15, 8, .rw, .staged, false, none⟩, ⟨"TO2", 23, 16, .rw, .staged, false, none⟩, ⟨"TO3", 31, 24, .rw, .staged, false, none⟩]⟩,
  ⟨"OD3", 0x50, 1, 1, 1, 1, 0x4080C,
    [⟨"TO0", 7, 0, .rw, .staged, false, none⟩, ⟨"TO1", 15, 8, .rw, .staged, false, none⟩, ⟨"TO2", 23, 16, .rw, .staged, false, none⟩, ⟨"TO3", 31, 24, .rw, .staged, false, none⟩]⟩,
  ⟨"PAGE#", 0x80, 16, 0x4, 1, 1, 0x0,
    [⟨"EN", 31, 31, .rw, .staged, false, none⟩, ⟨"SRC", 30, 26, .rw, .staged, false, none⟩, ⟨"MP", 25, 25, .rw, .staged, false, none⟩, ⟨"TSEL", 24, 21, .rw, .staged, false, some (0, 8)⟩, ⟨"DEC", 20, 17, .rw, .staged, false, some (0, 7)⟩, ⟨"DIG", 16, 13, .rw, .staged, false, some (0, 12)⟩, ⟨"POS", 12, 9, .rw, .staged, false, some (0, 11)⟩, ⟨"UNIT", 8, 6, .rw, .staged, false, none⟩, ⟨"LZ", 5, 5, .rw, .staged, false, none⟩]⟩,
  ⟨"SREG#", 0x100, 8, 0x4, 1, 1, 0x1249249,
    [⟨"RG0", 2, 0, .rw, .staged, false, none⟩, ⟨"RG1", 5, 3, .rw, .staged, false, none⟩, ⟨"RG2", 8, 6, .rw, .staged, false, none⟩, ⟨"RG3", 11, 9, .rw, .staged, false, none⟩, ⟨"RG4", 14, 12, .rw, .staged, false, none⟩, ⟨"RG5", 17, 15, .rw, .staged, false, none⟩, ⟨"RG6", 20, 18, .rw, .staged, false, none⟩, ⟨"RG7", 23, 21, .rw, .staged, false, none⟩, ⟨"RG8", 26, 24, .rw, .staged, false, none⟩]⟩,
  ⟨"NAV", 0x140, 1, 1, 1, 1, 0x3C00,
    [⟨"RETURN", 15, 8, .rw, .staged, false, none⟩, ⟨"SCROLL", 7, 0, .rw, .staged, false, none⟩]⟩,
  ⟨"STAT", 0x144, 1, 1, 1, 1, 0xFF00,
    [⟨"CRCERR", 31, 24, .ro, .immediate, false, none⟩, ⟨"PENDING", 23, 16, .ro, .immediate, false, none⟩, ⟨"UNKNOWN", 15, 8, .ro, .immediate, false, none⟩, ⟨"RUNREG", 7, 5, .ro, .immediate, false, none⟩, ⟨"BUSY", 4, 4, .ro, .immediate, false, none⟩, ⟨"PAGE", 3, 0, .ro, .immediate, false, none⟩]⟩,
  ⟨"FCRC", 0x148, 1, 1, 1, 1, 0x0,
    [⟨"CRC", 31, 0, .ro, .immediate, false, none⟩]⟩,
  ⟨"UPDCNT", 0x14C, 1, 1, 1, 1, 0x0,
    [⟨"RECOVER", 31, 16, .ro, .immediate, false, none⟩, ⟨"UPDATES", 15, 0, .ro, .immediate, false, none⟩]⟩,
  ⟨"BAL#", 0x200, 72, 0x4, 1, 1, 0x0,
    [⟨"BAL", 15, 0, .ro, .immediate, true, none⟩]⟩] ++ [
  ⟨"SMAP#", 0x400, 128, 0x4, 1, 1, 0x0,
    [⟨"EN", 31, 31, .rw, .staged, false, none⟩, ⟨"SRC", 20, 16, .rw, .staged, false, none⟩, ⟨"SEG", 8, 0, .rw, .staged, false, none⟩]⟩]

/-- The KEYS registers (13_keys_lifecycle.md). -/
def keysRows : List RegRow := [
  ⟨"LC", 0x0, 1, 1, 1, 1, 0x0,
    [⟨"DBGEN_R", 18, 18, .ro, .immediate, false, none⟩, ⟨"DBGEN_B", 17, 17, .ro, .immediate, false, none⟩, ⟨"DBG", 16, 16, .ro, .immediate, false, none⟩, ⟨"EPOCH", 15, 8, .ro, .immediate, false, none⟩, ⟨"STATE", 2, 0, .ro, .immediate, false, none⟩]⟩,
  ⟨"CMD", 0x4, 1, 1, 1, 1, 0x0,
    [⟨"HOLDACK", 8, 8, .wo, .immediate, false, none⟩, ⟨"DBGEN", 0, 0, .wo, .immediate, false, none⟩]⟩,
  ⟨"STAT", 0x8, 1, 1, 1, 1, 0x0,
    [⟨"ROOTERR", 11, 11, .ro, .immediate, false, none⟩, ⟨"FAULT", 10, 10, .ro, .immediate, false, none⟩, ⟨"TRNGERR", 9, 9, .w1c, .immediate, false, none⟩, ⟨"ABORT", 8, 8, .w1c, .immediate, false, none⟩, ⟨"UNWRAPERR", 7, 7, .w1c, .immediate, false, none⟩, ⟨"DISCARD", 6, 6, .w1c, .immediate, false, none⟩, ⟨"ROLLFWD", 5, 5, .w1c, .immediate, false, none⟩, ⟨"COMMIT", 3, 2, .ro, .immediate, false, none⟩, ⟨"BUSY", 1, 1, .ro, .immediate, false, none⟩, ⟨"HOLD", 0, 0, .ro, .immediate, false, none⟩]⟩,
  ⟨"CTR", 0xC, 1, 1, 1, 1, 0x0,
    [⟨"COUNTER", 31, 0, .ro, .immediate, false, none⟩]⟩,
  ⟨"LAST", 0x10, 1, 1, 1, 1, 0x0,
    [⟨"RESULT", 31, 28, .ro, .immediate, false, none⟩, ⟨"KIND", 23, 16, .ro, .immediate, false, none⟩, ⟨"SLOT", 15, 8, .ro, .immediate, false, none⟩]⟩,
  ⟨"CNT", 0x14, 1, 1, 1, 1, 0x0,
    [⟨"REJECTED", 31, 16, .ro, .immediate, false, none⟩, ⟨"APPLIED", 15, 0, .ro, .immediate, false, none⟩]⟩,
  ⟨"SLOT#", 0x40, 8, 0x4, 1, 1, 0x0,
    [⟨"USAGE", 15, 8, .ro, .immediate, false, none⟩, ⟨"SIZE", 2, 2, .ro, .immediate, false, none⟩, ⟨"LOADED", 1, 1, .ro, .immediate, false, none⟩, ⟨"VALID", 0, 0, .ro, .immediate, false, none⟩]⟩,
  ⟨"DIG#", 0x80, 8, 0x4, 1, 1, 0x0,
    [⟨"DIG", 31, 0, .ro, .immediate, false, none⟩]⟩,
  ⟨"APUB#", 0x100, 16, 0x4, 1, 1, 0x0,
    [⟨"KEY", 31, 0, .ro, .immediate, false, none⟩]⟩]

/-- The SAFE registers (14_safety_log.md). -/
def safeRows : List RegRow := [
  ⟨"CFG", 0x0, 1, 1, 1, 1, 0x100000,
    [⟨"EXITT", 23, 16, .rw, .staged, false, some (1, 255)⟩, ⟨"LATCH", 4, 4, .rw, .staged, false, none⟩, ⟨"SSCLOSE", 2, 2, .rw, .staged, false, none⟩, ⟨"SF2", 1, 1, .rw, .staged, false, none⟩, ⟨"SF1", 0, 0, .rw, .staged, false, none⟩]⟩,
  ⟨"CMD", 0x4, 1, 1, 1, 1, 0x0,
    [⟨"FORCE", 1, 1, .wo, .immediate, false, none⟩, ⟨"ACK", 0, 0, .wo, .immediate, false, none⟩]⟩,
  ⟨"STAT", 0x8, 1, 1, 1, 1, 0x0,
    [⟨"CAUSE", 31, 24, .ro, .immediate, false, none⟩, ⟨"EXITCNT", 23, 16, .ro, .immediate, false, none⟩, ⟨"CONDOK2", 6, 6, .ro, .immediate, false, none⟩, ⟨"CONDOK1", 5, 5, .ro, .immediate, false, none⟩, ⟨"SSHELD", 4, 4, .ro, .immediate, false, none⟩, ⟨"TCLOSE", 3, 3, .ro, .immediate, false, none⟩, ⟨"ACKREQ", 2, 2, .ro, .immediate, false, none⟩, ⟨"RESTART", 1, 1, .ro, .immediate, false, none⟩, ⟨"SAFE", 0, 0, .ro, .immediate, false, none⟩]⟩,
  ⟨"FAULT", 0xC, 1, 1, 1, 1, 0x0,
    [⟨"FORCE", 11, 11, .w1c, .immediate, false, none⟩, ⟨"SEQ", 10, 10, .w1c, .immediate, false, none⟩, ⟨"PLAUS", 9, 9, .w1c, .immediate, false, none⟩, ⟨"ACTUATOR", 8, 8, .w1c, .immediate, false, none⟩, ⟨"ENERGY", 7, 7, .w1c, .immediate, false, none⟩, ⟨"SENSREF", 6, 6, .w1c, .immediate, false, none⟩, ⟨"LOOPBACK", 5, 5, .w1c, .immediate, false, none⟩, ⟨"TIMING", 4, 4, .w1c, .immediate, false, none⟩, ⟨"CFGCRC", 3, 3, .w1c, .immediate, false, none⟩, ⟨"MEMORY", 2, 2, .w1c, .immediate, false, none⟩, ⟨"CLOCK", 1, 1, .w1c, .immediate, false, none⟩, ⟨"WDOG", 0, 0, .w1c, .immediate, false, none⟩]⟩,
  ⟨"CNT", 0x10, 1, 1, 1, 1, 0x0,
    [⟨"ENTRIES", 31, 16, .ro, .immediate, false, none⟩, ⟨"FAULTS", 15, 0, .ro, .immediate, false, none⟩]⟩,
  ⟨"LB", 0x14, 1, 1, 1, 1, 0x28F,
    [⟨"TOL", 15, 0, .rw, .staged, false, some (1, 65535)⟩]⟩,
  ⟨"CFGCRC", 0x18, 1, 1, 1, 1, 0x0,
    [⟨"CRC", 31, 0, .ro, .immediate, false, none⟩]⟩,
  ⟨"TAMP#", 0x40, 4, 0x4, 1, 1, 0x0,
    [⟨"ACTIVE", 9, 9, .ro, .immediate, false, none⟩, ⟨"LEVEL", 8, 8, .ro, .immediate, false, none⟩, ⟨"CLOSE", 3, 3, .rw, .staged, false, none⟩, ⟨"POL", 2, 2, .rw, .staged, false, none⟩, ⟨"MODE", 1, 0, .rw, .staged, false, some (0, 2)⟩]⟩,
  ⟨"TLATCH", 0x50, 1, 1, 1, 1, 0x0,
    [⟨"HOLD", 15, 15, .ro, .immediate, false, none⟩, ⟨"LEAD", 14, 9, .w1c, .immediate, false, none⟩, ⟨"SIGN", 8, 7, .w1c, .immediate, false, none⟩, ⟨"REV", 6, 5, .w1c, .immediate, false, none⟩, ⟨"SEAL", 4, 4, .w1c, .immediate, false, none⟩, ⟨"TAMP", 3, 0, .w1c, .immediate, false, none⟩]⟩,
  ⟨"TCNT", 0x54, 1, 1, 1, 1, 0x0,
    [⟨"COUNT", 15, 0, .ro, .immediate, false, none⟩]⟩]

/-- The LOG registers (14_safety_log.md). -/
def logRows : List RegRow := [
  ⟨"TSEQ", 0x0, 1, 1, 1, 1, 0x0,
    [⟨"SEQ", 31, 0, .ro, .immediate, false, none⟩]⟩,
  ⟨"TRD", 0x4, 1, 1, 1, 1, 0x0,
    [⟨"RD", 31, 0, .rw, .immediate, false, none⟩]⟩,
  ⟨"TSTAT", 0x8, 1, 1, 1, 1, 0x0,
    [⟨"OVF", 31, 16, .ro, .immediate, false, none⟩, ⟨"KEPT", 0, 0, .ro, .immediate, false, none⟩]⟩,
  ⟨"LSEQ", 0xC, 1, 1, 1, 1, 0x0,
    [⟨"SEQ", 31, 0, .ro, .immediate, false, none⟩]⟩,
  ⟨"LSTAT", 0x10, 1, 1, 1, 1, 0x0,
    [⟨"LOST", 31, 16, .ro, .immediate, false, none⟩, ⟨"PEND", 6, 0, .ro, .immediate, false, none⟩]⟩]

/-- The CMD registers (04_command_language.md). -/
def cmdRows : List RegRow := [
  ⟨"UART", 0x0, 1, 1, 1, 1, 0xA51,
    [⟨"REQCRC", 16, 16, .rw, .staged, false, none⟩, ⟨"IDLE", 15, 8, .rw, .immediate, false, some (1, 255)⟩, ⟨"BAUD", 7, 4, .rw, .staged, false, some (0, 12)⟩, ⟨"FMT", 2, 2, .rw, .staged, false, none⟩, ⟨"ECHO", 1, 1, .rw, .immediate, false, none⟩, ⟨"EN", 0, 0, .rw, .staged, false, none⟩]⟩,
  ⟨"OPT", 0x4, 1, 1, 1, 1, 0xA51,
    [⟨"REQCRC", 16, 16, .rw, .staged, false, none⟩, ⟨"IDLE", 15, 8, .rw, .immediate, false, some (1, 255)⟩, ⟨"MAXBAUD", 7, 4, .rw, .staged, false, some (0, 6)⟩, ⟨"ECHO", 1, 1, .rw, .immediate, false, none⟩, ⟨"EN", 0, 0, .rw, .staged, false, none⟩]⟩,
  ⟨"TUN", 0x8, 1, 1, 1, 1, 0x1,
    [⟨"REQCRC", 16, 16, .rw, .staged, false, none⟩, ⟨"EN", 0, 0, .rw, .staged, false, none⟩]⟩,
  ⟨"OPTID", 0xC, 1, 1, 1, 1, 0x5A5A5A,
    [⟨"CHAR3", 23, 16, .rw, .staged, false, some (65, 90)⟩, ⟨"CHAR2", 15, 8, .rw, .staged, false, some (65, 90)⟩, ⟨"CHAR1", 7, 0, .rw, .staged, false, some (65, 90)⟩]⟩,
  ⟨"MODE", 0x10, 1, 1, 1, 1, 0x0,
    [⟨"TEST", 0, 0, .rw, .staged, false, none⟩]⟩,
  ⟨"STAT", 0x14, 1, 1, 1, 1, 0x0,
    [⟨"ZCBUSY", 8, 8, .ro, .immediate, false, none⟩, ⟨"SAVEPEND", 7, 7, .ro, .immediate, false, none⟩, ⟨"OPTSTATE", 5, 4, .ro, .immediate, false, none⟩, ⟨"UARTAWAKE", 1, 1, .ro, .immediate, false, none⟩]⟩,
  ⟨"AUTHFAIL", 0x18, 1, 1, 1, 1, 0x0,
    [⟨"LOCK", 18, 16, .ro, .immediate, false, none⟩, ⟨"COUNT", 15, 0, .ro, .immediate, false, none⟩]⟩,
  ⟨"SAVED", 0x1C, 1, 1, 1, 1, 0x0,
    [⟨"TICK", 31, 0, .ro, .immediate, false, none⟩]⟩,
  ⟨"LINES", 0x20, 1, 1, 1, 1, 0x0,
    [⟨"ERRORS", 31, 16, .ro, .immediate, false, none⟩, ⟨"LINES", 15, 0, .ro, .immediate, false, none⟩]⟩]

/-- The MGMT registers (15_management_update.md). -/
def mgmtRows : List RegRow := [
  ⟨"ID", 0x0, 1, 1, 1, 1, 0x100301,
    [⟨"SIL", 23, 16, .ro, .immediate, false, none⟩, ⟨"FWMAJ", 15, 8, .ro, .immediate, false, none⟩, ⟨"FWMIN", 7, 0, .ro, .immediate, false, none⟩]⟩,
  ⟨"APPVER", 0x4, 1, 1, 1, 1, 0x0,
    [⟨"VERSION", 31, 0, .ro, .immediate, false, none⟩]⟩,
  ⟨"METVER", 0x8, 1, 1, 1, 1, 0x0,
    [⟨"VERSION", 31, 0, .ro, .immediate, false, none⟩]⟩,
  ⟨"DEVID_LO", 0xC, 1, 1, 1, 1, 0x0,
    [⟨"ID", 31, 0, .ro, .immediate, false, none⟩]⟩,
  ⟨"DEVID_HI", 0x10, 1, 1, 1, 1, 0x0,
    [⟨"ID", 31, 0, .ro, .immediate, false, none⟩]⟩,
  ⟨"MCHK", 0x14, 1, 1, 1, 1, 0x0,
    [⟨"CHK", 31, 0, .ro, .immediate, false, none⟩]⟩,
  ⟨"SVN", 0x18, 1, 1, 1, 1, 0x0,
    [⟨"MET", 14, 8, .ro, .immediate, false, none⟩, ⟨"APP", 6, 0, .ro, .immediate, false, none⟩]⟩,
  ⟨"BOOT", 0x1C, 1, 1, 1, 1, 0x0,
    [⟨"CONFCNT", 31, 16, .ro, .immediate, false, none⟩, ⟨"COPIED", 4, 4, .w1c, .immediate, false, none⟩, ⟨"FALLBACK", 3, 3, .w1c, .immediate, false, none⟩, ⟨"TRIAL", 2, 2, .ro, .immediate, false, none⟩, ⟨"ACTIVE", 0, 0, .ro, .immediate, false, none⟩]⟩,
  ⟨"TEMP", 0x20, 1, 1, 1, 1, 0x0,
    [⟨"T", 15, 0, .ro, .immediate, true, none⟩]⟩,
  ⟨"LOAD", 0x24, 1, 1, 1, 1, 0x0,
    [⟨"SVCMAX", 31, 16, .w1c, .immediate, false, none⟩, ⟨"COMPMAX", 15, 0, .w1c, .immediate, false, none⟩]⟩,
  ⟨"FCRC", 0x28, 1, 1, 1, 1, 0x0,
    [⟨"CRC", 31, 0, .ro, .immediate, false, none⟩]⟩,
  ⟨"UPDCFG", 0x30, 1, 1, 1, 1, 0x400E10,
    [⟨"CONFIRM", 23, 16, .rw, .staged, false, some (16, 255)⟩, ⟨"TIMEOUT", 15, 0, .rw, .staged, false, some (60, 65535)⟩]⟩] ++ [
  ⟨"UPDSTAT", 0x34, 1, 1, 1, 1, 0x0,
    [⟨"OWNER", 23, 16, .ro, .immediate, false, none⟩, ⟨"REASON", 11, 8, .ro, .immediate, false, none⟩, ⟨"KIND", 4, 4, .ro, .immediate, false, none⟩, ⟨"STATE", 1, 0, .ro, .immediate, false, none⟩]⟩,
  ⟨"UPDPROG", 0x38, 1, 1, 1, 1, 0x0,
    [⟨"NEXT", 31, 0, .ro, .immediate, false, none⟩]⟩,
  ⟨"UPDLEN", 0x3C, 1, 1, 1, 1, 0x0,
    [⟨"LENGTH", 31, 0, .ro, .immediate, false, none⟩]⟩,
  ⟨"UPDCNT", 0x40, 1, 1, 1, 1, 0x0,
    [⟨"FAILED", 31, 16, .ro, .immediate, false, none⟩, ⟨"ACTIVATED", 15, 0, .ro, .immediate, false, none⟩]⟩,
  ⟨"GPIO#", 0x100, 12, 0x4, 1, 1, 0x0,
    [⟨"IN", 9, 9, .ro, .immediate, false, none⟩, ⟨"OUT", 8, 8, .rw, .immediate, false, none⟩, ⟨"PULL", 5, 4, .rw, .staged, false, some (0, 2)⟩, ⟨"FUNC", 2, 0, .rw, .staged, false, none⟩]⟩]

/-- The registers of a block. -/
def blockRows : Block → List RegRow
  | .sys => sysRows
  | .pwr => pwrRows
  | .clk => clkRows
  | .ft => ftRows
  | .ame => ameRows
  | .shot => shotRows
  | .mpa => mpRows 0x100310
  | .mpb => mpRows 0xFF0000
  | .sens => sensRows
  | .rtc => rtcRows
  | .bill => billRows
  | .alm => almRows
  | .pay => payRows
  | .radio => radioRows
  | .link => linkRows
  | .disp => dispRows
  | .keys => keysRows
  | .safe => safeRows
  | .log => logRows
  | .cmd => cmdRows
  | .mgmt => mgmtRows

/-- The base address of a block (Table 1.10; MPB at 0x1000 of the MP window, R232). -/
def blockBase : Block → Nat
  | .sys => 0x40000000
  | .pwr => 0x40010000
  | .clk => 0x40018000
  | .ft => 0x40020000
  | .ame => 0x40100000
  | .shot => 0x40110000
  | .mpa => 0x40120000
  | .mpb => 0x40121000
  | .sens => 0x40130000
  | .rtc => 0x40200000
  | .bill => 0x40300000
  | .alm => 0x40310000
  | .pay => 0x40320000
  | .radio => 0x40400000
  | .link => 0x40410000
  | .disp => 0x40500000
  | .keys => 0x40600000
  | .safe => 0x40700000
  | .log => 0x40710000
  | .cmd => 0x40800000
  | .mgmt => 0x40900000

/-- The name of a block in the command language (R140). -/
def blockName : Block → String
  | .sys => "SYS"
  | .pwr => "PWR"
  | .clk => "CLK"
  | .ft => "FT"
  | .ame => "AME"
  | .shot => "SHOT"
  | .mpa => "MPA"
  | .mpb => "MPB"
  | .sens => "SENS"
  | .rtc => "RTC"
  | .bill => "BILL"
  | .alm => "ALM"
  | .pay => "PAY"
  | .radio => "RADIO"
  | .link => "LINK"
  | .disp => "DISP"
  | .keys => "KEYS"
  | .safe => "SAFE"
  | .log => "LOG"
  | .cmd => "CMD"
  | .mgmt => "MGMT"

/-- Every block. -/
def allBlocks : List Block :=
  [.sys, .pwr, .clk, .ft, .ame, .shot, .mpa, .mpb, .sens, .rtc, .bill, .alm, .pay, .radio, .link, .disp, .keys, .safe, .log, .cmd, .mgmt]

namespace F

def SYS_CRS_ECC : Nat := 0x40000000
def SYS_CRS_ECC_UNCORR : Fld := ⟨SYS_CRS_ECC, 16, 16⟩
def SYS_CRS_ECC_CORR : Fld := ⟨SYS_CRS_ECC, 15, 0⟩
def SYS_CRS_ERR : Nat := 0x40000004
def SYS_CRS_ERR_COUNT : Fld := ⟨SYS_CRS_ERR, 15, 0⟩
def SYS_RING_A (n : Nat) : Nat := 0x40000100 + 8 * n
def SYS_RING_A_KIND (n : Nat) : Fld := ⟨SYS_RING_A n, 31, 28⟩
def SYS_RING_A_RECM1 (n : Nat) : Fld := ⟨SYS_RING_A n, 27, 24⟩
def SYS_RING_A_COUNTM1 (n : Nat) : Fld := ⟨SYS_RING_A n, 22, 12⟩
def SYS_RING_A_BASE (n : Nat) : Fld := ⟨SYS_RING_A n, 10, 0⟩
def SYS_RING_B (n : Nat) : Nat := 0x40000104 + 0x8 * n
def SYS_RING_B_HEAD2 (n : Nat) : Fld := ⟨SYS_RING_B n, 29, 23⟩
def SYS_RING_B_FILL (n : Nat) : Fld := ⟨SYS_RING_B n, 22, 12⟩
def SYS_RING_B_HEAD (n : Nat) : Fld := ⟨SYS_RING_B n, 10, 0⟩
def PWR_STATE : Nat := 0x40010000
def PWR_STATE_VIO_OK : Fld := ⟨PWR_STATE, 9, 9⟩
def PWR_STATE_BKSRC : Fld := ⟨PWR_STATE, 8, 8⟩
def PWR_STATE_STATE : Fld := ⟨PWR_STATE, 2, 0⟩
def PWR_RSTCAUSE : Nat := 0x40010004
def PWR_RSTCAUSE_BKPOR : Fld := ⟨PWR_RSTCAUSE, 7, 7⟩
def PWR_RSTCAUSE_HIBWAKE : Fld := ⟨PWR_RSTCAUSE, 6, 6⟩
def PWR_RSTCAUSE_CMD : Fld := ⟨PWR_RSTCAUSE, 5, 5⟩
def PWR_RSTCAUSE_SAFETY : Fld := ⟨PWR_RSTCAUSE, 4, 4⟩
def PWR_RSTCAUSE_WDOG : Fld := ⟨PWR_RSTCAUSE, 3, 3⟩
def PWR_RSTCAUSE_BOR : Fld := ⟨PWR_RSTCAUSE, 2, 2⟩
def PWR_RSTCAUSE_EXTRST : Fld := ⟨PWR_RSTCAUSE, 1, 1⟩
def PWR_RSTCAUSE_POR : Fld := ⟨PWR_RSTCAUSE, 0, 0⟩
def PWR_PFCFG : Nat := 0x40010008
def PWR_PFCFG_ROWS : Fld := ⟨PWR_PFCFG, 11, 8⟩
def PWR_PFCFG_THR : Fld := ⟨PWR_PFCFG, 3, 0⟩
def PWR_PFSTAT : Nat := 0x4001000C
def PWR_PFSTAT_LAST_ROWS : Fld := ⟨PWR_PFSTAT, 23, 20⟩
def PWR_PFSTAT_INCOMPLETE : Fld := ⟨PWR_PFSTAT, 19, 19⟩
def PWR_PFSTAT_EXT : Fld := ⟨PWR_PFSTAT, 18, 18⟩
def PWR_PFSTAT_COUNT : Fld := ⟨PWR_PFSTAT, 15, 0⟩
def PWR_SUPPLY : Nat := 0x40010010
def PWR_SUPPLY_VBKUP_MV : Fld := ⟨PWR_SUPPLY, 27, 16⟩
def PWR_SUPPLY_VBAT_MV : Fld := ⟨PWR_SUPPLY, 11, 0⟩
def PWR_CTRL : Nat := 0x40010014
def PWR_CTRL_WAKE_CDT : Fld := ⟨PWR_CTRL, 10, 10⟩
def PWR_CTRL_WAKE_TAMP : Fld := ⟨PWR_CTRL, 9, 9⟩
def PWR_CTRL_WAKE_KEY : Fld := ⟨PWR_CTRL, 8, 8⟩
def PWR_CTRL_HIBERNATE : Fld := ⟨PWR_CTRL, 0, 0⟩
def PWR_BKSW : Nat := 0x40010018
def PWR_BKSW_MINLOW : Fld := ⟨PWR_BKSW, 16, 16⟩
def PWR_BKSW_SWCNT : Fld := ⟨PWR_BKSW, 15, 0⟩
def CLK_CFG : Nat := 0x40018000
def CLK_CFG_XO24_SRC : Fld := ⟨CLK_CFG, 8, 8⟩
def CLK_CFG_XT32_TRIM : Fld := ⟨CLK_CFG, 4, 1⟩
def CLK_CFG_XT32_CL : Fld := ⟨CLK_CFG, 0, 0⟩
def CLK_STAT : Nat := 0x40018004
def CLK_STAT_RC_LOCK : Fld := ⟨CLK_STAT, 3, 3⟩
def CLK_STAT_PLL_LOCK : Fld := ⟨CLK_STAT, 2, 2⟩
def CLK_STAT_XO24_OK : Fld := ⟨CLK_STAT, 1, 1⟩
def CLK_STAT_XT32_OK : Fld := ⟨CLK_STAT, 0, 0⟩
def CLK_MON : Nat := 0x40018008
def CLK_MON_RC_UNLOCK : Fld := ⟨CLK_MON, 4, 4⟩
def CLK_MON_PLL_UNLOCK : Fld := ⟨CLK_MON, 3, 3⟩
def CLK_MON_XO24_FAIL : Fld := ⟨CLK_MON, 2, 2⟩
def CLK_MON_CROSS : Fld := ⟨CLK_MON, 1, 1⟩
def CLK_MON_XT32_STOP : Fld := ⟨CLK_MON, 0, 0⟩
def CLK_XO24ERR : Nat := 0x4001800C
def CLK_XO24ERR_ERR : Fld := ⟨CLK_XO24ERR, 15, 0⟩
def FT_PERIOD : Nat := 0x40020000
def FT_PERIOD_N : Fld := ⟨FT_PERIOD, 6, 0⟩
def FT_CTRL : Nat := 0x40020004
def FT_CTRL_PROMO : Fld := ⟨FT_CTRL, 15, 8⟩
def FT_CTRL_HOLD : Fld := ⟨FT_CTRL, 0, 0⟩
def FT_CMD : Nat := 0x40020008
def FT_CMD_DISCARD : Fld := ⟨FT_CMD, 1, 1⟩
def FT_CMD_COMMIT : Fld := ⟨FT_CMD, 0, 0⟩
def FT_ADMIT : Nat := 0x4002000C
def FT_ADMIT_COST : Fld := ⟨FT_ADMIT, 31, 12⟩
def FT_ADMIT_PENDING : Fld := ⟨FT_ADMIT, 2, 2⟩
def FT_ADMIT_RESULT : Fld := ⟨FT_ADMIT, 1, 0⟩
def FT_TICK_LO : Nat := 0x40020010
def FT_TICK_LO_TICK : Fld := ⟨FT_TICK_LO, 31, 0⟩
def FT_TICK_HI : Nat := 0x40020014
def FT_TICK_HI_TICK : Fld := ⟨FT_TICK_HI, 15, 0⟩
def FT_PUBTICK : Nat := 0x40020018
def FT_PUBTICK_TICK : Fld := ⟨FT_PUBTICK, 31, 0⟩
def FT_PHASE : Nat := 0x4002001C
def FT_PHASE_PHASE : Fld := ⟨FT_PHASE, 2, 0⟩
def FT_STAT : Nat := 0x40020020
def FT_STAT_PERIOD_CHG : Fld := ⟨FT_STAT, 3, 3⟩
def FT_STAT_PROMOTED : Fld := ⟨FT_STAT, 2, 2⟩
def FT_STAT_DROPX : Fld := ⟨FT_STAT, 1, 1⟩
def FT_STAT_OVERRUN : Fld := ⟨FT_STAT, 0, 0⟩
def FT_OVRCNT : Nat := 0x40020024
def FT_OVRCNT_COUNT : Fld := ⟨FT_OVRCNT, 15, 0⟩
def FT_SCHED (n : Nat) : Nat := 0x40020100 + 0x4 * n
def FT_SCHED_EVERY (n : Nat) : Fld := ⟨FT_SCHED n, 21, 16⟩
def FT_SCHED_MULT_MAX (n : Nat) : Fld := ⟨FT_SCHED n, 15, 11⟩
def FT_SCHED_MULT_MIN (n : Nat) : Fld := ⟨FT_SCHED n, 10, 6⟩
def FT_SCHED_PATH (n : Nat) : Fld := ⟨FT_SCHED n, 5, 4⟩
def FT_SCHED_SLICE (n : Nat) : Fld := ⟨FT_SCHED n, 23, 8⟩
def FT_SCHED_TASK (n : Nat) : Fld := ⟨FT_SCHED n, 7, 4⟩
def FT_SCHED_KIND (n : Nat) : Fld := ⟨FT_SCHED n, 3, 0⟩
def AME_CTRL : Nat := 0x40100000
def AME_CTRL_DRV_V : Fld := ⟨AME_CTRL, 11, 8⟩
def AME_CTRL_EN : Fld := ⟨AME_CTRL, 0, 0⟩
def AME_STAT : Nat := 0x40100004
def AME_STAT_VTXB_NR : Fld := ⟨AME_STAT, 7, 7⟩
def AME_STAT_UCODE : Fld := ⟨AME_STAT, 6, 6⟩
def AME_STAT_CAPFULL : Fld := ⟨AME_STAT, 5, 5⟩
def AME_STAT_PLLDISC : Fld := ⟨AME_STAT, 4, 4⟩
def AME_STAT_VTXB_LOW : Fld := ⟨AME_STAT, 3, 3⟩
def AME_STAT_CLIP : Fld := ⟨AME_STAT, 2, 2⟩
def AME_STAT_READY : Fld := ⟨AME_STAT, 0, 0⟩
def AME_DISC : Nat := 0x40100008
def AME_DISC_COUNT : Fld := ⟨AME_DISC, 15, 0⟩
def AME_AGC : Nat := 0x4010000C
def AME_AGC_DEAD : Fld := ⟨AME_AGC, 21, 20⟩
def AME_AGC_STEP : Fld := ⟨AME_AGC, 19, 16⟩
def AME_AGC_TARGET : Fld := ⟨AME_AGC, 13, 0⟩
def AME_TRIG : Nat := 0x40100010
def AME_TRIG_PATHS : Fld := ⟨AME_TRIG, 19, 16⟩
def AME_TRIG_COUNT : Fld := ⟨AME_TRIG, 12, 8⟩
def AME_TRIG_EN : Fld := ⟨AME_TRIG, 0, 0⟩
def AME_TRIGCNT : Nat := 0x40100014
def AME_TRIGCNT_IGNORED : Fld := ⟨AME_TRIGCNT, 31, 16⟩
def AME_TRIGCNT_ACCEPTED : Fld := ⟨AME_TRIGCNT, 15, 0⟩
def AME_LB : Nat := 0x40100018
def AME_LB_COUNT : Fld := ⟨AME_LB, 31, 16⟩
def AME_LB_ASYMALT : Fld := ⟨AME_LB, 0, 0⟩
def AME_LBREF : Nat := 0x4010001C
def AME_LBREF_ASYM : Fld := ⟨AME_LBREF, 15, 0⟩
def AME_VTXB : Nat := 0x40100020
def AME_VTXB_MV : Fld := ⟨AME_VTXB, 13, 0⟩
def AME_WIN : Nat := 0x40100024
def AME_WIN_SHOTS : Fld := ⟨AME_WIN, 23, 16⟩
def AME_WIN_LEN : Fld := ⟨AME_WIN, 15, 0⟩
def AME_P_PORT (n : Nat) : Nat := 0x40100100 + 0x40 * n
def AME_P_PORT_EN (n : Nat) : Fld := ⟨AME_P_PORT n, 31, 31⟩
def AME_P_PORT_RECIP (n : Nat) : Fld := ⟨AME_P_PORT n, 8, 8⟩
def AME_P_PORT_PORTD (n : Nat) : Fld := ⟨AME_P_PORT n, 6, 4⟩
def AME_P_PORT_PORTU (n : Nat) : Fld := ⟨AME_P_PORT n, 2, 0⟩
def AME_P_FIRE (n : Nat) : Nat := 0x40100104 + 0x40 * n
def AME_P_FIRE_DIV (n : Nat) : Fld := ⟨AME_P_FIRE n, 25, 16⟩
def AME_P_FIRE_CYCLES (n : Nat) : Fld := ⟨AME_P_FIRE n, 15, 10⟩
def AME_P_FIRE_CPC (n : Nat) : Fld := ⟨AME_P_FIRE n, 9, 8⟩
def AME_P_FIRE_LOG2LEN (n : Nat) : Fld := ⟨AME_P_FIRE n, 6, 4⟩
def AME_P_FIRE_POLALT (n : Nat) : Fld := ⟨AME_P_FIRE n, 3, 3⟩
def AME_P_FIRE_BINV (n : Nat) : Fld := ⟨AME_P_FIRE n, 2, 2⟩
def AME_P_FIRE_KIND (n : Nat) : Fld := ⟨AME_P_FIRE n, 1, 0⟩
def AME_P_CHIRP (n : Nat) : Nat := 0x40100108 + 0x40 * n
def AME_P_CHIRP_CLEN (n : Nat) : Fld := ⟨AME_P_CHIRP n, 23, 16⟩
def AME_P_CHIRP_DIV1 (n : Nat) : Fld := ⟨AME_P_CHIRP n, 9, 0⟩
def AME_P_TIME (n : Nat) : Nat := 0x4010010C + 0x40 * n
def AME_P_TIME_GAP (n : Nat) : Fld := ⟨AME_P_TIME n, 27, 16⟩
def AME_P_TIME_WINDLY (n : Nat) : Fld := ⟨AME_P_TIME n, 15, 0⟩
def AME_P_RX (n : Nat) : Nat := 0x40100110 + 0x40 * n
def AME_P_RX_AGCEN (n : Nat) : Fld := ⟨AME_P_RX n, 31, 31⟩
def AME_P_RX_GMAX (n : Nat) : Fld := ⟨AME_P_RX n, 28, 24⟩
def AME_P_RX_GMIN (n : Nat) : Fld := ⟨AME_P_RX n, 20, 16⟩
def AME_P_RX_GINIT (n : Nat) : Fld := ⟨AME_P_RX n, 12, 8⟩
def AME_P_RX_CAPLEN (n : Nat) : Fld := ⟨AME_P_RX n, 5, 4⟩
def AME_P_RX_FSDIV (n : Nat) : Fld := ⟨AME_P_RX n, 1, 0⟩
def AME_P_DUR (n : Nat) : Nat := 0x40100114 + 0x40 * n
def AME_P_DUR_PDUR (n : Nat) : Fld := ⟨AME_P_DUR n, 27, 16⟩
def AME_P_DUR_DUR (n : Nat) : Fld := ⟨AME_P_DUR n, 11, 0⟩
def AME_P_STAT (n : Nat) : Nat := 0x40100118 + 0x40 * n
def AME_P_STAT_POL (n : Nat) : Fld := ⟨AME_P_STAT n, 11, 11⟩
def AME_P_STAT_SKIPPED (n : Nat) : Fld := ⟨AME_P_STAT n, 10, 10⟩
def AME_P_STAT_CLIP (n : Nat) : Fld := ⟨AME_P_STAT n, 9, 9⟩
def AME_P_STAT_ZSTALE (n : Nat) : Fld := ⟨AME_P_STAT n, 8, 8⟩
def AME_P_STAT_GAIN (n : Nat) : Fld := ⟨AME_P_STAT n, 4, 0⟩
def AME_UCODE (n : Nat) : Nat := 0x40100800 + 0x4 * n
def AME_UCODE_WORD (n : Nat) : Fld := ⟨AME_UCODE n, 31, 0⟩
def SHOT_ZCCFG : Nat := 0x40110000
def SHOT_ZCCFG_TIMEOUT : Fld := ⟨SHOT_ZCCFG, 31, 16⟩
def SHOT_ZCCFG_SPREAD : Fld := ⟨SHOT_ZCCFG, 15, 0⟩
def SHOT_ZCMAX : Nat := 0x40110004
def SHOT_ZCMAX_MAXOFF : Fld := ⟨SHOT_ZCMAX, 15, 0⟩
def SHOT_ZCSTAT : Nat := 0x40110008
def SHOT_ZCSTAT_LEAST : Fld := ⟨SHOT_ZCSTAT, 24, 16⟩
def SHOT_ZCSTAT_CAUSE : Fld := ⟨SHOT_ZCSTAT, 11, 8⟩
def SHOT_ZCSTAT_RESULT : Fld := ⟨SHOT_ZCSTAT, 5, 4⟩
def SHOT_ZCSTAT_MP : Fld := ⟨SHOT_ZCSTAT, 2, 2⟩
def SHOT_ZCSTAT_STATE : Fld := ⟨SHOT_ZCSTAT, 1, 0⟩
def SHOT_LBSYM : Nat := 0x4011000C
def SHOT_LBSYM_DTOF : Fld := ⟨SHOT_LBSYM, 31, 0⟩
def SHOT_LBASYM : Nat := 0x40110010
def SHOT_LBASYM_DTOF : Fld := ⟨SHOT_LBASYM, 31, 0⟩
def SHOT_LBSTAT : Nat := 0x40110014
def SHOT_LBSTAT_ASEEN : Fld := ⟨SHOT_LBSTAT, 9, 9⟩
def SHOT_LBSTAT_SSEEN : Fld := ⟨SHOT_LBSTAT, 8, 8⟩
def SHOT_LBSTAT_ACLASS : Fld := ⟨SHOT_LBSTAT, 6, 4⟩
def SHOT_LBSTAT_SCLASS : Fld := ⟨SHOT_LBSTAT, 2, 0⟩
def SHOT_RULE (x : Nat) : Nat := 0x40110040 + 8 * x
def SHOT_RULE_MEDIAN_TICKS (x : Nat) : Fld := ⟨SHOT_RULE x, 23, 16⟩
def SHOT_RULE_HOLD_TICKS (x : Nat) : Fld := ⟨SHOT_RULE x, 11, 8⟩
def SHOT_RULE_EP_COUNT (x : Nat) : Fld := ⟨SHOT_RULE x, 3, 0⟩
def SHOT_MSTAT (x : Nat) : Nat := 0x40110044 + 8 * x
def SHOT_MSTAT_EMPTY (x : Nat) : Fld := ⟨SHOT_MSTAT x, 31, 31⟩
def SHOT_MSTAT_UNKNOWN (x : Nat) : Fld := ⟨SHOT_MSTAT x, 30, 30⟩
def SHOT_MSTAT_RECTICK (x : Nat) : Fld := ⟨SHOT_MSTAT x, 29, 29⟩
def SHOT_MSTAT_RECOV (x : Nat) : Fld := ⟨SHOT_MSTAT x, 23, 16⟩
def SHOT_MSTAT_CLRCNT (x : Nat) : Fld := ⟨SHOT_MSTAT x, 11, 8⟩
def SHOT_MSTAT_EPCNT (x : Nat) : Fld := ⟨SHOT_MSTAT x, 3, 0⟩
def SHOT_P_VAL (n : Nat) : Nat := 0x40110100 + 0x40 * n
def SHOT_P_VAL_BIRMIN (n : Nat) : Fld := ⟨SHOT_P_VAL n, 23, 16⟩
def SHOT_P_VAL_SLMIN (n : Nat) : Fld := ⟨SHOT_P_VAL n, 15, 8⟩
def SHOT_P_VAL_SNRMIN (n : Nat) : Fld := ⟨SHOT_P_VAL n, 7, 0⟩
def SHOT_P_AWIN (n : Nat) : Nat := 0x40110104 + 0x40 * n
def SHOT_P_AWIN_AMAX (n : Nat) : Fld := ⟨SHOT_P_AWIN n, 31, 16⟩
def SHOT_P_AWIN_AMIN (n : Nat) : Fld := ⟨SHOT_P_AWIN n, 15, 0⟩
def SHOT_P_LIM (n : Nat) : Nat := 0x40110108 + 0x40 * n
def SHOT_P_LIM_DEPTHR (n : Nat) : Fld := ⟨SHOT_P_LIM n, 31, 16⟩
def SHOT_P_LIM_MEDLIM (n : Nat) : Fld := ⟨SHOT_P_LIM n, 15, 0⟩
def SHOT_P_ZOFF (n : Nat) : Nat := 0x4011010C + 0x40 * n
def SHOT_P_ZOFF_ZOFF (n : Nat) : Fld := ⟨SHOT_P_ZOFF n, 31, 0⟩
def SHOT_P_DELTA (n : Nat) : Nat := 0x40110110 + 0x40 * n
def SHOT_P_DELTA_DELTA (n : Nat) : Fld := ⟨SHOT_P_DELTA n, 31, 0⟩
def SHOT_P_ZSPR (n : Nat) : Nat := 0x40110114 + 0x40 * n
def SHOT_P_ZSPR_SPREAD (n : Nat) : Fld := ⟨SHOT_P_ZSPR n, 15, 0⟩
def SHOT_P_TDT (n : Nat) : Nat := 0x40110118 + 0x40 * n
def SHOT_P_TDT_DTOF (n : Nat) : Fld := ⟨SHOT_P_TDT n, 31, 0⟩
def SHOT_P_TUP (n : Nat) : Nat := 0x4011011C + 0x40 * n
def SHOT_P_TUP_TOF (n : Nat) : Fld := ⟨SHOT_P_TUP n, 31, 0⟩
def SHOT_P_TDN (n : Nat) : Nat := 0x40110120 + 0x40 * n
def SHOT_P_TDN_TOF (n : Nat) : Fld := ⟨SHOT_P_TDN n, 31, 0⟩
def SHOT_P_TSTAT (n : Nat) : Nat := 0x40110124 + 0x40 * n
def SHOT_P_TSTAT_STATE (n : Nat) : Fld := ⟨SHOT_P_TSTAT n, 25, 24⟩
def SHOT_P_TSTAT_HELDCNT (n : Nat) : Fld := ⟨SHOT_P_TSTAT n, 23, 20⟩
def SHOT_P_TSTAT_NREJ (n : Nat) : Fld := ⟨SHOT_P_TSTAT n, 19, 15⟩
def SHOT_P_TSTAT_NVOID (n : Nat) : Fld := ⟨SHOT_P_TSTAT n, 14, 10⟩
def SHOT_P_TSTAT_NHALF (n : Nat) : Fld := ⟨SHOT_P_TSTAT n, 9, 5⟩
def SHOT_P_TSTAT_NVALID (n : Nat) : Fld := ⟨SHOT_P_TSTAT n, 4, 0⟩
def SHOT_P_CNT0 (n : Nat) : Nat := 0x40110128 + 0x40 * n
def SHOT_P_CNT0_HALF (n : Nat) : Fld := ⟨SHOT_P_CNT0 n, 31, 16⟩
def SHOT_P_CNT0_VALID (n : Nat) : Fld := ⟨SHOT_P_CNT0 n, 15, 0⟩
def SHOT_P_CNT1 (n : Nat) : Nat := 0x4011012C + 0x40 * n
def SHOT_P_CNT1_TIMEOUT (n : Nat) : Fld := ⟨SHOT_P_CNT1 n, 31, 16⟩
def SHOT_P_CNT1_SIDELOBE (n : Nat) : Fld := ⟨SHOT_P_CNT1 n, 15, 0⟩
def SHOT_P_CNT2 (n : Nat) : Nat := 0x40110130 + 0x40 * n
def SHOT_P_CNT2_REJECTED (n : Nat) : Fld := ⟨SHOT_P_CNT2 n, 31, 16⟩
def SHOT_P_CNT2_AMPLITUDE (n : Nat) : Fld := ⟨SHOT_P_CNT2 n, 15, 0⟩
def SHOT_P_DEP (n : Nat) : Nat := 0x40110134 + 0x40 * n
def SHOT_P_DEP_FLAG (n : Nat) : Fld := ⟨SHOT_P_DEP n, 31, 31⟩
def SHOT_P_DEP_RATIO (n : Nat) : Fld := ⟨SHOT_P_DEP n, 15, 0⟩
def SHOT_P_DREF (n : Nat) : Nat := 0x40110138 + 0x40 * n
def SHOT_P_DREF_DREF (n : Nat) : Fld := ⟨SHOT_P_DREF n, 19, 0⟩
def MP_CTRL (x : Nat) : Nat := 0x40120000 + 0x1000 * x
def MP_CTRL_SVC (x : Nat) : Fld := ⟨MP_CTRL x, 1, 1⟩
def MP_CTRL_EN (x : Nat) : Fld := ⟨MP_CTRL x, 0, 0⟩
def MP_CFG (x : Nat) : Nat := 0x40120004 + 0x1000 * x
def MP_CFG_SENS2 (x : Nat) : Fld := ⟨MP_CFG x, 23, 20⟩
def MP_CFG_SENS1 (x : Nat) : Fld := ⟨MP_CFG x, 19, 16⟩
def MP_CFG_PATHS (x : Nat) : Fld := ⟨MP_CFG x, 11, 8⟩
def MP_CFG_POS (x : Nat) : Fld := ⟨MP_CFG x, 6, 6⟩
def MP_CFG_APPL (x : Nat) : Fld := ⟨MP_CFG x, 5, 4⟩
def MP_CFG_MEDIUM (x : Nat) : Fld := ⟨MP_CFG x, 3, 0⟩
def MP_GEOM (x : Nat) : Nat := 0x40120008 + 0x1000 * x
def MP_GEOM_D (x : Nat) : Fld := ⟨MP_GEOM x, 23, 0⟩
def MP_WPRESS (x : Nat) : Nat := 0x4012000C + 0x1000 * x
def MP_WPRESS_P (x : Nat) : Fld := ⟨MP_WPRESS x, 15, 0⟩
def MP_DT (x : Nat) : Nat := 0x40120010 + 0x1000 * x
def MP_DT_DTC (x : Nat) : Fld := ⟨MP_DT x, 15, 8⟩
def MP_DT_DTH (x : Nat) : Fld := ⟨MP_DT x, 7, 0⟩
def MP_LIMITS (x : Nat) : Nat := 0x40120014 + 0x1000 * x
def MP_LIMITS_REVTH (x : Nat) : Fld := ⟨MP_LIMITS x, 31, 16⟩
def MP_LIMITS_QCUT (x : Nat) : Fld := ⟨MP_LIMITS x, 15, 0⟩
def MP_PULSE (x : Nat) : Nat := 0x40120018 + 0x1000 * x
def MP_PULSE_BASE (x : Nat) : Fld := ⟨MP_PULSE x, 24, 24⟩
def MP_PULSE_QUANT (x : Nat) : Fld := ⟨MP_PULSE x, 23, 0⟩
def MP_PATM (x : Nat) : Nat := 0x4012001C + 0x1000 * x
def MP_PATM_PATM (x : Nat) : Fld := ⟨MP_PATM x, 31, 0⟩
def MP_GAS0 (x : Nat) : Nat := 0x40120020 + 0x1000 * x
def MP_GAS0_D (x : Nat) : Fld := ⟨MP_GAS0 x, 31, 16⟩
def MP_GAS0_HS (x : Nat) : Fld := ⟨MP_GAS0 x, 15, 0⟩
def MP_GAS1 (x : Nat) : Nat := 0x40120024 + 0x1000 * x
def MP_GAS1_GAMMA (x : Nat) : Fld := ⟨MP_GAS1 x, 31, 20⟩
def MP_GAS1_XCO2 (x : Nat) : Fld := ⟨MP_GAS1 x, 19, 10⟩
def MP_GAS1_XH2 (x : Nat) : Fld := ⟨MP_GAS1 x, 9, 0⟩
def MP_GASB (x : Nat) : Nat := 0x40120028 + 0x1000 * x
def MP_GASB_PMODE (x : Nat) : Fld := ⟨MP_GASB x, 1, 1⟩
def MP_GASB_TB (x : Nat) : Fld := ⟨MP_GASB x, 0, 0⟩
def MP_PSUB (x : Nat) : Nat := 0x4012002C + 0x1000 * x
def MP_PSUB_PSUB (x : Nat) : Fld := ⟨MP_PSUB x, 31, 0⟩
def MP_TSUB (x : Nat) : Nat := 0x40120030 + 0x1000 * x
def MP_TSUB_TSUB (x : Nat) : Fld := ⟨MP_TSUB x, 31, 0⟩
def MP_STAT (x : Nat) : Nat := 0x40120200 + 0x1000 * x
def MP_STAT_CFGERR (x : Nat) : Fld := ⟨MP_STAT x, 31, 31⟩
def MP_STAT_SIGNTAMP (x : Nat) : Fld := ⟨MP_STAT x, 22, 22⟩
def MP_STAT_REVTAMP (x : Nat) : Fld := ⟨MP_STAT x, 21, 21⟩
def MP_STAT_PLAUSFLT (x : Nat) : Fld := ⟨MP_STAT x, 20, 20⟩
def MP_STAT_PLAUSCNT (x : Nat) : Fld := ⟨MP_STAT x, 19, 16⟩
def MP_STAT_T0ERR (x : Nat) : Fld := ⟨MP_STAT x, 15, 15⟩
def MP_STAT_OVERRUN (x : Nat) : Fld := ⟨MP_STAT x, 14, 14⟩
def MP_STAT_CALC (x : Nat) : Fld := ⟨MP_STAT x, 13, 13⟩
def MP_STAT_ZSTALE (x : Nat) : Fld := ⟨MP_STAT x, 12, 12⟩
def MP_STAT_OUTRANGE (x : Nat) : Fld := ⟨MP_STAT x, 11, 11⟩
def MP_STAT_SUBST (x : Nat) : Fld := ⟨MP_STAT x, 10, 10⟩
def MP_STAT_PINVALID (x : Nat) : Fld := ⟨MP_STAT x, 9, 9⟩
def MP_STAT_TINVALID (x : Nat) : Fld := ⟨MP_STAT x, 8, 8⟩
def MP_STAT_COOL (x : Nat) : Fld := ⟨MP_STAT x, 7, 7⟩
def MP_STAT_HEAT (x : Nat) : Fld := ⟨MP_STAT x, 6, 6⟩
def MP_STAT_FLOWSAT (x : Nat) : Fld := ⟨MP_STAT x, 5, 5⟩
def MP_STAT_REVERSE (x : Nat) : Fld := ⟨MP_STAT x, 4, 4⟩
def MP_STAT_LOWCUT (x : Nat) : Fld := ⟨MP_STAT x, 3, 3⟩
def MP_STAT_FSTATE (x : Nat) : Fld := ⟨MP_STAT x, 2, 0⟩
def MP_FLOW (x : Nat) : Nat := 0x40120204 + 0x1000 * x
def MP_FLOW_FLOW (x : Nat) : Fld := ⟨MP_FLOW x, 31, 0⟩
def MP_FLOWW (x : Nat) : Nat := 0x40120208 + 0x1000 * x
def MP_FLOWW_FLOW (x : Nat) : Fld := ⟨MP_FLOWW x, 31, 0⟩
def MP_VEL (x : Nat) : Nat := 0x4012020C + 0x1000 * x
def MP_VEL_VEL (x : Nat) : Fld := ⟨MP_VEL x, 31, 0⟩
def MP_RE (x : Nat) : Nat := 0x40120210 + 0x1000 * x
def MP_RE_RE (x : Nat) : Fld := ⟨MP_RE x, 31, 0⟩
def MP_KPROF (x : Nat) : Nat := 0x40120214 + 0x1000 * x
def MP_KPROF_K (x : Nat) : Fld := ⟨MP_KPROF x, 31, 0⟩
def MP_TF (x : Nat) : Nat := 0x40120218 + 0x1000 * x
def MP_TF_T (x : Nat) : Fld := ⟨MP_TF x, 31, 0⟩
def MP_TR (x : Nat) : Nat := 0x4012021C + 0x1000 * x
def MP_TR_T (x : Nat) : Fld := ⟨MP_TR x, 31, 0⟩
def MP_TAC (x : Nat) : Nat := 0x40120220 + 0x1000 * x
def MP_TAC_T (x : Nat) : Fld := ⟨MP_TAC x, 31, 0⟩
def MP_SOS (x : Nat) : Nat := 0x40120224 + 0x1000 * x
def MP_SOS_C (x : Nat) : Fld := ⟨MP_SOS x, 31, 0⟩
def MP_PRESS (x : Nat) : Nat := 0x40120228 + 0x1000 * x
def MP_PRESS_P (x : Nat) : Fld := ⟨MP_PRESS x, 31, 0⟩
def MP_POWER (x : Nat) : Nat := 0x4012022C + 0x1000 * x
def MP_POWER_POWER (x : Nat) : Fld := ⟨MP_POWER x, 31, 0⟩
def MP_CONV (x : Nat) : Nat := 0x40120230 + 0x1000 * x
def MP_CONV_C (x : Nat) : Fld := ⟨MP_CONV x, 31, 0⟩
def MP_Z (x : Nat) : Nat := 0x40120234 + 0x1000 * x
def MP_Z_Z (x : Nat) : Fld := ⟨MP_Z x, 31, 0⟩
def MP_ZB (x : Nat) : Nat := 0x40120238 + 0x1000 * x
def MP_ZB_Z (x : Nat) : Fld := ⟨MP_ZB x, 31, 0⟩
def MP_XH2E (x : Nat) : Nat := 0x4012023C + 0x1000 * x
def MP_XH2E_CLAMP (x : Nat) : Fld := ⟨MP_XH2E x, 17, 17⟩
def MP_XH2E_VALID (x : Nat) : Fld := ⟨MP_XH2E x, 16, 16⟩
def MP_XH2E_XH2 (x : Nat) : Fld := ⟨MP_XH2E x, 15, 0⟩
def MP_P_LEN (x : Nat) (n : Nat) : Nat := 0x40120040 + 0x1000 * x + 0x10 * n
def MP_P_LEN_LEN (x : Nat) (n : Nat) : Fld := ⟨MP_P_LEN x n, 31, 0⟩
def MP_P_AX (x : Nat) (n : Nat) : Nat := 0x40120044 + 0x1000 * x + 0x10 * n
def MP_P_AX_AX (x : Nat) (n : Nat) : Fld := ⟨MP_P_AX x n, 31, 0⟩
def MP_P_T0 (x : Nat) (n : Nat) : Nat := 0x40120048 + 0x1000 * x + 0x10 * n
def MP_P_T0_T0 (x : Nat) (n : Nat) : Fld := ⟨MP_P_T0 x n, 31, 0⟩
def MP_P_W (x : Nat) (n : Nat) : Nat := 0x4012004C + 0x1000 * x + 0x10 * n
def MP_P_W_W (x : Nat) (n : Nat) : Fld := ⟨MP_P_W x n, 31, 0⟩
def MP_KRE (x : Nat) (n : Nat) : Nat := 0x40120100 + 0x1000 * x + 0x8 * n
def MP_KRE_RE (x : Nat) (n : Nat) : Fld := ⟨MP_KRE x n, 31, 0⟩
def MP_KF (x : Nat) (n : Nat) : Nat := 0x40120104 + 0x1000 * x + 0x8 * n
def MP_KF_K (x : Nat) (n : Nat) : Fld := ⟨MP_KF x n, 31, 0⟩
def SENS_CTRL : Nat := 0x40130000
def SENS_CTRL_EN : Fld := ⟨SENS_CTRL, 16, 16⟩
def SENS_CTRL_REFEXT : Fld := ⟨SENS_CTRL, 15, 15⟩
def SENS_CTRL_REFSEL : Fld := ⟨SENS_CTRL, 14, 12⟩
def SENS_CTRL_PBEN : Fld := ⟨SENS_CTRL, 8, 8⟩
def SENS_CTRL_TSEN : Fld := ⟨SENS_CTRL, 5, 0⟩
def SENS_CAD : Nat := 0x40130004
def SENS_CAD_BR_DIV : Fld := ⟨SENS_CAD, 15, 8⟩
def SENS_CAD_RTD_DIV : Fld := ⟨SENS_CAD, 7, 0⟩
def SENS_RREF : Nat := 0x40130008
def SENS_RREF_RREF : Fld := ⟨SENS_RREF, 31, 0⟩
def SENS_SEQ : Nat := 0x4013000C
def SENS_SEQ_PSEQ : Fld := ⟨SENS_SEQ, 31, 16⟩
def SENS_SEQ_TSEQ : Fld := ⟨SENS_SEQ, 15, 0⟩
def SENS_TCFG (n : Nat) : Nat := 0x40130040 + 0x10 * n
def SENS_TCFG_LEAD (n : Nat) : Fld := ⟨SENS_TCFG n, 31, 16⟩
def SENS_TCFG_REF (n : Nat) : Fld := ⟨SENS_TCFG n, 3, 3⟩
def SENS_TCFG_WIRES (n : Nat) : Fld := ⟨SENS_TCFG n, 2, 2⟩
def SENS_TCFG_TYPE (n : Nat) : Fld := ⟨SENS_TCFG n, 1, 0⟩
def SENS_TCAL (n : Nat) : Nat := 0x40130044 + 0x10 * n
def SENS_TCAL_GAIN (n : Nat) : Fld := ⟨SENS_TCAL n, 31, 16⟩
def SENS_TCAL_OFF (n : Nat) : Fld := ⟨SENS_TCAL n, 15, 0⟩
def SENS_TVAL (n : Nat) : Nat := 0x40130048 + 0x10 * n
def SENS_TVAL_T (n : Nat) : Fld := ⟨SENS_TVAL n, 31, 0⟩
def SENS_TSTAT (n : Nat) : Nat := 0x4013004C + 0x10 * n
def SENS_TSTAT_STATE (n : Nat) : Fld := ⟨SENS_TSTAT n, 31, 30⟩
def SENS_TSTAT_RES (n : Nat) : Fld := ⟨SENS_TSTAT n, 23, 0⟩
def SENS_PBCFG (n : Nat) : Nat := 0x40130100 + 0x4 * n
def SENS_PBCFG_P (n : Nat) : Fld := ⟨SENS_PBCFG n, 31, 0⟩
def SENS_PBVAL : Nat := 0x4013010C
def SENS_PBVAL_P : Fld := ⟨SENS_PBVAL, 31, 0⟩
def SENS_PBSTAT : Nat := 0x40130110
def SENS_PBSTAT_STATE : Fld := ⟨SENS_PBSTAT, 31, 30⟩
def SENS_PBSTAT_RATIO : Fld := ⟨SENS_PBSTAT, 23, 0⟩
def RTC_SEC : Nat := 0x40200000
def RTC_SEC_SEC : Fld := ⟨RTC_SEC, 31, 0⟩
def RTC_FRAC : Nat := 0x40200004
def RTC_FRAC_FRAC : Fld := ⟨RTC_FRAC, 15, 0⟩
def RTC_CTRL : Nat := 0x40200008
def RTC_CTRL_CAPTURE : Fld := ⟨RTC_CTRL, 0, 0⟩
def RTC_CAPSEC : Nat := 0x4020000C
def RTC_CAPSEC_SEC : Fld := ⟨RTC_CAPSEC, 31, 0⟩
def RTC_CAPFRAC : Nat := 0x40200010
def RTC_CAPFRAC_FRAC : Fld := ⟨RTC_CAPFRAC, 15, 0⟩
def RTC_CALD : Nat := 0x40200014
def RTC_CALD_YEAR : Fld := ⟨RTC_CALD, 23, 16⟩
def RTC_CALD_MONTH : Fld := ⟨RTC_CALD, 11, 8⟩
def RTC_CALD_DAY : Fld := ⟨RTC_CALD, 4, 0⟩
def RTC_CALT : Nat := 0x40200018
def RTC_CALT_WDAY : Fld := ⟨RTC_CALT, 26, 24⟩
def RTC_CALT_HOUR : Fld := ⟨RTC_CALT, 20, 16⟩
def RTC_CALT_MINUTE : Fld := ⟨RTC_CALT, 13, 8⟩
def RTC_CALT_SECOND : Fld := ⟨RTC_CALT, 5, 0⟩
def RTC_SETD : Nat := 0x4020001C
def RTC_SETD_YEAR : Fld := ⟨RTC_SETD, 23, 16⟩
def RTC_SETD_MONTH : Fld := ⟨RTC_SETD, 11, 8⟩
def RTC_SETD_DAY : Fld := ⟨RTC_SETD, 4, 0⟩
def RTC_SETT : Nat := 0x40200020
def RTC_SETT_HOUR : Fld := ⟨RTC_SETT, 20, 16⟩
def RTC_SETT_MINUTE : Fld := ⟨RTC_SETT, 13, 8⟩
def RTC_SETT_SECOND : Fld := ⟨RTC_SETT, 5, 0⟩
def RTC_STAT : Nat := 0x40200024
def RTC_STAT_RETERR : Fld := ⟨RTC_STAT, 10, 10⟩
def RTC_STAT_CDTEXP : Fld := ⟨RTC_STAT, 9, 9⟩
def RTC_STAT_CLAMPED : Fld := ⟨RTC_STAT, 8, 8⟩
def RTC_STAT_STEPUNTR : Fld := ⟨RTC_STAT, 7, 7⟩
def RTC_STAT_STEPPED : Fld := ⟨RTC_STAT, 6, 6⟩
def RTC_STAT_CBUSY : Fld := ⟨RTC_STAT, 5, 5⟩
def RTC_STAT_WBUSY : Fld := ⟨RTC_STAT, 4, 4⟩
def RTC_STAT_WRAP : Fld := ⟨RTC_STAT, 3, 3⟩
def RTC_STAT_XT32STOP : Fld := ⟨RTC_STAT, 2, 2⟩
def RTC_STAT_BKPOR : Fld := ⟨RTC_STAT, 1, 1⟩
def RTC_STAT_OSF : Fld := ⟨RTC_STAT, 0, 0⟩
def RTC_STEP : Nat := 0x40200028
def RTC_STEP_STEP : Fld := ⟨RTC_STEP, 31, 0⟩
def RTC_STEPFRAC : Nat := 0x4020002C
def RTC_STEPFRAC_FRAC : Fld := ⟨RTC_STEPFRAC, 15, 0⟩
def RTC_TRIM : Nat := 0x40200030
def RTC_TRIM_APPLIED : Fld := ⟨RTC_TRIM, 26, 16⟩
def RTC_TRIM_VAL : Fld := ⟨RTC_TRIM, 10, 0⟩
def RTC_CDT : Nat := 0x40200034
def RTC_CDT_COUNT : Fld := ⟨RTC_CDT, 23, 0⟩
def RTC_TICKSEC : Nat := 0x40200038
def RTC_TICKSEC_SEC : Fld := ⟨RTC_TICKSEC, 31, 0⟩
def RTC_TICKFRAC : Nat := 0x4020003C
def RTC_TICKFRAC_FRAC : Fld := ⟨RTC_TICKFRAC, 15, 0⟩
def RTC_RET (n : Nat) : Nat := 0x40200040 + 0x4 * n
def RTC_RET_DATA (n : Nat) : Fld := ⟨RTC_RET n, 31, 0⟩
def BILL_CFG : Nat := 0x40300000
def BILL_CFG_SYNC : Fld := ⟨BILL_CFG, 23, 16⟩
def BILL_CFG_DEMLEN : Fld := ⟨BILL_CFG, 2, 0⟩
def BILL_PER : Nat := 0x40300004
def BILL_PER_EVERY : Fld := ⟨BILL_PER, 27, 24⟩
def BILL_PER_FIRST : Fld := ⟨BILL_PER, 19, 16⟩
def BILL_PER_HOUR : Fld := ⟨BILL_PER, 12, 8⟩
def BILL_PER_DAY : Fld := ⟨BILL_PER, 4, 0⟩
def BILL_CMD : Nat := 0x40300008
def BILL_CMD_CLOSE : Fld := ⟨BILL_CMD, 0, 0⟩
def BILL_STAT : Nat := 0x4030000C
def BILL_STAT_PERIODS : Fld := ⟨BILL_STAT, 31, 16⟩
def BILL_STAT_UNTR : Fld := ⟨BILL_STAT, 7, 7⟩
def BILL_STAT_STEP : Fld := ⟨BILL_STAT, 6, 6⟩
def BILL_STAT_CATCHUP : Fld := ⟨BILL_STAT, 5, 5⟩
def BILL_STAT_CLOSEPEND : Fld := ⟨BILL_STAT, 4, 4⟩
def BILL_STAT_TARIFF : Fld := ⟨BILL_STAT, 2, 0⟩
def BILL_LASTD : Nat := 0x40300010
def BILL_LASTD_SEC : Fld := ⟨BILL_LASTD, 31, 0⟩
def BILL_LASTP : Nat := 0x40300014
def BILL_LASTP_SEC : Fld := ⟨BILL_LASTP, 31, 0⟩
def BILL_LASTT : Nat := 0x40300018
def BILL_LASTT_SEC : Fld := ⟨BILL_LASTT, 31, 0⟩
def BILL_SWCNT : Nat := 0x4030001C
def BILL_SWCNT_SWITCHES : Fld := ⟨BILL_SWCNT, 15, 0⟩
def BILL_ADJCNT : Nat := 0x40300020
def BILL_ADJCNT_STEPS : Fld := ⟨BILL_ADJCNT, 31, 16⟩
def BILL_ADJCNT_SYNCS : Fld := ⟨BILL_ADJCNT, 15, 0⟩
def BILL_JRNL : Nat := 0x40300024
def BILL_JRNL_HEAD : Fld := ⟨BILL_JRNL, 24, 16⟩
def BILL_JRNL_PEND : Fld := ⟨BILL_JRNL, 7, 4⟩
def BILL_JRNL_OPEN : Fld := ⟨BILL_JRNL, 3, 3⟩
def BILL_JSEQ : Nat := 0x40300028
def BILL_JSEQ_SEQ : Fld := ⟨BILL_JSEQ, 31, 0⟩
def BILL_REG (x : Nat) (n : Nat) (w : Nat) : Nat := 0x40300400 + 0x400 * x + 0x10 * n + 0x4 * w
def BILL_REG_VALUE (x : Nat) (n : Nat) (w : Nat) : Fld := ⟨BILL_REG x n w, 31, 0⟩
def BILL_MD (x : Nat) (n : Nat) : Nat := 0x40300C00 + 0x100 * x + 0x8 * n
def BILL_MD_MD (x : Nat) (n : Nat) : Fld := ⟨BILL_MD x n, 31, 0⟩
def BILL_MDT (x : Nat) (n : Nat) : Nat := 0x40300C04 + 0x100 * x + 0x8 * n
def BILL_MDT_SEC (x : Nat) (n : Nat) : Fld := ⟨BILL_MDT x n, 31, 0⟩
def BILL_LD (x : Nat) (n : Nat) : Nat := 0x40300C20 + 0x100 * x + 0x4 * n
def BILL_LD_DEM (x : Nat) (n : Nat) : Fld := ⟨BILL_LD x n, 31, 0⟩
def BILL_LSTART (x : Nat) : Nat := 0x40300C30 + 0x100 * x
def BILL_LSTART_SEC (x : Nat) : Fld := ⟨BILL_LSTART x, 31, 0⟩
def BILL_LEND (x : Nat) : Nat := 0x40300C34 + 0x100 * x
def BILL_LEND_SEC (x : Nat) : Fld := ⟨BILL_LEND x, 31, 0⟩
def BILL_LFLG (x : Nat) : Nat := 0x40300C38 + 0x100 * x
def BILL_LFLG_SKIPPED (x : Nat) : Fld := ⟨BILL_LFLG x, 31, 16⟩
def BILL_LFLG_TARIFF (x : Nat) : Fld := ⟨BILL_LFLG x, 10, 8⟩
def BILL_LFLG_ELIG (x : Nat) : Fld := ⟨BILL_LFLG x, 3, 3⟩
def BILL_LFLG_UNTR (x : Nat) : Fld := ⟨BILL_LFLG x, 2, 2⟩
def BILL_LFLG_POWER (x : Nat) : Fld := ⟨BILL_LFLG x, 1, 1⟩
def BILL_LFLG_SHORT (x : Nat) : Fld := ⟨BILL_LFLG x, 0, 0⟩
def ALM_SEASON (n : Nat) : Nat := 0x40310000 + 0x4 * n
def ALM_SEASON_EN (n : Nat) : Fld := ⟨ALM_SEASON n, 31, 31⟩
def ALM_SEASON_WEEK (n : Nat) : Fld := ⟨ALM_SEASON n, 18, 16⟩
def ALM_SEASON_MONTH (n : Nat) : Fld := ⟨ALM_SEASON n, 11, 8⟩
def ALM_SEASON_DAY (n : Nat) : Fld := ⟨ALM_SEASON n, 4, 0⟩
def ALM_WEEK (n : Nat) : Nat := 0x40310040 + 0x4 * n
def ALM_WEEK_DAYS (n : Nat) : Fld := ⟨ALM_WEEK n, 27, 0⟩
def ALM_DAY (n : Nat) (w : Nat) : Nat := 0x40310100 + 0x20 * n + 0x4 * w
def ALM_DAY_EN (n : Nat) (w : Nat) : Fld := ⟨ALM_DAY n w, 31, 31⟩
def ALM_DAY_TARIFF (n : Nat) (w : Nat) : Fld := ⟨ALM_DAY n w, 18, 16⟩
def ALM_DAY_HOUR (n : Nat) (w : Nat) : Fld := ⟨ALM_DAY n w, 12, 8⟩
def ALM_DAY_MINUTE (n : Nat) (w : Nat) : Fld := ⟨ALM_DAY n w, 5, 0⟩
def ALM_SPEC (n : Nat) : Nat := 0x40310400 + 0x4 * n
def ALM_SPEC_EN (n : Nat) : Fld := ⟨ALM_SPEC n, 31, 31⟩
def ALM_SPEC_RECUR (n : Nat) : Fld := ⟨ALM_SPEC n, 30, 30⟩
def ALM_SPEC_YEAR (n : Nat) : Fld := ⟨ALM_SPEC n, 27, 20⟩
def ALM_SPEC_MONTH (n : Nat) : Fld := ⟨ALM_SPEC n, 19, 16⟩
def ALM_SPEC_DAY (n : Nat) : Fld := ⟨ALM_SPEC n, 15, 11⟩
def ALM_SPEC_PROFILE (n : Nat) : Fld := ⟨ALM_SPEC n, 3, 0⟩
def ALM_STAT : Nat := 0x40310600
def ALM_STAT_TARIFF : Fld := ⟨ALM_STAT, 26, 24⟩
def ALM_STAT_SPECIAL : Fld := ⟨ALM_STAT, 21, 16⟩
def ALM_STAT_SPECHIT : Fld := ⟨ALM_STAT, 15, 15⟩
def ALM_STAT_ENTRY : Fld := ⟨ALM_STAT, 14, 12⟩
def ALM_STAT_DAYPROF : Fld := ⟨ALM_STAT, 11, 8⟩
def ALM_STAT_WEEK : Fld := ⟨ALM_STAT, 6, 4⟩
def ALM_STAT_NOSEASON : Fld := ⟨ALM_STAT, 2, 2⟩
def ALM_STAT_SEASON : Fld := ⟨ALM_STAT, 1, 0⟩
def PAY_CFG : Nat := 0x40320000
def PAY_CFG_FRIENDLY : Fld := ⟨PAY_CFG, 23, 16⟩
def PAY_CFG_ARM : Fld := ⟨PAY_CFG, 15, 15⟩
def PAY_CFG_QMP : Fld := ⟨PAY_CFG, 10, 10⟩
def PAY_CFG_QSEL : Fld := ⟨PAY_CFG, 9, 8⟩
def PAY_CFG_ECEN : Fld := ⟨PAY_CFG, 3, 3⟩
def PAY_CFG_KEYEN : Fld := ⟨PAY_CFG, 2, 2⟩
def PAY_CFG_MODE : Fld := ⟨PAY_CFG, 1, 0⟩
def PAY_TKCFG : Nat := 0x40320004
def PAY_TKCFG_SLOT : Fld := ⟨PAY_TKCFG, 2, 0⟩
def PAY_PRICE (n : Nat) : Nat := 0x40320020 + 0x4 * n
def PAY_PRICE_PRICE (n : Nat) : Fld := ⟨PAY_PRICE n, 31, 0⟩
def PAY_CREDIT_LO : Nat := 0x40320040
def PAY_CREDIT_LO_CREDIT : Fld := ⟨PAY_CREDIT_LO, 31, 0⟩
def PAY_CREDIT_HI : Nat := 0x40320044
def PAY_CREDIT_HI_CREDIT : Fld := ⟨PAY_CREDIT_HI, 31, 0⟩
def PAY_LOW : Nat := 0x40320048
def PAY_LOW_LOW : Fld := ⟨PAY_LOW, 31, 0⟩
def PAY_EC : Nat := 0x4032004C
def PAY_EC_EC : Fld := ⟨PAY_EC, 31, 0⟩
def PAY_STAT : Nat := 0x40320050
def PAY_STAT_REJRUN : Fld := ⟨PAY_STAT, 18, 16⟩
def PAY_STAT_LOCKOUT : Fld := ⟨PAY_STAT, 9, 9⟩
def PAY_STAT_ECAVAIL : Fld := ⟨PAY_STAT, 8, 8⟩
def PAY_STAT_REMOTE : Fld := ⟨PAY_STAT, 7, 7⟩
def PAY_STAT_CMODE : Fld := ⟨PAY_STAT, 4, 3⟩
def PAY_STAT_STATE : Fld := ⟨PAY_STAT, 2, 0⟩
def PAY_TKHWM : Nat := 0x40320054
def PAY_TKHWM_HWM : Fld := ⟨PAY_TKHWM, 21, 0⟩
def PAY_TKMAP_LO : Nat := 0x40320058
def PAY_TKMAP_LO_MAP : Fld := ⟨PAY_TKMAP_LO, 31, 0⟩
def PAY_TKMAP_HI : Nat := 0x4032005C
def PAY_TKMAP_HI_MAP : Fld := ⟨PAY_TKMAP_HI, 31, 0⟩
def PAY_TKLAST : Nat := 0x40320060
def PAY_TKLAST_RESULT : Fld := ⟨PAY_TKLAST, 31, 28⟩
def PAY_TKLAST_CLASS : Fld := ⟨PAY_TKLAST, 25, 22⟩
def PAY_TKLAST_ID : Fld := ⟨PAY_TKLAST, 21, 0⟩
def PAY_TKCNT : Nat := 0x40320064
def PAY_TKCNT_REJECTED : Fld := ⟨PAY_TKCNT, 31, 16⟩
def PAY_TKCNT_ACCEPTED : Fld := ⟨PAY_TKCNT, 15, 0⟩
def PAY_ACT : Nat := 0x40320070
def PAY_ACT_FBC : Fld := ⟨PAY_ACT, 9, 9⟩
def PAY_ACT_FBO : Fld := ⟨PAY_ACT, 8, 8⟩
def PAY_ACT_STATE : Fld := ⟨PAY_ACT, 6, 4⟩
def PAY_ACT_CMD : Fld := ⟨PAY_ACT, 1, 0⟩
def PAY_VLV : Nat := 0x40320074
def PAY_VLV_EN : Fld := ⟨PAY_VLV, 31, 31⟩
def PAY_VLV_TIMEOUT : Fld := ⟨PAY_VLV, 23, 16⟩
def PAY_VLV_PULSE : Fld := ⟨PAY_VLV, 15, 0⟩
def RADIO_CTRL : Nat := 0x40400000
def RADIO_CTRL_EXTPA : Fld := ⟨RADIO_CTRL, 2, 2⟩
def RADIO_CTRL_EN : Fld := ⟨RADIO_CTRL, 0, 0⟩
def RADIO_FREQ : Nat := 0x40400004
def RADIO_FREQ_HZ : Fld := ⟨RADIO_FREQ, 31, 0⟩
def RADIO_MOD : Nat := 0x40400008
def RADIO_MOD_RATE : Fld := ⟨RADIO_MOD, 2, 0⟩
def RADIO_PWR : Nat := 0x4040000C
def RADIO_PWR_LEVEL : Fld := ⟨RADIO_PWR, 4, 0⟩
def RADIO_CCA : Nat := 0x40400010
def RADIO_CCA_THR : Fld := ⟨RADIO_CCA, 15, 8⟩
def RADIO_CCA_EN : Fld := ⟨RADIO_CCA, 0, 0⟩
def RADIO_DUTY : Nat := 0x40400014
def RADIO_DUTY_USED : Fld := ⟨RADIO_DUTY, 31, 16⟩
def RADIO_DUTY_LIMIT : Fld := ⟨RADIO_DUTY, 15, 0⟩
def RADIO_STAT : Nat := 0x40400018
def RADIO_STAT_RSSI : Fld := ⟨RADIO_STAT, 31, 24⟩
def RADIO_STAT_STATE : Fld := ⟨RADIO_STAT, 2, 0⟩
def RADIO_CNT : Nat := 0x4040001C
def RADIO_CNT_RX : Fld := ⟨RADIO_CNT, 31, 16⟩
def RADIO_CNT_TX : Fld := ⟨RADIO_CNT, 15, 0⟩
def LINK_CFG : Nat := 0x40410000
def LINK_CFG_EN : Fld := ⟨LINK_CFG, 31, 31⟩
def LINK_CFG_SAMPEN : Fld := ⟨LINK_CFG, 30, 30⟩
def LINK_CFG_PLAIN : Fld := ⟨LINK_CFG, 29, 29⟩
def LINK_CFG_JOINEN : Fld := ⟨LINK_CFG, 28, 28⟩
def LINK_CFG_CSI : Fld := ⟨LINK_CFG, 26, 24⟩
def LINK_CFG_JSLOT : Fld := ⟨LINK_CFG, 22, 20⟩
def LINK_CFG_RETRIES : Fld := ⟨LINK_CFG, 19, 16⟩
def LINK_CFG_TRAINMAX : Fld := ⟨LINK_CFG, 15, 8⟩
def LINK_ADDR : Nat := 0x40410004
def LINK_ADDR_ADDR : Fld := ⟨LINK_ADDR, 15, 0⟩
def LINK_DRIFT : Nat := 0x40410008
def LINK_DRIFT_DRIFTB : Fld := ⟨LINK_DRIFT, 15, 8⟩
def LINK_DRIFT_DRIFTR : Fld := ⟨LINK_DRIFT, 7, 0⟩
def LINK_TXSEQ : Nat := 0x4041000C
def LINK_TXSEQ_SEQ : Fld := ⟨LINK_TXSEQ, 15, 0⟩
def LINK_STAT : Nat := 0x40410010
def LINK_STAT_QUEUED : Fld := ⟨LINK_STAT, 31, 16⟩
def LINK_STAT_WMBKEY : Fld := ⟨LINK_STAT, 3, 3⟩
def LINK_STAT_FCEXH : Fld := ⟨LINK_STAT, 2, 2⟩
def LINK_STAT_RESWAIT : Fld := ⟨LINK_STAT, 1, 1⟩
def LINK_STAT_JOINED : Fld := ⟨LINK_STAT, 0, 0⟩
def LINK_CNT0 : Nat := 0x40410014
def LINK_CNT0_DUPACK : Fld := ⟨LINK_CNT0, 31, 16⟩
def LINK_CNT0_MICFAIL : Fld := ⟨LINK_CNT0, 15, 0⟩
def LINK_CNT1 : Nat := 0x40410018
def LINK_CNT1_FAILED : Fld := ⟨LINK_CNT1, 31, 16⟩
def LINK_CNT1_FALLBACK : Fld := ⟨LINK_CNT1, 15, 0⟩
def LINK_CNT2 : Nat := 0x4041001C
def LINK_CNT2_QFULL : Fld := ⟨LINK_CNT2, 31, 16⟩
def LINK_CNT2_STALE : Fld := ⟨LINK_CNT2, 15, 0⟩
def LINK_WMB : Nat := 0x40410020
def LINK_WMB_EN : Fld := ⟨LINK_WMB, 31, 31⟩
def LINK_WMB_MODE : Fld := ⟨LINK_WMB, 30, 28⟩
def LINK_WMB_FMTB : Fld := ⟨LINK_WMB, 27, 27⟩
def LINK_WMB_SLOT : Fld := ⟨LINK_WMB, 26, 24⟩
def LINK_WMB_SEC : Fld := ⟨LINK_WMB, 23, 23⟩
def LINK_WMB_GASBASE : Fld := ⟨LINK_WMB, 22, 22⟩
def LINK_WMB_NCH : Fld := ⟨LINK_WMB, 21, 16⟩
def LINK_WMB_INTERVAL : Fld := ⟨LINK_WMB, 15, 0⟩
def LINK_WMBID : Nat := 0x40410024
def LINK_WMBID_ID : Fld := ⟨LINK_WMBID, 31, 0⟩
def LINK_WMBHDR : Nat := 0x40410028
def LINK_WMBHDR_MFR : Fld := ⟨LINK_WMBHDR, 31, 16⟩
def LINK_WMBHDR_VER : Fld := ⟨LINK_WMBHDR, 15, 8⟩
def LINK_WMBHDR_TYPE : Fld := ⟨LINK_WMBHDR, 7, 0⟩
def LINK_WMBOBJ (n : Nat) : Nat := 0x40410030 + 0x4 * n
def LINK_WMBOBJ_ENTRY (n : Nat) : Fld := ⟨LINK_WMBOBJ n, 31, 0⟩
def LINK_FC (n : Nat) : Nat := 0x40410100 + 0x4 * n
def LINK_FC_FC (n : Nat) : Fld := ⟨LINK_FC n, 31, 0⟩
def LINK_NB_A (n : Nat) : Nat := 0x40410400 + 0x20 * n
def LINK_NB_A_VALID (n : Nat) : Fld := ⟨LINK_NB_A n, 31, 31⟩
def LINK_NB_A_CSI (n : Nat) : Fld := ⟨LINK_NB_A n, 30, 28⟩
def LINK_NB_A_KEY (n : Nat) : Fld := ⟨LINK_NB_A n, 26, 24⟩
def LINK_NB_A_KID (n : Nat) : Fld := ⟨LINK_NB_A n, 23, 16⟩
def LINK_NB_A_ADDR (n : Nat) : Fld := ⟨LINK_NB_A n, 15, 0⟩
def LINK_NB_B (n : Nat) : Nat := 0x40410404 + 0x20 * n
def LINK_NB_B_PHASEOK (n : Nat) : Fld := ⟨LINK_NB_B n, 31, 31⟩
def LINK_NB_B_DRIFTOK (n : Nat) : Fld := ⟨LINK_NB_B n, 30, 30⟩
def LINK_NB_B_SEQOK (n : Nat) : Fld := ⟨LINK_NB_B n, 29, 29⟩
def LINK_NB_B_ACKST (n : Nat) : Fld := ⟨LINK_NB_B n, 27, 26⟩
def LINK_NB_B_LASTSEQ (n : Nat) : Fld := ⟨LINK_NB_B n, 15, 0⟩
def LINK_NB_C (n : Nat) : Nat := 0x40410408 + 0x20 * n
def LINK_NB_C_PSEC (n : Nat) : Fld := ⟨LINK_NB_C n, 31, 0⟩
def LINK_NB_D (n : Nat) : Nat := 0x4041040C + 0x20 * n
def LINK_NB_D_PFRAC (n : Nat) : Fld := ⟨LINK_NB_D n, 31, 16⟩
def LINK_NB_D_DRIFT (n : Nat) : Fld := ⟨LINK_NB_D n, 15, 0⟩
def LINK_NB_E (n : Nat) : Nat := 0x40410410 + 0x20 * n
def LINK_NB_E_RXFC (n : Nat) : Fld := ⟨LINK_NB_E n, 31, 0⟩
def DISP_CTRL : Nat := 0x40500000
def DISP_CTRL_REDALM : Fld := ⟨DISP_CTRL, 8, 8⟩
def DISP_CTRL_MODE : Fld := ⟨DISP_CTRL, 3, 2⟩
def DISP_CTRL_MQHOLD : Fld := ⟨DISP_CTRL, 1, 1⟩
def DISP_CTRL_EN : Fld := ⟨DISP_CTRL, 0, 0⟩
def DISP_LCD : Nat := 0x40500004
def DISP_LCD_TCOMP : Fld := ⟨DISP_LCD, 20, 16⟩
def DISP_LCD_VOP : Fld := ⟨DISP_LCD, 12, 8⟩
def DISP_LCD_PHASE : Fld := ⟨DISP_LCD, 7, 3⟩
def DISP_LCD_BIAS : Fld := ⟨DISP_LCD, 1, 1⟩
def DISP_LCD_DUTY : Fld := ⟨DISP_LCD, 0, 0⟩
def DISP_BCFG : Nat := 0x40500008
def DISP_BCFG_MININT : Fld := ⟨DISP_BCFG, 31, 24⟩
def DISP_BCFG_VLOW : Fld := ⟨DISP_BCFG, 23, 20⟩
def DISP_BCFG_VMQ : Fld := ⟨DISP_BCFG, 19, 16⟩
def DISP_BCFG_BALMAX : Fld := ⟨DISP_BCFG, 15, 8⟩
def DISP_BCFG_BALLIM : Fld := ⟨DISP_BCFG, 7, 0⟩
def DISP_CUR_CFG (n : Nat) : Nat := 0x40500010 + 0x10 * n
def DISP_CUR_CFG_PHLEN (n : Nat) : Fld := ⟨DISP_CUR_CFG n, 15, 8⟩
def DISP_CUR_CFG_NPHM1 (n : Nat) : Fld := ⟨DISP_CUR_CFG n, 4, 0⟩
def DISP_CUR_LO (n : Nat) : Nat := 0x40500014 + 0x10 * n
def DISP_CUR_LO_PH (n : Nat) : Fld := ⟨DISP_CUR_LO n, 31, 0⟩
def DISP_CUR_HI (n : Nat) : Nat := 0x40500018 + 0x10 * n
def DISP_CUR_HI_PH (n : Nat) : Fld := ⟨DISP_CUR_HI n, 31, 0⟩
def DISP_MQCFG : Nat := 0x40500040
def DISP_MQCFG_QREF : Fld := ⟨DISP_MQCFG, 31, 16⟩
def DISP_MQCFG_PHLEN : Fld := ⟨DISP_MQCFG, 15, 8⟩
def DISP_OD (n : Nat) : Nat := 0x40500044 + 4 * n
def DISP_OD_TO0 (n : Nat) : Fld := ⟨DISP_OD n, 7, 0⟩
def DISP_OD_TO1 (n : Nat) : Fld := ⟨DISP_OD n, 15, 8⟩
def DISP_OD_TO2 (n : Nat) : Fld := ⟨DISP_OD n, 23, 16⟩
def DISP_OD_TO3 (n : Nat) : Fld := ⟨DISP_OD n, 31, 24⟩
def DISP_PAGE (n : Nat) : Nat := 0x40500080 + 0x4 * n
def DISP_PAGE_EN (n : Nat) : Fld := ⟨DISP_PAGE n, 31, 31⟩
def DISP_PAGE_SRC (n : Nat) : Fld := ⟨DISP_PAGE n, 30, 26⟩
def DISP_PAGE_MP (n : Nat) : Fld := ⟨DISP_PAGE n, 25, 25⟩
def DISP_PAGE_TSEL (n : Nat) : Fld := ⟨DISP_PAGE n, 24, 21⟩
def DISP_PAGE_DEC (n : Nat) : Fld := ⟨DISP_PAGE n, 20, 17⟩
def DISP_PAGE_DIG (n : Nat) : Fld := ⟨DISP_PAGE n, 16, 13⟩
def DISP_PAGE_POS (n : Nat) : Fld := ⟨DISP_PAGE n, 12, 9⟩
def DISP_PAGE_UNIT (n : Nat) : Fld := ⟨DISP_PAGE n, 8, 6⟩
def DISP_PAGE_LZ (n : Nat) : Fld := ⟨DISP_PAGE n, 5, 5⟩
def DISP_SREG (n : Nat) : Nat := 0x40500100 + 0x4 * n
def DISP_SREG_RG0 (n : Nat) : Fld := ⟨DISP_SREG n, 2, 0⟩
def DISP_SREG_RG1 (n : Nat) : Fld := ⟨DISP_SREG n, 5, 3⟩
def DISP_SREG_RG2 (n : Nat) : Fld := ⟨DISP_SREG n, 8, 6⟩
def DISP_SREG_RG3 (n : Nat) : Fld := ⟨DISP_SREG n, 11, 9⟩
def DISP_SREG_RG4 (n : Nat) : Fld := ⟨DISP_SREG n, 14, 12⟩
def DISP_SREG_RG5 (n : Nat) : Fld := ⟨DISP_SREG n, 17, 15⟩
def DISP_SREG_RG6 (n : Nat) : Fld := ⟨DISP_SREG n, 20, 18⟩
def DISP_SREG_RG7 (n : Nat) : Fld := ⟨DISP_SREG n, 23, 21⟩
def DISP_SREG_RG8 (n : Nat) : Fld := ⟨DISP_SREG n, 26, 24⟩
def DISP_NAV : Nat := 0x40500140
def DISP_NAV_RETURN : Fld := ⟨DISP_NAV, 15, 8⟩
def DISP_NAV_SCROLL : Fld := ⟨DISP_NAV, 7, 0⟩
def DISP_STAT : Nat := 0x40500144
def DISP_STAT_CRCERR : Fld := ⟨DISP_STAT, 31, 24⟩
def DISP_STAT_PENDING : Fld := ⟨DISP_STAT, 23, 16⟩
def DISP_STAT_UNKNOWN : Fld := ⟨DISP_STAT, 15, 8⟩
def DISP_STAT_RUNREG : Fld := ⟨DISP_STAT, 7, 5⟩
def DISP_STAT_BUSY : Fld := ⟨DISP_STAT, 4, 4⟩
def DISP_STAT_PAGE : Fld := ⟨DISP_STAT, 3, 0⟩
def DISP_FCRC : Nat := 0x40500148
def DISP_FCRC_CRC : Fld := ⟨DISP_FCRC, 31, 0⟩
def DISP_UPDCNT : Nat := 0x4050014C
def DISP_UPDCNT_RECOVER : Fld := ⟨DISP_UPDCNT, 31, 16⟩
def DISP_UPDCNT_UPDATES : Fld := ⟨DISP_UPDCNT, 15, 0⟩
def DISP_BAL (n : Nat) : Nat := 0x40500200 + 0x4 * n
def DISP_BAL_BAL (n : Nat) : Fld := ⟨DISP_BAL n, 15, 0⟩
def DISP_SMAP (n : Nat) : Nat := 0x40500400 + 0x4 * n
def DISP_SMAP_EN (n : Nat) : Fld := ⟨DISP_SMAP n, 31, 31⟩
def DISP_SMAP_SRC (n : Nat) : Fld := ⟨DISP_SMAP n, 20, 16⟩
def DISP_SMAP_SEG (n : Nat) : Fld := ⟨DISP_SMAP n, 8, 0⟩
def KEYS_LC : Nat := 0x40600000
def KEYS_LC_DBGEN_R : Fld := ⟨KEYS_LC, 18, 18⟩
def KEYS_LC_DBGEN_B : Fld := ⟨KEYS_LC, 17, 17⟩
def KEYS_LC_DBG : Fld := ⟨KEYS_LC, 16, 16⟩
def KEYS_LC_EPOCH : Fld := ⟨KEYS_LC, 15, 8⟩
def KEYS_LC_STATE : Fld := ⟨KEYS_LC, 2, 0⟩
def KEYS_CMD : Nat := 0x40600004
def KEYS_CMD_HOLDACK : Fld := ⟨KEYS_CMD, 8, 8⟩
def KEYS_CMD_DBGEN : Fld := ⟨KEYS_CMD, 0, 0⟩
def KEYS_STAT : Nat := 0x40600008
def KEYS_STAT_ROOTERR : Fld := ⟨KEYS_STAT, 11, 11⟩
def KEYS_STAT_FAULT : Fld := ⟨KEYS_STAT, 10, 10⟩
def KEYS_STAT_TRNGERR : Fld := ⟨KEYS_STAT, 9, 9⟩
def KEYS_STAT_ABORT : Fld := ⟨KEYS_STAT, 8, 8⟩
def KEYS_STAT_UNWRAPERR : Fld := ⟨KEYS_STAT, 7, 7⟩
def KEYS_STAT_DISCARD : Fld := ⟨KEYS_STAT, 6, 6⟩
def KEYS_STAT_ROLLFWD : Fld := ⟨KEYS_STAT, 5, 5⟩
def KEYS_STAT_COMMIT : Fld := ⟨KEYS_STAT, 3, 2⟩
def KEYS_STAT_BUSY : Fld := ⟨KEYS_STAT, 1, 1⟩
def KEYS_STAT_HOLD : Fld := ⟨KEYS_STAT, 0, 0⟩
def KEYS_CTR : Nat := 0x4060000C
def KEYS_CTR_COUNTER : Fld := ⟨KEYS_CTR, 31, 0⟩
def KEYS_LAST : Nat := 0x40600010
def KEYS_LAST_RESULT : Fld := ⟨KEYS_LAST, 31, 28⟩
def KEYS_LAST_KIND : Fld := ⟨KEYS_LAST, 23, 16⟩
def KEYS_LAST_SLOT : Fld := ⟨KEYS_LAST, 15, 8⟩
def KEYS_CNT : Nat := 0x40600014
def KEYS_CNT_REJECTED : Fld := ⟨KEYS_CNT, 31, 16⟩
def KEYS_CNT_APPLIED : Fld := ⟨KEYS_CNT, 15, 0⟩
def KEYS_SLOT (n : Nat) : Nat := 0x40600040 + 0x4 * n
def KEYS_SLOT_USAGE (n : Nat) : Fld := ⟨KEYS_SLOT n, 15, 8⟩
def KEYS_SLOT_SIZE (n : Nat) : Fld := ⟨KEYS_SLOT n, 2, 2⟩
def KEYS_SLOT_LOADED (n : Nat) : Fld := ⟨KEYS_SLOT n, 1, 1⟩
def KEYS_SLOT_VALID (n : Nat) : Fld := ⟨KEYS_SLOT n, 0, 0⟩
def KEYS_DIG (n : Nat) : Nat := 0x40600080 + 0x4 * n
def KEYS_DIG_DIG (n : Nat) : Fld := ⟨KEYS_DIG n, 31, 0⟩
def KEYS_APUB (n : Nat) : Nat := 0x40600100 + 0x4 * n
def KEYS_APUB_KEY (n : Nat) : Fld := ⟨KEYS_APUB n, 31, 0⟩
def SAFE_CFG : Nat := 0x40700000
def SAFE_CFG_EXITT : Fld := ⟨SAFE_CFG, 23, 16⟩
def SAFE_CFG_LATCH : Fld := ⟨SAFE_CFG, 4, 4⟩
def SAFE_CFG_SSCLOSE : Fld := ⟨SAFE_CFG, 2, 2⟩
def SAFE_CFG_SF2 : Fld := ⟨SAFE_CFG, 1, 1⟩
def SAFE_CFG_SF1 : Fld := ⟨SAFE_CFG, 0, 0⟩
def SAFE_CMD : Nat := 0x40700004
def SAFE_CMD_FORCE : Fld := ⟨SAFE_CMD, 1, 1⟩
def SAFE_CMD_ACK : Fld := ⟨SAFE_CMD, 0, 0⟩
def SAFE_STAT : Nat := 0x40700008
def SAFE_STAT_CAUSE : Fld := ⟨SAFE_STAT, 31, 24⟩
def SAFE_STAT_EXITCNT : Fld := ⟨SAFE_STAT, 23, 16⟩
def SAFE_STAT_CONDOK2 : Fld := ⟨SAFE_STAT, 6, 6⟩
def SAFE_STAT_CONDOK1 : Fld := ⟨SAFE_STAT, 5, 5⟩
def SAFE_STAT_SSHELD : Fld := ⟨SAFE_STAT, 4, 4⟩
def SAFE_STAT_TCLOSE : Fld := ⟨SAFE_STAT, 3, 3⟩
def SAFE_STAT_ACKREQ : Fld := ⟨SAFE_STAT, 2, 2⟩
def SAFE_STAT_RESTART : Fld := ⟨SAFE_STAT, 1, 1⟩
def SAFE_STAT_SAFE : Fld := ⟨SAFE_STAT, 0, 0⟩
def SAFE_FAULT : Nat := 0x4070000C
def SAFE_FAULT_FORCE : Fld := ⟨SAFE_FAULT, 11, 11⟩
def SAFE_FAULT_SEQ : Fld := ⟨SAFE_FAULT, 10, 10⟩
def SAFE_FAULT_PLAUS : Fld := ⟨SAFE_FAULT, 9, 9⟩
def SAFE_FAULT_ACTUATOR : Fld := ⟨SAFE_FAULT, 8, 8⟩
def SAFE_FAULT_ENERGY : Fld := ⟨SAFE_FAULT, 7, 7⟩
def SAFE_FAULT_SENSREF : Fld := ⟨SAFE_FAULT, 6, 6⟩
def SAFE_FAULT_LOOPBACK : Fld := ⟨SAFE_FAULT, 5, 5⟩
def SAFE_FAULT_TIMING : Fld := ⟨SAFE_FAULT, 4, 4⟩
def SAFE_FAULT_CFGCRC : Fld := ⟨SAFE_FAULT, 3, 3⟩
def SAFE_FAULT_MEMORY : Fld := ⟨SAFE_FAULT, 2, 2⟩
def SAFE_FAULT_CLOCK : Fld := ⟨SAFE_FAULT, 1, 1⟩
def SAFE_FAULT_WDOG : Fld := ⟨SAFE_FAULT, 0, 0⟩
def SAFE_CNT : Nat := 0x40700010
def SAFE_CNT_ENTRIES : Fld := ⟨SAFE_CNT, 31, 16⟩
def SAFE_CNT_FAULTS : Fld := ⟨SAFE_CNT, 15, 0⟩
def SAFE_LB : Nat := 0x40700014
def SAFE_LB_TOL : Fld := ⟨SAFE_LB, 15, 0⟩
def SAFE_CFGCRC : Nat := 0x40700018
def SAFE_CFGCRC_CRC : Fld := ⟨SAFE_CFGCRC, 31, 0⟩
def SAFE_TAMP (n : Nat) : Nat := 0x40700040 + 0x4 * n
def SAFE_TAMP_ACTIVE (n : Nat) : Fld := ⟨SAFE_TAMP n, 9, 9⟩
def SAFE_TAMP_LEVEL (n : Nat) : Fld := ⟨SAFE_TAMP n, 8, 8⟩
def SAFE_TAMP_CLOSE (n : Nat) : Fld := ⟨SAFE_TAMP n, 3, 3⟩
def SAFE_TAMP_POL (n : Nat) : Fld := ⟨SAFE_TAMP n, 2, 2⟩
def SAFE_TAMP_MODE (n : Nat) : Fld := ⟨SAFE_TAMP n, 1, 0⟩
def SAFE_TLATCH : Nat := 0x40700050
def SAFE_TLATCH_HOLD : Fld := ⟨SAFE_TLATCH, 15, 15⟩
def SAFE_TLATCH_LEAD : Fld := ⟨SAFE_TLATCH, 14, 9⟩
def SAFE_TLATCH_SIGN : Fld := ⟨SAFE_TLATCH, 8, 7⟩
def SAFE_TLATCH_REV : Fld := ⟨SAFE_TLATCH, 6, 5⟩
def SAFE_TLATCH_SEAL : Fld := ⟨SAFE_TLATCH, 4, 4⟩
def SAFE_TLATCH_TAMP : Fld := ⟨SAFE_TLATCH, 3, 0⟩
def SAFE_TCNT : Nat := 0x40700054
def SAFE_TCNT_COUNT : Fld := ⟨SAFE_TCNT, 15, 0⟩
def LOG_TSEQ : Nat := 0x40710000
def LOG_TSEQ_SEQ : Fld := ⟨LOG_TSEQ, 31, 0⟩
def LOG_TRD : Nat := 0x40710004
def LOG_TRD_RD : Fld := ⟨LOG_TRD, 31, 0⟩
def LOG_TSTAT : Nat := 0x40710008
def LOG_TSTAT_OVF : Fld := ⟨LOG_TSTAT, 31, 16⟩
def LOG_TSTAT_KEPT : Fld := ⟨LOG_TSTAT, 0, 0⟩
def LOG_LSEQ : Nat := 0x4071000C
def LOG_LSEQ_SEQ : Fld := ⟨LOG_LSEQ, 31, 0⟩
def LOG_LSTAT : Nat := 0x40710010
def LOG_LSTAT_LOST : Fld := ⟨LOG_LSTAT, 31, 16⟩
def LOG_LSTAT_PEND : Fld := ⟨LOG_LSTAT, 6, 0⟩
def CMD_UART : Nat := 0x40800000
def CMD_UART_REQCRC : Fld := ⟨CMD_UART, 16, 16⟩
def CMD_UART_IDLE : Fld := ⟨CMD_UART, 15, 8⟩
def CMD_UART_BAUD : Fld := ⟨CMD_UART, 7, 4⟩
def CMD_UART_FMT : Fld := ⟨CMD_UART, 2, 2⟩
def CMD_UART_ECHO : Fld := ⟨CMD_UART, 1, 1⟩
def CMD_UART_EN : Fld := ⟨CMD_UART, 0, 0⟩
def CMD_OPT : Nat := 0x40800004
def CMD_OPT_REQCRC : Fld := ⟨CMD_OPT, 16, 16⟩
def CMD_OPT_IDLE : Fld := ⟨CMD_OPT, 15, 8⟩
def CMD_OPT_MAXBAUD : Fld := ⟨CMD_OPT, 7, 4⟩
def CMD_OPT_ECHO : Fld := ⟨CMD_OPT, 1, 1⟩
def CMD_OPT_EN : Fld := ⟨CMD_OPT, 0, 0⟩
def CMD_TUN : Nat := 0x40800008
def CMD_TUN_REQCRC : Fld := ⟨CMD_TUN, 16, 16⟩
def CMD_TUN_EN : Fld := ⟨CMD_TUN, 0, 0⟩
def CMD_OPTID : Nat := 0x4080000C
def CMD_OPTID_CHAR3 : Fld := ⟨CMD_OPTID, 23, 16⟩
def CMD_OPTID_CHAR2 : Fld := ⟨CMD_OPTID, 15, 8⟩
def CMD_OPTID_CHAR1 : Fld := ⟨CMD_OPTID, 7, 0⟩
def CMD_MODE : Nat := 0x40800010
def CMD_MODE_TEST : Fld := ⟨CMD_MODE, 0, 0⟩
def CMD_STAT : Nat := 0x40800014
def CMD_STAT_ZCBUSY : Fld := ⟨CMD_STAT, 8, 8⟩
def CMD_STAT_SAVEPEND : Fld := ⟨CMD_STAT, 7, 7⟩
def CMD_STAT_OPTSTATE : Fld := ⟨CMD_STAT, 5, 4⟩
def CMD_STAT_UARTAWAKE : Fld := ⟨CMD_STAT, 1, 1⟩
def CMD_AUTHFAIL : Nat := 0x40800018
def CMD_AUTHFAIL_LOCK : Fld := ⟨CMD_AUTHFAIL, 18, 16⟩
def CMD_AUTHFAIL_COUNT : Fld := ⟨CMD_AUTHFAIL, 15, 0⟩
def CMD_SAVED : Nat := 0x4080001C
def CMD_SAVED_TICK : Fld := ⟨CMD_SAVED, 31, 0⟩
def CMD_LINES : Nat := 0x40800020
def CMD_LINES_ERRORS : Fld := ⟨CMD_LINES, 31, 16⟩
def CMD_LINES_LINES : Fld := ⟨CMD_LINES, 15, 0⟩
def MGMT_ID : Nat := 0x40900000
def MGMT_ID_SIL : Fld := ⟨MGMT_ID, 23, 16⟩
def MGMT_ID_FWMAJ : Fld := ⟨MGMT_ID, 15, 8⟩
def MGMT_ID_FWMIN : Fld := ⟨MGMT_ID, 7, 0⟩
def MGMT_APPVER : Nat := 0x40900004
def MGMT_APPVER_VERSION : Fld := ⟨MGMT_APPVER, 31, 0⟩
def MGMT_METVER : Nat := 0x40900008
def MGMT_METVER_VERSION : Fld := ⟨MGMT_METVER, 31, 0⟩
def MGMT_DEVID_LO : Nat := 0x4090000C
def MGMT_DEVID_LO_ID : Fld := ⟨MGMT_DEVID_LO, 31, 0⟩
def MGMT_DEVID_HI : Nat := 0x40900010
def MGMT_DEVID_HI_ID : Fld := ⟨MGMT_DEVID_HI, 31, 0⟩
def MGMT_MCHK : Nat := 0x40900014
def MGMT_MCHK_CHK : Fld := ⟨MGMT_MCHK, 31, 0⟩
def MGMT_SVN : Nat := 0x40900018
def MGMT_SVN_MET : Fld := ⟨MGMT_SVN, 14, 8⟩
def MGMT_SVN_APP : Fld := ⟨MGMT_SVN, 6, 0⟩
def MGMT_BOOT : Nat := 0x4090001C
def MGMT_BOOT_CONFCNT : Fld := ⟨MGMT_BOOT, 31, 16⟩
def MGMT_BOOT_COPIED : Fld := ⟨MGMT_BOOT, 4, 4⟩
def MGMT_BOOT_FALLBACK : Fld := ⟨MGMT_BOOT, 3, 3⟩
def MGMT_BOOT_TRIAL : Fld := ⟨MGMT_BOOT, 2, 2⟩
def MGMT_BOOT_ACTIVE : Fld := ⟨MGMT_BOOT, 0, 0⟩
def MGMT_TEMP : Nat := 0x40900020
def MGMT_TEMP_T : Fld := ⟨MGMT_TEMP, 15, 0⟩
def MGMT_LOAD : Nat := 0x40900024
def MGMT_LOAD_SVCMAX : Fld := ⟨MGMT_LOAD, 31, 16⟩
def MGMT_LOAD_COMPMAX : Fld := ⟨MGMT_LOAD, 15, 0⟩
def MGMT_FCRC : Nat := 0x40900028
def MGMT_FCRC_CRC : Fld := ⟨MGMT_FCRC, 31, 0⟩
def MGMT_UPDCFG : Nat := 0x40900030
def MGMT_UPDCFG_CONFIRM : Fld := ⟨MGMT_UPDCFG, 23, 16⟩
def MGMT_UPDCFG_TIMEOUT : Fld := ⟨MGMT_UPDCFG, 15, 0⟩
def MGMT_UPDSTAT : Nat := 0x40900034
def MGMT_UPDSTAT_OWNER : Fld := ⟨MGMT_UPDSTAT, 23, 16⟩
def MGMT_UPDSTAT_REASON : Fld := ⟨MGMT_UPDSTAT, 11, 8⟩
def MGMT_UPDSTAT_KIND : Fld := ⟨MGMT_UPDSTAT, 4, 4⟩
def MGMT_UPDSTAT_STATE : Fld := ⟨MGMT_UPDSTAT, 1, 0⟩
def MGMT_UPDPROG : Nat := 0x40900038
def MGMT_UPDPROG_NEXT : Fld := ⟨MGMT_UPDPROG, 31, 0⟩
def MGMT_UPDLEN : Nat := 0x4090003C
def MGMT_UPDLEN_LENGTH : Fld := ⟨MGMT_UPDLEN, 31, 0⟩
def MGMT_UPDCNT : Nat := 0x40900040
def MGMT_UPDCNT_FAILED : Fld := ⟨MGMT_UPDCNT, 31, 16⟩
def MGMT_UPDCNT_ACTIVATED : Fld := ⟨MGMT_UPDCNT, 15, 0⟩
def MGMT_GPIO (n : Nat) : Nat := 0x40900100 + 0x4 * n
def MGMT_GPIO_IN (n : Nat) : Fld := ⟨MGMT_GPIO n, 9, 9⟩
def MGMT_GPIO_OUT (n : Nat) : Fld := ⟨MGMT_GPIO n, 8, 8⟩
def MGMT_GPIO_PULL (n : Nat) : Fld := ⟨MGMT_GPIO n, 5, 4⟩
def MGMT_GPIO_FUNC (n : Nat) : Fld := ⟨MGMT_GPIO n, 2, 0⟩

end F

end Sys2Proof.Machine
end

