-- ==== Sys2Proof/Machine/Sparse.lean ====
section
/-! DEFINITION. Sparse stores in one canonical form: a list of (key, value) pairs whose keys rise strictly and in
which no value equals what an unlisted key reads as. Register words and memory bytes are both held this way. -/

namespace Sys2Proof.Machine

/-- Reads the value at a key; an unlisted key reads as `d` gives. -/
def sget {α : Type} (d : Nat → α) : List (Nat × α) → Nat → α
  | [], k => d k
  | (a, v) :: t, k => if a = k then v else sget d t k

/-- Writes a value at a key and keeps the canonical form. -/
def sset {α : Type} [DecidableEq α] (d : Nat → α) : List (Nat × α) → Nat → α → List (Nat × α)
  | [], k, v => if v = d k then [] else [(k, v)]
  | (a, w) :: t, k, v =>
    if k < a then (if v = d k then (a, w) :: t else (k, v) :: (a, w) :: t)
    else if k = a then (if v = d k then t else (k, v) :: t)
    else (a, w) :: sset d t k v

/-- Every key of the list is above `lo`, the keys rise, and no value is the default of its key. -/
def swfAbove {α : Type} [DecidableEq α] (d : Nat → α) : Option Nat → List (Nat × α) → Bool
  | _, [] => true
  | lo, (a, v) :: t =>
    (match lo with | none => true | some b => decide (b < a)) && decide (v ≠ d a) && swfAbove d (some a) t

/-- The canonical form. -/
def swf {α : Type} [DecidableEq α] (d : Nat → α) (l : List (Nat × α)) : Bool := swfAbove d none l

/-- Drops every entry whose key satisfies `p`, so that those keys read as unlisted. -/
def sdrop {α : Type} (p : Nat → Bool) (l : List (Nat × α)) : List (Nat × α) := l.filter (fun c => !p c.1)

/-- Keeps only the entries whose key satisfies `p`. -/
def skeep {α : Type} (p : Nat → Bool) (l : List (Nat × α)) : List (Nat × α) := l.filter (fun c => p c.1)

/-- Writes a list of values at consecutive keys. -/
def ssetAll {α : Type} [DecidableEq α] (d : Nat → α) (l : List (Nat × α)) (k : Nat) : List α → List (Nat × α)
  | [] => l
  | v :: vs => ssetAll d (sset d l k v) (k + 1) vs

/-- Reads `n` values at consecutive keys. -/
def sgetAll {α : Type} (d : Nat → α) (l : List (Nat × α)) (k : Nat) : Nat → List α
  | 0 => []
  | n + 1 => sget d l k :: sgetAll d l (k + 1) n

end Sys2Proof.Machine
end

