-- ==== Sys2Proof/Machine/State.lean ====
section
/-! DEFINITION. The machine's state as plain data: every register of the spec in one register file, the memories the
spec lays out (the Carousel, the metrology store, the code flash), and the state its rules name that no register shows.
INVENTORY.md lists every piece with its rule and its reset value. -/

namespace Sys2Proof.Machine

/-! ### Power, clocks and the Ringmaster -/

/-- Where the block is between its resets and its ticks (R91, R92, R104, R108 to R110). -/
inductive Stage where
  | gate       -- held for the start gate of R108
  | startUp    -- the start-up sequence runs (R109)
  | awaitTick  -- start-up is complete; the first Capture has not run
  | running    -- ticks run
  | emergency  -- the emergency commit runs (R101)
  | pfWait     -- the commit has ended; VBAT decides (R104)
  | resuming   -- VBAT has recovered; ticks resume at the next boundary (R72, Table 3.7)
  | hibernate
  | backup
  | recovery   -- the boot ROM's recovery mode (R499)
  deriving DecidableEq, Repr

/-- A legal-log entry (Table 14.8). -/
structure LegalEntry where
  sec : Nat
  code : Nat
  flags : Nat
  data : List Byte
  deriving DecidableEq, Repr

/-- The core's own record of an applied time write (R280). -/
structure TimeStep where
  old : Nat
  oldFrac : Nat
  new : Nat
  step : Int
  cleared : Bool
  deriving DecidableEq, Repr

/-- The state of the RTC that its registers do not show: the phase of the 1/256 s prescaler and of the trim window, in
crystal cycles; a time write on its way (value, edges left); the date held; the retention monitor's record; whether the
32.768 kHz oscillator runs, and whether it has run since the domain's power-on; and the core's record of applied writes
(R273, R278 to R281, R284, R287 to R289, R295). -/
structure Rtc where
  pre : Nat
  win : Nat
  wr : Option (Nat × Nat)
  held : Option (Nat × Nat × Nat)
  lost : Bool
  railLow : Bool
  xtRun : Bool
  started : Bool
  steps : List TimeStep
  deriving DecidableEq, Repr

/-- Supply, reset and start-up state (R92 to R113, R139, R467, R472, R528): the stage; a HIBERNATE entry asked for; the release of a
RESETN that went low during an emergency commit; the time of a RESET line; a safety reset that waits for Persist; the restart's
code, whether it latches and its data; a start-up that has not reached its first Capture; its journal recovery done; the trouble log
kept by the reset; the emergency commit's rows and end; the start-up time; legal events before the recovery; the watchdog's limit,
and the instant before which a service is a fault; whether the start gate is met; and whether VBKUP feeds the BKUP rail (R97). -/
structure Power where
  stage : Stage
  hibReq : Bool
  extLow : Option Nat
  resetReq : Option Nat
  safetyReq : Option Nat
  restart : Option (Nat × Bool × Nat)
  inStart : Bool
  recovered : Bool
  logKept : Bool
  emRows : Nat
  emEnd : Option Nat
  startSec : Nat
  startLegal : List (Nat × List Byte)
  wdtAt : Option Nat
  wdtFrom : Option Nat
  gateMet : Bool
  onBackup : Bool
  deriving DecidableEq, Repr

/-- The Ringmaster: the tick number, the shadow table, an admitted table that waits for Capture, the ages of the six
Service tasks (none while a task has no work), the slices of the tick's optional work that gave way, the tick's
start time, whether the time was untrusted at this tick's Capture, whether the phase shown has ended, the uptime of
the next tick boundary, and whether no Capture has run since start-up (R21 to R37, R57). -/
structure Ringm where
  tick : Nat
  schedShadow : List (Nat × Word)
  schedPend : Option (List (Nat × Word))
  ages : List (Option Nat)
  sliceFault : Bool
  startTime : Nat × Nat
  untr : Bool
  phaseDone : Bool
  nextAt : Option Nat
  first : Bool
  deriving DecidableEq, Repr

/-! ### The command language -/

/-- A session's login challenge: the role asked for, the challenge and the time it was sent (R143). -/
structure Challenge where
  role : Role
  value : Nat
  sent : Nat
  deriving DecidableEq, Repr

/-- What a carrier's deferred response waits for (R131); the credit of an accepted token is answered in the next Service
window (R338). -/
inductive Deferred where
  | zerocal | commit | shot | keyLoad | token
  deriving DecidableEq, Repr

/-- One carrier: its receiver, its queued lines with the time of their terminator (the first byte of each says how it was received:
0 as a line, 1 too long or with a byte above 0x7F, 2 with the buffer full, 3 while the carrier was held), its transmit buffer, its
session, the deferred response it owes and the responses that follow it, on the tunnel the INVOKE of the message that runs, on the
optical port whether the character that woke the carrier was "/", the tick and sequence count of its receive and of its transmit
record in ring 6, the characters at the front of the transmit buffer that leave at the settings before a SET changed them, with
those rates, and on the optical port how many characters of a break message have just arrived (R49, R116 to R131, R142 to R145,
R149, R359). -/
structure CarrierSt where
  awake : Bool
  readyAt : Nat
  lastChar : Nat
  rx : List Byte
  bad : Bool
  lastCr : Bool
  lines : List (List Byte × Nat)
  tx : List Byte
  txPhase : Nat
  role : Role
  fails : Nat
  lockEnd : Option Nat
  chal : Option Challenge
  held : Option (Deferred × LineForm)
  after : List (List Byte)
  invoke : Byte
  slash : Bool
  rxHead : Nat × Nat
  txHead : Nat × Nat
  old : List (Nat × Nat)
  brk : Nat
  deriving DecidableEq, Repr

/-- The stages of the optical sign-on (R119, R120): asleep or waiting for a request, a request received at a time, the
identification sent at a time. -/
inductive SignOn where
  | waiting
  | requested (t : Nat)
  | identified (t : Nat)
  | session (z : Nat)
  deriving DecidableEq, Repr

/-- The carriers, the tunnel sessions of the link partners, the KEY LOAD buffer of each carrier, the saves, and the step work done
on the oldest line of the CMD task and of the LOGX task, in 10 µs (R122, R138, R148, R442). -/
structure Cmd where
  uart : CarrierSt
  opt : CarrierSt
  tun : List (Nat × CarrierSt)
  sign : SignOn
  keyBuf : List (Carrier × List Byte × Nat)
  savePend : Bool
  saveRows : Nat
  saveTick : Nat
  saveImage : List (Nat × Word)
  saveSched : List (Nat × Word)
  saveReply : Bool
  lineWork : Nat
  logWork : Nat
  deriving DecidableEq, Repr

/-! ### Billing, journal and metrology store -/

/-- The open demand interval of a meter point (R301 to R304). -/
structure OpenInterval where
  start : Nat
  acc : List Nat
  short : Bool
  power : Bool
  untr : Bool
  tariff : Nat
  skipped : Nat
  deriving DecidableEq, Repr

/-- A billing-period snapshot: its view address and its 384 bytes (R307, R309). -/
structure Snapshot where
  addr : Nat
  bytes : List Byte
  deriving DecidableEq, Repr

/-- Journaled values that no register shows: the charge remainder, a token lockout's end, the end of the previous
closure, the full period number, the closing values of snapshots not yet complete, each path's ZDELTA, the
reservations of the frame counters and of TXSEQ, and the update session's KIND, LENGTH, owner and the sector boundary
up to which it is programmed (R308, R321, R326, R327, R339, R227, R385, R505). -/
structure JHidden where
  chargeRem : Nat
  lockEnd : Option Nat
  prevEnd : Nat
  period : Nat
  closing : List Snapshot
  zdelta : List Int
  fcRes : List Nat
  seqRes : Nat
  session : Option (Nat × Nat × Nat × Nat)
  deriving DecidableEq, Repr

/-- The journaled values of one commit. -/
structure JImage where
  regs : List (Nat × Word)
  hid : JHidden
  tick : Nat
  deriving DecidableEq, Repr

/-- A zero-calibration store on its way (R224, R225). -/
structure ZcStore where
  mp : Nat
  paths : List (Nat × Int × Int × Nat × Nat)
  committed : Bool
  deriving DecidableEq, Repr

/-- The journal and the other users of the metrology store; `head` is the journal row written next, which the rows themselves show
(R307, R323 to R326, R342, R485). -/
structure Journal where
  hid : JHidden
  image : JImage
  openC : Option (Nat × JImage × List LegalEntry)
  emOpen : Bool
  due : Bool
  since : Nat
  lq : List LegalEntry
  lheld : List LegalEntry
  snapRows : List (Snapshot × Nat)
  zcRow : Option ZcStore
  incomplete : Bool
  head : Nat
  deriving DecidableEq, Repr

/-- Billing state that is neither in a register nor journaled: the open intervals, whether catch-up is due and why, and the
time writes that were applied before this tick's Capture and since the one before (R318, R321, R322). -/
structure Bill where
  steps : List TimeStep
  intA : OpenInterval
  intB : OpenInterval
  catchUp : Bool
  catchUntr : Bool
  deriving DecidableEq, Repr

/-- The actuator drive in progress: towards closed or open, its start, its attempt and whether its current was checked
(R333, R469, R470). -/
structure Drive where
  closing : Bool
  start : Nat
  attempt : Nat
  bridgeOn : Bool
  deriving DecidableEq, Repr

/-- The actuator and its requests (R332, R333, R468 to R470). -/
structure Act where
  drive : Option Drive
  openReq : Bool
  confirmed : Option Bool
  want : Option Bool
  deriving DecidableEq, Repr

/-- The keypad (R340, R341). -/
structure Keypad where
  queue : List Nat
  entry : List Nat
  lastKey : Nat
  confirmB : Bool
  scanning : Bool
  down : Option Nat
  deriving DecidableEq, Repr

/-! ### The acoustic front end and the shots -/

/-- A shot the window will run: its path (15 is the reference path) and origin (Table 6.5: 0 minimum, 1 optional extra,
2 loopback, 3 test). -/
structure Planned where
  path : Nat
  origin : Nat
  acl : Bool
  deriving DecidableEq, Repr

/-- The shot the sequencer runs: its word, its time in 96 MHz cycles from SELP, its four capture records, the firing
instants, what has ended, the connection, its parameters, and the correlator's working state: C_A,up, C_A,dn, C_B,up,
C_B,dn (R174 to R177, R186, R194). -/
structure ShotRun where
  plan : Planned
  pc : Nat
  time : Nat
  recs : List Nat
  firedA : Option Nat
  firedB : Option Nat
  capA : Bool
  capB : Bool
  corrA : Bool
  corrB : Bool
  swapped : Bool
  gain : Nat
  pol : Bool
  asym : Bool
  vtxb : Nat
  vtxbB : Nat
  vtxbLow : Bool
  clip : Bool
  peak : Nat
  corr : List (List (Int × Int))
  deriving DecidableEq, Repr

/-- A shot as the reduction of the tick and the loopback check see it (R215 to R217, R221, R475). -/
structure ShotOut where
  path : Nat
  origin : Nat
  cls : Nat
  reason : Nat
  asym : Bool
  dtof : Int
  tofUp : Nat
  tofDn : Nat
  deriving DecidableEq, Repr

/-- An ACL SHOT request: its path, the shots that remain, the Captures it has waited, its carrier, and the tick of
its first shot (R181). -/
structure ShotReq where
  path : Nat
  left : Nat
  waited : Nat
  car : Carrier
  ran : Option Nat
  deriving DecidableEq, Repr

/-- A path's firing configuration, times in samples at 16 MS/s (62.5 ns) (R160 to R170). -/
structure Firing where
  kind : Nat
  len : Nat
  cpc : Nat
  cycles : Nat
  div : Nat
  div1 : Nat
  clen : Nat
  binv : Bool
  polalt : Bool
  fsdiv : Nat
  caplen : Nat
  windly : Nat
  gap : Nat
  recip : Bool
  gmin : Nat
  gmax : Nat
  ginit : Nat
  agc : Bool
  deriving DecidableEq, Repr

/-- The parameters that a ring-10 descriptor holds of the firing in its capture record, where the correlator reads them (R177):
the path and its configuration, whether it is firing B, its polarity, whether the chains were exchanged, the gain code, the clip
flag, VTXB in mV at the firing instant, and the origin. -/
structure Desc where
  path : Nat
  cfg : Firing
  second : Bool
  pol : Bool
  swapped : Bool
  gain : Nat
  clip : Bool
  vtxb : Nat
  origin : Nat
  deriving DecidableEq, Repr

/-- The acoustic front end: the window's plan, the shot that runs, the records made and the shots discarded in the tick, whether the
window is open, and of the tick whether the clocks disagreed, XO24 failed or the PLL lost lock; the window's shot count and length,
the polarity counters, the SHOTTRIG latch and request, the ACL request, the firing configuration at the last Capture, the
descriptors of ring 10, the hidden copy of the SHOT fields that the window's shots change, newest first, and the boost: whether it
runs, VTXB in mV as last known, and when its bleed began (R45, R157, R164, R171, R177, R179 to R183, R191). -/
structure Ame where
  plan : List Planned
  run : Option ShotRun
  done : List ShotOut
  discarded : List (Planned × Bool)
  windowOn : Bool
  cross : Bool
  xoFail : Bool
  pllFail : Bool
  index : Nat
  len : Nat
  pol : List Nat
  trigLatch : Bool
  trigReq : List Nat
  aclReq : Option ShotReq
  lastFire : List (List Nat)
  desc : List (Nat × Desc)
  hidden : List (Fld × Nat)
  boost : Bool
  vtxb : Nat
  bleedAt : Option Nat
  deriving DecidableEq, Repr

/-- Values of a path of the SHOT block that no register shows: the held value, the consecutive ticks held, the deposit
block's sum, count and smoothed mean, and whether the path was enabled at the last Capture (R205, R219). -/
structure PathSt where
  held : Option (Int × Nat × Nat)
  heldFor : Nat
  depSum : Nat
  depCount : Nat
  depM : Option Int
  enabled : Bool
  deriving DecidableEq, Repr

/-- A running zero calibration: its meter point, the ticks since its collection began, and the shots of each path
(DTOF_RAW, DTOF_A − DTOF_B, A_n) (R223 to R226). -/
structure ZcRun where
  mp : Nat
  ticks : Nat
  paths : List (Nat × List (Int × Int × Nat))
  deriving DecidableEq, Repr

/-- The SHOT block: its paths, whether each meter point's tick is a recovery tick and was decided so by RECOV alone,
the events that load RECOV at the next Capture, whether each meter point and the AME were enabled at the last Capture,
the running zero calibration, its answer once it has ended, and the run of soft loopback failures (R218 to
R226, R475). -/
structure Shot where
  paths : List PathSt
  recTick : List Bool
  recByCount : List Bool
  loadRecov : List Bool
  mpEnabled : List Bool
  ameEnabled : Bool
  zc : Option ZcRun
  zcOut : Option (Except Nat (List (Nat × Int × Nat)))
  lbRun : Nat
  deriving DecidableEq, Repr

/-! ### Sensors and meter points -/

/-- The results of a conversion sequence that wait for the next Capture: for each converted input its number, STATE, its
temperature where valid and its resistance; and for the bridge its STATE, its pressure where valid and its ratio
(R247 to R251). -/
structure SensHeld where
  rtd : List (Nat × Nat × Option Int × Nat)
  bridge : Option (Nat × Option Int × Int)
  deriving DecidableEq, Repr

/-- The sensor block: the inputs and the bridge under conversion, the results that wait, and whether a new temperature
sample came into force at the last Capture (R246, R247, R255). -/
structure Sens where
  running : Option (List Nat × Bool)
  held : Option SensHeld
  newT : Bool
  deriving DecidableEq, Repr

/-- A tamper that needs a run of 8 Measured ticks: the run, and whether the next run raises it (R242, R243). -/
structure TamperRun where
  count : Nat
  armed : Bool
  deriving DecidableEq, Repr

/-- Properties last evaluated: density (16-bit fraction), specific enthalpies in the flow and the return pipe (8-bit
fraction) and kinematic viscosity in 2^-64 m²/s (R255, R256). -/
structure Props where
  rho : Nat
  hF : Int
  hR : Int
  nu : Nat
  deriving DecidableEq, Repr

/-- The tick quantities of Table 7.4. -/
structure MpQty where
  dvol : Int
  evol : Int
  eheat : Int
  ecool : Int
  bvol : Int
  bevol : Int
  errt : Nat
  errc : Nat
  deriving DecidableEq, Repr

/-- What a meter point holds that no register shows: q of the last Measured tick after the cut-off, the two tamper runs, the sum and
number of the tick means of c since the last sample, the last valid T_v, the properties last evaluated with the pressure and medium
they hold for, the pulse accumulator, the test pulses that the next tick period emits and those of the present one with its start
and its length in cycles of uptime, the tick's quantities, and whether a tick overran since the last record (R25, R238, R241 to
R243, R255, R259, R265). -/
structure MpSt where
  qLast : Int
  rev : TamperRun
  sgn : TamperRun
  cSum : Nat
  cN : Nat
  lastTv : Option Int
  props : Option Props
  propKey : Nat × Nat
  acc : Nat
  pulses : Nat
  emit : Nat × Nat × Nat
  qty : Option MpQty
  overran : Bool
  deriving DecidableEq, Repr

/-! ### Safety -/

/-- The Safety Net: the codes detected in this tick and in the one before, the outstanding flash check, a cause that
needs an acknowledgement, an acknowledgement made, the tick the safe state began with, and the Carousel errors corrected since the
last Compute (R54, R464 to R468, R471). -/
structure Safe where
  now : List Nat
  prev : List Nat
  flash : Bool
  needAck : Bool
  acked : Bool
  since : Nat
  cause : Nat
  cond : List Bool
  tampWas : List (Nat × Bool)
  corr : Nat
  deriving DecidableEq, Repr

/-- The one-time cells that transitions and KEYS_CMD.DBGEN write, and the roots found not to match their check values (Table 13.1,
R429: DUK, MRK, TRK); the root keys stand in Config. -/
structure Cells where
  lcs : Nat
  epoch : Nat
  dbgB : Bool
  dbgR : Bool
  rootBad : List Bool
  deriving DecidableEq, Repr

/-- A key message under check: who sent it, the carrier line that awaits its answer, its bytes, the tick of its first
checks, and whether its ECDSA verification has ended and with what result (R440 to R443). -/
structure KeyRun where
  src : Source
  line : Option (Carrier × LineForm)
  bytes : List Byte
  tick : Nat
  verified : Option Bool
  deriving DecidableEq, Repr

/-- The answer owed to a key message: to whom, its KIND, the ACL code number and the result of Table 13.7 (R443). -/
structure KeyReply where
  src : Source
  line : Option (Carrier × LineForm)
  kind : Nat
  code : Nat
  reason : Nat
  deriving DecidableEq, Repr

/-- A two-phase commit of the key record: the message it applies, the copy it writes, that copy's 512 bytes with STATE
PREPARED, the payload rows written, and whether phase 2 has been written (R445, R450). -/
structure KeyCommit where
  run : KeyRun
  copy : Nat
  bytes : List Byte
  rows : Nat
  transition : Option Nat
  slot : Option Nat
  committed : Bool
  deriving DecidableEq, Repr

/-- The KEYS engine: its volatile slots, the one-time cells, the digests of the
Reader and Installer passwords (R142), the copy of the record in force, the message under check, the
commit in progress, the acknowledgement of a tamper hold that waits for its Capture (0 message, 1 register), the rows of
an old copy still to be overwritten, a reply owed, and whether the random number generator's output is withheld (R432 to R450,
R455, R457). -/
structure Keys where
  slots : List (Option (List Byte))
  cells : Cells
  pw : List (Option (List Byte))
  used : Option Nat
  run : Option KeyRun
  commit : Option KeyCommit
  holdAck : Option Nat
  wipe : Option (Nat × Nat)
  reply : Option KeyReply
  rngOff : Bool
  deriving DecidableEq, Repr

/-! ### The radio and the link -/

/-- A frame that waits in ring 3 or is being sent: the neighbour entry it goes to (none for a JOIN or a telegram), its TYPE
(0 DATA, 2 JOIN; 8 stands for a telegram), its payload or the telegram's bytes, its SEQ and its frame counter once it has
been sent, its slots of ring 3, its failed attempts, the failed rendezvous among them, the time before which it is not
planned, and a telegram's airtime in µs (R374 to R379). -/
structure TxFrame where
  nb : Option Nat
  kind : Nat
  payload : List Byte
  seq : Option Nat
  fc : Option Nat
  slot : Nat
  slots : Nat
  attempts : Nat
  rdv : Nat
  notBefore : Nat
  air : Nat
  deriving DecidableEq, Repr

/-- The methods of Table 11.6; a rendezvous has its preamble's length in µs. A telegram is sent as its mode says. -/
inductive Method where
  | short
  | rendezvous (preUs : Nat)
  | train
  | long
  | telegram
  deriving DecidableEq, Repr

/-- The sender's states of Table 11.7: WAIT with the method, the start instant in cycles of uptime and the busy
measurements; SEND with its start and its end in cycles of uptime and its time on air in µs; ACKWAIT with the end of the
listening window. PLAN is left at once. -/
inductive TxState where
  | idle
  | wait (m : Method) (start busy : Nat)
  | send (m : Method) (start stop air : Nat)
  | ackWait (m : Method) (stop : Nat)
  deriving DecidableEq, Repr

/-- The receiver's states of Table 11.8 that last: SLEEP, SYNCWAIT with the time of its detection, and RECEIVE. -/
inductive RxState where
  | sleep
  | syncWait (since : Nat)
  | receive
  deriving DecidableEq, Repr

/-- An acknowledgement that the 9640 owes: the entry, the STATUS, the frame's SEQ and the instant of its preamble in cycles
of uptime (R378). -/
structure AckDue where
  nb : Nat
  status : Nat
  seq : Nat
  start : Nat
  deriving DecidableEq, Repr

/-- A payload that waits in ring 4: its entry, whether its frame was protected, its bytes and its slots (R382). -/
structure RxItem where
  nb : Nat
  sec : Bool
  payload : List Byte
  slot : Nat
  slots : Nat
  deriving DecidableEq, Repr

/-- The radio and the link: the frames of ring 3, the sender, the receiver, the acknowledgement owed, the payloads of ring 4,
payloads that wait to be framed, the frames of the last transmission begun as they go on air, the times at which it is on air in µs
of uptime, ramps included, the airtime bins (µs, newest first) and the time of the next bin's end, the next JOIN, the frame counter
of the last, and RXFC of a JOIN-ACCEPT that waits for Capture, the next telegram and its access number, the next sample instant, and
when a frame was last accepted (R361 to R390, Table 12.6). -/
structure Link where
  queue : List TxFrame
  tx : TxState
  rx : RxState
  ack : Option AckDue
  inbox : List RxItem
  outbox : List (Nat × List Byte)
  air : List (List Byte)
  onAir : List (Nat × Nat)
  bins : List Nat
  binAt : Nat
  joinAt : Option Nat
  joinFc : Option Nat
  joinRx : Option Nat
  wmbAt : Option Nat
  wmbAccess : Nat
  sampleAt : Option Nat
  heardAt : Option Nat
  deriving DecidableEq, Repr

/-- An input that AON samples (R67, R75, R76): the level on its ball, the level accepted, and the samples in a row that differed
from it. -/
structure Sampler where
  ball : Bool
  level : Bool
  run : Nat
  deriving DecidableEq, Repr

/-- Levels of the balls that the block senses or drives and no register shows (Table 2.4, R67 to R81): the sampled inputs SEAL
(high is open), TAMP0 to TAMP3 with the mode that AON holds for each, VLV_FBO and VLV_FBC (true at an end position reached); the
seal state in force and one that waits for its Capture; PFWARN as driven, whether a transmission drives PA_CTL, the window marker,
and whether a transmission runs that no Acoustic window interrupts. -/
structure Pins where
  strap : Sampler
  tamp : List Sampler
  tampMode : List Nat
  fbo : Sampler
  fbc : Sampler
  sealForce : Bool
  sealPend : Option Bool
  pfwarnLow : Bool
  paCtl : Bool
  window : Bool
  txOn : Bool
  deriving DecidableEq, Repr

/-! ### The display -/

/-- The drive of one segment in a bistable update: its index, and the charge units and the length in ms of its phases in
order, balancing phases first (R406 to R411). -/
structure SegDrive where
  seg : Nat
  phases : List (Int × Nat)
  deriving DecidableEq, Repr

/-- A bistable update or refresh: its kind (R424), its region and whether it is the whole panel, the bytes its segments take,
its drives, its start and the end of its last phase in cycles of uptime, whether it discharges, the time for which Acoustic windows
have held its phases, and the RTC seconds at its start (R418, R420, R424, R426). -/
structure DispRun where
  kind : Nat
  region : Nat
  whole : Bool
  target : List (Nat × Nat)
  segs : List SegDrive
  start : Nat
  stop : Nat
  discharge : Bool
  held : Nat
  sec : Nat
  deriving DecidableEq, Repr

/-- The drive of the LCD (R400, R401): the start of the present phase in cycles of uptime, its length, the common selected, whether
the frame is of kind B, and what each common's phase of the next frame is lengthened by. -/
structure LcdDrive where
  start : Nat
  len : Nat
  com : Nat
  kindB : Bool
  carry : List Nat
  deriving DecidableEq, Repr

/-- The display: the LCD segment latch of the DISP domain (64 bytes), the update that runs, the start of each region's previous
update and balancing request, the last refresh of each Marquee segment, whether an LCD frame waits for its install, whether the LCD
is driven, VOP as corrected in mV, the page of the navigation, the times of the last key and the last scroll, and the phase of the
LCD drive (R399 to R403, R409, R411, R416, R419). -/
structure Disp where
  latch : List Byte
  run : Option DispRun
  startAt : List (Option Nat)
  balAt : List (Option Nat)
  mqAt : List (Nat × Nat)
  installDue : Bool
  lcd : Bool
  vop : Nat
  page : Nat
  keyAt : Nat
  scrollAt : Nat
  drive : LcdDrive
  deriving DecidableEq, Repr

/-! ### Firmware -/

/-- What a valid image's header says, with the first 4 bytes of the SHA-256 of header and body (R493, R509). -/
structure Image where
  svn : Nat
  version : Nat
  miflo : Nat
  mifhi : Nat
  chk : Nat
  deriving DecidableEq, Repr

/-- Flash banks and updates: the valid image of the metrology bank, bank A and bank B; the boot record's active bank,
fallback bank while on trial and pending metrology copy; the bytes programmed in the bank under update; and of the open
session the queued messages of ring 8 (offset, data, slot), the bytes erased and programmed, the image whose header passed,
whether the body is to be hashed, the last message of the owner, the reason to be answered, and an activation that waits
for its Persist phase (R492 to R508). -/
structure Mgmt where
  images : List (Option Image)
  active : Nat
  trial : Option Nat
  pendCopy : Option Image
  flash : List Host.Cell
  queue : List (Nat × List Byte × Nat)
  erased : Nat
  prog : Nat
  hdr : Option Image
  verify : Bool
  lastAt : Nat
  failed : Option Nat
  activate : Bool
  deriving DecidableEq, Repr

/-! ### The whole -/

/-- Reasons the machine stops with a fault. The block has no fault: every command the spec describes has an effect or
none, and an access to an address that nothing occupies reads as zero (R48). Nothing raises it; it is safe. -/
inductive Fault where
  deriving DecidableEq, Repr

/-- Reasons a command has no meaning in the model. -/
inductive Refusal where
  /-- Raised by an arm of `exec` whose command has no meaning yet, by its mnemonic; safe (the model stops). -/
  | notModelled (mnemonic : String)
  deriving DecidableEq, Repr

/-- The block's state. `regs` holds every register's value in force, status registers included; `shadow` the pending
shadow words (R38, R39); `saved` the saved configuration, its schedule table and its tick (R138); `crs` the bytes of the
Carousel, `tok` its slots' tokens and `ringSeq` the rings' record counts (R49 to R51); `nvm` the bytes of the metrology
store by view address (R323). `ecc` lists the words of the Carousel, by number, that hold an error not yet met, with whether it is
uncorrectable, and `scrub` is the slot the scrub reads next (R54). `uptime` counts cycles of the 32.768 kHz time base; `free` and
`freeLevel` number the free values drawn so far, those of Level 3 to 5 values apart from all others (R20, R42; the model's own, log
entries 1 and 2). -/
structure State where
  pending : List Instr
  regs : List (Nat × Word)
  shadow : List (Nat × Option Word)
  saved : Option (List (Nat × Word) × List (Nat × Word) × Nat)
  crs : List Host.Cell
  tok : List (Nat × Nat)
  ringSeq : List (Nat × Nat)
  nvm : List Host.Cell
  ecc : List (Nat × Bool)
  scrub : Nat
  uptime : Nat
  free : Nat
  freeLevel : Nat
  rtc : Rtc
  pow : Power
  rm : Ringm
  cmd : Cmd
  jrn : Journal
  bill : Bill
  act : Act
  kpd : Keypad
  ame : Ame
  shot : Shot
  sens : Sens
  mps : List MpSt
  safe : Safe
  keys : Keys
  link : Link
  disp : Disp
  mgmt : Mgmt
  pins : Pins
  deriving DecidableEq, Repr

/-! ### The state after reset -/

/-- The clock of an unpowered BKUP domain, at its power-on: the oscillator has not started, and the retention loss is
recorded (R295, R527). -/
def Rtc.init : Rtc := ⟨0, 0, none, none, true, false, false, false, []⟩

/-- Power as a power-on leaves it: the start gate is awaited. -/
def Power.init : Power := ⟨.gate, false, none, none, none, none, false, false, false, 0, none, 0, [], none, none, false, false⟩

/-- The Ringmaster before a first Capture. -/
def Ringm.init : Ringm := ⟨0, [], none, List.replicate 6 none, false, (0, 0), false, true, none, true⟩

/-- A carrier asleep, with no session. -/
def CarrierSt.init : CarrierSt :=
  ⟨false, 0, 0, [], false, false, [], [], 0, .publicRole, 0, none, none, none, [], 0#8, false, (0, 0), (0, 0), [], 0⟩

/-- The command language after a reset. -/
def Cmd.init : Cmd := ⟨.init, .init, [], .waiting, [], false, 0, 0, [], [], false, 0, 0⟩

/-- Journaled values of a part as shipped. -/
def JHidden.init : JHidden := ⟨0, none, 0, 0, [], [0, 0, 0, 0], List.replicate 8 0, 0, none⟩

/-- The journal of a part as shipped. -/
def Journal.init : Journal := ⟨.init, ⟨[], .init, 0⟩, none, false, false, 0, [], [], [], none, false, 0⟩

/-- Billing after a start-up: the open intervals carry POWER, and the first tick catches up (R321). -/
def Bill.init : Bill :=
  ⟨[], ⟨0, [0, 0, 0], false, true, false, 0, 0⟩, ⟨0, [0, 0, 0], false, true, false, 0, 0⟩, true, false⟩

/-- The actuator at rest. -/
def Act.init : Act := ⟨none, false, none, none⟩

/-- The keypad at rest. -/
def Keypad.init : Keypad := ⟨[], [], 0, false, false, none⟩

/-- The acoustic front end after a reset. -/
def Ame.init : Ame :=
  ⟨[], none, [], [], false, false, false, false, 0, 0, [0, 0, 0, 0], false, [], none, [], [], [], false, 0, none⟩

/-- A path after a reset. -/
def PathSt.init : PathSt := ⟨none, 0, 0, 0, none, false⟩

/-- The SHOT block after a reset: every meter point's RECOV is loaded at the first Capture (R218). -/
def Shot.init : Shot :=
  ⟨List.replicate 4 .init, [false, false], [false, false], [true, true], [false, false], false, none, none, 0⟩

/-- A meter point after a reset. -/
def MpSt.init : MpSt := ⟨0, ⟨0, true⟩, ⟨0, true⟩, 0, 0, none, none, (0, 0), 0, 0, (0, 0, 0), none, false⟩

/-- The Safety Net after a reset. -/
def Safe.init : Safe := ⟨[], [], false, false, false, 0, 0, [], [], 0⟩

/-- The keys of a part as shipped: BLANK, epoch 0, no password (R527). -/
def Keys.init : Keys := ⟨List.replicate 8 none, ⟨0, 0, false, false, [false, false, false]⟩, [none, none], none, none, none, none, none, none, false⟩

/-- The radio and the link after a reset. -/
def Link.init : Link := ⟨[], .idle, .sleep, none, [], [], [], [], [], 0, none, none, none, none, 0, none, none⟩

/-- The display after a reset. -/
def Disp.init : Disp :=
  ⟨[], none, List.replicate 8 none, List.replicate 8 none, [], false, false, 0, 0, 0, 0, ⟨0, 0, 0, false, []⟩⟩

/-- The image that a part is shipped with: release 3.1; the values that the spec does not give are 0 (log entry 30). -/
def Image.shipped : Image := ⟨0, 0x03010000, 0, 0, 0⟩

/-- The flash of a part as shipped: metrology and bank A, bank B erased (R527). -/
def Mgmt.init : Mgmt := ⟨[some .shipped, some .shipped, none], 0, none, none, [], [], 0, 0, none, false, 0, none, false⟩

/-- A sampled input whose ball is low, and accepted so (log entry 32). -/
def Sampler.init : Sampler := ⟨false, false, 0⟩

/-- The balls: the seal's jumper is fitted, and no other input is high or reached (log entry 32). -/
def Pins.init : Pins :=
  ⟨.init, List.replicate 4 .init, List.replicate 4 0, .init, .init, false, none, false, false, false, false⟩

/-- The machine right after its first power-on (R106, R527): every register at its reset value, memories empty, no command
waiting, and the start gate to be met. -/
def State.reset : State :=
  { pending := [], regs := [], shadow := [], saved := none, crs := [], tok := [], ringSeq := [], nvm := [], ecc := [], scrub := 0,
    uptime := 0, free := 0, freeLevel := 0,
    rtc := .init, pow := .init, rm := .init, cmd := .init, jrn := .init, bill := .init, act := .init, kpd := .init, ame := .init,
    shot := .init, sens := ⟨none, none, false⟩, mps := [.init, .init], safe := .init, keys := .init, link := .init, disp := .init,
    mgmt := .init, pins := .init }

end Sys2Proof.Machine
end

