-- ==== Sys2Proof/Machine/Regs.lean ====
section
/-! DEFINITION. The register file: which register an address names, its reset value, and reading and writing words and
fields (R8, R39, R48, R55). -/

namespace Sys2Proof.Machine

/-- The block whose window holds an address (Table 1.10, R232). -/
def blockOfAddr (a : Nat) : Option Block :=
  let w := a / 0x8000
  if w = 0x8000 then some .sys else if w = 0x8002 then some .pwr else if w = 0x8003 then some .clk
  else if w = 0x8004 then some .ft else if w = 0x8020 then some .ame else if w = 0x8022 then some .shot
  else if w = 0x8024 then (if a % 0x4000 < 0x1000 then some .mpa else if a % 0x4000 < 0x2000 then some .mpb else none)
  else if w = 0x8026 then some .sens else if w = 0x8040 then some .rtc else if w = 0x8060 then some .bill
  else if w = 0x8062 then some .alm else if w = 0x8064 then some .pay else if w = 0x8080 then some .radio
  else if w = 0x8082 then some .link else if w = 0x80A0 then some .disp else if w = 0x80C0 then some .keys
  else if w = 0x80E0 then some .safe else if w = 0x80E2 then some .log else if w = 0x8100 then some .cmd
  else if w = 0x8120 then some .mgmt else none

/-- The indices of a row that an offset names. -/
def RegRow.indexAt (r : RegRow) (off : Nat) : Option (Nat × Nat) :=
  if off < r.off then none
  else
    let d := off - r.off
    let i := d / r.s1
    let e := d % r.s1
    if r.n1 = 1 then
      (if r.n2 = 1 then (if d = 0 then some (0, 0) else none)
       else if d % r.s2 = 0 ∧ d / r.s2 < r.n2 then some (0, d / r.s2) else none)
    else if r.n1 ≤ i then none
    else if r.n2 = 1 then (if e = 0 then some (i, 0) else none)
    else if e % r.s2 = 0 ∧ e / r.s2 < r.n2 then some (i, e / r.s2) else none

/-- The first row of a table that holds an offset. -/
def rowAt : List RegRow → Nat → Option (RegRow × Nat × Nat)
  | [], _ => none
  | r :: t, off => match r.indexAt off with
    | some (i, j) => some (r, i, j)
    | none => rowAt t off

/-- The register row that a byte address names, with its block (registers lie at offsets 0x0000 to 0x3FFF, R39). -/
def regAt (a : Nat) : Option (Block × RegRow × Nat × Nat) :=
  if a % 0x8000 < 0x4000 then
    match blockOfAddr a with
    | none => none
    | some b => match rowAt (blockRows b) (a - blockBase b) with
      | some (r, i, j) => some (b, r, i, j)
      | none => none
  else none

/-- The reset value of the register at an address; 0 where nothing stands (R9, R48). -/
def regReset (a : Nat) : Word :=
  match regAt a with
  | some (_, r, _, _) => word r.rst
  | none => 0#32

/-- The register word at an address. -/
def State.rd (s : State) (a : Nat) : Word := sget regReset s.regs a

/-- Writes a register word. -/
def State.wr (s : State) (a : Nat) (w : Word) : State := { s with regs := sset regReset s.regs a w }

/-- The value of a field, unsigned. -/
def State.get (s : State) (f : Fld) : Nat := bitsOf (s.rd f.addr) f.hi f.lo

/-- The value of a field read in two's complement. -/
def State.getI (s : State) (f : Fld) : Int := toSigned (f.hi + 1 - f.lo) (s.get f)

/-- Whether a one-bit field is 1. -/
def State.flag (s : State) (f : Fld) : Bool := decide (s.get f = 1)

/-- Writes a field, reduced to its width. -/
def State.put (s : State) (f : Fld) (v : Nat) : State := s.wr f.addr (withBits (s.rd f.addr) f.hi f.lo v)

/-- Writes a signed value into a field. -/
def State.putI (s : State) (f : Fld) (v : Int) : State := s.put f (ofSigned (f.hi + 1 - f.lo) v)

/-- Sets a one-bit field. -/
def State.set1 (s : State) (f : Fld) : State := s.put f 1

/-- Clears a field. -/
def State.clr (s : State) (f : Fld) : State := s.put f 0

/-- Writes a truth value into a one-bit field. -/
def State.putB (s : State) (f : Fld) (b : Bool) : State := s.put f (b2n b)

/-- Adds to a counter field, saturating at its width. -/
def State.bump (s : State) (f : Fld) (n : Nat) : State := s.put f (satNat (f.hi + 1 - f.lo) (s.get f + n))

/-- A field of a row. -/
def FieldRow.fld (f : FieldRow) (a : Nat) : Fld := ⟨a, f.hi, f.lo⟩

/-- Every register address of a row. -/
def rowAddrs (base : Nat) (r : RegRow) : List Nat :=
  (List.range r.n1).flatMap (fun i => (List.range r.n2).map (fun j => base + r.off + r.s1 * i + r.s2 * j))

/-- The words of a register file that lie in a block's window. -/
def inBlock (b : Block) (a : Nat) : Bool := decide (blockOfAddr a = some b)

/-- Every register of the given blocks back at its reset value. -/
def State.resetBlocks (s : State) (bs : List Block) : State :=
  { s with regs := sdrop (fun a => bs.any (fun b => inBlock b a)) s.regs }

end Sys2Proof.Machine
end

