-- ==== Sys2Proof/Machine/Ops.lean ====
section
/-! DEFINITION. The named operations that commands share: memories and their rings, the retained bytes, the two logs, the
commit load, fault detection and the safe state, tampers, and zero-calibration refusal. -/

namespace Sys2Proof.Machine

/-! ### Bytes -/

/-- What a byte of the Carousel or of the metrology store that nothing has written reads as (log entry 4). -/
def byteDefault : Nat → Byte := fun _ => 0#8

/-- A byte of the Carousel, by byte address. -/
def State.crsByte (s : State) (a : Nat) : Byte := sget byteDefault s.crs a

/-- Bytes of the Carousel. -/
def State.crsBytes (s : State) (a n : Nat) : List Byte := sgetAll byteDefault s.crs a n

/-- The number of the 32-bit word of the Carousel that holds a byte address. -/
def crsWord (a : Nat) : Nat := (a - 0x21000000) / 4

/-- Whether a word of the Carousel lies in the `n` bytes from an address. -/
def inWords (a n w : Nat) : Bool := decide (n ≠ 0 ∧ crsWord a ≤ w ∧ w ≤ crsWord (a + n - 1))

/-- Writes bytes of the Carousel; a word that is written is whole again (R54, log entry 51). -/
def State.crsWrite (s : State) (a : Nat) (bs : List Byte) : State :=
  { s with crs := ssetAll byteDefault s.crs a bs, ecc := s.ecc.filter (fun w => !inWords a bs.length w.1) }

/-- Bytes of the metrology store, by view address (R323). -/
def State.nvmBytes (s : State) (a n : Nat) : List Byte := sgetAll byteDefault s.nvm a n

/-- Writes bytes of the metrology store. -/
def State.nvmWrite (s : State) (a : Nat) (bs : List Byte) : State := { s with nvm := ssetAll byteDefault s.nvm a bs }

/-- The next free value, below `n` (log entry 2). -/
def State.draw (s : State) (n : Nat) : Nat × State :=
  ((Config.free s.free).toNat % n, { s with free := s.free + 1 })

/-- The next free value of a Level 3 to 5 value, below `n`: a sequence that no Service work advances (R20, R42; log entry 2). -/
def State.drawLevel (s : State) (n : Nat) : Nat × State :=
  ((Config.freeLevel s.freeLevel).toNat % n, { s with freeLevel := s.freeLevel + 1 })

/-- A signed value of `n` bits; a value that does not fit leaves a free value (log entry 11). -/
def State.fitS (s : State) (n : Nat) (v : Int) : Int × State :=
  if -((2 ^ (n - 1) : Nat) : Int) ≤ v ∧ v < (2 ^ (n - 1) : Nat) then (v, s)
  else
    let (x, s1) := s.drawLevel (2 ^ n)
    (toSigned n x, s1)

/-- An unsigned value of `n` bits; a value that does not fit leaves a free value (log entry 11). -/
def State.fitU (s : State) (n : Nat) (v : Nat) : Nat × State := if v < 2 ^ n then (v, s) else s.drawLevel (2 ^ n)

/-! ### The Carousel's rings (Table 1.8, R50, R51) -/

/-- First slot of a ring. -/
def ringBase (r : Nat) : Nat := bitsOf (regReset (F.SYS_RING_A r)) 10 0

/-- Number of slots of a ring. -/
def ringSlots (r : Nat) : Nat := bitsOf (regReset (F.SYS_RING_A r)) 22 12 + 1

/-- Byte address of a slot. -/
def slotAddr (slot : Nat) : Nat := 0x21000000 + 128 * slot

/-- Token values of R51. -/
def tokFree : Nat := 0
def tokWriting : Nat := 1
def tokPublished : Nat := 2
def tokReading : Nat := 3

/-- The token of a slot. -/
def State.token (s : State) (slot : Nat) : Nat := sget (fun _ => 0) s.tok slot

/-- Sets the token of a slot. -/
def State.setToken (s : State) (slot v : Nat) : State := { s with tok := sset (fun _ => 0) s.tok slot v }

/-- Whether a slot counts in FILL: its token is PUBLISHED or READING. -/
def State.slotFull (s : State) (slot : Nat) : Bool := decide (2 ≤ s.token slot)

/-- Sets the token of a slot and keeps the ring's FILL. -/
def State.moveToken (s : State) (r slot v : Nat) : State :=
  let f := F.SYS_RING_B_FILL r
  let old := s.slotFull slot
  let s1 := s.setToken slot v
  let new := decide (2 ≤ v)
  if old = new then s1 else if new then s1.put f (s1.get f + 1) else s1.put f (s1.get f - 1)

/-- `n` slots from a slot on. -/
def slotsFrom (slot n : Nat) : List Nat := (List.range n).map (fun k => slot + k)

/-- The next record sequence count of a ring (R50). -/
def State.nextSeq (s : State) (r : Nat) : Nat × State :=
  let q := sget (fun _ => 0) s.ringSeq r
  (q, { s with ringSeq := sset (fun _ => 0) s.ringSeq r ((q + 1) % 256) })

/-- The 8-byte record header of R50. -/
def State.header (s : State) (r : Nat) : List Byte × State :=
  let (q, s1) := s.nextSeq r
  (bytesLE 6 (s1.rm.tick % 2 ^ 48) ++ [byte r, byte q], s1)

/-- Whether the producer of a ring may write a slot: the slot lies in its ring and its token is WRITING (R53). -/
def State.mayWrite (s : State) (r slot : Nat) : Bool :=
  decide (ringBase r ≤ slot ∧ slot < ringBase r + ringSlots r) && decide (s.token slot = tokWriting)

/-- A block's write into slots of its ring, in their order; one that R53 forbids is discarded and counts. -/
def State.ringWrite (s : State) (r : Nat) : List Nat → List Byte → State
  | [], _ => s
  | slot :: t, bs =>
    let s1 := if s.mayWrite r slot then s.crsWrite (slotAddr slot) (bs.take 128) else s.bump F.SYS_CRS_ERR_COUNT 1
    s1.ringWrite r t (bs.drop 128)

/-- Moves the tokens of a list of slots. -/
def State.moveAll (s : State) (r : Nat) (slots : List Nat) (v : Nat) : State := slots.foldl (fun t i => t.moveToken r i v) s

/-- A producer's way through slots that are FREE or reclaimed: WRITING, the bytes, PUBLISHED (R51). -/
def State.fill (s : State) (r : Nat) (slots : List Nat) (bs : List Byte) : State :=
  ((s.moveAll r slots tokWriting).ringWrite r slots bs).moveAll r slots tokPublished

/-- Writes a record with its header into `n` slots and publishes them. -/
def State.publish (s : State) (r slot n : Nat) (body : List Byte) : State :=
  let (h, s1) := s.header r
  s1.fill r (slotsFrom slot n) (h ++ body)

/-! ### Time -/

/-- The live seconds. -/
def State.sec (s : State) : Nat := s.get F.RTC_SEC_SEC

/-- The live fraction. -/
def State.frac (s : State) : Nat := s.get F.RTC_FRAC_FRAC

/-- The time is untrusted while OSF is 1 (R292). -/
def State.untrusted (s : State) : Bool := s.flag F.RTC_STAT_OSF

/-! ### The retained bytes (Table 8.5, R293, R294) -/

/-- A retained byte. -/
def State.ret (s : State) (i : Nat) : Nat := bitsOf (s.rd (F.RTC_RET (i / 4))) (8 * (i % 4) + 7) (8 * (i % 4))

/-- Writes a retained byte. -/
def State.retPut (s : State) (i v : Nat) : State :=
  s.wr (F.RTC_RET (i / 4)) (withBits (s.rd (F.RTC_RET (i / 4))) (8 * (i % 4) + 7) (8 * (i % 4)) v)

/-- Writes retained bytes from `i` on. -/
def State.retPutAll (s : State) (i : Nat) : List Nat → State
  | [] => s
  | v :: t => (s.retPut i v).retPutAll (i + 1) t

/-- The check over the 9640's area: CRC-16 over bytes 0x00 to 0x1D. -/
def State.retCheck (s : State) : Nat := crc16 ((List.range 0x1E).map s.ret)

/-- Rewrites the check. -/
def State.retSeal (s : State) : State :=
  let c := s.retCheck
  (s.retPut 0x1E (c % 256)).retPut 0x1F (c / 256)

/-- Writes retained bytes and rewrites the check (R294). -/
def State.retWrite (s : State) (i : Nat) (vs : List Nat) : State := (s.retPutAll i vs).retSeal

/-! ### The trouble log (R481 to R483) -/

/-- Where an entry of the trouble log stands in ring 7 (R59, R483). -/
def troubleAddr (n : Nat) : Nat := 0x21016400 + 16 * (n % 1024)

/-- Writes one trouble-log entry. SYS_RING7_B.HEAD shows the slot of the next entry, a partly filled one included; R59 leaves open
which of the two it shows (DESIGN CHOICE, log entry 111). -/
def State.logTrouble (s : State) (code source data : Nat) : State :=
  let n := s.get F.LOG_TSEQ_SEQ
  let flags := b2n s.untrusted + 2 * b2n (s.flag F.SAFE_STAT_SAFE) + 4 * b2n s.pow.inStart
  let e := bytesLE 4 s.sec ++ bytesLE 2 s.frac ++ [byte code, byte source, byte flags, 0#8]
    ++ bytesLE 2 (s.rm.tick % 65536) ++ bytesLE 4 data
  let slot := 712 + n / 8 % 128
  let s1 := (s.moveToken 7 slot tokWriting).crsWrite (troubleAddr n) e
  let s2 := s1.moveToken 7 slot tokPublished
  let s3 := if 1024 ≤ n ∧ s.get F.LOG_TRD_RD ≤ n - 1024 then s2.bump F.LOG_TSTAT_OVF 1 else s2
  (s3.put F.LOG_TSEQ_SEQ (n + 1)).put (F.SYS_RING_B_HEAD 7) ((n + 1) / 8 % 128)

/-! ### The commit load and the legal log (R102, R485, R528) -/

/-- Rows of an open commit not yet written; a commit not yet open has its closing row. -/
def State.openRows (s : State) : Nat := match s.jrn.openC with | some (r, _) => r | none => 1

/-- The commit load W of R102 with a given number of queued legal entries. -/
def State.loadWith (s : State) (queued : Nat) : Nat :=
  s.openRows + s.get F.BILL_JRNL_PEND + (queued + 3) / 4

/-- The commit load W. -/
def State.load (s : State) : Nat := s.loadWith s.jrn.lq.length

/-- PWR_PFCFG.ROWS in force. -/
def State.rows (s : State) : Nat := s.get F.PWR_PFCFG_ROWS

/-- Legal entries inside a commit that is open. -/
def State.legalOpen (s : State) : Nat := match s.jrn.openC with | some (_, _, l) => l.length | none => 0

/-- Shows the number of entries that wait for a commit, and keeps the held number in retained byte 0x09. -/
def State.legalShow (s : State) : State :=
  let s1 := s.put F.LOG_LSTAT_PEND (s.jrn.lq.length + s.jrn.lheld.length + s.legalOpen)
  if s1.ret 9 = s.jrn.lheld.length then s1 else s1.retWrite 9 [s.jrn.lheld.length]

/-- Queues a legal entry, holds it, or counts it as lost (R102, R485). -/
def State.legalQueue (s : State) (e : LegalEntry) : State :=
  let j := s.jrn
  if 64 ≤ j.lq.length + j.lheld.length + s.legalOpen then s.bump F.LOG_LSTAT_LOST 1
  else if j.lheld = [] ∧ s.loadWith (j.lq.length + 1) ≤ s.rows - 2 then
    ({ s with jrn := { j with lq := j.lq ++ [e], due := true } }).legalShow
  else ({ s with jrn := { j with lheld := j.lheld ++ [e] } }).legalShow

/-- The data of a legal entry, filled to its 10 bytes. -/
def legalData (d : List Byte) : List Byte := (d ++ zeros 10).take 10

/-- A legal event (Table 14.9). During a start-up it carries the start-up time, and before the journal recovery it is
held in core RAM (R528). `sec` is the time of the event. -/
def State.legalAt (s : State) (sec code : Nat) (data : List Byte) : State :=
  if s.pow.inStart then
    if s.pow.recovered then
      s.legalQueue ⟨s.pow.startSec, code, b2n s.untrusted + 2, legalData data⟩
    else { s with pow := { s.pow with startLegal := s.pow.startLegal ++ [(code, legalData data)] } }
  else s.legalQueue ⟨sec, code, b2n s.untrusted, legalData data⟩

/-- A legal event at the present time. -/
def State.legal (s : State) (code : Nat) (data : List Byte) : State := s.legalAt s.sec code data

/-- Moves held legal entries into the queue while they fit (R102). -/
def State.legalRelease : Nat → State → State
  | 0, s => s
  | k + 1, s => match s.jrn.lheld with
    | [] => s
    | e :: t =>
      if s.loadWith (s.jrn.lq.length + 1) ≤ s.rows - 2 then
        State.legalRelease k
          ({ s with jrn := { s.jrn with lq := s.jrn.lq ++ [e], lheld := t, due := true } }).legalShow
      else s

/-- Makes a journal commit due in this tick's Persist phase (Table 9.8). -/
def State.commitDue (s : State) : State := { s with jrn := { s.jrn with due := true } }

/-! ### Close demands (R468) -/

/-- A tamper close demand is in force: a latched input whose CLOSE is 1. -/
def State.tamperClose (s : State) : Bool :=
  (List.range 4).any (fun n => bit (s.get F.SAFE_TLATCH_TAMP) n && s.flag (F.SAFE_TAMP_CLOSE n))

/-- The Safety Net's close demand. -/
def State.safetyClose (s : State) : Bool :=
  (s.flag F.SAFE_STAT_SAFE && s.flag F.SAFE_CFG_SSCLOSE) || s.tamperClose || s.flag F.SAFE_STAT_SSHELD

/-- A close demand is in force (R468). -/
def State.closeDemand (s : State) : Bool :=
  decide (s.get F.PAY_STAT_STATE = 5) || s.flag F.PAY_STAT_REMOTE || s.safetyClose

/-- Notes that the Safety Net demands a close: SSHELD sets, is journaled, and the drive is wanted (R468, R469). -/
def State.demandClose (s : State) : State :=
  let s1 := if s.flag F.SAFE_STAT_SSHELD then s else (s.set1 F.SAFE_STAT_SSHELD).commitDue
  { s1 with act := { s1.act with want := some true, openReq := false } }

/-! ### Zero calibration refused (R226) -/

/-- Refuses a zero calibration whose collection has not ended, with a cause of Table 6.8; the response is E06. -/
def State.zcRefuse (s : State) (cause : Nat) : State :=
  match s.shot.zc with
  | none => s
  | some _ =>
    let s1 := { s with shot := { s.shot with zc := none, zcOut := some (.error 6) } }
    (((s1.put F.SHOT_ZCSTAT_STATE 0).put F.SHOT_ZCSTAT_RESULT 2).put F.SHOT_ZCSTAT_CAUSE cause).clr F.CMD_STAT_ZCBUSY

/-! ### The safe state (R464, R466) -/

/-- Whether a cause holds the safe state until it is acknowledged (R466). -/
def State.latches (s : State) (code : Nat) : Bool := s.flag F.SAFE_CFG_LATCH || decide (code = 0x79)

/-- Notes a cause that needs an acknowledgement. -/
def State.noteAck (s : State) (code : Nat) : State :=
  if s.latches code then
    ({ s with safe := { s.safe with needAck := true, acked := false } }).set1 F.SAFE_STAT_ACKREQ
  else s

/-- The Safety Net enters the safe state, or replaces its cause while it holds (R464). -/
def State.enterSafe (s : State) (code : Nat) : State :=
  if s.flag F.SAFE_STAT_SAFE then ((s.put F.SAFE_STAT_CAUSE code).clr F.SAFE_STAT_EXITCNT).noteAck code
  else
    let s1 := s.logTrouble 0x80 code 0
    let s2 := ((s1.set1 F.SAFE_STAT_SAFE).put F.SAFE_STAT_CAUSE code).clr F.SAFE_STAT_EXITCNT
    let s3 := (s2.bump F.SAFE_CNT_ENTRIES 1).legal 0x35 [byte code]
    let s4 := (({ s3 with safe := { s3.safe with since := s3.rm.tick } }).noteAck code).zcRefuse 7
    if s4.flag F.SAFE_CFG_SSCLOSE then s4.demandClose else s4

/-- The reactions of Table 14.3. -/
inductive Reaction where
  | atOnce | second | logOnly | exits
  deriving DecidableEq, Repr

/-- The SAFE_FAULT bit of a code (SAFE_FAULT field table); none for codes that are no fault. -/
def faultBit (code : Nat) : Option Nat :=
  if code = 0x01 then some 0 else if 0x10 ≤ code ∧ code ≤ 0x14 then some 1
  else if 0x20 ≤ code ∧ code ≤ 0x24 then some 2 else if code = 0x30 then some 3
  else if code = 0x31 ∨ code = 0x32 then some 4 else if code = 0x40 ∨ code = 0x41 then some 5
  else if code = 0x44 ∨ code = 0x45 then some 6 else if code = 0x46 then some 7
  else if 0x50 ≤ code ∧ code ≤ 0x53 then some 8 else if code = 0x47 then some 9
  else if code = 0x42 ∨ code = 0x43 then some 10 else if code = 0x79 then some 11 else none

/-- One detection: its trouble-log entry, its SAFE_FAULT bit, its count, the restart of the exit count and its reaction
(R464, R471, R481). `exits` restarts the exit count and leaves the reaction to the caller. -/
def State.detect (s : State) (code source data : Nat) (r : Reaction) : State :=
  let s1 := s.logTrouble code source data
  let s2 := match faultBit code with
    | some b => s1.put ⟨F.SAFE_FAULT, b, b⟩ 1
    | none => s1
  let s3 := s2.bump F.SAFE_CNT_FAULTS 1
  let s4 := { s3 with safe := { s3.safe with now := code :: s3.safe.now } }
  let s5 := if r ≠ .logOnly ∧ s4.flag F.SAFE_STAT_SAFE then s4.clr F.SAFE_STAT_EXITCNT else s4
  match r with
  | .atOnce => s5.enterSafe code
  | .second => if s5.safe.prev.contains code then s5.enterSafe code else s5
  | .logOnly => s5
  | .exits => s5

/-- Asks for a safety reset after this tick's Persist (Table 14.3). -/
def State.safetyReset (s : State) (code : Nat) : State :=
  { s with pow := { s.pow with safetyReq := match s.pow.safetyReq with | some c => some c | none => some code } }

/-! ### Errors of the Carousel's words (R54) -/

/-- The words in error among the `n` bytes from an address are met: a single-bit error is corrected and counted, an uncorrectable one
is reported at once with its byte address (Table 14.3). Both are met once; the log of the corrected ones is written in Compute. -/
def State.eccMeet (s : State) (a n : Nat) : State :=
  let met := s.ecc.filter (fun w => inWords a n w.1)
  if met = [] then s
  else
    let corr := (met.filter (fun w => !w.2)).length
    let s1 := { s.bump F.SYS_CRS_ECC_CORR corr with
                  ecc := s.ecc.filter (fun w => !inWords a n w.1), safe := { s.safe with corr := s.safe.corr + corr } }
    (met.filter (fun w => w.2)).foldl (fun (t : State) w =>
      ((t.set1 F.SYS_CRS_ECC_UNCORR).detect 0x21 0xFF (0x21000000 + 4 * w.1) .atOnce).safetyReset 0x21) s1

/-- A block reads bytes of the Carousel. -/
def State.crsRead (s : State) (a n : Nat) : List Byte × State := (s.crsBytes a n, s.eccMeet a n)

/-- A consumer's way through slots that are PUBLISHED: READING, in which it meets their errors, then FREE (R51). -/
def State.consume (s : State) (r : Nat) (slots : List Nat) : State :=
  (slots.foldl (fun (t : State) i => t.eccMeet (slotAddr i) 128) (s.moveAll r slots tokReading)).moveAll r slots tokFree

/-- Whether bytes of the Carousel hold an uncorrectable error not yet met. -/
def State.crsBad (s : State) (a n : Nat) : Bool := s.ecc.any (fun w => w.2 && inWords a n w.1)

/-- The scrub of a tick: 16 slots, and the whole store in 128 ticks (R54). -/
def State.scrubTick (s : State) : State :=
  let s1 := s.eccMeet (slotAddr s.scrub) 2048
  { s1 with scrub := (s.scrub + 16) % 2048 }

/-! ### Tampers (R452, R453, R454, R478, R480) -/

/-- A tamper accepted during a key operation aborts it (R452, Table 13.12): a message under check answers RESULT 8, and a
phase 1 in progress is abandoned. -/
def State.keyAbort (s : State) : State :=
  let k := s.keys
  let hit (r : KeyRun) (s : State) : State :=
    let s1 := (s.set1 F.KEYS_STAT_ABORT).put F.KEYS_LAST_RESULT 8
    let s2 := (s1.bump F.KEYS_CNT_REJECTED 1).clr F.KEYS_STAT_BUSY
    { s2 with keys := { s2.keys with reply := some ⟨r.src, r.line, (r.bytes.getD 0 0#8).toNat, 8, 8⟩ } }
  match k.run, k.commit with
  | some r, _ => hit r { s with keys := { k with run := none } }
  | none, some c =>
    if s.get F.KEYS_STAT_COMMIT = 1 then (hit c.run { s with keys := { k with commit := none } }).clr F.KEYS_STAT_COMMIT
    else s
  | none, none => s

/-- Writes the tamper latch record: the time and the source bits, flag [0] set when `hold` (R453, R454). -/
def State.tamperRecord (s : State) (mask : Nat) (hold : Bool) : State :=
  let old := s.ret 8
  let f0 := Nat.lor old mask
  let f := if hold then Nat.lor f0 1 else f0
  (s.retPut 8 f).retWrite 0x0A ((bytesLE 4 s.sec ++ bytesLE 2 s.frac).map BitVec.toNat)

/-- Mirrors flag [0] of the tamper latch record into SAFE_TLATCH.HOLD, and enters tamper hold when it is set (R454). -/
def State.showHold (s : State) : State :=
  if bit (s.ret 8) 0 then
    let s1 := (s.set1 F.SAFE_TLATCH_HOLD).set1 F.KEYS_STAT_HOLD
    { s1 with keys := { s1.keys with slots := List.replicate 8 none, holdAck := none } }
  else s

/-- Raises a tamper of Table 14.5 (R478). A tamper of TAMPn or the seal also updates the latch record, and during a
start-up (R111) it starts tamper hold. -/
def State.raiseTamper (s : State) (src : Nat) : State :=
  let s1 := s.put ⟨F.SAFE_TLATCH, src, src⟩ 1
  let s2 := s1.bump F.SAFE_TCNT_COUNT 1
  let s3 := s2.logTrouble 0x60 src (s2.rd F.SAFE_TLATCH).toNat
  let s4 := s3.legal 0x10 [byte src]
  let s5 := if src ≤ 4 then ((s4.tamperRecord (2 ^ (src + 1)) s4.pow.inStart).keyAbort) else s4
  let s6 := if src ≤ 4 ∧ s5.pow.inStart then s5.showHold else s5
  if src < 4 ∧ s6.flag (F.SAFE_TAMP_CLOSE src) then (s6.set1 F.SAFE_STAT_TCLOSE).demandClose else s6

/-- The condition of a tamper source has returned to normal (R478). -/
def State.tamperEnd (s : State) (src : Nat) : State := s.legal 0x11 [byte src]

/-! ### Running -/

/-- Ticks run (R77, R92): the start-up has completed its first Capture and no power-fail wait holds them. -/
def State.ticking (s : State) : Bool := decide (s.pow.stage = .running)

/-- The Service window of the tick is open: its Compute has ended and its Persist, if it has one, has not run. What a host asks for
has its effect only there (R18). -/
def State.serviceOpen (s : State) : Bool :=
  s.ticking && s.rm.phaseDone && decide (2 ≤ s.get F.FT_PHASE_PHASE ∧ s.get F.FT_PHASE_PHASE ≤ 3)

/-- The core runs or can be woken: a start-up is complete, none that a warning has stopped is to run again, and neither HIBERNATE nor
BACKUP holds it (Table 3.3, R104). -/
def State.coreAlive (s : State) : Bool := match s.pow.stage with
  | .running => true
  | .awaitTick | .emergency | .pfWait | .resuming => !s.pow.inStart || s.pow.recovered
  | _ => false

/-- What PWR_STATE.STATE holds: RUN, DOZE and SLEEP (Table 3.2). -/
def pwrRun : Nat := 0
def pwrDoze : Nat := 1
def pwrSleep : Nat := 2

/-- A carrier is awake (R117). -/
def State.carrierAwake (s : State) : Bool := s.cmd.uart.awake || s.cmd.opt.awake

/-- Enters a power state. -/
def State.enterPower (s : State) (v : Nat) : State := s.put F.PWR_STATE_STATE v

/-- A GPIO ball has one of the functions `fs`. -/
def State.gpioHas (s : State) (fs : List Nat) : Bool := (List.range 12).any (fun n => fs.contains (s.get (F.MGMT_GPIO_FUNC n)))

/-- The H-bridge drives the actuator (R76, R364). -/
def State.bridging (s : State) : Bool := match s.act.drive with | some d => d.bridgeOn | none => false

/-- Between ticks the core is in RUN while the bridge drives, in DOZE while a carrier is awake, a ball gives test pulses or a key
message is verified, and in SLEEP otherwise (R22, R117, R265, R441, R469). -/
def State.restPower (s : State) : State :=
  s.enterPower (if s.bridging then pwrRun else if s.carrierAwake || s.gpioHas [5, 6] || s.flag F.KEYS_STAT_BUSY then pwrDoze else pwrSleep)

/-- Between ticks, the power state follows what still runs. -/
def State.settlePower (s : State) : State := if s.ticking ∧ s.get F.FT_PHASE_PHASE = 5 then s.restPower else s

/-- An event wakes the core from SLEEP (Table 3.3). -/
def State.wakeCore (s : State) : State :=
  if s.ticking ∧ s.get F.FT_PHASE_PHASE = 5 ∧ s.get F.PWR_STATE_STATE = pwrSleep then s.enterPower pwrRun else s

/-- The phase shown becomes "between ticks", and the core rests (R22). -/
def State.endPhases (s : State) : State := (s.put F.FT_PHASE_PHASE 5).restPower

/-- The role of a session or of a link key (R142, R358): its rank. -/
def roleRank : Role → Nat
  | .publicRole => 0
  | .reader => 1
  | .installer => 2
  | .utility => 3
  | .manufacturer => 4

/-- Whether a role holds a right that starts at another. -/
def roleAtLeast (r m : Role) : Bool := decide (roleRank m ≤ roleRank r)

/-- The carrier's record. -/
def State.car (s : State) : Carrier → CarrierSt
  | .uart => s.cmd.uart
  | .optical => s.cmd.opt
  | .tunnel n => sget (fun _ => CarrierSt.init) s.cmd.tun n.val

/-- The role bound to link messages of a neighbour entry: that of the usage byte of its key slot; Public for an
unprotected message (R358, R387, Table 13.3). -/
def State.linkRole (s : State) (n : Nat) (sec : Bool) : Role :=
  let r := bitsOf (s.rd (F.KEYS_SLOT (s.get (F.LINK_NB_A_KEY n)))) 15 13
  if !sec then .publicRole
  else if r = 3 then .utility else if r = 2 then .installer else if r = 1 then .reader else .publicRole

/-- The role a request carries: that of the carrier's session, or of the link key (R132, R142, R358). -/
def State.roleOf (s : State) : Source → Role
  | .carrier c => (s.car c).role
  | .link n sec => s.linkRole n.val sec

/-- Replaces the carrier's record. -/
def State.setCar (s : State) (c : Carrier) (x : CarrierSt) : State :=
  match c with
  | .uart => { s with cmd := { s.cmd with uart := x } }
  | .optical => { s with cmd := { s.cmd with opt := x } }
  | .tunnel n => { s with cmd := { s.cmd with tun := sset (fun _ => CarrierSt.init) s.cmd.tun n.val x } }

/-- The number of a carrier (R144, Table 14.7). -/
def carrierNum : Carrier → Nat
  | .uart => 0
  | .optical => 1
  | .tunnel _ => 2

/-- The number of a meter point. -/
def mpNum : MeterPoint → Nat
  | .mpa => 0
  | .mpb => 1

/-- A number of cycles of the 32.768 kHz time base in `n` seconds. -/
def secs (n : Nat) : Nat := 32768 * n

/-- A number of whole cycles of the time base in `n` ms, rounded up. -/
def millis (n : Nat) : Nat := (32768 * n + 999) / 1000

end Sys2Proof.Machine
end

