-- ==== Sys2Proof/Machine/Clock.lean ====
section
/-! DEFINITION. The clock, its trim, the countdown timer, time writes and captures, and the passage of time that every
event with a `dt` brings (spec 08_clock_backup.md). -/

namespace Sys2Proof.Machine

/-! ### Effects of an untrusted or stepped time on the link and the token lockout -/

/-- PHASEOK and DRIFTOK clear in every neighbour entry (R384). -/
def State.linkUntrust (s : State) : State :=
  (List.range 32).foldl (fun s n => (s.clr (F.LINK_NB_B_PHASEOK n)).clr (F.LINK_NB_B_DRIFTOK n)) s

/-- Shifts the learned PHASE of every entry by a step in 1/65536 s (R384). -/
def State.linkShift (s : State) (d : Int) : State :=
  (List.range 32).foldl (fun s n =>
    if s.flag (F.LINK_NB_B_PHASEOK n) then
      let p := ofSigned 48 ((s.get (F.LINK_NB_C_PSEC n) * 65536 + s.get (F.LINK_NB_D_PFRAC n) : Nat) + d)
      (s.put (F.LINK_NB_C_PSEC n) (p / 65536)).put (F.LINK_NB_D_PFRAC n) (p % 65536)
    else s) s

/-- OSF sets with a cause (R291). -/
def State.setOsf (s : State) (cause : Fld) : State := ((s.set1 F.RTC_STAT_OSF).set1 cause).linkUntrust

/-! ### Edges of the 32.768 kHz clock -/

/-- Corrected cycles among `e` cycles that begin at position `w` of a trim window: |n| of them, evenly spaced (R287). -/
def trimCount (n : Int) (w e : Nat) : Int :=
  let c : Nat := (n.natAbs * (w + e) / 2 ^ 20 : Nat) - (n.natAbs * w / 2 ^ 20 : Nat)
  if 0 ≤ n then (c : Int) else -(c : Int)

/-- The FRAC units that `e` edges add, the new window position and the trim then applied (R271, R287, R288). -/
def trimmed (applied val : Int) (w e : Nat) : Int × Nat × Int :=
  if w + e < 2 ^ 20 then (2 * (e : Int) + 2 * trimCount applied w e, w + e, applied)
  else
    let first : Nat := 2 ^ 20 - w
    let rest : Nat := e - first
    let full : Nat := rest / 2 ^ 20
    let r : Nat := rest % 2 ^ 20
    (2 * (e : Int) + 2 * (trimCount applied w first + val * full + trimCount val 0 r), r, val)

/-- SEC and FRAC, as one count of 1/65536 s, with the wrap of R272; at the edge that applies a time write (`write`) a rollover is
absorbed (R279). -/
def State.setCount (s : State) (write : Bool) (t : Nat) : State :=
  let s1 := (s.put F.RTC_SEC_SEC (t / 65536)).put F.RTC_FRAC_FRAC (t % 65536)
  if 2 ^ 48 ≤ t ∧ !write then s1.setOsf F.RTC_STAT_WRAP else s1

/-- The count of 1/65536 s. -/
def State.count (s : State) : Nat := 65536 * s.sec + s.frac

/-- The countdown timer expires: it stops, CDTEXP sets; a running core records a trouble entry, and in HIBERNATE the
wake is latched when WAKE_CDT is 1 (R290, R93). -/
def State.cdtExpire (s : State) : State :=
  let s1 := (s.clr F.RTC_CDT_COUNT).set1 F.RTC_STAT_CDTEXP
  if s1.coreAlive then s1.wakeCore.logTrouble 0x74 0xFF 0
  else if s1.pow.stage = .hibernate ∧ s1.flag F.PWR_CTRL_WAKE_CDT then s1.retWrite 7 [Nat.lor (s1.ret 7) 1]
  else s1

/-- The countdown timer over `e` crystal cycles: one step each 128 (R289). -/
def State.cdtEdges (s : State) (e : Nat) : State :=
  let p := s.rtc.pre + e
  let steps := p / 128
  let s1 := { s with rtc := { s.rtc with pre := p % 128 } }
  let c := s1.get F.RTC_CDT_COUNT
  if c = 0 ∨ steps = 0 then s1
  else if c ≤ steps then s1.cdtExpire
  else s1.put F.RTC_CDT_COUNT (c - steps)

/-- Whether the counter advances: not in BACKUP while the oscillator is stopped (R273), and not before the oscillator has first
started after a backup-domain power-on, when no substitute keeps a tick timer running (R110, log entry 36). -/
def State.counting (s : State) : Bool := s.rtc.xtRun || (s.rtc.started && decide (s.pow.stage ≠ .backup))

/-- `e` edges of the clock; `write` says that a time write is applied at them. The countdown timer and the trim windows count
crystal cycles; the substitute source advances the count alone (R273, R288, R289). -/
def State.edges (s : State) (write : Bool) (e : Nat) : State :=
  if s.rtc.xtRun then
    let (inc, w, n) := trimmed (s.getI F.RTC_TRIM_APPLIED) (s.getI F.RTC_TRIM_VAL) s.rtc.win e
    let s1 := s.putI F.RTC_TRIM_APPLIED n
    let s2 := { s1 with rtc := { s1.rtc with win := w } }
    (s2.setCount write (s2.count + inc.toNat)).cdtEdges e
  else if s.counting then s.setCount write (s.count + 2 * e)
  else s

/-! ### Time writes (R278 to R281) -/

/-- The edge that applies a time write: the counter has just been advanced as if no write were pending, and the write
replaces it (R279, R280). The core's record is kept beside RTC_STEP. -/
def State.applyTime (s : State) (v : Nat) : State :=
  let old := s.sec
  let oldFrac := s.frac
  let step := satSigned 32 ((v : Int) - old)
  let was := s.untrusted
  let s1 := ((s.put F.RTC_SEC_SEC v).clr F.RTC_FRAC_FRAC).clr F.RTC_STAT_WBUSY
  let s2 := ((s1.putI F.RTC_STEP_STEP step).put F.RTC_STEPFRAC_FRAC oldFrac).set1 F.RTC_STAT_STEPPED
  let s3 := if was then
      ((((s2.set1 F.RTC_STAT_STEPUNTR).clr F.RTC_STAT_OSF).clr F.RTC_STAT_BKPOR).clr F.RTC_STAT_XT32STOP).clr
        F.RTC_STAT_WRAP
    else s2
  let rec1 : TimeStep := ⟨old, oldFrac, v, step, was⟩
  let s4 := { s3 with rtc := { s3.rtc with wr := none, steps := s3.rtc.steps ++ [rec1] } }
  let s5 := s4.linkShift (65536 * step - oldFrac)
  match s5.jrn.hid.lockEnd with
  | none => s5
  | some l =>
    { s5 with jrn := { s5.jrn with due := true, hid := { s5.jrn.hid with lockEnd := some (l + step).toNat } } }

/-- Starts a time write; one already on its way completes unchanged (R278). -/
def State.startTimeWrite (s : State) (v : Nat) : State :=
  if s.flag F.RTC_STAT_WBUSY then s
  else { s.set1 F.RTC_STAT_WBUSY with rtc := { s.rtc with wr := some (v % 2 ^ 32, 2) } }

/-- A write to RTC_SETD holds a date (R284). -/
def State.holdDate (s : State) (w : Word) : State :=
  if s.flag F.RTC_STAT_WBUSY then s
  else { s with rtc := { s.rtc with held := some (bitsOf w 23 16, bitsOf w 11 8, bitsOf w 4 0) } }

/-- A write to RTC_SETT converts the time with the date held, or with the current date, and applies it (R284). -/
def State.setTimeOfDay (s : State) (w : Word) : State :=
  if s.flag F.RTC_STAT_WBUSY then s
  else
    let now := secToCal s.sec
    let (y, m, d) := match s.rtc.held with
      | some x => x
      | none => (now.year, now.month, now.day)
    let (t, clamped) := calToSec y m d (bitsOf w 20 16) (bitsOf w 13 8) (bitsOf w 5 0)
    let s1 := if clamped then s.set1 F.RTC_STAT_CLAMPED else s
    ({ s1 with rtc := { s1.rtc with held := none } }).startTimeWrite t

/-- Edges with a pending time write applied at its edge, the `k`-th. -/
def State.writeEdges (s : State) (e : Nat) : State :=
  match s.rtc.wr with
  | none => s.edges false e
  | some (v, k) =>
    if !s.counting then s
    else if k ≤ e then (((s.edges false (k - 1)).edges true (min k 1)).applyTime v).edges false (e - k)
    else { s.edges false e with rtc := { (s.edges false e).rtc with wr := some (v, k - e) } }

/-- The word of RTC_CALD for a calendar time. -/
def caldWord (c : CalTime) : Word := word (c.year * 2 ^ 16 + c.month * 2 ^ 8 + c.day)

/-- The word of RTC_CALT for a calendar time. -/
def caltWord (c : CalTime) : Word := word (c.wday * 2 ^ 24 + c.hour * 2 ^ 16 + c.minute * 2 ^ 8 + c.second)

/-- SEC, FRAC and the calendar view are latched together, and the capture is complete (R274, R283). -/
def State.latchCapture (s : State) : State :=
  let c := secToCal s.sec
  ((((s.put F.RTC_CAPSEC_SEC s.sec).put F.RTC_CAPFRAC_FRAC s.frac).wr F.RTC_CALD (caldWord c)).wr F.RTC_CALT (caltWord c)).clr
    F.RTC_STAT_CBUSY

/-- Edges of the clock; a capture in progress latches at the first of them (R274). -/
def State.clockEdges (s : State) (e : Nat) : State :=
  if s.flag F.RTC_STAT_CBUSY ∧ s.counting ∧ 1 ≤ e then ((s.writeEdges 1).latchCapture).writeEdges (e - 1) else s.writeEdges e

/-! ### The transmit buffers -/

/-- Baud rates of CMD_UART.BAUD (R150). -/
def uartBaud (b : Nat) : Nat :=
  if b ≤ 7 then 300 * 2 ^ b else if b = 8 then 57600 else 57600 * 2 ^ (b - 8)

/-- The rate of the optical carrier: 300 baud until a session runs at the rate selected (R119, R121). -/
def State.optBaud (s : State) : Nat := match s.cmd.sign with | .session z => 300 * 2 ^ z | _ => 300

/-- Characters leave a transmit buffer at one tenth of the baud rate: both formats have ten bits (R116). -/
def CarrierSt.drainAt (c : CarrierSt) (baud dt : Nat) : CarrierSt :=
  let p := c.txPhase + dt * baud
  let rest := c.tx.drop (p / 327680)
  { c with tx := rest, txPhase := if rest = [] then 0 else p % 327680 }

/-- A transmitter over `dt` cycles whose first characters leave at other rates: `old` says how many, and at which. -/
def CarrierSt.drainOld : List (Nat × Nat) → CarrierSt → Nat → Nat → CarrierSt
  | [], c, baud, dt => ({ c with old := [] }).drainAt baud dt
  | (n, b) :: t, c, baud, dt =>
    let p := c.txPhase + dt * b
    if p < 327680 * n then { c.drainAt b dt with old := (n - p / 327680, b) :: t }
    else CarrierSt.drainOld t { c with tx := c.tx.drop n, txPhase := 0 } baud ((p - 327680 * n) / max 1 b)

/-- A transmitter over `dt` cycles: characters that stood in the buffer when a SET changed the rate leave first, at the old one
(R149). -/
def CarrierSt.drain (c : CarrierSt) (baud dt : Nat) : CarrierSt := CarrierSt.drainOld c.old c baud dt

/-- The UART and optical transmitters over `dt` cycles. -/
def State.drainTx (s : State) (dt : Nat) : State :=
  { s with cmd := { s.cmd with
      uart := s.cmd.uart.drain (uartBaud (s.get F.CMD_UART_BAUD)) dt
      opt := s.cmd.opt.drain s.optBaud dt } }

/-- `dt` cycles of the 32.768 kHz time base pass. -/
def State.advance (s : State) (dt : Nat) : State :=
  let s1 := (s.clockEdges dt).drainTx dt
  { s1 with uptime := s1.uptime + dt }

/-! ### Reading the time (R274 to R276, R283) -/

/-- A capture that is waited for: the next edge passes, then the time is latched (R274). -/
def State.capture (s : State) : State := (s.advance 1).latchCapture

/-- A write of 1 to RTC_CTRL.CAPTURE: CBUSY is 1 until the next edge has latched (R274). -/
def State.startCapture (s : State) : State := s.set1 F.RTC_STAT_CBUSY

/-! ### Inputs that AON samples (R67, R75, R76) -/

/-- One sample of an input: a level is accepted once `need` samples in a row agree on it. -/
def Sampler.sample (x : Sampler) (need : Nat) (v : Bool) : Sampler :=
  if v = x.level then ⟨v, v, 0⟩ else if need ≤ x.run + 1 then ⟨v, v, 0⟩ else ⟨v, x.level, x.run + 1⟩

/-- The level on the ball where nothing samples it. -/
def Sampler.follow (x : Sampler) (v : Bool) : Sampler := { x with ball := v }

/-- The first sample, which is accepted at once. -/
def Sampler.first (x : Sampler) : Sampler := ⟨x.ball, x.ball, 0⟩

/-- The cycles between the samples of SEAL, of the feedback inputs and of a tamper input in sampled mode; and of a tamper input in
continuous mode. -/
def samplePeriod : Nat := 4096
def samplePeriodCont : Nat := 1024

/-- Samples of an input in their order: the first `dt` cycles from now, each further one a period later. -/
def State.sampleRun {α : Type} (f : State → α → State) (period : Nat) : State → Nat → List α → State
  | s, dt, [] => s.advance dt
  | s, dt, [v] => f (s.advance dt) v
  | s, dt, v :: w :: t => State.sampleRun f period (f (s.advance dt) v) period (w :: t)

/-! ### Microseconds -/

/-- Cycles of the 32.768 kHz time base in µs, and a time in µs in cycles, rounded up. -/
def cyclesUs (c : Nat) : Nat := c * 15625 / 512
def usCycles (us : Nat) : Nat := (us * 512 + 15624) / 15625

/-! ### The commands of the clock -/

/-- TIME_WRITE_APPLIED: the edge that applies the write on its way (R278 to R280). Without one nothing happens. -/
def execTimeWriteApplied (s : State) : Host.Outcome State Fault Refusal :=
  match s.rtc.wr with
  | none => .next s
  | some (_, k) => .next (s.advance k)

/-- COUNTDOWN_TIMER_EXPIRY: time passes to the expiry of a running countdown timer (R289, R290). -/
def execCountdownTimerExpiry (s : State) : Host.Outcome State Fault Refusal :=
  let c := s.get F.RTC_CDT_COUNT
  if c = 0 ∨ s.rtc.xtRun = false then .next s
  else .next (s.advance (128 * c - s.rtc.pre))

/-- TRIM_WINDOW: time passes to the next window start, where VAL in force becomes APPLIED (R287, R288). -/
def execTrimWindow (s : State) : Host.Outcome State Fault Refusal :=
  if s.rtc.xtRun then .next (s.advance (2 ^ 20 - s.rtc.win)) else .next s

/-- Edges until the count wraps: the least number whose trimmed sum reaches 2^48, found by bisection (R272). -/
def State.edgesToWrap (s : State) : Nat :=
  let need : Int := (2 ^ 48 : Nat) - (s.count : Int)
  let reach (e : Int) : Int :=
    if s.rtc.xtRun then (trimmed (s.getI F.RTC_TRIM_APPLIED) (s.getI F.RTC_TRIM_VAL) s.rtc.win e.toNat).1 else 2 * e
  (bisect (fun e => decide (reach e < need)) 49 0).toNat + 1

/-- WRAP: time passes to the rollover of the largest time, at which SEC wraps to 0 and OSF sets with cause WRAP
(R272, R291). A write on its way is applied first. -/
def execWrap (s : State) : Host.Outcome State Fault Refusal :=
  if s.counting then
    let s1 := match s.rtc.wr with | none => s | some (_, k) => s.advance k
    .next (s1.advance s1.edgesToWrap)
  else .next s

end Sys2Proof.Machine
end

