-- ==== Sys2Proof/Machine/Sensors.lean ====
section
/-! DEFINITION. The sensor block: conversions, their conversion to temperature and pressure, and samples that come into
force at Capture (spec 07_meter_points.md, R244 to R251, R269; R476). -/

namespace Sys2Proof.Machine

/-! ### Cadence (R246) -/

/-- The longest conversion sequence due in the tick, in units of 10 µs (R30, R246). -/
def State.convDue (s : State) : Nat × Nat :=
  if s.flag F.SENS_CTRL_EN then
    let n := sumNat ((List.range 6).map (fun i => b2n (bit (s.get F.SENS_CTRL_TSEN) i)))
    (if s.rm.tick % s.get F.SENS_CAD_RTD_DIV = 0 then n else 0,
     if s.flag F.SENS_CTRL_PBEN ∧ s.rm.tick % s.get F.SENS_CAD_BR_DIV = 0 then 1 else 0)
  else (0, 0)

/-- The inputs that a sequence converts: enabled, and not the holder of the external reference (R244). -/
def State.sensInputs (s : State) : List Nat :=
  (List.range 6).filter (fun i => bit (s.get F.SENS_CTRL_TSEN) i && !s.flag (F.SENS_TCFG_REF i))

/-- At the end of the Acoustic window, or of a Capture without one, the sequence due in the tick starts (R246). -/
def State.startConv (s : State) : State :=
  let (nt, nb) := s.convDue
  let run := if nt = 0 ∧ nb = 0 then none else some (if nt = 0 then [] else s.sensInputs, decide (nb ≠ 0))
  { s with sens := { s.sens with running := run, held := none } }

/-! ### Resistance to temperature (R245, R248, R249, Table 7.5) -/

/-- R0 of a sensor type in 1/256 mΩ. -/
def sensR0 (type : Nat) : Nat := 256000 * (if type = 0 then 100 else if type = 1 then 500 else 1000)

/-- The right side of the Callendar–Van Dusen equation over R0, times 10^15 × 2^96, at `k` × 2^-24 °C. -/
def cvd (k : Int) : Int :=
  let base : Int := 10 ^ 15 * 2 ^ 96 + 39083 * 10 ^ 8 * 2 ^ 72 * k - 5775 * 10 ^ 5 * 2 ^ 48 * (k * k)
  if k < 0 then base - 4183 * ((k - 100 * 2 ^ 24) * (k * k * k)) else base

/-- The temperature, in 2^-24 °C, at which a resistance in 1/256 mΩ solves the equation: the least `k` of the span -200 °C
to 850 °C at which the equation reaches it. -/
def cvdInverse (type : Nat) (r : Int) : Int :=
  let need := r * (10 ^ 15 * 2 ^ 96)
  bisect (fun j => decide (cvd (j - 200 * 2 ^ 24) * sensR0 type < need)) 34 0 - 200 * 2 ^ 24 + 1

/-- The calibrated temperature in 1/65536 K of a resistance (R248). -/
def State.sensTemp (s : State) (i : Nat) (r : Int) : Int :=
  let lead : Int := if s.flag (F.SENS_TCFG_WIRES i) then 256 * (s.get (F.SENS_TCFG_LEAD i) : Int) else 0
  let k := cvdInverse (s.get (F.SENS_TCFG_TYPE i)) (r - lead)
  roundDiv (k * (2 ^ 24 + s.getI (F.SENS_TCAL_GAIN i))) (2 ^ 32) + s.getI (F.SENS_TCAL_OFF i)

/-- The value of the reference in 1/256 mΩ (R245). -/
def State.sensRef (s : State) : Nat := if s.flag F.SENS_CTRL_REFEXT then s.get F.SENS_RREF_RREF else 256000000

/-- One converted input: its STATE, its temperature where valid, and its resistance in mΩ (R245, R249). -/
def State.convertInput (s : State) (i : Nat) (c : InputConv) : Nat × Option Int × Nat :=
  let r := roundDiv (s.sensRef * (c.ratioPos + c.ratioNeg)) (2 ^ 25)
  let res := satNat 24 (roundDiv r 256).toNat
  let lo : Int := sensR0 (s.get (F.SENS_TCFG_TYPE i)) / 10 * 7
  let hi : Int := sensR0 (s.get (F.SENS_TCFG_TYPE i)) * 2
  if c.leadOpen ∨ hi < r then (1, none, res)
  else if r < lo then (2, none, res)
  else (0, some (s.sensTemp i r), res)

/-! ### The bridge (R251) -/

/-- Whether the excitation current, in µA, is one that the bridge is measured with: 0.1 mA to 4.0 mA (R251). -/
def bridgeExcited (ua : Nat) : Bool := decide (100 ≤ ua ∧ ua ≤ 4000)

/-- The bridge sample: its STATE, p_s in 1/256 Pa where valid, and the ratio. An excitation out of range decides before the
ratio, which then measures nothing (log entry 16). -/
def State.convertBridge (s : State) (b : BridgeConv) : Nat × Option Int × Int :=
  let r := satSigned 24 b.ratio
  if !bridgeExcited b.excUa then (2, none, r)
  else if 2 ^ 22 < b.ratio.natAbs then (1, none, r)
  else
    let p := s.getI (F.SENS_PBCFG_P 0) * 2 ^ 48 + s.getI (F.SENS_PBCFG_P 1) * (256 * 2 ^ 24) * b.ratio
      + s.getI (F.SENS_PBCFG_P 2) * 256 * (b.ratio * b.ratio)
    (0, some (roundDiv p (2 ^ 48)), r)

/-! ### The sequence ends -/

/-- The reference test of R476: the check ratio within 0.1 %, the directions within 0.05 %. -/
def refOk (c : ConvSeq) : Bool := decide (c.refRatioPpm.natAbs ≤ 1000 ∧ c.refDirPpm.natAbs ≤ 500)

/-- The trouble-log entry and the reaction of a failing reference test (R476). -/
def State.refFault (s : State) (c : ConvSeq) : State :=
  if 1000 < c.refRatioPpm.natAbs then s.detect 0x44 0 (ofSigned 32 c.refRatioPpm) .atOnce
  else s.detect 0x44 1 (ofSigned 32 c.refDirPpm) .atOnce

/-- The results of a sequence, which wait for the next Capture. An input that the sequence lists and the measurement does
not give reads as an open lead. -/
def State.convResults (s : State) (inputs : List Nat) (bridge : Bool) (c : ConvSeq) : SensHeld :=
  let rtd := inputs.map (fun i => (i, s.convertInput i ((c.inputs.getD i none).getD ⟨0, 0, true⟩)))
  ⟨rtd, if bridge then some (s.convertBridge (c.bridge.getD ⟨0, 0⟩)) else none⟩

/-- CONVERSION_SEQUENCE_END (R245 to R251, R476): the results of the running sequence are held for the next Capture; a
sequence with temperatures also carries the reference test, and does not come into force when that fails. -/
def execConversionSequenceEnd (dt : Nat) (conv : ConvSeq) (s : State) : Host.Outcome State Fault Refusal :=
  let s1 := s.advance dt
  match s1.sens.running with
  | none => .next s1
  | some (inputs, bridge) =>
    let h := s1.convResults inputs bridge conv
    let fails := decide (inputs ≠ []) && !refOk conv
    let s2 := { s1 with sens := { s1.sens with running := none, held := if fails then none else some h } }
    let s3 := match h.bridge with
      | some (st, _, r) =>
        if st = 0 then s2 else s2.detect 0x45 0xFF (st * 2 ^ 30 + ofSigned 24 r) .logOnly
      | none => s2
    .next (if fails then s3.refFault conv else s3)

/-! ### Samples come into force (R247, R249) -/

/-- One input's sample comes into force. A change from valid to open or short is a lead tamper; the first valid sample
after it ends the tamper's condition. -/
def State.sampleInput (s : State) (x : Nat × Nat × Option Int × Nat) : State :=
  let (i, st, t, res) := x
  let was := s.get (F.SENS_TSTAT_STATE i)
  let (v, s1) := match t with
    | some v => s.fitS 32 v
    | none => (s.getI (F.SENS_TVAL_T i), s)
  let s2 := ((s1.putI (F.SENS_TVAL_T i) v).put (F.SENS_TSTAT_STATE i) st).put (F.SENS_TSTAT_RES i) res
  if was = 0 ∧ st ≠ 0 then s2.raiseTamper (9 + i)
  else if (was = 1 ∨ was = 2) ∧ st = 0 then s2.tamperEnd (9 + i)
  else s2

/-- The bridge sample comes into force. -/
def State.sampleBridge (s : State) (x : Nat × Option Int × Int) : State :=
  let (st, p, r) := x
  let (v, s1) := match p with
    | some v => s.fitS 32 v
    | none => (s.getI F.SENS_PBVAL_P, s)
  let s2 := ((s1.putI F.SENS_PBVAL_P v).put F.SENS_PBSTAT_STATE st).putI F.SENS_PBSTAT_RATIO r
  s2.put F.SENS_SEQ_PSEQ (s2.get F.SENS_SEQ_PSEQ + 1)

/-- Inputs that are not converted, and the bridge when it is not, read STATE 3. -/
def State.sensDisabled (s : State) : State :=
  let on := if s.flag F.SENS_CTRL_EN then s.sensInputs else []
  let s1 := (List.range 6).foldl (fun t i => if on.contains i then t else t.put (F.SENS_TSTAT_STATE i) 3) s
  if s.flag F.SENS_CTRL_EN ∧ s.flag F.SENS_CTRL_PBEN then s1 else s1.put F.SENS_PBSTAT_STATE 3

/-- The SENS part of Capture: the held results come into force together (R247). -/
def State.sensCapture (s : State) : State :=
  let h := s.sens.held
  let s1 := { s with sens := { running := none, held := none, newT := false } }
  let s2 := match h with
    | none => s1
    | some x =>
      let t := x.rtd.foldl State.sampleInput s1
      let t1 := if x.rtd = [] then t else
        { t.put F.SENS_SEQ_TSEQ (t.get F.SENS_SEQ_TSEQ + 1) with sens := { t.sens with newT := true } }
      match x.bridge with
      | none => t1
      | some b => t1.sampleBridge b
  s2.sensDisabled

end Sys2Proof.Machine
end

