-- ==== Sys2Proof/Machine/Lcd.lean ====
section
/-! DEFINITION. The clocks of the display: phases and frames of the kinds A and B of an LCD, the phases of a bistable update, and what
an Acoustic window defers (spec 12_display.md, R400 to R402, R420). -/

namespace Sys2Proof.Machine

/-- The commons of the panel. -/
def State.lcdComs (s : State) : Nat := if s.flag F.DISP_LCD_DUTY then 8 else 4

/-- The length of a phase in crystal cycles. -/
def State.lcdTp (s : State) : Nat := 8 * (s.get F.DISP_LCD_PHASE + 1)

/-- The next phase: the next common of the frame, or the first of a frame of the other kind; it takes what its common is lengthened
by. -/
def LcdDrive.next (n tp : Nat) (d : LcdDrive) : LcdDrive :=
  let c := if d.com + 1 < n then d.com + 1 else 0
  { start := d.start + d.len, len := tp + d.carry.getD c 0, com := c, kindB := if d.com + 1 < n then d.kindB else !d.kindB,
    carry := d.carry.set c 0 }

/-- Phases until the one that runs at `t`, `k` at most. -/
def LcdDrive.steps (n tp t : Nat) : Nat → LcdDrive → LcdDrive
  | 0, d => d
  | k + 1, d => if d.start + d.len ≤ t then LcdDrive.steps n tp t k (d.next n tp) else d

/-- The phase that runs at `t`: after two frames nothing is lengthened, and whole pairs of frames pass alike. -/
def LcdDrive.at (n tp t : Nat) (d : LcdDrive) : LcdDrive :=
  let d1 := LcdDrive.steps n tp t (2 * n) d
  LcdDrive.steps n tp t (2 * n) { d1 with start := d1.start + (t - d1.start) / (2 * n * tp) * (2 * n * tp) }

/-- The phase that runs at an instant of uptime. -/
def State.lcdAt (s : State) (t : Nat) : LcdDrive := s.disp.drive.at s.lcdComs s.lcdTp t

/-- The drive as it begins: the first common of an A frame. -/
def State.lcdBegin (s : State) : State :=
  { s with disp := { s.disp with drive := ⟨s.uptime, s.lcdTp, 0, false, List.replicate s.lcdComs 0⟩ } }

/-- An Acoustic window from `t0` to `t1` defers the transition that falls inside it to its end, and the same phase of the next frame,
which is of the other kind, is lengthened by as much (R401). -/
def State.lcdDefer (s : State) (t0 t1 : Nat) : State :=
  let d := s.lcdAt t0
  let stop := d.start + d.len
  { s with disp := { s.disp with drive :=
      if stop < t1 then { d with len := t1 - d.start, carry := d.carry.set d.com (t1 - stop) } else d } }

/-- When an update drives its first phase, in cycles of uptime: 5 ms after its start, at once in pass 2 of a refresh, and later by
what windows have held it (R420, R426, Table 12.8). -/
def DispRun.first (r : DispRun) : Nat := r.start + r.held + if r.kind = 2 then 0 else millis 5

/-- The phase clocks of an update stand still in an Acoustic window from `t0` to `t1`, or in its part after the first phase's due:
its phases and its end come later by that time (R420; log entry 28). -/
def State.runHold (s : State) (t0 t1 : Nat) : State := match s.disp.run with
  | none => s
  | some r =>
    let lost := t1 - max t0 r.first
    if r.discharge ∨ r.stop ≤ t0 then s
    else { s with disp := { s.disp with run := some { r with held := r.held + lost, stop := r.stop + lost } } }

/-- The start of the next A frame from an instant on (R402, R423). -/
def State.lcdNextA (s : State) (t : Nat) : Nat :=
  let d := s.lcdAt t
  let n := s.lcdComs
  let rest (lo hi : Nat) : Nat := sumNat ((List.range n).map (fun c =>
    if lo ≤ c ∧ c < hi then d.carry.getD c 0 else 0))
  let this := d.start + d.len + (n - 1 - d.com) * s.lcdTp + rest (d.com + 1) n
  if d.start = t ∧ d.com = 0 ∧ !d.kindB then t else if d.kindB then this else this + n * s.lcdTp + rest 0 (d.com + 1)

end Sys2Proof.Machine
end

