-- ==== Sys2Proof/Machine/Schedule.lean ====
section
/-! DEFINITION. The configuration classes and their shadows (R38 to R41), a path's firing configuration and shot duration
(R160 to R170), and the schedule table with its admission (R28 to R32, R57, R58). -/

namespace Sys2Proof.Machine

/-! ### Shadows -/

/-- The mask of a row's fields that satisfy a test. -/
def RegRow.mask (r : RegRow) (p : FieldRow → Bool) : Nat :=
  (r.fields.filter p).foldl (fun m f => Nat.lor m ((2 ^ (f.hi + 1 - f.lo) - 1) * 2 ^ f.lo)) 0

/-- The row that an address names. -/
def rowOf (a : Nat) : Option RegRow := (regAt a).map (fun x => x.2.1)

/-- The mask of the Staged fields of the register at an address. -/
def stagedMask (a : Nat) : Nat :=
  match rowOf a with | some r => r.mask (fun f => f.cls = .staged) | none => 0

/-- The mask of the configuration fields (Staged and Locked) of the register at an address. -/
def configMask (a : Nat) : Nat :=
  match rowOf a with
  | some r => r.mask (fun f => decide (f.acc = .rw) && decide (f.cls ≠ .immediate))
  | none => 0

/-- The bits of `w` under a mask, the bits of `v` elsewhere. -/
def mergeMask (m : Nat) (w v : Word) : Word :=
  word (Nat.lor (Nat.land w.toNat m) (v.toNat - Nat.land v.toNat m))

/-- Whether an address is a schedule entry, whose shadow is the shadow table (R28, R58). -/
def isSched (a : Nat) : Bool := decide (F.FT_SCHED 0 ≤ a ∧ a < F.FT_SCHED 64)

/-- The word of the shadow table. -/
def State.schedShadow (s : State) (i : Nat) : Word := sget (fun _ => 0#32) s.rm.schedShadow i

/-- The pending word of a register: its value in force with the pending shadow of its Staged fields (R38, R39). -/
def State.pend (s : State) (a : Nat) : Word :=
  if isSched a then s.schedShadow ((a - F.FT_SCHED 0) / 4)
  else match sget (fun _ => none) s.shadow a with
    | some w => w
    | none => s.rd a

/-- The pending value of a field. -/
def State.pget (s : State) (f : Fld) : Nat := bitsOf (s.pend f.addr) f.hi f.lo

/-- What the shadow view shows at a register: the pending values of its Staged fields, zero elsewhere (R39). -/
def State.shadowView (s : State) (a : Nat) : Word := word (Nat.land (s.pend a).toNat (stagedMask a))

/-- A schedule word without the bits that its KIND reserves: [31:22] of a SHOT or LOOPBACK entry, [31:24] of any other (R12, the
two layouts of FT_SCHEDn). -/
def schedWord (w : Word) : Word :=
  if bitsOf w 3 0 = 1 ∨ bitsOf w 3 0 = 2 then word (w.toNat % 2 ^ 22) else word (w.toNat % 2 ^ 24)

/-- Writes the pending word of a register; one equal to the value in force leaves no shadow. -/
def State.stage (s : State) (a : Nat) (w : Word) : State :=
  if isSched a then
    { s with rm := { s.rm with
        schedShadow := sset (fun _ => 0#32) s.rm.schedShadow ((a - F.FT_SCHED 0) / 4) (schedWord w) } }
  else { s with shadow := sset (fun _ => none) s.shadow a (if w = s.rd a then none else some w) }

/-- Stages a field. -/
def State.stageField (s : State) (f : Fld) (v : Nat) : State := s.stage f.addr (withBits (s.pend f.addr) f.hi f.lo v)

/-- Every shadow of every block is copied into force together (R38). -/
def State.copyShadows (s : State) : State :=
  let s1 := s.shadow.foldl (fun t c => match c.2 with
    | some w => t.wr c.1 (mergeMask (stagedMask c.1) w (t.rd c.1))
    | none => t) s
  { s1 with shadow := [] }

/-- The configuration in force: every non-reset value of a Staged or Locked field, by register. -/
def State.configuration (s : State) : List (Nat × Word) :=
  s.regs.filterMap (fun c =>
    let m := configMask c.1
    if Nat.land c.2.toNat m = Nat.land (regReset c.1).toNat m then none
    else some (c.1, word (Nat.land c.2.toNat m)))

/-- Whether the block that owns a register's Locked fields is enabled in force (R38, R41). -/
def State.ownerEnabled (s : State) (b : Block) : Bool :=
  match b with
  | .ame => s.flag F.AME_CTRL_EN
  | .mpa => s.flag (F.MP_CTRL_EN 0)
  | .mpb => s.flag (F.MP_CTRL_EN 1)
  | .sens => s.flag F.SENS_CTRL_EN
  | .disp => s.flag F.DISP_CTRL_EN
  | _ => false

/-! ### A path's firing configuration (R160 to R170, R189) -/

/-- A path's firing configuration read through a view of the registers (in force or pending). -/
def firingOf (look : Nat → Word) (n : Nat) : Firing :=
  let g (f : Fld) : Nat := bitsOf (look f.addr) f.hi f.lo
  { kind := g (F.AME_P_FIRE_KIND n), len := 2 ^ g (F.AME_P_FIRE_LOG2LEN n), cpc := g (F.AME_P_FIRE_CPC n) + 1
    cycles := g (F.AME_P_FIRE_CYCLES n) + 1, div := g (F.AME_P_FIRE_DIV n), div1 := g (F.AME_P_CHIRP_DIV1 n)
    clen := g (F.AME_P_CHIRP_CLEN n), binv := decide (g (F.AME_P_FIRE_BINV n) = 1)
    polalt := decide (g (F.AME_P_FIRE_POLALT n) = 1), fsdiv := g (F.AME_P_RX_FSDIV n)
    caplen := 256 * 2 ^ g (F.AME_P_RX_CAPLEN n), windly := g (F.AME_P_TIME_WINDLY n)
    gap := 16 * g (F.AME_P_TIME_GAP n), recip := decide (g (F.AME_P_PORT_RECIP n) = 1)
    gmin := g (F.AME_P_RX_GMIN n), gmax := g (F.AME_P_RX_GMAX n), ginit := g (F.AME_P_RX_GINIT n)
    agc := decide (g (F.AME_P_RX_AGCEN n) = 1) }

/-- The fixed configuration of a loopback shot (R189). -/
def loopbackFiring : Firing :=
  { kind := 0, len := 8, cpc := 1, cycles := 1, div := 96, div1 := 80, clen := 32, binv := true, polalt := false
    fsdiv := 0, caplen := 1024, windly := 672, gap := 5600, recip := true, gmin := 8, gmax := 8, ginit := 8
    agc := false }

/-- Capture length T_CAP, in units of 62.5 ns. -/
def Firing.tcap (c : Firing) : Nat := c.caplen * 2 ^ c.fsdiv

/-- Burst length Tb in cycles of 96 MHz (Table 5.1). -/
def Firing.burst (c : Firing) : Nat :=
  if c.kind = 0 then c.len * c.cpc * c.div else if c.kind = 1 then 96 * c.clen else c.cycles * c.div

/-- Shot duration in units of 62.5 ns, before rounding (R170). -/
def Firing.durTicks (c : Firing) : Nat := 640 + (c.tcap + c.gap) + c.windly + c.tcap + 640

/-- Shot duration in units of 10 µs, rounded up (R170). -/
def Firing.dur (c : Firing) : Nat := (c.durTicks + 159) / 160

/-- The sequential and interleaved forms of a shot (R169). -/
def Firing.sequential (c : Firing) : Bool := decide (c.windly ≤ c.gap)

/-- The conditions of Table 5.4. Times of 96 MHz cycles are compared with times of 62.5 ns by a factor of 6. -/
def Firing.legal (c : Firing) : Bool :=
  let fdiv := if c.kind = 1 then min c.div c.div1 else c.div
  -- fs ≥ 4 f_max: 16 MS/s / 2^fsdiv ≥ 4 × 96 MHz / fdiv
  decide (24 * 2 ^ c.fsdiv ≤ fdiv) && decide (c.burst ≤ 98304) && decide (c.burst + 192 ≤ 6 * c.windly)
    && (c.sequential || decide (6 * (c.tcap + c.gap) + c.burst + 192 ≤ 6 * c.windly))
    && decide (c.windly % 2 ^ c.fsdiv = 0) && decide (640 ≤ c.gap ∧ c.gap ≤ 16 * 4095)
    && decide (c.durTicks ≤ 160000) && decide (c.gmin ≤ c.ginit ∧ c.ginit ≤ c.gmax ∧ c.gmax ≤ 28)

/-! ### The schedule table -/

/-- A schedule entry's fields (FT_SCHEDn). -/
structure Entry where
  kind : Nat
  path : Nat
  mmin : Nat
  mmax : Nat
  every : Nat
  task : Nat
  slice : Nat
  deriving DecidableEq, Repr

/-- The fields of a schedule word. -/
def entryOf (w : Word) : Entry :=
  ⟨bitsOf w 3 0, bitsOf w 5 4, bitsOf w 10 6, bitsOf w 15 11, bitsOf w 21 16, bitsOf w 7 4, bitsOf w 23 8⟩

/-- The entries before the first END entry (R29). -/
def entriesOf (t : List Word) : List Entry := (t.map entryOf).takeWhile (fun e => e.kind ≠ 0)

/-- The 64 words of the table in force. -/
def State.schedWords (s : State) : List Word := (List.range 64).map (fun i => s.rd (F.FT_SCHED i))

/-- The 64 words of a sparse table. -/
def tableWords (t : List (Nat × Word)) : List Word := (List.range 64).map (fun i => sget (fun _ => 0#32) t i)

/-- The entries in force. -/
def State.entries (s : State) : List Entry := entriesOf s.schedWords

/-- Whether an entry's fields are in their ranges (R29). -/
def Entry.ranged (e : Entry) : Bool :=
  if e.kind = 1 ∨ e.kind = 2 then
    decide (1 ≤ e.every) && decide (1 ≤ e.mmin ∧ e.mmin ≤ 16) && decide (e.mmin ≤ e.mmax ∧ e.mmax ≤ 16)
  else if e.kind = 3 then decide (e.task ≤ 5) && decide (1 ≤ e.slice)
  else false

/-- Whether a list holds no number twice. -/
def distinct : List Nat → Bool
  | [] => true
  | x :: t => !t.contains x && distinct t

/-- The format check of R29. -/
def formatOk (es : List Entry) : Bool :=
  es.all Entry.ranged && distinct ((es.filter (fun e => e.kind = 1)).map Entry.path)
    && distinct ((es.filter (fun e => e.kind = 3)).map Entry.task)
    && es.any (fun e => decide (e.kind = 3 ∧ e.task = 2 ∧ 100 ≤ e.slice))

/-- The cost that admission compares, the larger of C and C_S, in units of 10 µs (R30, R31, Table 1.4). -/
def costOf (look : Nat → Word) (es : List Entry) : Nat :=
  let g (f : Fld) : Nat := bitsOf (look f.addr) f.hi f.lo
  let dur (n : Nat) : Nat := (firingOf look n).dur
  let shots := sumNat (es.map (fun e =>
    if e.kind = 1 then dur e.path * max e.mmin 3
    else if e.kind = 2 then loopbackFiring.dur * e.mmin else 0))
  let meters := sumNat ([0, 1].map (fun x =>
    if es.any (fun e => decide (e.kind = 1) && bit (g (F.MP_CFG_PATHS x)) e.path) then 130 else 0))
  let slices := sumNat (es.map (fun e => if e.kind = 3 then e.slice else 0))
  let conv := if g F.SENS_CTRL_EN = 0 then 0
    else 200 * sumNat ((List.range 6).map (fun i => b2n (bit (g F.SENS_CTRL_TSEN) i))) + 300 * g F.SENS_CTRL_PBEN
  max (20 + shots + 80 + meters + 600 + slices) (20 + shots + conv)

/-- Whether a cost is at most 0.9 × N × 31.25 ms (R30). -/
def costFits (look : Nat → Word) (cost : Nat) : Bool :=
  decide (10 * cost ≤ 9 * 3125 * bitsOf (look F.FT_PERIOD) 6 0)

/-- The view of the registers that admission takes: the pending values, which come into force with the table (log entry 10), but the
sensor block as it is in force (R30). -/
def State.admitView (s : State) (a : Nat) : Word := if a = F.SENS_CTRL then s.rd a else s.pend a

/-- A write of 1 to FT_CMD.COMMIT: the shadow table is submitted to admission (R28 to R30). A table that was admitted before and
still waits for Capture waits on where this one is rejected: R28 names only the table in force and the shadow table (DESIGN CHOICE,
log entry 111). -/
def State.schedCommit (s : State) : State :=
  let es := entriesOf (tableWords s.rm.schedShadow)
  if formatOk es then
    let c := costOf s.admitView es
    let s1 := s.put F.FT_ADMIT_COST c
    if costFits s.admitView c then
      { (s1.put F.FT_ADMIT_RESULT 1).set1 F.FT_ADMIT_PENDING with
          rm := { s1.rm with schedPend := some s.rm.schedShadow } }
    else s1.put F.FT_ADMIT_RESULT 2
  else s.put F.FT_ADMIT_RESULT 3

/-- The table in force as a sparse table. -/
def State.schedTable (s : State) : List (Nat × Word) :=
  (List.range 64).foldl (fun t i => sset (fun _ => 0#32) t i (s.rd (F.FT_SCHED i))) []

/-- A write of 1 to FT_CMD.DISCARD copies the table in force over the shadow table (R28). -/
def State.schedDiscard (s : State) : State := { s with rm := { s.rm with schedShadow := s.schedTable } }

/-- Puts a table into force. -/
def State.schedInstall (s : State) (t : List (Nat × Word)) : State :=
  (List.range 64).foldl (fun s i => s.wr (F.FT_SCHED i) (sget (fun _ => 0#32) t i)) s

/-- Whether a changed configuration would still be admitted: the table in force and an admitted table that waits are
each judged anew where the change moves their cost or their budget (R32). FT_ADMIT keeps what the last COMMIT gave: R32 does not
say that a re-run shows there (DESIGN CHOICE, log entry 111). -/
def readmitted (old new : State) : Bool :=
  let judge (es : List Entry) : Bool :=
    let c0 := costOf old.pend es
    let c1 := costOf new.pend es
    if c0 = c1 ∧ old.pget F.FT_PERIOD_N = new.pget F.FT_PERIOD_N then true
    else formatOk es && costFits new.pend c1
  judge old.entries && (match old.rm.schedPend with | none => true | some t => judge (entriesOf (tableWords t)))

/-- The factory table of R57. -/
def factoryTable : List (Nat × Word) :=
  [(0, word (400 * 256 + 3)), (1, word (100 * 256 + 16 + 3)), (2, word (800 * 256 + 32 + 3)),
   (3, word (200 * 256 + 48 + 3)), (4, word (1500 * 256 + 64 + 3)), (5, word (50 * 256 + 80 + 3))]

/-- Whether a Service task is enabled: the table in force holds an entry for it (R37). -/
def State.taskEnabled (s : State) (task : Nat) : Bool := s.entries.any (fun e => decide (e.kind = 3 ∧ e.task = task))

/-- The slice of a Service task. -/
def State.taskSlice (s : State) (task : Nat) : Nat :=
  match s.entries.find? (fun e => decide (e.kind = 3 ∧ e.task = task)) with
  | some e => e.slice
  | none => 0

/-- A Service task becomes ready: its age starts at 0 unless it is ready already (R35). -/
def State.ready (s : State) (task : Nat) : State :=
  match s.rm.ages[task]? with
  | some none => { s with rm := { s.rm with ages := s.rm.ages.set task (some 0) } }
  | _ => s

end Sys2Proof.Machine
end

