-- ==== Sys2Proof/Machine/Correlate.lean ====
section
/-! DEFINITION. The correlator's arithmetic: references, correlations, peaks, times and amplitudes (R160 to R166, R193 to
R200). Times are integers in units of 1/65536 ns; one sample at 16 MS/s is 4,096,000 of them. -/

namespace Sys2Proof.Machine

/-! ### Drive waveforms -/

/-- Code A and code B of length 2^k, true for + (R162). -/
def codes : Nat → List Bool × List Bool
  | 0 => ([true], [true])
  | k + 1 =>
    let (a, b) := codes k
    (a ++ b, a ++ b.map not)

/-- The chips of a code of length `len` (4 to 64). -/
def chips (len : Nat) (second : Bool) : List Bool :=
  let (a, b) := codes (Nat.log2 len)
  if second then b else a

/-- Level of a carrier at a 96 MHz cycle: high in the first half of each period (R161). -/
def carrierHigh (div t : Nat) : Bool := decide (t % div < (div + 1) / 2)

/-- Zero crossings of a chirp whose rounded instant lies at or before cycle `t` (R165). -/
def chirpCrossings (div div1 clen t : Nat) : Nat :=
  let l : Int := 96 * clen
  let u : Int := 2 * t + 1
  let n : Int := 4 * u * div1 * l + ((div : Int) - div1) * u * u
  let d : Int := 4 * div * div1 * l
  ((n + d - 1) / d - 1).toNat

/-- Whether the drive waveform of a firing is high `t` cycles of 96 MHz after the firing instant, before polarity and
BINV (R161 to R166). -/
def Firing.high (c : Firing) (second : Bool) (t : Nat) : Bool :=
  if c.kind = 0 then
    let chip := (chips c.len second).getD (t / (c.cpc * c.div)) true
    (carrierHigh c.div t) == chip
  else if c.kind = 1 then decide (chirpCrossings c.div c.div1 c.clen t % 2 = 0)
  else carrierHigh c.div t

/-- Whether firing B's waveform is negated: BINV, for chirps and tone bursts (R166). -/
def Firing.inverts (c : Firing) (second : Bool) : Bool := second && decide (c.kind ≠ 0) && c.binv

/-- Sample period in cycles of 96 MHz. -/
def Firing.per (c : Firing) : Nat := 6 * 2 ^ c.fsdiv

/-- Reference length NREF (Table 6.1). -/
def Firing.nref (c : Firing) : Nat := (c.burst + c.per - 1) / c.per

/-- The carrier period of fc as a fraction of 96 MHz cycles (Table 6.1). -/
def Firing.period (c : Firing) : Nat × Nat :=
  if c.kind = 1 then (2 * c.div * c.div1, c.div + c.div1) else (c.div, 1)

/-- The in-phase and quadrature references of a firing; the second waits a quarter period (R193). -/
def Firing.reference (c : Firing) (second neg : Bool) : List (Int × Int) :=
  let (pn, pd) := c.period
  let flip := neg != c.inverts second
  let val (t : Nat) : Int := if (c.high second t) != flip then 1 else -1
  (List.range c.nref).map (fun n =>
    let t := n * c.per
    -- the delay is pn / (4 pd) cycles
    (val t, if 4 * pd * t < pn then 0 else val ((4 * pd * t - pn) / (4 * pd))))

/-! ### Correlation and its peak -/

/-- The complex product sum of a reference with the samples that start at a lag (R194). -/
def dot : List (Int × Int) → List Int → Int × Int
  | (i, q) :: r, x :: xs =>
    let (a, b) := dot r xs
    (a + x * i, b + x * q)
  | _, _ => (0, 0)

/-- C(k) for k = 0 to K = CAPLEN − NREF, one lag per remaining count (R194). -/
def correlate (r : List (Int × Int)) : Nat → List Int → List (Int × Int)
  | 0, _ => []
  | n + 1, xs => dot r xs :: correlate r n (xs.drop 1)

/-- The correlation of a capture with a firing's reference. -/
def Firing.correlation (c : Firing) (second neg : Bool) (samples : List Int) : List (Int × Int) :=
  correlate (c.reference second neg) (c.caplen + 1 - c.nref) samples

/-- The pair sum (R194). -/
def pairSum (a b : List (Int × Int)) : List (Int × Int) := List.zipWith (fun x y => (x.1 + y.1, x.2 + y.2)) a b

/-- Magnitudes, rounded down. -/
def magnitudes (l : List (Int × Int)) : List Nat := l.map (fun c => isqrt (c.1 * c.1 + c.2 * c.2).toNat)

/-- Index of the largest element, the lowest on a tie. -/
def argmax (l : List Nat) : Nat :=
  (l.foldl (fun (s : Nat × Nat × Nat) x => if s.2.2 < x then (s.1 + 1, s.1, x) else (s.1 + 1, s.2.1, s.2.2))
    (0, 0, 0)).2.1

/-- A located peak: its times, its magnitude, its snr in quarter dB and its lag (R195). -/
structure Peak where
  tenv : Int
  tph : Int
  mag : Nat
  snr : Nat
  deriving DecidableEq, Repr

/-- Fixed-point scale of the arctangent. -/
def fix : Nat := 2 ^ 64

/-- The arctangent of `z` / 2^64 for 0 ≤ z ≤ 2^64, in units of 2^-64: three half-angle steps, then the series. -/
def atanFix (z : Nat) : Nat :=
  let half (z : Nat) : Nat := z * fix / (fix + isqrt (fix * fix + z * z))
  let w := half (half (half z))
  let w2 := w * w / fix
  let term (n : Nat) (p : Nat) : Nat := p / n
  let p1 := w
  let p3 := p1 * w2 / fix
  let p5 := p3 * w2 / fix
  let p7 := p5 * w2 / fix
  let p9 := p7 * w2 / fix
  let p11 := p9 * w2 / fix
  let p13 := p11 * w2 / fix
  let p15 := p13 * w2 / fix
  8 * (p1 + term 5 p5 + term 9 p9 + term 13 p13 - (term 3 p3 + term 7 p7 + term 11 p11 + term 15 p15))

/-- 2^64 / (2π), rounded. -/
def invTurn : Nat := 2935890503282001226

/-- The angle of (re, im) in turns, in units of 2^-24, in (−2^23, 2^23] (R195, R196). -/
def angle (re im : Int) : Int :=
  let x := re.natAbs
  let y := im.natAbs
  -- in units of 2^-64 turn within the first quadrant
  let q : Nat :=
    if x = 0 ∧ y = 0 then 0
    else if y ≤ x then atanFix (y * fix / x) * invTurn / fix
    else fix / 4 - atanFix (x * fix / y) * invTurn / fix
  let a : Int :=
    if 0 ≤ re then (if 0 ≤ im then (q : Int) else -(q : Int))
    else (if 0 ≤ im then (fix / 2 - q : Nat) else -((fix / 2 - q : Nat) : Int))
  let r := roundDiv a (2 ^ 40)
  if r = -(2 ^ 23) then 2 ^ 23 else r

/-- Quarter decibels of a ratio of which `ok q` says that it reaches q quarter dB; at most 63.75 dB. -/
def quarters (ok : Nat → Bool) : Nat := (bisect (fun q => decide (q ≤ 255) && ok q.toNat) 8 0).toNat

/-- The carrier period in units of 1/65536 ns, as a fraction. -/
def Firing.lsbPeriod (c : Firing) : Nat × Nat :=
  let (pn, pd) := c.period
  (pn * 2048000, pd * 3)

/-- The sample period in units of 1/65536 ns. -/
def Firing.lsbSample (c : Firing) : Nat := 4096000 * 2 ^ c.fsdiv

/-- Distance of two lags. -/
def lagDist (a b : Nat) : Nat := (a - b) + (b - a)

/-- The signal-to-noise ratio of a peak in quarter dB, rounded down: E(kp)² × n ≥ S × 10^(q/40) over the n lags outside
NREF + fs / fc, whose squares sum to S (R195). -/
def Firing.snrOf (c : Firing) (es : List Nat) (kp : Nat) : Nat :=
  let (pn, pd) := c.lsbPeriod
  let far := (es.zipIdx.filter (fun e =>
    decide (pn < (lagDist e.2 kp - c.nref) * c.lsbSample * pd))).map Prod.fst
  let sum := sumNat (far.map (fun e => e * e))
  let peak := es.getD kp 0
  if sum = 0 then 255
  else quarters (fun q => decide (10 ^ q * sum ^ 40 ≤ (peak * peak * far.length) ^ 40))

/-- The procedure locate of R195, with its times in units of 1/65536 ns from sample 0. -/
def Firing.locate (c : Firing) (corr : List (Int × Int)) (snrMin : Nat) : Option Peak :=
  let es := magnitudes corr
  let k := corr.length - 1
  let kp := argmax es
  if corr.length < 3 ∨ kp = 0 ∨ kp = k then none
  else
    let snr := c.snrOf es kp
    if snr < snrMin then none
    else
      let e0 : Int := es.getD (kp - 1) 0
      let e1 : Int := es.getD kp 0
      let e2 : Int := es.getD (kp + 1) 0
      let p := clampInt (-32768) 32768 (roundDivI ((e0 - e2) * 65536) (2 * (e0 - 2 * e1 + e2)))
      let t := c.lsbSample
      let (re, im) := corr.getD kp (0, 0)
      let (pn, pd) := c.lsbPeriod
      some { tenv := kp * t + roundDiv (p * t) 65536, tph := kp * t + roundDiv (angle re im * pn) (pd * 2 ^ 24)
             mag := e1.toNat, snr := snr }

/-- Whether a lag lies in the main lobe (Table 6.1). -/
def Firing.mainLobe (c : Firing) (d : Nat) : Bool :=
  let (pn, pd) := c.lsbPeriod
  if c.kind = 0 then decide (d * c.lsbSample * pd < c.cpc * pn)
  else if c.kind = 1 ∧ c.div ≠ c.div1 then
    decide (d * c.per * lagDist c.div c.div1 < c.div * c.div1)
  else decide (d < c.nref)

/-- Sidelobe margin of a correlation in quarter dB, rounded down (R208). -/
def Firing.slm (c : Firing) (corr : List (Int × Int)) : Nat :=
  let es := magnitudes corr
  let kp := argmax es
  let peaks := (List.range es.length).filter (fun k =>
    decide (0 < k ∧ k + 1 < es.length) && !c.mainLobe (lagDist k kp)
      && decide (es.getD (k - 1) 0 ≤ es.getD k 0 ∧ es.getD (k + 1) 0 ≤ es.getD k 0))
  let side := (peaks.map (fun k => es.getD k 0)).foldl max 0
  if peaks = [] ∨ side = 0 then 255
  else quarters (fun q => decide (10 ^ q * side ^ 80 ≤ es.getD kp 0 ^ 80))

/-- The times of a route that is located in both directions: the upstream and downstream TOF (R197). -/
def Firing.route (c : Firing) (up dn : Peak) : Int × Int :=
  let (pn, pd) := c.lsbPeriod
  let turns (t : Int) : Int := roundDiv (t * pd) pn
  let mdn := turns (dn.tenv - dn.tph)
  let md := turns ((up.tenv - dn.tenv) - (up.tph - dn.tph))
  let w : Int := c.windly * 4096000
  (w + up.tph + roundDiv ((mdn + md) * pn) pd, w + dn.tph + roundDiv (mdn * pn) pd)

/-- The amplitude of a located correlation in µV (R199): E / NREF × 10^6 / 8192 × 10^(−1.5 g / 20). -/
def Firing.amplitude (c : Firing) (mag gain : Nat) : Nat :=
  let top := (2 * mag * 1000000) ^ 40
  let unit := c.nref * 8192
  (bisect (fun a => decide (a ≤ 1048575 ∧ ((2 * a.toNat - 1) * unit) ^ 40 * 10 ^ (3 * gain) ≤ top)) 20 0).toNat

/-! ### Automatic gain control (R176) -/

/-- 20 log10(target / peak) / 1.5 reaches at least k − 1/2 for positive k. -/
def gainSteps (num den : Nat) : Nat :=
  leastFrom (fun k => decide (num ^ 80 < 10 ^ (3 * (2 * k + 1)) * den ^ 80)) 120 0

/-- The step of R176. -/
def agcStep (target step dead peak : Nat) (clip : Bool) : Int :=
  if clip then -(step : Int)
  else if peak = 0 then step
  else
    let d : Int := if peak ≤ target then (gainSteps target peak : Int) else -(gainSteps peak target : Int)
    if d.natAbs ≤ dead then 0 else clampInt (-(step : Int)) step d

end Sys2Proof.Machine
end

