-- ==== Sys2Proof/Machine/ShotRecord.lean ====
section
/-! DEFINITION. The validity decision and the shot record (R200 to R214), and what a finished shot feeds: the chain
difference, the deposit block, the zero calibration and the loopback registers (R202, R205, R210, R223). -/

namespace Sys2Proof.Machine

/-! ### The hidden copy (R45) -/

/-- A field as the hidden copy has it; the register where the tick's shots have not changed it. -/
def State.hget (s : State) (f : Fld) : Nat := match s.ame.hidden.find? (fun x => decide (x.1 = f)) with
  | some x => x.2
  | none => s.get f

/-- A signed field of the hidden copy. -/
def State.hgetI (s : State) (f : Fld) : Int := toSigned (f.hi + 1 - f.lo) (s.hget f)

/-- Writes a field of the hidden copy. -/
def State.hput (s : State) (f : Fld) (v : Nat) : State :=
  { s with ame := { s.ame with hidden := (f, v % 2 ^ (f.hi + 1 - f.lo)) :: s.ame.hidden } }

/-- Writes a signed field of the hidden copy. -/
def State.hputI (s : State) (f : Fld) (v : Int) : State := s.hput f (ofSigned (f.hi + 1 - f.lo) v)

/-- The copies switch: the registers take the hidden values. -/
def State.showHidden (s : State) : State :=
  { s.ame.hidden.reverse.foldl (fun (t : State) x => t.put x.1 x.2) s with ame := { s.ame with hidden := [] } }

/-- The limits a shot is judged by (R209, R210). Amplitudes in µV. -/
structure Limits where
  snrMin : Nat
  slMin : Nat
  birMin : Nat
  amin : Nat
  amax : Nat
  zoff : Int
  delta : Int
  deriving DecidableEq, Repr

/-- A path's limits. -/
def State.limitsOf (s : State) (n : Nat) : Limits :=
  ⟨s.get (F.SHOT_P_VAL_SNRMIN n), s.get (F.SHOT_P_VAL_SLMIN n), s.get (F.SHOT_P_VAL_BIRMIN n),
   16 * s.get (F.SHOT_P_AWIN_AMIN n), 16 * s.get (F.SHOT_P_AWIN_AMAX n), s.getI (F.SHOT_P_ZOFF_ZOFF n),
   s.hgetI (F.SHOT_P_DELTA_DELTA n)⟩

/-- The fixed limits of loopback shots (R210). -/
def loopbackLimits : Limits := ⟨120, 24, 128, 10000, 100000, 0, 0⟩

/-- One code or the pair, in both directions: the peaks, their snr fields, and the TOFs where both are located. -/
structure Route where
  up : Option Peak
  dn : Option Peak
  snrUp : Nat
  snrDn : Nat
  tofs : Option (Int × Int)
  deriving DecidableEq, Repr

/-- The snr of a correlation whether or not it is a peak; 0 where the procedure forms none. -/
def Firing.snrField (c : Firing) (corr : List (Int × Int)) : Nat :=
  let es := magnitudes corr
  let kp := argmax es
  if corr.length < 3 ∨ kp = 0 ∨ kp + 1 = corr.length then 0 else c.snrOf es kp

/-- Locates a route in both directions (R198). -/
def Firing.routeOf (c : Firing) (snrMin : Nat) (cu cd : List (Int × Int)) : Route :=
  let u := c.locate cu snrMin
  let d := c.locate cd snrMin
  { up := u, dn := d, snrUp := c.snrField cu, snrDn := c.snrField cd
    tofs := match u, d with | some a, some b => some (c.route a b) | _, _ => none }

/-- The amplitude of one direction of a route, 0 when no peak was found (R199). -/
def Firing.ampOf (c : Firing) (gain : Nat) (p : Option Peak) : Nat :=
  match p with | some x => c.amplitude x.mag gain | none => 0

/-- What the validity decision gives (R207 to R209). -/
structure Verdict where
  cls : Nat
  reason : Nat
  survB : Bool
  bir : Nat
  slm : Nat
  snrUp : Nat
  snrDn : Nat
  dtof : Int
  raw : Int
  tofUp : Int
  tofDn : Int
  deriving DecidableEq, Repr

/-- A time of 2 × 65536 units per ns, rounded to 1/256 ns (R200). -/
def tofLsb (t2 : Int) : Int := roundDiv t2 512

/-- Whether a value lies in the signed range of ΔTOF (R201). -/
def dtofRange (v : Int) : Bool := decide (-(2 ^ 31) ≤ v ∧ v < 2 ^ 31)

/-- The validity decision of Table 6.4, with the times of the chosen route (R200 to R204, R208, R209, R213). A surviving code that is
not located has no time; where step 9 does not hold for it either, AMIN being 0, the shot has no peak (log entry 112). -/
def decideShot (c : Firing) (lim : Limits) (cross clip : Bool) (a b p : Route) (slmA slmB : Nat)
    (au ad bu bd : Nat) : Verdict :=
  let ampA := min au ad
  let ampB := min bu bd
  let big := max ampA ampB
  let small := min ampA ampB
  let bir := if small = 0 then 0 else min 255 (256 * small / big)
  let balanced := decide (small ≠ 0) && decide (lim.birMin * big ≤ 256 * small)
  let survB := decide (ampA < ampB)
  let surv := if survB then b else a
  let slm := if survB then slmB else slmA
  let low2 := if balanced then min (au + bu) (ad + bd) else 2 * big
  let high2 := if balanced then max (au + bu) (ad + bd) else 2 * (if survB then max bu bd else max au ad)
  let sgn : Int := if c.recip then (if survB then lim.delta else -lim.delta) else 0
  -- DTOF_RAW, and twice each TOF, of the route chosen
  let times : Option (Int × Int × Int) :=
    if balanced then p.tofs.map (fun t => (t.1 - t.2, 2 * t.1, 2 * t.2))
    else surv.tofs.map (fun t => (t.1 - t.2 + sgn, 2 * t.1 + sgn, 2 * t.2 - sgn))
  let none2 : Verdict :=
    { cls := 0, reason := 0, survB := survB, bir := bir, slm := 0, snrUp := max a.snrUp b.snrUp
      snrDn := max a.snrDn b.snrDn, dtof := 0, raw := 0, tofUp := 0, tofDn := 0 }
  let chosen := if balanced then p else surv
  let voidV (cls reason : Nat) : Verdict :=
    { none2 with cls := cls, reason := reason, slm := if balanced then 0 else slm, snrUp := chosen.snrUp,
                 snrDn := chosen.snrDn }
  if cross then { none2 with cls := 4, reason := 0x14 }
  else if clip then { none2 with cls := 4, reason := 0x13 }
  else if a.tofs = none ∧ b.tofs = none then { none2 with cls := 3, reason := 0x20 }
  else match times with
    | none =>
      if balanced then voidV 3 0x21
      else if low2 < 2 * lim.amin then voidV 4 0x10
      else { none2 with cls := 3, reason := 0x20 }
    | some (raw, up2, dn2) =>
      let out := !(dtofRange raw && dtofRange (raw - lim.zoff))
      let good (cls reason : Nat) : Verdict :=
        { voidV cls reason with dtof := raw - lim.zoff, raw := raw, tofUp := tofLsb up2, tofDn := tofLsb dn2 }
      if low2 < 2 * lim.amin then voidV 4 0x10
      else if 2 * lim.amax < high2 then voidV 4 0x11
      else if balanced then (if out then voidV 4 0x12 else good 0 0)
      else if slm < lim.slMin then voidV 2 0x30
      else if out then voidV 4 0x12
      else good 1 1

/-- A 32-bit signed field's value; where the value has none, a free value (log entry 11). -/
def State.fit32 (s : State) (v : Int) : Int × State :=
  if dtofRange v then (v, s) else let (d, s1) := s.drawLevel (2 ^ 32); (toSigned 32 d, s1)

/-- Which meter point a path belongs to (MP_CFG.PATHS); MPA where both name it. -/
def State.mpOfPath (s : State) (n : Nat) : Option Nat :=
  if bit (s.get (F.MP_CFG_PATHS 0)) n then some 0 else if bit (s.get (F.MP_CFG_PATHS 1)) n then some 1 else none

/-- Whether the tick is a recovery tick for a path: that of its meter point, or test mode (R218). -/
def State.pathRecovers (s : State) (n : Nat) : Bool :=
  match s.mpOfPath n with
  | some x => s.shot.recTick.getD x false
  | none => s.flag F.CMD_MODE_TEST

/-- A path of the SHOT block. -/
def State.pathSt (s : State) (n : Nat) : PathSt := s.shot.paths.getD n ⟨none, 0, 0, 0, none, false⟩

/-- Replaces a path of the SHOT block. -/
def State.setPathSt (s : State) (n : Nat) (p : PathSt) : State :=
  { s with shot := { s.shot with paths := s.shot.paths.set n p } }

/-- RATIO and FLAG of the deposit indicator, from M and DREF (R205, R206). -/
def State.depositShow (s : State) (n : Nat) : State :=
  let dref := s.get (F.SHOT_P_DREF_DREF n)
  match (s.pathSt n).depM with
  | none => s
  | some m =>
    if dref = 0 then (s.hput (F.SHOT_P_DEP_RATIO n) 0).hput (F.SHOT_P_DEP_FLAG n) 0
    else
      let r := satNat 16 (roundDiv (m * 16384) dref).toNat
      let s1 := s.hput (F.SHOT_P_DEP_RATIO n) r
      let thr := s.get (F.SHOT_P_LIM_DEPTHR n)
      if r < thr then s1.hput (F.SHOT_P_DEP_FLAG n) 1
      else if thr + 1024 ≤ r then s1.hput (F.SHOT_P_DEP_FLAG n) 0 else s1

/-- A deposit block of 4,096 shots closes: M follows, and RATIO and FLAG are published (R205, R206). -/
def State.depositBlock (s : State) (n : Nat) : State :=
  let p := s.pathSt n
  if 4096 ≤ p.depCount then
    let mean := roundDiv p.depSum p.depCount
    let m := match p.depM with | none => mean | some m => m + roundDiv (mean - m) 8
    (s.setPathSt n { p with depSum := 0, depCount := 0, depM := some m }).depositShow n
  else s

/-- Adds a VALID shot's normalised amplitude to the path's block; a full block closes first. -/
def State.depositAdd (s : State) (n an : Nat) : State :=
  let s1 := s.depositBlock n
  let p := s1.pathSt n
  s1.setPathSt n { p with depSum := p.depSum + an, depCount := p.depCount + 1 }

/-- A running calibration collects a VALID metrology shot, up to 256 for a path (R223, R224). -/
def State.zcCollect (s : State) (n : Nat) (raw ab : Int) (an : Nat) : State :=
  match s.shot.zc with
  | none => s
  | some z =>
    if z.ticks = 0 then s
    else
      let ps := z.paths.map (fun p =>
        if p.1 = n ∧ p.2.length < 256 then (p.1, p.2 ++ [(raw, ab, an)]) else p)
      let least := (ps.map (fun p => p.2.length)).foldl min 256
      { s with shot := { s.shot with zc := some { z with paths := ps } } }.hput F.SHOT_ZCSTAT_LEAST least

/-- The body of a shot record after its header (Table 6.5). -/
def recordBody (id cls reason flags gain index vtxb : Nat) (v : Verdict) (da db : Int) (amps : List Nat)
    (lim : Limits) (ta tb : Int × Int) : List Byte :=
  let i32 (x : Int) : List Byte := bytesLE 4 (ofSigned 32 x)
  [byte id, byte cls, byte reason, byte flags, byte gain, byte index] ++ bytesLE 2 vtxb
    ++ i32 v.tofUp ++ i32 v.tofDn ++ i32 v.dtof ++ i32 v.raw ++ i32 da ++ i32 db
    ++ amps.flatMap (bytesLE 4)
    ++ [byte v.snrUp, byte v.snrDn, byte v.slm, byte v.bir] ++ i32 lim.zoff ++ i32 lim.delta
    ++ i32 (tofLsb (2 * ta.1)) ++ i32 (tofLsb (2 * ta.2)) ++ i32 (tofLsb (2 * tb.1)) ++ i32 (tofLsb (2 * tb.2))
    ++ zeros 44

/-- Publishes a record in ring 1 and moves its head (R212, R214). -/
def State.publishShot (s : State) (body : List Byte) : State :=
  let h := s.get (F.SYS_RING_B_HEAD 1)
  (s.publish 1 (128 + h) 1 body).put (F.SYS_RING_B_HEAD 1) ((h + 1) % 128)

/-- The firing configuration of a shot in force. -/
def State.shotFiring (s : State) (path : Nat) : Firing :=
  if path = 15 then loopbackFiring else firingOf s.rd path

/-- A finished shot is classified, recorded and passed on; what it changes of the SHOT registers goes to the hidden copy (R45,
R202 to R214, R223). -/
def State.finishShot (s : State) (r : ShotRun) : State :=
  let path := r.plan.path
  let lb := decide (path = 15)
  let c := s.shotFiring path
  let lim := if lb then loopbackLimits else s.limitsOf path
  let cu := r.corr.getD 0 []
  let cd := r.corr.getD 1 []
  let du := r.corr.getD 2 []
  let dd := r.corr.getD 3 []
  let a := c.routeOf lim.snrMin cu cd
  let b := c.routeOf lim.snrMin du dd
  let p := c.routeOf lim.snrMin (pairSum cu du) (pairSum cd dd)
  let au := c.ampOf r.gain a.up
  let ad := c.ampOf r.gain a.dn
  let bu := c.ampOf r.gain b.up
  let bd := c.ampOf r.gain b.dn
  let v := decideShot c lim s.ame.cross r.clip a b p (min (c.slm cu) (c.slm cd)) (min (c.slm du) (c.slm dd)) au ad bu bd
  let ta := a.tofs.getD (0, 0)
  let tb := b.tofs.getD (0, 0)
  let (da, s0) := s.fit32 (ta.1 - ta.2)
  let (db, s1) := s0.fit32 (tb.1 - tb.2)
  let zstale := !lb && s.flag (F.AME_P_STAT_ZSTALE path)
  let recov := !lb && s.pathRecovers path
  let id := path + 16 * r.plan.origin + 64 * b2n r.pol + 128 * b2n c.recip
  let flags := b2n r.clip + 2 * b2n s.ame.cross + 4 * b2n zstale + 8 * b2n r.vtxbLow + 16 * b2n recov
  let s2 := s1.publishShot (recordBody id (v.cls + 8 * b2n v.survB) v.reason flags r.gain (s.ame.index - 1) r.vtxb v
    da db [au, ad, bu, bd] lim ta tb)
  let out : ShotOut := ⟨path, r.plan.origin, v.cls, v.reason, r.asym, v.dtof, v.tofUp.toNat, v.tofDn.toNat⟩
  let s3 := { s2 with ame := { s2.ame with done := s2.ame.done ++ [out] } }
  if lb then
    if r.asym then ((s3.hputI F.SHOT_LBASYM_DTOF v.dtof).hput F.SHOT_LBSTAT_ACLASS v.cls).hput F.SHOT_LBSTAT_ASEEN 1
    else ((s3.hputI F.SHOT_LBSYM_DTOF v.dtof).hput F.SHOT_LBSTAT_SCLASS v.cls).hput F.SHOT_LBSTAT_SSEEN 1
  else if v.cls = 0 ∧ r.plan.origin < 2 then
    let an := (roundDiv ((min (au + bu) (ad + bd) : Nat) * 6000) r.vtxb).toNat
    let s4 := (s3.depositAdd path an).zcCollect path v.raw (da - db) an
    if c.recip then
      let dl := s4.hgetI (F.SHOT_P_DELTA_DELTA path)
      s4.hputI (F.SHOT_P_DELTA_DELTA path) (dl + roundDiv (roundDiv (da - db) 2 - dl) 16)
    else s4
  else s3

end Sys2Proof.Machine
end

