-- ==== Sys2Proof/Machine/Acoustic.lean ====
section
/-! DEFINITION. The acoustic front end: its configuration at Capture, the Acoustic window, the shot sequencer, captures
and correlations, and disturbed shots (spec 05_acoustic_front_end.md). -/

namespace Sys2Proof.Machine

/-! ### Configuration at Capture (R157, R158, R164, R170, R171, R185) -/

/-- A path is enabled: its own EN in force is 1 (R233). -/
def State.portOn (s : State) (n : Nat) : Bool := s.flag (F.AME_P_PORT_EN n)

/-- A path takes part in shots: it is enabled, and so is the front end (R153). -/
def State.pathOn (s : State) (n : Nat) : Bool := s.flag F.AME_CTRL_EN && s.portOn n

/-- The values whose change sets ZSTALE (R171). -/
def State.fireKey (s : State) (n : Nat) : List Nat :=
  [s.get (F.AME_P_PORT_PORTU n), s.get (F.AME_P_PORT_PORTD n), s.get (F.AME_P_PORT_RECIP n),
   (s.rd (F.AME_P_FIRE n)).toNat, (s.rd (F.AME_P_CHIRP n)).toNat, s.get (F.AME_P_RX_FSDIV n),
   s.get F.AME_CTRL_DRV_V]

/-- A microcode word (Table 5.8). -/
def uword (op a b : Nat) : Word := word (op * 2 ^ 28 + a * 2 ^ 24 + b)

/-- The routine of a path (R185, R187). A path with RECIP 0 has no SWAP word (log entry 12). -/
def routine (c : Firing) (path : Nat) : List Word :=
  let swap := if c.recip then [uword 6 0 0] else []
  let waitf := uword 4 0 (6 * (c.tcap + c.gap))
  [uword 1 path 0, uword 2 0 3840, uword 3 0 0]
    ++ (if c.sequential then [uword 5 0 0] ++ swap ++ [waitf, uword 3 1 0]
        else [waitf, uword 3 1 0, uword 5 0 0] ++ swap)
    ++ [uword 5 1 0, uword 5 3 0, uword 0 0 0]

/-- Writes a list of words from an address on. -/
def State.wrAll (s : State) (a : Nat) : List Word → State
  | [] => s
  | w :: t => (s.wr a w).wrAll (a + 4) t

/-- The microcode store is rebuilt: a routine for each path and one for the loopback shot, END elsewhere (R185). -/
def State.buildUcode (s : State) : State :=
  let pad (l : List Word) : List Word := l ++ List.replicate (16 - l.length) (0#32)
  let s1 := [0, 1, 2, 3].foldl (fun t n => t.wrAll (F.AME_UCODE (16 * n)) (pad (routine (firingOf t.rd n) n))) s
  s1.wrAll (F.AME_UCODE 64) (routine loopbackFiring 15)

/-- DUR of every path for the configuration in force (R170). -/
def State.buildDur (s : State) : State :=
  [0, 1, 2, 3].foldl (fun t n => t.put (F.AME_P_DUR_DUR n) (firingOf t.rd n).dur) s

/-- PDUR of every path for the pending configuration (R170). -/
def State.buildPdur (s : State) : State :=
  [0, 1, 2, 3].foldl (fun t n => t.put (F.AME_P_DUR_PDUR n) (firingOf t.pend n).dur) s

/-- The polarity of a path's next shot (R164). -/
def State.showPol (s : State) (n : Nat) : State :=
  s.put (F.AME_P_STAT_POL n) (if s.flag (F.AME_P_FIRE_POLALT n) then s.ame.pol.getD n 0 % 2 else 0)

/-- ZSTALE sets on a path: its gain returns to GINIT, its polarity counter to 0, its chain difference to the stored one,
and its held value is discarded (R164, R171, R202, R219). -/
def State.goStale (s : State) (n : Nat) : State :=
  let s1 := (s.set1 (F.AME_P_STAT_ZSTALE n)).put (F.AME_P_STAT_GAIN n) (s.get (F.AME_P_RX_GINIT n))
  let s2 := { s1 with ame := { s1.ame with pol := s1.ame.pol.set n 0 } }
  let s3 := s2.putI (F.SHOT_P_DELTA_DELTA n) (s2.jrn.hid.zdelta.getD n 0)
  s3.setPathSt n { s3.pathSt n with held := none }

/-- Whether an entry is due in the tick; in the safe state the LOOPBACK entry is always due (R465). -/
def State.entryDue (s : State) (e : Entry) : Bool :=
  decide (0 < e.every ∧ s.rm.tick % e.every = 0) || (decide (e.kind = 2) && s.flag F.SAFE_STAT_SAFE)

/-- A SHOT or LOOPBACK entry is due in the tick. -/
def State.shootsDue (s : State) : Bool := s.entries.any (fun e => decide (e.kind = 1 ∨ e.kind = 2) && s.entryDue e)

/-- The boost charges VTXB from its present level until READY (R158). -/
def State.startBoost (s : State) : State := { s with ame := { s.ame with boost := true, bleedAt := none } }

/-- The boost at a Capture: enabled, it runs in a tick with an entry due and while it charges; disabled, it is off, and VTXB, where
it was charged, bleeds to below 0.5 V within 100 ms (R157, R158). -/
def State.boostCapture (s : State) : State :=
  if s.flag F.AME_CTRL_EN then
    let s1 := s.startBoost
    { s1 with ame := { s1.ame with boost := s.shootsDue || !s.flag F.AME_STAT_READY } }
  else
    let s1 := { s.clr F.AME_STAT_READY with ame := { s.ame with boost := false } }
    match s.ame.bleedAt with
    | none => { s1 with ame := { s1.ame with bleedAt := if s.ame.vtxb = 0 then none else some s.uptime } }
    | some t =>
      if s.uptime < t + millis 100 then s1
      else
        let (v, s2) := s1.draw 500
        { s2 with ame := { s2.ame with vtxb := v } }

/-- What a Capture does to the front end after the shadows are in force. `changed` says that AME configuration came into
force at it. Answers the state and the paths whose ZSTALE set. -/
def State.ameCapture (s : State) (changed : Bool) : State × List Nat :=
  let key := [0, 1, 2, 3].map s.fireKey
  let stale := [0, 1, 2, 3].filter (fun n => decide (s.ame.lastFire.getD n [] ≠ key.getD n []))
  let s1 := stale.foldl State.goStale s
  let s2 := { s1 with ame := { s1.ame with lastFire := key } }
  let s3 := if changed ∨ stale ≠ [] then (s2.buildUcode.buildDur).buildPdur else s2
  let s4 := [0, 1, 2, 3].foldl (fun t n =>
    let t1 := if t.flag (F.AME_P_RX_AGCEN n) then t else t.put (F.AME_P_STAT_GAIN n) (t.get (F.AME_P_RX_GINIT n))
    t1.showPol n) s3
  (s4.boostCapture, stale)

/-- A Capture consumes the SHOTTRIG latch (R182). A latch that merges into a request still pending counts as accepted too, and the
request stays as it is: R182 does not say whether it counts (DESIGN CHOICE, log entry 112). -/
def State.consumeTrig (s : State) : State :=
  if s.ame.trigLatch then
    let s1 := { s with ame := { s.ame with trigLatch := false } }
    if s1.flag F.CMD_MODE_TEST ∧ s1.flag F.AME_TRIG_EN then
      let req := if s1.ame.trigReq ≠ [] then s1.ame.trigReq
        else
          let ps := [0, 1, 2, 3].filter (fun n => bit (s1.get F.AME_TRIG_PATHS) n && s1.pathOn n)
          (List.range (s1.get F.AME_TRIG_COUNT)).flatMap (fun _ => ps)
      { s1 with ame := { s1.ame with trigReq := req } }.bump F.AME_TRIGCNT_ACCEPTED 1
    else s1.bump F.AME_TRIGCNT_IGNORED 1
  else s

/-! ### Planning the Acoustic window (R34, R153, R178, R179, R183) -/

/-- The SHOT entries due in the tick. -/
def State.shotsDue (s : State) : List Entry := s.entries.filter (fun e => decide (e.kind = 1) && s.entryDue e)

/-- The multiplicity of a SHOT entry in the tick (R34). -/
def State.mult (s : State) (e : Entry) : Nat := if s.pathRecovers e.path then max e.mmin 3 else e.mmin

/-- Rounds lo to hi − 1 over the entries: round r fires each entry whose multiplicity exceeds r (R179). -/
def rounds (es : List (Nat × Nat × Nat)) (origin : Nat) : List Planned :=
  (List.range 16).flatMap (fun r => (es.filter (fun e => decide (e.2.1 ≤ r ∧ r < e.2.2))).map (fun e =>
    (⟨e.1, origin, false⟩ : Planned)))

/-- The loopback shots due (R178). -/
def State.planLoopback (s : State) : List Planned :=
  if s.flag F.AME_CTRL_EN then
    (s.entries.filter (fun e => decide (e.kind = 2) && s.entryDue e)).flatMap (fun e =>
      List.replicate e.mmin (⟨15, 2, false⟩ : Planned))
  else []

/-- The minimum shots. -/
def State.planMin (s : State) : List Planned :=
  rounds ((s.shotsDue.filter (fun e => s.pathOn e.path)).map (fun e => (e.path, 0, s.mult e))) 0

/-- The optional extra shots. -/
def State.planExtra (s : State) : List Planned :=
  rounds ((s.shotsDue.filter (fun e => s.pathOn e.path)).map (fun e => (e.path, s.mult e, e.mmax))) 1

/-- The pending test shots: the ACL request's first, then the SHOTTRIG request's (R183). -/
def State.planTest (s : State) : List Planned :=
  (match s.ame.aclReq with
   | some q => if s.pathOn q.path then List.replicate q.left (⟨q.path, 3, true⟩ : Planned) else []
   | none => []) ++ (s.ame.trigReq.filter s.pathOn).map (fun n => (⟨n, 3, false⟩ : Planned))

/-- The duration of a planned shot, in units of 10 µs. -/
def State.planDur (s : State) (p : Planned) : Nat := (s.shotFiring p.path).dur

/-- The planned shots that fit a budget, in order, up to the first that does not: no later, shorter shot takes its time, since R179
gives their order and not what a misfit does to the rest (DESIGN CHOICE, log entry 112). -/
def State.fitting (s : State) : Nat → List Planned → List Planned
  | _, [] => []
  | b, p :: t => if s.planDur p ≤ b then p :: s.fitting (b - s.planDur p) t else []

/-- Urgent Service tasks: enabled, with an age of PROMO or more (R35). -/
def State.urgent (s : State) : List Nat :=
  (List.range 6).filter (fun t => s.taskEnabled t && (match s.rm.ages.getD t none with
    | some a => decide (s.get F.FT_CTRL_PROMO ≤ a) | none => false))

/-- The time that the tick leaves for optional shots, in units of 10 µs: the period less the work of steps 1 and 2 of R34,
and not into the last conversion time and 0.2 ms before the boundary. `slices` is what the urgent tasks reserve. -/
def State.extraRoom (s : State) (fixed slices : Nat) : Nat :=
  let total := 3125 * s.get F.FT_PERIOD_N
  let meters := sumNat ([0, 1].map (fun x =>
    if s.entries.any (fun e => decide (e.kind = 1) && bit (s.get (F.MP_CFG_PATHS x)) e.path) then 130 else 0))
  let r1 := total - (20 + fixed + 80 + meters + 600 + slices)
  let (nt, nb) := s.convDue
  if nt = 0 ∧ nb = 0 then r1 else min r1 (total - (20 + fixed + 200 * nt + 300 * nb + 20))

/-- Steps 3 and 4 of R34 in a room of their own: the optional shots taken and the time of the diagnostics repetitions, of which
`reps` is asked for. Repetitions come first in the safe state (R465), and otherwise take what the shots leave. -/
def State.optional (s : State) (budget reps room : Nat) (more : List Planned) : List Planned × Nat :=
  let used (l : List Planned) : Nat := sumNat (l.map s.planDur)
  if s.flag F.SAFE_STAT_SAFE then (s.fitting (min budget (room - min reps room)) more, min reps room)
  else
    let take := s.fitting (min budget room) more
    (take, min reps (room - used take))

/-- The window's sequence of shots, and whether urgent tasks took optional work from the tick: extra shots give up their time first,
then repetitions (R34). -/
def State.planWindow (s : State) (budget reps : Nat) : List Planned × Bool :=
  let first := s.planLoopback ++ s.planMin
  let fixed := sumNat (first.map s.planDur)
  let more := s.planTest ++ s.planExtra
  let (take0, rep0) := s.optional budget reps (s.extraRoom fixed 0) more
  let room1 := s.extraRoom fixed (sumNat (s.urgent.map s.taskSlice))
  let rep1 := min rep0 room1
  let take1 := s.fitting (min budget (room1 - rep1)) take0
  (first ++ take1, decide (take1.length < take0.length ∨ rep1 < rep0))

/-! ### The radio across a window (R26, R81, R364) -/

/-- The SHOT and LOOPBACK entries due in a tick to come; a LOOPBACK entry is always due in the safe state (R57, R465). -/
def State.dueIn (s : State) (tick : Nat) : List Entry :=
  s.entries.filter (fun e => (decide (e.kind = 1 ∨ e.kind = 2) && decide (0 < e.every ∧ tick % e.every = 0))
    || (decide (e.kind = 2) && s.flag F.SAFE_STAT_SAFE))

/-- Whether a path recovers in the tick `ahead` of the present one, as far as is known now (R218). -/
def State.recoversIn (s : State) (path ahead : Nat) : Bool := match s.mpOfPath path with
  | some x => if ahead = 0 then s.shot.recTick.getD x false
    else s.flag F.CMD_MODE_TEST || s.flag (F.SHOT_MSTAT_EMPTY x) || decide (ahead ≤ s.get (F.SHOT_MSTAT_RECOV x))
  | none => s.flag F.CMD_MODE_TEST

/-- The planned length of a tick's window in µs: its loopback shots and minimum shots (log entry 21). -/
def State.windowUs (s : State) (tick : Nat) : Nat :=
  10 * sumNat ((s.dueIn tick).map (fun e =>
    if e.kind = 2 then loopbackFiring.dur * e.mmin
    else (s.shotFiring e.path).dur * (if s.recoversIn e.path (tick - s.rm.tick) then max e.mmin 3 else e.mmin)))

/-- The transmitter as driven: PA_CTL follows it with EXTPA (R81, R363). -/
def State.showTx (s : State) (on : Bool) : State :=
  { s with pins := { s.pins with txOn := on, paCtl := on && s.flag F.RADIO_CTRL_EXTPA } }

/-- A transmission is in progress. -/
def State.sending (s : State) : Bool := match s.link.tx with
  | .send _ _ _ _ => true
  | _ => false

/-- A preamble or train that spans a window stops for as long as the window's shots take: what was planned behind a shorter window
comes later by the difference, `more` µs. `start` is the window's start. -/
def State.stretchTx (s : State) (start more : Nat) : State := match s.link.tx with
  | .send m t0 stop air =>
    let later (x : Nat × Nat) : Nat × Nat := if start ≤ x.1 then (x.1 + more, x.2 + more) else x
    { s with link := { s.link with tx := .send m t0 (stop + usCycles more) air, onAir := s.link.onAir.map later } }
  | _ => s

/-- The start of the tick's Acoustic window, in µs of uptime (R364). -/
def State.windowStart (s : State) : Nat := cyclesUs ((s.rm.nextAt).getD 0 - 1024 * s.get F.FT_PERIOD_N) + 200

/-- The window opens: the transmitter is off for its whole duration, which is that of the shots planned (R26). -/
def State.pauseTx (s : State) : State :=
  if s.sending then
    ((s.showTx false).stretchTx s.windowStart (10 * sumNat (s.ame.plan.map s.planDur) - s.windowUs s.rm.tick))
  else s

/-! ### The window -/

/-- Marks the entries of disabled paths (R153). -/
def State.markSkipped (s : State) : State :=
  s.shotsDue.foldl (fun t e => if t.pathOn e.path then t else t.set1 (F.AME_P_STAT_SKIPPED e.path)) s

/-- The 24 MHz oscillator and the PLL stop when the work they run for ends (Table 3.11). -/
def State.xo24Off (s : State) : State := (s.clr F.CLK_STAT_XO24_OK).clr F.CLK_STAT_PLL_LOCK

/-- Whether the radio runs at all: the domain's enable in a stage with RUN, DOZE or SLEEP. -/
def State.radioOn (s : State) : Bool :=
  s.flag F.RADIO_CTRL_EN && decide (s.pow.stage = .running ∨ s.pow.stage = .awaitTick)

/-- The receiver may run: the transceiver is enabled in RUN, DOZE or SLEEP, which the emergency commit and the wait after it are too
(R104, R373). -/
def State.radioRx (s : State) : Bool :=
  s.radioOn || (s.flag F.RADIO_CTRL_EN && !s.pow.inStart
    && decide (s.pow.stage = .emergency ∨ s.pow.stage = .pfWait ∨ s.pow.stage = .resuming))

/-- Radio work is to be run: frames or payloads to send, an acknowledgement owed, a transmission or a reception (R95). -/
def State.radioWork (s : State) : Bool :=
  (s.radioOn && (decide (s.link.queue ≠ [] ∨ s.link.outbox ≠ [] ∨ s.link.tx ≠ .idle) || s.link.ack.isSome))
    || (s.radioRx && decide (s.link.rx ≠ .sleep))

/-- The 24 MHz oscillator stops where no work that it runs for remains (Table 3.11). -/
def State.xo24Rest (s : State) : State := if s.ame.windowOn || s.radioWork then s else s.xo24Off

/-- The transitions of the LCD that fall inside the window come at its end (R401), and so do those of a bistable update (R420). -/
def State.dispWindow (s : State) : State :=
  let t0 := usCycles s.windowStart
  let t1 := max s.uptime (usCycles (s.windowStart + 10 * s.ame.len))
  let s1 := s.runHold t0 t1
  if s1.disp.lcd then s1.lcdDefer t0 t1 else s1

/-- The window ends: the marker falls, AME_WIN is written, and the Acoustic phase has ended (R179, R184). The boost stops once it has
charged, a conversion sequence that is due starts, and a transmission that spans the window goes on (R26, R157, R158, R246). -/
def State.endWindow (s : State) : State :=
  let s1 := { s with ame := { s.ame with windowOn := false, plan := [], run := none
                                         boost := s.ame.boost && !s.flag F.AME_STAT_READY }
                     pins := { s.pins with window := false }
                     rm := { s.rm with phaseDone := true } }
  let s2 := if s.ame.windowOn then
      ((s1.put F.AME_WIN_SHOTS (satNat 8 s.ame.index)).put F.AME_WIN_LEN (satNat 16 s.ame.len)).dispWindow
    else s1
  let s3 := if s.ame.windowOn ∧ s.sending then s2.showTx true else s2
  (s3.xo24Rest.startConv).enterPower pwrRun

/-- The window goes on to its next shot, or ends. -/
def State.nextShot (s : State) : State :=
  let s1 := { s with ame := { s.ame with run := none, plan := s.ame.plan.drop 1 } }
  if s1.ame.plan = [] then s1.endWindow else s1

/-- The measured disagreement of the clocks, in 1/16 ppm (R113). -/
def State.crossCheck (s : State) (d : Int) : State :=
  let s1 := s.putI F.CLK_XO24ERR_ERR (satSigned 16 d)
  if 3200 < d.natAbs then
    let s2 := (s1.set1 F.CLK_MON_CROSS).detect 0x11 0xFF (s1.rd F.CLK_XO24ERR).toNat .second
    { s2 with ame := { s2.ame with cross := true } }
  else s1

/-- ACOUSTIC_WINDOW (R153, R158, R178, R179, R191): after Capture the window's shots are planned; a window with shots opens, and one
without has ended at once; the core waits for its shots in DOZE (R92). `disagree` is the disagreement of XT32 and XO24 over the window.
Where XO24 has failed or lost its lock, VTXB_NR is not set although READY is 0: Table 5.11 does not rank the causes (DESIGN CHOICE, log
entry 112). -/
def execAcousticWindow (room : WindowRoom) (disagree : Int) (s : State) : Host.Outcome State Fault Refusal :=
  if s.ticking ∧ s.get F.FT_PHASE_PHASE = 0 ∧ s.rm.phaseDone then
    let s1 := (s.put F.FT_PHASE_PHASE 1).markSkipped
    let (plan, dropped) := s1.planWindow room.budget room.reps
    let s2 := if dropped then s1.set1 F.FT_STAT_DROPX else s1
    if plan = [] then .next s2.endWindow
    else if s2.ame.xoFail ∨ s2.ame.pllFail then .next s2.endWindow
    else if s2.flag F.AME_STAT_READY = false then .next (s2.set1 F.AME_STAT_VTXB_NR).endWindow
    else
      let s3 := { s2 with ame := { s2.ame with plan := plan, windowOn := true, index := 0, len := 0 }
                          pins := { s2.pins with window := true }
                          rm := { s2.rm with phaseDone := false } }
      .next ((s3.crossCheck disagree).pauseTx.enterPower pwrDoze)
  else .next s

/-- The set level of VTXB in mV (R157). -/
def State.driveMv (s : State) : Nat := let v := s.get F.AME_CTRL_DRV_V; if v = 0 then 3300 else 1000 * (v + 4)

/-- VTXB_READY: VTXB reaches 97 % of the set level while the boost charges it; outside the part of a tick that it runs for, the boost
then stops (R157, R158). -/
def execVtxbReady (dt : Nat) (s : State) : Host.Outcome State Fault Refusal :=
  let s1 := s.advance dt
  let runs := s1.shootsDue && decide (s1.get F.FT_PHASE_PHASE ≤ 1)
  .next (if s1.flag F.AME_CTRL_EN then
    { s1.set1 F.AME_STAT_READY with ame := { s1.ame with boost := runs, vtxb := s1.driveMv * 97 / 100 } } else s1)

/-! ### Disturbed shots (R187, R191) -/

/-- The slots of capture record `i`, and of its descriptor (R174). -/
def capSlots (i : Nat) : List Nat := slotsFrom (16 * i) 16
def descSlot (i : Nat) : Nat := 2040 + i

/-- Frees the capture records of a shot with their descriptors: a published one by its consumer's way, one not yet published at once
(R51, R174, R191). -/
def State.freeRecs (s : State) (recs : List Nat) : State :=
  let t := recs.foldl (fun (t : State) i =>
    if t.token (descSlot i) = tokPublished then (t.consume 0 (capSlots i)).consume 10 [descSlot i]
    else (t.moveAll 0 (capSlots i) tokFree).moveToken 10 (descSlot i) tokFree) s
  { t with ame := { t.ame with desc := t.ame.desc.filter (fun d => !recs.contains d.1) } }

/-- Discards the running shot: its records are freed, AME_DISC counts it, and its path's gain is that of the shot (R176, R191).
AME_WIN.LEN takes its time up to the last word it reached, rounded up: R192 does not say what a discarded shot adds (DESIGN CHOICE,
log entry 112). -/
def State.discardShot (s : State) : State :=
  match s.ame.run with
  | none => s
  | some r =>
    let s0 := (s.freeRecs r.recs).bump F.AME_DISC_COUNT 1
    let s1 := if r.capB ∧ r.plan.path < 4 ∧ r.plan.origin ≠ 3 then s0.put (F.AME_P_STAT_GAIN r.plan.path) r.gain else s0
    { s1 with ame := { s1.ame with run := none, discarded := s1.ame.discarded ++ [(r.plan, r.asym)]
                                   len := s1.ame.len + (r.time + 959) / 960 } }

/-- A disturbance stops the running shot and the tick's further shots (Table 5.11). -/
def State.stopShots (s : State) : State :=
  let s1 := s.discardShot
  if s1.ame.windowOn then s1.endWindow else s1

/-- A sequencer fault (R187). -/
def State.ucodeFault (s : State) (r : ShotRun) : State :=
  ((s.set1 F.AME_STAT_UCODE).stopShots).detect 0x42 r.plan.path 0 .second

/-- PLL_UNLOCKED: the lock detector sees a loss of lock while the PLL runs; the running shot is discarded and no further
shot runs in the tick, also where its window has not yet begun (Table 3.12, Table 5.11). -/
def execPllUnlocked (dt : Nat) (s : State) : Host.Outcome State Fault Refusal :=
  let s1 := s.advance dt
  if s1.flag F.CLK_STAT_PLL_LOCK then
    let s2 := (s1.clr F.CLK_STAT_PLL_LOCK).set1 F.CLK_MON_PLL_UNLOCK
    let s3 := if s2.ame.run = none then s2 else s2.set1 F.AME_STAT_PLLDISC
    let s4 := { s3 with ame := { s3.ame with pllFail := true } }
    .next ((s4.stopShots).detect 0x13 0xFF 0 .second)
  else .next s1

/-! ### The sequencer (R185 to R187) -/

/-- First word of a path's routine. -/
def routineBase (path : Nat) : Nat := if path = 15 then 64 else 16 * path

/-- The word a shot is at. -/
def State.wordAt (s : State) (pc : Nat) : Word := s.rd (F.AME_UCODE (pc % 128))

/-- The running shot, replaced. -/
def State.setRun (s : State) (r : ShotRun) : State := { s with ame := { s.ame with run := some r } }

/-- Runs the word of the running shot when its operation is the one asked for; a reserved operation is a fault. -/
def State.ucode (s : State) (op : Nat) (f : ShotRun → Nat → Nat → State) : State :=
  match s.ame.run with
  | none => s
  | some r =>
    let w := s.wordAt r.pc
    let o := bitsOf w 31 28
    if 7 ≤ o then s.ucodeFault r
    else if o = op then f r (bitsOf w 27 24) (bitsOf w 23 0)
    else s

/-- The FREE records of ring 0 with their descriptors, from its head on (R174). -/
def State.freeCaptures (s : State) : List Nat :=
  let h := s.get (F.SYS_RING_B_HEAD 0) / 16
  ((List.range 8).map (fun k => (h + k) % 8)).filter (fun i =>
    decide (s.token (16 * i) = tokFree ∧ s.token (descSlot i) = tokFree))

/-- Counts a started test shot against its request, and notes the tick of an ACL request's first (R181, R182). -/
def State.noteTest (s : State) (p : Planned) : State :=
  if p.origin ≠ 3 then s
  else if p.acl then
    match s.ame.aclReq with
    | none => s
    | some q =>
      let ran := match q.ran with | some t => some t | none => some s.rm.tick
      { s with ame := { s.ame with aclReq := some { q with left := q.left - 1, ran := ran } } }
  else { s with ame := { s.ame with trigReq := s.ame.trigReq.erase p.path } }

/-- UCODE_SELP: the next planned shot starts: it takes four capture records, its gain and its polarity; with fewer than
four FREE records it is not fired (R174, R176, R191). -/
def execUcodeSelp (s : State) : Host.Outcome State Fault Refusal :=
  match s.ame.windowOn, s.ame.run, s.ame.plan with
  | true, none, p :: _ =>
    let pc := routineBase p.path
    if bitsOf (s.wordAt pc) 31 28 ≠ 1 then .next s
    else
      match s.freeCaptures with
      | a :: b :: c :: d :: _ =>
        let take (t : State) (i : Nat) : State :=
          (t.moveAll 0 (capSlots i) tokWriting).moveToken 10 (descSlot i) tokWriting
        let s1 := [a, b, c, d].foldl take s
        let s2 := (s1.put (F.SYS_RING_B_HEAD 0) (16 * ((d + 1) % 8))).put (F.SYS_RING_B_HEAD 10) ((d + 1) % 8)
        let lb := decide (p.path = 15)
        let n := s2.get F.AME_LB_COUNT
        let asym := lb && decide (n % 2 = 1) && s2.flag F.AME_LB_ASYMALT
        let s3 := if lb then s2.put F.AME_LB_COUNT (n + 1) else s2
        let gain := if lb then 8 else s3.get (F.AME_P_STAT_GAIN p.path)
        let pol := !lb && s3.flag (F.AME_P_STAT_POL p.path)
        let run : ShotRun :=
          { plan := p, pc := pc + 1, time := 0, recs := [a, b, c, d], firedA := none, firedB := none, capA := false
            capB := false, corrA := false, corrB := false, swapped := false, gain := gain, pol := pol, asym := asym
            vtxb := 0, vtxbB := 0, vtxbLow := false, clip := false, peak := 0, corr := [] }
        .next (({ s3 with ame := { s3.ame with run := some run, index := s3.ame.index + 1 } }).noteTest p)
      | _ =>
        let s1 := ((s.set1 F.AME_STAT_CAPFULL).bump F.AME_DISC_COUNT 1).detect 0x43 p.path 0 .second
        let asym := decide (p.path = 15 ∧ s.get F.AME_LB_COUNT % 2 = 1) && s.flag F.AME_LB_ASYMALT
        .next (({ s1 with ame := { s1.ame with discarded := s1.ame.discarded ++ [(p, asym)] } }).noteTest p).nextShot
  | _, _, _ => .next s

/-- UCODE_WAIT: waits B cycles of 96 MHz. -/
def execUcodeWait (s : State) : Host.Outcome State Fault Refusal :=
  .next (s.ucode 2 (fun r _ b => s.setRun { r with pc := r.pc + 1, time := r.time + b }))

/-- Sample 0 and the end of a capture that belongs to a firing instant, in cycles of 96 MHz. -/
def Firing.window (c : Firing) (fired : Nat) : Nat × Nat := (fired + 6 * c.windly, fired + 6 * c.windly + 6 * c.tcap)

/-- Whether a FIRE at `t` would collide with the capture of the other firing (R187). -/
def Firing.collides (c : Firing) (t : Nat) (other : Option Nat) : Bool :=
  match other with
  | none => false
  | some f =>
    let (lo, hi) := c.window f
    decide (lo < t ∧ t < hi - c.per) || decide (t ≤ lo ∧ lo < t + c.burst + 192)

/-- A metrology shot's firing A advances its path's polarity counter (R164, R180). -/
def State.countPol (s : State) (p : Planned) : State :=
  if p.path < 4 ∧ p.origin ≠ 3 then
    ({ s with ame := { s.ame with pol := s.ame.pol.set p.path (s.ame.pol.getD p.path 0 + 1) } }).showPol p.path
  else s

/-- UCODE_FIRE: at the next sample-clock edge the firing starts on both ports and both captures are armed; a FIRE that
would collide with a capture is a fault (R159, R186, R187, R191). `vtxb` is VTXB at that instant in mV. -/
def execUcodeFire (vtxb : Nat) (s : State) : Host.Outcome State Fault Refusal :=
  .next (s.ucode 3 (fun r a _ =>
    let c := s.shotFiring r.plan.path
    let t := (r.time + c.per - 1) / c.per * c.per
    let other := if a = 0 then r.firedB else r.firedA
    if c.collides t other then s.ucodeFault r
    else
      let mv := satNat 14 vtxb
      let low := decide (10 * mv < 9 * s.driveMv)
      let s1 := { s.put F.AME_VTXB_MV mv with ame := { s.ame with vtxb := mv } }
      let s2 := if low then s1.set1 F.AME_STAT_VTXB_LOW else s1
      let r1 := { r with pc := r.pc + 1, time := t, vtxbLow := r.vtxbLow || low }
      if a = 0 then (s2.countPol r.plan).setRun { r1 with firedA := some t, vtxb := mv }
      else s2.setRun { r1 with firedB := some t, vtxbB := mv }))

/-- UCODE_WAITF: waits until B cycles after a firing's instant; a time already passed is a fault (R187). -/
def execUcodeWaitf (s : State) : Host.Outcome State Fault Refusal :=
  .next (s.ucode 4 (fun r a b =>
    match (if a = 0 then r.firedA else r.firedB) with
    | none => s
    | some f => if f + b < r.time then s.ucodeFault r else s.setRun { r with pc := r.pc + 1, time := f + b }))

/-- The time of an event of WAITE once it has happened (Table 5.8); correlation ends 40 µs after its capture. -/
def ShotRun.eventTime (r : ShotRun) (c : Firing) (e : Nat) : Option Nat :=
  let at0 (done : Bool) (fired : Option Nat) (late : Nat) : Option Nat :=
    if done then fired.map (fun f => (c.window f).2 + late) else none
  if e = 0 then at0 r.capA r.firedA 0 else if e = 1 then at0 r.capB r.firedB 0
  else if e = 2 then at0 r.corrA r.firedA 3840 else if e = 3 then at0 r.corrB r.firedB 3840 else none

/-- UCODE_WAITE: goes on when its event has happened; until then the sequencer waits. -/
def execUcodeWaite (s : State) : Host.Outcome State Fault Refusal :=
  .next (s.ucode 5 (fun r a _ =>
    match r.eventTime (s.shotFiring r.plan.path) a with
    | none => s
    | some t => s.setRun { r with pc := r.pc + 1, time := max r.time t }))

/-- UCODE_SWAP: the chains are exchanged (R168). -/
def execUcodeSwap (s : State) : Host.Outcome State Fault Refusal :=
  .next (s.ucode 6 (fun r _ _ => s.setRun { r with pc := r.pc + 1, swapped := !r.swapped }))

/-- UCODE_END: the shot is classified and its record published, and the window goes on to its next shot (R186, R200 to R214).
AME_WIN.LEN takes the shot's D, which R170 rounds up to 10 µs: R192 does not say how the length rounds (DESIGN CHOICE, log entry
112). -/
def execUcodeEnd (s : State) : Host.Outcome State Fault Refusal :=
  .next (s.ucode 0 (fun r _ _ =>
    let c := s.shotFiring r.plan.path
    let s1 := s.finishShot r
    ({ s1 with ame := { s1.ame with len := s1.ame.len + c.dur } }).nextShot))

/-! ### Captures and correlations -/

/-- A sample within 14 bits (R172, R174). -/
def sample14 (x : Int) : Int := clampInt (-8192) 8191 x

/-- A chain's samples: CAPLEN of them (R174). -/
def chainSamples (n : Nat) (l : List Int) : List Int :=
  let m := (l.take n).map sample14
  m ++ List.replicate (n - m.length) 0

/-- The 2,048 bytes of a capture record (R174). -/
def captureBytes (l : List Int) : List Byte :=
  l.flatMap (fun x => bytesLE 2 (ofSigned 16 x)) ++ zeros (2 * (1024 - l.length))

/-- The descriptor of a capture record; none reads as an empty one. -/
def State.descOf (s : State) (i : Nat) : Desc := match s.ame.desc.find? (fun d => decide (d.1 = i)) with
  | some d => d.2
  | none => ⟨0, loopbackFiring, false, false, false, 0, false, 0, 0⟩

/-- Fills and publishes a capture record with its descriptor: the header in the Carousel, and the parameters, for which R177 gives no
layout, beside it (R174, R177, log entry 50). -/
def State.publishCapture (s : State) (i : Nat) (l : List Int) (d : Desc) : State :=
  let (h, s1) := s.header 10
  let s2 := (s1.ringWrite 0 (capSlots i) (captureBytes l)).ringWrite 10 [descSlot i] h
  let s3 := { s2 with ame := { s2.ame with desc := (i, d) :: s2.ame.desc.filter (fun x => decide (x.1 ≠ i)) } }
  (s3.moveAll 0 (capSlots i) tokPublished).moveToken 10 (descSlot i) tokPublished

/-- The gain of a path's next shot, once capture B of one that is no test shot has ended (R176). -/
def State.nextGain (s : State) (r : ShotRun) (c : Firing) : State :=
  if r.plan.path < 4 ∧ r.plan.origin ≠ 3 then
    let g : Int := if c.agc then
        (r.gain : Int) + agcStep (s.get F.AME_AGC_TARGET) (s.get F.AME_AGC_STEP) (s.get F.AME_AGC_DEAD) r.peak r.clip
      else c.ginit
    s.put (F.AME_P_STAT_GAIN r.plan.path) (if c.agc then clampInt c.gmin c.gmax g else g).toNat
  else s

/-- CAPTURE_END: the capture of the earliest firing not yet captured ends; its two records are published, and with capture B the
path's next gain is set (R173 to R177). `chain0` and `chain1` are the samples of the two chains. -/
def execCaptureEnd (chain0 chain1 : List Int) (s : State) : Host.Outcome State Fault Refusal :=
  match s.ame.run with
  | none => .next s
  | some r =>
    let second := r.capA
    if (if second then r.capB || r.firedB.isNone else r.firedA.isNone) then .next s
    else
      let c := s.shotFiring r.plan.path
      let x0 := chainSamples c.caplen chain0
      let x1 := chainSamples c.caplen chain1
      let all := x0 ++ x1
      let clip := all.any (fun x => decide (x = 8191 ∨ x = -8192))
      let peak := (all.map Int.natAbs).foldl max r.peak
      let k := if second then 2 else 0
      let d : Desc := ⟨r.plan.path, c, second, r.pol, r.swapped, r.gain, clip, if second then r.vtxbB else r.vtxb, r.plan.origin⟩
      let s1 := (s.publishCapture (r.recs.getD k 0) x0 d).publishCapture (r.recs.getD (k + 1) 0) x1 d
      let s2 := if clip then
          let t := s1.set1 F.AME_STAT_CLIP
          if r.plan.path < 4 then t.set1 (F.AME_P_STAT_CLIP r.plan.path) else t
        else s1
      let r1 := { r with clip := r.clip || clip, peak := peak }
      .next (if second then (s2.nextGain r1 c).setRun { r1 with capB := true } else s2.setRun { r1 with capA := true })

/-- 16-bit samples of a list of bytes, lowest byte first. -/
def samplePairs : List Byte → List Int
  | a :: b :: t => toSigned 16 (a.toNat + 256 * b.toNat) :: samplePairs t
  | _ => []

/-- The samples of a capture record. -/
def State.captureSamples (s : State) (i n : Nat) : List Int := samplePairs (s.crsBytes (slotAddr (16 * i)) (2 * n))

/-- The correlator meets what errors the words of a capture record and of its descriptor hold (R54). -/
def State.captureMeet (s : State) (i : Nat) : State := (s.eccMeet (slotAddr (16 * i)) 2048).eccMeet (slotAddr (descSlot i)) 128

/-- A capture record or its descriptor holds an uncorrectable error. -/
def State.captureBad (s : State) (i : Nat) : Bool := s.crsBad (slotAddr (16 * i)) 2048 || s.crsBad (slotAddr (descSlot i)) 128

/-- CORRELATION_END: the correlator has finished the earliest captured firing: both directions are correlated with the parameters of
the descriptors, by the connection of Table 5.3, and the two records return to FREE (R167, R168, R174, R177, R193, R194). An
uncorrectable error in a record discards the shot (R191). -/
def execCorrelationEnd (s : State) : Host.Outcome State Fault Refusal :=
  match s.ame.run with
  | none => .next s
  | some r =>
    let second := r.corrA
    if (if second then r.corrB || !r.capB else !r.capA) then .next s
    else
      let k := if second then 2 else 0
      let i0 := r.recs.getD k 0
      let i1 := r.recs.getD (k + 1) 0
      let d := s.descOf i0
      let c := d.cfg
      let met := (s.captureMeet i0).captureMeet i1
      if s.captureBad i0 ∨ s.captureBad i1 then .next met.discardShot.nextShot
      else
        let x0 := s.captureSamples i0 c.caplen
        let x1 := s.captureSamples i1 c.caplen
        let crossed := d.second && d.swapped
        let up := c.correlation d.second d.pol (if crossed then x1 else x0)
        let dn := c.correlation d.second d.pol (if crossed then x0 else x1)
        let s1 := met.freeRecs [i0, i1]
        let r1 := { r with corr := r.corr ++ [up, dn], recs := if second then [] else r.recs }
        .next (s1.setRun (if second then { r1 with corrB := true } else { r1 with corrA := true }))

/-- SHOTTRIG_EDGE: a rising edge sets the one-deep latch, which works in RUN, DOZE and SLEEP, and while VIO is present (R65, R70,
R182). -/
def execShottrigEdge (dt : Nat) (s : State) : Host.Outcome State Fault Refusal :=
  let s1 := s.advance dt
  .next (if s1.coreAlive ∧ s1.flag F.PWR_STATE_VIO_OK then { s1 with ame := { s1.ame with trigLatch := true } } else s1)

end Sys2Proof.Machine
end

