-- ==== Sys2Proof/Machine/ShotTick.lean ====
section
/-! DEFINITION. The SHOT block's work of a tick: recovery ticks, the reduction of a path's shots, hold, empty pipe, the
loopback check and zero calibration (R215 to R228, R475). The rows of the table that are steps inside a Compute run their
step early; the Compute that follows finds it done (log entry 13). -/

namespace Sys2Proof.Machine

/-- The paths of a meter point that are enabled; the front end as a whole plays no part in it (R233). -/
def State.mpPaths (s : State) (x : Nat) : List Nat :=
  [0, 1, 2, 3].filter (fun n => bit (s.get (F.MP_CFG_PATHS x)) n && s.portOn n)

/-- Whether a meter point is enabled in force. -/
def State.mpOn (s : State) (x : Nat) : Bool := s.flag (F.MP_CTRL_EN x)

/-- A path's metrology shots of the tick that have a record (R215, R221). -/
def State.metShots (s : State) (n : Nat) : List ShotOut :=
  s.ame.done.filter (fun o => decide (o.path = n ∧ o.origin < 2))

/-! ### Recovery ticks (R218) -/

/-- An event that loads RECOV at the next Capture. -/
def State.markRecov (s : State) (x : Nat) : State :=
  { s with shot := { s.shot with loadRecov := s.shot.loadRecov.set x true } }

/-- The Capture's decision for a meter point: RECOV is loaded where an event asks for it, and the tick is decided. -/
def State.recovCapture (s : State) (x : Nat) (now : Bool) : State :=
  let load := now || s.shot.loadRecov.getD x false
  let s1 := if load then s.put (F.SHOT_MSTAT_RECOV x) (s.get (F.SHOT_RULE_MEDIAN_TICKS x)) else s
  let test := s1.flag F.CMD_MODE_TEST
  let empty := s1.flag (F.SHOT_MSTAT_EMPTY x)
  let count := decide (0 < s1.get (F.SHOT_MSTAT_RECOV x))
  { s1 with shot := { s1.shot with
      loadRecov := s1.shot.loadRecov.set x false
      recTick := s1.shot.recTick.set x (test || empty || count)
      recByCount := s1.shot.recByCount.set x (count && !test && !empty) } }

/-- The Compute of a recovery tick that RECOV alone decided takes one off RECOV (R218). -/
def State.recovCompute (s : State) (x : Nat) : State :=
  if s.shot.recByCount.getD x false then
    let s1 := s.put (F.SHOT_MSTAT_RECOV x) (s.get (F.SHOT_MSTAT_RECOV x) - 1)
    { s1 with shot := { s1.shot with recByCount := s1.shot.recByCount.set x false } }
  else s

/-! ### The tick value of a path (R216, R217) -/

/-- The median of a list of DTOFs (R217). -/
def medianOf (l : List Int) : Int :=
  let r := sortInt l
  let n := r.length
  if n % 2 = 1 then r.getD (n / 2) 0 else roundDiv (r.getD (n / 2 - 1) 0 + r.getD (n / 2) 0) 2

/-- The shots a tick keeps: all in normal service; in a recovery tick those near the median, never one alone, and two
together or not at all (R216, R217). -/
def keepShots (recovery : Bool) (medlim : Nat) (l : List ShotOut) : List ShotOut :=
  if recovery then
    let m := medianOf (l.map ShotOut.dtof)
    let near (o : ShotOut) : Bool := decide ((o.dtof - m).natAbs ≤ 256 * medlim)
    match l with
    | [_] => []
    | [a, b] => if near a ∧ near b then l else []
    | _ => l.filter near
  else l

/-- Class weight, doubled (R207, R216). -/
def ShotOut.weight (o : ShotOut) : Nat := if o.cls = 0 then 2 else 1

/-- A weighted mean, rounded to nearest (R216). -/
def weightedMean (l : List ShotOut) (f : ShotOut → Int) : Int :=
  roundDiv (sumInt (l.map (fun o => o.weight * f o))) (sumNat (l.map ShotOut.weight))

/-- The usable shots of a path (R215). -/
def State.usable (s : State) (n : Nat) : List ShotOut := (s.metShots n).filter (fun o => decide (o.cls ≤ 1))

/-- The shots of a path that the tick keeps. -/
def State.kept (s : State) (n : Nat) : List ShotOut :=
  keepShots (s.pathRecovers n) (s.get (F.SHOT_P_LIM_MEDLIM n)) (s.usable n)

/-- Publishes a path's tick value (R219). -/
def State.publishPath (s : State) (n state : Nat) (v : Int × Nat × Nat) (held : Nat) : State :=
  let s1 := ((s.putI (F.SHOT_P_TDT_DTOF n) v.1).put (F.SHOT_P_TUP_TOF n) v.2.1).put (F.SHOT_P_TDN_TOF n) v.2.2
  (s1.put (F.SHOT_P_TSTAT_STATE n) state).put (F.SHOT_P_TSTAT_HELDCNT n) held

/-- A path that keeps no shot: HELD while its held value may be used, else UNKNOWN with zero (R219). `fresh` says that
this Compute counts the tick. -/
def State.holdPath (s : State) (n : Nat) (limit : Nat) : State :=
  let p := s.pathSt n
  match p.held with
  | some v =>
    if p.heldFor < limit then
      (s.setPathSt n { p with heldFor := p.heldFor + 1 }).publishPath n 1 v (p.heldFor + 1)
    else s.publishPath n 2 (0, 0, 0) 0
  | none => s.publishPath n 2 (0, 0, 0) 0

/-- The tick value of one enabled path (R216 to R219). -/
def State.reducePath (s : State) (x n : Nat) : State :=
  if s.flag (F.SHOT_MSTAT_EMPTY x) then s.publishPath n 3 (0, 0, 0) 0
  else
    let k := s.kept n
    if k = [] then s.holdPath n (s.get (F.SHOT_RULE_HOLD_TICKS x))
    else
      let v := (weightedMean k ShotOut.dtof, (weightedMean k (fun o => o.tofUp)).toNat,
        (weightedMean k (fun o => o.tofDn)).toNat)
      (s.setPathSt n { s.pathSt n with held := some v, heldFor := 0 }).publishPath n 0 v 0

/-- The tick's counts of a path (SHOT_PnTSTAT, SHOT_PnCNT0 to 2). -/
def State.countPath (s : State) (n : Nat) : State :=
  let l := s.metShots n
  let cnt (p : ShotOut → Bool) : Nat := (l.filter p).length
  let rej := (s.usable n).length - (s.kept n).length
  let s1 := (((s.put (F.SHOT_P_TSTAT_NREJ n) rej).put (F.SHOT_P_TSTAT_NVOID n) (cnt (fun o => decide (2 ≤ o.cls)))).put
    (F.SHOT_P_TSTAT_NHALF n) (cnt (fun o => decide (o.cls = 1)))).put (F.SHOT_P_TSTAT_NVALID n)
    (cnt (fun o => decide (o.cls = 0)))
  let s2 := (s1.bump (F.SHOT_P_CNT0_HALF n) (cnt (fun o => decide (o.cls = 1)))).bump (F.SHOT_P_CNT0_VALID n)
    (cnt (fun o => decide (o.cls = 0)))
  let s3 := (s2.bump (F.SHOT_P_CNT1_TIMEOUT n) (cnt (fun o => decide (o.cls = 3)))).bump (F.SHOT_P_CNT1_SIDELOBE n)
    (cnt (fun o => decide (o.cls = 2)))
  (s3.bump (F.SHOT_P_CNT2_REJECTED n) rej).bump (F.SHOT_P_CNT2_AMPLITUDE n) (cnt (fun o => decide (o.cls = 4)))

/-! ### Empty pipe (R221, R222) -/

/-- EMPTY sets: held values are discarded (R219, R221). -/
def State.setEmpty (s : State) (x : Nat) : State :=
  (s.mpPaths x).foldl (fun t n => t.setPathSt n { t.pathSt n with held := none }) (s.set1 (F.SHOT_MSTAT_EMPTY x))

/-- Whether a Compute increments EPCNT, and whether it clears it (R221). A meter point without an enabled path leaves it. -/
def State.emptyRule (s : State) (x : Nat) : Option Bool :=
  let ps := s.mpPaths x
  let shots := ps.flatMap s.metShots
  if shots.any (fun o => decide (o.cls ≠ 3)) then some false
  else if ps = [] ∨ ps.any (fun n => decide (s.metShots n = [])) then none
  else some true

/-- The empty-pipe count of a Compute (R221). -/
def State.emptyCount (s : State) (x : Nat) : State :=
  if s.flag (F.SHOT_MSTAT_EMPTY x) then s
  else match s.emptyRule x with
    | some false => s.clr (F.SHOT_MSTAT_EPCNT x)
    | none => s
    | some true =>
      let c := s.get (F.SHOT_MSTAT_EPCNT x) + 1
      let s1 := s.put (F.SHOT_MSTAT_EPCNT x) c
      if s.get (F.SHOT_RULE_EP_COUNT x) ≤ c then s1.setEmpty x else s1

/-- The clearing count of a Compute while EMPTY is set (R222). -/
def State.clearCount (s : State) (x : Nat) : State :=
  if s.flag (F.SHOT_MSTAT_EMPTY x) then
    let ps := s.mpPaths x
    if ps ≠ [] ∧ ps.all (fun n => decide (s.kept n ≠ [])) then
      let c := s.get (F.SHOT_MSTAT_CLRCNT x) + 1
      if 4 ≤ c then
        (((s.clr (F.SHOT_MSTAT_EMPTY x)).clr (F.SHOT_MSTAT_EPCNT x)).clr (F.SHOT_MSTAT_CLRCNT x)).markRecov x
      else s.put (F.SHOT_MSTAT_CLRCNT x) c
    else if ps ≠ [] ∧ ps.all (fun n => decide (s.metShots n ≠ [])) then s.clr (F.SHOT_MSTAT_CLRCNT x)
    else s
  else s

/-! ### The meter point's shots in Compute -/

/-- Paths of a meter point that a SHOT entry is due for and that take part in shots. -/
def State.duePaths (s : State) (x : Nat) : List Nat :=
  (s.mpPaths x).filter (fun n => s.pathOn n && s.shotsDue.any (fun e => decide (e.path = n)))

/-- Whether the tick was a fault tick for a meter point: an enabled path with a due entry fired no metrology shot
(R218). -/
def State.faultTick (s : State) (x : Nat) : Bool := (s.duePaths x).any (fun n => decide (s.metShots n = []))

/-- The SHOT block's Compute for a meter point, whether or not it is enabled: its paths fire by their own enables (R215 to R222). A
meter point without an enabled path has flow state Unknown (R233). -/
def State.shotCompute (s : State) (x : Nat) : State :=
  let was := s.flag (F.SHOT_MSTAT_EMPTY x)
  let s1 := if was then s.clearCount x else s.emptyCount x
  let s2 := (s1.mpPaths x).foldl (fun t n => t.reducePath x n) s1
  let unknown := decide (s2.mpPaths x = [])
    || (!s2.flag (F.SHOT_MSTAT_EMPTY x) && (s2.mpPaths x).any (fun n => decide (s2.get (F.SHOT_P_TSTAT_STATE n) = 2)))
  let s3 := (s2.putB (F.SHOT_MSTAT_UNKNOWN x) unknown).putB (F.SHOT_MSTAT_RECTICK x) (s2.shot.recTick.getD x false)
  let s4 := s3.recovCompute x
  if s4.faultTick x then s4.markRecov x else s4

/-- The tick's counts of every path, of a meter point or not (R231). -/
def State.countPaths (s : State) : State := [0, 1, 2, 3].foldl State.countPath s

/-- Whether the tick's Compute is due: ticks run, and the Acoustic phase has ended. -/
def State.computeDue (s : State) : Bool :=
  s.ticking && decide (s.get F.FT_PHASE_PHASE = 1) && s.rm.phaseDone

/-- EMPTY_PIPE: in the Compute due, EPCNT reaches EP_COUNT and EMPTY sets (R221). -/
def execEmptyPipe (mp : MeterPoint) (s : State) : Host.Outcome State Fault Refusal :=
  let x := mpNum mp
  let s1 := s.emptyCount x
  .next (if s.computeDue ∧ s1.flag (F.SHOT_MSTAT_EMPTY x) then s1 else s)

/-- EMPTY_PIPE_CLEAR: in the Compute due, CLRCNT reaches 4 and EMPTY clears (R222). -/
def execEmptyPipeClear (mp : MeterPoint) (s : State) : Host.Outcome State Fault Refusal :=
  let x := mpNum mp
  let s1 := s.clearCount x
  .next (if s.computeDue ∧ s.flag (F.SHOT_MSTAT_EMPTY x) ∧ !s1.flag (F.SHOT_MSTAT_EMPTY x) then s1 else s)

/-- HOLD_EXPIRY: in the Compute due, a path that keeps no shot and has been held HOLD_TICKS ticks becomes UNKNOWN and
publishes zero (R219). -/
def execHoldExpiry (path : Fin 4) (s : State) : Host.Outcome State Fault Refusal :=
  let n := path.val
  match s.mpOfPath n, (s.pathSt n).held with
  | some x, some _ =>
    .next (if s.computeDue ∧ s.portOn n ∧ s.kept n = [] ∧ !s.flag (F.SHOT_MSTAT_EMPTY x)
        ∧ s.get (F.SHOT_RULE_HOLD_TICKS x) ≤ (s.pathSt n).heldFor then s.holdPath n (s.get (F.SHOT_RULE_HOLD_TICKS x)) else s)
  | _, _ => .next s

/-- RECOVERY_END: the Compute due takes the last tick off RECOV (R218). -/
def execRecoveryEnd (mp : MeterPoint) (s : State) : Host.Outcome State Fault Refusal :=
  let x := mpNum mp
  .next (if s.computeDue ∧ s.get (F.SHOT_MSTAT_RECOV x) = 1 then s.recovCompute x else s)

/-- DEPOSIT_BLOCK: in the Compute due, a path's block of 4,096 VALID metrology shots is complete (R205, R206). -/
def execDepositBlock (path : Fin 4) (s : State) : Host.Outcome State Fault Refusal :=
  .next (if s.computeDue then (s.depositBlock path.val).showHidden else s)

/-! ### The loopback check (R475) -/

/-- A loopback shot's result: 0 passes, 1 soft failure, 2 hard failure. -/
def State.judgeLoopback (s : State) (o : ShotOut) : Nat :=
  let tofOk (t : Nat) : Bool := decide (12800000 - 256 ≤ t ∧ t ≤ 12800000 + 256)
  let tol := s.get F.SAFE_LB_TOL
  let ref : Int := if o.asym then s.get F.AME_LBREF_ASYM else 0
  let dev := (o.dtof - ref).natAbs
  if o.cls = 0 ∧ tofOk o.tofUp ∧ tofOk o.tofDn then
    if dev ≤ tol then 0 else if dev ≤ 4 * tol then 1 else 2
  else 2

/-- A failing loopback shot: its entry, and the safe state at once or at the second in a row. -/
def State.loopbackFail (s : State) (hard asym : Bool) (data : Nat) : State :=
  let s1 := { s with shot := { s.shot with lbRun := s.shot.lbRun + 1 } }
  let code := if hard then 0x41 else 0x40
  let s2 := s1.detect code (b2n asym) data .exits
  if hard ∨ 2 ≤ s1.shot.lbRun then s2.enterSafe code else s2

/-- The check of the tick's loopback shots, records and discarded ones. -/
def State.loopbackCheck (s : State) : State :=
  let s1 := (s.ame.done.filter (fun o => decide (o.path = 15))).foldl (fun t o =>
    let j := t.judgeLoopback o
    if j = 0 then { t with shot := { t.shot with lbRun := 0 } }
    else t.loopbackFail (decide (j = 2)) o.asym (if o.cls = 0 then ofSigned 32 o.dtof else o.reason)) s
  (s1.ame.discarded.filter (fun d => decide (d.1.path = 15))).foldl (fun t d =>
    -- no DTOF exists: the data of this entry is not stated (log entry 2)
    let (v, t1) := t.drawLevel (2 ^ 32)
    t1.loopbackFail false d.2 v) s1

/-! ### Zero calibration (R223 to R226) -/

/-- The population standard deviation, rounded to nearest (R224). -/
def spreadOf (l : List Int) : Nat :=
  let n := l.length
  let v := ((n : Int) * sumInt (l.map (fun x => x * x)) - sumInt l * sumInt l).toNat
  if n = 0 then 0
  else
    let r := isqrt v / n
    if (2 * r + 1) * (2 * r + 1) * (n * n) ≤ 4 * v then r + 1 else r

/-- The values a path's 256 shots give: ZOFF, ZDELTA, DREF, spread (R224). -/
def zcValues (l : List (Int × Int × Nat)) : Int × Int × Nat × Nat :=
  let n := l.length
  (roundDiv (sumInt (l.map (fun x => x.1))) n, roundDiv (sumInt (l.map (fun x => x.2.1))) (2 * n),
   (roundDiv (sumNat (l.map (fun x => x.2.2)) : Nat) n).toNat, spreadOf (l.map (fun x => x.1)))

/-- Collection ends: the values are stored as one journal row, or the calibration is refused (R224, R226). -/
def State.zcEnd (s : State) : State :=
  match s.shot.zc with
  | none => s
  | some z =>
    let vals := z.paths.map (fun p => (p.1, zcValues p.2))
    if vals.any (fun v => decide (s.get F.SHOT_ZCCFG_SPREAD < v.2.2.2.2)) then s.zcRefuse 1
    else if vals.any (fun v => decide (256 * s.get F.SHOT_ZCMAX_MAXOFF < v.2.1.natAbs)) then s.zcRefuse 2
    else
      let row : ZcStore := ⟨z.mp, vals, false⟩
      let s1 := { s with shot := { s.shot with zc := none }, jrn := { s.jrn with zcRow := some row, due := true } }
      let s2 := (s1.put F.SHOT_ZCSTAT_STATE 2).put F.BILL_JRNL_PEND (s1.get F.BILL_JRNL_PEND + 1)
      vals.foldl (fun t v =>
        t.legal 0x30 ([byte z.mp, byte v.1] ++ bytesLE 4 (t.get (F.SHOT_P_ZOFF_ZOFF v.1))
          ++ bytesLE 4 (ofSigned 32 v.2.1))) s2

/-- Whether collection ends in this Compute: every path holds 256 shots and the tick's journal work leaves room for the
row (R224). -/
def State.zcFull (s : State) : Bool :=
  match s.shot.zc with
  | none => false
  | some z => decide (z.ticks ≠ 0) && z.paths.all (fun p => decide (256 ≤ p.2.length))
      && decide (s.load ≤ s.rows - 1)

/-- Whether collection has timed out (Table 6.8, cause 3). -/
def State.zcLate (s : State) : Bool :=
  match s.shot.zc with
  | none => false
  | some z => decide (s.get F.SHOT_ZCCFG_TIMEOUT ≤ z.ticks) && z.paths.any (fun p => decide (p.2.length < 256))

/-- A Compute's work on a running calibration: cause 4, the end of collection, or cause 3 (R224, R226). -/
def State.zcCompute (s : State) : State :=
  match s.shot.zc with
  | none => s
  | some z =>
    if s.flag (F.SHOT_MSTAT_EMPTY z.mp) then s.zcRefuse 4
    else if s.zcFull then s.zcEnd
    else if s.zcLate then s.zcRefuse 3
    else s

/-- A Capture of a running calibration: its first fixes the calibrated paths (R223). -/
def State.zcCapture (s : State) : State :=
  match s.shot.zc with
  | none => s
  | some z =>
    let ps := if z.ticks = 0 then (s.mpPaths z.mp).map (fun n => (n, ([] : List (Int × Int × Nat)))) else z.paths
    { s with shot := { s.shot with zc := some { z with ticks := z.ticks + 1, paths := ps } } }

/-- Stored values come into force at the first Capture after their commit has closed (R225). Answers the meter point. -/
def State.zcInForce (s : State) : State × Option Nat :=
  match s.jrn.zcRow with
  | some z =>
    if z.committed then
      let s1 := z.paths.foldl (fun t (v : Nat × Int × Int × Nat × Nat) =>
        let t1 := ((t.putI (F.SHOT_P_ZOFF_ZOFF v.1) v.2.1).putI (F.SHOT_P_DELTA_DELTA v.1) v.2.2.1).put
          (F.SHOT_P_DREF_DREF v.1) v.2.2.2.1
        let t2 := (t1.put (F.SHOT_P_ZSPR_SPREAD v.1) v.2.2.2.2).clr (F.AME_P_STAT_ZSTALE v.1)
        { t2 with jrn := { t2.jrn with hid := { t2.jrn.hid with zdelta := t2.jrn.hid.zdelta.set v.1 v.2.2.1 } } }) s
      let out := z.paths.map (fun v => (v.1, v.2.1, v.2.2.2.2))
      let s2 := ((s1.put F.SHOT_ZCSTAT_STATE 0).put F.SHOT_ZCSTAT_RESULT 1).put F.SHOT_ZCSTAT_CAUSE 0
      ({ s2 with jrn := { s2.jrn with zcRow := none }, shot := { s2.shot with zcOut := some (.ok out) } }, some z.mp)
    else (s, none)
  | none => (s, none)

/-- The cause that refuses a calibration at its command, 0 for none: 5 is checked before 4 (Table 6.8). -/
def State.zcCause (s : State) (x : Nat) : Nat :=
  if s.mpOn x = false ∨ s.flag F.AME_CTRL_EN = false ∨ s.mpPaths x = [] then 5 else if s.flag (F.SHOT_MSTAT_EMPTY x) then 4 else 0

/-- A zero calibration starts, or is refused at the command (R223, R226). -/
def State.zcStart (s : State) (x : Nat) : State :=
  let s1 := ((s.put F.SHOT_ZCSTAT_MP x).put F.SHOT_ZCSTAT_LEAST 0).set1 F.CMD_STAT_ZCBUSY
  let s2 := { s1 with shot := { s1.shot with zc := some ⟨x, 0, []⟩, zcOut := none } }
  let s3 := s2.put F.SHOT_ZCSTAT_STATE 1
  if s.zcCause x = 0 then s3 else s3.zcRefuse (s.zcCause x)

/-- ZEROCAL_COLLECTION_END: in the Compute due every path holds 256 shots and the row has room (R224). -/
def execZerocalCollectionEnd (s : State) : Host.Outcome State Fault Refusal :=
  .next (if s.computeDue ∧ s.zcFull then s.zcCompute else s)

/-- ZEROCAL_TIMEOUT: in the Compute due a path still has fewer than 256 shots TIMEOUT ticks after collection began
(R226, cause 3). -/
def execZerocalTimeout (s : State) : Host.Outcome State Fault Refusal :=
  .next (if s.computeDue ∧ s.zcLate then s.zcCompute else s)

end Sys2Proof.Machine
end

