-- ==== Sys2Proof/Machine/Water.lean ====
section
/-! DEFINITION. Properties of the media of Table 7.1: water by IAPWS-IF97 region 1 and the IAPWS 2008 viscosity, the
glycol tables, and the gas equations of R238, R261, R262 and R264. The coefficients of IF97, of its saturation equation
and of the viscosity are those of the published formulations that R252 and Table 7.1 name (PRESUMED, log entry 14); the
glycol tables and SGERG-88 are constants of Config (log entry 15). -/

namespace Sys2Proof.Machine

/-- One unit of the fixed-point numbers of this file. -/
def fxOne : Int := 2 ^ 160

/-- A decimal `m × 10^-e` in fixed point. -/
def fxDec (m : Int) (e : Nat) : Int := roundDiv (m * fxOne) (10 ^ e)

/-- A product. -/
def fxMul (a b : Int) : Int := roundDiv (a * b) (2 ^ 160)

/-- A quotient. -/
def fxDiv (a b : Int) : Int := roundDivI (a * fxOne) b

/-- A power with a natural exponent. -/
def fxPow (a : Int) : Nat → Int
  | 0 => fxOne
  | n + 1 => fxMul (fxPow a n) a

/-- A power with an integer exponent. -/
def fxZpow (a : Int) (j : Int) : Int := if 0 ≤ j then fxPow a j.toNat else fxDiv fxOne (fxPow a (-j).toNat)

/-- A square root. -/
def fxSqrt (a : Int) : Int := (isqrt (a.toNat * 2 ^ 160) : Int)

/-- The exponential function, by its series. -/
def fxExp (x : Int) : Int :=
  ((List.range 60).foldl (fun (acc : Int × Int) k => (acc.1 + acc.2, roundDiv (fxMul acc.2 x) (k + 1))) (0, fxOne)).1

/-! ### IAPWS-IF97, region 1 -/

/-- One term of the basic equation: the exponents I and J and the coefficient `m × 10^-e`. -/
structure If97Term where
  i : Nat
  j : Int
  m : Int
  e : Nat
  deriving DecidableEq, Repr

/-- The terms of the basic equation of region 1. -/
def if97Terms : List If97Term :=
  [⟨0, -2, 14632971213167, 14⟩, ⟨0, -1, -84548187169114, 14⟩, ⟨0, 0, -37563603672040, 13⟩, ⟨0, 1, 33855169168385, 13⟩,
   ⟨0, 2, -95791963387872, 14⟩, ⟨0, 3, 15772038513228, 14⟩, ⟨0, 4, -16616417199501, 15⟩, ⟨0, 5, 81214629983568, 17⟩,
   ⟨1, -9, 28319080123804, 17⟩, ⟨1, -7, -60706301565874, 17⟩, ⟨1, -1, -18990068218419, 15⟩, ⟨1, 0, -32529748770505, 15⟩]
  ++ [⟨1, 1, -21841717175414, 15⟩, ⟨1, 3, -52838357969930, 18⟩, ⟨2, -3, -47184321073267, 17⟩, ⟨2, 0, -30001780793026, 17⟩,
   ⟨2, 1, 47661393906987, 18⟩, ⟨2, 3, -44141845330846, 19⟩, ⟨2, 17, -72694996297594, 29⟩, ⟨3, -4, -31679644845054, 18⟩,
   ⟨3, 0, -28270797985312, 19⟩, ⟨3, 6, -85205128120103, 23⟩, ⟨4, -5, -22425281908000, 19⟩, ⟨4, -2, -65171222895601, 20⟩]
  ++ [⟨4, 10, -14341729937924, 26⟩, ⟨5, -8, -40516996860117, 20⟩, ⟨8, -11, -12734301741641, 22⟩,
   ⟨8, -6, -17424871230634, 23⟩, ⟨21, -29, -68762131295531, 32⟩, ⟨23, -31, 14478307828521, 33⟩,
   ⟨29, -38, 26335781662795, 36⟩, ⟨30, -39, -11947622640071, 36⟩, ⟨31, -40, 18228094581404, 37⟩,
   ⟨32, -41, -93537087292458, 39⟩]

/-- The derivatives of the basic equation: γ_π, γ_τ, γ_ππ, γ_ττ, γ_πτ. -/
structure If97 where
  gp : Int
  gt : Int
  gpp : Int
  gtt : Int
  gpt : Int
  deriving DecidableEq, Repr

/-- The sum of the terms at π' = 7.1 − π and τ' = τ − 1.222. -/
def if97Sum (pi tau : Int) : If97 :=
  if97Terms.foldl (fun (a : If97) t =>
    let n := fxDec t.m t.e
    let p (k : Nat) : Int := if t.i < k then 0 else fxPow pi (t.i - k)
    let q (k : Int) : Int := fxZpow tau (t.j - k)
    let i : Int := t.i
    let term (c : Int) (x y : Int) : Int := if c = 0 then 0 else c * fxMul n (fxMul x y)
    { gp := a.gp - term i (p 1) (q 0)
      gt := a.gt + term t.j (p 0) (q 1)
      gpp := a.gpp + term (i * (i - 1)) (p 2) (q 0)
      gtt := a.gtt + term (t.j * (t.j - 1)) (p 0) (q 2)
      gpt := a.gpt - term (i * t.j) (p 1) (q 1) }) ⟨0, 0, 0, 0, 0⟩

/-- Water at a temperature in 1/65536 K (absolute) and a pressure in 1/256 Pa. -/
def if97 (t p : Nat) : If97 × Int :=
  let tau : Int := (1386 * 65536 * fxOne) / t
  let pi : Int := (p : Int) * fxOne / (16530000 * 256)
  (if97Sum (fxDec 71 1 - pi) (tau - fxDec 1222 3), tau)

/-- The density in kg/m³, in fixed point: 1/v with v = γ_π R T / p*, R = 461.526 J/(kg K) and p* = 16.53 MPa. -/
def waterDensity (t p : Nat) : Int :=
  let g := (if97 t p).1
  fxDiv (16530000 * fxOne) (roundDiv (fxMul g.gp (fxDec 461526 3) * t) 65536)

/-- The specific enthalpy in J/kg: γ_τ R T*. -/
def waterEnthalpy (t p : Nat) : Int := fxMul (if97 t p).1.gt (fxDec (461526 * 1386) 3)

/-- The speed of sound in m/s. -/
def waterSound (t p : Nat) : Int :=
  let (g, tau) := if97 t p
  let num := fxMul g.gp g.gp
  let d := g.gp - fxMul tau g.gpt
  let den := fxDiv (fxMul d d) (fxMul (fxMul tau tau) g.gtt) - g.gpp
  fxSqrt (fxMul (roundDiv (fxDec 461526 3 * t) 65536) (fxDiv num den))

/-- The saturation pressure of IF97 in 1/256 Pa, rounded up, so that water at it is a liquid (R252). -/
def waterSat (t : Nat) : Nat :=
  let tk : Int := (t : Int) * fxOne / 65536
  let th := tk + fxDiv (fxDec (-23855557567849) 14) (tk - fxDec 65017534844798 11)
  let th2 := fxMul th th
  let a := th2 + fxMul (fxDec 11670521452767 10) th + fxDec (-72421316703206) 8
  let b := fxMul (fxDec (-17073846940092) 12) th2 + fxMul (fxDec 12020824702470 9) th + fxDec (-32325550322333) 7
  let c := fxMul (fxDec 14915108613530 12) th2 + fxMul (fxDec (-48232657361591) 10) th + fxDec 40511340542057 8
  let r := fxDiv (2 * c) (fxSqrt (fxMul b b - 4 * fxMul a c) - b)
  let p := fxPow r 4
  (p * (256 * 1000000) / fxOne).toNat + 1

/-- The coefficients of the first factor of the viscosity, times 10^7. -/
def viscH : List Int := [16775200, 22046200, 6366564, -2416050]

/-- The coefficients H_ij of the second factor: i, j and the coefficient times 10^11. -/
def viscHij : List (Nat × Nat × Int) :=
  [(0, 0, 52009400000), (1, 0, 8508950000), (2, 0, -108374000000), (3, 0, -28955500000), (0, 1, 22253100000),
   (1, 1, 99911500000), (2, 1, 188797000000), (3, 1, 126613000000), (5, 1, 12057300000), (0, 2, -28137800000),
   (1, 2, -90685100000)]
  ++ [(2, 2, -77247900000), (3, 2, -48983700000), (4, 2, -25704000000), (0, 3, 16191300000), (1, 3, 25739900000),
   (0, 4, -3253720000), (3, 4, 6984520000), (4, 5, 872102000), (3, 6, -435673000), (5, 6, -59326400)]

/-- The viscosity in µPa·s at a temperature in 1/65536 K and a density in fixed point. -/
def waterViscosity (t : Nat) (rho : Int) : Int :=
  let tb := fxDiv ((t : Int) * fxOne / 65536) (fxDec 647096 3)
  let rb := rho / 322
  let inv := fxDiv fxOne tb
  let s0 := sumInt ((List.range 4).map (fun i => fxMul (fxDec (viscH.getD i 0) 7) (fxPow inv i)))
  let mu0 := fxDiv (100 * fxSqrt tb) s0
  let s1 := sumInt (viscHij.map (fun h =>
    fxMul (fxDec h.2.2 11) (fxMul (fxPow (inv - fxOne) h.1) (fxPow (rb - fxOne) h.2.1))))
  fxMul mu0 (fxExp (fxMul rb s1))

/-! ### Media (Tables 7.1 and 7.8) -/

/-- The kinds of medium. -/
inductive MediumKind where
  | water | glycol | gas
  deriving DecidableEq, Repr

/-- The kind that a MEDIUM code selects; none for a reserved code (Table 7.1). -/
def mediumKind (m : Nat) : Option MediumKind :=
  if m = 0 then some .water else if m = 0xC ∨ m = 0xD then some .gas
  else if m = 6 ∨ 0xE ≤ m then none else some .glycol

/-- The lower end of a medium's range in °C. -/
def mediumLo (m : Nat) : Int :=
  if m = 1 ∨ m = 7 then -2 else if m = 2 ∨ m = 8 then -6 else if m = 3 then -12 else if m = 4 then -20
  else if m = 9 then -11 else if m = 0xA then -19 else if m = 5 ∨ m = 0xB then -30 else if m = 0xC ∨ m = 0xD then -25 else 0

/-- The upper end of a medium's range in °C. -/
def mediumHi (m : Nat) : Int := if m = 0 then 150 else if m = 0xC ∨ m = 0xD then 55 else 120

/-- Whether a temperature in 1/65536 K, as °C, lies in a medium's range. -/
def mediumHas (m : Nat) (t : Int) : Bool := decide (65536 * mediumLo m ≤ t ∧ t ≤ 65536 * mediumHi m)

/-- The density at 20 °C that Table 7.8 states, in kg/m³. -/
def glycolDensity20 (m : Nat) : Nat :=
  if m = 1 then 1012 else if m = 2 then 1025 else if m = 3 then 1038 else if m = 4 then 1052 else if m = 5 then 1066
  else if m = 7 then 1007 else if m = 8 then 1015 else if m = 9 then 1024 else if m = 0xA then 1032 else 1039

/-- An entry of a glycol table; the density at 20 °C is the one stated. -/
def glycolEntry (m prop : Nat) (k : Int) : Int :=
  if prop = 0 ∧ k = 8 then 65536 * glycolDensity20 m else (Config.glycol m prop k).toNat

/-- Linear interpolation in a glycol table at 2.5 K steps (R254). -/
def glycolAt (m prop : Nat) (t : Int) : Int :=
  let k := t / 163840
  let f := t % 163840
  roundDiv (glycolEntry m prop k * (163840 - f) + glycolEntry m prop (k + 1) * f) 163840

/-- The integral of the heat capacity from 0 °C to a temperature at or above it, in 2^-8 J/kg × 2 × 163840² × 65536 units of
one step: whole steps, then the last part. -/
def glycolHeatUp (m : Nat) (t : Nat) : Int :=
  let k := t / 163840
  let f : Int := t % 163840
  let c (i : Int) : Int := glycolEntry m 1 i
  let whole := sumInt ((List.range k).map (fun (i : Nat) => (c i + c (i + 1)) * (163840 * 163840)))
  whole + c k * (2 * 163840 - f) * f + c (k + 1) * (f * f)

/-- The same below 0 °C, negative. -/
def glycolHeatDown (m : Nat) (t : Nat) : Int :=
  let k := t / 163840
  let f : Int := t % 163840
  let c (i : Int) : Int := glycolEntry m 1 (-i)
  let whole := sumInt ((List.range k).map (fun (i : Nat) => (c i + c (i + 1)) * (163840 * 163840)))
  Int.neg (whole + c k * (2 * 163840 - f) * f + c (k + 1) * (f * f))

/-- The enthalpy above 0 °C in 2^-8 J/kg, by integrating the heat capacity (R254). -/
def glycolEnthalpy (m : Nat) (t : Int) : Int :=
  let x := if 0 ≤ t then glycolHeatUp m t.toNat else glycolHeatDown m (-t).toNat
  roundDiv x (2 * 163840 * 65536)

/-- Kelvin of a temperature in °C, both in 1/65536 K; never below 1. -/
def kelvin (t : Int) : Nat := max 1 (t + 17901158).toNat

/-- The pressure at which water is evaluated: max(P, p_sat(T)), in 1/256 Pa (R252). -/
def waterPressure (pKpa : Nat) (t : Int) : Nat := max (256000 * pKpa) (waterSat (kelvin t))

/-- The density with a 16-bit fraction (R256). -/
def mediumDensity (m pKpa : Nat) (t : Int) : Nat :=
  if m = 0 then (roundDiv (waterDensity (kelvin t) (waterPressure pKpa t)) (2 ^ 144)).toNat else (glycolAt m 0 t).toNat

/-- The specific enthalpy with an 8-bit fraction (R256). -/
def mediumEnthalpy (m pKpa : Nat) (t : Int) : Int :=
  if m = 0 then roundDiv (waterEnthalpy (kelvin t) (waterPressure pKpa t)) (2 ^ 152) else glycolEnthalpy m t

/-- The kinematic viscosity in 2^-64 m²/s (R238). -/
def mediumNu (m pKpa : Nat) (t : Int) : Nat :=
  if m = 0 then
    let rho := waterDensity (kelvin t) (waterPressure pKpa t)
    (roundDiv (fxDiv (waterViscosity (kelvin t) rho) rho) (2 ^ 96 * 1000000)).toNat
  else (glycolAt m 2 t).toNat

/-- The speed of sound in 2^-32 m/s (R259). -/
def mediumSound (m pKpa : Nat) (t : Int) : Int :=
  if m = 0 then waterSound (kelvin t) (waterPressure pKpa t) / 2 ^ 128 else 65536 * glycolAt m 3 t

/-! ### The acoustic temperature (R259, R260) -/

/-- The temperature between two ends at which a function, monotone between them, passes a value. -/
def rootBetween (f : Int → Int) (c a b : Int) : Int :=
  let up := decide (f a ≤ f b)
  let passed (t : Int) : Bool := if up then decide (f t ≤ c) else decide (c < f t)
  let k := bisect (fun j => decide (a + j ≤ b) && passed (a + j)) 24 0
  if (f (a + k + 1) - c).natAbs < (f (a + k) - c).natAbs then a + k + 1 else a + k

/-- The highest point of a function with one peak between two ends. -/
def peakBetween (f : Int → Int) (a b : Int) : Int :=
  a + bisect (fun j => decide (a + j ≤ b) && decide (f (a + j - 1) ≤ f (a + j))) 24 0

/-- The ends of the spans on which the speed of sound of a medium is monotone: the 2.5 K steps of its range, and for water
the peak. -/
def soundGrid (m pKpa : Nat) : List Int :=
  let lo := 65536 * mediumLo m
  let hi := 65536 * mediumHi m
  let steps := ((List.range 73).map (fun (i : Nat) => (i : Int) * 163840 - 30 * 65536)).filter (fun t => decide (lo < t ∧ t < hi))
  let g := [lo] ++ steps ++ [hi]
  if m = 0 then sortInt (peakBetween (mediumSound m pKpa) (60 * 65536) (90 * 65536) :: g) else g

/-- The temperatures at which the speed of sound of a medium takes a value. -/
def soundRoots (m pKpa : Nat) (c : Int) : List Int :=
  let f := mediumSound m pKpa
  let g := soundGrid m pKpa
  ((g.zip (g.drop 1)).filter (fun x =>
    decide ((f x.1 ≤ c ∧ c ≤ f x.2) ∨ (f x.2 ≤ c ∧ c ≤ f x.1)))).map (fun x => rootBetween f c x.1 x.2)

/-- The root nearest to a temperature (R259). -/
def nearestTo (t : Int) : List Int → Option Int
  | [] => none
  | x :: l => match nearestTo t l with
    | none => some x
    | some y => if (x - t).natAbs ≤ (y - t).natAbs then some x else some y

/-- Whether the speed of sound changes by less than 0.6 m/s per K at a temperature (R260): the difference over 1/8 K. -/
def soundFlat (m pKpa : Nat) (t : Int) : Bool :=
  decide (10 * 8 * (mediumSound m pKpa (t + 4096) - mediumSound m pKpa (t - 4096)).natAbs < 6 * 2 ^ 32)

/-! ### Gas (R238, R261, R262, R264) -/

/-- The configured composition of a gas: HS, D, XCO2, XH2 (0 for MEDIUM 0xC) and GAMMA as stored. -/
structure GasCfg where
  hs : Nat
  d : Nat
  xco2 : Nat
  xh2 : Nat
  gamma : Nat
  deriving DecidableEq, Repr

/-- The compressibility of the blend of R262 at a pressure in 1/256 Pa and a temperature in 1/65536 K. -/
def GasCfg.z (g : GasCfg) (p t : Nat) : Nat :=
  let y := 1000 - g.xh2
  (Config.sgerg (y * g.hs + g.xh2 * 1275) (y * g.d * 10000 + g.xh2 * 45613056) (y * g.xco2) g.xh2 p t).toNat

/-- The molar mass of the model of R264 at a fraction `x` of `n`, in 10^-4 × 2^-16 × 10^-1 / n g/mol:
(1 - x) × 28.9626 × d + x × 2.01588. -/
def GasCfg.molar (g : GasCfg) (x n : Nat) : Nat := (n - x) * 2896260 * g.d + x * 201588 * 65536

/-- Whether the model's speed at a fraction x of n, at `t` in 1/65536 K, is at most `c` in 2^-32 m/s. The model is
c² = γ R T / M with c_p / R = (1 - x) Γ / (Γ - 1) + x × 1.405 / 0.405 and γ = c_p / (c_p - R). -/
def GasCfg.slower (g : GasCfg) (x n t c : Nat) : Bool :=
  -- c_p / R over the denominator n × gamma × 405, with Γ - 1 = gamma / 10^4
  let cp := (n - x) * (10000 + g.gamma) * 405 + x * 1405 * g.gamma
  let den := n * g.gamma * 405
  -- γ R T / M in m²/s²: cp / (cp - den) × 8.3144626 × (t / 65536) × (n × 65536 × 10^5 / molar) × 1000
  decide (cp * 83144626 * t * n * 100000 * 1000 * 2 ^ 64 ≤ c * c * ((cp - den) * g.molar x n * 10000000))

/-- The hydrogen estimate in 0.1 %, and whether it clamped (R264). -/
def GasCfg.estimate (g : GasCfg) (t c : Nat) : Nat × Bool :=
  if !g.slower 0 1 t c then (0, true)
  else if g.slower 1 1 t c then (1000, true)
  else (((List.range 1000).filter (fun k => g.slower (2 * k + 1) 2000 t c)).length, false)

/-- The kinematic viscosity of a gas in 2^-64 m²/s, from its density in kg/m³ with a 16-bit fraction (R238). -/
def GasCfg.nu (g : GasCfg) (rho : Nat) : Nat :=
  (roundDiv ((((1000 - g.xh2) * 108 + g.xh2 * 89) * 2 ^ 80 : Nat) : Int) (10 ^ 10 * rho)).toNat

/-- The density ρ_g = p M / (Z R T) of a gas with a 16-bit fraction (R238): the molar mass is that of R264 at the
configured fraction. -/
def GasCfg.density (g : GasCfg) (p t z : Nat) : Nat :=
  (roundDiv (((p * g.molar g.xh2 1000) * 10000000 * 2 ^ 46 : Nat) : Int) (256 * 1000 * 100000 * 1000 * z * 83144626 * t)).toNat

end Sys2Proof.Machine
end

