-- ==== Sys2Proof/Machine/Meter.lean ====
section
/-! DEFINITION. The meter points: from path times to flow and volume, heat and cooling energy, gas conversion, the
acoustic temperature, the two flow tampers, test pulses and the tick record (spec 07_meter_points.md). -/

namespace Sys2Proof.Machine

/-! ### A meter point's hidden values -/

/-- The hidden values of a meter point. -/
def State.mp (s : State) (x : Nat) : MpSt := s.mps.getD x MpSt.init

/-- Replaces them. -/
def State.setMp (s : State) (x : Nat) (m : MpSt) : State := { s with mps := s.mps.set x m }

/-! ### The profile table (R237) -/

/-- The points of the table, which ends before the first Re of 0xFFFF_FFFF. -/
def State.profile (s : State) (x : Nat) : List (Nat × Nat) :=
  ((List.range 16).map (fun j => (s.get (F.MP_KRE_RE x j), s.get (F.MP_KF_K x j)))).takeWhile (fun p => p.1 ≠ 0xFFFFFFFF)

/-- Whether the Re values of a table rise strictly. -/
def rising : List (Nat × Nat) → Bool
  | a :: b :: t => decide (a.1 < b.1) && rising (b :: t)
  | _ => true

/-- Whether the table is valid: it has a point and rises strictly. -/
def profileOk (l : List (Nat × Nat)) : Bool := !l.isEmpty && rising l

/-- K(Re), linear between the points. -/
def profileAt : List (Nat × Nat) → Nat → Nat
  | [], _ => 0
  | [p], _ => p.2
  | p :: q :: t, re =>
    if re ≤ p.1 then p.2
    else if re < q.1 then
      ((p.2 : Int) + roundDiv (((q.2 : Int) - p.2) * ((re : Int) - p.1)) (q.1 - p.1)).toNat
    else profileAt (q :: t) re

/-- The test pulses computed in the tick that ended are emitted over the tick period that begins (R265). -/
def State.emitPulses (s : State) (x : Nat) : State :=
  let m := s.mp x
  s.setMp x { m with emit := (s.uptime, 1024 * s.get F.FT_PERIOD_N, m.pulses), pulses := 0 }

/-- Whether a test pulse of a meter point is high: `n` pulses begin evenly spaced over the period, and each is high for 0.5 ms
(R265). -/
def State.pulseHigh (s : State) (x : Nat) : Bool :=
  let (start, len, n) := (s.mp x).emit
  let d := s.uptime - start
  decide (0 < n ∧ d < len ∧ 125 * (d * n % len) < 2048 * n)

/-- A gas meter point has no acoustic temperature (R259). -/
def State.clearTac (s : State) (x : Nat) : State :=
  if mediumKind (s.get (F.MP_CFG_MEDIUM x)) == some .gas then s.clr (F.MP_TAC_T x) else s

/-- A meter point's Capture: with EN = 1 in force the profile table is checked (R237), the pulses of the new period begin (R265), and
a gas shows no acoustic temperature (R259). -/
def State.mpCapture (s : State) (x : Nat) : State :=
  let s1 := (s.emitPulses x).clearTac x
  if s.flag (F.MP_CTRL_EN x) then s1.putB (F.MP_STAT_CFGERR x) (!profileOk (s.profile x)) else s1

/-! ### Temperatures (R235, R238, R257) -/

/-- The temperature of a named sensor in 1/65536 K, as °C: none where no sensor is named, the input is not enabled, or it
reads open or short. -/
def State.sensor (s : State) (i : Nat) : Option Int :=
  if i ≤ 5 ∧ s.flag F.SENS_CTRL_EN ∧ bit (s.get F.SENS_CTRL_TSEN) i ∧ s.get (F.SENS_TSTAT_STATE i) = 0 then
    some (s.getI (F.SENS_TVAL_T i)) else none

/-- The temperatures of the flow pipe (or the gas) and of the return pipe. -/
def State.tFlow (s : State) (x : Nat) : Option Int := s.sensor (s.get (F.MP_CFG_SENS1 x))
def State.tRet (s : State) (x : Nat) : Option Int := s.sensor (s.get (F.MP_CFG_SENS2 x))

/-- A temperature that lies in the medium's range. -/
def State.inMedium (s : State) (x : Nat) (t : Option Int) : Option Int :=
  t.filter (fun v => mediumHas (s.get (F.MP_CFG_MEDIUM x)) v)

/-- Whether the medium is a gas. -/
def State.isGas (s : State) (x : Nat) : Bool := mediumKind (s.get (F.MP_CFG_MEDIUM x)) == some .gas

/-- The valid temperature of the pipe that holds the paths; for a gas, the gas temperature. -/
def State.tVol (s : State) (x : Nat) : Option Int :=
  s.inMedium x (if s.isGas x ∨ s.flag (F.MP_CFG_POS x) then s.tFlow x else s.tRet x)

/-- The T_v that viscosity uses: the valid one, else the last valid one, else the stated value (R238). -/
def State.tVolUsed (s : State) (x : Nat) : Int :=
  match s.tVol x with
  | some t => t
  | none => match (s.mp x).lastTv with
    | some t => t
    | none => if s.isGas x then s.getI (F.MP_TSUB_TSUB x) else 20 * 65536

/-- The temperatures that the application needs (R257): both pipes for heat and cooling, the gas temperature for a gas. -/
def State.needed (s : State) (x : Nat) : List (Option Int) :=
  if s.isGas x then [s.tFlow x] else if s.get (F.MP_CFG_APPL x) = 0 then [] else [s.tFlow x, s.tRet x]

/-- Whether a needed temperature is invalid, and whether one lies outside the medium's range. -/
def State.tempFlags (s : State) (x : Nat) : Bool × Bool :=
  let n := s.needed x
  (n.any (fun t => (s.inMedium x t).isNone), n.any (fun t => t.isSome && (s.inMedium x t).isNone))

/-! ### Properties (R252 to R255) -/

/-- Evaluates the properties of water or glycol. An enthalpy without a valid temperature keeps its last value. -/
def State.evalProps (s : State) (x : Nat) : State :=
  let m := s.get (F.MP_CFG_MEDIUM x)
  let p := s.get (F.MP_WPRESS_P x)
  let tv := s.tVolUsed x
  let old := ((s.mp x).props).getD ⟨0, 0, 0, 0⟩
  let h (t : Option Int) (keep : Int) : Int := match s.inMedium x t with
    | some v => mediumEnthalpy m p v
    | none => keep
  let props : Props := ⟨mediumDensity m p tv, h (s.tFlow x) old.hF, h (s.tRet x) old.hR, mediumNu m p tv⟩
  let s1 := s.setMp x { s.mp x with props := some props, propKey := (p, m) }
  if m = 0 then s1.put (F.MP_PRESS_P x) (satNat 32 (waterPressure p tv)) else s1

/-- The properties are evaluated when a new sample, a change of MP_WPRESS or a change of medium comes into force, and when
none have been evaluated since start-up (R255). -/
def State.refreshProps (s : State) (x : Nat) : State :=
  let m := s.mp x
  if s.isGas x then s
  else if s.sens.newT ∨ m.props.isNone ∨ m.propKey ≠ (s.get (F.MP_WPRESS_P x), s.get (F.MP_CFG_MEDIUM x)) then s.evalProps x
  else s

/-! ### Gas (R261 to R264) -/

/-- The gas composition in force; XH2 counts for MEDIUM 0xD alone (R262). -/
def State.gasCfg (s : State) (x : Nat) : GasCfg :=
  ⟨s.get (F.MP_GAS0_HS x), s.get (F.MP_GAS0_D x), s.get (F.MP_GAS1_XCO2 x),
   if s.get (F.MP_CFG_MEDIUM x) = 0xD then s.get (F.MP_GAS1_XH2 x) else 0, s.get (F.MP_GAS1_GAMMA x)⟩

/-- Whether a pressure lies in the range of a gas medium, 0.08 MPa to 1.2 MPa (R262, R263; log entry 113). -/
def gasPressureOk (p : Int) : Bool := decide (80000 * 256 ≤ p ∧ p ≤ 1200000 * 256)

/-- The conditions of a gas tick: pressure (1/256 Pa), temperature (1/65536 K, as °C), whether the bridge is enabled and
its sample invalid, and whether the conversion is disturbed (R261, R263). -/
structure GasTick where
  p : Nat
  t : Int
  pInvalid : Bool
  disturbed : Bool
  deriving DecidableEq, Repr

/-- The conditions of the tick. -/
def State.gasTick (s : State) (x : Nat) : GasTick :=
  let t := s.tVol x
  let on := s.flag F.SENS_CTRL_PBEN
  let bad := on && decide (s.get F.SENS_PBSTAT_STATE ≠ 0)
  let ps := s.getI F.SENS_PBVAL_P + (if s.flag (F.MP_GASB_PMODE x) then (s.get (F.MP_PATM_PATM x) : Int) else 0)
  let usable := !bad && gasPressureOk ps
  let p := if on ∧ usable then ps.toNat else s.get (F.MP_PSUB_PSUB x)
  ⟨p, t.getD (s.getI (F.MP_TSUB_TSUB x)), bad, (on && !usable) || t.isNone⟩

/-- The base temperature in 1/327680 K. -/
def State.baseT (s : State) (x : Nat) : Nat := if s.flag (F.MP_GASB_TB x) then 94420992 else 89505792

/-- The conversion factor as a fraction: its numerator and its denominator (R261). -/
def State.convRatio (s : State) (x : Nat) (g : GasTick) : Nat × Nat :=
  let c := s.gasCfg x
  let zb := c.z (101325 * 256) (s.baseT x / 5)
  let z := c.z g.p (kelvin g.t)
  (g.p * s.baseT x * zb, 101325 * 256 * (5 * g.t + 89505792).toNat * z)

/-- Publishes MP_CONV, MP_Z, MP_ZB and MP_PRESS of a gas tick. -/
def State.publishGas (s : State) (x : Nat) (g : GasTick) : State :=
  let c := s.gasCfg x
  let (n, d) := s.convRatio x g
  let (f, s1) := s.fitU 32 (roundDiv ((n * 2 ^ 24 : Nat) : Int) d).toNat
  let s2 := (s1.put (F.MP_CONV_C x) f).put (F.MP_PRESS_P x) (satNat 32 g.p)
  (s2.put (F.MP_Z_Z x) (c.z g.p (kelvin g.t))).put (F.MP_ZB_Z x) (c.z (101325 * 256) (s.baseT x / 5))

/-! ### Flow (Table 7.3) -/

/-- The path times of an enabled path in 1/65536 ns; none where they are not valid (R236). -/
def State.pathTimes (s : State) (x n : Nat) : Option (Nat × Nat) :=
  let t0 := s.get (F.MP_P_T0_T0 x n)
  let up := s.get (F.SHOT_P_TUP_TOF n)
  let dn := s.get (F.SHOT_P_TDN_TOF n)
  if up ≤ t0 ∨ dn ≤ t0 then none else some ((up - t0) * 256, (dn - t0) * 256)

/-- The velocity of a path, step 2. -/
def State.pathV (s : State) (x n up dn : Nat) : Int :=
  let l : Int := s.get (F.MP_P_LEN_LEN x n)
  roundDiv (l * l * s.getI (F.SHOT_P_TDT_DTOF n) * (65536 * 1000 * 2 ^ 40)) (2 * s.get (F.MP_P_AX_AX x n) * up * dn)

/-- The speed of sound of a path, step 3. -/
def State.pathC (s : State) (x n up dn : Nat) : Nat :=
  (roundDiv ((s.get (F.MP_P_LEN_LEN x n) * (up + dn) * (65536 * 1000 * 2 ^ 32) : Nat) : Int) (2 * up * dn)).toNat

/-- The numerator and denominator of π, to 50 decimals. -/
def piNum : Nat := 314159265358979323846264338327950288419716939937511
def piDen : Nat := 10 ^ 50

/-- The results of Table 7.3, steps 2 to 9: each enabled path's velocity and speed of sound, and v_w, Re, K, v_m, q. -/
structure Flow where
  v : List (Nat × Int)
  c : List (Nat × Nat)
  re : Nat
  k : Nat
  vm : Int
  q : Int
  deriving DecidableEq, Repr

/-- Whether every enabled path of a meter point has valid times; each with its times. -/
def State.allTimes (s : State) (x : Nat) : List Nat → Option (List (Nat × Nat × Nat))
  | [] => some []
  | n :: t => match s.pathTimes x n, State.allTimes s x t with
    | some (u, d), some l => some ((n, u, d) :: l)
    | _, _ => none

/-- The kinematic viscosity of the tick in 2^-64 m²/s. -/
def State.nu (s : State) (x : Nat) : Nat :=
  if s.isGas x then
    let g := s.gasTick x
    let c := s.gasCfg x
    c.nu (c.density g.p (kelvin (s.tVolUsed x)) (c.z g.p (kelvin (s.tVolUsed x))))
  else (((s.mp x).props).getD ⟨0, 0, 0, 0⟩).nu

/-- Table 7.3, steps 1 to 9; none where path times are not valid. A sum that leaves its 64-bit format is a free value. -/
def State.flow (s : State) (x : Nat) : Option (Flow × State) :=
  match s.allTimes x (s.mpPaths x) with
  | none => none
  | some ts =>
    let v := ts.map (fun p => (p.1, s.pathV x p.1 p.2.1 p.2.2))
    let c := ts.map (fun p => (p.1, s.pathC x p.1 p.2.1 p.2.2))
    let (vw, s1) := s.fitS 64 (roundDiv (sumInt (v.map (fun p => (s.get (F.MP_P_W_W x p.1) : Int) * p.2))) (2 ^ 30))
    let d := s.get (F.MP_GEOM_D x)
    let re1 := satNat 32 (roundDiv ((vw.natAbs * d * 2 ^ 24 : Nat) : Int) (1000000 * s.nu x)).toNat
    let tab := s.profile x
    let re := satNat 32 (roundDiv ((profileAt tab re1 * re1 : Nat) : Int) (2 ^ 30)).toNat
    let k := profileAt tab re
    let (vm, s2) := s1.fitS 64 (roundDiv ((k : Int) * vw) (2 ^ 30))
    let (q, s3) := s2.fitS 64 (roundDiv (vm * (piNum * (d * d) * 65536 * 10 ^ 9)) (piDen * 4 * 10 ^ 12 * 2 ^ 40))
    some (⟨v, c, re, k, vm, q⟩, s3)

/-- q, in µL/s with a 16-bit fraction, is below a flow of `n` / 16 L/h (a signed bound). -/
def flowBelow (q n : Int) : Bool := decide (q * (3600 * 16) < n * (1000000 * 65536))

/-- The cut-off of R239: |q| is below QCUT. -/
def State.cutOff (s : State) (x : Nat) (q : Int) : Bool := flowBelow q.natAbs (s.get (F.MP_LIMITS_QCUT x))

/-- Publishes the results of R268 that Table 7.3 forms; MP_FLOW and MP_FLOWW read 0 below the cut-off (R239, R240). -/
def State.publishFlow (s : State) (x : Nat) (f : Flow) : State :=
  let q := if s.cutOff x f.q then 0 else f.q
  let wide := roundDiv (q * 3600) 1000000
  let (vel, s1) := s.fitS 32 (roundDiv f.vm (2 ^ 16))
  let s2 := (s1.putI (F.MP_FLOW_FLOW x) (satSigned 32 wide)).putB (F.MP_STAT_FLOWSAT x) (decide (satSigned 32 wide ≠ wide))
  let s3 := s2.putI (F.MP_FLOWW_FLOW x) (satSigned 32 (roundDiv (q * 3600) (1000000 * 4096)))
  ((s3.putI (F.MP_VEL_VEL x) vel).put (F.MP_RE_RE x) f.re).put (F.MP_KPROF_K x) f.k

/-! ### The two flow tampers (R242, R243) -/

/-- One Measured tick of a tamper run: what the run becomes, whether the tamper is raised and whether it has ended. -/
def TamperRun.tick (r : TamperRun) (cond : Bool) : TamperRun × Bool × Bool :=
  if cond ≠ r.armed then (⟨0, r.armed⟩, false, false)
  else if r.count < 7 then (⟨r.count + 1, r.armed⟩, false, false)
  else (⟨0, !r.armed⟩, r.armed, !r.armed)

/-- The reverse-flow condition: q below -REVTH. -/
def State.reverseCond (s : State) (x : Nat) (f : Flow) : Bool := flowBelow f.q (Int.neg (16 * s.get (F.MP_LIMITS_REVTH x)))

/-- The path-sign condition: one path at or above +0.05 m/s and another at or below -0.05 m/s. -/
def signCond (f : Flow) : Bool :=
  f.v.any (fun p => decide (2 ^ 40 ≤ 20 * p.2)) && f.v.any (fun p => decide (20 * p.2 ≤ Int.neg (2 ^ 40)))

/-- The reverse-flow tamper of a Measured tick (R242). -/
def State.reverseTick (s : State) (x : Nat) (cond : Bool) : State :=
  let (r, up, dn) := (s.mp x).rev.tick cond
  let s1 := s.setMp x { s.mp x with rev := r }
  if up then (s1.set1 (F.MP_STAT_REVTAMP x)).raiseTamper (5 + x) else if dn then s1.tamperEnd (5 + x) else s1

/-- The path-sign tamper of a Measured tick (R243). -/
def State.signTick (s : State) (x : Nat) (cond : Bool) : State :=
  let (r, up, dn) := (s.mp x).sgn.tick cond
  let s1 := s.setMp x { s.mp x with sgn := r }
  if up then (s1.set1 (F.MP_STAT_SIGNTAMP x)).raiseTamper (7 + x) else if dn then s1.tamperEnd (7 + x) else s1

/-- The path-sign rule applies with two or more enabled paths. -/
def State.signRule (s : State) (x : Nat) (f : Flow) : State :=
  if 2 ≤ f.v.length then s.signTick x (signCond f) else s

/-! ### The acoustic temperature and the hydrogen estimate (R259, R260, R264) -/

/-- The count of R260 at a new sample with an acoustic temperature and a valid T_v. -/
def State.plausCount (s : State) (x : Nat) (tac tv : Int) : State :=
  if (tac - tv).natAbs ≤ 2 * 65536 then s.clr (F.MP_STAT_PLAUSCNT x)
  else
    let c := s.get (F.MP_STAT_PLAUSCNT x)
    if c = 8 then s
    else
      let s1 := s.put (F.MP_STAT_PLAUSCNT x) (c + 1)
      if c + 1 = 8 then (s1.set1 (F.MP_STAT_PLAUSFLT x)).detect 0x47 x (ofSigned 32 (tac - tv)) .atOnce else s1

/-- The mean speed of sound since the previous sample, in 2^-32 m/s. -/
def MpSt.cMean (m : MpSt) : Nat := (roundDiv (m.cSum : Int) m.cN).toNat

/-- The acoustic temperature of a water or glycol meter point; a speed that the medium takes nowhere in its range leaves a
free value (log entry 11). -/
def State.acousticT (s : State) (x : Nat) : Int × State :=
  let m := s.get (F.MP_CFG_MEDIUM x)
  match nearestTo (s.tVolUsed x) (soundRoots m (s.get (F.MP_WPRESS_P x)) (s.mp x).cMean) with
  | some t => (t, s)
  | none => let (v, s1) := s.drawLevel (2 ^ 32); (toSigned 32 v, s1)

/-- The plausibility rule's row for a new sample (R260). -/
def State.plausSample (s : State) (x : Nat) (tac : Int) : State :=
  match s.tVol x with
  | none => s
  | some tv =>
    if soundFlat (s.get (F.MP_CFG_MEDIUM x)) (s.get (F.MP_WPRESS_P x)) tv then s else s.plausCount x tac tv

/-- A new hydrogen estimate and whether it was clamped (R264). -/
def State.putEstimate (s : State) (x : Nat) (e : Nat × Bool) : State :=
  ((s.put (F.MP_XH2E_XH2 x) e.1).putB (F.MP_XH2E_CLAMP x) e.2).set1 (F.MP_XH2E_VALID x)

/-- A new acoustic temperature, and its plausibility (R259, R260). -/
def State.putAcoustic (x : Nat) (p : Int × State) : State := (p.2.putI (F.MP_TAC_T x) p.1).plausSample x p.1

/-- The work at a new temperature sample. A gas without a valid temperature makes no estimate (log entry 16). -/
def State.newSample (s : State) (x : Nat) : State :=
  let m := s.mp x
  if m.cN = 0 then s
  else if s.isGas x then
    match s.tVol x with
    | none => s
    | some t => s.putEstimate x ((s.gasCfg x).estimate (kelvin t) m.cMean)
  else State.putAcoustic x (s.acousticT x)

/-- The sample work of a Compute; the sums then begin again. -/
def State.sampleWork (s : State) (x : Nat) : State :=
  if s.sens.newT then
    let s1 := s.newSample x
    s1.setMp x { s1.mp x with cSum := 0, cN := 0 }
  else s

/-- A new sample in a tick that does not measure ends the sums too (R259). -/
def State.dropSums (s : State) (x : Nat) : State :=
  if s.sens.newT then s.setMp x { s.mp x with cSum := 0, cN := 0 } else s

/-- The mean of c over the paths in state MEASURED: MP_SOS, and the sums of R259. -/
def State.soundTick (s : State) (x : Nat) (f : Flow) : State :=
  let l := f.c.filter (fun p => decide (s.get (F.SHOT_P_TSTAT_STATE p.1) = 0))
  if l = [] then s
  else
    let mean := (roundDiv ((sumNat (l.map (fun p => p.2)) : Nat) : Int) l.length).toNat
    let p := s.fitU 32 (roundDiv (mean : Int) 65536).toNat
    (p.2.put (F.MP_SOS_C x) p.1).setMp x { p.2.mp x with cSum := (p.2.mp x).cSum + mean, cN := (p.2.mp x).cN + 1 }

/-! ### Quantities (Tables 7.4, R256 to R258, R261 to R263) -/

/-- The number of 1/32 s in the tick period. -/
def State.ticks32 (s : State) : Nat := s.get F.FT_PERIOD_N

/-- A flow times the tick period. -/
def State.overTick (s : State) (q : Int) : Int := roundDiv (q * s.ticks32) 32

/-- Error time of a tick with a cause, in 1/1024 s. -/
def State.errTime (s : State) (cause : Nat) (q : MpQty) : MpQty := { q with errt := 32 * s.ticks32, errc := q.errc + cause }

/-- The causes of error time. -/
def errDisabled : Nat := 1
def errFlow : Nat := 2
def errTemp : Nat := 4
def errConv : Nat := 8
def errCalc : Nat := 16

/-- No quantities. -/
def noQty : MpQty := ⟨0, 0, 0, 0, 0, 0, 0, 0⟩

/-- A volume at base conditions (R261). -/
def State.toBase (s : State) (x : Nat) (g : GasTick) (v : Int) : Int :=
  let (n, d) := s.convRatio x g
  roundDiv (v * n) d

/-- Energy of a Measured tick with forward flow and valid temperatures: heat and cooling (R256). -/
def State.energies (s : State) (x : Nat) (dv : Int) : Int × Int :=
  match s.tFlow x, s.tRet x with
  | some tf, some tr =>
    let p := ((s.mp x).props).getD ⟨0, 0, 0, 0⟩
    let e (dh : Int) : Int := roundDiv (dv * (p.rho : Int) * dh) (10 ^ 9 * 2 ^ 24)
    let a := s.get (F.MP_CFG_APPL x)
    let heat := (a = 1 ∨ a = 3) ∧ (s.get (F.MP_DT_DTH x) : Int) * 65536 ≤ (tf - tr) * 100
    let cool := (a = 2 ∨ a = 3) ∧ (s.get (F.MP_DT_DTC x) : Int) * 65536 ≤ (tr - tf) * 100
    (if heat then e (p.hF - p.hR) else 0, if cool then e (p.hR - p.hF) else 0)
  | _, _ => (0, 0)

/-- The quantities of a Measured water or glycol tick. `mismatch` is the difference of the second energy computation. -/
def State.liquidQty (s : State) (x : Nat) (dv mismatch : Int) : MpQty :=
  let base : MpQty := { noQty with dvol := dv }
  if s.get (F.MP_CFG_APPL x) = 0 then base
  else if (s.tempFlags x).1 then s.errTime errTemp base
  else if dv ≤ 0 then base
  else
    let (h, c) := s.energies x dv
    if 1 < mismatch.natAbs then s.errTime errCalc base else { base with eheat := h, ecool := c }

/-- The quantities of a Measured gas tick (R261, R263). A disturbed conversion of a reverse volume leaves no base error
volume (log entry 17). -/
def State.gasQty (s : State) (x : Nat) (dv : Int) : MpQty :=
  let g := s.gasTick x
  let b := s.toBase x g dv
  if g.disturbed then s.errTime errConv { noQty with dvol := dv, bevol := if 0 < b then b else 0 }
  else { noQty with dvol := dv, bvol := b }

/-- A gas tick whose conversion is disturbed has error time with cause CONV, beside any other cause (R263, R299). -/
def State.convError (s : State) (x : Nat) (q : MpQty) : MpQty :=
  if s.isGas x && (s.gasTick x).disturbed then s.errTime errConv q else q

/-- The quantities of a tick whose flow is unknown. -/
def State.unknownQty (s : State) (x : Nat) : MpQty :=
  let q := (s.mp x).qLast
  let e := if 0 < q then s.overTick q else 0
  s.convError x (s.errTime errFlow { noQty with evol := e, bevol := if s.isGas x then s.toBase x (s.gasTick x) e else 0 })

/-! ### Test pulses (R265) -/

/-- Adds the tick's forward quantity to the pulse accumulator and emits up to 64 whole quanta. -/
def State.pulseTick (s : State) (x : Nat) (q : MpQty) : State :=
  let v := if s.flag (F.MP_PULSE_BASE x) then q.bvol else q.dvol
  let m := s.mp x
  let acc := m.acc + v.toNat
  let quant := 65536 * s.get (F.MP_PULSE_QUANT x)
  let n := min 64 (acc / quant)
  s.setMp x { m with acc := acc - n * quant, pulses := n }

/-! ### The tick record (R266) -/

/-- 32-bit little-endian bytes of a register. -/
def State.regBytes (s : State) (a : Nat) : List Byte := bytesLE 4 (s.rd a).toNat

/-- A signed 64-bit field. -/
def bytesS8 (v : Int) : List Byte := bytesLE 8 (ofSigned 64 v)

/-- The body of the record, from byte 8 on (Table 7.11). -/
def State.tickBody (s : State) (x : Nat) (q : MpQty) (rho : Nat) (dh : Int) (vs : List Int) : List Byte :=
  let st (k : Nat) : Nat := s.get (F.SHOT_P_TSTAT_STATE k) * 4 ^ k
  [byte x, byte (s.get (F.MP_STAT_FSTATE x))] ++ bytesLE 2 ((s.rd (F.MP_STAT x)).toNat % 65536 / 8 * 8)
    ++ bytesLE 4 s.rm.startTime.1 ++ bytesLE 2 s.rm.startTime.2
    ++ [byte (st 0 + st 1 + st 2 + st 3), byte q.errc] ++ bytesLE 4 q.errt
    ++ bytesS8 q.dvol ++ bytesS8 q.evol ++ bytesS8 q.eheat ++ bytesS8 q.ecool ++ bytesS8 q.bvol ++ bytesS8 q.bevol
    ++ s.regBytes (F.MP_FLOW x) ++ s.regBytes (F.MP_FLOWW x) ++ s.regBytes (F.MP_VEL x) ++ s.regBytes (F.MP_RE x)
    ++ s.regBytes (F.MP_KPROF x) ++ s.regBytes (F.MP_TF x) ++ s.regBytes (F.MP_TR x) ++ s.regBytes (F.MP_TAC x)
    ++ s.regBytes (F.MP_SOS x) ++ s.regBytes (F.MP_PRESS x) ++ bytesLE 4 (rho % 2 ^ 32) ++ bytesLE 4 (ofSigned 32 dh)
    ++ s.regBytes (F.MP_CONV x) ++ s.regBytes (F.MP_Z x) ++ s.regBytes (F.MP_ZB x)
    ++ bytesLE 2 (s.get (F.MP_XH2E_XH2 x)) ++ bytesLE 2 (s.get F.SENS_SEQ_TSEQ)
    ++ vs.flatMap (fun v => bytesLE 4 (ofSigned 32 v)) ++ zeros 104

/-- Publishes the tick record of a meter point. -/
def State.publishTick (s : State) (x : Nat) (q : MpQty) (vs : List Int) : State :=
  let m := s.mp x
  let p := (m.props).getD ⟨0, 0, 0, 0⟩
  let rho := if s.isGas x then
      let g := s.gasTick x
      (s.gasCfg x).density g.p (kelvin g.t) ((s.gasCfg x).z g.p (kelvin g.t)) else p.rho
  let hf := if x = 0 then F.SYS_RING_B_HEAD 2 else F.SYS_RING_B_HEAD2 2
  let h := s.get hf
  let s1 := s.publish 2 ((if x = 0 then 256 else 384) + h) 2 (s.tickBody x q rho (p.hF - p.hR) vs)
  (s1.put hf ((h + 2) % 128)).setMp x { m with overran := false }

/-! ### The Compute of a meter point (R236, R241) -/

/-- Bits [15:3] of MP_STAT before the tick's results: those that no quantity decides. -/
def State.beginStat (s : State) (x : Nat) : State :=
  let w := s.rd (F.MP_STAT x)
  let z := (s.mpPaths x).any (fun n => s.flag (F.AME_P_STAT_ZSTALE n))
  ((s.wr (F.MP_STAT x) (withBits w 15 3 0)).putB (F.MP_STAT_ZSTALE x) z).putB (F.MP_STAT_OVERRUN x) (s.mp x).overran

/-- Publishes the two temperatures in force, where they are valid, and the flags of R257 and R263. -/
def State.tempStat (s : State) (x : Nat) : State :=
  let put (s : State) (f : Fld) (t : Option Int) : State := match t with | some v => s.putI f v | none => s
  let s1 := put (put s (F.MP_TF_T x) (s.tFlow x)) (F.MP_TR_T x) (s.tRet x)
  let (inv, out) := s.tempFlags x
  let s2 := (s1.putB (F.MP_STAT_TINVALID x) inv).putB (F.MP_STAT_OUTRANGE x) out
  if s.isGas x then
    let g := s.gasTick x
    (s2.putB (F.MP_STAT_PINVALID x) g.pInvalid).putB (F.MP_STAT_SUBST x) g.disturbed
  else s2

/-- Ends the meter point's tick: its quantities for billing, the pulses and the record. -/
def State.endMeter (s : State) (x fstate : Nat) (q : MpQty) (vs : List Int) : State :=
  let s1 := (s.put (F.MP_STAT_FSTATE x) fstate).putB (F.MP_STAT_REVERSE x) (decide (q.dvol < 0))
  let s2 := (s1.pulseTick x q).publishTick x q vs
  s2.setMp x { s2.mp x with qty := some q }

/-- A signed 32-bit velocity field for each path; 0 for a path that is not enabled. -/
def State.vFields (s : State) (f : Flow) : List Int × State :=
  [0, 1, 2, 3].foldl (fun (a : List Int × State) n => match f.v.find? (fun p => p.1 = n) with
    | none => (a.1 ++ [0], a.2)
    | some p => let (v, t) := a.2.fitS 32 (roundDiv p.2 (2 ^ 16)); (a.1 ++ [v], t)) ([], s)

/-- The end of a Measured tick with its quantities and the record's velocities. -/
def State.endMeasured (x : Nat) (qty : MpQty) (p : List Int × State) : State := p.2.endMeter x 0 qty p.1

/-- A Measured tick from its volume on. -/
def State.measuredVolume (x : Nat) (f : Flow) (q mismatch : Int) (p : Int × State) : State :=
  let s3 := (p.2.reverseTick x (p.2.reverseCond x f)).signRule x f
  let s4 := s3.setMp x { s3.mp x with qLast := q }
  let qty := if s4.isGas x then s4.gasQty x p.1 else s4.liquidQty x p.1 mismatch
  let disagree := decide (qty.errc = errCalc)
  let s5 := ((s4.putB (F.MP_STAT_HEAT x) (decide (qty.eheat ≠ 0))).putB (F.MP_STAT_COOL x) (decide (qty.ecool ≠ 0))).putB
    (F.MP_STAT_CALC x) disagree
  let s6 := if disagree then s5.detect 0x46 x (ofSigned 32 mismatch) .second else s5
  let s7 := if s6.isGas x then s6 else
    s6.putI (F.MP_POWER_POWER x) (satSigned 32 (roundDiv ((qty.eheat - qty.ecool) * 512) (65536 * s6.ticks32)))
  let s8 := if s7.isGas x then s7.publishGas x (s7.gasTick x) else s7
  State.endMeasured x qty (s8.vFields f)

/-- A Measured tick. -/
def State.measured (s : State) (x : Nat) (f : Flow) (mismatch : Int) : State :=
  let cut := s.cutOff x f.q
  let q := if cut then 0 else f.q
  let s1 := ((s.publishFlow x f).soundTick x f).putB (F.MP_STAT_LOWCUT x) cut
  State.measuredVolume x f q mismatch (s1.fitS 64 (s1.overTick q))

/-- The last valid T_v since start-up, whether or not the meter point measures (R238). -/
def State.noteTv (s : State) (x : Nat) : State := match s.tVol x with
  | some t => s.setMp x { s.mp x with lastTv := some t }
  | none => s

/-- What every Compute does for a meter point, measuring or not: T_v and the properties (R238, R255). -/
def State.propTick (s : State) (x : Nat) : State := (s.noteTv x).refreshProps x

/-- The tick of a measuring meter point, by its flow state (Table 6.6, R233, R236). -/
def State.measure (s : State) (x : Nat) (mismatch : Int) : State :=
  let s1 := (s.tempStat x).sampleWork x
  let zero : List Int := [0, 0, 0, 0]
  if s1.mpPaths x = [] then s1.endMeter x 1 (s1.unknownQty x) zero
  else if s1.flag (F.SHOT_MSTAT_EMPTY x) then s1.endMeter x 2 (s1.convError x noQty) zero
  else if s1.flag (F.SHOT_MSTAT_UNKNOWN x) then s1.endMeter x 1 (s1.unknownQty x) zero
  else match s1.flow x with
    | none => (s1.set1 (F.MP_STAT_T0ERR x)).endMeter x 1 (s1.unknownQty x) zero
    | some (f, s2) => s2.measured x f mismatch

/-- The MP part of Compute for one meter point (R236, R241, Table 7.4). -/
def State.meterTick (s0 : State) (x : Nat) (mismatch : Int) : State :=
  let s := s0.propTick x
  let en := s.flag (F.MP_CTRL_EN x)
  let svc := s.flag (F.MP_CTRL_SVC x)
  if !en ∧ !svc then
    let s1 := s.dropSums x
    (s1.put (F.MP_STAT_FSTATE x) 4).setMp x { s1.mp x with qty := none, pulses := 0 }
  else
    let s1 := s.beginStat x
    if !en ∨ s.flag (F.MP_STAT_CFGERR x) then (s1.dropSums x).endMeter x 3 (s1.errTime errDisabled noQty) [0, 0, 0, 0]
    else s1.measure x mismatch

/-! ### The rows that are steps inside Compute (log entry 13) -/

/-- The flow that the Compute due will measure for a meter point, where its tick is a Measured one. -/
def State.dueFlow (s : State) (x : Nat) : Option Flow :=
  let s1 := s.shotCompute x
  let s2 := (s1.propTick x).tempStat x
  if s.computeDue ∧ s.mpOn x ∧ !s.flag (F.MP_STAT_CFGERR x) ∧ !s2.flag (F.SHOT_MSTAT_EMPTY x) ∧ s2.mpPaths x ≠ []
    ∧ !s2.flag (F.SHOT_MSTAT_UNKNOWN x) then (s2.flow x).map (fun r => r.1) else none

/-- REVERSE_FLOW_TAMPER: in the Compute due, the eighth Measured tick of a run of reverse flow raises the tamper, or the
eighth without it ends its condition (R242). -/
def execReverseFlowTamper (mp : MeterPoint) (s : State) : Host.Outcome State Fault Refusal :=
  let x := mpNum mp
  match s.dueFlow x with
  | none => .next s
  | some f => .next (if (s.mp x).rev.count = 7 ∧ s.reverseCond x f = (s.mp x).rev.armed then
      s.reverseTick x (s.reverseCond x f) else s)

/-- PATH_SIGN_TAMPER: the same for the path-sign condition (R243). -/
def execPathSignTamper (mp : MeterPoint) (s : State) : Host.Outcome State Fault Refusal :=
  let x := mpNum mp
  match s.dueFlow x with
  | none => .next s
  | some f => .next (if 2 ≤ f.v.length ∧ (s.mp x).sgn.count = 7 ∧ signCond f = (s.mp x).sgn.armed then
      s.signTick x (signCond f) else s)

/-- SENSOR_PLAUSIBILITY_FAULT: in the Compute due, the eighth disagreeing sample makes PLAUSCNT 8 (R260). -/
def execSensorPlausibilityFault (mp : MeterPoint) (s : State) : Host.Outcome State Fault Refusal :=
  let x := mpNum mp
  if s.computeDue ∧ s.mpOn x ∧ !s.flag (F.MP_STAT_CFGERR x) ∧ s.sens.newT ∧ s.get (F.MP_STAT_PLAUSCNT x) = 7 then
    let s1 := ((s.propTick x).tempStat x).sampleWork x
    .next (if s1.get (F.MP_STAT_PLAUSCNT x) = 8 then s1 else s)
  else .next s

end Sys2Proof.Machine
end

