-- ==== Sys2Proof/Machine/Billing.lean ====
section
/-! DEFINITION. Billing: the registers of a meter point, the Almanac, demand intervals and periods, clock adjustments,
catch-up and the accrual of a tick (spec 09_billing.md, R297 to R322). -/

namespace Sys2Proof.Machine

/-! ### The registers (R297, R298) -/

/-- Register n of a meter point: 96 bits with a 16-bit fraction. -/
def State.reg96 (s : State) (x n : Nat) : Nat :=
  (s.rd (F.BILL_REG x n 0)).toNat + 2 ^ 32 * (s.rd (F.BILL_REG x n 1)).toNat + 2 ^ 64 * (s.rd (F.BILL_REG x n 2)).toNat

/-- Adds to a register; it saturates at 2^96 − 1. -/
def State.addReg (s : State) (x n v : Nat) : State :=
  if v = 0 then s
  else
    let t := satNat 96 (s.reg96 x n + v)
    ((s.wr (F.BILL_REG x n 0) (word (t % 2 ^ 32))).wr (F.BILL_REG x n 1) (word (t / 2 ^ 32 % 2 ^ 32))).wr
      (F.BILL_REG x n 2) (word (t / 2 ^ 64))

/-! ### The Almanac (R310 to R313) -/

/-- Whether a special day is enabled and matches a date. -/
def State.specialHits (s : State) (c : CalTime) (n : Nat) : Bool :=
  s.flag (F.ALM_SPEC_EN n) && decide (s.get (F.ALM_SPEC_MONTH n) = c.month ∧ s.get (F.ALM_SPEC_DAY n) = c.day)
    && (s.flag (F.ALM_SPEC_RECUR n) || decide (s.get (F.ALM_SPEC_YEAR n) = c.year))

/-- A season's start as one number. -/
def State.seasonStart (s : State) (n : Nat) : Nat := 32 * s.get (F.ALM_SEASON_MONTH n) + s.get (F.ALM_SEASON_DAY n)

/-- The one of a list of seasons with the latest start; the lower index wins among equals. -/
def State.latestSeason (s : State) (l : List Nat) : Option Nat :=
  l.foldl (fun (a : Option Nat) n => match a with
    | none => some n
    | some b => if s.seasonStart b < s.seasonStart n then some n else some b) none

/-- The season in force for a date (R312). -/
def State.seasonOf (s : State) (c : CalTime) : Option Nat :=
  let on := [0, 1, 2, 3].filter (fun n => s.flag (F.ALM_SEASON_EN n))
  match s.latestSeason (on.filter (fun n => decide (s.seasonStart n ≤ 32 * c.month + c.day))) with
  | some n => some n
  | none => s.latestSeason on

/-- The minute of the day of an entry; entry 0 is always at 00:00 (R311). -/
def State.entryMinute (s : State) (p e : Nat) : Nat :=
  if e = 0 then 0 else 60 * s.get (F.ALM_DAY_HOUR p e) + s.get (F.ALM_DAY_MINUTE p e)

/-- The entry in force in a day profile at a second of the day; the highest index wins among equal times. -/
def State.dayEntry (s : State) (p sod : Nat) : Nat :=
  ((List.range 8).filter (fun e => (decide (e = 0) || s.flag (F.ALM_DAY_EN p e)) && decide (60 * s.entryMinute p e ≤ sod))).foldl
    (fun b e => if s.entryMinute p b ≤ s.entryMinute p e then e else b) 0

/-- The choice that the Almanac makes for a time: tariff and the word of ALM_STAT. -/
def State.almanac (s : State) (sec : Nat) : Nat × Nat :=
  let c := secToCal sec
  let sp := (List.range 64).find? (s.specialHits c)
  let se := s.seasonOf c
  let week := match se with | some n => s.get (F.ALM_SEASON_WEEK n) | none => 0
  let prof := match sp with
    | some n => s.get (F.ALM_SPEC_PROFILE n)
    | none => s.get (F.ALM_WEEK_DAYS week) / 16 ^ (c.wday - 1) % 16
  let e := s.dayEntry prof (sec % 86400)
  let k := s.get (F.ALM_DAY_TARIFF prof e)
  (k, 2 ^ 24 * k + 2 ^ 16 * sp.getD 0 + 2 ^ 15 * b2n sp.isSome + 2 ^ 12 * e + 2 ^ 8 * prof + 2 ^ 4 * week
    + 4 * b2n se.isNone + se.getD 0)

/-! ### Boundaries (R301, R305) -/

/-- The demand interval in seconds. -/
def State.demandLen (s : State) : Nat := match s.get F.BILL_CFG_DEMLEN with
  | 0 => 300
  | 1 => 600
  | 2 => 900
  | 3 => 1800
  | _ => 3600

/-- The first demand boundary after a time; a day holds a whole number of intervals. -/
def State.nextDemand (s : State) (t : Nat) : Nat := (t / s.demandLen + 1) * s.demandLen

/-- The scheduled period boundaries of the months from `first` on, counted from January 2000, `n` of them. -/
def State.periodsFrom (s : State) (first n : Nat) : List Nat :=
  (List.range n).filterMap (fun i =>
    let y := (first + i) / 12
    let m := (first + i) % 12 + 1
    let every := s.get F.BILL_PER_EVERY
    if every = 0 then none
    else if (m + 12 * every - s.get F.BILL_PER_FIRST) % every = 0 then
      some ((daysBeforeYear y + (daysBeforeMonth y m : Int) + (s.get F.BILL_PER_DAY : Int) - 1).toNat * 86400
        + 3600 * s.get F.BILL_PER_HOUR)
    else none)

/-- The month of a time, counted from January 2000. -/
def monthIndex (t : Nat) : Nat := let c := secToCal t; 12 * c.year + c.month - 1

/-- The first scheduled period boundary after a time. -/
def State.nextPeriod (s : State) (t : Nat) : Nat :=
  ((s.periodsFrom (monthIndex t) 14).find? (fun b => decide (t < b))).getD (2 ^ 40)

/-- The last scheduled period boundary at or before a time; 0 where none is. -/
def State.lastPeriod (s : State) (t : Nat) : Nat :=
  ((s.periodsFrom (monthIndex t - 13) 14).filter (fun b => decide (b ≤ t))).getLastD 0

/-! ### Demand intervals (R302 to R304) -/

/-- The open interval of a meter point. -/
def State.interval (s : State) (x : Nat) : OpenInterval := if x = 0 then s.bill.intA else s.bill.intB

/-- Replaces the open interval. -/
def State.setInterval (s : State) (x : Nat) (i : OpenInterval) : State :=
  if x = 0 then { s with bill := { s.bill with intA := i } } else { s with bill := { s.bill with intB := i } }

/-- An interval that has just opened. -/
def freshInterval (start : Nat) : OpenInterval := ⟨start, [0, 0, 0], false, false, false, 0, 0⟩

/-- The demand of a quantity over an interval's nominal length, with a 4-bit fraction: L/h for d = 0, W otherwise. -/
def demandOf (d acc len : Nat) : Nat :=
  satNat 32 (if d = 0 then (roundDiv (acc * 57600 : Nat) (65536000000 * len)).toNat
             else (roundDiv (acc * 16 : Nat) (65536 * len)).toNat)

/-- Closes the open interval of one meter point at `b` and opens the next at `start`. -/
def State.closeOne (s : State) (b start : Nat) (x : Nat) : State :=
  let i := s.interval x
  let elig := !(i.short || i.power || i.untr)
  let dem (d : Nat) : Nat := demandOf d (i.acc.getD d 0) s.demandLen
  let s1 := [0, 1, 2].foldl (fun (t : State) d =>
    let t1 := t.put (F.BILL_LD_DEM x d) (dem d)
    if elig ∧ t.get (F.BILL_MD_MD x d) < dem d then (t1.put (F.BILL_MD_MD x d) (dem d)).put (F.BILL_MDT_SEC x d) b else t1) s
  let s2 := (s1.put (F.BILL_LSTART_SEC x) i.start).put (F.BILL_LEND_SEC x) b
  let s3 := s2.wr (F.BILL_LFLG x) (word (65536 * satNat 16 i.skipped + 256 * i.tariff + 8 * b2n elig + 4 * b2n i.untr
    + 2 * b2n i.power + b2n i.short))
  s3.setInterval x (freshInterval start)

/-- Closes both open intervals at `b` and opens the next ones at `start`; a closure makes a commit due. -/
def State.closeInterval (s : State) (b start : Nat) : State := ((s.closeOne b start 0).closeOne b start 1).commitDue

/-- Changes both open intervals. -/
def State.mapIntervals (s : State) (f : OpenInterval → OpenInterval) : State :=
  (s.setInterval 0 (f (s.interval 0))).setInterval 1 (f (s.interval 1))

/-- A demand boundary fires. -/
def State.fireDemand (s : State) (b : Nat) : State := (s.closeInterval b b).put F.BILL_LASTD_SEC b

/-! ### Period closures (R306, R307, R309) -/

/-- The integer part of a register, saturated to 64 bits. -/
def State.reg64 (s : State) (x n : Nat) : List Byte := bytesLE 8 (satNat 64 (s.reg96 x n / 65536))

/-- The 384 bytes of a snapshot (Table 9.3). -/
def State.snapshotBytes (s : State) (x period stop start flags : Nat) : List Byte :=
  let col1 := if s.isGas x then 3 else 1
  let tar (q : Nat) : List Byte := (List.range 8).flatMap (fun k => s.reg64 x (8 * (q + 1) + k))
  let body := bytesLE 4 (period % 2 ^ 32) ++ bytesLE 4 stop ++ bytesLE 4 start
    ++ [byte x, byte flags, byte (s.get (F.MP_CFG_MEDIUM x) + 16 * s.get (F.MP_CFG_APPL x)), 0#8]
    ++ s.reg64 x 0 ++ s.reg64 x col1 ++ s.reg64 x 2 ++ tar 0 ++ tar col1 ++ tar 2
    ++ s.reg64 x 40 ++ s.reg64 x 41 ++ s.reg64 x 42 ++ s.reg64 x 43 ++ s.reg64 x 44 ++ s.reg64 x (44 + col1) ++ s.reg64 x 46
    ++ (List.range 6).flatMap (fun i => bytesLE 4 (satNat 32 (s.reg96 x (48 + i) / 65536)))
    ++ [0, 1, 2].flatMap (fun d => bytesLE 4 (s.get (F.BILL_MD_MD x d)) ++ bytesLE 4 (s.get (F.BILL_MDT_SEC x d))) ++ zeros 44
  body ++ bytesLE 4 (crc32 body)

/-- The view address of a snapshot slot. -/
def snapshotAddr (x slot : Nat) : Nat := 0x30008000 + 0x180 * (24 * x + slot)

/-- Takes the snapshot of a meter point. -/
def State.takeSnapshot (s : State) (b flags : Nat) (x : Nat) : State :=
  let h := s.jrn.hid
  let p : Snapshot := ⟨snapshotAddr x (h.period % 24), s.snapshotBytes x h.period b h.prevEnd flags⟩
  { s with jrn := { s.jrn with hid := { h with closing := h.closing ++ [p] }, snapRows := s.jrn.snapRows ++ [(p, 0)] } }

/-- Closes the billing period at `b`; `keep` says whether its snapshot is written. -/
def State.closePeriod (s : State) (b flags : Nat) (keep : Bool) : State :=
  let s1 := { s with jrn := { s.jrn with hid := { s.jrn.hid with period := s.jrn.hid.period + 1 } } }
  let s2 := s1.put F.BILL_STAT_PERIODS (s1.jrn.hid.period % 65536)
  let s3 := if keep then (s2.takeSnapshot b flags 0).takeSnapshot b flags 1 else s2
  let s4 := [0, 1].foldl (fun (t : State) x => [0, 1, 2].foldl (fun (u : State) d =>
    (u.clr (F.BILL_MD_MD x d)).clr (F.BILL_MDT_SEC x d)) t) s3
  ({ s4 with jrn := { s4.jrn with hid := { s4.jrn.hid with prevEnd := b } } }).commitDue

/-- A scheduled period boundary fires. -/
def State.firePeriod (s : State) (b flags : Nat) (keep : Bool) : State :=
  (s.closePeriod b flags keep).put F.BILL_LASTP_SEC b

/-- Fires every boundary up to `t` in time order, a demand boundary before a period boundary at the same instant (R316). -/
def State.fireUpTo (s : State) (t flags : Nat) : Nat → State
  | 0 => s
  | k + 1 =>
    let d := s.nextDemand (s.get F.BILL_LASTD_SEC)
    let p := s.nextPeriod (s.get F.BILL_LASTP_SEC)
    if d ≤ t ∧ d ≤ p then State.fireUpTo (s.fireDemand d) t flags k
    else if p ≤ t then State.fireUpTo (s.firePeriod p flags true) t flags k
    else s

/-- The scheduled period boundaries after LASTP and up to `t` fire, without demand boundaries; snapshots are written for the
last 24 only (R319, R321). -/
def State.firePeriods (s : State) (t flags : Nat) : State :=
  let last := s.get F.BILL_LASTP_SEC
  let l := (s.periodsFrom (monthIndex last) (monthIndex t + 1 - monthIndex last)).filter (fun b => decide (last < b ∧ b ≤ t))
  (l.zipIdx.foldl (fun (u : State) p => u.firePeriod p.1 flags (decide (l.length ≤ p.2 + 24))) s)

/-! ### Clock adjustments (R318, R319, Table 9.4) -/

/-- The demand boundaries from an instant on, counted in intervals: the first that is not before `sec` and a fraction. -/
def State.firstDemand (s : State) (sec frac : Nat) : Nat :=
  if frac = 0 then (sec + s.demandLen - 1) / s.demandLen else sec / s.demandLen + 1

/-- The split of the open interval at an adjustment, whose old time has the fraction `frac`. -/
def State.splitInterval (s : State) (old frac new : Nat) : State :=
  let s1 := (s.mapIntervals (fun i => { i with short := true })).closeInterval old new
  let s2 := s1.mapIntervals (fun i => { i with short := true })
  if old < new then
    let len := s.demandLen
    let s3 := s2.firePeriods new 4
    (s3.mapIntervals (fun i => { i with skipped := new / len - s.firstDemand old frac })).put F.BILL_LASTD_SEC (new / len * len)
  else s2

/-- Step 1: the time writes applied since the previous tick, handled together; the legal record has the new time (R318). A write that
cleared OSF flags the interval it falls in UNTR (R303). -/
def State.handleStep (s : State) : State := match s.bill.steps with
  | [] => s
  | r :: rest =>
    let l := r :: rest
    let total := sumInt (l.map (fun w => 65536 * w.step - (w.oldFrac : Int)))
    let new := match rest.getLast? with | some w => w.new | none => r.new
    let s0 := { s with bill := { s.bill with steps := [] } }
    if l.any (fun w => w.cleared) then
      let s1 := ((s0.legalAt new 0x21 (bytesLE 4 r.old)).commitDue).mapIntervals (fun i => { i with untr := true })
      { s1 with bill := { s1.bill with catchUntr := true } }
    else
      let s1 := s0.fireUpTo r.old 0 400
      if total.natAbs ≤ 65536 * s.get F.BILL_CFG_SYNC then s1.bump F.BILL_ADJCNT_SYNCS 1
      else
        let s2 := (s1.legalAt new 0x20 (bytesLE 4 r.old ++ bytesLE 2 r.oldFrac)).set1 F.BILL_STAT_STEP
        ((s2.bump F.BILL_ADJCNT_STEPS 1).commitDue).splitInterval r.old r.oldFrac new

/-! ### Catch-up (R321, R322) -/

/-- A record that has never fired takes the last boundary of its kind, without a closure. -/
def State.initRecords (s : State) (t : Nat) : State :=
  let s1 := if s.get F.BILL_LASTD_SEC = 0 then
      (s.put F.BILL_LASTD_SEC (t / s.demandLen * s.demandLen)).mapIntervals
        (fun i => { i with start := t / s.demandLen * s.demandLen })
    else s
  if s1.get F.BILL_LASTP_SEC = 0 then s1.put F.BILL_LASTP_SEC (s1.lastPeriod t) else s1

/-- In a catch-up after an untrusted time, UNTR stands in place of POWER (R322). -/
def State.catchFlags (s : State) : State :=
  if s.bill.catchUntr then s.mapIntervals (fun i => { i with power := false, untr := true }) else s

/-- The boundaries between the journaled records and `t`, with zero quantities; the open interval carries its flags. -/
def State.catchUp (s : State) (t : Nat) : State :=
  let s0 := (s.initRecords t).catchFlags
  let i := s0.interval 0
  let d := s0.nextDemand (s0.get F.BILL_LASTD_SEC)
  let p := s0.nextPeriod (s0.get F.BILL_LASTP_SEC)
  let dl := t / s0.demandLen * s0.demandLen
  let s1 := if d ≤ t then
      ((s0.closeInterval d dl).mapIntervals (fun j =>
        { j with power := i.power, untr := i.untr, skipped := (dl - d) / s0.demandLen })).put F.BILL_LASTD_SEC dl
    else s0
  let s2 := s1.firePeriods t 2
  let s3 := if d ≤ t ∨ p ≤ t then (s2.set1 F.BILL_STAT_CATCHUP).commitDue else s2
  { s3 with bill := { s3.bill with catchUp := false, catchUntr := false } }

/-! ### The order of work in a tick (R316) -/

/-- Steps 2 and 3 in a tick with trusted time. -/
def State.boundaries (s : State) (t : Nat) : State :=
  let s1 := if s.bill.catchUp ∨ s.bill.catchUntr then s.catchUp t else s.fireUpTo t 0 400
  if s1.flag F.BILL_STAT_CLOSEPEND then (s1.closePeriod t 1 true).clr F.BILL_STAT_CLOSEPEND else s1

/-- Step 4: the tariff of the tick's start time comes into force. -/
def State.tariffStep (s : State) (t : Nat) : State :=
  let (k, w) := s.almanac t
  let s1 := s.wr F.ALM_STAT (word w)
  if k = s.get F.BILL_STAT_TARIFF then s1
  else (((s1.put F.BILL_STAT_TARIFF k).put F.BILL_LASTT_SEC t).bump F.BILL_SWCNT_SWITCHES 1).commitDue

/-- The forward quantity q of a tick record (Table 9.2). -/
def MpQty.forward (m : MpQty) (q : Nat) : Nat := match q with
  | 0 => m.dvol.toNat
  | 1 => m.eheat.toNat
  | 2 => m.ecool.toNat
  | _ => m.bvol.toNat

/-- Accrual of a forward quantity: its total, and its tariff or its untrusted-time register (R299, R300). -/
def State.accrueForward (s : State) (x : Nat) (m : MpQty) (q : Nat) : State :=
  let v := m.forward q
  (s.addReg x q v).addReg x (if s.rm.untr then 44 + q else 8 * (q + 1) + s.get F.BILL_STAT_TARIFF) v

/-- Accrual of one tick record. -/
def State.accrue (s : State) (x : Nat) : State := match (s.mp x).qty with
  | none => s
  | some m =>
    let s1 := [0, 1, 2, 3].foldl (fun (t : State) q => t.accrueForward x m q) s
    let s2 := (((s1.addReg x 40 (-m.dvol).toNat).addReg x 41 (-m.bvol).toNat).addReg x 42 m.evol.toNat).addReg x 43 m.bevol.toNat
    let s3 := (List.range 5).foldl (fun (t : State) i => if bit m.errc i then t.addReg x (49 + i) (64 * m.errt) else t)
      (s2.addReg x 48 (64 * m.errt))
    let i := s3.interval x
    let dem (d : Nat) : Nat := i.acc.getD d 0 + m.forward (if d = 0 ∧ s.isGas x then 3 else d)
    s3.setInterval x { i with acc := [dem 0, dem 1, dem 2], tariff := s.get F.BILL_STAT_TARIFF }

/-- Steps 1 to 4 and the accrual of step 5; `t` is the tick's start time. -/
def State.billSteps (s : State) : State :=
  let t := s.rm.startTime.1
  let s1 := s.handleStep
  let s2 := if s1.rm.untr then s1.mapIntervals (fun i => { i with untr := true })
    else (s1.boundaries t).tariffStep t
  let s3 := (s2.accrue 0).accrue 1
  let s4 := if s3.flag F.BILL_STAT_UNTR = s3.rm.untr then s3 else s3.commitDue
  s4.putB F.BILL_STAT_UNTR s4.rm.untr

/-- What an emergency commit's closing row carries: the boundaries up to the warning instant and the switch to its tariff, after the
time writes that no tick has handled (R318, R320). While catch-up is still to come, or in an untrusted time, it carries none. -/
def State.emergencyClosures (s : State) : State :=
  if s.bill.catchUp ∨ s.bill.catchUntr ∨ s.rm.untr ∨ s.untrusted then s
  else
    let s0 := { s with bill := { s.bill with steps := s.bill.steps ++ s.rtc.steps }, rtc := { s.rtc with steps := [] } }
    let s1 := s0.handleStep
    if s1.bill.catchUntr then s1 else (s1.fireUpTo s1.sec 0 400).tariffStep s1.sec

/-- CLOSE: a write of 1 to BILL_CMD.CLOSE (R306). -/
def State.closeRequest (s : State) : State := s.set1 F.BILL_STAT_CLOSEPEND

end Sys2Proof.Machine
end

