-- ==== Sys2Proof/Machine/Crypto.lean ====
section
/-! DEFINITION. The cryptographic functions of R456 (Table 13.13), written from the public standards that the spec names:
AES (FIPS 197), CMAC, CCM, CBC and FF1 (NIST SP 800-38), the key derivation of SP 800-108, the key wrap of RFC 3394,
SHA-256 (FIPS 180-4) and ECDSA verification on P-256 (FIPS 186-4). PRESUMED, log entry 19. -/

namespace Sys2Proof.Machine

/-! ### Bytes -/

/-- Bytes XORed one by one. -/
def xorB (a b : List Nat) : List Nat := List.zipWith (fun x y => x ^^^ y) a b

/-- A number in `n` bytes, most significant first. -/
def natBytes (n v : Nat) : List Nat := (List.range n).map (fun i => v / 256 ^ (n - 1 - i) % 256)

/-- The number that bytes hold, most significant first. -/
def bytesNat (l : List Nat) : Nat := l.foldl (fun a b => a * 256 + b) 0

/-! ### AES. A block is a number of 128 bits, its 16 bytes in column order, the first byte most significant. -/

/-- The S-box of FIPS 197, sixteen bytes in a row. -/
def sboxRows : List Nat :=
  [0x637C777BF26B6FC53001672BFED7AB76, 0xCA82C97DFA5947F0ADD4A2AF9CA472C0, 0xB7FD9326363FF7CC34A5E5F171D83115,
   0x04C723C31896059A071280E2EB27B275, 0x09832C1A1B6E5AA0523BD6B329E32F84, 0x53D100ED20FCB15B6ACBBE394A4C58CF,
   0xD0EFAAFB434D338545F9027F503C9FA8, 0x51A3408F929D38F5BCB6DA2110FFF3D2, 0xCD0C13EC5F974417C4A77E3D645D1973,
   0x60814FDC222A908846EEB814DE5E0BDB, 0xE0323A0A4906245CC2D3AC629195E479, 0xE7C8376D8DD54EA96C56F4EA657AAE08,
   0xBA78252E1CA6B4C6E8DD741F4BBD8B8A, 0x703EB5664803F60E613557B986C11D9E, 0xE1F8981169D98E949B1E87E9CE5528DF,
   0x8CA1890DBFE6426841992D0FB054BB16]

/-- The inverse S-box. -/
def invSboxRows : List Nat :=
  [0x52096AD53036A538BF40A39E81F3D7FB, 0x7CE339829B2FFF87348E4344C4DEE9CB, 0x547B9432A6C2233DEE4C950B42FAC34E,
   0x082EA16628D924B2765BA2496D8BD125, 0x72F8F66486689816D4A45CCC5D65B692, 0x6C704850FDEDB9DA5E154657A78D9D84,
   0x90D8AB008CBCD30AF7E45805B8B34506, 0xD02C1E8FCA3F0F02C1AFBD0301138A6B, 0x3A9111414F67DCEA97F2CFCEF0B4E673,
   0x96AC7422E7AD3585E2F937E81C75DF6E, 0x47F11A711D29C5896FB7620EAA18BE1B, 0xFC563E4BC6D279209ADBC0FE78CD5AF4,
   0x1FDDA8338807C731B11210592780EC5F, 0x60517FA919B54A0D2DE57A9F93C99CEF, 0xA0E03B4DAE2AF5B0C8EBBB3C83539961,
   0x172B047EBA77D626E169146355210C7D]

/-- The two tables as numbers, and a byte of one. -/
def sboxTable : Nat := sboxRows.foldl (fun a r => a * 2 ^ 128 + r) 0
def invSboxTable : Nat := invSboxRows.foldl (fun a r => a * 2 ^ 128 + r) 0
def tableByte (t b : Nat) : Nat := t / 256 ^ (255 - b) % 256

/-- Byte `i` of a block. -/
def blockByte (v i : Nat) : Nat := v / 256 ^ (15 - i) % 256

/-- The block whose byte `i` is `f i`. -/
def blockOf (f : Nat → Nat) : Nat := (List.range 16).foldl (fun a i => a * 256 + f i) 0

/-- SubBytes with a table. -/
def subBlock (t v : Nat) : Nat := blockOf (fun i => tableByte t (blockByte v i))

/-- ShiftRows (`n` = 4) and its inverse (`n` = 12). -/
def shiftBlock (n v : Nat) : Nat := blockOf (fun i => blockByte v ((i + n * (i % 4)) % 16))

/-- Each column rotated by `n` bytes. -/
def rotBlock (n v : Nat) : Nat := blockOf (fun i => blockByte v (i / 4 * 4 + (i + n) % 4))

/-- Each byte multiplied by x in GF(2^8). -/
def xtimeBlock (v : Nat) : Nat :=
  ((v &&& 0x7F7F7F7F7F7F7F7F7F7F7F7F7F7F7F7F) * 2) ^^^ ((v / 128 &&& 0x01010101010101010101010101010101) * 0x1B)

/-- MixColumns: 2, 3, 1, 1. -/
def mixBlock (v : Nat) : Nat := xtimeBlock (v ^^^ rotBlock 1 v) ^^^ rotBlock 1 v ^^^ rotBlock 2 v ^^^ rotBlock 3 v

/-- Its inverse, 14, 11, 13, 9: MixColumns of each column to which 5, 0, 4, 0 was applied. -/
def invMixBlock (v : Nat) : Nat := mixBlock (v ^^^ xtimeBlock (xtimeBlock (v ^^^ rotBlock 2 v)))

/-- SubBytes on a word of the key schedule. -/
def subWord (x : Nat) : Nat :=
  ([x / 2 ^ 24, x / 2 ^ 16 % 256, x / 2 ^ 8 % 256, x % 256]).foldl (fun a b => a * 256 + tableByte sboxTable b) 0

/-- The round constant of round `i` (from 1). -/
def rcon (i : Nat) : Nat := iter xtimeBlock (i - 1) 1

/-- The key schedule: `n` more words from word `i` on, the newest first. -/
def moreKey (nk : Nat) : Nat → Nat → List Nat → List Nat
  | 0, _, w => w
  | n + 1, i, w =>
    let t := w.headD 0
    let u := if i % nk = 0 then subWord (t % 2 ^ 24 * 256 + t / 2 ^ 24) ^^^ (rcon (i / nk) * 2 ^ 24)
      else if nk = 8 ∧ i % nk = 4 then subWord t else t
    moreKey nk n (i + 1) ((w.getD (nk - 1) 0 ^^^ u) :: w)

/-- The round keys. -/
def roundKeys (key : List Nat) : List Nat :=
  let nk := key.length / 4
  let w := (moreKey nk (4 * (nk + 7) - nk) nk ((List.range nk).map (fun i => bytesNat ((key.drop (4 * i)).take 4))).reverse).reverse
  (List.range (nk + 7)).map (fun r => ((w.drop (4 * r)).take 4).foldl (fun a x => a * 2 ^ 32 + x) 0)

/-- One block encrypted. -/
def aesEnc (key blk : List Nat) : List Nat :=
  match roundKeys key with
  | [] => blk
  | k0 :: ks =>
    let body := ks.dropLast.foldl (fun s k => mixBlock (shiftBlock 4 (subBlock sboxTable s)) ^^^ k) (bytesNat blk ^^^ k0)
    natBytes 16 (shiftBlock 4 (subBlock sboxTable body) ^^^ ks.getLastD 0)

/-- One block decrypted. -/
def aesDec (key blk : List Nat) : List Nat :=
  match (roundKeys key).reverse with
  | [] => blk
  | k0 :: ks =>
    let body := ks.dropLast.foldl (fun s k => invMixBlock (subBlock invSboxTable (shiftBlock 12 s) ^^^ k)) (bytesNat blk ^^^ k0)
    natBytes 16 (subBlock invSboxTable (shiftBlock 12 body) ^^^ ks.getLastD 0)

/-! ### Byte strings -/

/-- Zero bytes. -/
def zero8 (n : Nat) : List Nat := List.replicate n 0

/-- A byte string cut into blocks of 16. -/
def blocks16 (l : List Nat) : List (List Nat) := (List.range ((l.length + 15) / 16)).map (fun i => (l.drop (16 * i)).take 16)

/-- Filled with zero bytes to a multiple of 16. -/
def pad16 (l : List Nat) : List Nat := l ++ zero8 ((16 - l.length % 16) % 16)

/-! ### Modes -/

/-- CBC-MAC from a zero vector over whole blocks. -/
def cbcMac (key l : List Nat) : List Nat := (blocks16 l).foldl (fun x b => aesEnc key (xorB x b)) (zero8 16)

/-- Doubling in GF(2^128), for the CMAC subkeys. -/
def dbl128 (l : List Nat) : List Nat :=
  let v := bytesNat l
  natBytes 16 (if 2 ^ 127 ≤ v then ((v * 2) % 2 ^ 128) ^^^ 0x87 else v * 2)

/-- AES-CMAC, 16 bytes. -/
def cmac (key msg : List Nat) : List Nat :=
  let k1 := dbl128 (aesEnc key (zero8 16))
  let n := if msg = [] then 0 else (msg.length - 1) / 16 * 16
  let last := msg.drop n
  let tail := if last.length = 16 then xorB last k1 else xorB (pad16 (last ++ [0x80])) (dbl128 k1)
  cbcMac key (msg.take n ++ tail)

/-- The counter-mode key derivation of R431: `n` bytes from a key, a label and a context. -/
def kdf (key : List Nat) (label : List Char) (ctx : List Nat) (n : Nat) : List Nat :=
  ((List.range ((n + 15) / 16)).flatMap (fun i =>
    cmac key ([i + 1] ++ label.map Char.toNat ++ [0] ++ ctx ++ natBytes 2 (8 * n)))).take n

/-- CBC encryption of whole blocks. -/
def cbcEnc (key iv l : List Nat) : List Nat :=
  ((blocks16 l).foldl (fun (p : List Nat × List Nat) b => let c := aesEnc key (xorB p.1 b); (c, p.2 ++ c)) (iv, [])).2

/-- The CCM counter stream over a 13-byte nonce, from a counter on. -/
def ctrStream (key nonce : List Nat) (start n : Nat) : List Nat :=
  (List.range ((n + 15) / 16)).flatMap (fun i => aesEnc key ([1] ++ nonce ++ natBytes 2 (start + i)))

/-- The unencrypted 8-byte tag of CCM with a 13-byte nonce and a 2-byte length field. -/
def ccmTag (key nonce aad msg : List Nat) : List Nat :=
  let b0 := [(if aad = [] then 0 else 64) + 8 * 3 + 1] ++ nonce ++ natBytes 2 msg.length
  let a := if aad = [] then [] else pad16 (natBytes 2 aad.length ++ aad)
  (cbcMac key (b0 ++ a ++ pad16 msg)).take 8

/-- CCM encryption: the ciphertext and the tag. -/
def ccmEnc (key nonce aad msg : List Nat) : List Nat × List Nat :=
  (xorB msg (ctrStream key nonce 1 msg.length), xorB (ccmTag key nonce aad msg) (ctrStream key nonce 0 16))

/-- CCM decryption: the message, where the tag verifies. -/
def ccmDec (key nonce aad ct tag : List Nat) : Option (List Nat) :=
  let msg := xorB ct (ctrStream key nonce 1 ct.length)
  if xorB (ccmTag key nonce aad msg) (ctrStream key nonce 0 16) = tag then some msg else none

/-- RFC 3394 wrapping of 8-byte semi-blocks. -/
def wrapKey (kek pt : List Nat) : List Nat :=
  let n := pt.length / 8
  let r0 := (List.range n).map (fun i => (pt.drop (8 * i)).take 8)
  let (a, r) := (List.range (6 * n)).foldl (fun (p : List Nat × List (List Nat)) t =>
    let i := t % n
    let b := aesEnc kek (p.1 ++ p.2.getD i [])
    (natBytes 8 (bytesNat (b.take 8) ^^^ (t + 1)), p.2.set i (b.drop 8))) (List.replicate 8 0xA6, r0)
  a ++ r.flatten

/-- RFC 3394 unwrapping; none where the integrity check fails. -/
def unwrapKey (kek ct : List Nat) : Option (List Nat) :=
  let n := ct.length / 8 - 1
  let r0 := (List.range n).map (fun i => (ct.drop (8 * (i + 1))).take 8)
  let (a, r) := (List.range (6 * n)).foldl (fun (p : List Nat × List (List Nat)) k =>
    let t := 6 * n - k
    let i := (t - 1) % n
    let b := aesDec kek (natBytes 8 (bytesNat p.1 ^^^ t) ++ p.2.getD i [])
    (b.take 8, p.2.set i (b.drop 8))) (ct.take 8, r0)
  if a = List.replicate 8 0xA6 then some r.flatten else none

/-! ### FF1 over 20 decimal digits -/

/-- The number that digits hold. -/
def digitsNat (l : List Nat) : Nat := l.foldl (fun a d => a * 10 + d) 0

/-- A number in ten decimal digits. -/
def tenDigits (v : Nat) : List Nat := (List.range 10).map (fun i => v / 10 ^ (9 - i) % 10)

/-- The round value y of FF1 for 20 digits, radix 10. -/
def ff1Round (key tweak : List Nat) (i num : Nat) : Nat :=
  let t := tweak.length
  let p := [1, 2, 1, 0, 0, 10, 10, 10] ++ natBytes 4 20 ++ natBytes 4 t
  let q := tweak ++ zero8 ((160 - t - 6) % 16) ++ [i] ++ natBytes 5 num
  bytesNat ((cbcMac key (p ++ q)).take 12)

/-- FF1 decryption of 20 digits. -/
def ff1Dec (key tweak digits : List Nat) : List Nat :=
  let (a, b) := (List.range 10).foldl (fun (p : Nat × Nat) k =>
    let i := 9 - k
    let y := ff1Round key tweak i p.1 % 10 ^ 10
    ((p.2 + 10 ^ 10 - y) % 10 ^ 10, p.1)) (digitsNat (digits.take 10), digitsNat (digits.drop 10))
  tenDigits a ++ tenDigits b

/-! ### SHA-256 -/

/-- The round constants. -/
def shaK : List Nat :=
  [0x428A2F98, 0x71374491, 0xB5C0FBCF, 0xE9B5DBA5, 0x3956C25B, 0x59F111F1, 0x923F82A4, 0xAB1C5ED5,
   0xD807AA98, 0x12835B01, 0x243185BE, 0x550C7DC3, 0x72BE5D74, 0x80DEB1FE, 0x9BDC06A7, 0xC19BF174,
   0xE49B69C1, 0xEFBE4786, 0x0FC19DC6, 0x240CA1CC, 0x2DE92C6F, 0x4A7484AA, 0x5CB0A9DC, 0x76F988DA,
   0x983E5152, 0xA831C66D, 0xB00327C8, 0xBF597FC7, 0xC6E00BF3, 0xD5A79147, 0x06CA6351, 0x14292967]
  ++ [0x27B70A85, 0x2E1B2138, 0x4D2C6DFC, 0x53380D13, 0x650A7354, 0x766A0ABB, 0x81C2C92E, 0x92722C85,
   0xA2BFE8A1, 0xA81A664B, 0xC24B8B70, 0xC76C51A3, 0xD192E819, 0xD6990624, 0xF40E3585, 0x106AA070,
   0x19A4C116, 0x1E376C08, 0x2748774C, 0x34B0BCB5, 0x391C0CB3, 0x4ED8AA4A, 0x5B9CCA4F, 0x682E6FF3,
   0x748F82EE, 0x78A5636F, 0x84C87814, 0x8CC70208, 0x90BEFFFA, 0xA4506CEB, 0xBEF9A3F7, 0xC67178F2]

/-- The initial hash value. -/
def shaH : List Nat :=
  [0x6A09E667, 0xBB67AE85, 0x3C6EF372, 0xA54FF53A, 0x510E527F, 0x9B05688C, 0x1F83D9AB, 0x5BE0CD19]

/-- Rotation of a 32-bit word to the right. -/
def rotr (n x : Nat) : Nat := x / 2 ^ n + (x % 2 ^ n) * 2 ^ (32 - n)

/-- The message schedule of a 64-byte block. -/
def shaSchedule (b : List Nat) : List Nat :=
  let w0 := (List.range 16).map (fun i => bytesNat ((b.drop (4 * i)).take 4))
  (List.range 48).foldl (fun (w : List Nat) j =>
    let i := 16 + j
    let x := w.getD (i - 15) 0
    let y := w.getD (i - 2) 0
    let s0 := rotr 7 x ^^^ rotr 18 x ^^^ (x / 2 ^ 3)
    let s1 := rotr 17 y ^^^ rotr 19 y ^^^ (y / 2 ^ 10)
    w ++ [(w.getD (i - 16) 0 + s0 + w.getD (i - 7) 0 + s1) % 2 ^ 32]) w0

/-- One round on the eight working variables. -/
def shaRound (v : List Nat) (kw : Nat × Nat) : List Nat :=
  match v with
  | [a, b, c, d, e, f, g, h] =>
    let s1 := rotr 6 e ^^^ rotr 11 e ^^^ rotr 25 e
    let ch := (e &&& f) ^^^ ((2 ^ 32 - 1 - e) &&& g)
    let t1 := h + s1 + ch + kw.1 + kw.2
    let s0 := rotr 2 a ^^^ rotr 13 a ^^^ rotr 22 a
    let mj := (a &&& b) ^^^ (a &&& c) ^^^ (b &&& c)
    [(t1 + s0 + mj) % 2 ^ 32, a, b, c, (d + t1) % 2 ^ 32, e, f, g]
  | _ => v

/-- SHA-256. -/
def sha256 (msg : List Nat) : List Nat :=
  let n := msg.length
  let m := msg ++ [0x80] ++ zero8 ((119 - n % 64) % 64) ++ natBytes 8 (8 * n)
  let h := (List.range (m.length / 64)).foldl (fun (h : List Nat) i =>
    let w := shaSchedule ((m.drop (64 * i)).take 64)
    List.zipWith (fun x y => (x + y) % 2 ^ 32) h ((shaK.zip w).foldl shaRound h)) shaH
  h.flatMap (natBytes 4)

/-! ### ECDSA on P-256 -/

/-- The field prime, the group order, the coefficient b and the base point. -/
def p256 : Nat := 0xFFFFFFFF00000001000000000000000000000000FFFFFFFFFFFFFFFFFFFFFFFF
def n256 : Nat := 0xFFFFFFFF00000000FFFFFFFFFFFFFFFFBCE6FAADA7179E84F3B9CAC2FC632551
def b256 : Nat := 0x5AC635D8AA3A93E7B3EBBD55769886BC651D06B0CC53B0F63BCE3C3E27D2604B
def g256 : Nat × Nat :=
  (0x6B17D1F2E12C4247F8BCE6E563A440F277037D812DEB33A0F4A13945D898C296,
   0x4FE342E2FE1A7F9B8EE7EB4A7C0F9E162BCE33576B315ECECBB6406837BF51F5)

/-- A power modulo m, over the 256 bits of the exponent. -/
def powMod (b e m : Nat) : Nat :=
  (List.range 256).foldl (fun r i => let s := r * r % m; if bit e (255 - i) then s * b % m else s) 1

/-- The inverse modulo a prime. -/
def invMod (a m : Nat) : Nat := powMod (a % m) (m - 2) m

/-- Addition of points; none is the point at infinity. -/
def ecAdd : Option (Nat × Nat) → Option (Nat × Nat) → Option (Nat × Nat)
  | none, q => q
  | p, none => p
  | some (x1, y1), some (x2, y2) =>
    if x1 = x2 ∧ (y1 + y2) % p256 = 0 then none
    else
      let l := if x1 = x2 then (3 * x1 * x1 + (p256 - 3)) * invMod (2 * y1) p256 % p256
        else (y2 + p256 - y1) * invMod (x2 + p256 - x1) p256 % p256
      let x3 := (l * l + 2 * p256 - x1 - x2) % p256
      some (x3, (l * (x1 + p256 - x3) + p256 - y1) % p256)

/-- A multiple of a point. -/
def ecMul (k : Nat) (p : Nat × Nat) : Option (Nat × Nat) :=
  (List.range 256).foldl (fun r i => let d := ecAdd r r; if bit k (255 - i) then ecAdd d (some p) else d) none

/-- Whether a public key is a point of the curve. -/
def onCurve (q : Nat × Nat) : Bool :=
  decide (q.1 < p256 ∧ q.2 < p256) && decide (q.2 * q.2 % p256 = (q.1 * q.1 * q.1 + (p256 - 3) * q.1 + b256) % p256)

/-- ECDSA verification of r ‖ s over SHA-256 of a message, under a public key X ‖ Y. -/
def ecdsaVerify (pub msg sig : List Nat) : Bool :=
  let q := (bytesNat (pub.take 32), bytesNat (pub.drop 32))
  let r := bytesNat (sig.take 32)
  let s := bytesNat (sig.drop 32)
  if !onCurve q ∨ r = 0 ∨ n256 ≤ r ∨ s = 0 ∨ n256 ≤ s then false
  else
    let w := invMod s n256
    let z := bytesNat (sha256 msg)
    match ecAdd (ecMul (z * w % n256) g256) (ecMul (r * w % n256) q) with
    | none => false
    | some (x, _) => decide (x % n256 = r)

/-- Bytes as numbers and back. -/
def nats (l : List Byte) : List Nat := l.map BitVec.toNat
def ofNats (l : List Nat) : List Byte := l.map byte

end Sys2Proof.Machine
end

