-- ==== Sys2Proof/Machine/SafetyNet.lean ====
section
/-! DEFINITION. The Safety Net: conditions of use, the exit from the safe state, the configuration CRC, the diagnostics of
Compute, tamper inputs and the acknowledgement and forced entry (spec 14_safety_log.md). -/

namespace Sys2Proof.Machine

/-! ### Conditions of use (R461, R462, Table 14.1) -/

/-- The saved word of a register; its reset value where no save has been made or the register was at its reset value. -/
def State.savedWord (s : State) (a : Nat) : Word := match s.saved with
  | some (l, _) => sget regReset l a
  | none => regReset a

/-- Whether a field in force equals its saved value. -/
def State.isSaved (s : State) (f : Fld) : Bool :=
  s.saved.isSome && decide (s.get f = bitsOf (s.savedWord f.addr) f.hi f.lo)

/-- Whether the schedule table in force is the saved one. -/
def State.schedSaved (s : State) : Bool := match s.saved with
  | some (_, t, _) => decide (t = s.schedTable)
  | none => false

/-- Whether some GPIO ball has a function. -/
def State.hasGpio (s : State) (fn : Nat) : Bool := s.gpioHas [fn]

/-- SEALED with the seal closed (R448, R67). -/
def State.sealedShut (s : State) : Bool := decide (s.get F.KEYS_LC_STATE = 2) && !s.pins.sealForce

/-- The LOOPBACK entry is in every tick. -/
def State.loopbackEvery (s : State) : Bool := s.entries.any (fun e => decide (e.kind = 2 ∧ e.every = 1))

/-- Which rows of Table 14.1 a claim meets, in table order; the two rows that the block cannot observe count as met. -/
def State.condRows (s : State) (sf2 : Bool) : List Bool :=
  let cfg := (List.range 32).all (fun i => s.isSaved ⟨F.SAFE_CFG, i, i⟩) && s.schedSaved
  if sf2 then
    [s.flag F.SAFE_CFG_SF2, true, s.loopbackEvery && s.flag F.AME_LB_ASYMALT, true, s.hasGpio 4 && s.hasGpio 3,
     s.sealedShut, cfg && s.isSaved F.AME_LB_ASYMALT && (List.range 12).all (fun n => s.isSaved (F.MGMT_GPIO_FUNC n)),
     true, true]
  else
    [s.flag F.SAFE_CFG_SF1, decide (s.get F.FT_PERIOD_N ≤ 8), true, s.flag F.PAY_VLV_EN, true, s.sealedShut,
     cfg && s.isSaved F.FT_PERIOD_N && s.isSaved F.PAY_VLV_EN, true, true]

/-- The mask of unmet rows: bit r for row r + 1. -/
def unmetMask (l : List Bool) : Nat := sumNat (l.zipIdx.map (fun x => if x.1 then 0 else 2 ^ x.2))

/-- One claim's condition at Capture; a declared claim that loses it writes code 0x33. -/
def State.condCapture (s : State) (sf2 : Bool) (f : Fld) : State :=
  let m := unmetMask (s.condRows sf2)
  let was := s.flag f
  let s1 := s.putB f (decide (m = 0))
  if was ∧ m ≠ 0 ∧ s.flag (if sf2 then F.SAFE_CFG_SF2 else F.SAFE_CFG_SF1) then
    s1.logTrouble 0x33 (if sf2 then 2 else 1) m else s1

/-- R462: both claims at a Capture. -/
def State.conditions (s : State) : State := (s.condCapture false F.SAFE_STAT_CONDOK1).condCapture true F.SAFE_STAT_CONDOK2

/-! ### Close demands at Capture (R468) -/

/-- TCLOSE follows the tamper close demand; a demand of the Safety Net sets SSHELD and wants the drive. -/
def State.refreshClose (s : State) : State :=
  let s1 := s.putB F.SAFE_STAT_TCLOSE s.tamperClose
  if (s1.tamperClose ∨ (s1.flag F.SAFE_STAT_SAFE ∧ s1.flag F.SAFE_CFG_SSCLOSE)) ∧ !s1.flag F.SAFE_STAT_SSHELD then
    s1.demandClose else s1

/-! ### The exit (R466) -/

/-- Codes whose reaction never enters the safe state: log-only diagnostics. -/
def logOnlyCode (c : Nat) : Bool := c = 0x14 || c = 0x20 || c = 0x45

/-- Whether the tick had no detection of a fault whose reaction enters the safe state. -/
def State.cleanTick (s : State) : Bool := s.safe.now.all logOnlyCode

/-- The fault-free ticks that the next Capture counts. A tick counts only if the safe state held through it. -/
def State.exitCount (s : State) : Nat := satNat 8 (s.get F.SAFE_STAT_EXITCNT + b2n s.cleanTick)

/-- The three conditions of R466. -/
def State.exitReady (s : State) : Bool :=
  s.flag F.SAFE_STAT_SAFE && decide (s.get F.SAFE_CFG_EXITT ≤ s.exitCount)
    && !([0, 1].any (fun x => decide (s.get (F.MP_STAT_PLAUSCNT x) = 8))) && s.rtc.xtRun
    && (!s.safe.needAck || s.safe.acked) && !s.safe.flash

/-- The exit at the Capture of the next tick: the indicator falls, 0x81 and legal event 0x36 are written, and RECOV is loaded. -/
def State.leaveSafe (s : State) : State :=
  let c := s.get F.SAFE_STAT_CAUSE
  let s1 := s.logTrouble 0x81 (b2n s.safe.needAck) ((s.rm.tick + 1 - s.safe.since) % 2 ^ 32)
  let s2 := (((s1.clr F.SAFE_STAT_SAFE).clr F.SAFE_STAT_RESTART).clr F.SAFE_STAT_ACKREQ).clr F.SAFE_STAT_EXITCNT
  let s3 := { s2 with safe := { s2.safe with needAck := false, acked := false } }
  ((s3.legal 0x36 [byte c]).markRecov 0).markRecov 1

/-- The exit rule at a Capture; then the detections of the tick that ended become those of the previous tick. -/
def State.safeCapture (s : State) : State :=
  let s1 := if s.exitReady then s.leaveSafe
    else if s.flag F.SAFE_STAT_SAFE then s.put F.SAFE_STAT_EXITCNT s.exitCount else s
  { s1 with safe := { s1.safe with prev := s1.safe.now, now := [] } }

/-- SAFE_STATE_EXIT: at the Capture that is due, the safe state ends (R466). -/
def execSafeStateExit (s : State) : Host.Outcome State Fault Refusal :=
  .next (if s.ticking ∧ s.rm.phaseDone ∧ s.exitReady then s.leaveSafe else s)

/-! ### The configuration CRC (R473) -/

/-- SAFE_CFGCRC of the configuration in force. -/
def State.crcCapture (s : State) : State := s.wr F.SAFE_CFGCRC (Config.cfgCrc s.configuration)

/-! ### Diagnostics of Compute (R53, R54, R471 to R477) -/

/-- The scrub of the tick, and the entry of the errors corrected since the last Compute (R54, Table 14.3). -/
def State.eccCheck (s : State) : State :=
  let s1 := s.scrubTick
  if s1.safe.corr = 0 then s1
  else { s1 with safe := { s1.safe with corr := 0 } }.detect 0x20 0xFF s1.safe.corr .logOnly

/-- A Carousel write that its ring's ownership forbids: discarded and counted, and a fault (R53). -/
def State.ownerFault (s : State) (x : Nat × Nat) : State := (s.bump F.SYS_CRS_ERR_COUNT 1).detect 0x23 x.1 x.2 .atOnce

/-- The ownership violations that the hardware has met since the last Compute, each counted. -/
def State.ownerCheck (s : State) (d : DiagIn) : State := d.ownership.foldl State.ownerFault s

/-- The comparison of the recomputed CRC with SAFE_CFGCRC: an upset configuration fails it; the recomputed value is free. -/
def State.crcCheck (s : State) (d : DiagIn) : State :=
  if d.cfgUpset then
    let (c, s1) := s.draw (2 ^ 32)
    (s1.detect 0x30 0xFF c .atOnce).safetyReset 0x30
  else s

/-- The freshness check of R474: a stale record that the hardware left, with its source and the tick number found. -/
def State.freshCheck (s : State) (d : DiagIn) : State := match d.staleFound with
  | none => s
  | some (src, t) => s.detect 0x32 src t .atOnce

/-- The flash check of R477 at the end of a pass; the fault stays outstanding until the restart. -/
def State.flashCheck (s : State) (d : DiagIn) : State := match d.flashBad with
  | none => s
  | some (bank, off) =>
    let s1 := (s.detect 0x24 bank off .atOnce).safetyReset 0x24
    { s1 with safe := { s1.safe with flash := true } }

/-- A health test of the random number generator has failed: its output is withheld until a start-up test passes (R457). -/
def State.rngFail (s : State) : State :=
  (({ s with keys := { s.keys with rngOff := true } }).set1 F.KEYS_STAT_TRNGERR).logTrouble 0x71 0xFF 0

/-- The start-up test of the random number generator (R457). -/
def State.checkRng (s : State) (bad : Bool) : State :=
  if bad then s.rngFail else { s with keys := { s.keys with rngOff := false } }

/-- The diagnostics of Compute but the loopback check, which precedes the meter points, and core RAM, whose reset is at
once. -/
def State.diagnose (s : State) (d : DiagIn) : State :=
  let s1 := (((s.eccCheck.ownerCheck d).crcCheck d).flashCheck d).freshCheck d
  if d.rngBad then s1.rngFail else s1

/-! ### Tamper inputs (R75, R111, R453, R478, R479) -/

/-- A tamper input as AON samples it. -/
def State.tampIn (s : State) (n : Nat) : Sampler := s.pins.tamp.getD n .init

/-- Replaces it. -/
def State.setTampIn (s : State) (n : Nat) (x : Sampler) : State := { s with pins := { s.pins with tamp := s.pins.tamp.set n x } }

/-- Shows the accepted level. -/
def State.showTamp (s : State) (n : Nat) : State :=
  let level := (s.tampIn n).level
  (s.putB (F.SAFE_TAMP_LEVEL n) level).putB (F.SAFE_TAMP_ACTIVE n)
    (decide (s.get (F.SAFE_TAMP_MODE n) ≠ 0) && decide (level = s.flag (F.SAFE_TAMP_POL n)))

/-- An accepted change of an enabled input. -/
def State.tampChange (s : State) (n : Nat) : State :=
  let was := s.flag (F.SAFE_TAMP_ACTIVE n)
  let s1 := s.showTamp n
  if s1.flag (F.SAFE_TAMP_ACTIVE n) then s1.raiseTamper n else if was then s1.tamperEnd n else s1

/-- AON takes over the mode of an input; at the moment one is enabled, its first sample is accepted (R67, R75). -/
def State.tampSense (s : State) (n : Nat) : State :=
  let m := s.get (F.SAFE_TAMP_MODE n)
  let s1 := if m ≠ 0 ∧ s.pins.tampMode.getD n 0 = 0 then s.setTampIn n (s.tampIn n).first else s
  { s1 with pins := { s1.pins with tampMode := s1.pins.tampMode.set n m } }

/-- An input that a start-up or a Capture brings into force: one already active counts as changed to active (R479). -/
def State.tampArm (s : State) (n : Nat) : State :=
  let s1 := (s.tampSense n).showTamp n
  if s1.flag (F.SAFE_TAMP_ACTIVE n) then s1.raiseTamper n else s1

/-- An accepted change. Where the core runs or can be woken it is a tamper or the end of its condition, and the core captures the
time first (R453); in HIBERNATE it is latched as a wake where WAKE_TAMP is 1 (R93). -/
def State.tampAccept (s : State) (n : Nat) : State :=
  if s.coreAlive then s.wakeCore.capture.tampChange n
  else if s.pow.stage = .hibernate ∧ s.flag F.PWR_CTRL_WAKE_TAMP then s.retWrite 7 [Nat.lor (s.ret 7) 4]
  else s

/-- One sample of a tamper input: three in a row accept a level in sampled mode, two in continuous mode; AON takes none of a disabled
input, and none in BACKUP (R75). -/
def State.tampSample (n : Nat) (s : State) (v : Bool) : State :=
  let x := s.tampIn n
  let m := s.pins.tampMode.getD n 0
  if m = 0 ∨ s.pow.stage = .backup then s.setTampIn n (x.follow v)
  else
    let y := x.sample (if m = 2 then 2 else 3) v
    let s1 := s.setTampIn n y
    if y.level = x.level then s1 else s1.tampAccept n

/-- TAMPER_INPUT_CHANGE (R75, R479): AON samples the input, each 31.25 ms in continuous mode and each 125 ms otherwise. -/
def execTamperInputChange (dt : Nat) (input : Fin 4) (samples : List Bool) (s : State) : Host.Outcome State Fault Refusal :=
  let n := input.val
  .next (State.sampleRun (State.tampSample n) (if s.pins.tampMode.getD n 0 = 2 then samplePeriodCont else samplePeriod) s dt samples)

/-! ### Acknowledgement and forced entry (R466, R487) -/

/-- ACK: a Utility-role write of 1 to SAFE_CMD.ACK acknowledges the causes so far (R466). -/
def State.ackSafe (s : State) : State :=
  if s.safe.needAck then ({ s with safe := { s.safe with acked := true } }).clr F.SAFE_STAT_ACKREQ else s

/-- ACK (R466, R487). -/
def execAck (src : Source) (s : State) : Host.Outcome State Fault Refusal :=
  .next (if s.serviceOpen ∧ roleAtLeast (s.roleOf src) .utility then s.ackSafe else s)

/-- The forced entry; outside test mode it has no effect (R487). -/
def State.forceSafe (s : State) : State :=
  if s.flag F.CMD_MODE_TEST then s.detect 0x79 0xFF 0 .atOnce else s

/-- FORCE (R466, R487). -/
def execForce (src : Source) (s : State) : Host.Outcome State Fault Refusal :=
  .next (if s.serviceOpen ∧ roleAtLeast (s.roleOf src) .installer then s.forceSafe else s)

end Sys2Proof.Machine
end

