-- ==== Sys2Proof/Machine/Keys.lean ====
section
/-! DEFINITION. The key store: slots and wrapped blobs, the key record, key messages and their checks, the two-phase
commit, life-cycle transitions, debug enables and the end of a tamper hold (spec 13_keys_lifecycle.md). -/

namespace Sys2Proof.Machine

/-! ### Root and derived keys (R430, R431, Table 13.2) -/

/-- The 64-bit device identifier, most significant byte first. -/
def State.devid (s : State) : List Nat :=
  natBytes 4 (s.rd F.MGMT_DEVID_HI).toNat ++ natBytes 4 (s.rd F.MGMT_DEVID_LO).toNat

/-- The root keys in their order: the device unique key, the manufacturer root and the test root. -/
def rootKey : Nat → BitVec 256
  | 0 => Config.duk
  | 1 => Config.mrk
  | _ => Config.trk

/-- A root key; none where it failed its check at start-up, so that no key derived from it is formed (R429). -/
def State.root (s : State) (i : Nat) : Option (List Nat) :=
  if s.keys.cells.rootBad.getD i false then none else some (natBytes 32 (rootKey i).toNat)

/-- The manufacturer root, or the test root while debug is enabled (R430). -/
def State.mroot (s : State) : Option (List Nat) := s.root (if s.flag F.KEYS_LC_DBG then 2 else 1)

/-- KW of an epoch. -/
def kwOf (duk : List Nat) (epoch : Nat) : List Nat := kdf duk ['W', 'R', 'A', 'P'] (natBytes 4 epoch) 32

/-- K_MT, K_MP, K_MA. -/
def State.kmt (s : State) : Option (List Nat) := s.mroot.map (fun k => kdf k ['T', 'R', 'A', 'N', 'S', 'P', 'O', 'R', 'T'] s.devid 32)
def State.kmp (s : State) : Option (List Nat) := s.mroot.map (fun k => kdf k ['P', 'E', 'R', 'S'] s.devid 32)
def State.kma (s : State) : Option (List Nat) := s.mroot.map (fun k => kdf k ['M', 'A', 'U', 'T', 'H'] s.devid 16)

/-- K_KEK and K_MAC of a utility master key. -/
def State.kkek (s : State) (umk : List Nat) : List Nat := kdf umk ['K', 'E', 'K'] s.devid 32
def State.kmac (s : State) (umk : List Nat) : List Nat := kdf umk ['K', 'M', 'A', 'C'] s.devid 32

/-! ### The key record (R436, R437, Table 13.4) -/

/-- View address of a row of a copy. -/
def keyRow (copy row : Nat) : Nat := 0x3000FA00 + 512 * copy + 64 * row

/-- The 512 bytes of a copy. -/
def State.keyCopy (s : State) (copy : Nat) : List Byte := s.nvmBytes (keyRow copy 0) 512

/-- A little-endian field of a copy. -/
def copyField (c : List Byte) (off n : Nat) : Nat := natLE ((c.drop off).take n)

/-- SEQ, COUNTER, EPOCH, LCS, STATE, TSLOT, KIND. -/
def copySeq (c : List Byte) : Nat := copyField c 0 4
def copyCounter (c : List Byte) : Nat := copyField c 4 4
def copyEpoch (c : List Byte) : Nat := copyField c 8 4
def copyLcs (c : List Byte) : Nat := copyField c 12 1
def copyState (c : List Byte) : Nat := copyField c 13 1
def copyTslot (c : List Byte) : Nat := copyField c 14 1
def copyKind (c : List Byte) : Nat := copyField c 15 1

/-- Whether HCRC is correct, and PCRC. -/
def headerOk (c : List Byte) : Bool := decide (crc32 (c.take 60) = copyField c 60 4)
def payloadOk (c : List Byte) : Bool := decide (crc32 (c.drop 64) = copyField c 16 4)

/-- A valid copy (R437). -/
def copyValid (c : List Byte) : Bool := headerOk c && payloadOk c && decide (copyState c = 2)

/-- Whether one SEQ is above another modulo 2^32. -/
def seqAbove (a b : Nat) : Bool := decide (0 < (a + 2 ^ 32 - b) % 2 ^ 32 ∧ (a + 2 ^ 32 - b) % 2 ^ 32 < 2 ^ 31)

/-- The committed copy. -/
def State.committed (s : State) : Option Nat :=
  let a := s.keyCopy 0
  let b := s.keyCopy 1
  match copyValid a, copyValid b with
  | true, true => some (if seqAbove (copySeq b) (copySeq a) then 1 else 0)
  | true, false => some 0
  | false, true => some 1
  | false, false => none

/-- AUTHPUB, DIGEST and a slot's entry of a copy. -/
def copyPub (c : List Byte) : List Byte := (c.drop 96).take 64
def copyDigest (c : List Byte) : List Byte := (c.drop 64).take 32
def copySlot (c : List Byte) (i : Nat) : List Byte := (c.drop (160 + 44 * i)).take 44

/-- A copy's bytes: header with its CRCs, and payload. -/
def buildCopy (seq counter epoch lcs state tslot kind : Nat) (payload : List Byte) : List Byte :=
  let h := bytesLE 4 seq ++ bytesLE 4 counter ++ bytesLE 4 epoch ++ [byte lcs, byte state, byte tslot, byte kind]
    ++ bytesLE 4 (crc32 payload) ++ zeros 40
  h ++ bytesLE 4 (crc32 h) ++ payload

/-- The payload rows: digest, authority key, slots. -/
def buildPayload (digest pub : List Byte) (slots : List (List Byte)) : List Byte := digest ++ pub ++ slots.flatten

/-! ### What the registers show of the record (R458) -/

/-- Shows a slot's entry. -/
def State.showSlot (s : State) (i : Nat) (e : List Byte) : State :=
  let fl := copyField e 41 1
  if bit fl 0 then
    (((s.put (F.KEYS_SLOT_USAGE i) (copyField e 40 1)).put (F.KEYS_SLOT_SIZE i) (fl / 2 % 2)).put (F.KEYS_SLOT_LOADED i) 0).put
      (F.KEYS_SLOT_VALID i) 1
  else s.wr (F.KEYS_SLOT i) 0#32

/-- Shows DIGEST and AUTHPUB of a copy; AUTHPUB reads zero in RETIRED. -/
def State.showRecord (s : State) (c : List Byte) : State :=
  let w (l : List Byte) (m : Nat) : Word := word (natBE ((l.drop (4 * m)).take 4))
  let s1 := (List.range 8).foldl (fun t m => t.wr (F.KEYS_DIG m) (w (copyDigest c) m)) s
  let pub := if s.keys.cells.lcs = 4 then zeros 64 else copyPub c
  (List.range 16).foldl (fun t m => t.wr (F.KEYS_APUB m) (w pub m)) s1

/-- KEYS_LC shows the cells. -/
def State.showCells (s : State) : State :=
  let c := s.keys.cells
  (((s.put F.KEYS_LC_STATE c.lcs).put F.KEYS_LC_EPOCH c.epoch).putB F.KEYS_LC_DBGEN_B c.dbgB).putB F.KEYS_LC_DBGEN_R c.dbgR

/-- AUTHPUB in force, none when zero. -/
def State.authPub (s : State) : Option (List Byte) :=
  match s.keys.used with
  | none => none
  | some c =>
    let p := copyPub (s.keyCopy c)
    if s.keys.cells.lcs = 4 ∨ p = zeros 64 then none else some p

/-! ### Slots (R432 to R434) -/

/-- A key store fault for the Safety Net. -/
def State.keyFault (s : State) : State := s.logTrouble 0x70 0xFF (s.rd F.KEYS_STAT).toNat

/-- The key of a slot, unwrapped on demand; none where the slot is empty, in tamper hold, or its blob fails, and where KW is not
formed. -/
def State.slotKey (s : State) (i : Nat) : Option (List Nat) × State :=
  if s.flag F.KEYS_STAT_HOLD ∨ !s.flag (F.KEYS_SLOT_VALID i) then (none, s)
  else match s.keys.slots.getD i none, s.keys.used, s.root 0 with
    | some k, _, _ => (some (nats k), s)
    | none, some c, some duk =>
      let e := copySlot (s.keyCopy c) i
      let blob := nats (e.take (if s.flag (F.KEYS_SLOT_SIZE i) then 40 else 24))
      match unwrapKey (kwOf duk (copyEpoch (s.keyCopy c))) blob with
      | some k =>
        (some k, ({ s with keys := { s.keys with slots := s.keys.slots.set i (some (ofNats k)) } }).set1 (F.KEYS_SLOT_LOADED i))
      | none => (none, (s.set1 F.KEYS_STAT_UNWRAPERR).keyFault)
    | none, _, _ => (none, s)

/-- The key of a slot for a use: bit `use` of its usage byte (R434). -/
def State.slotFor (s : State) (i use : Nat) : Option (List Nat) × State :=
  if bit (s.get (F.KEYS_SLOT_USAGE i)) use then s.slotKey i else (none, s)

/-- Every slot zeroised. -/
def State.zeroise (s : State) : State :=
  let s1 := (List.range 8).foldl (fun t i => t.clr (F.KEYS_SLOT_LOADED i)) s
  { s1 with keys := { s1.keys with slots := List.replicate 8 none } }

/-! ### Key messages (R438 to R440, Tables 13.5 to 13.7) -/

/-- A key message's fields; `signed` is every byte before AUTH. -/
structure KeyFields where
  kind : Nat
  devid : List Nat
  counter : Nat
  target : Nat
  usage : Nat
  flags : Nat
  time : Nat
  wkey : List Nat
  pub : List Nat
  auth : List Nat
  signed : List Nat
  deriving DecidableEq, Repr

/-- Cuts a byte string at lengths. -/
def cutAt (l : List Nat) : List Nat → List (List Nat)
  | [] => []
  | n :: t => l.take n :: cutAt (l.drop n) t

/-- The layout of Table 13.6: none where FORMAT fails. A SLOT above 7 and PUBP in a key update fail it (log entry 20). -/
def parseKey (b : List Nat) : Option KeyFields :=
  let kind := b.getD 0 0
  let fl := if kind = 0x10 then b.getD 16 0 else if kind = 0x11 then b.getD 15 0 else 2
  let keyp := bit fl 2
  let wlen := if kind ≤ 0x11 ∧ keyp then (if bit fl 0 then 40 else 24) else 0
  let plen := if kind = 0x12 ∨ (kind = 0x11 ∧ bit fl 3) then 64 else 0
  let alen := if bit fl 1 then 64 else 16
  let head := if kind = 0x10 then 17 else if kind = 0x11 then 16 else if kind = 0x12 then 14 else 18
  let total := head + wlen + plen + alen
  if kind < 0x10 ∨ 0x13 < kind ∨ b.length ≠ total ∨ b.getD 1 0 ≠ 1 ∨ 16 ≤ fl ∨ (bit fl 0 ∧ !keyp)
    ∨ (kind = 0x10 ∧ (bit fl 3 ∨ 7 < b.getD 14 0)) then none
  else match cutAt (b.drop head) [wlen, plen, alen] with
    | [w, p, a] => some
        { kind := kind, devid := (b.drop 2).take 8, counter := bytesNat ((b.drop 10).take 4),
          target := if kind ≤ 0x11 then b.getD 14 0 else 0, usage := if kind = 0x10 then b.getD 15 0 else 0, flags := fl,
          time := if kind = 0x13 then bytesNat ((b.drop 14).take 4) else 0, wkey := w, pub := p, auth := a,
          signed := b.take (total - alen) }
    | _ => none

/-- Whether the message carries a key, an AES-256 key, an ECDSA signature, a public key. -/
def KeyFields.keyp (m : KeyFields) : Bool := bit m.flags 2
def KeyFields.big (m : KeyFields) : Bool := bit m.flags 0
def KeyFields.ecdsa (m : KeyFields) : Bool := bit m.flags 1
def KeyFields.pubp (m : KeyFields) : Bool := bit m.flags 3

/-- The SEC of the tamper latch. -/
def State.latchedSec (s : State) : Nat := s.ret 0x0A + 256 * s.ret 0x0B + 65536 * s.ret 0x0C + 16777216 * s.ret 0x0D

/-- Whether a transition is one of Table 13.9, its conditions met. A transition that must carry a key or a public key and
does not is not allowed (log entry 20). -/
def State.transitionOk (s : State) (m : KeyFields) : Bool :=
  match s.keys.cells.lcs, m.target with
  | 0, 1 => m.keyp && m.pubp
  | 0, 4 => true
  | 1, 2 => m.keyp && !s.pins.sealForce
  | 1, 3 => true
  | 1, 4 => true
  | 2, 3 => true
  | 2, 4 => true
  | 3, 4 => true
  | _, _ => false

/-- The STATE check. -/
def State.keyStateOk (s : State) (m : KeyFields) : Bool :=
  let lcs := s.keys.cells.lcs
  let hold := s.flag F.KEYS_STAT_HOLD
  let normal := decide (lcs = 1 ∨ lcs = 2)
  if hold ∧ m.kind ≠ 0x13 then false
  else if m.kind = 0x13 then
    hold && decide (m.time = s.latchedSec) && (normal || (decide (lcs = 3) && s.authPub.isSome))
  else if m.kind = 0x11 then s.transitionOk m
  else normal

/-- Whether the authentication method is one that Tables 13.5 and 13.9 allow. -/
def State.methodOk (s : State) (m : KeyFields) : Bool :=
  if m.kind = 0x10 then m.ecdsa || !(decide (m.target = 0) && m.keyp)
  else if m.kind = 0x11 then (if s.keys.cells.lcs = 0 then !m.ecdsa else true)
  else true

/-- The CMAC key of a message: K_MP in BLANK and RETURNED, K_MAC otherwise; none where slot 0 is empty. -/
def State.macKey (s : State) (m : KeyFields) : Option (List Nat) × State :=
  if m.kind = 0x11 ∧ (s.keys.cells.lcs = 0 ∨ s.keys.cells.lcs = 3) then (s.kmp, s)
  else
    let (k, s1) := s.slotKey 0
    (k.map s.kmac, s1)

/-- USAGE of a key update (Table 13.3). -/
def usageOk (m : KeyFields) : Bool :=
  let u := m.usage
  let useBits := u % 32
  if m.kind ≠ 0x10 then true
  else if m.keyp ≠ decide (u ≠ 0) then false
  else if u = 0 then true
  else if 3 < u / 32 then false
  else if decide (m.target = 0) ≠ bit u 3 then false
  else if bit u 3 then decide (u = 8)
  else if bit u 2 then decide (useBits = 4) && !m.big
  else if bit u 1 then !m.big
  else true

/-- The key that a message carries, unwrapped; `some none` where it carries none, none where it does not unwrap. -/
def State.carriedKey (s : State) (m : KeyFields) : Option (Option (List Nat)) × State :=
  if m.keyp = false then (some none, s)
  else if m.kind = 0x11 ∧ s.keys.cells.lcs = 0 then ((s.kmt.bind (fun k => unwrapKey k m.wkey)).map some, s)
  else
    let (u, s1) := s.slotKey 0
    match u with
    | none => (none, s1)
    | some umk => ((unwrapKey (s.kkek umk) m.wkey).map some, s1)

/-! ### Results and the commit (R443, R445) -/

/-- A message rejected with a result of Table 13.7. -/
def State.keyReject (s : State) (result : Nat) : State :=
  (s.put F.KEYS_LAST_RESULT result).bump F.KEYS_CNT_REJECTED 1

/-- A slot entry of 44 bytes for a key, wrapped under KW of an epoch. A commit needs KEYS_STAT.FAULT to be 0, so that the device
unique key is good. -/
def slotEntry (duk : List Nat) (epoch usage : Nat) (key : List Nat) : List Byte :=
  let blob := wrapKey (kwOf duk epoch) key
  ofNats (blob ++ zero8 (40 - blob.length)) ++ [byte usage, byte (1 + 2 * b2n (decide (key.length = 32))), 0#8, 0#8]

/-- Starts the commit that applies a message (R445): the other copy, its bytes with STATE PREPARED. -/
def State.startCommit (s : State) (r : KeyRun) (m : KeyFields) (key : Option (List Nat)) : State :=
  let old := s.committed
  let oldCopy := match old with | some c => s.keyCopy c | none => zeros 512
  let copy := match old with | some c => 1 - c | none => 0
  let seq := (copySeq oldCopy + 1) % 2 ^ 32
  let trans := decide (m.kind = 0x11)
  let epoch := s.keys.cells.epoch + b2n trans
  let lcs := if trans then m.target else s.keys.cells.lcs
  let pub : List Byte := if m.kind = 0x12 ∨ (trans ∧ m.pubp) then ofNats m.pub
    else if lcs = 4 then zeros 64 else copyPub oldCopy
  let kept := if trans then List.replicate 8 (zeros 44) else (List.range 8).map (copySlot oldCopy)
  let entry := slotEntry ((s.root 0).getD []) epoch
  let slots := match key with
    | some k => if trans then kept.set 0 (entry 8 k) else kept.set m.target (entry m.usage k)
    | none => if m.kind = 0x10 then kept.set m.target (zeros 44) else kept
  let tslot := if m.kind = 0x10 then m.target else 0xFF
  let bytes := buildCopy seq m.counter epoch lcs 1 tslot m.kind
    (buildPayload (ofNats (sha256 (nats r.bytes))) (if lcs = 4 then zeros 64 else pub) slots)
  let c : KeyCommit := ⟨r, copy, bytes, 0, if trans then some m.target else none,
    if m.kind = 0x10 then some m.target else none, false⟩
  { s.put F.KEYS_STAT_COMMIT 1 with keys := { s.keys with commit := some c } }

/-- The checks after AUTH: STALE, USAGE, UNWRAP, FAULT; then the commit. The result is none when the commit has begun. -/
def State.keyChecks2 (s : State) (r : KeyRun) (m : KeyFields) : Option Nat × State :=
  if m.counter ≤ s.get F.KEYS_CTR_COUNTER then (some 5, s.keyReject 5)
  else if !usageOk m then (some 6, s.keyReject 6)
  else
    let (k, s1) := s.carriedKey m
    match k with
    | none => (some 7, s1.keyReject 7)
    | some key =>
      if s1.flag F.KEYS_STAT_FAULT then (some 9, s1.keyReject 9) else (none, s1.startCommit r m key)

/-- The checks of a complete message up to AUTH, with a CMAC to the end (R440, R441). The result is none while an ECDSA
verification runs or a commit has begun. -/
def State.keyMessage (s : State) (src : Source) (line : Option (Carrier × LineForm)) (bytes : List Byte) : Option Nat × State :=
  let s0 := (s.put F.KEYS_LAST_KIND (bytes.getD 0 0#8).toNat).clr F.KEYS_LAST_SLOT
  match parseKey (nats bytes) with
  | none => (some 1, s0.keyReject 1)
  | some m =>
    let s1 := s0.put F.KEYS_LAST_SLOT m.target
    let run : KeyRun := ⟨src, line, bytes, s.rm.tick, none⟩
    if m.devid ≠ s.devid then (some 2, s1.keyReject 2)
    else if !s1.keyStateOk m then (some 3, s1.keyReject 3)
    else if !s1.methodOk m then (some 4, s1.keyReject 4)
    else if m.ecdsa then
      if s1.authPub = none then (some 4, s1.keyReject 4)
      else (none, { s1.set1 F.KEYS_STAT_BUSY with keys := { s1.keys with run := some run } })
    else
      let (k, s2) := s1.macKey m
      match k with
      | none => (some 4, s2.keyReject 4)
      | some key => if cmac key m.signed = m.auth then s2.keyChecks2 run m else (some 4, s2.keyReject 4)

/-- Whether a key message answers E04 before the first check (R137, R440). A verification whose later checks still wait
counts as busy (log entry 20). -/
def State.keyBusy (s : State) : Bool :=
  s.flag F.KEYS_STAT_BUSY || decide (s.get F.KEYS_STAT_COMMIT ≠ 0) || s.keys.run.isSome || s.keys.commit.isSome

/-- The reply owed to a message. -/
def State.owe (s : State) (r : KeyRun) (code reason : Nat) : State :=
  { s with keys := { s.keys with reply := some ⟨r.src, r.line, (r.bytes.getD 0 0#8).toNat, code, reason⟩ } }

/-- The Service window after a verification has ended: the checks after AUTH, in a later tick than the first (R441). -/
def State.keyService (s : State) : State :=
  match s.keys.run with
  | none => s
  | some r =>
    match r.verified with
    | none => s
    | some ok =>
      if s.rm.tick ≤ r.tick then s
      else
        let s1 := { s with keys := { s.keys with run := none } }
        if !ok then (s1.keyReject 4).owe r 8 4
        else match parseKey (nats r.bytes) with
          | none => s1
          | some m => match s1.keyChecks2 r m with
            | (some e, s2) => s2.owe r 8 e
            | (none, s2) => s2

/-- The response payload of a key message over the link (R443). -/
def KeyReply.payload (r : KeyReply) : List Byte := [byte (r.kind + 0x80), byte r.code, byte r.reason]

/-- A payload for a link partner, framed by the RADIO task (R387). -/
def State.linkSend (s : State) (nb : Nat) (payload : List Byte) : State :=
  { s with link := { s.link with outbox := s.link.outbox ++ [(nb, payload)] } }

/-- A key message from a link partner, in the Service window in which it is complete (R438, R440, R443). -/
def State.keyFromLink (s : State) (nb : Fin 32) (sec : Bool) (bytes : List Byte) : State :=
  let kind := (bytes.getD 0 0#8).toNat
  if 0x15 ≤ kind then s
  else if s.keyBusy then s.linkSend nb.val [byte (kind + 0x80), 4#8, 0#8]
  else match s.keyMessage (.link nb sec) none bytes with
    | (some e, s1) => s1.linkSend nb.val [byte (kind + 0x80), 8#8, byte e]
    | (none, s1) => s1

/-- A key message from its sender; over a carrier its answer is owed to the session (R442, R443). -/
def State.keyFrom (s : State) (m : KeyMsg) (kind : Nat) : State :=
  if s.serviceOpen = false ∨ (m.bytes.getD 0 0#8).toNat ≠ kind then s
  else match m.src with
    | .link nb sec => s.keyFromLink nb sec m.bytes
    | .carrier c =>
      if s.keyBusy then s
      else (s.keyMessage (.carrier c) none m.bytes).2

/-- KEY_UPDATE (R438, R440): a message of kind 0x10. -/
def execKeyUpdate (m : KeyMsg) (s : State) : Host.Outcome State Fault Refusal := .next (s.keyFrom m 0x10)

/-- LIFE_CYCLE_TRANSITION (R448, R449): a message of kind 0x11. -/
def execLifeCycleTransition (m : KeyMsg) (s : State) : Host.Outcome State Fault Refusal := .next (s.keyFrom m 0x11)

/-- AUTHORITY_CHANGE (R438): a message of kind 0x12. -/
def execAuthorityChange (m : KeyMsg) (s : State) : Host.Outcome State Fault Refusal := .next (s.keyFrom m 0x12)

/-- TAMPER_ACKNOWLEDGEMENT (R455): a message of kind 0x13. -/
def execTamperAcknowledgement (m : KeyMsg) (s : State) : Host.Outcome State Fault Refusal := .next (s.keyFrom m 0x13)

/-- Whether a digest is that of the committed copy (R444). -/
def State.isApplied (s : State) (digest : List Byte) : Bool := match s.committed with
  | none => false
  | some c => decide (copyDigest (s.keyCopy c) = digest)

/-- STATUS_QUERY (R444): the link query answers 0x94, RESULT 0, APPLIED and KEYS_CTR. -/
def execStatusQuery (nb : Fin 32) (digest : List Byte) (s : State) : Host.Outcome State Fault Refusal :=
  .next (if s.serviceOpen then
    s.linkSend nb.val ([0x94#8, 0#8, byte (b2n (s.isApplied digest))] ++ bytesBE 4 (s.get F.KEYS_CTR_COUNTER)) else s)

/-- ECDSA_VERIFICATION_END (R441): the running verification ends with the result that the signature has under AUTHPUB; in an Acoustic
window the engine is suspended. -/
def execEcdsaVerificationEnd (s : State) : Host.Outcome State Fault Refusal :=
  match s.keys.run, s.authPub with
  | some r, some pub =>
    if r.verified.isSome ∨ s.pins.window then .next s
    else
      let ok := match parseKey (nats r.bytes) with
        | some m => ecdsaVerify (nats pub) m.signed m.auth
        | none => false
      .next ({ s.clr F.KEYS_STAT_BUSY with keys := { s.keys with run := some { r with verified := some ok } } }).settlePower
  | _, _ => .next s

/-! ### The phases of a commit (R445, R446, R449, R450) -/

/-- Phase 2: a transition programs the epoch and the life-cycle cells, then row 0 is rewritten COMMITTED; KEYS_CTR takes
COUNTER. -/
def State.commitPhase2 (s : State) (c : KeyCommit) : State :=
  let b := c.bytes
  let s1 := match c.transition with
    | some t => ({ s with keys := { s.keys with cells := { s.keys.cells with epoch := copyEpoch b, lcs := t } } }).showCells
    | none => s
  let done := buildCopy (copySeq b) (copyCounter b) (copyEpoch b) (copyLcs b) 2 (copyTslot b) (copyKind b) (b.drop 64)
  let s2 := s1.nvmWrite (keyRow c.copy 0) (done.take 64)
  { s2.put F.KEYS_CTR_COUNTER (copyCounter b) with keys := { s2.keys with commit := some { c with committed := true } } }

/-- Rows of a key commit in one Persist phase, at most `n`: payload rows 1 to 7, row 0 PREPARED, and in a later phase
row 0 COMMITTED; without a commit, rows of an old copy are overwritten with zero. Answers the rows left. -/
def State.keyPersist (s : State) (n : Nat) : Nat × State :=
  match s.keys.commit with
  | some c =>
    if c.committed ∨ n = 0 then (n, s)
    else if c.rows = 8 then (n - 1, s.commitPhase2 c)
    else
      let k := min n (8 - c.rows)
      let s1 := (List.range k).foldl (fun t i =>
        let row := (c.rows + i + 1) % 8
        t.nvmWrite (keyRow c.copy row) ((c.bytes.drop (64 * row)).take 64)) s
      let s2 := if c.rows + k = 8 then s1.put F.KEYS_STAT_COMMIT 2 else s1
      (n - k, { s2 with keys := { s2.keys with commit := some { c with rows := c.rows + k } } })
  | none => match s.keys.wipe with
    | none => (n, s)
    | some (copy, row) =>
      let k := min n (8 - row)
      let s1 := s.nvmWrite (keyRow copy row) (zeros (64 * k))
      (n - k, { s1 with keys := { s1.keys with wipe := if row + k = 8 then none else some (copy, row + k) } })

/-- LINK_FC of a slot and its reservation return to 0, and its neighbour entries take RXFC 0 and SEQOK 0 (R435); a frame
that waits under the slot takes a new counter. -/
def State.resetLinkSlot (s : State) (i : Nat) : State :=
  let s1 := s.wr (F.LINK_FC i) 0#32
  let j := { s1.jrn with due := true, hid := { s1.jrn.hid with fcRes := s1.jrn.hid.fcRes.set i 0 } }
  let q := s1.link.queue.map (fun f => if f.nb.map (fun n => s1.get (F.LINK_NB_A_KEY n)) = some i then { f with fc := none } else f)
  let s2 := { s1 with jrn := j, link := { s1.link with queue := q } }
  (List.range 32).foldl (fun t n =>
    if t.get (F.LINK_NB_A_KEY n) = i then (t.wr (F.LINK_NB_E n) 0#32).clr (F.LINK_NB_B_SEQOK n) else t) s2

/-- A transition's effects on the link and, in RETURNED and RETIRED, on the password digests (R449). -/
def State.transitionEffects (s : State) (lcs : Nat) : State :=
  let s1 := (List.range 8).foldl State.resetLinkSlot s
  if lcs = 3 ∨ lcs = 4 then { s1 with keys := { s1.keys with pw := [none, none] } } else s1

/-- Every session back to Public (R449). -/
def State.dropRoles (s : State) : State :=
  [Carrier.uart, .optical].foldl (fun t c => t.setCar c { t.car c with role := .publicRole, chal := none }) s

/-- The Capture after phase 2: the commit comes into force (R435, R449, R455). -/
def State.keyCapture (s : State) : State :=
  match s.keys.commit with
  | none => s
  | some c =>
    if !c.committed then s
    else
      let b := c.bytes
      let old := match s.keys.used with | some u => copyLcs (s.keyCopy u) | none => 0
      let s1 := { s with keys := { s.keys with commit := none, used := some c.copy
                                               wipe := if c.transition.isSome then some (1 - c.copy, 0) else s.keys.wipe } }
      let s2 := ((s1.put F.KEYS_STAT_COMMIT 0).put F.KEYS_LAST_RESULT 0).bump F.KEYS_CNT_APPLIED 1
      let s3 := s2.showRecord b
      let s4 := match c.slot with
        | some i =>
          let u := s3.showSlot i (copySlot b i)
          ({ u with keys := { u.keys with slots := u.keys.slots.set i none } }).resetLinkSlot i
        | none => s3
      let s5 := match c.transition with
        | none => s4
        | some t =>
          let u := (List.range 8).foldl (fun (v : State) i => v.showSlot i (copySlot b i)) s4.zeroise
          ((u.transitionEffects t).dropRoles).legal 0x42 [byte old, byte t, byte u.keys.cells.epoch]
      let s6 := s5.legal 0x40 ([byte (copyKind b), byte (copyTslot b)] ++ bytesLE 4 (copyCounter b))
      let s7 := s6.owe c.run 0 0
      if copyKind b = 0x13 then { s7 with keys := { s7.keys with holdAck := some 0 } } else s7

/-- The Capture after an acknowledgement of tamper hold: the latch flags clear, hold ends, the legal log records the form
and the latched time (R455). -/
def State.holdCapture (s : State) : State :=
  match s.keys.holdAck with
  | none => s
  | some form =>
    let t := s.latchedSec
    let s1 := { s.retWrite 8 [0] with keys := { s.keys with holdAck := none } }
    ((s1.clr F.SAFE_TLATCH_HOLD).clr F.KEYS_STAT_HOLD).legal 0x12 ([byte form] ++ bytesLE 4 t)

/-- The acknowledgement by register (R455). -/
def State.holdAckWrite (s : State) : State :=
  if s.flag F.KEYS_STAT_HOLD then { s with keys := { s.keys with holdAck := some 1 } } else s

/-- HOLDACK: a Utility write of 1 to KEYS_CMD.HOLDACK (R455). -/
def execHoldack (src : Source) (s : State) : Host.Outcome State Fault Refusal :=
  .next (if s.serviceOpen ∧ roleAtLeast (s.roleOf src) .utility then s.holdAckWrite else s)

/-- The debug enable of the state in force is programmed, in BLANK or RETURNED only (R451). -/
def State.programDebug (s : State) : State :=
  let c := s.keys.cells
  if c.lcs = 0 then ({ s with keys := { s.keys with cells := { c with dbgB := true } } }).showCells
  else if c.lcs = 3 then ({ s with keys := { s.keys with cells := { c with dbgR := true } } }).showCells
  else s

/-- DBGEN: a Manufacturer write of 1 to KEYS_CMD.DBGEN (R451). -/
def execDbgen (src : Source) (s : State) : Host.Outcome State Fault Refusal :=
  .next (if s.serviceOpen ∧ roleAtLeast (s.roleOf src) .manufacturer then s.programDebug else s)

/-! ### The key record at start-up (R429, R447, R451, Table 13.8) -/

/-- The registers from a copy's payload, with KEYS_CTR never below a committed intact header's COUNTER. -/
def State.loadCopy (s : State) (copy : Nat) : State :=
  let b := s.keyCopy copy
  let s1 := (List.range 8).foldl (fun t i => t.showSlot i (copySlot b i)) (s.showRecord b)
  { s1.put F.KEYS_CTR_COUNTER (max (copyCounter b) (s1.get F.KEYS_CTR_COUNTER)) with keys := { s1.keys with used := some copy } }

/-- No copy is valid: no keys; a fault in any state but BLANK. -/
def State.noRecord (s : State) : State :=
  if s.keys.cells.lcs = 0 then s else (s.set1 F.KEYS_STAT_FAULT).keyFault

/-- The newer copy is discarded: its message was not applied. -/
def State.discardCopy (s : State) (b : List Byte) (older : Option Nat) : State :=
  let s1 := (s.set1 F.KEYS_STAT_DISCARD).logTrouble 0x76 0xFF (s.get F.KEYS_CTR_COUNTER)
  let s2 := s1.legal 0x41 ([byte (copyKind b), byte (copyTslot b)] ++ bytesLE 4 (copyCounter b))
  match older with
  | some o => s2.loadCopy o
  | none => s2.noRecord

/-- Table 13.8 for a newer copy with an intact header and an older one, if any. -/
def State.recoverPair (s : State) (n : Nat) (older : Option Nat) : State :=
  let b := s.keyCopy n
  let c := s.keys.cells
  let oldEpoch := match older with | some o => copyEpoch (s.keyCopy o) | none => 0
  if copyValid b then s.loadCopy n
  else if copyState b = 2 then
    let s1 := s.set1 F.KEYS_STAT_UNWRAPERR
    match older with
    | none => s1.keyFault.noRecord
    | some o =>
      let s2 := s1.loadCopy o
      (if copyTslot b < 8 then s2.wr (F.KEYS_SLOT (copyTslot b)) 0#32 else s2).keyFault
  else if copyState b = 1 ∧ payloadOk b ∧ copyEpoch b = c.epoch ∧ oldEpoch < c.epoch then
    let was := match older with | some o => copyLcs (s.keyCopy o) | none => 0
    let s1 := ({ s with keys := { s.keys with cells := { c with lcs := copyLcs b }, wipe := some (1 - n, 0) } }).showCells
    let done := buildCopy (copySeq b) (copyCounter b) (copyEpoch b) (copyLcs b) 2 (copyTslot b) (copyKind b) (b.drop 64)
    let s2 := (((s1.nvmWrite (keyRow n 0) (done.take 64)).set1 F.KEYS_STAT_ROLLFWD).loadCopy n).transitionEffects (copyLcs b)
    s2.legal 0x42 [byte was, byte (copyLcs b), byte c.epoch]
  else s.discardCopy b older

/-- The COUNTER of a copy whose header is intact and COMMITTED, else 0. -/
def spentCounter (c : List Byte) : Nat := if headerOk c ∧ copyState c = 2 then copyCounter c else 0

/-- The recovery of R447. KEYS_CTR starts from the highest COUNTER of the intact headers that are COMMITTED. -/
def State.keyRecover (s0 : State) : State :=
  let a := s0.keyCopy 0
  let b := s0.keyCopy 1
  let s := s0.put F.KEYS_CTR_COUNTER (max (spentCounter a) (spentCounter b))
  let older (o : Nat) : Option Nat := if copyValid (s.keyCopy o) then some o else none
  match headerOk a && decide (copyState a ≠ 0), headerOk b && decide (copyState b ≠ 0) with
  | true, true => if seqAbove (copySeq b) (copySeq a) then s.recoverPair 1 (older 0) else s.recoverPair 0 (older 1)
  | true, false => s.recoverPair 0 none
  | false, true => s.recoverPair 1 none
  | false, false => s.noRecord

/-- The boot ROM's step at 0.50 ms: each root key is checked against its check value, `bad` naming those that fail now; one that has
failed once fails for good (R429). -/
def State.checkRoots (s : State) (bad : List (Fin 3)) : State :=
  let k := s.keys
  let l := (List.range 3).map (fun i => k.cells.rootBad.getD i false || bad.any (fun b => decide (b.val = i)))
  let s1 := { s with keys := { k with cells := { k.cells with rootBad := l } } }
  if l.any id then ((s1.set1 F.KEYS_STAT_ROOTERR).set1 F.KEYS_STAT_FAULT).keyFault else s1

/-- The boot ROM's step at 0.50 ms: debug is decided from the cells (R451). -/
def State.decideDebug (s : State) : State :=
  let c := s.keys.cells
  s.showCells.putB F.KEYS_LC_DBG ((decide (c.lcs = 0) && c.dbgB) || (decide (c.lcs = 3) && c.dbgR))

end Sys2Proof.Machine
end

