-- ==== Sys2Proof/Machine/Radio.lean ====
section
/-! DEFINITION. The transceiver: airtime, Acoustic windows ahead, the airtime limit, channel samples, and the queue rings 3
and 4 (spec 11_radio_link.md, R361 to R368). -/

namespace Sys2Proof.Machine

/-! ### Time on air -/

/-- Bit rate of a RATE code (Table 11.1). -/
def bitRate : Nat → Nat
  | 0 => 2400
  | 1 => 4800
  | 2 => 9600
  | 3 => 19200
  | 4 => 38400
  | 5 => 50000
  | _ => 100000

/-- Outer deviation of a RATE code in Hz (Table 11.1). -/
def deviation : Nat → Int
  | 0 => 2400
  | 1 => 2400
  | 2 => 4800
  | 3 => 7200
  | 4 => 19200
  | 5 => 25000
  | 6 => 50000
  | _ => 37500

/-- The RATE codes of 4-GFSK. -/
def fourLevel (rate : Nat) : Bool := rate = 3 || rate = 7

/-- The symbols of bits at a RATE code, as deviations in Hz: bit 1 is +deviation in 2-GFSK; in 4-GFSK a pair is one symbol (R362). -/
def symbols (rate : Nat) (bits : List Bool) : List Int :=
  let d := deviation rate
  if fourLevel rate then
    (List.range (bits.length / 2)).map (fun i => match bits.getD (2 * i) false, bits.getD (2 * i + 1) false with
      | false, true => d
      | false, false => d / 3
      | true, false => -(d / 3)
      | true, true => -d)
  else bits.map (fun b => if b then d else -d)

/-- A preamble of `n` bits: 0x55 repeated, and alternate ±deviation in 4-GFSK (Table 11.3). -/
def preambleSymbols (rate n : Nat) : List Int :=
  let d := deviation rate
  if fourLevel rate then (List.range (n / 2)).map (fun i => if i % 2 = 0 then d else -d)
  else (List.range n).map (fun i => if i % 2 = 0 then -d else d)

/-- A link frame on air: a preamble of `n` bits, the sync word and the bytes, each most significant bit first (R362, R369). -/
def airSymbols (rate n : Nat) (frame : List Byte) : List Int :=
  preambleSymbols rate n ++ symbols rate ((bytesBE 4 0x93C61E5B ++ frame).flatMap (fun b =>
    (List.range 8).map (fun i => b.getLsbD (7 - i))))

/-- Time of bits on air in µs, rounded up. -/
def bitsUs (rate bits : Nat) : Nat := (bits * 1000000 + rate - 1) / rate

/-- Airtime T of R364 in µs: preamble bits, sync word, bytes from the PHY header to the CRC, and the power ramps. -/
def airUs (rate pre bytes : Nat) : Nat := bitsUs rate (pre + 32 + 8 * bytes) + 15

/-! ### Acoustic windows ahead (R364) -/

/-- Start (µs of uptime) and length of the window of the tick `j` ticks ahead. The present tick's has been when its Acoustic
phase has ended. -/
def State.windowOf (s : State) (j : Nat) : Option (Nat × Nat) :=
  match s.rm.nextAt with
  | none => none
  | some nx =>
    let per := 31250 * s.get F.FT_PERIOD_N
    let ahead := decide (0 < j) || decide (s.get F.FT_PHASE_PHASE = 0) || s.pins.window
    if s.dueIn (s.rm.tick + j) = [] ∨ !ahead then none
    else some (cyclesUs nx + per * j + 200 - per, s.windowUs (s.rm.tick + j))

/-- The first window of the ticks from the `j`-th ahead that ends after `t`. -/
def State.windowScan (s : State) (t : Nat) : Nat → Nat → Option (Nat × Nat)
  | 0, _ => none
  | k + 1, j => match s.windowOf j with
    | some (w, l) => if t < w + l ∨ (j = 0 ∧ t ≤ cyclesUs s.uptime) then some (w, l) else s.windowScan t k (j + 1)
    | none => s.windowScan t k (j + 1)

/-- The first window that has not ended at `t` (µs of uptime); EVERY is at most 63. -/
def State.windowFrom (s : State) (t : Nat) : Option (Nat × Nat) :=
  match s.rm.nextAt with
  | none => none
  | some nx =>
    let per := 31250 * s.get F.FT_PERIOD_N
    s.windowScan t 66 (if per = 0 ∨ t < cyclesUs nx then 0 else (t - cyclesUs nx) / per + 1)

/-- Whether a frame on air from `t` for `air` µs ends before the next window, and does not begin in one (R364). -/
def State.fitsAir (s : State) (t air : Nat) : Bool := match s.windowFrom t with
  | none => true
  | some (w, _) => decide (t + air ≤ w)

/-- The end of a preamble with `left` µs still to be sent on air from `t`, pauses for windows included, and the longest
window it pauses for (R375). -/
def State.pauses (s : State) : Nat → Nat → Nat → Nat → Nat × Nat
  | 0, t, left, m => (t + left, m)
  | k + 1, t, left, m => match s.windowFrom t with
    | none => (t + left, m)
    | some (w, l) => if t + left ≤ w then (t + left, m) else s.pauses k (max t (w + l)) (left - (w - t)) (max m l)

/-- The earliest instant from `t` at which a frame of `air` µs fits between windows, and the longest window on the way. -/
def State.nextFit (s : State) (air : Nat) : Nat → Nat → Nat → Nat × Nat
  | 0, t, m => (t, m)
  | k + 1, t, m => match s.windowFrom t with
    | none => (t, m)
    | some (w, l) => if t + air ≤ w then (t, m) else s.nextFit air k (max (t + 1) (w + l)) (max m l)

/-! ### The airtime limit (R365) -/

/-- RADIO_DUTY.USED shows the airtime of the 60 bins. -/
def State.showDuty (s : State) : State := s.put F.RADIO_DUTY_USED (satNat 16 (sumNat s.link.bins / 100000))

/-- Airtime counts in the present bin. -/
def State.addAir (s : State) (us : Nat) : State :=
  ({ s with link := { s.link with bins := match s.link.bins with | [] => [us] | b :: t => (b + us) :: t } }).showDuty

/-- Whether an airtime keeps the sum within LIMIT. -/
def State.dutyOk (s : State) (us : Nat) : Bool := decide (sumNat s.link.bins + us ≤ 100000 * s.get F.RADIO_DUTY_LIMIT)

/-- Time passes to an instant of uptime, or by `dt` where that is longer. -/
def State.passTo (s : State) (dt t : Nat) : State := s.advance (max dt (t - s.uptime))

/-- DUTY_BIN_EXPIRY (R365): the minute ends, the oldest bin expires and a waiting frame may proceed. -/
def execDutyBinExpiry (dt : Nat) (s : State) : Host.Outcome State Fault Refusal :=
  let s1 := s.passTo dt s.link.binAt
  .next ({ s1 with link := { s1.link with bins := 0 :: s1.link.bins.take 59, binAt := s1.link.binAt + secs 60 } }).showDuty

/-! ### What the registers and balls show -/

/-- RADIO_STAT.STATE: transmitting, receiving, held, or off; an ACKWAIT listens. Once no radio work is left and the tick's window has
ended, XO24 stops (Table 3.11). -/
def State.showRadio (s : State) (held : Bool) : State :=
  let v := match s.link.tx, s.link.rx with
    | .send _ _ _ _, _ => 3
    | .ackWait _ _, _ => 2
    | _, .receive => 2
    | _, .syncWait _ => 2
    | _, _ => if held then 4 else 0
  let s1 := s.put F.RADIO_STAT_STATE v
  if 2 ≤ s1.get F.FT_PHASE_PHASE then s1.xo24Rest else s1

/-- LINK_STAT.QUEUED shows the frames in ring 3. -/
def State.showQueued (s : State) : State := s.put F.LINK_STAT_QUEUED (satNat 16 s.link.queue.length)

/-! ### The queue rings (R49 to R51) -/

/-- The slot `k` after HEAD of a ring. -/
def State.ringSlot (s : State) (r k : Nat) : Nat := ringBase r + (s.get (F.SYS_RING_B_HEAD r) + k) % ringSlots r

/-- Whether the producer of a queue ring finds `n` FREE slots. -/
def State.ringRoom (s : State) (r n : Nat) : Bool := (List.range n).all (fun k => decide (s.token (s.ringSlot r k) = tokFree))

/-- Slots that a record of `n` bytes takes, its header included. -/
def slotsFor (n : Nat) : Nat := (8 + n + 127) / 128

/-- Publishes a record of `n` slots at HEAD: its header, and its content behind it (log entry 22). Answers its first slot. -/
def State.enqueue (s : State) (r n : Nat) (body : List Byte) : Nat × State :=
  let (h, s1) := s.header r
  let s2 := s1.fill r ((List.range n).map (s.ringSlot r)) (h ++ body)
  (s.ringSlot r 0, s2.put (F.SYS_RING_B_HEAD r) ((s.get (F.SYS_RING_B_HEAD r) + n) % ringSlots r))

/-- The slots of a record of a ring. -/
def recordSlots (r slot n : Nat) : List Nat := (List.range n).map (fun k => ringBase r + (slot - ringBase r + k) % ringSlots r)

/-- The consumer reads a record's slots and frees them. -/
def State.dequeue (s : State) (r slot n : Nat) : State := s.consume r (recordSlots r slot n)

/-! ### Channel samples (R367, R368, R373) -/

/-- The period of a listening code in cycles: 0.25 s × 2^code (Table 11.5). -/
def csiCycles (code : Nat) : Nat := 8192 * 2 ^ code

/-- Whether the 9640 samples the channel. -/
def State.sampling (s : State) : Bool := s.radioRx && s.flag F.LINK_CFG_EN && s.flag F.LINK_CFG_SAMPEN

/-- A channel sample is in progress: 240 µs before its instant, or in the 110 µs of its listening part (Table 11.2). -/
def State.inSample (s : State) : Bool := match s.link.sampleAt with
  | none => false
  | some t => s.sampling && decide (t ≤ s.uptime + usCycles 240 ∨ s.uptime + csiCycles (s.get F.LINK_CFG_CSI) < t + usCycles 110)

/-- RADIO_STAT as it is read: STATE 1 while a sample is in progress and nothing else is received or sent. -/
def State.radioStat (s : State) : Word :=
  let w := s.rd F.RADIO_STAT
  if s.inSample ∧ s.get F.RADIO_STAT_STATE ≠ 2 ∧ s.get F.RADIO_STAT_STATE ≠ 3 then withBits w 2 0 1 else w

/-- CHANNEL_SAMPLE (R367, R373): at the sample instant the AON listens; a preamble starts the wait for a sync word. -/
def execChannelSample (dt : Nat) (preamble : Bool) (s : State) : Host.Outcome State Fault Refusal :=
  match s.link.sampleAt with
  | none => .next (s.advance dt)
  | some t =>
    let s1 := s.passTo dt t
    if s1.sampling then
      let s2 := { s1 with link := { s1.link with sampleAt := some (t + csiCycles (s1.get F.LINK_CFG_CSI)) } }
      .next (if preamble ∧ s2.link.rx = .sleep then
        ({ s2 with link := { s2.link with rx := .syncWait s2.uptime } }).showRadio false else s2)
    else .next s1

/-- SYNC_WAIT_LIMIT (R368): no preamble for 20 ms, or 40 ms + CSI after the detection; the receiver sleeps. -/
def execSyncWaitLimit (dt : Nat) (s : State) : Host.Outcome State Fault Refusal :=
  match s.link.rx with
  | .syncWait since =>
    let last := since + millis 40 + csiCycles (s.get F.LINK_CFG_CSI)
    let s1 := s.advance (min (max dt (since + millis 20 - s.uptime)) (last - s.uptime))
    .next (({ s1 with link := { s1.link with rx := .sleep } }).showRadio false)
  | _ => .next (s.advance dt)

/-- How long after its last CRC bit the sender listens for an acknowledgement, from 0.8 ms on (R379). -/
def ackListen (m : Method) : Nat := usCycles (if m = .train then 3300 else 3000)

/-- SYNC_WORD (R380, Table 11.8): after a detected preamble, or in the listening window of an acknowledgement, the receiver
finds the sync word; a transmission due to start then waits. -/
def execSyncWord (dt : Nat) (s : State) : Host.Outcome State Fault Refusal :=
  let s1 := s.advance dt
  let hears : Bool := match s1.link.rx, s1.link.tx with
    | .syncWait _, _ => true
    | .sleep, .ackWait m stop => decide (stop + usCycles 800 ≤ s1.uptime + ackListen m ∧ s1.uptime ≤ stop)
    | _, _ => false
  .next (if s1.radioRx ∧ hears then ({ s1 with link := { s1.link with rx := .receive } }).showRadio false else s1)

end Sys2Proof.Machine
end

