-- ==== Sys2Proof/Machine/Link.lean ====
section
/-! DEFINITION. The Rolpol link: frames and their protection, the choice of method, the sender and the receiver, the
neighbour table with its learned fields, counters and reservations, and joining (spec 11_radio_link.md, R369 to R386). -/

namespace Sys2Proof.Machine

/-! ### Frames (R369 to R371) -/

/-- A frame's fields. -/
structure Frame where
  typ : Nat
  ackreq : Bool
  sec : Bool
  dst : Nat
  src : Nat
  seq : Nat
  countdown : Option Nat
  devid : Option (List Nat)
  samp : Option Nat
  fc : Nat
  kid : Nat
  payload : List Nat
  deriving DecidableEq, Repr

/-- FCTRL (Table 11.4). -/
def Frame.fctrl (f : Frame) : Nat :=
  32 * f.typ + 16 * b2n f.ackreq + 8 * b2n f.sec + 4 * b2n f.countdown.isSome + 2 * b2n f.devid.isSome + b2n f.samp.isSome

/-- The bytes from FCTRL to KEYID without COUNTDOWN: the additional authenticated data (R370). -/
def Frame.aad (f : Frame) : List Nat :=
  [f.fctrl] ++ natBytes 2 f.dst ++ natBytes 2 f.src ++ natBytes 2 f.seq ++ f.devid.getD []
    ++ (match f.samp with | some v => natBytes 4 v | none => [])
    ++ (if f.sec then natBytes 4 f.fc ++ [f.kid] else [])

/-- The nonce SRC ‖ DST ‖ FC ‖ KEYID ‖ 0 (R370). -/
def Frame.nonce (f : Frame) : List Nat := natBytes 2 f.src ++ natBytes 2 f.dst ++ natBytes 4 f.fc ++ [f.kid] ++ zero8 4

/-- The bytes from the PHY header to the CRC (Table 11.3). -/
def Frame.bytes (f : Frame) (key : List Nat) : List Nat :=
  let (ct, mic) := if f.sec then ccmEnc key f.nonce f.aad f.payload else (f.payload, [])
  let a := f.aad
  let body := a.take 7 ++ (match f.countdown with | some c => natBytes 2 c | none => []) ++ a.drop 7 ++ ct ++ mic
  let all := natBytes 2 (body.length + 2) ++ body
  all ++ natBytes 2 (crc16 all)

/-- Number of bytes from the PHY header to the CRC. -/
def frameLen (train id samp sec : Bool) (payload : Nat) : Nat :=
  11 + 2 * b2n train + 8 * b2n id + 4 * b2n samp + 13 * b2n sec + payload

/-- The received fields, the payload still encrypted with its MIC behind it, where LEN is consistent (step 1). -/
def parseFrame (b : List Nat) : Option (Frame × Nat × List Nat) :=
  let h := bytesNat (b.take 2)
  let fc := b.getD 2 0
  let train := bit fc 2
  let id := bit fc 1
  let samp := bit fc 0
  let sec := bit fc 3
  if b.length ≠ h % 2048 + 2 ∨ b.length < frameLen train id samp sec 0 then none
  else if crc16 (b.take (b.length - 2)) ≠ bytesNat (b.drop (b.length - 2)) then none
  else match cutAt (b.drop 3) [2, 2, 2, 2 * b2n train, 8 * b2n id, 4 * b2n samp, 4 * b2n sec, b2n sec] with
    | [d, s, q, c, i, sm, f, k] =>
      let head := 9 + 2 * b2n train + 8 * b2n id + 4 * b2n samp + 5 * b2n sec
      some ({ typ := fc / 32, ackreq := bit fc 4, sec := sec, dst := bytesNat d, src := bytesNat s, seq := bytesNat q,
              countdown := if train then some (bytesNat c) else none, devid := if id then some i else none,
              samp := if samp then some (bytesNat sm) else none, fc := bytesNat f, kid := bytesNat k, payload := [] },
            h / 2048, (b.drop head).take (b.length - 2 - head))
    | _ => none

/-- The payload of a received frame under a key, where its MIC verifies (step 6). -/
def Frame.unseal (f : Frame) (rest key : List Nat) : Option (List Nat) :=
  ccmDec key f.nonce f.aad (rest.take (rest.length - 8)) (rest.drop (rest.length - 8))

/-! ### Counters and reservations (R385) -/

/-- A frame counter's reservation rises by 4,096 when the counter has reached it, and the commit that records it falls due. -/
def State.reserveFc (s : State) (slot : Nat) : State :=
  if s.get (F.LINK_FC_FC slot) = s.jrn.hid.fcRes.getD slot 0 ∧ s.get (F.LINK_FC_FC slot) < 0xFFFFFFFF then
    let r := min 0xFFFFFFFF (s.jrn.hid.fcRes.getD slot 0 + 4096)
    { s with jrn := { s.jrn with due := true, hid := { s.jrn.hid with fcRes := s.jrn.hid.fcRes.set slot r } } }
  else s

/-- TXSEQ's reservation, in the same way, by 512. -/
def State.reserveSeq (s : State) : State :=
  if s.get F.LINK_TXSEQ_SEQ = s.jrn.hid.seqRes % 65536 then
    { s with jrn := { s.jrn with due := true, hid := { s.jrn.hid with seqRes := (s.jrn.hid.seqRes + 512) % 65536 } } }
  else s

/-- Whether a counter may rise under the reservation that the last closed commit records. -/
def State.fcRoom (s : State) (slot : Nat) : Bool :=
  decide (s.get (F.LINK_FC_FC slot) < s.jrn.image.hid.fcRes.getD slot 0 ∧ s.get (F.LINK_FC_FC slot) < 0xFFFFFFFF)

/-- Whether TXSEQ may rise under its recorded reservation. -/
def State.seqRoom (s : State) : Bool := decide (s.get F.LINK_TXSEQ_SEQ ≠ s.jrn.image.hid.seqRes % 65536)

/-- The counter of a slot increments before a protected frame (log entry 23); at its end FCEXH sets. -/
def State.takeFc (s : State) (slot : Nat) : Nat × State :=
  let v := s.get (F.LINK_FC_FC slot) + 1
  let s1 := (s.put (F.LINK_FC_FC slot) v).reserveFc slot
  (v, if v = 0xFFFFFFFF then s1.set1 F.LINK_STAT_FCEXH else s1)

/-- A DATA or JOIN frame takes the next SEQ. -/
def State.takeSeq (s : State) : Nat × State :=
  let v := s.get F.LINK_TXSEQ_SEQ
  (v, (s.put F.LINK_TXSEQ_SEQ ((v + 1) % 65536)).reserveSeq)

/-- The key slot of a frame: that of its entry, or JSLOT (R370, R386). -/
def State.txSlot (s : State) (f : TxFrame) : Nat := match f.nb with
  | some n => s.get (F.LINK_NB_A_KEY n)
  | none => s.get F.LINK_CFG_JSLOT

/-- Whether a frame is sent protected: every JOIN, and DATA unless PLAIN is in force (R371, R386; log entry 24). -/
def State.txSec (s : State) (f : TxFrame) : Bool := decide (f.kind = 2) || !s.flag F.LINK_CFG_PLAIN

/-- SEQ and frame counter of a frame; a repetition keeps those of the first sending (R381). None while a reservation must
still be recorded, which RESWAIT shows. -/
def State.numberFrame (s : State) (f : TxFrame) : Option (TxFrame × State) :=
  let slot := s.txSlot f
  if (f.seq = none ∧ !s.seqRoom) ∨ (s.txSec f ∧ f.fc = none ∧ !s.fcRoom slot) then none
  else
    let (q, s1) := match f.seq with | some q => (q, s) | none => s.takeSeq
    let (c, s2) := if s.txSec f then (match f.fc with | some c => (some c, s1)
                                                      | none => let (c, t) := s1.takeFc slot; (some c, t)) else (f.fc, s1)
    some ({ f with seq := some q, fc := c }, s2.clr F.LINK_STAT_RESWAIT)

/-! ### The choice of method (R374 to R377) -/

/-- PHASE of an entry in 1/65536 s. -/
def State.phase (s : State) (n : Nat) : Nat := 65536 * s.get (F.LINK_NB_C_PSEC n) + s.get (F.LINK_NB_D_PFRAC n)

/-- One CSI of an entry with its drift, in 1/65536 s scaled by 16,000,000. -/
def State.stride (s : State) (n : Nat) : Int :=
  16384 * (2 ^ s.get (F.LINK_NB_A_CSI n) : Nat) * (16000000 + s.getI (F.LINK_NB_D_DRIFT n))

/-- The least m of R377: p at least 5 ms after the present. -/
def State.firstM (s : State) (n : Nat) : Int :=
  let need := ((s.count : Int) - (s.phase n : Int)) * 16000000 + 5242880000
  Int.neg ((-need) / s.stride n)

/-- p − PHASE for an m, in µs, and p as an instant of uptime in µs. -/
def State.predict (s : State) (n : Nat) (m : Int) : Nat × Nat :=
  let d := m * s.stride n
  let lead := d - ((s.count : Int) - (s.phase n : Int)) * 16000000
  ((d * 1000000 / (65536 * 16000000)).toNat, cyclesUs s.uptime + (lead * 1000000 / (65536 * 16000000)).toNat)

/-- The guard time G in µs. -/
def State.guardUs (s : State) (n span : Nat) : Nat :=
  (if s.flag (F.LINK_NB_B_DRIFTOK n) then s.get F.LINK_DRIFT_DRIFTR else s.get F.LINK_DRIFT_DRIFTB) * span / 2000000 + 1000

/-- The first m from `m` whose frame ends before the next window: preamble length and start in µs; none where the guard
has outgrown the CSI. -/
def State.rendezvousFrom (s : State) (n air : Nat) : Nat → Int → Option (Nat × Nat)
  | 0, _ => none
  | k + 1, m =>
    let (span, p) := s.predict n m
    let g := s.guardUs n span
    if 2 * g + 350 < 250000 * 2 ^ s.get (F.LINK_NB_A_CSI n) + 1000 then
      if s.fitsAir (p + g + 350) air then some (2 * g + 350, p - g) else s.rendezvousFrom n air k (m + 1)
    else none

/-- Bytes of a frame as it goes on air. -/
def State.txLen (s : State) (f : TxFrame) (train : Bool) : Nat :=
  if f.kind = 8 then f.payload.length
  else frameLen train (decide (f.kind = 2)) (s.flag F.LINK_CFG_SAMPEN) (s.txSec f) f.payload.length

/-- The bit rate in force. -/
def State.rate (s : State) : Nat := bitRate (s.get F.RADIO_MOD_RATE)

/-- Airtime of a train's copy, and the copies of a train to an entry (R376). -/
def State.copyAir (s : State) (f : TxFrame) : Nat := airUs s.rate 32 (s.txLen f true)
def State.copies (s : State) (f : TxFrame) (n : Nat) : Nat :=
  let c := s.copyAir f + 100
  (250000 * 2 ^ s.get (F.LINK_NB_A_CSI n) + 1000 + 2 * c + 100 + c - 1) / c

/-- The starts of a train's copies and its end in µs, pauses included, with the longest window it pauses for. -/
def State.trainFrom (s : State) (air : Nat) : Nat → Nat → Nat → List Nat × Nat × Nat
  | 0, t, m => ([], t - 100, m)
  | k + 1, t, m =>
    let (t1, m1) := s.nextFit air 70 t m
    let (l, e, m2) := s.trainFrom air k (t1 + air + 100) m1
    (t1 :: l, e, m2)

/-- A method's course from an instant: the starts of its frames' preambles, its end, its time on air, and the longest window
it pauses for; times in µs. -/
def State.course (s : State) (f : TxFrame) (m : Method) (t : Nat) : List Nat × Nat × Nat × Nat :=
  let body := airUs s.rate 0 (s.txLen f false)
  match m with
  | .short => ([t], t + airUs s.rate 32 (s.txLen f false), airUs s.rate 32 (s.txLen f false), 0)
  | .rendezvous pre => ([t], t + pre + body, pre + body, 0)
  | .telegram => ([t], t + f.air, f.air, 0)
  | .train =>
    let n := match f.nb with | some n => s.copies f n | none => 1
    let (l, e, w) := s.trainFrom (s.copyAir f) n t 0
    (l, e, n * s.copyAir f, w)
  | .long =>
    let pre := match f.nb with | some n => 250000 * 2 ^ s.get (F.LINK_NB_A_CSI n) + 1000 | none => 0
    let (e, w) := s.pauses 400 t pre 0
    let (e1, w1) := s.nextFit body 70 e w
    ([t], e1 + body, pre + body + (if e1 = e then 0 else e1 - e - w1), w1)

/-- The parts on air of a preamble with `left` µs to be sent from `t`: it stops for the windows (R375). -/
def State.preRuns (s : State) : Nat → Nat → Nat → List (Nat × Nat)
  | 0, t, left => [(t, t + left)]
  | k + 1, t, left => match s.windowFrom t with
    | none => [(t, t + left)]
    | some (w, l) =>
      if t + left ≤ w then [(t, t + left)]
      else (if t < w then [(t, w)] else []) ++ s.preRuns k (max t (w + l)) (left - (w - t))

/-- When a course from `t` is on air, ramps included: the copies of a train and the parts of a long preamble one by one (R26, R81,
R375, R376). -/
def State.airRuns (s : State) (f : TxFrame) (m : Method) (t : Nat) : List (Nat × Nat) :=
  let (starts, stop, air, _) := s.course f m t
  match m with
  | .train => starts.map (fun x => (x, x + s.copyAir f))
  | .long =>
    let body := airUs s.rate 0 (s.txLen f false)
    s.preRuns 400 t (air - body) ++ [(stop - body, stop)]
  | _ => [(t, stop)]

/-- The outcome of PLAN: a method with its start in µs, none while the frame waits, or the frame fails. -/
inductive Planning where
  | go (m : Method) (start : Nat)
  | wait
  | fail
  deriving DecidableEq, Repr

/-- PLAN (Table 11.6, R375). -/
def State.planTx (s : State) (f : TxFrame) : Planning :=
  let now := cyclesUs s.uptime
  if f.kind = 8 then .go .telegram now
  else match f.nb with
    | none => .go .short now
    | some n =>
      let csi := s.get (F.LINK_NB_A_CSI n)
      if s.flag (F.LINK_NB_A_VALID n) = false then .wait
      else if csi = 7 then .go .short now
      else
        let rv := if s.flag (F.LINK_NB_B_PHASEOK n) ∧ f.rdv < 2 then
            s.rendezvousFrom n (airUs s.rate 0 (s.txLen f false)) 600 (s.firstM n) else none
        match rv with
        | some (pre, start) => .go (.rendezvous pre) start
        | none =>
          let m : Method := if s.copyAir f ≤ 1000 * s.get F.LINK_CFG_TRAINMAX then .train else .long
          let (_, _, _, w) := s.course f m now
          if w ≤ 19000 then .go m now else if 2 ≤ f.rdv then .fail else .wait

/-! ### The sender (Table 11.7) -/

/-- The next telegram after one sent, the interval drawn at random within ±1/8 (R388). -/
def State.nextTelegram (s : State) : State :=
  let i := s.get F.LINK_WMB_INTERVAL
  let (d, s1) := s.draw (8192 * i + 1)
  { s1 with link := { s1.link with wmbAt := some (s1.uptime + 28672 * i + d) } }

/-- The frame leaves ring 3 and the sender is idle; after a telegram, sent or failed, the next falls due. -/
def State.dropHead (s : State) : State := match s.link.queue with
  | [] => s
  | f :: t =>
    let s1 := { s with link := { s.link with queue := t, tx := .idle } }
    let s2 := ((s1.dequeue 3 f.slot f.slots).showQueued).showRadio false
    if f.kind = 8 then s2.nextTelegram else s2

/-- The head of the queue is planned; one that fails is discarded. -/
def State.planHead (s : State) : State := match s.link.queue with
  | [] => s
  | f :: _ =>
    if s.uptime < f.notBefore ∨ !s.taskEnabled 0 then s
    else match s.planTx f with
      | .go m start => { s with link := { s.link with tx := .wait m (usCycles start) 0 } }
      | .wait => s
      | .fail => (s.bump F.LINK_CNT1_FAILED 1).dropHead

/-- A failed attempt (R379): the frame is planned again, or discarded after RETRIES attempts. Two failed rendezvous end the
entry's PHASEOK. -/
def State.failAttempt (s : State) (m : Method) : State := match s.link.queue with
  | [] => { s with link := { s.link with tx := .idle } }
  | f :: t =>
    let isRv : Bool := match m with | .rendezvous _ => true | _ => false
    let f1 := { f with attempts := f.attempts + 1, rdv := f.rdv + b2n isRv }
    let s1 := { s with link := { s.link with queue := f1 :: t, tx := .idle } }
    let s2 := match f.nb with
      | some n => if isRv ∧ f1.rdv = 2 then (s1.clr (F.LINK_NB_B_PHASEOK n)).bump F.LINK_CNT1_FALLBACK 1 else s1
      | none => s1
    if s.get F.LINK_CFG_RETRIES ≤ f1.attempts then (s2.bump F.LINK_CNT1_FAILED 1).dropHead
    else (s2.planHead).showRadio false

/-- A frame enters ring 3, where there is room. -/
def State.queueTx (s : State) (nb : Option Nat) (kind : Nat) (payload : List Byte) : Option State :=
  let f : TxFrame := ⟨nb, kind, payload, none, none, 0, 0, 0, 0, 0, 0⟩
  let n := slotsFor (s.txLen f false)
  if s.ringRoom 3 n then
    let (slot, s1) := s.enqueue 3 n payload
    some ({ s1 with link := { s1.link with queue := s1.link.queue ++ [{ f with slot := slot, slots := n }] } }).showQueued
  else none

/-- FRAME_QUEUED (R374, Table 11.7): the idle sender plans the frame at the head of ring 3, whose first slot is `slot`. -/
def execFrameQueued (slot : Nat) (s : State) : Host.Outcome State Fault Refusal :=
  .next (match s.link.queue, s.link.tx with
    | f :: _, .idle => if f.slot = slot then s.planHead else s
    | _, _ => s)

/-- The SAMP word for a frame that ends at an instant of uptime in cycles (Table 11.3). -/
def State.sampWord (s : State) (stop : Nat) : Option Nat :=
  if s.flag F.LINK_CFG_SAMPEN then
    match s.link.sampleAt with
    | some t =>
      let c := csiCycles (s.get F.LINK_CFG_CSI)
      let off := if stop < t then (t - stop) % c else (c - (stop - t) % c) % c
      some (s.get F.LINK_CFG_CSI * 2 ^ 28 + off % 2 ^ 24)
    | none => none
  else none

/-- The frame of ring 3 as it goes on air from `start`, ending at `stop` µs, with a train copy's COUNTDOWN. -/
def State.airFrame (s : State) (f : TxFrame) (key : List Nat) (stop : Nat) (countdown : Option Nat) : List Byte :=
  if f.kind = 8 then f.payload
  else
    let fr : Frame :=
      { typ := f.kind, ackreq := decide (f.kind = 0), sec := s.txSec f,
        dst := match f.nb with | some n => s.get (F.LINK_NB_A_ADDR n) | none => 0,
        src := s.get F.LINK_ADDR_ADDR, seq := f.seq.getD 0, countdown := countdown,
        devid := if f.kind = 2 then some s.devid else none, samp := s.sampWord (usCycles stop), fc := f.fc.getD 0,
        kid := match f.nb with | some n => s.get (F.LINK_NB_A_KID n) | none => 0, payload := nats f.payload }
    ofNats (fr.bytes key)

/-- The frames of a course, copies of a train with their COUNTDOWN (R376). -/
def State.airFrames (s : State) (f : TxFrame) (key : List Nat) (m : Method) (starts : List Nat) (stop : Nat) : List (List Byte) :=
  match m with
  | .train => starts.map (fun t =>
      let e := t + s.copyAir f
      s.airFrame f key e (some (((stop - e) * 4096 + 999999) / 1000000)))
  | _ => [s.airFrame f key stop none]

/-- Whether a course that begins now obeys R364 and R375. -/
def State.courseFits (s : State) (f : TxFrame) (m : Method) (t air w : Nat) : Bool := match m with
  | .short => s.fitsAir t air
  | .telegram => s.fitsAir t air
  | .rendezvous pre => s.fitsAir (t + pre) (air - pre)
  | .train => decide (w ≤ 19000)
  | .long => decide (w ≤ 19000) && decide (f.kind ≠ 8)

/-- SEND begins: the airtime counts, the frames go on air, and the transmission is counted. -/
def State.beginTx (s : State) (f : TxFrame) (key : List Nat) (m : Method) : State :=
  let now := cyclesUs s.uptime
  let (starts, stop, air, _) := s.course f m now
  let frames := s.airFrames f key m starts stop
  let s1 := { s with link := { s.link with tx := .send m s.uptime (usCycles stop) air, air := frames
                                           onAir := s.airRuns f m now, queue := f :: s.link.queue.drop 1 } }
  (((s1.addAir air).bump F.RADIO_CNT_TX 1).showTx true).showRadio false

/-- The start instant has been reached: the checks of WAIT, in which a refusal does not count as an attempt except the
eighth busy measurement (Table 11.7, R364 to R366, R379, R380, R385). Nothing starts in a window, or in a tick whose XO24 has failed
(R26, R113). -/
def State.startTx (s : State) (m : Method) (start busy : Nat) (rssi : Int) : State := match s.link.queue with
  | [] => s
  | f :: _ =>
    let now := cyclesUs s.uptime
    let late : Bool := match m with | .rendezvous _ => decide (start < s.uptime) | _ => false
    let (_, _, air, w) := s.course f m now
    if !s.radioOn ∨ (f.kind ≠ 8 ∧ !s.flag F.LINK_CFG_EN) ∨ !s.taskEnabled 0 ∨ s.ame.xoFail then s
    else if s.bridging ∨ s.link.ack.isSome ∨ s.link.rx = .receive then s
    else if late then ({ s with link := { s.link with tx := .idle } }).planHead
    else if s.pins.window ∨ !s.courseFits f m now air w ∨ (f.kind = 8 ∧ s.get F.FT_PHASE_PHASE < 3) then s.showRadio true
    else if !s.dutyOk air then s.showRadio true
    else if s.flag F.RADIO_CCA_EN ∧ s.getI F.RADIO_CCA_THR ≤ rssi then
      if 7 ≤ busy then s.failAttempt m
      else
        let (d, s1) := s.draw 15001
        { s1 with link := { s1.link with tx := .wait m (s1.uptime + usCycles (1000 + d)) (busy + 1) } }
    else if f.kind = 8 then s.beginTx f [] m
    else
      let (key, s1) := if s.txSec f then s.slotFor (s.txSlot f) 0 else (some [], s)
      match key with
      | none => s1
      | some k => match s1.numberFrame f with
        | none => s1.set1 F.LINK_STAT_RESWAIT
        | some (f1, s2) => s2.beginTx f1 k m

/-- TRANSMISSION_START (R364, R366): the start instant is reached. -/
def execTransmissionStart (dt : Nat) (rssi : Int) (s : State) : Host.Outcome State Fault Refusal :=
  match s.link.tx with
  | .wait m start busy => .next ((s.passTo dt start).startTx m start busy rssi)
  | _ => .next (s.advance dt)

/-- CLEAR_CHANNEL_RETRY (R366): after a busy measurement the random wait ends and the channel is measured again. -/
def execClearChannelRetry (dt : Nat) (rssi : Int) (s : State) : Host.Outcome State Fault Refusal :=
  match s.link.tx with
  | .wait m start busy =>
    if busy = 0 then .next (s.advance dt) else .next ((s.passTo dt start).startTx m start busy rssi)
  | _ => .next (s.advance dt)

/-- TRANSMISSION_END (R379): the last CRC bit has been sent; DATA awaits its acknowledgement. -/
def execTransmissionEnd (dt : Nat) (s : State) : Host.Outcome State Fault Refusal :=
  match s.link.tx with
  | .send m _ stop _ =>
    let s1 := ((s.passTo dt stop).showTx false)
    match s1.link.queue with
    | f :: _ =>
      if f.kind = 0 then
        .next (({ s1 with link := { s1.link with tx := .ackWait m (s1.uptime + ackListen m) } }).showRadio false)
      else if f.kind = 2 then .next ({ s1 with link := { s1.link with joinFc := f.fc } }).dropHead
      else .next s1.dropHead
    | [] => .next (({ s1 with link := { s1.link with tx := .idle } }).showRadio false)
  | _ => .next (s.advance dt)

/-- A transmission in progress stops: the frame is planned again and the attempt does not count (R364, R100). Only the time
it was on air counts in USED. -/
def State.stopTx (s : State) : State := match s.link.tx with
  | .send _ start stop air =>
    let cut := min air (cyclesUs (stop - s.uptime))
    let bins := match s.link.bins with | [] => [] | b :: t => (if s.uptime ≤ start then b - air else b - cut) :: t
    let cutRun (x : Nat × Nat) : Nat × Nat := (x.1, min x.2 (cyclesUs s.uptime))
    let runs := (s.link.onAir.filter (fun x => decide (x.1 < cyclesUs s.uptime))).map cutRun
    let s1 := ({ s with link := { s.link with tx := .idle, bins := bins, onAir := runs } }).showDuty
    ((s1.showTx false).planHead).showRadio false
  | _ => s

/-- ACK_TIMEOUT (R379): no valid ACK has come in the listening window. -/
def execAckTimeout (dt : Nat) (s : State) : Host.Outcome State Fault Refusal :=
  match s.link.tx with
  | .ackWait m stop =>
    let s1 := s.passTo dt stop
    .next (if s1.link.rx = .receive then s1 else s1.failAttempt m)
  | _ => .next (s.advance dt)

/-- BUSY_RETRY (R379): 1 s after STATUS 0x02 the frame is planned again. -/
def execBusyRetry (dt : Nat) (s : State) : Host.Outcome State Fault Refusal :=
  match s.link.queue, s.link.tx with
  | f :: _, .idle => .next (s.passTo dt f.notBefore).planHead
  | _, _ => .next (s.advance dt)

/-! ### Learning (R383) -/

/-- A SAMP teaches the phase of an entry and, after 600 s, its drift. -/
def State.learn (s : State) (n samp : Nat) : State :=
  let code := samp / 2 ^ 28 % 16
  if code % 8 = 6 ∨ 7 < code then s
  else
    let new := (s.count + 2 * (samp % 2 ^ 24)) % 2 ^ 48
    let old := s.phase n
    let s1 := if s.flag (F.LINK_NB_B_PHASEOK n) ∧ old + 600 * 65536 ≤ new ∧ s.get (F.LINK_NB_A_CSI n) ≤ 5 then
        let q := s.stride n
        let span : Int := (new : Int) - old
        let m := roundDivI (span * 16000000) q
        let e := span * 16000000 - m * q
        let d := clampInt (-3200) 3200 (s.getI (F.LINK_NB_D_DRIFT n) + roundDivI e span)
        (s.putI (F.LINK_NB_D_DRIFT n) d).set1 (F.LINK_NB_B_DRIFTOK n)
      else s
    (((s1.put (F.LINK_NB_C_PSEC n) (new / 65536)).put (F.LINK_NB_D_PFRAC n) (new % 65536)).set1 (F.LINK_NB_B_PHASEOK n)).put
      (F.LINK_NB_A_CSI n) code

/-- The SAMP of a received frame teaches, where it is present. -/
def State.learnFrom (s : State) (n : Nat) (f : Frame) : State := match f.samp with
  | some v => s.learn n v
  | none => s

/-! ### The receiver (R381, R382, R386) -/

/-- The valid entry with an address. -/
def State.entryOf (s : State) (addr : Nat) : Option Nat :=
  (List.range 32).find? (fun n => s.flag (F.LINK_NB_A_VALID n) && decide (s.get (F.LINK_NB_A_ADDR n) = addr))

/-- Whether a request of this first byte is answered in a DATA frame (R387, R443, R444; the update messages of R501). -/
def answered (b : Nat) : Bool := decide (1 ≤ b ∧ b ≤ 4) || decide (0x10 ≤ b ∧ b ≤ 0x14) || decide (0x20 ≤ b ∧ b ≤ 0x25)

/-- The commands of R385 that change nothing. -/
def quietCommands : List Text :=
  [['G', 'E', 'T'], ['S', 'H', 'O', 'W'], ['S', 'T', 'A', 'T', 'U', 'S'], ['H', 'E', 'L', 'P'], ['L', 'O', 'G'],
   ['C', 'A', 'P', 'T', 'U', 'R', 'E']]

/-- The first word of a tunnelled line, in capitals; the line follows the service and invoke bytes (Table 10.6). -/
def firstWord (l : List Nat) : Text :=
  (((l.map Char.ofNat).dropWhile (fun c => c == ' ')).takeWhile (fun c => c.isAlpha)).map Char.toUpper

/-- Whether a new frame's payload makes a commit due (R385); the first bytes of key messages and update chunks are those of R387. -/
def commitPayload (p : List Nat) : Bool :=
  let b := p.getD 0 0
  decide (b = 2 ∨ b = 3) || decide (0x10 ≤ b ∧ b ≤ 0x1F) || decide (0x20 ≤ b ∧ b ≤ 0x2F)
    || (decide (b = 4) && !quietCommands.contains (firstWord (p.drop 2)))

/-- The instant of an acknowledgement's preamble, in cycles of uptime: 1.0 ms after the frame's end, COUNTDOWN later for a
train's copy (R378). -/
def State.ackStart (s : State) (f : Frame) : Nat := s.uptime + 33 + 8 * f.countdown.getD 0

/-- A new DATA frame (R382). -/
def State.acceptNew (s : State) (n : Nat) (f : Frame) (payload : List Nat) (len : Nat) : State :=
  let k := slotsFor len
  let ack (s : State) (st : Nat) : State :=
    if f.ackreq then { s with link := { s.link with ack := some ⟨n, st, f.seq, s.ackStart f⟩ } } else s
  if s.ringRoom 4 k then
    let st := b2n (answered (payload.getD 0 0))
    let s1 := (((s.put (F.LINK_NB_B_LASTSEQ n) f.seq).set1 (F.LINK_NB_B_SEQOK n)).put (F.LINK_NB_B_ACKST n) st)
    let s2 := if f.sec then s1.put (F.LINK_NB_E_RXFC n) f.fc else s1
    let (slot, s3) := s2.enqueue 4 k (ofNats payload)
    let s4 := { s3 with link := { s3.link with inbox := s3.link.inbox ++ [(⟨n, f.sec, ofNats payload, slot, k⟩ : RxItem)] } }
    let s5 := if commitPayload payload then s4.commitDue else s4
    let s6 := { s5 with link := { s5.link with heardAt := some s5.uptime } }
    ack ((s6.learnFrom n f).ready 0) st
  else ack (s.bump F.LINK_CNT2_QFULL 1) 2

/-- Steps 8 to 12 of Table 11.9 for a DATA frame. -/
def State.dataFrame (s : State) (n : Nat) (f : Frame) (payload : List Nat) (len : Nat) : State :=
  let d := (f.seq + 65536 - s.get (F.LINK_NB_B_LASTSEQ n)) % 65536
  let rx := s.get (F.LINK_NB_E_RXFC n)
  let above := !f.sec || decide (rx < f.fc)
  let same := !f.sec || decide (f.fc = rx)
  if s.flag (F.LINK_NB_B_SEQOK n) = false ∧ above then s.acceptNew n f payload len
  else if d = 0 ∧ same then
    let s1 := s.bump F.LINK_CNT0_DUPACK 1
    if f.ackreq then
      { s1 with link := { s1.link with ack := some ⟨n, s.get (F.LINK_NB_B_ACKST n), f.seq, s.ackStart f⟩ } }
    else s1
  else if d = 0 ∨ 64512 ≤ d ∨ !above then s.bump F.LINK_CNT2_STALE 1
  else s.acceptNew n f payload len

/-- Step 7: an acknowledgement of the awaited frame (R379). -/
def State.ackFrame (s : State) (n : Nat) (f : Frame) (payload : List Nat) : State :=
  match s.link.queue, s.link.tx with
  | h :: t, .ackWait _ _ =>
    if h.nb = some n ∧ h.seq = some f.seq ∧ s.get (F.LINK_NB_E_RXFC n) < f.fc then
      let s0 := { s with link := { s.link with heardAt := some s.uptime } }
      let s1 := (s0.put (F.LINK_NB_E_RXFC n) f.fc).learnFrom n f
      if payload.getD 0 0 = 2 then
        let h1 := { h with attempts := h.attempts + 1, notBefore := s.uptime + secs 1 }
        let s2 := { s1 with link := { s1.link with queue := h1 :: t, tx := .idle } }
        if s.get F.LINK_CFG_RETRIES ≤ h1.attempts then (s2.bump F.LINK_CNT1_FAILED 1).dropHead else s2
      else if payload.getD 0 0 ≤ 1 then s1.dropHead
      else s1
    else s
  | _, _ => s

/-- A JOIN-ACCEPT for the unjoined 9640 (R386): its changes wait for the next Capture. -/
def State.joinAccept (s : State) (f : Frame) (payload : List Nat) : State :=
  match s.link.joinFc with
  | none => s
  | some c =>
    if f.devid = some s.devid ∧ payload.length = 6 ∧ bytesNat (payload.drop 3) = c % 2 ^ 24 then
      let s1 := (((s.stageField F.LINK_ADDR_ADDR (bytesNat (payload.take 2))).stageField (F.LINK_NB_A_VALID 0) 1).stageField
        (F.LINK_NB_A_ADDR 0) f.src).stageField (F.LINK_NB_A_CSI 0) (payload.getD 2 0)
      let s2 := (s1.stageField (F.LINK_NB_A_KEY 0) (s.get F.LINK_CFG_JSLOT)).stageField (F.LINK_NB_A_KID 0) 0
      { s2 with link := { s2.link with joinRx := some f.fc } }
    else s

/-- Steps 2 to 7 and on, for a frame with a correct CRC. -/
def State.checkFrame (s : State) (f : Frame) (hi : Nat) (rest : List Nat) (len : Nat) : State :=
  let own := s.get F.LINK_ADDR_ADDR
  let joining := decide (f.dst = 0xFFFE ∧ f.typ = 3 ∧ own = 0xFFFE)
  if 3 < f.typ ∨ hi ≠ 0 ∨ !(decide (f.dst = own) || joining) then s
  else if joining then
    if f.sec = false then s
    else
      let (key, s1) := s.slotFor (s.get F.LINK_CFG_JSLOT) 0
      match (if f.kid = 0 then key.bind (fun k => f.unseal rest k) else none) with
      | none => s1.bump F.LINK_CNT0_MICFAIL 1
      | some p => s1.joinAccept f p
  else match s.entryOf f.src with
    | none => s
    | some n =>
      if f.sec = false then
        if s.flag F.LINK_CFG_PLAIN ∧ f.typ = 0 then s.dataFrame n f rest len else s
      else
        let (key, s1) := s.slotFor (s.get (F.LINK_NB_A_KEY n)) 0
        match (if f.kid = s.get (F.LINK_NB_A_KID n) then key.bind (fun k => f.unseal rest k) else none) with
        | none => s1.bump F.LINK_CNT0_MICFAIL 1
        | some p => if f.typ = 0 then s1.dataFrame n f p len else if f.typ = 1 then s1.ackFrame n f p else s1

/-- FRAME_RECEIVED (R381): the frame is complete; the receiver sleeps or acknowledges. -/
def execFrameReceived (dt : Nat) (f : RxFrame) (s : State) : Host.Outcome State Fault Refusal :=
  let s1 := s.advance dt
  if s1.radioRx ∧ s1.flag F.LINK_CFG_EN ∧ s1.link.rx = .receive then
    let s2 := ({ s1 with link := { s1.link with rx := .sleep } }).putI F.RADIO_STAT_RSSI f.rssi
    match parseFrame (nats f.bytes) with
    | none => .next (s2.showRadio false)
    | some (fr, hi, rest) => .next (((s2.bump F.RADIO_CNT_RX 1).checkFrame fr hi rest f.bytes.length).showRadio false)
  else .next s1

/-- ACKNOWLEDGEMENT (R378): the ACK is sent at its instant, with a fresh counter, unless a window, the H-bridge, a failed XO24, a
missing key or a reservation keeps it from being sent; the frame's effect stays. -/
def execAcknowledgement (dt : Nat) (s : State) : Host.Outcome State Fault Refusal :=
  match s.link.ack with
  | none => .next (s.advance dt)
  | some a =>
    let s1 := s.passTo dt a.start
    let s2 := { s1 with link := { s1.link with ack := none } }
    let now := cyclesUs s2.uptime
    let air := airUs s2.rate 32 (frameLen false false (s2.flag F.LINK_CFG_SAMPEN) true 1)
    let slot := s2.get (F.LINK_NB_A_KEY a.nb)
    let (key, s3) := s2.slotFor slot 0
    match key with
    | none => .next (s3.showRadio false)
    | some k =>
      if !s3.radioOn ∨ s3.bridging ∨ s3.ame.xoFail ∨ !s3.fitsAir now air ∨ !s3.fcRoom slot then .next (s3.showRadio false)
      else
        let (c, s4) := s3.takeFc slot
        let fr : Frame :=
          { typ := 1, ackreq := false, sec := true, dst := s4.get (F.LINK_NB_A_ADDR a.nb), src := s4.get F.LINK_ADDR_ADDR,
            seq := a.seq, countdown := none, devid := none, samp := s4.sampWord (usCycles (now + air)), fc := c,
            kid := s4.get (F.LINK_NB_A_KID a.nb), payload := [a.status] }
        let s5 := ({ s4 with link := { s4.link with air := [ofNats (fr.bytes k)], onAir := [(now, now + air)] } }).addAir air
        .next (((s5.bump F.RADIO_CNT_TX 1).advance (usCycles air)).showRadio false)

/-! ### Joining, and the link at a Capture -/

/-- Whether the 9640 joins: unjoined with JOINEN in force. -/
def State.joins (s : State) : Bool :=
  s.radioOn && s.flag F.LINK_CFG_EN && s.flag F.LINK_CFG_JOINEN && decide (s.get F.LINK_ADDR_ADDR = 0xFFFE) && s.taskEnabled 0

/-- JOIN (R386): every 60 s a JOIN enters ring 3. -/
def execJoin (dt : Nat) (s : State) : Host.Outcome State Fault Refusal :=
  let s1 := match s.link.joinAt with | some t => s.passTo dt t | none => s.advance dt
  if s1.joins then
    let s2 := { s1 with link := { s1.link with joinAt := some (s1.uptime + secs 60) } }
    let code := if s2.flag F.LINK_CFG_SAMPEN then s2.get F.LINK_CFG_CSI else 7
    .next ((s2.queueTx none 2 [byte code]).getD s2)
  else .next s1

/-- A Capture that brings a change of ADDR or KEY of an entry into force clears its learned fields (R392). -/
def State.nbChange (s old : State) (n : Nat) : State :=
  if s.get (F.LINK_NB_A_ADDR n) = old.get (F.LINK_NB_A_ADDR n) ∧ s.get (F.LINK_NB_A_KEY n) = old.get (F.LINK_NB_A_KEY n) then s
  else (((s.clr (F.LINK_NB_B_SEQOK n)).clr (F.LINK_NB_B_PHASEOK n)).clr (F.LINK_NB_B_DRIFTOK n)).wr (F.LINK_NB_C n) 0#32
    |>.wr (F.LINK_NB_D n) 0#32 |>.wr (F.LINK_NB_E n) 0#32

/-- The first sample instant, at random within one CSI (R373). -/
def State.armSampling (s : State) : State :=
  let (d, s1) := s.draw (csiCycles (s.get F.LINK_CFG_CSI))
  { s1 with link := { s1.link with sampleAt := some (s1.uptime + d) } }

/-- The first telegram falls due after one drawn interval from the Capture that enables it (log entry 25); while one waits in ring 3,
none falls due. -/
def State.linkTimers (s old : State) : State :=
  let s1 := if !s.sampling then { s with link := { s.link with sampleAt := none } }
    else if s.link.sampleAt = none ∨ s.get F.LINK_CFG_CSI ≠ old.get F.LINK_CFG_CSI then s.armSampling else s
  let s2 := if !s1.joins then { s1 with link := { s1.link with joinAt := none } }
    else if s1.link.joinAt = none then { s1 with link := { s1.link with joinAt := some s1.uptime } } else s1
  if !(s2.radioOn && s2.flag F.LINK_WMB_EN) then { s2 with link := { s2.link with wmbAt := none } }
  else if s2.link.wmbAt = none ∧ !s2.link.queue.any (fun f => decide (f.kind = 8)) then s2.nextTelegram else s2

/-- What a Capture does to the link after the shadows are in force; `old` is the state before them. -/
def State.linkCapture (s old : State) : State :=
  let s1 := (List.range 32).foldl (fun t n => t.nbChange old n) s
  let s2 := match s1.link.joinRx with
    | some c => { s1.put (F.LINK_NB_E_RXFC 0) c with link := { s1.link with joinRx := none } }
    | none => s1
  (s2.putB F.LINK_STAT_JOINED (decide (s2.get F.LINK_ADDR_ADDR ≠ 0xFFFE))).linkTimers old

/-- The RADIO task's queue handling (Table 1.5): payloads that wait are framed while ring 3 has room, and an idle sender
plans the head. -/
def State.frameOut : Nat → State → State
  | 0, s => s
  | k + 1, s => match s.link.outbox with
    | [] => s
    | (n, p) :: t => match s.queueTx (some n) 0 p with
      | none => s
      | some s1 => State.frameOut k { s1 with link := { s1.link with outbox := t } }

/-- One slice of the RADIO task; without XO24 the tick's radio work is not run (R113). -/
def State.radioTask (s : State) : State :=
  if s.ame.xoFail then s
  else
    let s1 := State.frameOut s.link.outbox.length s
    if s1.link.tx = .idle then s1.planHead else s1

end Sys2Proof.Machine
end

