-- ==== Sys2Proof/Machine/Pay.lean ====
section
/-! DEFINITION. Prepayment: the charge, its states, the open request, tokens and the token lockout; and the supply actuator
with its drives, checks and feedback (spec 09_billing.md, R327 to R339; 14_safety_log.md, R468 to R470). -/

namespace Sys2Proof.Machine

/-! ### Credit (R327) -/

/-- The credit in 2^-16 credit units. -/
def State.credit (s : State) : Int :=
  toSigned 64 ((s.rd F.PAY_CREDIT_LO).toNat + 2 ^ 32 * (s.rd F.PAY_CREDIT_HI).toNat)

/-- Sets the credit; ECAVAIL clears when it falls to 0 or below and returns above 0 (R328). -/
def State.setCredit (s : State) (c : Int) : State :=
  let v := ofSigned 64 c
  ((s.wr F.PAY_CREDIT_LO (word (v % 2 ^ 32))).wr F.PAY_CREDIT_HI (word (v / 2 ^ 32))).putB F.PAY_STAT_ECAVAIL (decide (0 < c))

/-- CMODE takes MODE while MODE is 1 or 2 and the credit is zero. -/
def State.unitOfCredit (s : State) : State :=
  let m := s.get F.PAY_CFG_MODE
  if (m = 1 ∨ m = 2) ∧ s.credit = 0 then s.put F.PAY_STAT_CMODE m else s

/-- The charge of a tick in units of 2^-16 credit units / 589,824,000,000,000: 9·10^9 is a common multiple of the charge
units, so that the remainder keeps its meaning when QSEL changes. -/
def State.charge (s : State) : Nat :=
  match (s.mp (s.get F.PAY_CFG_QMP)).qty with
  | none => 0
  | some m =>
    let q := s.get F.PAY_CFG_QSEL
    let scale := if q = 1 ∨ q = 2 then 2500 else 9
    let price := if s.get F.PAY_CFG_MODE = 1 then s.get (F.PAY_PRICE_PRICE (s.get F.BILL_STAT_TARIFF)) else 1000 * 65536
    m.forward q * scale * price

/-- The charge of step 5, with its remainder carried. -/
def State.chargeTick (s : State) : State :=
  if s.get F.PAY_CFG_MODE = 0 then s
  else
    let total := s.jrn.hid.chargeRem + s.charge
    let unit := 65536 * 9000000000
    let s1 := { s with jrn := { s.jrn with hid := { s.jrn.hid with chargeRem := total % unit } } }
    if total / unit = 0 then s1 else s1.setCredit (s1.credit - (total / unit : Nat))

/-! ### The states (R328 to R331, Table 9.9) -/

/-- Whether the credit is exhausted. -/
def State.exhausted (s : State) : Bool :=
  if s.flag F.PAY_CFG_ECEN then decide (s.credit ≤ Int.neg (65536 * s.get F.PAY_EC_EC : Nat)) else decide (s.credit ≤ 0)

/-- Whether the tariff in force is friendly (R329). -/
def State.friendly (s : State) : Bool := !s.rm.untr && bit (s.get F.PAY_CFG_FRIENDLY) (s.get F.BILL_STAT_TARIFF)

/-- The state that Table 9.9 gives by the credit alone. -/
def State.payByCredit (s : State) : Nat :=
  if s.exhausted then (if s.friendly then 4 else 5)
  else if s.credit ≤ 0 then 3
  else if s.credit ≤ (65536 * s.get F.PAY_LOW_LOW : Nat) then 2
  else 1

/-- An open request of the actuator is noted; it is driven while no close demand is in force. -/
def State.wantOpen (s : State) : State := { s with act := { s.act with want := some false, openReq := true } }

/-- A close is wanted. -/
def State.wantClose (s : State) : State := { s with act := { s.act with want := some true, openReq := false } }

/-- Enters a prepayment state; a change is a commit occasion, and DISCONNECTED requests a close (R330). -/
def State.setPay (s : State) (v : Nat) : State :=
  if s.get F.PAY_STAT_STATE = v then s
  else
    let s1 := (s.put F.PAY_STAT_STATE v).commitDue
    if v = 5 then s1.wantClose else s1

/-- Credit has risen above 0 in DISCONNECTED (R331): ARMED, or the open request at once. Until the actuator reports open
the state shows ARMED in both cases (log entry 26). -/
def State.creditReturns (s : State) : State :=
  let s1 := s.setPay 6
  if s.flag F.PAY_CFG_ARM then s1 else s1.wantOpen

/-- PAY_STAT.STATE after the charge, by Table 9.9. DISCONNECTED with credit above 0 goes the way of R331, and ARMED lasts until the
actuator reports open or the credit is 0 or below (log entry 26). -/
def State.payState (s : State) : State :=
  let st := s.get F.PAY_STAT_STATE
  if s.get F.PAY_CFG_MODE = 0 then s.setPay 0
  else if st = 5 ∧ 0 < s.credit then s.creditReturns
  else if st = 6 ∧ 0 < s.credit ∧ s.get F.PAY_ACT_STATE ≠ 1 then s
  else s.setPay s.payByCredit

/-- Step 5 of prepayment. -/
def State.payTick (s : State) : State := (s.chargeTick.unitOfCredit).payState

/-! ### Tokens (R334 to R339) -/

/-- The lockout ends: the rejection count resets; both are committed (R339). -/
def State.endLockout (s : State) : State :=
  ({ (s.clr F.PAY_STAT_LOCKOUT).clr F.PAY_STAT_REJRUN with
      jrn := { s.jrn with hid := { s.jrn.hid with lockEnd := none } } }).commitDue

/-- Ends a lockout whose end time has come. -/
def State.checkLockout (s : State) : State := match s.jrn.hid.lockEnd with
  | none => s
  | some l => if l ≤ s.sec then s.endLockout else s

/-- TOKEN_LOCKOUT_EXPIRY (R339). -/
def execTokenLockoutExpiry (s : State) : Host.Outcome State Fault Refusal := .next (if s.ticking then s.checkLockout else s)

/-- PAY_TKLAST shows a result, with CLASS and ID where the checks reached them. -/
def State.tokenLast (s : State) (result : Nat) (cls id : Option Nat) : State :=
  s.wr F.PAY_TKLAST (word (2 ^ 28 * result + 2 ^ 22 * (cls.getD 0 % 16) + id.getD 0 % 2 ^ 22))

/-- A counted rejection (results 4 to 9); the fifth in a row locks evaluation for 600 s. -/
def State.tokenReject (s : State) : State :=
  let s1 := (s.bump F.PAY_TKCNT_REJECTED 1).commitDue
  let n := s1.get F.PAY_STAT_REJRUN + 1
  let s2 := s1.put F.PAY_STAT_REJRUN (min n 5)
  if n < 5 then s2
  else { s2.set1 F.PAY_STAT_LOCKOUT with jrn := { s2.jrn with hid := { s2.jrn.hid with lockEnd := some (s2.sec + 600) } } }

/-- The 64 bits of PAY_TKMAP. -/
def State.tokenMap (s : State) : Nat := (s.rd F.PAY_TKMAP_LO).toNat + 2 ^ 32 * (s.rd F.PAY_TKMAP_HI).toNat

/-- Writes PAY_TKMAP. -/
def State.setTokenMap (s : State) (m : Nat) : State :=
  (s.wr F.PAY_TKMAP_LO (word (m % 2 ^ 32))).wr F.PAY_TKMAP_HI (word (m / 2 ^ 32 % 2 ^ 32))

/-- The map and the high-water mark with an identifier accepted (R337). -/
def State.acceptId (s : State) (id : Nat) : State :=
  let h := s.get F.PAY_TKHWM_HWM
  if h < id then ((s.setTokenMap (if 64 ≤ id - h then 1 else (s.tokenMap * 2 ^ (id - h)) % 2 ^ 64 / 2 * 2 + 1)).put F.PAY_TKHWM_HWM id)
  else s.setTokenMap (setBit s.tokenMap (h - id) true)

/-- Whether CHECK matches: the CRC-16 over P[65:16] in seven bytes (R335). -/
def tokenCheck (p : Nat) : Bool := decide (crc16 (natBytes 7 (p / 65536)) = p % 65536)

/-- The checks on a decrypted token from FORMAT on; the result with CLASS and ID as far as they were reached. -/
def State.tokenResult (s : State) (p : Nat) : Nat × Option Nat × Option Nat :=
  let cls := p / 2 ^ 62
  let id := p / 2 ^ 40 % 2 ^ 22
  let amount := p / 65536 % 2 ^ 24
  let h := s.get F.PAY_TKHWM_HWM
  if 2 ^ 66 ≤ p then (4, none, none)
  else if !tokenCheck p then (5, none, none)
  else if 2 ≤ cls then (6, some cls, none)
  else if id + 64 ≤ h then (7, some cls, some id)
  else if id ≤ h ∧ bit s.tokenMap (h - id) then (8, some cls, some id)
  else if cls = 0 ∧ (65536 * 1000000000 : Int) < s.credit + (65536 * amount : Nat) then (9, some cls, some id)
  else (0, some cls, some id)

/-- The effect of a token's result, class and identifier: `p` is the number decrypted (R336, R337). -/
def State.applyToken (s : State) (p : Nat) (t : Nat × Option Nat × Option Nat) : Nat × State :=
  let s1 := s.tokenLast t.1 t.2.1 t.2.2
  if t.1 ≠ 0 then (t.1, s1.tokenReject)
  else
    let amount := p / 65536 % 2 ^ 24
    let s2 := s1.setCredit (if t.2.1 = some 1 then 0 else s1.credit + (65536 * amount : Nat))
    let s3 := ((s2.acceptId (t.2.2.getD 0)).bump F.PAY_TKCNT_ACCEPTED 1).clr F.PAY_STAT_REJRUN
    (0, s3.unitOfCredit.commitDue)

/-- The evaluation of a token with the vending key, if there is one. -/
def State.keyedToken (digits : List Nat) (x : Option (List Nat) × State) : Nat × State := match x.1 with
  | none => (2, x.2.tokenLast 2 none none)
  | some k =>
    if digits.length ≠ 20 then (3, x.2.tokenLast 3 none none)
    else
      let p := digitsNat (ff1Dec k x.2.devid digits)
      x.2.applyToken p (x.2.tokenResult p)

/-- The evaluation of a token (R336): its result of Table 12. `digits` are the decimal digits as entered. -/
def State.evalToken (s : State) (digits : List Nat) : Nat × State :=
  let s0 := s.checkLockout
  if s0.get F.PAY_CFG_MODE = 0 then (10, s0.tokenLast 10 none none)
  else if s0.flag F.PAY_STAT_LOCKOUT then (1, s0.tokenLast 1 none none)
  else State.keyedToken digits (s0.slotFor (s0.get F.PAY_TKCFG_SLOT) 2)

/-- At the first tick after a start-up a lockout continues to its end time, or for a full 600 s where the time is untrusted. -/
def State.resumeLockout (s : State) : State := match s.jrn.hid.lockEnd with
  | none => s
  | some _ =>
    if s.untrusted then { s with jrn := { s.jrn with due := true, hid := { s.jrn.hid with lockEnd := some (s.sec + 600) } } }
    else s.checkLockout

/-! ### Commands to the actuator (R332, R468) -/

/-- PAY_ACT.STATE, whose change is a commit occasion. -/
def State.setAct (s : State) (v : Nat) : State :=
  if s.get F.PAY_ACT_STATE = v then s else (s.put F.PAY_ACT_STATE v).commitDue

/-- Whether a close demand other than PAY's own keeps an open request without effect. SSHELD itself ends by the request once
the safe state and every CLOSE tamper bit have ended. -/
def State.openBlocked (s : State) : Bool :=
  s.tamperClose || (s.flag F.SAFE_STAT_SAFE && (s.flag F.SAFE_CFG_SSCLOSE || s.flag F.SAFE_STAT_SSHELD))

/-- The open request of R468 ends SSHELD. -/
def State.endHeld (s : State) : State := if s.flag F.SAFE_STAT_SSHELD then (s.clr F.SAFE_STAT_SSHELD).commitDue else s

/-- PAY_ACT.CMD 1, or Disconnect control method 1: held closed by command. -/
def State.remoteClose (s : State) : State := (((s.set1 F.PAY_STAT_REMOTE).commitDue).wantClose)

/-- PAY_ACT.CMD 2, or Disconnect control method 2: clears REMOTE and follows R331; with prepayment off the open request is
made at once (log entry 26). False where it has no effect (E06, result 6). -/
def State.remoteOpen (s : State) : Bool × State :=
  if s.openBlocked then (false, s)
  else
    let s1 := ((s.endHeld).clr F.PAY_STAT_REMOTE).commitDue
    if s1.get F.PAY_CFG_MODE = 0 then (true, s1.wantOpen)
    else if s1.get F.PAY_ACT_STATE = 1 then (true, s1)
    else (true, s1.creditReturns)

/-- The keys B then # (R341): an open request while SSHELD is 1, and the confirmation in ARMED. -/
def State.keypadOpen (s : State) : State :=
  let armed := decide (s.get F.PAY_STAT_STATE = 6)
  if s.flag F.SAFE_STAT_SSHELD then (if s.openBlocked then s else s.endHeld.wantOpen)
  else if armed then s.wantOpen else s

/-! ### The drive (R333, R469, R470) -/

/-- A value for closing and one for opening. -/
def byDir (closing : Bool) (c o : Nat) : Nat := if closing then c else o

/-- Starts a drive, in RUN; a transmission in progress stops (R76, R364). -/
def State.startDrive (s : State) (closing : Bool) (attempt : Nat) : State :=
  let s1 := { s with act := { s.act with drive := some ⟨closing, s.uptime, attempt, true⟩, want := none } }
  ((s1.setAct (byDir closing 4 3)).enterPower pwrRun).stopTx

/-- The direction that is due: close under a close demand, else open on request. -/
def State.driveDue (s : State) : Option Bool :=
  if s.closeDemand then (if s.get F.PAY_ACT_STATE = 2 then none else some true)
  else if s.act.openReq ∧ s.get F.PAY_ACT_STATE ≠ 1 then some false
  else none

/-- ACTUATOR_DRIVE (R333, R469): outside an Acoustic window, while ticks run and VLV.EN is 1, the drive that is due starts;
one already running in that direction goes on. -/
def execActuatorDrive (s : State) : Host.Outcome State Fault Refusal :=
  match s.driveDue with
  | none => .next s
  | some d =>
    if !s.ticking ∨ s.pins.window ∨ !s.flag F.PAY_VLV_EN ∨ s.act.drive.map (fun r => r.closing) = some d then .next s
    else .next (s.startDrive d 1)

/-- Ends the drive. -/
def State.endDrive (s : State) : State := ({ s with act := { s.act with drive := none } }).settlePower

/-- The bridge stops; the drive waits for its feedback. -/
def State.stopBridge (s : State) : State :=
  ({ s with act := { s.act with drive := s.act.drive.map (fun (r : Drive) => { r with bridgeOn := false }) } }).settlePower

/-- DRIVE_CURRENT_CHECK (R470): within 2 ms to 10 ms of a drive a current below 5 mA or above 400 mA stops it and is an
actuator fault. -/
def execDriveCurrentCheck (dt milliAmp : Nat) (s : State) : Host.Outcome State Fault Refusal :=
  let s1 := s.advance dt
  match s1.act.drive with
  | none => .next s1
  | some r =>
    if r.bridgeOn ∧ (milliAmp < 5 ∨ 400 < milliAmp) then
      .next ((s1.endDrive.setAct 5).detect 0x50 (byDir r.closing 1 0) milliAmp .atOnce)
    else .next s1

/-- DRIVE_PULSE_EXPIRY (R333): the drive has lasted PULSE ms. -/
def execDrivePulseExpiry (dt : Nat) (s : State) : Host.Outcome State Fault Refusal :=
  match s.act.drive with
  | none => .next (s.advance dt)
  | some r =>
    if r.bridgeOn then .next (s.passTo dt (r.start + millis (s.get F.PAY_VLV_PULSE))).stopBridge else .next (s.advance dt)

/-- ACTUATOR_TIMEOUT (R333, R469): the target feedback has not been accepted in time; the first time the drive repeats, once no
Acoustic window runs, the second is an actuator fault. -/
def execActuatorTimeout (dt : Nat) (s : State) : Host.Outcome State Fault Refusal :=
  match s.act.drive with
  | none => .next (s.advance dt)
  | some r =>
    let s1 := s.passTo dt (r.start + 4096 * s.get F.PAY_VLV_TIMEOUT)
    if s1.pins.window then .next s1
    else if r.attempt < 2 then .next ((s1.logTrouble 0x51 (byDir r.closing 1 0) 1).startDrive r.closing 2)
    else .next ((s1.endDrive.setAct 5).detect 0x51 (byDir r.closing 1 0) 2 .atOnce)

/-- PAY_ACT.STATE by the feedback alone (R333). -/
def feedbackState (fbo fbc : Bool) : Nat := match fbo, fbc with
  | true, false => 1
  | false, true => 2
  | false, false => 0
  | true, true => 5

/-- PAY_ACT shows the accepted feedback. -/
def State.showFeedback (s : State) : State := (s.putB F.PAY_ACT_FBO s.pins.fbo.level).putB F.PAY_ACT_FBC s.pins.fbc.level

/-- What PAY_ACT.STATE is without a drive. -/
def State.restAct (s : State) : Nat := feedbackState s.pins.fbo.level s.pins.fbc.level

/-- A drive is stopped before its target: EN has fallen, a warning has come, or HIBERNATE is entered (R76, R333, R469). -/
def State.stopDrive (s : State) : State := if s.act.drive.isSome then s.endDrive.setAct s.restAct else s

/-- The end position is confirmed. -/
def State.confirmEnd (s : State) (closed : Bool) : State :=
  let s1 := (s.endDrive).setAct (byDir closed 2 1)
  { s1 with act := { s1.act with confirmed := some closed, openReq := if closed then s1.act.openReq else false } }

/-- The end position that the feedback gives by itself. -/
def endOf (fbo fbc : Bool) : Option Bool := if fbo && !fbc then some false else if fbc && !fbo then some true else none

/-- A change of the feedback is accepted (R333, R470). A drive that reaches its target ends; both reached, or a departure without a
drive, is an actuator fault, and a departure from closed under a close demand starts a new close drive at once. A core that does not
run only keeps the levels, which the next start-up reads. -/
def State.feedbackAccept (s : State) : State :=
  let o := s.pins.fbo.level
  let c := s.pins.fbc.level
  let s1 := s.showFeedback.wakeCore
  if !s1.coreAlive then s1
  else match s1.act.drive with
    | some r =>
      if o ∧ c then (s1.endDrive.setAct 5).detect 0x53 0xFF (s1.rd F.PAY_ACT).toNat .atOnce
      else if (if r.closing then c else o) then s1.confirmEnd r.closing
      else s1
    | none =>
      let s2 := s1.setAct s1.restAct
      if !s1.flag F.PAY_VLV_EN then s2
      else if o ∧ c then s2.detect 0x53 0xFF (s2.rd F.PAY_ACT).toNat .atOnce
      else match s1.act.confirmed with
        | none => { s2 with act := { s2.act with confirmed := endOf o c } }
        | some e =>
          if (if e then c else o) then s2
          else
            let s3 := s2.detect 0x52 0xFF (s2.rd F.PAY_ACT).toNat .atOnce
            if e ∧ s3.closeDemand ∧ s3.ticking ∧ !s3.pins.window then s3.startDrive true 1 else s3

/-- One sample of VLV_FBO and VLV_FBC, by the scheme of R67; nothing samples them in BACKUP. -/
def State.feedbackSample (s : State) (v : Bool × Bool) : State :=
  if s.pow.stage = .backup then
    { s with pins := { s.pins with fbo := s.pins.fbo.follow v.1, fbc := s.pins.fbc.follow v.2 } }
  else
    let s1 := { s with pins := { s.pins with fbo := s.pins.fbo.sample 3 v.1, fbc := s.pins.fbc.sample 3 v.2 } }
    if s1.pins.fbo.level = s.pins.fbo.level ∧ s1.pins.fbc.level = s.pins.fbc.level then s1 else s1.feedbackAccept

/-- FEEDBACK_CHANGE (R67, R76, R333, R470): samples of VLV_FBO and VLV_FBC, true where an end position is reached; three that agree
are accepted. -/
def execFeedbackChange (dt : Nat) (first : Bool × Bool) (more : List (Bool × Bool)) (s : State) : Host.Outcome State Fault Refusal :=
  .next (State.sampleRun State.feedbackSample samplePeriod s dt (first :: more))

/-- A Capture that takes EN from the actuator stops its drive (R333). -/
def State.driveCapture (s : State) : State := if s.flag F.PAY_VLV_EN then s else s.stopDrive

/-- The actuator state at start-up, read from the feedback inputs (R333). -/
def State.actuatorStart (s : State) : State :=
  let s1 := s.showFeedback.put F.PAY_ACT_STATE s.restAct
  { s1 with act := { s1.act with drive := none, openReq := false, want := none
                                 confirmed := endOf s.pins.fbo.level s.pins.fbc.level } }

end Sys2Proof.Machine
end

