-- ==== Sys2Proof/Machine/Display.lean ====
section
/-! DEFINITION. The display: pages, icons and frames, the LCD install, bistable updates with their drives and charge balance,
page navigation, power-off and recovery (spec 12_display.md, R393 to R426). -/

namespace Sys2Proof.Machine

/-! ### Segments and regions (R394, R395) -/

/-- Whether the panel is driven at all, and in which mode. -/
def State.dispMode (s : State) : Nat := if s.flag F.DISP_CTRL_EN then s.get F.DISP_CTRL_MODE else 0

/-- Number of segment indices of a mode. -/
def State.segRange (s : State) (mode : Nat) : Nat :=
  if mode = 1 then (if s.flag F.DISP_LCD_DUTY then 512 else 256) else if mode = 2 then 72 else 0

/-- The region of entry k of DISP_SREG, read through a view of the registers. -/
def regionEntry (look : Nat → Word) (k : Nat) : Nat := bitsOf (look (F.DISP_SREG (k / 9))) (3 * (k % 9) + 2) (3 * (k % 9))

/-- The region of a bistable segment in force. -/
def State.regionOf (s : State) (k : Nat) : Nat := regionEntry s.rd k

/-- Whether region 0 of a view holds no more than its mode allows (R395). -/
def marqueeFits (look : Nat → Word) (mode : Nat) (duty : Bool) : Bool :=
  let count (n : Nat) : Nat := ((List.range n).filter (fun k => decide (regionEntry look k = 0))).length
  if mode = 1 then decide (count 64 ≤ if duty then 2 else 4)
  else if mode = 2 then decide (count 72 ≤ 16)
  else true

/-- The indices of a region. -/
def State.regionSegs (s : State) (r : Nat) : List Nat := (List.range 72).filter (fun k => decide (s.regionOf k = r))

/-! ### Page values (R415, Table 12.7) -/

/-- Glyph of a hexadecimal digit (Table 12.5); bit k is segment k. -/
def glyph (d : Nat) : Nat :=
  [0x3F, 0x06, 0x5B, 0x4F, 0x66, 0x6D, 0x7D, 0x07, 0x7F, 0x6F, 0x77, 0x7C, 0x39, 0x5E, 0x79, 0x71].getD d 0

/-- The glyphs of a decimal value given as a quotient, least significant first. -/
def decGlyphs (num : Int) (den dec dig : Nat) (lz : Bool) : List Nat :=
  let n := num.natAbs * 10 ^ dec / den
  (List.range dig).map (fun i =>
    if num < 0 ∧ i + 1 = dig then 0x40
    else if lz ∨ i ≤ dec ∨ 10 ^ i ≤ n then glyph (n / 10 ^ i % 10) else 0)

/-- The glyphs of a hexadecimal value. -/
def hexGlyphs (v dig : Nat) : List Nat := (List.range dig).map (fun i => glyph (v / 16 ^ i % 16))

/-- The glyphs of a keypad entry. -/
def entryGlyphs (l : List Nat) (dig : Nat) : List Nat :=
  (List.range dig).map (fun i => match l.reverse[i]? with | some d => glyph d | none => 0)

/-- The latest snapshot of a meter point; zeros before the first. -/
def State.latestSnapshot (s : State) (x : Nat) : List Byte :=
  let h := s.jrn.hid
  let a := snapshotAddr x (h.period % 24)
  if h.period = 0 then zeros 384
  else match (h.closing.filter (fun p => decide (p.addr = a))).getLast? with
    | some p => p.bytes
    | none => s.nvmBytes a 384

/-- The status word of object 0-0:96.5.0.255 (Table 10.3). -/
def State.statusWord (s : State) : Nat :=
  b2n s.pins.sealForce + 2 * b2n s.untrusted + 4 * b2n (s.flag F.SAFE_STAT_SAFE) + 8 * b2n (s.flag F.CMD_MODE_TEST)
    + 16 * b2n (decide ((s.rd F.SAFE_TLATCH).toNat ≠ 0)) + 256 * b2n (decide (s.get (F.MP_STAT_FSTATE 0) = 2))
    + 512 * b2n (decide (s.get (F.MP_STAT_FSTATE 1) = 2)) + 1024 * b2n (decide (s.get (F.MP_STAT_FSTATE 0) = 1))
    + 2048 * b2n (decide (s.get (F.MP_STAT_FSTATE 1) = 1))

/-- The decimal value of a page source as a quotient: registers hold 2^-16 mm³, J and s. -/
def State.pageQuot (s : State) (src x tsel : Nat) : Option (Int × Nat) :=
  let tar (q : Nat) : Nat := if tsel = 0 then s.reg96 x q else s.reg96 x (8 * (q + 1) + tsel - 1)
  let vol : Nat := 65536 * 1000000000
  let kwh : Nat := 65536 * 3600000
  let snap (off : Nat) : Nat := natLE (((s.latestSnapshot x).drop off).take 8)
  match src with
  | 1 => some (tar 0, vol)
  | 2 => some (tar 1, kwh)
  | 3 => some (tar 2, kwh)
  | 4 => some (tar 3, vol)
  | 5 => some (s.reg96 x 40, vol)
  | 6 => some (s.reg96 x 42, vol)
  | 7 => some (s.reg96 x 48, 65536 * 3600)
  | 8 => some (s.getI (F.MP_FLOWW_FLOW x), 16000)
  | 9 => some (s.getI (F.MP_POWER_POWER x), 16000)
  | 10 => some (s.getI (F.MP_TF_T x), 65536)
  | 11 => some (s.getI (F.MP_TR_T x), 65536)
  | 12 => some (s.getI (F.MP_TF_T x) - s.getI (F.MP_TR_T x), 65536)
  | 15 => some (s.credit, 65536)
  | 16 => some (s.get (F.BILL_MD_MD x 0), 16000)
  | 17 => some (s.get (F.BILL_MD_MD x 1), 16000)
  | 18 => some (if s.isGas x then 0 else snap 24, 3600000)
  | 19 => some (snap 16, 1000000000)
  | _ => none

/-- The glyphs that a page shows, least significant first, and the digit whose point is lit. -/
def State.pageGlyphs (s : State) (p : Nat) : List Nat × Option Nat :=
  let src := s.get (F.DISP_PAGE_SRC p)
  let dec := s.get (F.DISP_PAGE_DEC p)
  let dig := min 12 (s.get (F.DISP_PAGE_DIG p))
  let lz := s.flag (F.DISP_PAGE_LZ p)
  let c := secToCal s.rm.startTime.1
  match s.pageQuot src (s.get (F.DISP_PAGE_MP p)) (s.get (F.DISP_PAGE_TSEL p)) with
  | some (num, den) => (decGlyphs num den dec dig lz, if 0 < dec then some dec else none)
  | none => match src with
    | 13 => (decGlyphs (10000 * c.day + 100 * c.month + c.year % 100 : Nat) 1 0 dig true |>.mapIdx
              (fun i g => if i < 6 ∨ lz then g else 0), none)
    | 14 => (decGlyphs (10000 * c.hour + 100 * c.minute + c.second : Nat) 1 0 dig true |>.mapIdx
              (fun i g => if i < 6 ∨ lz then g else 0), none)
    | 20 => (hexGlyphs (match s.mgmt.images.getD 0 none with | some i => i.chk | none => 0) dig, none)
    | 21 => (hexGlyphs (s.rd F.MGMT_DEVID_LO).toNat dig, none)
    | 22 => (hexGlyphs s.statusWord dig, none)
    | 23 => (entryGlyphs s.kpd.entry dig, none)
    | _ => ([], none)

/-- Glyph of digit d with its point in bit 7. -/
def State.digitCode (s : State) (p d : Nat) : Nat :=
  let (g, dp) := s.pageGlyphs p
  let pos := s.get (F.DISP_PAGE_POS p)
  if d < pos ∨ pos + g.length ≤ d then 0
  else g.getD (d - pos) 0 + (if dp = some (d - pos) then 128 else 0)

/-! ### Icons (R414, Table 12.6) -/

/-- The flow level of source 14. -/
def State.flowLevel (s : State) (x : Nat) : Nat :=
  let q := s.getI (F.MP_FLOWW_FLOW x)
  let ref := 16 * max 1 (s.get F.DISP_MQCFG_QREF)
  if q ≤ 0 then 0 else min 3 ((3 * q.toNat + ref - 1) / ref)

/-- The level of an icon source: 0 unlit; 3 lit, or the grey level of source 14. -/
def State.iconLevel (s : State) (page src : Nat) : Nat :=
  let x := s.get (F.DISP_PAGE_MP page)
  let fs := s.get (F.MP_STAT_FSTATE x)
  let st := s.get F.PAY_STAT_STATE
  let lit (b : Bool) : Nat := if b then 3 else 0
  match src with
  | 0 => 0
  | 1 => 3
  | 2 => lit (decide (0 < s.getI (F.MP_FLOWW_FLOW x)))
  | 3 => lit (match (s.mp x).qty with | some q => decide (q.dvol < 0) | none => false)
  | 4 => lit (decide (fs = 1 ∨ fs = 2))
  | 5 => lit s.pins.sealForce
  | 6 => lit s.untrusted
  | 7 => lit (decide ((s.rd F.SAFE_TLATCH).toNat ≠ 0))
  | 8 => lit (s.flag F.SAFE_STAT_SAFE)
  | 9 => lit (decide (s.get F.PWR_SUPPLY_VBAT_MV < 3000))
  | 10 => lit (match s.link.heardAt with | some t => decide (s.uptime ≤ t + secs 60) | none => false)
  | 11 => lit (decide (st = 2 ∨ st = 3))
  | 12 => lit (decide (st = 5 ∨ st = 6))
  | 13 => lit (s.flag F.CMD_MODE_TEST)
  | 14 => s.flowLevel x
  | 15 => 0
  | _ =>
    if src < 24 then lit (decide (s.get F.BILL_STAT_TARIFF = src - 16))
    else lit (s.flag (F.DISP_PAGE_EN page) && decide (s.get (F.DISP_PAGE_UNIT page) = src - 24))

/-- Whether an icon source is an alarm (R412). -/
def alarmIcon (src : Nat) : Bool := decide (5 ≤ src ∧ src ≤ 9) || decide (src = 11 ∨ src = 12)

/-- The level of element m and whether it is red when lit. -/
def State.element (s : State) (page m : Nat) : Nat × Bool :=
  if m < 96 then
    (if s.flag (F.DISP_PAGE_EN page) ∧ bit (s.digitCode page (m / 8)) (m % 8) then 3 else 0, false)
  else
    let src := s.get (F.DISP_SMAP_SRC m)
    (s.iconLevel page src, alarmIcon src && s.flag F.DISP_CTRL_REDALM)

/-! ### Frames (R396, R412, R417) -/

/-- The lit elements of the frame: segment index, level and redness. Two elements on one segment both light it. -/
def State.litSegs (s : State) (page mode : Nat) : List (Nat × Nat × Bool) :=
  (List.range 128).filterMap (fun m =>
    let seg := s.get (F.DISP_SMAP_SEG m)
    if s.flag (F.DISP_SMAP_EN m) ∧ seg < s.segRange mode then
      let (l, red) := s.element page m
      if l = 0 then none else some (seg, l, red)
    else none)

/-- The byte of bistable segment k. -/
def State.segByte (s : State) (lit : List (Nat × Nat × Bool)) (k : Nat) : Nat :=
  let r := s.regionOf k
  let l := lit.filter (fun e => decide (e.1 = k))
  let level := (l.map (fun e => e.2.1)).foldl max 0
  let red := l.any (fun e => e.2.2)
  4 * r + (if r = 0 then level else if level = 0 then 0 else if red then 2 else 1)

/-- Bytes 8 to 1,019 of the frame that the page and the icons give now. -/
def State.frameBody (s : State) (page : Nat) : List Byte :=
  let mode := s.get F.DISP_CTRL_MODE
  let lit := s.litSegs page mode
  let on (i : Nat) : Bool := lit.any (fun e => decide (e.1 = i))
  let lcd := if mode = 1 then (List.range 64).map (fun b =>
      byte (sumNat ((List.range 8).map (fun c => if on (8 * b + c) then 2 ^ c else 0)))) else zeros 64
  let bis := if mode = 2 then (List.range 72).map (fun k => byte (s.segByte lit k)) else zeros 72
  [byte page, byte mode, 0#8, 0#8] ++ lcd ++ bis ++ zeros 872

/-- Addresses of the two frame records. -/
def frameInForce : Nat := slotAddr 672
def frameNext : Nat := slotAddr 680

/-- The body of a frame record. -/
def State.bodyAt (s : State) (a : Nat) : List Byte := s.crsBytes (a + 8) 1012

/-- A frame's body with its CRC-32. -/
def withCrc (body : List Byte) : List Byte := body ++ bytesLE 4 (crc32 body)

/-- Publishes the next frame. -/
def State.publishFrame (s : State) (body : List Byte) : State := s.publish 5 680 8 (withCrc body)

/-- Writes the frame in force and shows its CRC. -/
def State.setInForce (s : State) (body : List Byte) : State :=
  (s.publish 5 672 8 (withCrc body)).put F.DISP_FCRC_CRC (crc32 body)

/-! ### Navigation (R416) -/

/-- The lowest enabled page that meets a test. -/
def State.firstPage (s : State) (p : Nat → Bool) : Option Nat :=
  (List.range 16).find? (fun n => s.flag (F.DISP_PAGE_EN n) && p n)

/-- The next enabled page after one, wrapping round. -/
def State.nextPage (s : State) (n : Nat) : Option Nat :=
  ((List.range 16).map (fun i => (n + 1 + i) % 16)).find? (fun k => s.flag (F.DISP_PAGE_EN k))

/-- Shows a page of the navigation, if there is one. -/
def State.goPage (s : State) (p : Option Nat) : State := match p with
  | none => s
  | some n => { s with disp := { s.disp with page := n } }

/-- The page shown: that of a keypad entry while it holds digits, else that of the navigation. -/
def State.shownPage (s : State) : Nat :=
  if s.kpd.entry = [] then s.disp.page
  else (s.firstPage (fun n => decide (s.get (F.DISP_PAGE_SRC n) = 23))).getD s.disp.page

/-- An accepted key: D and A change the page, and the times without a key start anew. -/
def State.navKey (s : State) (key : Nat) : State :=
  let s1 := { s with disp := { s.disp with keyAt := s.uptime, scrollAt := s.uptime } }
  if key = 15 then s1.goPage (s1.nextPage s1.disp.page)
  else if key = 3 then s1.goPage (s1.firstPage (fun n => decide (s1.get (F.DISP_PAGE_SRC n) = 15)))
  else s1

/-- PAGE_RETURN (R416): RETURN s without a key. -/
def execPageReturn (dt : Nat) (s : State) : Host.Outcome State Fault Refusal :=
  let r := s.get F.DISP_NAV_RETURN
  if r = 0 ∨ s.dispMode = 0 then .next (s.advance dt)
  else
    let s1 := s.passTo dt (s.disp.keyAt + secs r)
    let s2 := { s1 with disp := { s1.disp with keyAt := s1.uptime } }
    .next ((s2.goPage (s2.firstPage (fun _ => true))).ready 1)

/-- PAGE_SCROLL (R416): SCROLL s without a key, and each SCROLL s after. -/
def execPageScroll (dt : Nat) (s : State) : Host.Outcome State Fault Refusal :=
  let r := s.get F.DISP_NAV_SCROLL
  if r = 0 ∨ s.dispMode = 0 then .next (s.advance dt)
  else
    let s1 := s.passTo dt (s.disp.scrollAt + secs r)
    let s2 := { s1 with disp := { s1.disp with scrollAt := s1.uptime } }
    .next ((s2.goPage (s2.nextPage s2.disp.page)).ready 1)

/-! ### Drives (R404 to R411) -/

/-- Charge units of a level code in one phase (Table 12.4). -/
def State.levelUnits (s : State) (code : Nat) : Int := match code with
  | 0 => 0
  | 1 => 15
  | 2 => -15
  | _ => 3 + s.get F.DISP_BCFG_VLOW

/-- The drive curve of a colour. -/
def State.curve (s : State) (c : Nat) : List (Int × Nat) :=
  let len := s.get (F.DISP_CUR_CFG_PHLEN c)
  (List.range (s.get (F.DISP_CUR_CFG_NPHM1 c) + 1)).map (fun i =>
    let w := if i < 16 then s.rd (F.DISP_CUR_LO c) else s.rd (F.DISP_CUR_HI c)
    (s.levelUnits (bitsOf w (2 * (i % 16) + 1) (2 * (i % 16))), len))

/-- The balance of a segment. -/
def State.balance (s : State) (k : Nat) : Int := s.getI (F.DISP_BAL_BAL k)

/-- The balancing phases of a segment before the curve of colour c (R408). -/
def State.balancing (s : State) (k c : Nat) : List (Int × Nat) :=
  let b := s.balance k
  List.replicate (min (s.get F.DISP_BCFG_BALMAX) (b.natAbs / 15)) (if 0 < b then (-15 : Int) else 15, s.get (F.DISP_CUR_CFG_PHLEN c))

/-- Whether a segment's balance has reached the refresh limit. -/
def State.overLimit (s : State) (k : Nat) : Bool := decide (16 * s.get F.DISP_BCFG_BALLIM ≤ (s.balance k).natAbs)

/-- The Marquee's pulse from level p to level q (R410). -/
def State.pulse (s : State) (p q : Nat) : List (Int × Nat) :=
  let b := bitsOf (s.rd (F.DISP_OD p)) (8 * q + 7) (8 * q)
  let v : Int := 8 + s.get F.DISP_BCFG_VMQ
  if p = q then [] else List.replicate (b % 64) (if bit b 7 then v else -v, s.get F.DISP_MQCFG_PHLEN)

/-- The Marquee's refresh to level q: the white curve with its balancing phases, then the pulse from level 0 (R411). -/
def State.mqRefresh (s : State) (k q : Nat) : List (Int × Nat) := s.balancing k 0 ++ s.curve 0 ++ s.pulse 0 q

/-- Whether a Marquee segment takes its refresh: over the limit, and none in the last hour. -/
def State.mqDue (s : State) (k : Nat) : Bool :=
  s.overLimit k && (match s.disp.mqAt.find? (fun e => decide (e.1 = k)) with
    | none => true
    | some e => decide (e.2 + secs 3600 ≤ s.uptime))

/-- The colour or level in a frame byte. -/
def colourOf (b : Byte) : Nat := b.toNat % 4

/-- The bistable byte of segment k in a frame body. -/
def segOf (body : List Byte) (k : Nat) : Byte := body.getD (68 + k) 0#8

/-- The drive of one segment in a change update. -/
def State.changeDrive (s : State) (body now : List Byte) (unknown : Bool) (k : Nat) : SegDrive :=
  let q := colourOf (segOf body k)
  if s.regionOf k = 0 then ⟨k, if unknown ∨ s.mqDue k then s.mqRefresh k q else s.pulse (colourOf (segOf now k)) q⟩
  else ⟨k, s.balancing k q ++ s.curve q⟩

/-- The segments of a region whose bytes differ, or all of them where the region is unknown (R418, R422). -/
def State.changed (s : State) (body now : List Byte) (r : Nat) : List Nat :=
  (s.regionSegs r).filter (fun k => bit (s.get F.DISP_STAT_UNKNOWN) r || decide (segOf body k ≠ segOf now k))

/-- The time of the longest drive, in ms. -/
def drivesMs (l : List SegDrive) : Nat := (l.map (fun d => sumNat (d.phases.map (fun p => p.2)))).foldl max 0

/-- Starts a bistable update or refresh: the pump starts, and the first phase follows after 5 ms (R418, Table 12.8). `sec` is the
time that its record gives. -/
def State.startRun (s : State) (kind r : Nat) (whole : Bool) (target : List (Nat × Nat)) (segs : List SegDrive) (sec : Nat) : State :=
  let d : DispRun := ⟨kind, r, whole, target, segs, s.uptime, 0, false, 0, sec⟩
  let s1 := { s with disp := { s.disp with run := some { d with stop := d.first + millis (drivesMs segs) } } }
  (s1.set1 F.DISP_STAT_BUSY).put F.DISP_STAT_RUNREG r

/-- The bytes of a region that an update gives the frame in force. -/
def targetOf (body : List Byte) (l : List Nat) : List (Nat × Nat) :=
  l.map (fun k => (k, (segOf body k).toNat))

/-- A frame body with segment bytes replaced, and its page and mode bytes taken from another. -/
def applyTarget (now : List Byte) (pm : List Byte) (t : List (Nat × Nat)) : List Byte :=
  pm ++ t.foldl (fun b e => b.set (66 + e.1) (byte e.2)) (now.drop 2)

/-- Applies phases to a segment's balance; it saturates at ±32,767 (R407). -/
def State.chargeSeg (s : State) (k : Nat) (l : List (Int × Nat)) : State :=
  s.putI (F.DISP_BAL_BAL k) (l.foldl (fun (b : Int) p => clampInt (-32767) 32767 (b + p.1)) (s.balance k))

/-! ### Requests (R409, R417 to R419) -/

/-- Marks a region pending. -/
def State.request (s : State) (r : Nat) : State := s.put ⟨F.DISP_STAT, 16 + r, 16 + r⟩ 1

/-- Clears a region's request. -/
def State.unrequest (s : State) (r : Nat) : State := s.put ⟨F.DISP_STAT, 16 + r, 16 + r⟩ 0

/-- The segments of a region that a balancing request drives. -/
def State.balanceSegs (s : State) (r : Nat) : List Nat := (s.regionSegs r).filter s.overLimit

/-- The balancing requests of a Service window: regions 1 to 7, each once an hour at most (R409). -/
def State.balanceRequests (s : State) : State :=
  [1, 2, 3, 4, 5, 6, 7].foldl (fun (t : State) r =>
    let due : Bool := match t.disp.balAt.getD r none with | none => true | some a => decide (a + secs 3600 ≤ t.uptime)
    let running : Bool := match t.disp.run with | some d => decide (d.region = r) || d.whole | none => false
    if due ∧ !running ∧ t.balanceSegs r ≠ [] then
      { t.request r with disp := { t.disp with balAt := t.disp.balAt.set r (some t.uptime) } }
    else t) s

/-- A region's balancing request is still to be served: none of its updates has started since (R409, R419). -/
def State.balanceDue (s : State) (r : Nat) : Bool := match s.disp.balAt.getD r none, s.disp.startAt.getD r none with
  | none, _ => false
  | some _, none => true
  | some a, some b => decide (b < a)

/-- The drive of a balancing request: balancing phases, then the curve of the segment's own colour (R409). -/
def State.balanceDrive (s : State) (now : List Byte) (k : Nat) : SegDrive :=
  let c := colourOf (segOf now k)
  ⟨k, s.balancing k c ++ s.curve c⟩

/-- Serves one pending region: the segments that change, with those of a balancing request merged into it, or nothing left to do.
True when an update started. -/
def State.serveRegion (s : State) (body : List Byte) (r : Nat) : Bool × State :=
  let now := s.bodyAt frameInForce
  let l := s.changed body now r
  let b := if s.balanceDue r then (s.balanceSegs r).filter (fun k => !l.contains k) else []
  let bal := b.map (s.balanceDrive now)
  let unknown := bit (s.get F.DISP_STAT_UNKNOWN) r
  let s1 := s.unrequest r
  let s2 := { s1 with disp := { s1.disp with startAt := s1.disp.startAt.set r (some s1.uptime) } }
  if l ≠ [] then
    let fresh := l.filter (fun k => decide (s.regionOf k = 0) && (unknown || s.mqDue k))
    let s3 := s2.startRun 0 r false (targetOf body (s.regionSegs r)) (l.map (s.changeDrive body now unknown) ++ bal) s.sec
    let mq := s3.disp.mqAt.filter (fun e => !fresh.contains e.1) ++ fresh.map (fun k => (k, s.uptime))
    (true, { s3 with disp := { s3.disp with mqAt := mq } })
  else if bal ≠ [] then (true, s2.startRun 3 r false [] bal s.sec)
  else (false, s1)

/-- Serves the pending regions in order, each once it is past its MININT, until an update starts. -/
def State.serve (s : State) (body : List Byte) : List Nat → State
  | [] => s
  | r :: t =>
    let late : Bool := match s.disp.startAt.getD r none with
      | none => true
      | some a => decide (a + secs (s.get F.DISP_BCFG_MININT) ≤ s.uptime)
    if bit (s.get F.DISP_STAT_PENDING) r ∧ late then
      let (started, s1) := s.serveRegion body r
      if started then s1 else s1.serve body t
    else s.serve body t

/-- A slice of the DISP task (R402, R417 to R419): the next frame is built anew and compared with the frame in force. -/
def State.dispTask (s : State) : State :=
  let page := s.shownPage
  let s0 := (s.put F.DISP_STAT_PAGE page).eccMeet frameInForce 2048
  let body := s0.frameBody page
  let now := s0.bodyAt frameInForce
  match s0.dispMode with
  | 1 =>
    if body = now ∧ s0.get F.DISP_STAT_UNKNOWN = 0 then s0
    else
      let s1 := s0.publishFrame body
      { s1 with disp := { s1.disp with installDue := true } }
  | 2 =>
    let s1 := if body = s0.bodyAt frameNext then s0 else s0.publishFrame body
    let s2 := (List.range 8).foldl (fun (t : State) r =>
      if (t.regionSegs r).any (fun k => decide (segOf body k ≠ segOf now k)) then t.request r else t) s1
    match s2.disp.run with
    | some _ => s2
    | none => s2.serve body (List.range 8)
  | _ => s0

/-- Whether the DISP task has work: what the page and icons show has changed, or a pending region may be served (R417). -/
def State.dispWork (s : State) : Bool :=
  if s.dispMode = 0 then false
  else decide (s.frameBody s.shownPage ≠ s.bodyAt frameNext)
    || (s.disp.run.isNone && decide (s.get F.DISP_STAT_PENDING ≠ 0))
    || (decide (s.dispMode = 1) && decide (s.get F.DISP_STAT_UNKNOWN ≠ 0) && !s.disp.installDue)

/-! ### Ends -/

/-- INSTALL (R402): at the start of the next A frame the next frame becomes the frame in force; no frame starts in an Acoustic
window (R401). -/
def execInstall (dt : Nat) (s : State) : Host.Outcome State Fault Refusal :=
  let s1 := if s.disp.installDue ∧ s.disp.lcd ∧ !s.pins.window then s.passTo dt (s.lcdNextA s.uptime) else s.advance dt
  if s1.disp.installDue ∧ s1.disp.lcd ∧ s1.dispMode = 1 ∧ !s1.pins.window then
    let s2 := { s1.eccMeet frameNext 1024 with disp := { s1.disp with installDue := false } }
    let body := s2.bodyAt frameNext
    let s3 := { s2.setInForce body with disp := { s2.disp with latch := (body.drop 4).take 64 } }
    .next ((s3.bump F.DISP_UPDCNT_UPDATES 1).clr F.DISP_STAT_UNKNOWN)
  else .next s1

/-- Every driven segment's charge, once the update has ended. -/
def State.chargeAll (s : State) (l : List SegDrive) : State := l.foldl (fun (t : State) d => t.chargeSeg d.seg d.phases) s

/-- Whether a change of level that would fall inside the Acoustic window that runs is held until its end (R420). -/
def State.windowHolds (s : State) (t : Nat) : Bool := s.pins.window && decide (usCycles s.windowStart < t)

/-- The milliseconds of drive that an update has run, windows apart; none before its first phase. -/
def State.runMs (s : State) (r : DispRun) : Option Nat :=
  let now := if s.pins.window then min s.uptime (usCycles s.windowStart) else s.uptime
  if now < r.first then none else some ((now - r.first) * 1000 / 32768)

/-- The phases of a drive that have ended after `ms`. -/
def phasesDone : Nat → List (Int × Nat) → List (Int × Nat)
  | _, [] => []
  | ms, p :: t => if p.2 ≤ ms then p :: phasesDone (ms - p.2) t else []

/-- The update-in-flight record after `ms` of drive: flag, region or whole panel, kind, the last phase started, SEC (R424). -/
def State.runRecord (s : State) (r : DispRun) (ms : Nat) : State :=
  let i := (r.segs.map (fun d => min (phasesDone ms d.phases).length (d.phases.length - 1))).foldl max 0
  s.retWrite 0x10 ([1, (if r.whole then 128 else r.region), r.kind, min i 255] ++ (bytesLE 4 r.sec).map BitVec.toNat)

/-- What an update in progress has done so far: every phase that has ended has added its charge, and from the first phase on the
record stands in the retained bytes (R407, R424). -/
def State.runShown (s : State) : State := match s.disp.run with
  | none => s
  | some r =>
    if r.discharge then s
    else match s.runMs r with
      | none => s
      | some ms => (r.segs.foldl (fun (t : State) d => t.chargeSeg d.seg (phasesDone ms d.phases)) s).runRecord r ms

/-- The refresh of pass 2 (R426): segments whose target is not white. -/
def State.passTwo (s : State) (r : DispRun) : State :=
  let segs := (r.target.filter (fun e => decide (e.2 % 4 ≠ 0))).map (fun e =>
    (⟨e.1, if s.regionOf e.1 = 0 then s.pulse 0 (e.2 % 4) else s.curve (e.2 % 4)⟩ : SegDrive))
  s.startRun 2 r.region r.whole r.target segs r.sec

/-- The frame in force takes the bytes of an update that has ended (R397, R418). -/
def State.endRun (s : State) (r : DispRun) : State :=
  let s1 := if r.target = [] then s
    else s.setInForce (applyTarget (s.bodyAt frameInForce) ((s.bodyAt frameNext).take 2) r.target)
  let s2 := if r.kind = 3 then s1
    else if r.whole then s1.clr F.DISP_STAT_UNKNOWN else s1.put ⟨F.DISP_STAT, 8 + r.region, 8 + r.region⟩ 0
  let s3 := if r.kind = 0 ∨ r.kind = 3 then s2.bump F.DISP_UPDCNT_UPDATES 1 else s2
  { s3 with disp := { s3.disp with run := some { r with discharge := true } } }

/-- No update runs. -/
def State.runOff (s : State) : State :=
  (({ s with disp := { s.disp with run := none } }).clr F.DISP_STAT_BUSY).clr F.DISP_STAT_RUNREG

/-- BISTABLE_UPDATE_END (R407, R418, R420, R423, R426): the last driven segment's last phase ends; in an Acoustic window it is held.
Pass 1 of a refresh goes on to pass 2; any other update gives the frame in force its bytes, and the discharge begins. -/
def execBistableUpdateEnd (dt : Nat) (s : State) : Host.Outcome State Fault Refusal :=
  match s.disp.run with
  | none => .next (s.advance dt)
  | some r =>
    if r.discharge ∨ s.windowHolds r.stop then .next (s.advance dt)
    else
      let s1 := ((s.passTo dt r.stop).chargeAll r.segs).runRecord r (drivesMs r.segs)
      let s2 := { s1 with disp := { s1.disp with run := some { r with stop := max s1.uptime r.stop } } }
      .next (if r.kind = 1 then s2.passTwo r else s2.endRun { r with stop := s1.uptime })

/-- DISCHARGE_END (R405, R423, R424): 10 ms after the last phase the domain is off and the record's flag clears. -/
def execDischargeEnd (dt : Nat) (s : State) : Host.Outcome State Fault Refusal :=
  match s.disp.run with
  | none => .next (s.advance dt)
  | some r =>
    if r.discharge then
      .next ((s.passTo dt (r.stop + millis 10)).retWrite 0x10 [0]).runOff
    else .next (s.advance dt)

/-- The fast discharge of R425: the update is abandoned, and the record stays set with the last phase started; once the discharge has
begun the last phase has ended, and the flag clears (R424). -/
def State.abandonRun (s : State) : State := match s.disp.run with
  | none => s
  | some r => if r.discharge then (s.retWrite 0x10 [0]).runOff else s.runShown.runOff

/-! ### Power (R393, R399, R403, R421, R423, R426) -/

/-- VOP in mV, corrected by the die temperature in 1/16 °C and clamped (R399). -/
def State.vopOf (s : State) (die16 : Int) : Nat :=
  let v : Int := 2600 + 100 * s.get F.DISP_LCD_VOP
  (clampInt 2600 5000 (v - roundDiv ((s.get F.DISP_LCD_TCOMP : Int) * max 0 (die16 - 400)) 16)).toNat

/-- The LCD is driven again (R425). -/
def State.relight (s : State) : State := ({ s with disp := { s.disp with lcd := true } }).lcdBegin

/-- The display is no longer enabled: no request and no install remains. -/
def State.dispStop (s : State) : State := { s.clr F.DISP_STAT_PENDING with disp := { s.disp with installDue := false } }

/-- A mode comes into force; `fresh`, where the display was not enabled before. -/
def State.dispBegin (s : State) (fresh : Bool) : State :=
  let s1 := s.goPage (if fresh then s.firstPage (fun _ => true) else none)
  let lcd := decide (s.dispMode = 1)
  (({ s1 with disp := { s1.disp with lcd := lcd, keyAt := s1.uptime, scrollAt := s1.uptime } }).lcdBegin).ready 1

/-- A Capture's effect on the display: VOP, the phase that runs, from whose end a new phase length counts, and an enable or a mode
that comes into force or ends. An LCD that a warning has switched off is driven again (R425). -/
def State.dispCapture (s old : State) (die16 : Int) : State :=
  let s1 := { s with disp := { s.disp with vop := s.vopOf die16, drive := old.lcdAt s.uptime } }
  let m := s1.dispMode
  if m = old.dispMode then (if m = 1 ∧ !s1.disp.lcd ∧ !s1.pow.hibReq ∧ s1.pow.resetReq = none then s1.relight else s1)
  else if m = 0 then s1.dispStop
  else s1.dispBegin (decide (old.dispMode = 0))

/-- The LCD is switched off, with every ball at VSS. -/
def State.lcdOff (s : State) : State := { s with disp := { s.disp with lcd := false, installDue := false, latch := [] } }

/-- LCD_POWER_OFF (R423, Table 12.10): at the end of a B frame, where the display is no longer enabled or a HIBERNATE entry or
a command reset waits; 5 ms later the domain is off. -/
def execLcdPowerOff (dt : Nat) (s : State) : Host.Outcome State Fault Refusal :=
  let due := decide (s.dispMode ≠ 1) || (s.pow.hibReq && !s.flag F.DISP_CTRL_MQHOLD) || s.pow.resetReq.isSome
  if s.disp.lcd ∧ due then .next ((s.passTo dt (s.lcdNextA s.uptime)).advance (millis 5)).lcdOff else .next (s.advance dt)

/-- Before a HIBERNATE entry and a command reset: the LCD is switched off, or a running update is left to end and discharge
(R421, R423). -/
def State.settleDisplay (s : State) : State :=
  let s1 := match s.disp.run with
    | none => s
    | some r =>
      let s1 := s.passTo 0 (r.stop + millis 10)
      let s2 := if r.discharge then s1 else ((s1.chargeAll r.segs).runRecord r (drivesMs r.segs)).endRun r
      (s2.retWrite 0x10 [0]).runOff
  s1.clr F.DISP_STAT_PENDING

/-- Display recovery at start-up (R426): with a display in bistable mode, an update found in flight starts the two-pass
refresh of its region or, with the whole-panel bit or after a failed check, of every region. -/
def State.dispRecover (s : State) (retFail : Bool) : State :=
  if s.dispMode ≠ 2 ∨ !(bit (s.ret 0x10) 0 || retFail) then s
  else
    let whole := retFail || bit (s.ret 0x11) 7
    let r := if whole then 0 else s.ret 0x11 % 8
    let body := s.frameBody s.shownPage
    let s1 := (s.publishFrame body).bump F.DISP_UPDCNT_RECOVER 1
    let l := if whole then List.range 72 else s1.regionSegs r
    s1.startRun 1 r whole (targetOf body l) (l.map (fun k => ⟨k, s1.balancing k 0 ++ s1.curve 0⟩)) s1.sec

/-- The display at start-up: every region unknown, the lowest enabled page, and an LCD driven (R416, R422). -/
def State.dispStart (s : State) : State :=
  let d := s.disp
  let s1 := { s with disp := { d with latch := [], run := none, startAt := List.replicate 8 none, balAt := List.replicate 8 none
                                      mqAt := [], installDue := false, page := 0, keyAt := s.uptime, scrollAt := s.uptime } }
  let s2 := s1.goPage (s1.firstPage (fun _ => true))
  let s3 := ({ s2 with disp := { s2.disp with lcd := decide (s2.dispMode = 1) } }).lcdBegin
  s3.put F.DISP_STAT_UNKNOWN 0xFF

/-- A frame upset that the frame check of Compute finds (R422). -/
def State.frameCheck (s : State) (upset : Bool) : State :=
  if upset ∧ s.dispMode ≠ 0 then
    let s1 := (s.bump F.DISP_STAT_CRCERR 1).put F.DISP_STAT_UNKNOWN 0xFF
    ((s1.logTrouble 0x75 0xFF (s1.rd F.DISP_STAT).toNat).publishFrame (s1.frameBody s1.shownPage)).ready 1
  else s

end Sys2Proof.Machine
end

