-- ==== Sys2Proof/Machine/Keypad.lean ====
section
/-! DEFINITION. The keypad: wake, scan and debounce, the queue, the entry and its submission (spec 09_billing.md, R340 and
R341; 02_package_pins.md, R74). Key numbers count the cells of Table 9.13 row by row: 3 A, 7 B, 11 C, 12 *, 14 #, 15 D. -/

namespace Sys2Proof.Machine

/-- The digit of a key of Table 9.13. -/
def keyDigit : Nat → Option Nat
  | 0 => some 1
  | 1 => some 2
  | 2 => some 3
  | 4 => some 4
  | 5 => some 5
  | 6 => some 6
  | 8 => some 7
  | 9 => some 8
  | 10 => some 9
  | 13 => some 0
  | _ => none

/-- KEYPAD_WAKE (R74, R93, R340): a column falls; the scan starts, and in HIBERNATE the wake is latched where WAKE_KEY is 1. -/
def execKeypadWake (dt : Nat) (s : State) : Host.Outcome State Fault Refusal :=
  let s1 := s.advance dt
  .next (if s1.coreAlive then { s1.wakeCore with kpd := { s1.kpd with scanning := true } }
  else if s1.pow.stage = .hibernate ∧ s1.flag F.PWR_CTRL_WAKE_KEY then s1.retWrite 7 [Nat.lor (s1.ret 7) 2]
  else s1)

/-- KEY_ACCEPTED (R340, R416): the same single key in three scans. It joins the queue of 16 for the KEYPAD task, and moves
the display's pages. No key is accepted until the one before is released. -/
def execKeyAccepted (dt : Nat) (key : Fin 16) (s : State) : Host.Outcome State Fault Refusal :=
  let s1 := s.advance dt
  if s1.coreAlive ∧ s1.kpd.scanning ∧ s1.kpd.down = none then
    let q := if s1.kpd.queue.length < 16 then s1.kpd.queue ++ [key.val] else s1.kpd.queue
    let s2 := { s1 with kpd := { s1.kpd with queue := q, lastKey := s1.uptime, down := some key.val } }
    .next (((s2.navKey key.val).ready 5).ready 1)
  else .next s1

/-- KEY_RELEASED (R340): three scans with no key; scanning stops. -/
def execKeyReleased (dt : Nat) (s : State) : Host.Outcome State Fault Refusal :=
  let s1 := s.advance dt
  .next { s1 with kpd := { s1.kpd with scanning := false, down := none } }

/-- ENTRY_TIMEOUT (R341): 60 s after its last key the entry is discarded. -/
def execEntryTimeout (dt : Nat) (s : State) : Host.Outcome State Fault Refusal :=
  if s.kpd.entry = [] then .next (s.advance dt)
  else
    let s1 := s.passTo dt (s.kpd.lastKey + secs 60)
    .next (({ s1 with kpd := { s1.kpd with entry := [] } }).ready 1)

/-- Replaces the entry; any key but # ends a wait for the # that follows B. -/
def State.setEntry (s : State) (l : List Nat) : State := { s with kpd := { s.kpd with entry := l, confirmB := false } }

/-- The # key: after B an open request, else the entry is submitted. -/
def State.keySubmit (s : State) : State :=
  if s.kpd.confirmB then ({ s with kpd := { s.kpd with confirmB := false } }).keypadOpen
  else if s.flag F.PAY_CFG_KEYEN ∧ s.kpd.entry ≠ [] then ((s.evalToken s.kpd.entry).2).setEntry []
  else s

/-- One key of the queue (R341). -/
def State.takeKey (s : State) (key : Nat) : State :=
  let e := s.kpd.entry
  match keyDigit key with
  | some d => if s.flag F.PAY_CFG_KEYEN ∧ e.length < 20 then s.setEntry (e ++ [d]) else s.setEntry e
  | none =>
    if key = 14 then s.keySubmit
    else if key = 12 then s.setEntry e.dropLast
    else if key = 11 then s.setEntry []
    else if key = 7 then { s with kpd := { s.kpd with confirmB := true } }
    else s.setEntry e

/-- A slice of the KEYPAD task: the queued keys enter the entry in their order. -/
def State.keypadTask (s : State) : State :=
  ((s.kpd.queue.foldl State.takeKey { s with kpd := { s.kpd with queue := [] } })).ready 1

end Sys2Proof.Machine
end

