-- ==== Sys2Proof/Machine/Telegram.lean ====
section
/-! DEFINITION. Wireless M-Bus telegrams (spec 11_radio_link.md, R388 to R390). What the spec takes from EN 13757 without
stating it, the frame formats, types F and G and the configuration word, is PRESUMED (log entry 29). -/

namespace Sys2Proof.Machine

/-- Types G and F of EN 13757-3 for a time in s. -/
def typeG (t : Nat) : List Nat :=
  let c := secToCal t
  let y := c.year % 100
  [c.day + 32 * (y % 8), c.month + 16 * (y / 8)]

def typeF (t : Nat) (invalid : Bool) : List Nat :=
  let c := secToCal t
  [c.minute + 128 * b2n invalid, c.hour + 32 * (1 + c.year / 100)] ++ typeG t

/-- A number in n bytes, lowest first, saturating. -/
def leSat (n v : Nat) : List Nat := (bytesLE n (satNat (8 * n) v)).map BitVec.toNat

/-- The value of a record (Table 11.13): DIF, VIF and value bytes; none for code 0 and reserved codes. -/
def State.wmbValue (s : State) (x code : Nat) : Option (Nat × Nat × List Nat) :=
  let snap := s.latestSnapshot x
  let at8 (off : Nat) : Nat := natLE ((snap.drop off).take 8)
  let base := s.flag F.LINK_WMB_GASBASE && s.isGas x
  let centi (f : Fld) : List Nat :=
    leSat 2 (ofSigned 16 (clampInt (-32768) 32767 (s.getI f * 100 / 65536)))
  match code with
  | 1 => some (0x04, 0x13, leSat 4 (s.reg96 x (if base then 3 else 0) / (65536 * 1000000)))
  | 2 => some (0x04, 0x06, leSat 4 (s.reg96 x 1 / (65536 * 3600000)))
  | 3 => some (0x04, 0x3B, leSat 4 ((s.getI (F.MP_FLOWW_FLOW x)).natAbs / 16))
  | 4 => some (0x04, 0x2B, leSat 4 ((s.getI (F.MP_POWER_POWER x)).natAbs / 16))
  | 5 => some (0x02, 0x59, centi (F.MP_TF_T x))
  | 6 => some (0x02, 0x5D, centi (F.MP_TR_T x))
  | 7 => some (0x04, 0x6D, typeF s.rm.startTime.1 s.untrusted)
  | 8 => some (0x44, 0x06, leSat 4 (if s.isGas x then 0 else at8 24 / 3600000))
  | 9 => some (0x44, 0x13, leSat 4 (at8 (if base then 24 else 16) / 1000000))
  | 10 => some (0x42, 0x6C, typeG (natLE ((snap.drop 4).take 4)))
  | _ => none

/-- The 16 record selections of LINK_WMBOBJ. -/
def State.wmbObjects (s : State) : List Nat :=
  (List.range 16).map (fun i => bitsOf (s.rd (F.LINK_WMBOBJ (i / 4))) (8 * (i % 4) + 7) (8 * (i % 4)))

/-- The data records, up to the first code that ends the list (R389). -/
def State.wmbRecords (s : State) : List Nat :=
  ((s.wmbObjects.takeWhile (fun e => decide (1 ≤ e % 16 ∧ e % 16 ≤ 10))).map (fun e =>
    match s.wmbValue (e / 128) (e % 16) with
    | none => []
    | some (dif, vif, v) => (if 128 ≤ e then [dif + 128, 0x40] else [dif]) ++ vif :: v)).flatten

/-- The status byte (Table 11.12). -/
def State.wmbStatus (s : State) : Nat :=
  let dry (x : Nat) : Bool := decide (s.get (F.MP_STAT_FSTATE x) = 1 ∨ s.get (F.MP_STAT_FSTATE x) = 2)
  128 * b2n s.pins.sealForce + 64 * b2n s.untrusted + 32 * b2n (decide ((s.rd F.SAFE_TLATCH).toNat ≠ 0))
    + 16 * b2n (dry 0 || dry 1) + 8 * b2n (s.flag F.SAFE_STAT_SAFE) + 4 * b2n (decide (s.get F.PWR_SUPPLY_VBAT_MV < 3000))

/-- One bit and one byte of the CRC of EN 13757-4, polynomial 0x3D65. -/
def wmbCrcBit (c : Nat) : Nat := if 0x8000 ≤ c then ((c * 2) % 0x10000) ^^^ 0x3D65 else c * 2
def wmbCrcByte (c b : Nat) : Nat := iter wmbCrcBit 8 ((c ^^^ (b * 256)) % 0x10000)

/-- Bytes with their CRC, complemented and highest byte first. -/
def wmbBlock (l : List Nat) : List Nat := l ++ natBytes 2 (0xFFFF - l.foldl wmbCrcByte 0)

/-- Frame format A: a block of 10 bytes and blocks of 16, each with its CRC; L counts no CRC. -/
def formatA (l : List Nat) : List Nat :=
  let f := l.length % 256 :: l
  wmbBlock (f.take 10) ++ ((blocks16 (f.drop 10)).map wmbBlock).flatten

/-- Frame format B: one CRC over up to 126 bytes and a second over the rest; L counts the CRCs. -/
def formatB (l : List Nat) : List Nat :=
  let two := decide (125 < l.length)
  let f := (l.length + (if two then 4 else 2)) % 256 :: l
  if two then wmbBlock (f.take 126) ++ wmbBlock (f.drop 126) else wmbBlock f

/-- Bit rate of a mode N channel (PRESUMED). -/
def nRate (nch : Nat) : Nat := if nch = 2 ∨ nch = 3 then 2400 else if nch < 6 then 4800 else 19200

/-- Time on air of a telegram of `n` bytes in µs, with the headers of EN 13757-4 (PRESUMED) and the power ramps. -/
def State.wmbAir (s : State) (n : Nat) : Nat :=
  (match s.get F.LINK_WMB_MODE with
    | 0 => bitsUs 32768 (576 + 16 * n)
    | 1 => bitsUs 100000 (48 + 12 * n)
    | 2 => bitsUs 100000 (64 + 8 * n)
    | _ => bitsUs (nRate (s.get F.LINK_WMB_NCH)) (32 + 8 * n)) + 15

/-- The telegram: C-field, M-field, A-field, CI-field, short header and records. `enc` gives the records encrypted, with the
number of blocks. -/
def State.wmbFrame (s : State) (mode5 : Option (List Nat)) : List Nat :=
  let addr := (bytesLE 2 (s.get F.LINK_WMBHDR_MFR) ++ bytesLE 4 (s.get F.LINK_WMBID_ID)).map BitVec.toNat
    ++ [s.get F.LINK_WMBHDR_VER, s.get F.LINK_WMBHDR_TYPE]
  let acc := s.link.wmbAccess % 256
  let plain := s.wmbRecords
  let (cw, body) := match mode5 with
    | none => (0, plain)
    | some k =>
      let p := [0x2F, 0x2F] ++ plain
      let q := p ++ List.replicate ((16 - p.length % 16) % 16) 0x2F
      (0x500 + 16 * (q.length / 16), cbcEnc k (addr ++ List.replicate 8 acc) q)
  let l := 0x44 :: addr ++ [0x7A, acc, s.wmbStatus, cw % 256, cw / 256] ++ body
  if s.flag F.LINK_WMB_FMTB ∧ 2 ≤ s.get F.LINK_WMB_MODE then formatB l else formatA l

/-- A telegram enters ring 3 where there is room, and its access number has been used. -/
def State.queueTelegram (s : State) (mode5 : Option (List Nat)) : State :=
  let b := s.wmbFrame mode5
  let n := slotsFor b.length
  if s.ringRoom 3 n then
    let (slot, s1) := s.enqueue 3 n (ofNats b)
    let f : TxFrame := ⟨none, 8, ofNats b, none, none, slot, n, 0, 0, 0, s.wmbAir b.length⟩
    let s2 := { s1 with link := { s1.link with queue := s1.link.queue ++ [f], wmbAt := none
                                               wmbAccess := (s1.link.wmbAccess + 1) % 256 } }
    s2.showQueued.ready 0
  else s.nextTelegram

/-- TELEGRAM_DUE (R388 to R390): the interval has passed and the telegram is built. Without a 128-bit key in the slot that
mode 5 needs it is suppressed; with no RADIO entry in force none is built (R37). -/
def execTelegramDue (dt : Nat) (s : State) : Host.Outcome State Fault Refusal :=
  match s.link.wmbAt with
  | none => .next (s.advance dt)
  | some t =>
    let s1 := s.passTo dt t
    if !s1.radioOn ∨ !s1.flag F.LINK_WMB_EN then .next s1
    else if !s1.taskEnabled 0 then .next s1.nextTelegram
    else if s1.flag F.LINK_WMB_SEC then
      let (key, s2) := s1.slotFor (s1.get F.LINK_WMB_SLOT) 1
      match key with
      | some k =>
        if k.length = 16 then .next ((s2.clr F.LINK_STAT_WMBKEY).queueTelegram (some k))
        else .next (s2.set1 F.LINK_STAT_WMBKEY).nextTelegram
      | none => .next (s2.set1 F.LINK_STAT_WMBKEY).nextTelegram
    else .next (s1.queueTelegram none)

end Sys2Proof.Machine
end

