-- ==== Sys2Proof/Machine/Update.lean ====
section
/-! DEFINITION. Firmware: images and their verification, the update session and the UPD task, activation, trial and the boot
record (spec 15_management_update.md, R489 to R510). -/

namespace Sys2Proof.Machine

/-! ### Images (R493 to R496) -/

/-- What an unprogrammed byte of flash reads as (log entry 31). -/
def flashDefault : Nat → Byte := fun _ => 0xFF#8

/-- Bytes programmed in the bank under update, by offset. -/
def State.flashBytes (s : State) (off n : Nat) : List Nat := nats (sgetAll flashDefault s.mgmt.flash off n)

/-- A little-endian field of a header. -/
def hdrLE (h : List Nat) (off n : Nat) : Nat := natLE (ofNats ((h.drop off).take n))

/-- The signing key that KEYSEL names, where it is accepted (R494). -/
def State.signKey (s : State) (h : List Nat) : Option (List Nat) :=
  match hdrLE h 6 1 with
  | 0 => some (natBytes 64 Config.fwProd.toNat)
  | 1 => if s.flag F.KEYS_LC_DBG then some (natBytes 64 Config.fwTest.toNat) else none
  | _ => none

/-- The bank that a KIND's update goes to: the inactive application bank, or the reserve bank. -/
def State.targetBank (s : State) (kind : Nat) : Nat := if kind = 1 then 2 - s.mgmt.active else 3

/-- Size of a bank: metrology, A, B, reserve (Table 15.1). -/
def bankSize (b : Nat) : Nat := if b = 1 ∨ b = 2 then 393216 else 131072

/-- The anti-rollback counter of a KIND. -/
def State.counterOf (s : State) (kind : Nat) : Nat := if kind = 0 then s.get F.MGMT_SVN_MET else s.get F.MGMT_SVN_APP

/-- The image of the active application bank. -/
def State.activeImage (s : State) : Option Image := s.mgmt.images.getD (1 + s.mgmt.active) none

/-- Whether an image suits the other KIND's image in force (R495, R503). -/
def State.compatible (s : State) (kind mlo mhi : Nat) : Bool :=
  if kind = 1 then (match s.mgmt.images.getD 0 none with | some m => decide (mlo ≤ m.miflo ∧ m.miflo ≤ mhi) | none => false)
  else match s.activeImage with | some a => decide (a.miflo ≤ mlo ∧ mlo ≤ a.mifhi) | none => true

/-- The header check of R503 for a session of `kind` and `length`: the REASON of Table 15.4 of the first check that fails. -/
def State.headerCheck (s : State) (h : List Nat) (kind length : Nat) : Nat :=
  if hdrLE h 0 4 ≠ 0x464C5249 ∨ hdrLE h 4 1 ≠ 1 ∨ hdrLE h 5 1 ≠ kind ∨ hdrLE h 12 4 + 256 ≠ length ∨ 1 < hdrLE h 6 1 then 1
  else match s.signKey h with
    | none => 2
    | some k =>
      if !ecdsaVerify k (h.take 128) ((h.drop 128).take 64) then 2
      else if hdrLE h 7 1 < s.counterOf kind then 3
      else if !s.compatible kind (hdrLE h 16 2) (hdrLE h 18 2) then 4
      else 0

/-- What a header says of its image; `chk` follows with the body. -/
def imageOf (h : List Nat) : Image := ⟨hdrLE h 7 1, hdrLE h 8 4, hdrLE h 16 2, hdrLE h 18 2, 0⟩

/-! ### The session (R500 to R505) -/

/-- STATE of the session: 0 IDLE, 1 RECEIVING, 2 VERIFYING, 3 READY. -/
def State.updState (s : State) : Nat := s.get F.MGMT_UPDSTAT_STATE

/-- OWNER of a message's source (MGMT_UPDSTAT). -/
def ownerNum : Source → Nat
  | .carrier c => carrierNum c
  | .link n _ => 128 + n.val

/-- The journaled record of the session. -/
def State.setSession (s : State) (x : Option (Nat × Nat × Nat × Nat)) : State :=
  { s with jrn := { s.jrn with hid := { s.jrn.hid with session := x } } }

/-- The slots of ring 8 that hold queued messages are freed. -/
def State.freeUpdates (s : State) : State :=
  let s1 := s.mgmt.queue.foldl (fun (t : State) m => t.consume 8 [m.2.2]) s
  { s1 with mgmt := { s1.mgmt with queue := [] } }

/-- Ends the session; a REASON other than 0 is counted and answered at the next message. -/
def State.endSession (s : State) (reason : Nat) : State :=
  let s1 := ((s.freeUpdates.setSession none).put F.MGMT_UPDSTAT_STATE 0).put F.MGMT_UPDSTAT_REASON reason
  let s2 := if reason = 0 then s1 else s1.bump F.MGMT_UPDCNT_FAILED 1
  let s3 := (s2.clr F.MGMT_UPDPROG_NEXT).clr F.MGMT_UPDLEN_LENGTH
  { s3 with mgmt := { s3.mgmt with failed := if reason = 0 then none else some reason, verify := false, hdr := none } }

/-- The answer of Table 15.4 to the message after a failure. -/
def reasonCode (r : Nat) : Nat := if r = 3 ∨ r = 4 ∨ r = 7 ∨ r = 8 then 6 else 3

/-- Opens a session (R502). -/
def State.openSession (s : State) (owner kind length : Nat) : State :=
  let s1 := s.freeUpdates
  let s2 := ((s1.put F.MGMT_UPDSTAT_STATE 1).put F.MGMT_UPDSTAT_REASON 0).put F.MGMT_UPDSTAT_KIND kind
  let s3 := ((s2.put F.MGMT_UPDSTAT_OWNER owner).put F.MGMT_UPDPROG_NEXT 0).put F.MGMT_UPDLEN_LENGTH length
  ({ s3 with mgmt := { s3.mgmt with queue := [], erased := 0, prog := 0, hdr := none, verify := false, failed := none } }).setSession
    (some (kind, length, owner, 0))

/-- BEGIN: answers a code number of Table 4.4, 0 for none. -/
def State.updBegin (s : State) (owner : Nat) (f : List Nat) : Nat × State :=
  let kind := f.headD 2
  let length := bytesNat (f.drop 1)
  if f.length ≠ 5 ∨ 1 < kind then (3, s)
  else if length < 272 ∨ length % 16 ≠ 0 ∨ bankSize (s.targetBank kind) < length then (3, s)
  else (0, s.openSession owner kind length)

/-- DATA (R503). -/
def State.updData (s : State) (f : List Nat) : Nat × State :=
  let off := bytesNat (f.take 4)
  let d := f.drop 4
  let next := s.get F.MGMT_UPDPROG_NEXT
  if d.length < 16 ∨ 112 < d.length ∨ d.length % 16 ≠ 0 ∨ s.updState = 0 then (3, s)
  else if off < next then (0, s)
  else if next < off ∨ s.get F.MGMT_UPDLEN_LENGTH < off + d.length then (3, s)
  else if !s.ringRoom 8 1 then (9, s)
  else
    let (slot, s1) := s.enqueue 8 1 (ofNats f)
    let s2 := s1.put F.MGMT_UPDPROG_NEXT (off + d.length)
    (0, ({ s2 with mgmt := { s2.mgmt with queue := s2.mgmt.queue ++ [(off, ofNats d, slot)] } }).ready 4)

/-- END (R504). -/
def State.updEnd (s : State) : Nat × State :=
  if s.updState = 1 ∧ s.get F.MGMT_UPDPROG_NEXT = s.get F.MGMT_UPDLEN_LENGTH then
    (0, ({ s.put F.MGMT_UPDSTAT_STATE 2 with mgmt := { s.mgmt with verify := true } }).ready 4)
  else (6, s)

/-- ACTIVATE (R506 to R508): noted for this tick's Persist phase. -/
def State.updActivate (s : State) : Nat × State :=
  if s.updState ≠ 3 then (6, s)
  else if s.flag F.CMD_STAT_SAVEPEND ∨ s.flag F.CMD_STAT_ZCBUSY ∨ s.get F.KEYS_STAT_COMMIT ≠ 0 then (4, s)
  else (0, { s with mgmt := { s.mgmt with activate := true } })

/-- Whether a source may send an update message (R501); the KIND is that of a BEGIN, or of the session that is open. -/
def State.updAllowed (s : State) (src : Source) (type : Nat) (f : List Nat) : Bool :=
  let kind := if type = 0x20 then f.headD 1 else if s.updState = 0 then 1 else s.get F.MGMT_UPDSTAT_KIND
  if type = 0x25 then roleAtLeast (s.roleOf src) .reader
  else roleAtLeast (s.roleOf src) .installer && (decide (kind ≠ 0) || s.pins.sealForce)

/-- An update message: type and the fields after it. Answers RESULT, STATE and NEXT (R500, R501); a message without its role
has no effect and answers zeros, and one that needs the UPD task answers E06 where the task is not enabled (R37). -/
def State.updMessage (s : State) (src : Source) (type : Nat) (f : List Nat) : (Nat × Nat × Nat) × State :=
  if !s.updAllowed src type f then ((0, 0, 0), s)
  else if type ≠ 0x25 ∧ s.ticking ∧ !s.taskEnabled 4 then ((6, s.updState, s.get F.MGMT_UPDPROG_NEXT), s)
  else
    let owner := ownerNum src
    let isOpen := decide (s.updState ≠ 0)
    let (code, s1) : Nat × State :=
      if type = 0x25 then
        (0, if isOpen ∧ s.get F.MGMT_UPDSTAT_OWNER = owner then { s with mgmt := { s.mgmt with lastAt := s.uptime } } else s)
      else if isOpen ∧ s.get F.MGMT_UPDSTAT_OWNER ≠ owner then (4, s)
      else
        let s0 := { s with mgmt := { s.mgmt with lastAt := s.uptime } }
        if type = 0x20 then s0.updBegin owner f
        else match s0.mgmt.failed with
          | some r => (reasonCode r, { s0 with mgmt := { s0.mgmt with failed := none } })
          | none =>
            if type = 0x21 then s0.updData f
            else if f ≠ [] then (3, s0)
            else if type = 0x22 then s0.updEnd
            else if type = 0x23 then s0.updActivate
            else (0, if isOpen then s0.endSession 8 else s0)
    ((code, s1.updState, s1.get F.MGMT_UPDPROG_NEXT), s1)

/-! ### The UPD task (R503, R504) -/

/-- Up to which byte of an image every byte has been programmed, as the journal keeps it. -/
def State.keepProgress (s : State) : State := match s.jrn.hid.session with
  | none => s
  | some (k, l, o, b) =>
    let n := if s.mgmt.prog = l then l else s.mgmt.prog / 4096 * 4096
    if n = b then s else s.setSession (some (k, l, o, n))

/-- Erases the next sector of the target; an application bank's image ends with its first sector. -/
def State.eraseSector (s : State) : State :=
  let e := s.mgmt.erased
  let b := s.targetBank (s.get F.MGMT_UPDSTAT_KIND)
  { s with mgmt := { s.mgmt with flash := sdrop (fun a => decide (e ≤ a ∧ a < e + 4096)) s.mgmt.flash, erased := e + 4096
                                 images := if b < 3 then s.mgmt.images.set b none else s.mgmt.images } }

/-- Programs queued messages that fall into erased sectors, `n` at most. -/
def State.program : Nat → State → State
  | 0, s => s
  | n + 1, s => match s.mgmt.queue with
    | [] => s
    | (off, d, slot) :: t =>
      if off + d.length ≤ s.mgmt.erased then
        let s1 := { s with mgmt := { s.mgmt with queue := t, flash := ssetAll flashDefault s.mgmt.flash off d
                                                 prog := off + d.length } }
        State.program n (s1.consume 8 [slot])
      else s

/-- The header check once the first 256 bytes have been programmed. -/
def State.checkHeader (s : State) : State :=
  if s.mgmt.hdr.isSome ∨ s.mgmt.prog < 256 then s
  else
    let h := s.flashBytes 0 256
    let r := s.headerCheck h (s.get F.MGMT_UPDSTAT_KIND) (s.get F.MGMT_UPDLEN_LENGTH)
    if r = 0 then { s with mgmt := { s.mgmt with hdr := some (imageOf h) } } else s.endSession r

/-- The hash of the body as read back (R504). -/
def State.hashBody (s : State) : State :=
  let n := s.get F.MGMT_UPDLEN_LENGTH
  let h := s.flashBytes 0 256
  if sha256 (s.flashBytes 256 (n - 256)) = (h.drop 32).take 32 then
    let chk := bytesNat ((sha256 (s.flashBytes 0 n)).take 4)
    { s.put F.MGMT_UPDSTAT_STATE 3 with mgmt := { s.mgmt with verify := false, hdr := some { imageOf h with chk := chk } } }
  else s.endSession 5

/-- One slice of the UPD task: a sector is erased, or up to 16 queued messages are programmed, or the body is hashed. `bad` says that
the erase or the read-back of this slice did not match, which ends the session (R503, Table 15.4). -/
def State.updTask (s : State) (bad : Bool) : State :=
  match s.mgmt.queue with
  | (off, d, _) :: _ =>
    if s.mgmt.erased < off + d.length then (if bad then s.eraseSector.endSession 6 else s.eraseSector.ready 4)
    else if bad then (State.program 16 s).endSession 6
    else (State.program 16 s).checkHeader.keepProgress
  | [] => if s.mgmt.verify then s.hashBody else s

/-- Whether the UPD task has work. -/
def State.updWork (s : State) : Bool := decide (s.mgmt.queue ≠ []) || s.mgmt.verify

/-- Slices in a row, in recovery mode, where no tick runs. -/
def State.updAll : Nat → State → State
  | 0, s => s
  | n + 1, s => if s.updWork then State.updAll n (s.updTask false) else s

/-- UPDATE_SESSION_TIMEOUT (R502): the owner has been silent for TIMEOUT s. -/
def execUpdateSessionTimeout (dt : Nat) (s : State) : Host.Outcome State Fault Refusal :=
  if s.updState = 0 then .next (s.advance dt)
  else .next ((s.passTo dt (s.mgmt.lastAt + secs (s.get F.MGMT_UPDCFG_TIMEOUT))).endSession 7)

/-- A seal closing that takes effect ends a KIND 0 session (R508). -/
def State.sealEndsUpdate (s : State) : State :=
  if s.updState ≠ 0 ∧ s.get F.MGMT_UPDSTAT_KIND = 0 then
    ({ s with mgmt := { s.mgmt with activate := false } }).endSession 8
  else s

/-! ### Activation and trial (R506, R508) -/

/-- The Persist phase of an ACTIVATE writes the boot record; a command reset is due at its end. -/
def State.activatePersist (s : State) : State :=
  if !s.mgmt.activate then s
  else
    let kind := s.get F.MGMT_UPDSTAT_KIND
    let m := s.mgmt
    let bank := s.targetBank kind
    let m1 := if kind = 1 then
        { m with active := bank - 1, trial := some m.active, images := m.images.set bank m.hdr, activate := false }
      else { m with pendCopy := m.hdr, activate := false }
    (({ s with mgmt := m1 }).endSession 0).bump F.MGMT_UPDCNT_ACTIVATED 1

/-- DATA of legal events 0x50 and 0x51: old VERSION, new VERSION, SVN. -/
def imageData (old new : Option Image) : List Byte :=
  let v (i : Option Image) : Nat := match i with | some x => x.version | none => 0
  bytesLE 4 (v old) ++ bytesLE 4 (v new) ++ [byte (match new with | some x => x.svn | none => 0)]

/-- The trial is confirmed: TRIAL clears, the counter rises, and legal event 0x51 is recorded. -/
def State.confirmTrial (s : State) : State := match s.mgmt.trial with
  | none => s
  | some old =>
    let new := s.activeImage
    let svn := match new with | some i => i.svn | none => 0
    let s1 := { s with mgmt := { s.mgmt with trial := none } }
    let s2 := (s1.clr F.MGMT_BOOT_TRIAL).put F.MGMT_SVN_APP (max (s.get F.MGMT_SVN_APP) svn)
    s2.legal 0x51 (imageData (s.mgmt.images.getD (1 + old) none) new)

/-- Whether the trial ticks have run. -/
def State.trialDone (s : State) : Bool :=
  s.flag F.MGMT_BOOT_TRIAL && decide (s.get F.MGMT_UPDCFG_CONFIRM ≤ s.get F.MGMT_BOOT_CONFCNT)

/-- TRIAL_CONFIRMATION (R506). -/
def execTrialConfirmation (s : State) : Host.Outcome State Fault Refusal :=
  .next (if s.ticking ∧ s.trialDone then s.confirmTrial else s)

/-- A tick on trial has run. -/
def State.trialTick (s : State) : State :=
  if s.flag F.MGMT_BOOT_TRIAL then
    let s1 := s.bump F.MGMT_BOOT_CONFCNT 1
    if s1.trialDone then s1.confirmTrial else s1
  else s

/-! ### The boot ROM (R498) -/

/-- A pending metrology copy. -/
def State.bootCopy (s : State) : State := match s.mgmt.pendCopy with
  | none => s
  | some i =>
    let old := s.mgmt.images.getD 0 none
    let s1 := { s with mgmt := { s.mgmt with pendCopy := none, images := s.mgmt.images.set 0 (some i) } }
    let s2 := (s1.set1 F.MGMT_BOOT_COPIED).put F.MGMT_SVN_MET (max (s.get F.MGMT_SVN_MET) i.svn)
    s2.legal 0x50 (imageData old (some i))

/-- Whether an application bank passes verification and compatibility. -/
def State.bankOk (s : State) (b : Nat) : Bool := match s.mgmt.images.getD (1 + b) none with
  | some i => decide (s.get F.MGMT_SVN_APP ≤ i.svn) && s.compatible 1 i.miflo i.mifhi
  | none => false

/-- The active application bank becomes another. -/
def State.fallBack (s : State) (b : Nat) : State :=
  ({ s with mgmt := { s.mgmt with active := b, trial := none } }).set1 F.MGMT_BOOT_FALLBACK

/-- Step 1.00 ms of the start-up: false where the boot ROM enters recovery mode. `bad` says that the reset was a watchdog or a
safety reset. -/
def State.bootVerify (s : State) (bad : Bool) : Bool × State :=
  let s1 := s.bootCopy
  if s1.mgmt.images.getD 0 none = none then (false, s1)
  else
    let s2 := match s1.mgmt.trial with
      | some f => if bad then s1.fallBack f else s1
      | none => s1
    let a := s2.mgmt.active
    if s2.bankOk a then (true, s2)
    else if s2.bankOk (1 - a) then (true, s2.fallBack (1 - a))
    else (false, s2)

/-- What MGMT shows of the images that run. -/
def State.showImages (s : State) : State :=
  let ver (i : Option Image) : Nat := match i with | some x => x.version | none => 0
  let app := ver s.activeImage
  let (c, s0) := s.draw (2 ^ 32)
  let s1 := ((s0.put F.MGMT_APPVER_VERSION app).put F.MGMT_METVER_VERSION (ver (s.mgmt.images.getD 0 none))).put F.MGMT_FCRC_CRC c
  let s2 := (s1.put F.MGMT_ID_FWMAJ (app / 2 ^ 24)).put F.MGMT_ID_FWMIN (app / 2 ^ 16)
  let s3 := s2.put F.MGMT_MCHK_CHK (match s.mgmt.images.getD 0 none with | some i => i.chk | none => 0)
  (s3.put F.MGMT_BOOT_ACTIVE s.mgmt.active).putB F.MGMT_BOOT_TRIAL s.mgmt.trial.isSome

/-- After a reset an open session resumes in RECEIVING at the journaled boundary (R505). -/
def State.resumeUpdate (s : State) : State := match s.jrn.hid.session with
  | none => { s with mgmt := { s.mgmt with queue := [], verify := false, hdr := none, failed := none, activate := false } }
  | some (k, l, o, b) =>
    let h := if b < 256 then none else some (imageOf (s.flashBytes 0 256))
    let m := { s.mgmt with queue := [], erased := (b + 4095) / 4096 * 4096, prog := b, hdr := h, verify := false,
                           lastAt := s.uptime, failed := none, activate := false }
    let s1 := ((({ s with mgmt := m }).put F.MGMT_UPDSTAT_STATE 1).put F.MGMT_UPDSTAT_KIND k).put F.MGMT_UPDSTAT_OWNER o
    (s1.put F.MGMT_UPDPROG_NEXT b).put F.MGMT_UPDLEN_LENGTH l

end Sys2Proof.Machine
end

