-- ==== Sys2Proof/Machine/Journal.lean ====
section
/-! DEFINITION. The journal and the rows of the metrology store: journaled values, commits and their rows, snapshots, the
saved configuration, the emergency commit and the recovery at start-up (spec 09_billing.md, R307, R308, R323 to R326;
03_power_clocks_start.md, R101, R102; 04_command_language.md, R138; 14_safety_log.md, R485, R528). -/

namespace Sys2Proof.Machine

/-! ### Journaled values (R304, R317, R326, R227, R385, R392, R407, R468, R488) -/

/-- The bits of a register that the journal holds. -/
def journalMask (a : Nat) : Nat :=
  let all := 0xFFFFFFFF
  if F.BILL_REG 0 0 0 ≤ a ∧ a < F.BILL_REG 2 0 0 then all
  else if a = F.BILL_LASTD ∨ a = F.BILL_LASTP ∨ a = F.BILL_LASTT ∨ a = F.BILL_JSEQ then all
  else if a = F.BILL_STAT then 0xFFFF0007
  else if [0, 1].any (fun x => [0, 1, 2].any (fun d => decide (a = F.BILL_MD x d ∨ a = F.BILL_MDT x d))) then all
  else if a = F.PAY_CREDIT_LO ∨ a = F.PAY_CREDIT_HI ∨ a = F.PAY_STAT ∨ a = F.PAY_TKHWM ∨ a = F.PAY_TKMAP_LO ∨ a = F.PAY_TKMAP_HI
    then all
  else if a = F.SAFE_STAT then 0x10
  else if a = F.LOG_LSEQ then all
  else if a = F.LOG_LSTAT then 0xFFFF0000
  else if [0, 1, 2, 3].any (fun n => decide (a = F.SHOT_P_ZOFF n ∨ a = F.SHOT_P_ZSPR n ∨ a = F.SHOT_P_DREF n)) then all
  else if F.LINK_NB_A 0 ≤ a ∧ a < F.LINK_NB_A 32 ∧ 4 ≤ (a - F.LINK_NB_A 0) % 32 then all
  else if F.DISP_BAL 0 ≤ a ∧ a < F.DISP_BAL 72 then all
  else if a = F.MGMT_UPDCNT then 0xFFFF
  else 0

/-- The journaled register values that differ from their reset values. -/
def State.journalRegs (s : State) : List (Nat × Word) :=
  s.regs.filterMap (fun c =>
    let m := journalMask c.1
    if Nat.land c.2.toNat m = Nat.land (regReset c.1).toNat m then none else some (c.1, word (Nat.land c.2.toNat m)))

/-- The journaled values now. -/
def State.imageNow (s : State) : JImage := ⟨s.journalRegs, s.jrn.hid, s.rm.tick⟩

/-- The journaled values that a commit opened now writes: a zero-calibration store is among them (R224). -/
def State.commitImage (s : State) : JImage := match s.jrn.zcRow with
  | none => s.imageNow
  | some z => (({ s with jrn := { s.jrn with zcRow := some { z with committed := true } } }).zcInForce.1).imageNow

/-- The values that the last commit, closed or open, holds. -/
def State.imageLast (s : State) : JImage := match s.jrn.openC with
  | some (_, i, _) => i
  | none => s.jrn.image

/-- Whether a journaled value differs from that of the last commit. -/
def State.unsaved (s : State) : Bool :=
  let i := s.imageLast
  let n := s.imageNow
  decide (n.regs ≠ i.regs) || decide ({ n.hid with closing := [] } ≠ { i.hid with closing := [] })

/-- The uncommitted rows of the values that changed: the rows' format is internal, so their number is a free value, from 1 to
2 when none waits and from 0 to 2 more otherwise, within the load of R102 (log entry 2). -/
def State.noteRows (s : State) : State :=
  if s.unsaved then
    let p := s.get F.BILL_JRNL_PEND
    let (k, s1) := if p = 0 then s.drawLevel 2 else s.drawLevel 3
    let room := s.rows - s.openRows - (s.jrn.lq.length + 3) / 4
    s1.put F.BILL_JRNL_PEND (max p (min (p + k + b2n (decide (p = 0))) room))
  else s

/-- The same outside Compute: only where no row waits yet. -/
def State.noteRowsOnce (s : State) : State := if s.get F.BILL_JRNL_PEND = 0 then s.noteRows else s

/-! ### Commits (R324, R325) -/

/-- View address of legal entry n. -/
def legalAddr (n : Nat) : Nat := 0x3000C800 + 64 * (n % 512 / 4) + 16 * (n % 4)

/-- The 16 bytes of a legal entry (Table 14.8). -/
def LegalEntry.bytes (e : LegalEntry) : List Byte := bytesLE 4 e.sec ++ [byte e.code, byte e.flags] ++ e.data

/-- Writes legal entries from number `n` on. -/
def State.writeLegal (s : State) (n : Nat) : List LegalEntry → State
  | [] => s
  | e :: t => (s.nvmWrite (legalAddr n) e.bytes).writeLegal (n + 1) t

/-- A register value set in an image. -/
def JImage.setReg (i : JImage) (a : Nat) (w : Word) : JImage := { i with regs := sset (fun _ => 0#32) i.regs a w }

/-- Opens a commit: its rows are the uncommitted ones, those of the queued legal entries and a closing row. -/
def State.commitOpen (s : State) : State :=
  let n := s.get F.BILL_JRNL_PEND + (s.jrn.lq.length + 3) / 4 + 1
  let s1 := { s with jrn := { s.jrn with openC := some (n, s.commitImage, s.jrn.lq), lq := [], due := false } }
  (s1.put F.BILL_JRNL_PEND 0).set1 F.BILL_JRNL_OPEN

/-- Whether an image holds a zero-calibration store, its values as their fields hold them. -/
def JImage.holds (i : JImage) (z : ZcStore) : Bool := z.paths.all (fun v =>
  decide (sget regReset i.regs (F.SHOT_P_ZOFF v.1) = word (ofSigned 32 v.2.1)
    ∧ sget regReset i.regs (F.SHOT_P_DREF v.1) = word (v.2.2.2.1 % 2 ^ 20)
    ∧ sget regReset i.regs (F.SHOT_P_ZSPR v.1) = word (v.2.2.2.2 % 2 ^ 16)
    ∧ i.hid.zdelta.getD v.1 0 = v.2.2.1))

/-- A commit closes: its legal entries stand in the log, its values are the journal's, and a zero-calibration store that it
carries waits for the next Capture. -/
def State.commitClose (s : State) (i : JImage) (l : List LegalEntry) : State :=
  let n := s.get F.LOG_LSEQ_SEQ
  let s1 := ((s.writeLegal n l).put F.LOG_LSEQ_SEQ (n + l.length)).put F.BILL_JSEQ_SEQ (s.get F.BILL_JSEQ_SEQ + 1)
  let i1 := (i.setReg F.LOG_LSEQ (s1.rd F.LOG_LSEQ)).setReg F.BILL_JSEQ (s1.rd F.BILL_JSEQ)
  let z := s1.jrn.zcRow.map (fun z => { z with committed := z.committed || i1.holds z })
  let s2 := { s1 with jrn := { s1.jrn with image := i1, openC := none, emOpen := false, since := 0, zcRow := z } }
  (s2.clr F.BILL_JRNL_OPEN).legalShow

/-- Writes at most `n` rows of the open commit; answers the rows left. -/
def State.commitRows (s : State) (n : Nat) : Nat × State := match s.jrn.openC with
  | none => (n, s)
  | some (k, i, l) =>
    let m := min n k
    let h := (s.jrn.head + m) % 512
    let s1 := { s.put F.BILL_JRNL_HEAD h with jrn := { s.jrn with head := h } }
    if m = k then (n - m, s1.commitClose i l)
    else (n - m, { s1 with jrn := { s1.jrn with openC := some (k - m, i, l) } })

/-- Whether a commit is due in this tick's Persist phase: an occasion of Table 9.8, 900 s since the last, or the commit load
(R102); a HIBERNATE entry always commits (R94). -/
def State.commitIsDue (s : State) : Bool :=
  s.jrn.due || decide (28800 ≤ s.jrn.since) || decide (s.rows - 1 ≤ s.load) || s.pow.hibReq

/-- Commits one behind the other, `k` at most: an open one goes on, and the one that is due opens behind it, while rows are left
(R325). Answers the rows left. -/
def State.commitRun : Nat → Nat → State → Nat × State
  | 0, n, s => (n, s)
  | k + 1, n, s =>
    let s1 := if s.jrn.openC.isNone ∧ s.commitIsDue then s.commitOpen else s
    if s1.jrn.openC.isNone then (n, s1)
    else
      let (n1, s2) := s1.commitRows n
      if s2.jrn.openC.isNone ∧ s2.jrn.due then State.commitRun k n1 s2 else (n1, s2)

/-! ### Snapshot rows (R307, R308) -/

/-- Writes at most `n` rows of snapshots whose closing values are committed. -/
def State.snapPersist : Nat → Nat → State → Nat × State
  | 0, n, s => (n, s)
  | f + 1, n, s => match s.jrn.snapRows with
    | [] => (n, s)
    | (p, k) :: t =>
      if n = 0 ∨ !s.jrn.image.hid.closing.contains p then (n, s)
      else
        let m := min n (6 - k)
        let s1 := s.nvmWrite (p.addr + 64 * k) ((p.bytes.drop (64 * k)).take (64 * m))
        if k + m = 6 then
          State.snapPersist f (n - m) { s1 with jrn := { s1.jrn with
            snapRows := t, hid := { s1.jrn.hid with closing := s1.jrn.hid.closing.erase p } } }
        else (n - m, { s1 with jrn := { s1.jrn with snapRows := (p, k + m) :: t } })

/-- Whether a snapshot row can be written. -/
def State.snapReady (s : State) : Bool := match s.jrn.snapRows with
  | [] => false
  | (p, _) :: _ => s.jrn.image.hid.closing.contains p

/-! ### The saved configuration (R138) -/

/-- The fields that the seal locks (Table 10.5), as a mask of the register at an address. -/
def sealMask (a : Nat) : Nat :=
  match regAt a with
  | none => 0
  | some (b, r, _, _) =>
    let rw := r.mask (fun f => decide (f.acc = .rw))
    match b with
    | .ame | .shot => rw
    | .mpa | .mpb =>
      if [0, 1].any (fun x => decide (a = F.MP_CTRL x ∨ a = F.MP_GAS0 x ∨ a = F.MP_GAS1 x ∨ a = F.MP_PATM x)) then 0 else rw
    | .sens => if a = F.SENS_CAD then 0 else rw
    | .safe => if F.SAFE_TAMP 0 ≤ a ∧ a < F.SAFE_TAMP 4 then
        r.mask (fun f => decide (f.name = "MODE" ∨ f.name = "POL")) else 0
    | .cmd => if a = F.CMD_MODE then 1 else 0
    | _ => 0

/-- Whether two saved configurations differ in a field that the seal locks. -/
def sealedDiffer (x y : List (Nat × Word)) : Bool :=
  (x ++ y).any (fun c => decide (Nat.land (sget regReset x c.1).toNat (sealMask c.1)
    ≠ Nat.land (sget regReset y c.1).toNat (sealMask c.1)))

/-- A save is in progress: its fixing Capture has passed and its header row is not written. -/
def State.saving (s : State) : Bool := decide (s.cmd.saveRows ≠ 0)

/-- The fixing Capture: the configuration in force is that of the save; one equal to the saved configuration writes nothing. -/
def State.saveFix (s : State) : State :=
  if s.cmd.savePend then
    let cfg := s.configuration
    let t := s.schedTable
    let same := match s.saved with
      | some (c, u, _) => decide (c = cfg ∧ u = t)
      | none => false
    if same then
      ({ s with cmd := { s.cmd with savePend := false, saveReply := true } }).clr F.CMD_STAT_SAVEPEND
    else { s with cmd := { s.cmd with savePend := false, saveRows := 36, saveTick := s.rm.tick, saveImage := cfg, saveSched := t } }
  else s

/-- The header row has been written: the save is in force. -/
def State.saveEnd (s : State) : State :=
  let c := s.cmd
  let old := match s.saved with | some (l, _, _) => l | none => []
  let s1 := { s with saved := some (c.saveImage, c.saveSched, c.saveTick)
                     cmd := { c with saveRows := 0, saveReply := true, saveImage := [], saveSched := [] } }
  let s2 := (s1.put F.CMD_SAVED_TICK (c.saveTick % 2 ^ 32)).clr F.CMD_STAT_SAVEPEND
  if sealedDiffer old c.saveImage then
    -- the order of the seal-locked fields in their CRC is not stated (log entry 18)
    let (v, s3) := s2.draw (2 ^ 32)
    s3.legal 0x32 (bytesLE 4 v ++ bytesLE 4 (c.saveTick % 2 ^ 32))
  else s2

/-- Writes at most `n` rows of the save. -/
def State.savePersist (s : State) (n : Nat) : State :=
  let k := s.cmd.saveRows
  if k = 0 ∨ n = 0 then s
  else if k ≤ n then s.saveEnd
  else { s with cmd := { s.cmd with saveRows := k - n } }

/-! ### A Persist phase (R325) -/

/-- The rows of one Persist phase, at most 4: journal, snapshots, key record, saved configuration. What the journal holds before a
HIBERNATE entry is written whole, a commit still open and the one behind it (R94). -/
def State.persistRows (s : State) : State :=
  let s1 := s.noteRowsOnce
  let hib := s1.pow.hibReq
  let (n1, s3) := State.commitRun 2 (if hib then 64 else 4) (if hib then s1.commitDue else s1)
  let (n2, s4) := State.snapPersist 4 (min n1 4) s3
  let (n3, s5) := s4.keyPersist n2
  s5.savePersist n3

/-- Whether a Persist phase has work. -/
def State.persistDue (s : State) : Bool :=
  s.commitIsDue || s.jrn.openC.isSome || s.snapReady || s.keys.commit.isSome || s.keys.wipe.isSome || s.saving || s.mgmt.activate

/-! ### The emergency commit (R101, R320) -/

/-- The emergency commit begins: with a tick's billing behind it, it carries the closures due (R320); an open commit goes on as
the same commit. -/
def State.emergencyBegin (s : State) (closures : Bool) : State :=
  let s1 := if closures then s.emergencyClosures else s
  let n := s1.load
  let open0 := match s1.jrn.openC with | some (_, _, l) => l | none => []
  let s2 := { s1 with jrn := { s1.jrn with openC := some (n, s1.commitImage, open0 ++ s1.jrn.lq), lq := [], due := false, emOpen := true } }
  let s3 := { s2 with pow := { s2.pow with stage := .emergency, emRows := n, emEnd := some (s2.uptime + (32768 * (1000 + 1500 * n) + 999999) / 1000000) } }
  (s3.put F.BILL_JRNL_PEND 0).set1 F.BILL_JRNL_OPEN

/-- The emergency commit closes (Table 3.6). -/
def State.emergencyEnd (s : State) : State := match s.jrn.openC with
  | none => s
  | some (k, _, _) => ((s.commitRows k).2).put F.PWR_PFSTAT_LAST_ROWS s.pow.emRows

/-! ### The recovery at start-up (R107, R227, R308, R385, R488, Table 3.10) -/

/-- Loads the journal over the registers' reset values, and its hidden values. -/
def State.journalLoad (s : State) : State :=
  let i := s.jrn.image
  let s1 := i.regs.foldl (fun (t : State) c => t.wr c.1 (mergeMask (journalMask c.1) c.2 (t.rd c.1))) s
  let s2 := (List.range 8).foldl (fun (t : State) n => t.put (F.LINK_FC_FC n) (i.hid.fcRes.getD n 0)) s1
  let s3 := (s2.put F.LINK_TXSEQ_SEQ i.hid.seqRes).put F.BILL_JRNL_HEAD s.jrn.head
  let s4 := (List.range 4).foldl (fun (t : State) n => t.putI (F.SHOT_P_DELTA_DELTA n) (i.hid.zdelta.getD n 0)) s3
  { s4 with jrn := { s4.jrn with hid := i.hid, openC := none, emOpen := false, due := false, since := 0, lq := [], lheld := [],
                                 zcRow := none, snapRows := i.hid.closing.map (fun p => (p, 0)) } }

/-- The snapshots whose closing values the journal still holds are written before the first tick (R308). -/
def State.snapRecover (s : State) : State :=
  let l := s.jrn.snapRows
  let s1 := l.foldl (fun (t : State) p => t.nvmWrite p.1.addr p.1.bytes) s
  { s1 with jrn := { s1.jrn with snapRows := [], hid := { s1.jrn.hid with closing := [] } } }

/-- The journal recovery at 26.00 ms: an incomplete commit is discarded; an emergency commit is reported (R103, R485). The
legal events of the start-up so far are queued (R528). -/
def State.journalRecover (s : State) : State :=
  let was := s.jrn.incomplete
  let s1 := s.journalLoad.snapRecover
  let s2 := s1.bump F.LOG_LSTAT_LOST (s1.ret 9)
  let s3 := if s1.ret 9 = 0 then s2 else s2.retWrite 9 [0]
  let s4 := { s3 with pow := { s3.pow with recovered := true, startLegal := [] }, jrn := { s3.jrn with incomplete := false } }
  let s5 := s.pow.startLegal.foldl (fun (t : State) e => t.legal e.1 e.2) s4
  if was then (s5.set1 F.PWR_PFSTAT_INCOMPLETE).legal 0x34 (bytesLE 4 (s5.get F.BILL_JSEQ_SEQ)) else s5.legalShow

/-- Every configuration field outside the BKUP domain back at its reset value. -/
def State.configReset (s : State) : State :=
  s.regs.foldl (fun (t : State) c =>
    if inBlock .rtc c.1 then t else t.wr c.1 (mergeMask (configMask c.1) (regReset c.1) (t.rd c.1))) s

/-- A schedule table comes into force at start-up, and FT_ADMIT reads it as admitted. R57 says so of the factory table; that a saved
table reads RESULT 1 and its own COST too is the model's choice (DESIGN CHOICE, log entry 111). -/
def State.schedLoad (s : State) (t : List (Nat × Word)) : State :=
  let s1 := s.schedInstall t
  let s2 := { s1 with rm := { s1.rm with schedShadow := s1.schedTable, schedPend := none } }
  ((s2.put F.FT_ADMIT_COST (costOf s2.rd s2.entries)).put F.FT_ADMIT_RESULT 1).clr F.FT_ADMIT_PENDING

/-- The saved configuration is loaded, or the reset values with the factory table where none is saved (R57, R107, R527); test
mode is never loaded (CMD_MODE), and the registers of the BKUP domain keep their values (R296). -/
def State.configLoad (s : State) : State := match s.saved with
  | none => s.configReset.schedLoad factoryTable
  | some (l, t, n) =>
    let s1 := l.foldl (fun (u : State) c =>
      if inBlock .rtc c.1 then u else u.wr c.1 (mergeMask (configMask c.1) c.2 (u.rd c.1))) s.configReset
    ((s1.clr F.CMD_MODE_TEST).put F.CMD_SAVED_TICK (n % 2 ^ 32)).schedLoad t

end Sys2Proof.Machine
end

