-- ==== Sys2Proof/Machine/Power.lean ====
section
/-! DEFINITION. Supply, resets, start-up and the clock monitor (spec 03_power_clocks_start.md, R91 to R115; 02_package_pins.md,
R67 to R73; 08_clock_backup.md, R293 to R295; 14_safety_log.md, R467, R472, R528). -/

namespace Sys2Proof.Machine

/-! ### Resets (R105, R106) -/

/-- The blocks of the CORE, AFE, RF and DISP domains (Table 1.10). -/
def coreBlocks : List Block :=
  [.sys, .ame, .shot, .mpa, .mpb, .sens, .bill, .alm, .pay, .radio, .link, .disp, .keys, .safe, .log, .cmd, .mgmt]

/-- Whether a Carousel address or slot belongs to the trouble log. -/
def logSlot (slot : Nat) : Bool := decide (712 ≤ slot ∧ slot < 840)

/-- Register words that no reset of CORE changes: the identity and the one-time cells, and the trouble log's own where it is kept. -/
def State.keptWords (s : State) (log : Bool) : List (Nat × Word × Nat) :=
  [(F.MGMT_DEVID_LO, s.rd F.MGMT_DEVID_LO, 0xFFFFFFFF), (F.MGMT_DEVID_HI, s.rd F.MGMT_DEVID_HI, 0xFFFFFFFF),
   (F.MGMT_SVN, s.rd F.MGMT_SVN, 0xFFFFFFFF)]
    ++ (if log then [(F.LOG_TSEQ, s.rd F.LOG_TSEQ, 0xFFFFFFFF), (F.LOG_TRD, s.rd F.LOG_TRD, 0xFFFFFFFF),
                     (F.LOG_TSTAT, s.rd F.LOG_TSTAT, 0xFFFF0000), (F.SYS_RING_B 7, s.rd (F.SYS_RING_B 7), 0xFFFFFFFF)] else [])

/-- The registers of CORE, AFE, RF and DISP back at their reset values. -/
def State.resetWords (s : State) (log : Bool) : State :=
  (s.keptWords log).foldl (fun (t : State) c => t.wr c.1 (mergeMask c.2.2 c.2.1 (t.rd c.1))) (s.resetBlocks coreBlocks)

/-- Whether a word of the Carousel belongs to the trouble log. -/
def logWord (w : Nat) : Bool := inWords (slotAddr 712) 16384 w

/-- The front end after a reset: the boost is off, and what charge VTXB holds bleeds (R157). -/
def State.ameReset (s : State) : Ame :=
  { Ame.init with vtxb := s.ame.vtxb, bleedAt := if s.ame.vtxb = 0 then none else some (s.ame.bleedAt.getD s.uptime) }

/-- A reset of CORE, AFE, RF and DISP (Table 3.9): registers, core RAM, key slots and the Carousel are lost, the trouble log
kept where `log` says so. A bistable update is abandoned (R425). CMD_AUTHFAIL goes with the other registers of CORE, although R150
counts failures since power-on: Table 3.9 keeps no register of CMD (DESIGN CHOICE, log entry 114). -/
def State.coreReset (s0 : State) (log : Bool) : State :=
  let s := s0.abandonRun
  let s1 := s.resetWords log
  let n (a : Nat) : Bool := logSlot ((a - slotAddr 0) / 128)
  { s1 with
    shadow := [], crs := if log then skeep n s.crs else [], tok := if log then skeep logSlot s.tok else [], ringSeq := []
    ecc := if log then s.ecc.filter (fun w => logWord w.1) else [], scrub := 0
    rtc := { s.rtc with steps := [] }
    rm := { Ringm.init with tick := s.rm.tick }
    cmd := .init
    jrn := { s.jrn with openC := none, lq := [], lheld := [], snapRows := [], zcRow := none, due := false,
                        incomplete := s.jrn.incomplete || s.jrn.emOpen, emOpen := false }
    bill := .init, act := .init, kpd := .init, ame := s.ameReset, shot := .init, sens := ⟨none, none, false⟩, mps := [.init, .init]
    safe := .init
    keys := { Keys.init with cells := s.keys.cells, pw := s.keys.pw }
    link := .init
    disp := .init
    mgmt := { s.mgmt with queue := [], verify := false, hdr := none, failed := none, activate := false }
    pins := { s.pins with sealPend := none, paCtl := false, window := false, txOn := false }
    pow := { s.pow with hibReq := false, extLow := none, resetReq := none, safetyReq := none, inStart := false, recovered := false,
                        logKept := log, startLegal := [], wdtAt := none, wdtFrom := none, emEnd := none } }

/-- After a reset the start-up begins at once where the start gate is met, and at the gate otherwise (R108). Until the first
Compute the watchdog's limit is 2 s (R472). PFWARN is released with the reset, once VBAT has recovered (R62, R71). -/
def State.toStart (s : State) : State :=
  let st := if s.pow.gateMet then Stage.startUp else Stage.gate
  { s with pow := { s.pow with stage := st, wdtAt := some (s.uptime + secs 2) }
           pins := { s.pins with pfwarnLow := s.pins.pfwarnLow && !s.pow.gateMet } }

/-- The AON domain after its reset: registers at their reset values, the source of the BKUP rail shown (R97), no tamper input
enabled, PFWARN released, and the first sample of every other input accepted at once (R62, R67, R75, R76). -/
def State.aonReset (s : State) : State :=
  let s1 := (s.resetBlocks [.pwr, .clk, .ft]).putB F.PWR_STATE_BKSRC s.pow.onBackup
  { s1 with pins := { s1.pins with strap := s1.pins.strap.first, fbo := s1.pins.fbo.first, fbc := s1.pins.fbc.first
                                   tampMode := List.replicate 4 0, pfwarnLow := false } }

/-- BROWN_OUT (R96, R105): VBAT below 2.10 V resets CORE, AFE, RF and DISP in every state but BACKUP; the start gate follows.
An emergency commit that has not closed is incomplete (R103). -/
def State.brownOut (s : State) : State :=
  let s1 := (s.coreReset false).set1 F.PWR_RSTCAUSE_BOR
  { s1 with pow := { s1.pow with stage := .gate, gateMet := false } }

/-- BROWN_OUT. -/
def execBrownOut (dt : Nat) (s : State) : Host.Outcome State Fault Refusal :=
  let s1 := s.advance dt
  .next (if s1.pow.stage = .backup then s1 else s1.brownOut)

/-- BACKUP_ENTRY (R91, R92, R96): VBAT below 1.80 V turns AON off; the BKUP rail is fed from VBKUP. -/
def execBackupEntry (dt : Nat) (s : State) : Host.Outcome State Fault Refusal :=
  let s1 := s.advance dt
  if s1.pow.stage = .backup then .next s1
  else
    let s2 := s1.brownOut
    .next { s2 with pow := { s2.pow with stage := .backup, onBackup := true } }

/-- AON_POWER_ON (R96, R105, R106): AON and every domain it feeds come out of reset; the start gate follows. A backup-domain
power-on that came while AON was off leaves no BKPOR: PWR_RSTCAUSE takes its reset value with POR (Table 3.9, log entry 37). -/
def execAonPowerOn (dt : Nat) (s : State) : Host.Outcome State Fault Refusal :=
  let s1 := s.advance dt
  if s1.pow.stage = .backup then
    let s2 := (s1.coreReset false).aonReset
    .next { s2 with pow := { s2.pow with stage := .gate, gateMet := false } }
  else .next s1

/-- The start gate as it stands after a reset of AON, whose THR is again 4: met where VBAT stood above the higher of the thresholds,
or was last measured at 2.9 V or more (R108). -/
def State.gateAfterReset (s : State) : Bool :=
  s.pow.gateMet && (decide (4 ≤ s.get F.PWR_PFCFG_THR) || decide (2900 ≤ s.get F.PWR_SUPPLY_VBAT_MV))

/-- The power-on reset of RESETN, which stays low for `held` cycles more: the device is in reset until then (R73). -/
def State.externalReset (s : State) (held : Nat) : State :=
  let s1 := ((s.coreReset false).aonReset).set1 F.PWR_RSTCAUSE_EXTRST
  (({ s1 with pow := { s1.pow with stage := .gate, gateMet := s.gateAfterReset } }).advance held).toStart

/-- RESETN_LOW (R73): RESETN is low. 2 µs or more give a power-on reset with EXTRST; during an emergency commit it
waits for the commit's end, and acts if RESETN is still low then. -/
def execResetnLow (pulse : ResetPulse) (s : State) : Host.Outcome State Fault Refusal :=
  let s1 := s.advance pulse.dt
  let held := usCycles pulse.lowUs
  if pulse.lowUs < 2 then .next s1
  else match s1.pow.stage with
    | .backup => .next s1
    | .emergency => .next { s1 with pow := { s1.pow with extLow := some (s1.uptime + held) } }
    | _ => .next (s1.externalReset held)

/-- WATCHDOG_RESET (R472, R467): the limit has passed without a service; the restart latches when WDOG was already set. -/
def execWatchdogReset (dt : Nat) (s : State) : Host.Outcome State Fault Refusal :=
  match s.pow.wdtAt, s.pow.stage with
  | some t, .startUp | some t, .awaitTick | some t, .running | some t, .resuming =>
    let s1 := s.passTo dt t
    let latch := s1.flag F.PWR_RSTCAUSE_WDOG
    let s2 := (s1.set1 F.PWR_RSTCAUSE_WDOG).coreReset true
    .next ({ s2 with pow := { s2.pow with restart := some (0x01, latch, 0) } }).toStart
  | _, _ => .next (s.advance dt)

/-- A safety reset (R467, R471): of the fault `code`, with the data of an entry that the restart writes. -/
def State.safetyRestart (s : State) (code data : Nat) : State :=
  let latch := s.flag F.PWR_RSTCAUSE_SAFETY
  let s1 := (s.set1 F.PWR_RSTCAUSE_SAFETY).coreReset true
  ({ s1 with pow := { s1.pow with restart := some (code, latch, data) } }).toStart

/-- A payload is the answer to a tunnelled line (Table 10.6). -/
def tunnelled (p : List Byte) : Bool := decide (p.headD 0#8 = 0x84#8)

/-- Whether every transmit buffer is empty: of a tunnel session, its answers not yet sent. -/
def State.drained (s : State) : Bool :=
  decide (s.cmd.uart.tx = [] ∧ s.cmd.opt.tx = []) && !s.link.outbox.any (fun x => tunnelled x.2)
    && !s.link.queue.any (fun f => decide (f.kind = 0) && tunnelled f.payload)

/-- The tick's last phase has ended. -/
def State.tickDone (s : State) : Bool := s.ticking && decide (s.get F.FT_PHASE_PHASE = 5)

/-- The command reset (R139, R423, R506): the display settles first. -/
def State.commandReset (s : State) : State :=
  (((s.settleDisplay.lcdOff).set1 F.PWR_RSTCAUSE_CMD).coreReset true).toStart

/-- A command reset is due: after a RESET or an activation every transmit buffer is empty at the end of a Persist phase. -/
def State.commandResetDue (s : State) : Bool := s.pow.resetReq.isSome && (s.tickDone || decide (s.pow.stage = .recovery)) && s.drained

/-- COMMAND_RESET (R139, R506). -/
def execCommandReset (s : State) : Host.Outcome State Fault Refusal := .next (if s.commandResetDue then s.commandReset else s)

/-- RESET_DRAIN_TIMEOUT (R139): the buffers have not emptied within 10 s of the RESET; the reset follows at the end of a Persist
phase. -/
def execResetDrainTimeout (s : State) : Host.Outcome State Fault Refusal :=
  match s.pow.resetReq with
  | none => .next s
  | some t => .next (if s.tickDone ∧ t + secs 10 ≤ s.uptime then s.commandReset else s)

/-! ### The BKUP domain (R97 to R99, R295) -/

/-- SWITCH_OVER (R97): the BKUP rail changes source; no count is lost. In BACKUP no register shows it. -/
def execSwitchOver (dt : Nat) (toBackup : Bool) (s : State) : Host.Outcome State Fault Refusal :=
  let s1 := s.advance dt
  if s1.pow.onBackup = toBackup then .next s1
  else
    let s2 := { s1 with pow := { s1.pow with onBackup := toBackup } }
    if s1.pow.stage = .backup then .next s2
    else
      let s3 := s2.putB F.PWR_STATE_BKSRC toBackup
      .next (if toBackup then s3.bump F.PWR_BKSW_SWCNT 1 else s3)

/-- RETENTION_LOSS (R98): the rail falls below 1.35 V. -/
def execRetentionLoss (dt : Nat) (s : State) : Host.Outcome State Fault Refusal :=
  let s1 := s.advance dt
  .next { s1 with rtc := { s1.rtc with lost := true, railLow := true, xtRun := false, wr := none } }

/-- MINLOW (R99): the rail falls below 1.50 V and not to 1.35 V. -/
def execMinlow (dt : Nat) (s : State) : Host.Outcome State Fault Refusal := .next ((s.advance dt).set1 F.PWR_BKSW_MINLOW)

/-- BACKUP_DOMAIN_POWER_ON (R98, R106, R291, R295): the rail rises above 1.45 V after a loss: time 0, retained bytes zero, tick
number 0, OSF with cause BKPOR; the crystal has to start, and no tick runs before it has (R56, R110). -/
def execBackupDomainPowerOn (dt : Nat) (s : State) : Host.Outcome State Fault Refusal :=
  let s1 := s.advance dt
  if s1.rtc.railLow then
    let s2 := s1.resetBlocks [.rtc]
    let s3 := { s2 with rtc := { Rtc.init with steps := s1.rtc.steps }, rm := { s2.rm with tick := 0 } }
    let s4 := ((((s3.clr F.CLK_STAT_XT32_OK).clr F.CLK_STAT_RC_LOCK).clr F.FT_TICK_LO_TICK).clr F.FT_TICK_HI_TICK).linkUntrust
    .next (if s1.pow.stage = .backup then s4 else s4.set1 F.PWR_RSTCAUSE_BKPOR)
  else .next s1

/-! ### Power failure (R100 to R104) -/

/-- The warning threshold in mV (Table 3.4). -/
def State.warnMv (s : State) : Nat := 2400 + 100 * s.get F.PWR_PFCFG_THR

/-- A tick abandoned before its Compute counts as a tick without usable shots (Table 3.7, R218, R219). -/
def State.lostTick (s : State) (x : Nat) : State :=
  let lim := s.get (F.SHOT_RULE_HOLD_TICKS x)
  let s1 := if s.flag (F.SHOT_MSTAT_EMPTY x) then s
    else (s.mpPaths x).foldl (fun (t : State) n =>
      let p := t.pathSt n
      if p.heldFor < lim then t.setPathSt n { p with heldFor := p.heldFor + 1 } else t) s
  if s1.duePaths x ≠ [] then s1.markRecov x else s1

/-- What a warning does at once: transmitter, boost and drivers off, a drive stopped, the tick and a bistable update abandoned, an
LCD at VSS (R100, R425, R469). VTXB holds its charge while the boost is off (R157), so READY stays. No flash erase or program is in
progress between two commands, each slice of the UPD task being part of one. -/
def State.abandonTick (s : State) : State :=
  let s1 := ((s.stopTx).stopShots).stopDrive
  let s2 := if s.get F.FT_PHASE_PHASE ≤ 1 then (s1.lostTick 0).lostTick 1 else s1
  let s3 := { s2 with ame := { s2.ame with windowOn := false, plan := [], run := none, done := [], discarded := [], hidden := []
                                           boost := false }
                      sens := { s2.sens with running := none }
                      pins := { s2.pins with window := false, paCtl := false, txOn := false }
                      link := { s2.link with rx := .sleep, ack := none }
                      rm := { s2.rm with phaseDone := true } }
  (((s3.put F.FT_PHASE_PHASE 5).abandonRun).lcdOff).zcRefuse 8

/-- The warning as the status shows it: each is counted (R72), and PFWARN is driven low (R71). -/
def State.noteWarning (s : State) (external : Bool) : State :=
  let s1 := (s.bump F.PWR_PFSTAT_COUNT 1).putB F.PWR_PFSTAT_EXT external
  { s1 with pins := { s1.pins with pfwarnLow := true } }

/-- The same, with its entry in the trouble log. -/
def State.countWarning (s : State) (external : Bool) (mv : Nat) : State := (s.noteWarning external).logTrouble 0x78 (b2n external) mv

/-! ### Start-up (R109, Table 3.10) -/

/-- The trouble log is cleared (R483). -/
def State.clearLog (s : State) : State :=
  let s1 := ((((s.wr F.LOG_TSEQ 0#32).wr F.LOG_TRD 0#32).wr F.LOG_TSTAT 0#32).wr (F.SYS_RING_B 7) 0#32)
  { s1 with crs := sdrop (fun a => logSlot ((a - slotAddr 0) / 128)) s1.crs, tok := sdrop logSlot s1.tok
            ecc := s1.ecc.filter (fun w => !logWord w.1) }

/-- The trouble log is kept across a watchdog, safety or command reset where every entry passes its check (R106). -/
def State.logStart (s : State) (crsOk : Bool) : State :=
  if s.pow.logKept ∧ crsOk ∧ !s.crsBad (slotAddr 712) 16384 then s.set1 F.LOG_TSTAT_KEPT else s.clearLog

/-- The safe state from a watchdog or safety restart, at 0.50 ms (R467, Table 14.7). -/
def State.restartSafe (s : State) : State := match s.pow.restart with
  | none => s
  | some (code, latch, data) =>
    let s0 := { s with pow := { s.pow with restart := none } }
    let s1 := if code = 0x01 then s0.detect 0x01 0xFF (s0.rd F.PWR_RSTCAUSE).toNat .exits
      else
        let t := if code = 0x22 then s0.detect 0x22 0xFF data .exits else s0
        t.logTrouble 0x02 code 0
    let s2 := (s1.enterSafe code).set1 F.SAFE_STAT_RESTART
    if latch then ({ s2 with safe := { s2.safe with needAck := true, acked := false } }).set1 F.SAFE_STAT_ACKREQ else s2

/-- The recorded retention loss (R295): legal event 0x13, a fresh check, and in SEALED the tamper latch with flag [7]. -/
def State.retentionRecord (s : State) : State :=
  let s1 := (s.legal 0x13 []).retSeal
  let s2 := { s1 with rtc := { s1.rtc with lost := false } }
  if s2.keys.cells.lcs = 2 then (s2.tamperRecord 0x80 true).showHold else s2

/-- The monitor holds a loss whose power-on has come (R295). -/
def State.lossDue (s : State) : Bool := s.rtc.lost && !s.rtc.railLow

/-- The tick number that a start-up resumes from, which FT_TICK shows (R24, R56). -/
def State.resumeTick (s : State) (n : Nat) : State :=
  { (s.put F.FT_TICK_LO_TICK (n % 2 ^ 32)).put F.FT_TICK_HI_TICK (n / 2 ^ 32) with rm := { s.rm with tick := n } }

/-- The boot ROM's evaluation at 0.60 ms (R294, R295, R454). Answers whether the retained bytes' check failed. -/
def State.evaluate (s : State) : Bool × State :=
  let bad := decide (s.ret 0x1E + 256 * s.ret 0x1F ≠ s.retCheck) && !s.lossDue
  if s.lossDue then (false, (s.resumeTick 0).retentionRecord.showHold)
  else if bad then
    let s1 := ((s.set1 F.RTC_STAT_RETERR).logTrouble 0x72 0xFF 0).resumeTick s.jrn.image.tick
    (true, (((s1.retPut 6 0).retPut 7 0).tamperRecord 0x40 true).showHold)
  else
    let n := s.ret 0 + 256 * s.ret 1 + 65536 * s.ret 2 + 16777216 * s.ret 3 + 2 ^ 32 * s.ret 4 + 2 ^ 40 * s.ret 5
    let s1 := s.resumeTick n
    (false, (if s1.ret 7 = 0 then s1 else s1.retWrite 7 [0]).showHold)

/-- A seal opening or closing is recorded; an opening is a tamper (R68, R478). -/
def State.sealRecord (s : State) (isOpen : Bool) : State :=
  if isOpen then (s.legal 0x01 []).raiseTamper 4 else s.legal 0x02 []

/-- The recorded seal state. -/
def State.sealStore (s : State) : State :=
  if s.ret 6 = b2n s.pins.strap.level then s else s.retWrite 6 [b2n s.pins.strap.level]

/-- The comparison of SEAL with the recorded state at 34.00 ms; skipped after a retention loss (R69, R295). -/
def State.sealCompare (s : State) (skip : Bool) : State :=
  let s1 := if skip ∨ s.ret 6 = b2n s.pins.strap.level then s else s.sealRecord s.pins.strap.level
  let s2 := s1.sealStore
  { s2 with pins := { s2.pins with sealForce := s2.pins.strap.level, sealPend := none } }

/-- The tamper inputs are armed; every one that is enabled and active counts as changed (R75, R479). -/
def State.tampStart (s : State) : State := (List.range 4).foldl State.tampArm s

/-- Frame counters and TXSEQ take new reservations, which the next commit holds (R385). -/
def State.linkStart (s : State) : State :=
  let s1 := (List.range 8).foldl (fun (t : State) n => if t.flag (F.KEYS_SLOT_VALID n) then t.reserveFc n else t) s
  let s2 := if s1.flag F.LINK_CFG_EN then s1.reserveSeq else s1
  { s2 with link := { s2.link with bins := [0], binAt := s2.uptime + secs 60 } }

/-- The front end at start-up: the routines and durations of the configuration loaded, the gains, and the boost, which charges where
EN is 1 (R158, R170, R185). -/
def State.ameStart (s : State) : State :=
  let s1 := (s.buildUcode.buildDur).buildPdur
  let s2 := [0, 1, 2, 3].foldl (fun (v : State) n => v.put (F.AME_P_STAT_GAIN n) (v.get (F.AME_P_RX_GINIT n))) s1
  let s3 := { s2 with ame := { s2.ame with lastFire := [0, 1, 2, 3].map s2.fireKey } }
  if s3.flag F.AME_CTRL_EN then s3.startBoost else s3

/-- The steps from 26.00 ms on: journal, keys, configuration, AON configuration, seal, display, and the meter's own state. -/
def State.startRest (s : State) (retFail skipSeal : Bool) : State :=
  let s1 := (s.journalRecover.keyRecover).configLoad
  let s2 := if s1.flag F.SAFE_STAT_SAFE ∧ s1.flag F.SAFE_CFG_LATCH then
      ({ s1 with safe := { s1.safe with needAck := true } }).set1 F.SAFE_STAT_ACKREQ else s1
  let s3 := (s2.tampStart).sealCompare skipSeal
  let s4 := ((s3.dispStart).dispRecover retFail).actuatorStart
  let s5 := (((s4.resumeUpdate).showImages).linkStart).ameStart
  let t := s5.get F.BILL_LASTD_SEC
  s5.mapIntervals (fun i => { i with start := t, power := true })

/-- A stop of the 32.768 kHz oscillator is detected (R113, R291): OSF sets, and without XT32 the RC oscillator is locked to nothing.
-/
def State.noteStop (s : State) : State :=
  let s1 := (((s.setOsf F.RTC_STAT_XT32STOP).set1 F.CLK_MON_XT32_STOP).clr F.CLK_STAT_XT32_OK).clr F.CLK_STAT_RC_LOCK
  { s1 with rtc := { s1.rtc with xtRun := false } }

/-- The clock at start-up: XT32 runs, or has stopped since it first started (R110, R113). -/
def State.clockStart (s : State) : State :=
  if s.rtc.xtRun then s.set1 F.CLK_STAT_XT32_OK
  else if s.rtc.started then s.noteStop.detect 0x10 0xFF 0 .atOnce
  else s

/-- The start-up sequence from the gate or the reset to 40.00 ms, `dt` cycles long. False where the boot ROM finds no valid image
(R498). -/
def State.bootRun (s : State) (dt : Nat) (found : BootIn) : Bool × State :=
  let s0 := s.advance (min dt 16)
  let s1 := { s0 with pow := { s0.pow with inStart := true, recovered := false, startSec := s0.sec, startLegal := [] } }
  let skip := s1.lossDue
  let bad := s1.pow.restart.isSome
  let (retFail, s2) := (((((s1.logStart found.logOk).checkRoots found.rootsBad).checkRng found.rngBad).decideDebug).restartSafe).evaluate
  let (ok, s3) := s2.bootVerify bad
  if !ok then (false, s3.clearLog) else (true, ((s3.startRest retFail skip).advance (dt - min dt 16)).clockStart)

/-- START_UP (R109, Table 3.10): the start-up sequence; without a valid image the boot ROM enters recovery mode (R498, R499). -/
def execStartUp (dt : Nat) (found : BootIn) (s : State) : Host.Outcome State Fault Refusal :=
  if s.pow.stage ≠ .startUp then .next (s.advance dt)
  else match s.bootRun dt found with
    | (false, t) => .next { t with pow := { t.pow with stage := .recovery, wdtAt := none } }
    | (true, t) => .next { t with pow := { t.pow with stage := .awaitTick }, rm := { t.rm with first := true, nextAt := none } }

/-! ### A warning, the emergency commit and what follows (R71, R72, R100, R101, R104) -/

/-- A warning in a start-up stops the sequence, which runs again from its start once VBAT has recovered. Once the journal recovery is
complete, from 34 ms on, an emergency commit of the records that start-up has made comes first; it carries no closure (R104). -/
def State.warnStart (s : State) (dt : Nat) (external : Bool) (mv : Nat) : State :=
  let wait (t : State) : State :=
    { t.countWarning external mv with
        pow := { t.pow with stage := .pfWait, inStart := true, recovered := false, startLegal := [], wdtAt := none
                            wdtFrom := none, emEnd := some t.uptime } }
  if dt < millis 34 then wait (s.advance dt)
  else match s.bootRun dt ⟨true, [], false⟩ with
    | (false, t) => { t.noteWarning external with pow := { t.pow with stage := .recovery, wdtAt := none } }
    | (true, t) =>
      let u := ((t.countWarning external mv).abandonTick.emergencyBegin false).enterPower pwrRun
      { u with pow := { u.pow with recovered := false, startLegal := [], wdtAt := none, wdtFrom := none } }

/-- What a warning does in the stage that it meets (R72, R100, R104). While ticks run, and before the first Capture, the emergency
commit begins; during one the warning joins it; after it, until ticks have resumed, it is only counted, and one of VBAT begins the
wait anew. In reset and in recovery mode there is nothing to commit. -/
def State.warn (s : State) (external : Bool) (mv : Nat) : State := match s.pow.stage with
  | .running | .awaitTick =>
    let s1 := ((s.countWarning external mv).abandonTick.emergencyBegin true).enterPower pwrRun
    { s1 with pow := { s1.pow with wdtAt := none, wdtFrom := none } }
  | .emergency | .pfWait => s.countWarning external mv
  | .resuming =>
    if external then s.countWarning external mv
    else { s.countWarning external mv with pow := { s.pow with stage := .pfWait, wdtAt := none, wdtFrom := none } }
  | .gate | .recovery => s.noteWarning external
  | _ => s

/-- POWER_FAIL_WARNING (R71, R72, R96, R100): VBAT has fallen below the threshold, or PFWARN has been held low from outside for a
number of cycles, two at least. -/
def execPowerFailWarning (dt : Nat) (external : Option Nat) (vbatMv : Nat) (s : State) : Host.Outcome State Fault Refusal :=
  let ext := external.isSome
  let gate (t : State) : State := { t with pow := { t.pow with gateMet := t.pow.gateMet && ext } }
  match external with
  | some 0 | some 1 => .next (s.advance dt)
  | _ =>
    if s.pow.stage = .startUp then .next (gate (s.warnStart dt ext vbatMv))
    else .next ((gate (s.advance dt)).warn ext vbatMv)

/-- EMERGENCY_COMMIT_END (Table 3.6, R73, R104, R71): the commit closes, PFWARN is released when VBAT has recovered, a RESETN that
went low meanwhile and still is acts, and the wait is spent in SLEEP. -/
def execEmergencyCommitEnd (dt vbatMv : Nat) (s : State) : Host.Outcome State Fault Refusal :=
  match s.pow.stage, s.pow.emEnd with
  | .emergency, some t =>
    let s1 := ((s.passTo dt t).emergencyEnd).enterPower pwrSleep
    let s2 := { s1 with pow := { s1.pow with stage := .pfWait, emEnd := some s1.uptime, extLow := none }
                        pins := { s1.pins with pfwarnLow := decide (vbatMv < s1.warnMv) } }
    .next (match s1.pow.extLow with
      | some r => if s1.uptime < r then s2.externalReset (r - s1.uptime) else s2
      | none => s2)
  | _, _ => .next (s.advance dt)

/-- The first boundary after now on the grid of an earlier one. -/
def State.nextGrid (s : State) : Option Nat := s.rm.nextAt.map (fun b =>
  let p := 1024 * s.get F.FT_PERIOD_N
  if s.uptime < b then b else b + ((s.uptime - b) / p + 1) * p)

/-- TICKS_RESUME (Table 3.7): VBAT has held the rising warning value for 10 ms after the commit. Ticks resume at the next boundary,
or the start-up that was stopped runs again. -/
def execTicksResume (dt : Nat) (s : State) : Host.Outcome State Fault Refusal :=
  let s1 := s.advance dt
  if s1.pow.stage = .pfWait then
    let s2 := { s1 with pins := { s1.pins with pfwarnLow := false }, pow := { s1.pow with gateMet := true } }
    if s2.pow.inStart ∧ !s2.pow.recovered then
      .next { s2 with pow := { s2.pow with stage := .startUp, inStart := false, emEnd := none, wdtAt := some (s2.uptime + secs 2) } }
    else
      .next { s2 with pow := { s2.pow with stage := .resuming, wdtAt := some (s2.uptime + 1536 * s2.get F.FT_PERIOD_N) }
                      rm := { s2.rm with nextAt := s2.nextGrid } }
  else .next s1

/-- The registers of the display and its drive as another state has them. -/
def State.keepDisp (s from_ : State) : State :=
  { from_.regs.foldl (fun (t : State) c => if inBlock .disp c.1 then t.wr c.1 c.2 else t) s with disp := from_.disp }

/-- HIBERNATE is entered (R90 to R92, R94): ticks stop, and CORE, AFE and RF are off, their contents lost; the display keeps its
configuration, and what is driven (R403, R427). -/
def State.enterHibernate (s : State) : State :=
  let s1 := (s.stopTx).stopDrive
  let s2 := (s1.coreReset false).keepDisp s1
  { s2 with pow := { s2.pow with stage := .hibernate } }

/-- POWER_FAIL_WAIT_EXPIRY (Table 3.7): VBAT has not recovered within 1 s of the end of the commit, so that the start gate is not
met. -/
def execPowerFailWaitExpiry (dt : Nat) (s : State) : Host.Outcome State Fault Refusal :=
  match s.pow.stage, s.pow.emEnd with
  | .pfWait, some t =>
    let s1 := (s.passTo dt (t + secs 1)).enterHibernate
    .next { s1 with pow := { s1.pow with gateMet := false } }
  | _, _ => .next (s.advance dt)

/-- The end of HIBERNATE (R93): a start-up with HIBWAKE. -/
def State.endHibernate (s : State) : State :=
  let s1 := (s.coreReset false).set1 F.PWR_RSTCAUSE_HIBWAKE
  s1.toStart

/-- START_GATE (R71, R93, R108): VBAT has stayed at or above the rising warning value for 10 ms: start-up begins, restored power ends
HIBERNATE, and outside an emergency commit PFWARN is released. -/
def execStartGate (dt : Nat) (s : State) : Host.Outcome State Fault Refusal :=
  let s1 := s.advance dt
  let s2 := { s1 with pow := { s1.pow with gateMet := true }
                      pins := { s1.pins with pfwarnLow := s1.pins.pfwarnLow && decide (s1.pow.stage = .emergency) } }
  match s1.pow.stage with
  | .gate => .next s2.toStart
  | .hibernate => .next (if s1.pow.gateMet then s2 else s2.endHibernate)
  | .backup => .next s1
  | _ => .next s2

/-- HIBERNATE_WAKE (R93): a latched wake ends HIBERNATE once the start gate is met. -/
def execHibernateWake (dt : Nat) (s : State) : Host.Outcome State Fault Refusal :=
  let s1 := s.advance dt
  .next (if s1.pow.stage = .hibernate ∧ s1.pow.gateMet ∧ s1.ret 7 ≠ 0 then s1.endHibernate else s1)

/-! ### The clock monitor (R113, Table 3.12) -/

/-- Whether the core's diagnostics run. -/
def State.diagnosing (s : State) : Bool := s.coreAlive

/-- XT32_STOPPED (R113, R273, R291): no edge for 1 ms: OSF sets, and the substitute source counts on. In BACKUP nothing watches the
crystal and nothing takes its place: the count stops. -/
def execXt32Stopped (dt : Nat) (s : State) : Host.Outcome State Fault Refusal :=
  let s1 := s.advance dt
  if s1.pow.stage = .backup then .next { s1 with rtc := { s1.rtc with xtRun := false } }
  else
    let s2 := s1.noteStop
    .next (if s2.diagnosing then s2.detect 0x10 0xFF 0 .atOnce else s2)

/-- XT32_OK (R110, R113): the oscillator starts or restarts; OSF stays (R291). -/
def execXt32Ok (dt : Nat) (s : State) : Host.Outcome State Fault Refusal :=
  let s1 := s.advance dt
  let s2 := { s1 with rtc := { s1.rtc with xtRun := true, started := true } }
  .next (if s1.pow.stage = .backup then s2 else s2.set1 F.CLK_STAT_XT32_OK)

/-- The RC oscillator is on: the core runs, its start-up and the boot ROM included (Table 3.11). -/
def State.rcOn (s : State) : Bool := s.diagnosing || decide (s.pow.stage = .startUp ∨ s.pow.stage = .recovery)

/-- RC_NOT_LOCKED (R113): the lock error exceeds ±1 % while XT32 runs. -/
def execRcNotLocked (dt : Nat) (s : State) : Host.Outcome State Fault Refusal :=
  let s1 := s.advance dt
  if s1.rtc.xtRun ∧ s1.rcOn then
    let s2 := (s1.set1 F.CLK_MON_RC_UNLOCK).clr F.CLK_STAT_RC_LOCK
    .next (if s2.diagnosing then s2.detect 0x14 0xFF 0 .logOnly else s2)
  else .next s1

/-- RC_LOCK (R113): the RC oscillator locks to XT32. -/
def execRcLock (dt : Nat) (s : State) : Host.Outcome State Fault Refusal :=
  let s1 := s.advance dt
  .next (if s1.rtc.xtRun ∧ s1.rcOn then s1.set1 F.CLK_STAT_RC_LOCK else s1)

/-! ### SEAL (R67, R68) -/

/-- A change of SEAL is accepted. It is recorded at once where the core runs or can be woken, with the time captured first (R453),
and takes effect at the next Capture; in HIBERNATE it is a wake. Elsewhere the level waits for the start-up's comparison (R69). -/
def State.sealAccept (s : State) : State :=
  let v := s.pins.strap.level
  if s.coreAlive then
    let s1 := ((s.wakeCore.capture).sealRecord v).sealStore
    { s1 with pins := { s1.pins with sealPend := some v } }
  else if s.pow.stage = .hibernate then s.retWrite 7 [Nat.lor (s.ret 7) 8]
  else s

/-- One sample of SEAL, high where it is open; none is taken in BACKUP. -/
def State.sealSample (s : State) (v : Bool) : State :=
  if s.pow.stage = .backup then { s with pins := { s.pins with strap := s.pins.strap.follow v } }
  else
    let s1 := { s with pins := { s.pins with strap := s.pins.strap.sample 3 v } }
    if s1.pins.strap.level = s.pins.strap.level then s1 else s1.sealAccept

/-- SEAL_CHANGE (R67, R68): samples of SEAL, 4,096 cycles apart; three that agree on a new level are accepted. -/
def execSealChange (dt : Nat) (samples : List Bool) (s : State) : Host.Outcome State Fault Refusal :=
  .next (State.sampleRun State.sealSample samplePeriod s dt samples)

end Sys2Proof.Machine
end

