-- ==== Sys2Proof/Machine/Access.lean ====
section
/-! DEFINITION. Access to registers and memory: the rights of Table 10.4, the seal of Table 10.5, the violation rule, the
configuration classes, the checks of Table 4.5 and the effect of a write (R10 to R12, R32, R38, R39, R46 to R48, R52,
R134 to R137, R141, R347, R355, R356). -/

namespace Sys2Proof.Machine

/-! ### Rights to read (Table 10.4) -/

/-- Every bit of a word. -/
def allBits : Nat := 2 ^ 32 - 1

/-- Whether Public may read a register whole: identity, metrology checksum, clock, retained words of the 9640, totals, flow,
power, temperatures and credit. -/
def publicReg (a : Nat) : Bool :=
  decide (a = F.MGMT_ID ∨ a = F.MGMT_DEVID_LO ∨ a = F.MGMT_DEVID_HI ∨ a = F.MGMT_MCHK)
    || decide ((F.RTC_SEC ≤ a ∧ a ≤ F.RTC_STEPFRAC) ∨ a = F.RTC_TICKSEC ∨ a = F.RTC_TICKFRAC ∨ (F.RTC_RET 0 ≤ a ∧ a < F.RTC_RET 8))
    || decide (a = F.PAY_CREDIT_LO ∨ a = F.PAY_CREDIT_HI)
    || [0, 1].any (fun x => decide ((F.BILL_REG x 0 0 ≤ a ∧ a ≤ F.BILL_REG x 3 2) ∨ a = F.MP_FLOW x ∨ a = F.MP_FLOWW x
        ∨ a = F.MP_POWER x ∨ a = F.MP_TF x ∨ a = F.MP_TR x ∨ a = F.MP_TAC x))

/-- The bits of a register that a role may read, its WO and reserved bits left out (R10, R12, R355). The prepayment state
is Public's; the trouble log's registers begin at Installer. -/
def readMask (rank a : Nat) : Nat :=
  match rowOf a with
  | none => 0
  | some r =>
    let m := r.mask (fun f => decide (f.acc ≠ .wo))
    if rank = 0 then (if a = F.PAY_STAT then 7 else if publicReg a then m else 0)
    else if rank = 1 ∧ (a = F.LOG_TSEQ ∨ a = F.LOG_TRD ∨ a = F.LOG_TSTAT) then 0
    else m

/-- The register that an address names and whether it is its shadow view (R39). -/
def viewOf (a : Nat) : Nat × Bool := if 0x40000000 ≤ a ∧ 0x4000 ≤ a % 0x8000 then (a - 0x4000, true) else (a, false)

/-! ### The line buffers (ring 6, Table 1.8) -/

/-- The carrier of ring 6's record `k`: records 0 and 1 are the UART's receive and transmit lines, 2 and 3 the optical port's, 4 and
5 the tunnel's, whose receive line is that of the first partner with one (log entry 115). -/
def State.lineCar (s : State) (k : Nat) : CarrierSt :=
  if k / 2 = 0 then s.cmd.uart else if k / 2 = 1 then s.cmd.opt
  else match s.cmd.tun.find? (fun p => decide (p.2.lines ≠ [])) with
    | some p => p.2
    | none => .init

/-- Whether the CMD task is at work on a queued line: its first byte has bit 7 set. -/
def lineRuns (e : List Byte × Nat) : Bool := decide (128 ≤ (e.1.headD 0#8).toNat)

/-- The token of record `k`: a line under reception is WRITING, one that waits PUBLISHED, the one at work READING; a transmit line
is PUBLISHED until its last character has left (R51). -/
def State.lineToken (s : State) (k : Nat) : Nat :=
  let x := s.lineCar k
  if k % 2 = 1 then (if x.tx = [] then tokFree else tokPublished)
  else match x.lines with
    | e :: _ => if lineRuns e then tokReading else tokPublished
    | [] => if x.rx = [] then tokFree else tokWriting

/-- The header of record `k` (R50). -/
def State.lineHeader (s : State) (k : Nat) : List Byte :=
  let h := if k % 2 = 0 then (s.lineCar k).rxHead else (s.lineCar k).txHead
  bytesLE 6 (h.1 % 2 ^ 48) ++ [6#8, byte h.2]

/-- SYS_RING6_B: the slots of records PUBLISHED or READING, and the first record that is FREE (R59, log entry 115). -/
def State.ring6 (s : State) : Word :=
  let full := (List.range 6).filter (fun k => decide (2 ≤ s.lineToken k))
  let head := ((List.range 6).find? (fun k => decide (s.lineToken k = tokFree))).getD 0
  word (4 * full.length * 2 ^ 12 + 4 * head)

/-- The level at a general-purpose ball whose input buffer is on is the board's: a free value, and 0 while VIO is absent (R65, R79,
log entry 83). -/
def State.senseGpio (s : State) (a : Nat) : State :=
  let n := (a - F.MGMT_GPIO 0) / 4
  if F.MGMT_GPIO 0 ≤ a ∧ n < 12 ∧ a % 4 = 0 then
    let f := s.get (F.MGMT_GPIO_FUNC n)
    if s.flag F.PWR_STATE_VIO_OK ∧ (f = 1 ∨ f = 7) then
      let (v, s1) := s.draw 2
      s1.put (F.MGMT_GPIO_IN n) v
    else s.clr (F.MGMT_GPIO_IN n)
  else s

/-- A register's value in force as a request meets it: requests run in the Service window, so PHASE reads 3, and by the
core, so the power state reads RUN. -/
def State.regView (s : State) (a : Nat) : Word :=
  if a = F.FT_PHASE then 3 else if a = F.PWR_STATE then withBits (s.rd a) 2 0 pwrRun
  else if a = F.SYS_RING_B 6 then s.ring6 else if a = F.RADIO_STAT then s.radioStat
  else if F.RTC_RET 4 ≤ a ∧ a ≤ F.RTC_RET 7 ∨ F.DISP_BAL 0 ≤ a ∧ a ≤ F.DISP_BAL 71 then s.runShown.rd a
  else s.rd a

/-- Reads a register for a role: the value in force, or the shadow view; a read of FT_TICK_LO latches FT_TICK_HI (R56). -/
def State.readReg (s0 : State) (rank a : Nat) (pend : Bool) : Nat × State :=
  let s := if pend then s0 else s0.senseGpio a
  let v := if pend then s.shadowView a else s.regView a
  let s1 := if a = F.FT_TICK_LO ∧ pend = false ∧ 1 ≤ rank then s.put F.FT_TICK_HI_TICK (s.rm.tick / 2 ^ 32) else s
  (Nat.land v.toNat (readMask rank a), s1)

/-- The ring of a Carousel slot (Table 1.8). -/
def ringOf (slot : Nat) : Nat :=
  if slot < 128 then 0 else if slot < 256 then 1 else if slot < 512 then 2 else if slot < 608 then 3 else if slot < 672 then 4
  else if slot < 688 then 5 else if slot < 712 then 6 else if slot < 840 then 7 else if slot < 1096 then 8
  else if slot < 2040 then 9 else 10

/-- The lowest role that may read a ring: its rank, 5 for none. -/
def ringRank (r : Nat) : Nat :=
  if r = 1 ∨ r = 2 ∨ r = 5 then 1 else if r = 7 then 2 else if r = 3 ∨ r = 4 ∨ r = 6 ∨ r = 8 then 4 else 5

/-- The lowest role that may read an address of the metrology store view (Tables 9.7, 10.4). -/
def nvmRank (a : Nat) : Nat :=
  if a < 0x30008000 then 4 else if a < 0x3000E800 then 1 else if a < 0x3000FA00 then 4 else if a < 0x3000FE00 then 5 else 4

/-- The slots of the record that a slot belongs to: the first and how many; the slot alone where records have several sizes. -/
def recordOf (r slot : Nat) : Nat × Nat :=
  if r = 3 ∨ r = 4 then (slot, 1)
  else
    let n := bitsOf (regReset (F.SYS_RING_A r)) 27 24 + 1
    (ringBase r + (slot - ringBase r) / n * n, n)

/-- The token of a slot as a reader meets it. -/
def State.tokenAt (s : State) (r slot : Nat) : Nat := if r = 6 then s.lineToken ((slot - ringBase 6) / 4) else s.token slot

/-- Reads a word of the Carousel: none while its token is WRITING (E04, R52). The core copies the record and so meets its errors
(R54). Records of rings 3, 4, 6 and 8 whose layout the spec does not state hold free values after their header (log entry 22). -/
def State.readCrs (s : State) (rank a : Nat) : Option Nat × State :=
  let slot := (a - 0x21000000) / 128
  let r := ringOf slot
  let t := s.tokenAt r slot
  let rcd := recordOf r slot
  let off := a - slotAddr rcd.1
  if rank < ringRank r then (some 0, s)
  else if t = tokWriting then (none, s)
  else if t ≠ tokPublished then (some 0, s)
  else
    let s1 := s.eccMeet (slotAddr rcd.1) (128 * rcd.2)
    if ringRank r = 4 ∧ 8 ≤ off then
      let (v, s2) := s1.draw (2 ^ 32)
      (some v, s2)
    else (some (natLE (if r = 6 then ((s.lineHeader ((slot - ringBase 6) / 4)).drop off).take 4 else s.crsBytes a 4)), s1)

/-- Reads a word of the metrology store view (R323). Journal, saved-configuration and identity rows have an internal format:
free values. -/
def State.readNvm (s : State) (rank a : Nat) : Nat × State :=
  if rank < nvmRank a then (0, s)
  else if nvmRank a = 4 then s.draw (2 ^ 32)
  else (natLE (s.nvmBytes a 4), s)

/-- Reads the word at an address for a role (R46, R48, R52, R141); none answers E04. -/
def State.readWord (s : State) (rank a : Nat) (pend : Bool) : Option Nat × State :=
  let (reg, view) := viewOf a
  if (regAt reg).isSome then
    let (v, s1) := s.readReg rank reg (pend || view)
    (some v, s1)
  else if 0x21000000 ≤ a ∧ a < 0x21040000 then s.readCrs rank a
  else if 0x30000000 ≤ a ∧ a < 0x30010000 then
    let (v, s1) := s.readNvm rank a
    (some v, s1)
  else (some 0, s)

/-! ### Rights to write (Tables 10.4, 10.5) -/

/-- The seal is open in force (R356). -/
def State.sealOpen (s : State) : Bool := s.pins.sealForce

/-- The lowest role that may write a field of a register: its rank, 5 for none (Table 10.4, R451, R455, R466, R478). -/
def State.writeRank (s : State) (b : Block) (a : Nat) (f : FieldRow) : Nat :=
  if f.acc = .ro then 5
  else match b with
    | .rtc =>
      if a = F.RTC_SEC ∨ a = F.RTC_SETD ∨ a = F.RTC_SETT then (if s.untrusted then 2 else 3)
      else if a = F.RTC_CTRL then 1
      else if F.RTC_RET 0 ≤ a ∧ a < F.RTC_RET 8 then 5
      else 2
    | .bill => if f.acc = .w1c then 2 else 3
    | .alm => 3
    | .pay => 3
    | .keys => if a = F.KEYS_CMD ∧ f.lo = 0 then 4 else 3
    | .safe => if a = F.SAFE_TLATCH ∨ (a = F.SAFE_CMD ∧ f.lo = 0) then 3 else 2
    | _ => 2

/-- Whether writes to a field of the Almanac's entry 0 are ignored (R311). -/
def fixedEntry (a : Nat) (f : FieldRow) : Bool :=
  decide (F.ALM_DAY 0 0 ≤ a ∧ a < F.ALM_DAY 16 0 ∧ (a - F.ALM_DAY 0 0) % 32 = 0 ∧ f.lo ≠ 16)

/-- The bits of a register that a role may write now: those of its fields that the role's right, the seal and the violation
rule leave (R38, R46, R347, R355, R356). -/
def State.writeMask (s : State) (rank a : Nat) : Nat :=
  match regAt a with
  | none => 0
  | some (b, r, _, _) =>
    let m := r.mask (fun f => decide (s.writeRank b a f ≤ rank) && !fixedEntry a f
      && !(decide (f.cls = .locked) && s.ownerEnabled b))
    if s.sealOpen then m else m - Nat.land m (sealMask a)

/-! ### Value ranges (R133, Table 4.5 step 5) -/

/-- Whether each of `n` hexadecimal digits of a number is decimal. -/
def bcdOk : Nat → Nat → Bool
  | 0, _ => true
  | n + 1, v => decide (v % 16 ≤ 9) && bcdOk n (v / 16)

/-- Whether a field's value lies in the range its field table states. -/
def State.valueOk (s : State) (a : Nat) (f : FieldRow) (v : Nat) : Bool :=
  let x : Int := if f.signed then toSigned (f.hi + 1 - f.lo) v else v
  (match f.range with | some (lo, hi) => decide (lo ≤ x ∧ x ≤ hi) | none => true)
    && (!decide (a = F.BILL_PER ∧ f.lo = 24) || [1, 2, 3, 4, 6, 12].contains v)
    && (!decide ((a = F.MP_CFG 0 ∨ a = F.MP_CFG 1) ∧ (f.lo = 16 ∨ f.lo = 20)) || decide (v ≤ 5 ∨ v = 15))
    && !decide (F.LINK_NB_A 0 ≤ a ∧ a < F.LINK_NB_A 32 ∧ (a - F.LINK_NB_A 0) % 0x20 = 0 ∧ f.lo = 28 ∧ v = 6)
    && (!decide (a = F.LINK_WMBID) || bcdOk 8 v)
    && !decide (a = F.LOG_TRD ∧ s.get F.LOG_TSEQ_SEQ < v)

/-- Whether every RW field of a row that a mask writes takes a value in its range. -/
def State.valuesOk (s : State) (a : Nat) (r : RegRow) (m : Nat) (w : Word) : Bool :=
  r.fields.all (fun f => decide (f.acc ≠ .rw) || !bit m f.lo || s.valueOk a f (bitsOf w f.hi f.lo))

/-- A meter point's paths, medium, application and path geometry stay permitted: no path in both meter points (R233), no reserved
medium and no gas medium with an application (R234), and no X_i above L_i. -/
def mpAdmissible (s : State) (x a : Nat) : Bool :=
  if a = F.MP_CFG x then
    let m := s.get (F.MP_CFG_MEDIUM x)
    decide (Nat.land (s.get (F.MP_CFG_PATHS 0)) (s.get (F.MP_CFG_PATHS 1)) = 0) && !decide (m = 6 ∨ 14 ≤ m)
      && !decide (12 ≤ m ∧ s.get (F.MP_CFG_APPL x) ≠ 0)
  else (List.range 4).all (fun n => decide (a ≠ F.MP_P_AX x n)
    || decide (s.get (F.MP_P_AX_AX x n) ≤ s.get (F.MP_P_LEN_LEN x n)))

/-- Whether a carrier frequency lies on the port RFLO (R361). -/
def onRflo (hz : Nat) : Bool := decide (160000000 ≤ hz ∧ hz ≤ 175000000)

/-- The carrier lies in a range of R361, and RFLO and RATE agree (R362). -/
def radioAdmissible (old new : State) (a : Nat) : Bool :=
  let hz := new.pget F.RADIO_FREQ_HZ
  if a = F.RADIO_FREQ then
    (onRflo hz && decide (old.pget F.RADIO_MOD_RATE ≤ 3)) || decide (410000000 ≤ hz ∧ hz ≤ 480000000)
      || decide (860000000 ≤ hz ∧ hz ≤ 960000000)
  else a ≠ F.RADIO_MOD || !onRflo (old.get F.RADIO_FREQ_HZ) || decide (new.pget F.RADIO_MOD_RATE ≤ 3)

/-- Whether a change is admissible: the two ports of a path differ (R152), the firing configurations it changes satisfy Table 5.4
(R169), the amplitude limits stand in order, region 0 holds no more than its mode allows (R395), a meter point and the radio
stay permitted (R233, R234, R361, R362), and the schedule would still be admitted (R32). -/
def admissible (old new : State) (b : Block) (a : Nat) : Bool :=
  match b with
  | .ame => (List.range 4).all (fun n =>
      (decide (firingOf new.pend n = firingOf old.pend n) || (firingOf new.pend n).legal)
        && (decide (a ≠ F.AME_P_PORT n) || decide (new.get (F.AME_P_PORT_PORTU n) ≠ new.get (F.AME_P_PORT_PORTD n))))
      && readmitted old new
  | .ft | .sens => readmitted old new
  | .mpa => mpAdmissible new 0 a && readmitted old new
  | .mpb => mpAdmissible new 1 a && readmitted old new
  | .shot => (List.range 4).all (fun n => decide (a ≠ F.SHOT_P_AWIN n)
      || decide (new.pget (F.SHOT_P_AWIN_AMIN n) < new.pget (F.SHOT_P_AWIN_AMAX n)))
  | .disp => !decide (F.DISP_SREG 0 ≤ a ∧ a < F.DISP_SREG 8)
      || marqueeFits new.pend (new.pget F.DISP_CTRL_MODE) (decide (new.pget F.DISP_LCD_DUTY = 1))
  | .radio => radioAdmissible old new a
  | _ => true

/-! ### The effect of a write -/

/-- The write of the Staged, Locked and Immediate RW bits of a mask (R38). -/
def State.writeRw (s : State) (a : Nat) (r : RegRow) (m : Nat) (w : Word) : State :=
  let st := Nat.land m (r.mask (fun f => decide (f.acc = .rw ∧ f.cls = .staged)))
  let im := Nat.land m (r.mask (fun f => decide (f.acc = .rw ∧ f.cls ≠ .staged)))
  let s1 := if im = 0 then s else s.wr a (mergeMask im w (s.rd a))
  if st = 0 then s1 else s1.stage a (mergeMask st w (s1.pend a))

/-- The write of the W1C bits of a mask: each bit written as 1 clears; a field of MGMT_LOAD clears whole. -/
def State.writeW1c (s : State) (a : Nat) (r : RegRow) (m : Nat) (w : Word) : State :=
  let c := Nat.land m (r.mask (fun f => f.acc = .w1c))
  if a = F.MGMT_LOAD then
    r.fields.foldl (fun t f => if bit c f.lo ∧ bitsOf w f.hi f.lo ≠ 0 then t.clr (f.fld a) else t) s
  else if c = 0 then s
  else s.wr a (mergeMask (Nat.land c w.toNat) 0#32 (s.rd a))

/-- The actions that a write starts, with the code of a check of steps 6 and 7 that an action fails. -/
def State.writeAction (s : State) (a m : Nat) (w : Word) : Nat × State :=
  let on (i : Nat) : Bool := bit m i && bit w.toNat i
  if a = F.FT_CMD then
    let s1 := if on 0 then s.schedCommit else s
    (0, if on 1 then s1.schedDiscard else s1)
  else if a = F.PWR_CTRL then (0, if on 0 then { s with pow := { s.pow with hibReq := true } } else s)
  else if a = F.RTC_SEC then (0, if bit m 0 then s.startTimeWrite w.toNat else s)
  else if a = F.RTC_SETD then (0, s.holdDate (word (Nat.land m w.toNat)))
  else if a = F.RTC_SETT then (0, s.setTimeOfDay (word (Nat.land m w.toNat)))
  else if a = F.RTC_CTRL then (0, if on 0 then s.startCapture else s)
  else if a = F.BILL_CMD then (0, if on 0 then s.closeRequest else s)
  else if a = F.PAY_ACT then
    let v := Nat.land m (bitsOf w 1 0)
    if v = 1 then (0, s.remoteClose)
    else if v = 2 then (match s.remoteOpen with | (ok, s1) => (if ok then 0 else 6, s1))
    else (0, s)
  else if a = F.KEYS_CMD then
    let s1 := if on 0 then s.programDebug else s
    (0, if on 8 then s1.holdAckWrite else s1)
  else if a = F.SAFE_CMD then
    let s1 := if on 0 then s.ackSafe else s
    if on 1 then (if s.flag F.CMD_MODE_TEST then (0, s1.forceSafe) else (6, s)) else (0, s1)
  else (0, s)

/-- Configuration changes answer E04: a zero calibration or a save runs, a key commit is between its phases, or a firmware
image is being verified (R137, R504). -/
def State.cfgBusy (s : State) : Bool :=
  s.flag F.CMD_STAT_ZCBUSY || s.saving || decide (s.get F.KEYS_STAT_COMMIT = 2) || decide (s.updState = 2)

/-- The bits of a register that are configuration: its RW fields, but for the time, the countdown timer, the retained bytes,
the log mark and the levels of outputs. -/
def State.cfgBits (a : Nat) (r : RegRow) : Nat :=
  if a = F.FT_CMD then 3
  else if a = F.RTC_SEC ∨ a = F.RTC_CDT ∨ a = F.LOG_TRD ∨ (F.RTC_RET 0 ≤ a ∧ a < F.RTC_RET 16) then 0
  else r.mask (fun f => decide (f.acc = .rw) && !(decide (F.MGMT_GPIO 0 ≤ a ∧ a < F.MGMT_GPIO 12) && decide (f.lo = 8)))

/-- A write of MODE 1 or 2 that differs from the unit of a credit that is not zero is ignored (R327). -/
def State.modeRefused (s : State) (v : Nat) : Bool :=
  (decide (v = 1) || decide (v = 2)) && decide (s.get F.PAY_STAT_CMODE ≠ v) && decide (s.credit ≠ 0)

/-- Whether a write would set the time while a time write is in progress (R137, R278). -/
def State.timeBusy (s : State) (a : Nat) : Bool :=
  decide (a = F.RTC_SEC ∨ a = F.RTC_SETD ∨ a = F.RTC_SETT) && s.flag F.RTC_STAT_WBUSY

/-- Results that follow a write: PDUR of every path (R170), and the close demand of a cleared tamper latch (R468). -/
def State.writeShow (s : State) (b : Block) (a : Nat) : State :=
  if b = .ame then s.buildPdur else if a = F.SAFE_TLATCH then s.putB F.SAFE_STAT_TCLOSE s.tamperClose else s

/-- A write of the bits `sel` of a register by a role, in the order of Table 4.5. Answers a code number of Table 4.4, 0 for OK;
a code other than 0 leaves the state as it was. A field whose value is not admissible makes the write as a whole
without effect. -/
def State.writeWord (s : State) (rank a sel : Nat) (w : Word) : Nat × State :=
  match regAt a with
  | none => (0, s)
  | some (b, r, _, _) =>
    let m := Nat.land sel (s.writeMask rank a)
    if m = 0 then (0, s)
    else if !s.valuesOk a r m w then (3, s)
    else
      let s1 := (s.writeRw a r m w).writeW1c a r m w
      if !admissible s s1 b a then (3, s)
      else if a = F.PAY_CFG ∧ Nat.land m 3 ≠ 0 ∧ s.modeRefused (bitsOf w 1 0) then (6, s)
      else if (s.cfgBusy ∧ Nat.land m (State.cfgBits a r) ≠ 0) ∨ s.timeBusy a then (4, s)
      else
        let s2 := if a = F.RTC_SEC then s else s1
        match s2.writeAction a m w with
        | (0, s3) => (0, s3.writeShow b a)
        | (e, _) => (e, s)

/-- The bits that a write at an address reaches: all, but through the shadow view none of a Locked field (R46). -/
def viewBits (a : Nat) : Nat :=
  if (viewOf a).2 then
    match rowOf (viewOf a).1 with
    | some r => allBits - r.mask (fun f => decide (f.cls = .locked))
    | none => 0
  else allBits

/-- A write through the shadow view has the effect of one to the register (R39), Locked fields apart (R46). An address that nothing
occupies, and every memory, takes a write without effect (R48, R52, R323). -/
def State.writeAt (s : State) (rank a : Nat) (w : Word) : Nat × State := s.writeWord rank (viewOf a).1 (viewBits a) w

/-! ### Writes of registers with behaviour, as commands -/

/-- A register write by a source in the Service window (R18). A write that some check refuses has no effect. -/
def State.writeBy (s : State) (src : Source) (a : Nat) (w : Word) : State :=
  if s.serviceOpen then (s.writeAt (roleRank (s.roleOf src)) a w).2 else s

/-- REGISTER_WRITE (R10 to R12, R38, R46, R48): a whole register, by address. -/
def execRegisterWrite (src : Source) (addr : Nat) (value : Word) (s : State) : Host.Outcome State Fault Refusal :=
  .next (if addr % 4 = 0 then s.writeBy src addr value else s)

/-- HIBERNATE (R94): a write of 1 to PWR_CTRL.HIBERNATE; the entry follows this tick's Persist. -/
def execHibernate (src : Source) (s : State) : Host.Outcome State Fault Refusal :=
  .next (if s.serviceOpen then (s.writeWord (roleRank (s.roleOf src)) F.PWR_CTRL 1 1#32).2 else s)

/-- TIME_WRITE (R278): a write to RTC_SEC. -/
def execTimeWrite (src : Source) (value : Word) (s : State) : Host.Outcome State Fault Refusal :=
  .next (s.writeBy src F.RTC_SEC value)

/-- SET_DATE (R284): a write to RTC_SETD. -/
def execSetDate (src : Source) (value : Word) (s : State) : Host.Outcome State Fault Refusal :=
  .next (s.writeBy src F.RTC_SETD value)

/-- SET_TIME (R284): a write to RTC_SETT. -/
def execSetTime (src : Source) (value : Word) (s : State) : Host.Outcome State Fault Refusal :=
  .next (s.writeBy src F.RTC_SETT value)

/-- COUNTDOWN_TIMER_WRITE (R289): a write to RTC_CDT. -/
def execCountdownTimerWrite (src : Source) (value : Word) (s : State) : Host.Outcome State Fault Refusal :=
  .next (s.writeBy src F.RTC_CDT value)

/-- CLOSE (R306): a write of 1 to BILL_CMD.CLOSE. -/
def execClose (src : Source) (s : State) : Host.Outcome State Fault Refusal := .next (s.writeBy src F.BILL_CMD 1#32)

/-- REMOTE_DISCONNECT (R332, R352): a write of 1 to PAY_ACT.CMD. -/
def execRemoteDisconnect (src : Source) (s : State) : Host.Outcome State Fault Refusal := .next (s.writeBy src F.PAY_ACT 1#32)

/-- REMOTE_RECONNECT (R332, R352, R468): a write of 2 to PAY_ACT.CMD. -/
def execRemoteReconnect (src : Source) (s : State) : Host.Outcome State Fault Refusal := .next (s.writeBy src F.PAY_ACT 2#32)

/-- PREPAYMENT_MODE_WRITE (R327): a write of PAY_CFG.MODE alone. -/
def execPrepaymentModeWrite (src : Source) (mode : BitVec 2) (s : State) : Host.Outcome State Fault Refusal :=
  .next (if s.serviceOpen then (s.writeWord (roleRank (s.roleOf src)) F.PAY_CFG 3 (word mode.toNat)).2 else s)

end Sys2Proof.Machine
end

