-- ==== Sys2Proof/Machine/Text.lean ====
section
/-! DEFINITION. The text forms of the command language: numbers, times, names, and their reading (R6, R123 to R128, R135,
R136, R140, R141, R275, R285). -/

namespace Sys2Proof.Machine

/-! ### Writing -/

/-- The characters of a string. -/
def txt (s : String) : Text := s.toList

/-- A digit of base 16, in capitals. -/
def digitChar (n : Nat) : Char := if n < 10 then Char.ofNat (48 + n) else Char.ofNat (55 + n)

/-- The lowest `n` digits of a number in a base, highest first. -/
def digitsN (base : Nat) : Nat → Nat → Text
  | 0, _ => []
  | n + 1, v => digitsN base n (v / base) ++ [digitChar (v % base)]

/-- The number of decimal digits of a number, at least 1; `k` bounds the search. -/
def decLen (v : Nat) : Nat → Nat
  | 0 => 1
  | k + 1 => if v < 10 then 1 else decLen (v / 10) k + 1

/-- A number in decimal. -/
def decText (v : Nat) : Text := digitsN 10 (decLen v 60) v

/-- A signed number in decimal. -/
def intText (v : Int) : Text := if v < 0 then '-' :: decText v.natAbs else decText v.toNat

/-- Underscores between groups of four, counted from the right (R6). -/
def grouped : Text → Text
  | [] => []
  | c :: t => if t.length ≠ 0 ∧ t.length % 4 = 0 then c :: '_' :: grouped t else c :: grouped t

/-- A number of `n` hexadecimal digits, without a prefix and without underscores. -/
def hexN (n v : Nat) : Text := digitsN 16 n v

/-- The 0x form of R6 with `n` digits. -/
def hexText (n v : Nat) : Text := txt "0x" ++ grouped (hexN n v)

/-- A value with `frac` fraction bits in decimal with four fractional digits, rounded with halves away from zero (R136). -/
def fixedText (v : Int) (frac : Nat) : Text :=
  let n := roundDiv (v * 10000) (2 ^ frac)
  (if n < 0 then ['-'] else []) ++ decText (n.natAbs / 10000) ++ ['.'] ++ digitsN 10 4 (n.natAbs % 10000)

/-- The calendar form of R275 and R285: 2031-03-02T00:00:00. -/
def calText (sec : Nat) : Text :=
  let c := secToCal sec
  digitsN 10 4 (2000 + c.year) ++ ['-'] ++ digitsN 10 2 c.month ++ ['-'] ++ digitsN 10 2 c.day ++ ['T']
    ++ digitsN 10 2 c.hour ++ [':'] ++ digitsN 10 2 c.minute ++ [':'] ++ digitsN 10 2 c.second

/-- The four fractional digits of a FRAC, rounded down (R275). -/
def fracText (frac : Nat) : Text := digitsN 10 4 (frac * 10000 / 65536)

/-- The calendar form with its fractional digits. -/
def calFracText (sec frac : Nat) : Text := calText sec ++ ['.'] ++ fracText frac

/-- The bytes of a text. -/
def textBytes (t : Text) : List Byte := t.map (fun c => byte c.toNat)

/-- The text of bytes. -/
def bytesText (l : List Byte) : Text := l.map (fun b => Char.ofNat b.toNat)

/-! ### Reading -/

/-- Capitals (R125). -/
def upper (t : Text) : Text := t.map Char.toUpper

/-- The value of a digit in base 16. -/
def digitVal (c : Char) : Option Nat :=
  let n := c.toNat
  if 48 ≤ n ∧ n ≤ 57 then some (n - 48) else if 65 ≤ n ∧ n ≤ 70 then some (n - 55) else if 97 ≤ n ∧ n ≤ 102 then some (n - 87)
  else none

/-- The number that digits of a base spell. -/
def readDigits (base : Nat) : Text → Nat → Option Nat
  | [], v => some v
  | c :: t, v => match digitVal c with
    | some d => if d < base then readDigits base t (base * v + d) else none
    | none => none

/-- A number without a sign: one or more digits. -/
def readNat (base : Nat) (t : Text) : Option Nat := if t = [] then none else readDigits base t 0

/-- Underscores between digits are left out; elsewhere they spell no number. -/
def dropUnderscores (t : Text) : Option Text :=
  if t.head? = some '_' ∨ t.getLast? = some '_' then none else some (t.filter (fun c => c ≠ '_'))

/-- A number in decimal, optionally signed, or in 0x or 0b form with or without underscores (R135). -/
def readInt (t : Text) : Option Int :=
  let neg := decide (t.head? = some '-')
  let body := if neg ∨ t.head? = some '+' then t.tail else t
  let n := match upper (body.take 2) with
    | ['0', 'X'] => (dropUnderscores (body.drop 2)).bind (readNat 16)
    | ['0', 'B'] => (dropUnderscores (body.drop 2)).bind (readNat 2)
    | _ => readNat 10 body
  n.map (fun v => if neg then Int.neg v else (v : Int))

/-- A decimal number with up to four fractional digits, optionally signed, times 10,000. -/
def readFixed (t : Text) : Option Int :=
  let neg := decide (t.head? = some '-')
  let body := if neg ∨ t.head? = some '+' then t.tail else t
  let whole := body.takeWhile (fun c => c ≠ '.')
  let rest := body.dropWhile (fun c => c ≠ '.')
  let f := rest.drop 1
  let v := match readNat 10 whole with
    | none => none
    | some a =>
      if rest = [] then some (10000 * a)
      else if f.length = 0 ∨ 4 < f.length then none
      else (readNat 10 f).map (fun b => 10000 * a + b * 10 ^ (4 - f.length))
  v.map (fun n => if neg then Int.neg n else (n : Int))

/-- Pairs of hexadecimal digits as bytes. -/
def readHex : Text → Option (List Byte)
  | [] => some []
  | [_] => none
  | a :: b :: t => match digitVal a, digitVal b, readHex t with
    | some x, some y, some l => some (byte (16 * x + y) :: l)
    | _, _, _ => none

/-- Decimal digits. -/
def readDecimals (t : Text) : Option (List Nat) :=
  if t.all (fun c => decide (48 ≤ c.toNat ∧ c.toNat ≤ 57)) then some (t.map (fun c => c.toNat - 48)) else none

/-- Tokens separated by one or more spaces (R126). -/
def tokens : Text → Text → List Text
  | [], w => if w = [] then [] else [w]
  | ' ' :: t, w => if w = [] then tokens t [] else w :: tokens t []
  | c :: t, w => tokens t (w ++ [c])

/-- A text cut at a character. -/
def cutOn (sep : Char) : Text → Text → List Text
  | [], w => [w]
  | c :: t, w => if c = sep then w :: cutOn sep t [] else cutOn sep t (w ++ [c])

/-- A calendar time in the form 2031-03-01T09:14:22: year, month, day, hour, minute, second (R285). -/
def readCal (t : Text) : Option (List Nat) :=
  let shape := t.length = 19 ∧ t[4]? = some '-' ∧ t[7]? = some '-' ∧ t[10]?.map Char.toUpper = some 'T' ∧ t[13]? = some ':'
    ∧ t[16]? = some ':'
  if shape then
    [(0, 4), (5, 2), (8, 2), (11, 2), (14, 2), (17, 2)].mapM (fun p => readNat 10 ((t.drop p.1).take p.2))
  else none

/-- An address: "@" and eight hexadecimal digits, with or without the underscore of R6 (R141). -/
def readAddr (t : Text) : Option Nat :=
  if t.head? ≠ some '@' then none
  else
    let d := t.tail
    if d.length = 8 then readNat 16 d
    else if d.length = 9 ∧ d[4]? = some '_' then readNat 16 (d.take 4 ++ d.drop 5)
    else none

/-- An OBIS code, A-B:C.D.E.F with six decimal groups (R141). -/
def readObis (t : Text) : Option (List Nat) :=
  match cutOn '-' t [] with
  | [a, r] => match cutOn ':' r [] with
    | [b, u] => match cutOn '.' u [] with
      | [c, d, e, f] =>
        match [a, b, c, d, e, f].mapM (readNat 10) with
        | some l => if l.all (fun n => decide (n < 256)) then some l else none
        | none => none
      | _ => none
    | _ => none
  | _ => none

/-- A name against a pattern in which "#" stands for an index; the indices found (R140). -/
def matchName : Text → Text → Option (List Nat)
  | [], [] => some []
  | [], _ => none
  | '#' :: p, t =>
    let d := t.takeWhile (fun c => decide (48 ≤ c.toNat ∧ c.toNat ≤ 57))
    match readNat 10 d, matchName p (t.dropWhile (fun c => decide (48 ≤ c.toNat ∧ c.toNat ≤ 57))) with
    | some n, some l => if decText n = d then some (n :: l) else none
    | _, _ => none
  | _ :: _, [] => none
  | c :: p, x :: t => if c = x then matchName p t else none

end Sys2Proof.Machine
end

