-- ==== Sys2Proof/Machine/Carriers.lean ====
section
/-! DEFINITION. The carriers of the command language: their receivers, the optical sign-on, sessions, lines and responses
(R77, R79, R116 to R131, R142 to R145, R359). -/

namespace Sys2Proof.Machine

/-! ### Sessions -/

/-- The tunnel sessions that are not as after a reset. -/
def State.tunnels (s : State) : List Carrier :=
  (List.range 32).filterMap (fun n => if (s.cmd.tun.any (fun p => decide (p.1 = n))) then some (.tunnel (Fin.ofNat 32 n)) else none)

/-- Every carrier with a session. -/
def State.carriers (s : State) : List Carrier := [.uart, .optical] ++ s.tunnels

/-- Whether two carriers are one. -/
def sameCarrier (a b : Carrier) : Bool := decide (a = b)

/-- Discards the KEY LOAD buffer of a carrier (R442). -/
def State.dropKeyBuf (s : State) (c : Carrier) : State :=
  { s with cmd := { s.cmd with keyBuf := s.cmd.keyBuf.filter (fun b => !sameCarrier b.1 c) } }

/-- The session ends as on LOGOUT (R117, R142, R145). -/
def State.endSessionOn (s : State) (c : Carrier) : State :=
  (s.setCar c { s.car c with role := .publicRole, chal := none }).dropKeyBuf c

/-- Whether a carrier is held by a deferred response, and its lines answer E04 (R131). A token's answer holds none back. -/
def State.isHeld (s : State) (c : Carrier) : Bool := match (s.car c).held with
  | none => false
  | some (d, _) => decide (d ≠ .token)

/-- Whether the responses of a carrier wait for one that is owed. -/
def State.owes (s : State) (c : Carrier) : Bool := (s.car c).held.isSome

/-- CMD_UART.EN, CMD_OPT.EN or CMD_TUN.EN. -/
def State.carEnabled (s : State) : Carrier → Bool
  | .uart => s.flag F.CMD_UART_EN
  | .optical => s.flag F.CMD_OPT_EN
  | .tunnel _ => s.flag F.CMD_TUN_EN

/-- REQCRC of a carrier (R129). -/
def State.reqCrc (s : State) : Carrier → Bool
  | .uart => s.flag F.CMD_UART_REQCRC
  | .optical => s.flag F.CMD_OPT_REQCRC
  | .tunnel _ => s.flag F.CMD_TUN_REQCRC

/-- Whether the optical carrier is in an ACL session. -/
def State.inSession (s : State) : Bool := match s.cmd.sign with | .session _ => true | _ => false

/-- Whether the UART stands in recovery mode, which serves it without ticks (R499). -/
def State.rescued (s : State) (c : Carrier) : Bool := decide (s.pow.stage = .recovery) && decide (c = .uart)

/-- Whether VIO was present at the last Capture (R65). -/
def State.vioOk (s : State) : Bool := s.flag F.PWR_STATE_VIO_OK

/-- Whether a carrier receives: while ticks run and VIO is present the enabled ones, in recovery mode the UART (R65, R77, R499). -/
def State.listening (s : State) (c : Carrier) : Bool := (s.ticking && s.vioOk && s.carEnabled c) || s.rescued c

/-- Whether a carrier's lines run now: the Service window is open and the carrier enabled (R18), or recovery mode serves it; no RESET
line has been taken (R139); and on the optical port a session is open. -/
def State.lineOk (s : State) (c : Carrier) : Bool :=
  ((s.serviceOpen && s.carEnabled c) || s.rescued c) && s.pow.resetReq.isNone && (decide (c ≠ .optical) || s.inSession)

/-! ### Responses (R127, R128, R130, R133) -/

/-- What a command answers: OK with or without a value, an error with what follows its text, data lines and OK, a response
that is deferred (R131), or the value that the next Service window answers (R338). -/
inductive Resp where
  | ok (value : Text)
  | err (code : Nat) (extra : Text)
  | data (lines : List Text)
  | defer (d : Deferred)
  | later (value : Text)
  deriving DecidableEq, Repr

/-- OK without a value. -/
def okResp : Resp := .ok []

/-- A plain error. -/
def errResp (code : Nat) : Resp := .err code []

/-- OK, or the error of a code number. -/
def codeResp (code : Nat) : Resp := if code = 0 then okResp else errResp code

/-- The fixed texts of Table 4.4. -/
def errName (code : Nat) : Text :=
  txt (match code with
    | 1 => "SYNTAX" | 2 => "UNKNOWN NAME" | 3 => "OUT OF RANGE" | 4 => "BUSY" | 5 => "TAG OR CRC" | 6 => "NOT IN THIS STATE"
    | 7 => "TOKEN REJECTED" | 8 => "KEY MESSAGE REJECTED" | _ => "FULL")

/-- The final line of a response, without its tag. -/
def Resp.final : Resp → Text
  | .ok [] => txt "OK"
  | .ok v => txt "OK " ++ v
  | .err c x => txt "ERR E0" ++ decText c ++ [' '] ++ errName c ++ x
  | .data _ => txt "OK"
  | .defer _ => []
  | .later v => txt "OK " ++ v

/-- The data lines of a response. -/
def Resp.dataLines : Resp → List Text
  | .data l => l
  | _ => []

/-- The code number of a response, 0 for none (R359). -/
def Resp.code : Resp → Nat
  | .err c _ => c
  | _ => 0

/-- Line end. -/
def crlf : List Byte := [0x0D#8, 0x0A#8]

/-- The bytes of a response: its data lines, and its final line with the tag and the CRC of the request's form. -/
def Resp.bytes (r : Resp) (l : LineForm) : List Byte :=
  let head := (r.dataLines.map (fun d => textBytes (txt ": " ++ d) ++ crlf)).flatten
  let fin := head ++ textBytes ((if l.tag = [] then [] else '#' :: l.tag ++ [' ']) ++ r.final)
  (if l.crc then fin ++ textBytes ('*' :: hexN 4 (crc16Bytes fin)) else fin) ++ crlf

/-- A response as it leaves: on the tunnel, in the reply message (R122, R359). -/
def Resp.packet (r : Resp) (c : Carrier) (inv : Byte) (l : LineForm) : List Byte := match c with
  | .tunnel _ => [0x84#8, inv, byte r.code] ++ r.bytes l
  | _ => r.bytes l

/-- What the header of a record of ring 6 holds: its tick and its sequence count (R50). -/
def State.lineMark (s : State) : (Nat × Nat) × State := match s.nextSeq 6 with
  | (q, s1) => ((s1.rm.tick, q), s1)

/-- Hands the bytes of a response to the transmitter, or to the link. A transmit line begins a record of ring 6. -/
def State.emit (s : State) (c : Carrier) (b : List Byte) : State := match c with
  | .tunnel n => s.linkSend n.val b
  | _ =>
    let (h, s1) := if (s.car c).tx = [] then s.lineMark else ((s.car c).txHead, s)
    s1.setCar c { s1.car c with tx := (s1.car c).tx ++ b, txHead := h }

/-- Whether one character leaves before another rate applies: at a Capture that changes the UART's rate, what stands in its transmit
buffer still leaves at the rate before (R149). -/
def State.baudCapture (s old : State) : State :=
  let x := s.cmd.uart
  let was := old.get F.CMD_UART_BAUD
  if s.get F.CMD_UART_BAUD = was then s
  else
    let n := x.tx.length - sumNat (x.old.map (fun p => p.1))
    if n = 0 then s else s.setCar .uart { x with old := x.old ++ [(n, uartBaud was)] }

/-- Answers a line, after a response that the carrier owes (R131). -/
def State.send (s : State) (c : Carrier) (inv : Byte) (l : LineForm) (r : Resp) : State :=
  let s1 := if r.code = 0 then s else s.bump F.CMD_LINES_ERRORS 1
  let b := r.packet c inv l
  if s1.owes c then s1.setCar c { s1.car c with after := (s1.car c).after ++ [b] } else s1.emit c b

/-- Concludes a command with its response; a deferred one holds the carrier. -/
def State.conclude (s : State) (c : Carrier) (inv : Byte) (l : LineForm) (r : Resp) : State := match r with
  | .defer d => s.setCar c { s.car c with held := some (d, l), invoke := inv }
  | .later _ =>
    if s.owes c then s.send c inv l r
    else s.setCar c { s.car c with held := some (.token, l), invoke := inv, after := [r.packet c inv l] }
  | _ => s.send c inv l r

/-- Sends the responses that wait behind the one owed. -/
def State.flushAfter (s : State) (c : Carrier) : State :=
  let x := s.car c
  x.after.foldl (fun t b => t.emit c b) (s.setCar c { x with held := none, after := [] })

/-- The deferred response of a carrier is sent, then those that follow it (R131). -/
def State.release (s : State) (c : Carrier) (r : Resp) : State :=
  let x := s.car c
  match x.held with
  | none => s
  | some (_, l) =>
    let s1 := if r.code = 0 then s else s.bump F.CMD_LINES_ERRORS 1
    (s1.setCar c { s1.car c with after := r.packet c x.invoke l :: x.after }).flushAfter c

/-- The last commit that has closed holds the identifier state of every token accepted (R338). -/
def State.tokensKept (s : State) : Bool :=
  [F.PAY_TKHWM, F.PAY_TKMAP_LO, F.PAY_TKMAP_HI].all (fun a => decide (sget regReset s.jrn.image.regs a = s.rd a))

/-- The answers of accepted tokens, in the Service window after the one that evaluated them, and not before the commit that records
them has closed (R338). -/
def State.releaseTokens (s : State) : State :=
  if !s.tokensKept then s
  else s.carriers.foldl (fun (t : State) c => match (t.car c).held with
    | some (.token, _) => t.flushAfter c
    | _ => t) s

/-- Runs a command of a line: `f` gives its response and its effect. `keep` says that the KEY LOAD buffer survives (R442). A line
without the CRC its carrier asks for is not executed, and does not count as such (R129). -/
def State.answer (s : State) (c : Carrier) (inv : Byte) (l : LineForm) (keep : Bool) (f : State → Resp × State) : State :=
  if !s.lineOk c then s
  else
    let s1 := if keep then s else s.dropKeyBuf c
    if s1.reqCrc c ∧ l.crc = false then s1.send c inv l (errResp 5)
    else
      let s2 := s1.bump F.CMD_LINES_LINES 1
      if s2.isHeld c then s2.send c inv l (errResp 4)
      else match f s2 with
        | (r, s3) => s3.conclude c inv l r

/-! ### The form of a line (R126 to R129, Table 4.5 steps 1 and 2) -/

/-- A tag: "#" and 1 to 8 letters or digits, then a space. Answers the tag and the rest; none where it is malformed. -/
def readTag (t : Text) : Option (Text × Text) :=
  let w := t.tail.takeWhile (fun c => c ≠ ' ')
  let rest := t.tail.drop w.length
  if 1 ≤ w.length ∧ w.length ≤ 8 ∧ w.all Char.isAlphanum ∧ rest ≠ [] then some (w, rest) else none

/-- A line without its CRC suffix, and whether it carries one: none for a stray "*" (E01), an inner none for a mismatch. -/
def readCrc (t : Text) : Option (Option (Text × Bool)) :=
  if !t.contains '*' then some (some (t, false))
  else
    let body := t.take (t.length - 5)
    let suf := t.drop (t.length - 5)
    if 5 ≤ t.length ∧ suf.head? = some '*' ∧ !body.contains '*' then
      match readNat 16 suf.tail with
      | some v => some (if crc16Bytes (textBytes body) = v then some (body, true) else none)
      | none => none
    else none

/-- The form and the tokens of a line, with the code of the first check of steps 1 and 2 that fails. -/
def State.parseForm (s : State) (c : Carrier) (t : Text) : Nat × LineForm × List Text :=
  let bare : LineForm := match (if t.head? = some '#' then readTag t else none) with
    | some (g, _) => ⟨g, false⟩
    | none => ⟨[], false⟩
  match readCrc t with
  | none => (1, bare, [])
  | some none => (5, bare, [])
  | some (some (body, crc)) =>
    let form : LineForm := ⟨bare.tag, crc⟩
    if s.reqCrc c ∧ crc = false then (5, form, [])
    else if body.head? = some '#' then
      match readTag body with
      | none => (5, ⟨[], crc⟩, [])
      | some (g, rest) => (if tokens rest [] = [] then 1 else 0, ⟨g, crc⟩, tokens rest [])
    else (if tokens body [] = [] then 1 else 0, form, tokens body [])

/-! ### Receiving (R77, R117, R118, R123, R124, R131) -/

/-- Shows whether the carriers are awake (CMD_STAT). -/
def State.showCarriers (s : State) : State :=
  (s.putB F.CMD_STAT_UARTAWAKE s.cmd.uart.awake).put F.CMD_STAT_OPTSTATE
    (if !s.cmd.opt.awake then 0 else if s.inSession then 2 else 1)

/-- A falling edge on the receive ball of a sleeping carrier wakes it, and the core with it; the receiver is ready 1 ms later. -/
def State.wakeCarrier (s : State) (c : Carrier) : State :=
  if s.listening c then
    (s.setCar c { s.car c with awake := true, readyAt := s.uptime + millis 1, lastChar := s.uptime }).showCarriers.settlePower
  else s

/-- Whether the carrier has a receiver. -/
def hasReceiver : Carrier → Bool
  | .tunnel _ => false
  | _ => true

/-- Whether the carrier is awake. -/
def State.isAwake (s : State) (c : Carrier) : Bool := (s.car c).awake

/-- CARRIER_WAKE (R77, R117). -/
def execCarrierWake (dt : Nat) (c : Carrier) (s : State) : Host.Outcome State Fault Refusal :=
  let s1 := s.advance dt
  .next (if hasReceiver c ∧ s1.isAwake c = false then s1.wakeCarrier c else s1)

/-- Falls asleep: the session ends and a partly received line is discarded (R117, R121). -/
def State.sleepCarrier (s : State) (c : Carrier) : State :=
  let s1 := s.endSessionOn c
  let s2 := s1.setCar c { s1.car c with awake := false, rx := [], bad := false, lastCr := false, slash := false, brk := 0 }
  let s3 := if c = .optical then { s2 with cmd := { s2.cmd with sign := .waiting } } else s2
  s3.showCarriers.settlePower

/-- The idle time of a carrier in cycles. -/
def State.idleTime (s : State) (c : Carrier) : Nat :=
  secs (match c with | .uart => s.get F.CMD_UART_IDLE | _ => s.get F.CMD_OPT_IDLE)

/-- CARRIER_IDLE (R117): no character for IDLE s. -/
def execCarrierIdle (dt : Nat) (c : Carrier) (s : State) : Host.Outcome State Fault Refusal :=
  if hasReceiver c ∧ s.isAwake c then .next ((s.passTo dt ((s.car c).lastChar + s.idleTime c)).sleepCarrier c)
  else .next (s.advance dt)

/-- GPIO_WAKE (R65, R79): a falling edge on a ball of function 7 wakes the core from SLEEP. -/
def execGpioWake (dt : Nat) (ball : Fin 12) (s : State) : Host.Outcome State Fault Refusal :=
  let s1 := s.advance dt
  .next (if s1.vioOk ∧ s1.get (F.MGMT_GPIO_FUNC ball.val) = 7 then s1.wakeCore else s1)

/-- Echo (R124). -/
def State.echo (s : State) (c : Carrier) (b : List Byte) : State :=
  if (match c with | .uart => s.flag F.CMD_UART_ECHO | _ => s.flag F.CMD_OPT_ECHO) then s.emit c b else s

/-- How a complete line is received (State: the first byte of a queued line). A buffer that holds an unexecuted line takes
no other (R131). -/
def State.lineKind (s : State) (c : Carrier) : Nat :=
  let x := s.car c
  if x.bad then 1
  else if x.lines.any (fun e => decide ((e.1.headD 0#8).toNat % 128 = 0 ∨ (e.1.headD 0#8).toNat % 128 = 3)) then 2
  else if s.isHeld c then 3 else 0

/-- Whether a queued line is one of LOG, whose export is the work of the LOGX task while that task is enabled (Table 1.5, R37, log
entry 37). A tunnelled line follows its INVOKE and its protection. -/
def State.isLogLine (s : State) (c : Carrier) (e : List Byte) : Bool :=
  s.ticking && s.taskEnabled 3 && decide ((e.headD 0#8).toNat % 128 = 0)
    && (match s.parseForm c (bytesText (e.drop (match c with | .tunnel _ => 3 | _ => 1))) with
      | (0, _, w :: _) => decide (upper w = txt "LOG")
      | _ => false)

/-- A line joins its carrier's buffer, in a record of ring 6, and waits for its task. -/
def State.queueLine (s : State) (c : Carrier) (kind : Nat) (body : List Byte) : State :=
  let e := byte kind :: body
  let (h, s1) := if (s.car c).lines = [] then s.lineMark else ((s.car c).rxHead, s)
  let s2 := s1.setCar c { s1.car c with lines := (s1.car c).lines ++ [(e, s1.uptime)], rxHead := h }
  s2.ready (if s2.isLogLine c e then 3 else 2)

/-- A terminator: an empty line is ignored; any other queues for the CMD task. -/
def State.endLine (s : State) (c : Carrier) : State :=
  let x := s.car c
  let s1 := s.setCar c { x with rx := [], bad := false }
  if x.rx = [] ∧ x.bad = false then s1 else s1.queueLine c (s.lineKind c) x.rx

/-- The break message: SOH "B0" ETX and its check character, the XOR of its characters after SOH (R121). -/
def breakText : List Byte := [0x01#8, 0x42#8, 0x30#8, 0x03#8, 0x71#8]

/-- The session on the optical carrier ends; it returns to 300 baud and waits for a request (R121). -/
def State.endOptical (s : State) : State :=
  let s1 := s.endSessionOn .optical
  let s2 := s1.setCar .optical { s1.car .optical with rx := [], bad := false, lastCr := false, slash := false, brk := 0 }
  ({ s2 with cmd := { s2.cmd with sign := .waiting } }).showCarriers

/-- How many characters of a break message have arrived, one further character on. -/
def breakNext (k : Nat) (ch : Byte) : Nat :=
  if breakText[k]? = some ch then k + 1 else if ch = 0x01#8 then 1 else 0

/-- One character of a line (R123, R124). R123 does not say which of its rules wins where Ctrl-C arrives within a line already
invalid: here the line is discarded without an answer (DESIGN CHOICE, log entry 116). -/
def State.takeChar (s : State) (c : Carrier) (ch : Byte) : State :=
  let x := s.car c
  let n := ch.toNat
  if n = 0x0D ∨ n = 0x0A then
    if n = 0x0A ∧ x.lastCr then s.setCar c { x with lastCr := false }
    else
      let s1 := s.setCar c { x with lastCr := decide (n = 0x0D) }
      (s1.echo c crlf).endLine c
  else
    let y := { x with lastCr := false }
    if n = 0x08 ∨ n = 0x7F then
      if y.rx = [] ∨ y.bad then s.setCar c y
      else (s.setCar c { y with rx := y.rx.dropLast }).echo c [0x08#8, 0x20#8, 0x08#8]
    else if n = 0x03 then s.setCar c { y with rx := [], bad := false }
    else if 0x80 ≤ n then s.setCar c { y with bad := true }
    else if n < 0x20 ∨ y.bad then s.setCar c y
    else if y.rx.length = 255 then s.setCar c { y with bad := true }
    else (s.setCar c { y with rx := y.rx ++ [ch] }).echo c [ch]

/-! ### The optical sign-on (R119 to R121) -/

/-- The device identifier as 16 hexadecimal digits. -/
def State.devidText (s : State) : Text := hexN 8 (s.rd F.MGMT_DEVID_HI).toNat ++ hexN 8 (s.rd F.MGMT_DEVID_LO).toNat

/-- Replaces the stage of the sign-on. -/
def State.setSign (s : State) (x : SignOn) : State := ({ s with cmd := { s.cmd with sign := x } }).showCarriers

/-- A request message is complete: one without an address, or with the device's own, is to be answered. -/
def State.signRequest (s : State) (address : Text) : State :=
  if s.inSession then s
  else if address = [] ∨ upper address = s.devidText then s.setSign (.requested s.uptime)
  else s

/-- SIGN_ON_REQUEST: the request's LF has arrived; its first character wakes a sleeping carrier. -/
def execSignOnRequest (dt : Nat) (address : Text) (s : State) : Host.Outcome State Fault Refusal :=
  let s1 := s.advance dt
  if s1.listening .optical then
    let s2 := s1.setCar .optical { s1.car .optical with awake := true, lastChar := s1.uptime, rx := [] }
    .next (s2.showCarriers.settlePower.signRequest address)
  else .next s1

/-- The identification: "/", the manufacturer code, Z, "IRL9640" CR LF. -/
def State.identText (s : State) : List Byte :=
  textBytes ['/'] ++ [byte (s.get F.CMD_OPTID_CHAR1), byte (s.get F.CMD_OPTID_CHAR2), byte (s.get F.CMD_OPTID_CHAR3)]
    ++ [byte (48 + s.get F.CMD_OPT_MAXBAUD)] ++ textBytes (txt "IRL9640") ++ crlf

/-- IDENTIFICATION: 200 ms or more after the request the identification is sent at 300 baud. Its end is that of its last
character. -/
def execIdentification (dt : Nat) (s : State) : Host.Outcome State Fault Refusal :=
  match s.cmd.sign with
  | .requested t =>
    let s1 := s.passTo dt (t + millis 200)
    if s1.ticking then
      let b := s1.identText
      .next ((s1.emit .optical b).setSign (.identified (s1.uptime + 32768 * 10 * b.length / 300)))
    else .next s1
  | _ => .next (s.advance dt)

/-- An option select: mode 6 at an offered rate, in time, opens an ACL session as Public 300 ms later with "OK" at the rate
selected; any other returns the carrier to waiting. -/
def State.takeOption (s : State) (sent : Nat) (z mode : Char) : State :=
  let n := z.toNat - 48
  if 48 ≤ z.toNat ∧ n ≤ s.get F.CMD_OPT_MAXBAUD ∧ mode = '6' ∧ s.uptime ≤ sent + millis 1500 then
    let s1 := (s.advance (millis 300)).endSessionOn .optical
    let s2 := s1.setCar .optical { s1.car .optical with rx := [], bad := false, lastCr := false, slash := false, brk := 0 }
    (s2.setSign (.session n)).emit .optical (textBytes (txt "OK") ++ crlf)
  else s.setSign .waiting

/-- OPTION_SELECT. -/
def execOptionSelect (dt : Nat) (z mode : Char) (s : State) : Host.Outcome State Fault Refusal :=
  let s1 := s.advance dt
  match s1.cmd.sign with
  | .identified t =>
    if s1.listening .optical then
      let s2 := s1.setCar .optical { s1.car .optical with lastChar := s1.uptime }
      .next (s2.takeOption t z mode)
    else .next s1
  | _ => .next s1

/-- OPTION_SELECT_TIMEOUT: 1,500 ms after the identification the carrier returns to waiting. -/
def execOptionSelectTimeout (dt : Nat) (s : State) : Host.Outcome State Fault Refusal :=
  match s.cmd.sign with
  | .identified t => .next ((s.passTo dt (t + millis 1500)).setSign .waiting)
  | _ => .next (s.advance dt)

/-- BREAK: the break message ends the optical session. -/
def execBreakMessage (dt : Nat) (s : State) : Host.Outcome State Fault Refusal :=
  let s1 := s.advance dt
  .next (if s1.listening .optical ∧ s1.inSession then s1.endOptical else s1)

/-- A character of the sign-on: a complete request or option select takes effect at its LF. A request without its "/" is accepted
only where that was the wake character (R120). -/
def State.signChar (s : State) (ch : Byte) : State :=
  let x := s.car .optical
  let t := bytesText x.rx
  if ch = 0x0A#8 then
    let s1 := s.setCar .optical { x with rx := [], slash := false }
    let r := if t.head? = some '/' then t.tail else t
    match s1.cmd.sign, t with
    | .identified e, ['\x06', '0', z, m, '\r'] => s1.takeOption e z m
    | _, _ =>
      if (x.slash ∨ t.head? = some '/') ∧ r.head? = some '?' ∧ r.drop (r.length - 2) = ['!', '\r'] ∧ 3 ≤ r.length then
        s1.signRequest ((r.drop 1).take (r.length - 3))
      else s1
  else if 64 ≤ x.rx.length then s.setCar .optical { x with rx := [] }
  else s.setCar .optical { x with rx := x.rx ++ [ch] }

/-- A character discarded after a wake, and whether it was "/" (R118, R120). -/
def State.noteSlash (s : State) (c : Carrier) (b : Byte) : State := s.setCar c { s.car c with slash := decide (b = 0x2F#8) }

/-- A character of a session on the optical port: of a line, and of a break message once that is whole, whose characters are taken as
those of a line until then (R121, R123; DEDUCED, log entry 116). -/
def State.optChar (s : State) (b : Byte) : State :=
  let k := breakNext (s.car .optical).brk b
  if k = 5 then s.endOptical
  else
    let s1 := s.takeChar .optical b
    s1.setCar .optical { s1.car .optical with brk := k }

/-- A character (R77, R118, R123, R124): it wakes a sleeping carrier and is discarded, as is one within the 1 ms that follows;
otherwise it belongs to a line, or to the sign-on. 7E1 carries 7 bits. -/
def State.receiveChar (s : State) (c : Carrier) (ch : Byte) : State :=
  let seven := decide (c = .optical) || s.flag F.CMD_UART_FMT
  let b := if seven then byte (ch.toNat % 128) else ch
  if !(hasReceiver c && s.listening c) then s
  else if s.isAwake c = false then (s.wakeCarrier c).noteSlash c b
  else
    let s2 := s.setCar c { s.car c with lastChar := s.uptime }
    if s2.uptime < (s2.car c).readyAt then s2.noteSlash c b
    else if c ≠ .optical then s2.takeChar c b
    else if s2.inSession then s2.optChar b
    else s2.signChar b

end Sys2Proof.Machine
end

