-- ==== Sys2Proof/Machine/Objects.lean ====
section
/-! DEFINITION. The COSEM objects: the catalogue of Table 10.3, its classes, values on the link and in the command language,
and rights (R345 to R360). -/

namespace Sys2Proof.Machine

/-! ### Values (R353, Table 10.2) -/

/-- A value. `qty` is a quantity with its fraction bits and unit: an accumulator carries its integer part on the link, any
other its decimal value times 10,000. -/
inductive Val where
  | arr (l : List Val)
  | struct (l : List Val)
  | bool (b : Bool)
  | u32 (n : Nat)
  | octets (l : List Byte)
  | visible (t : Text)
  | int8 (i : Int)
  | u8 (n : Nat)
  | u16 (n : Nat)
  | enum (n : Nat)
  | qty (raw : Int) (frac : Nat) (acc signed : Bool) (unit : Text)
  deriving Repr

/-- The integer that a quantity carries on the link. -/
def qtyLink (raw : Int) (frac : Nat) (acc : Bool) : Int :=
  if acc then ((satNat 64 (raw.toNat / 2 ^ frac) : Nat) : Int) else roundDiv (raw * 10000) (2 ^ frac)

mutual
/-- A-XDR encoding, most significant byte first. -/
def Val.enc : Val → List Byte
  | .arr l => 0x01#8 :: byte l.length :: encAll l
  | .struct l => 0x02#8 :: byte l.length :: encAll l
  | .bool b => [0x03#8, byte (b2n b)]
  | .u32 n => 0x06#8 :: bytesBE 4 n
  | .octets l => 0x09#8 :: byte l.length :: l
  | .visible t => 0x0A#8 :: byte t.length :: textBytes t
  | .int8 i => [0x0F#8, byte (ofSigned 8 i)]
  | .u8 n => [0x11#8, byte n]
  | .u16 n => 0x12#8 :: bytesBE 2 n
  | .enum n => [0x16#8, byte n]
  | .qty raw frac acc signed _ =>
    let v := qtyLink raw frac acc
    (if signed then 0x14#8 else 0x15#8) :: bytesBE 8 (ofSigned 64 v)
/-- The encodings of a list of values. -/
def encAll : List Val → List Byte
  | [] => []
  | v :: t => v.enc ++ encAll t
end

mutual
/-- The type of a value at zero (R360): strings of their length filled with zero, arrays empty. -/
def Val.zero : Val → Val
  | .arr _ => .arr []
  | .struct l => .struct (zeroAll l)
  | .bool _ => .bool false
  | .u32 _ => .u32 0
  | .octets l => .octets (zeros l.length)
  | .visible t => .visible (t.map (fun _ => Char.ofNat 0))
  | .int8 _ => .int8 0
  | .u8 _ => .u8 0
  | .u16 _ => .u16 0
  | .enum _ => .enum 0
  | .qty _ frac acc signed unit => .qty 0 frac acc signed unit
/-- A list of values at zero. -/
def zeroAll : List Val → List Val
  | [] => []
  | v :: t => v.zero :: zeroAll t
end

mutual
/-- A value in the command language; a string of octets in hexadecimal, the elements of a structure apart by spaces (log
entry 33). -/
def Val.acl : Val → Text
  | .arr l => aclAll l
  | .struct l => aclAll l
  | .bool b => decText (b2n b)
  | .u32 n => decText n
  | .octets l => (l.map (fun b => hexN 2 b.toNat)).flatten
  | .visible t => t
  | .int8 i => intText i
  | .u8 n => decText n
  | .u16 n => decText n
  | .enum n => decText n
  | .qty raw frac _ _ unit => fixedText raw frac ++ (if unit = [] then [] else ' ' :: unit)
/-- The texts of a list of values. -/
def aclAll : List Val → Text
  | [] => []
  | [v] => v.acl
  | v :: t => v.acl ++ ' ' :: aclAll t
end

/-- The response of the command language to a read: one data line per element of a structure or an array (R346). -/
def Val.resp : Val → Resp
  | .arr l => .data (l.map Val.acl)
  | .struct l => .data (l.map Val.acl)
  | v => .ok v.acl

/-- Reads values of A-XDR, `k` bounds the depth; answers the rest. Only the types that a write takes are read. -/
def readVals : Nat → Nat → List Byte → Option (List Val × List Byte)
  | 0, _, _ => none
  | _ + 1, 0, b => some ([], b)
  | k + 1, n + 1, b =>
    let one : Option (Val × List Byte) := match b with
      | 0x01#8 :: c :: r => (readVals k c.toNat r).map (fun x => (.arr x.1, x.2))
      | 0x02#8 :: c :: r => (readVals k c.toNat r).map (fun x => (.struct x.1, x.2))
      | 0x03#8 :: c :: r => some (.bool (decide (c ≠ 0#8)), r)
      | 0x06#8 :: r => if 4 ≤ r.length then some (.u32 (natBE (r.take 4)), r.drop 4) else none
      | 0x09#8 :: c :: r => if c.toNat ≤ r.length then some (.octets (r.take c.toNat), r.drop c.toNat) else none
      | 0x0A#8 :: c :: r => if c.toNat ≤ r.length then some (.visible (bytesText (r.take c.toNat)), r.drop c.toNat) else none
      | 0x0F#8 :: c :: r => some (.int8 (toSigned 8 c.toNat), r)
      | 0x11#8 :: c :: r => some (.u8 c.toNat, r)
      | 0x12#8 :: c :: d :: r => some (.u16 (natBE [c, d]), r)
      | 0x16#8 :: c :: r => some (.enum c.toNat, r)
      | _ => none
    match one with
    | none => none
    | some (v, r) => (readVals k n r).map (fun x => (v :: x.1, x.2))

/-- One value that takes all of the bytes. -/
def readVal (b : List Byte) : Option Val := match readVals (b.length + 2) 1 b with
  | some ([v], []) => some v
  | _ => none

/-- A number from any unsigned type. -/
def Val.num : Val → Option Nat
  | .u8 n => some n
  | .u16 n => some n
  | .u32 n => some n
  | .enum n => some n
  | _ => none

/-! ### The catalogue (R354, Table 10.3) -/

/-- What an object holds. -/
inductive ObjKind where
  | clock | devid | descr | mchk | statusWord | almanac | special | actuator | legalLog | credit | payState | lastToken
  | deposit (n : Nat)
  | billReg (x n : Nat)
  | flow (x : Nat) | power (x : Nat) | temp (x i : Nat) | press (x : Nat) | conv (x : Nat) | xh2 (x : Nat)
  | demand (x d : Nat)
  | maxDemand (x d : Nat)
  | snapshots (x : Nat)
  deriving DecidableEq, Repr

/-- The interface class of an object. -/
def ObjKind.cls : ObjKind → Nat
  | .clock => 8
  | .almanac => 20
  | .special => 11
  | .actuator => 70
  | .legalLog | .snapshots _ => 7
  | .devid | .descr | .mchk | .statusWord | .payState | .lastToken | .deposit _ | .xh2 _ => 1
  | .demand _ _ => 5
  | .maxDemand _ _ => 4
  | .credit | .billReg _ _ | .flow _ | .power _ | .temp _ _ | .press _ | .conv _ => 3

/-- The attributes of a class (Table 10.1). -/
def attrsOf : Nat → List Nat
  | 1 => [1, 2]
  | 3 => [1, 2, 3]
  | 4 => [1, 2, 3, 4, 5]
  | 5 => [1, 2, 3, 4, 5, 6, 7, 8, 9]
  | 7 => [1, 2, 3, 4, 5, 6, 7, 8]
  | 8 => [1, 2, 3, 4, 5, 6, 7, 8, 9]
  | 11 => [1, 2]
  | 20 => [1, 2, 3, 4, 5]
  | 70 => [1, 2, 3]
  | _ => []

/-- The methods of a class. -/
def methodsOf : Nat → List Nat
  | 11 => [1, 2]
  | 70 => [1, 2]
  | _ => []

/-- The register of Table 9.1 that groups C, D, E name for a gas (or not), with e = 0 the total. -/
def billIndex (gas : Bool) (c d e : Nat) : Option Nat :=
  let fwd (tot tar : Nat) : Option Nat := if e = 0 then some tot else if e ≤ 8 then some (tar + e - 1) else none
  match c, d with
  | 1, 8 => if gas then fwd 3 32 else fwd 1 16
  | 2, 8 => if gas then none else fwd 2 24
  | 3, 8 => fwd 0 8
  | 3, 9 => if e = 0 then some 40 else none
  | 1, 9 => if gas ∧ e = 0 then some 41 else none
  | 96, 128 =>
    if e = 20 then some 42 else if e = 21 ∧ gas then some 43
    else if 22 ≤ e ∧ e ≤ 27 then some (48 + e - 22)
    else if 30 ≤ e ∧ e ≤ 33 then some (44 + e - 30) else none
  | _, _ => none

/-- The other objects of a meter point. -/
def mpObject (gas : Bool) (x c d e : Nat) : Option ObjKind :=
  match c, d with
  | 3, 7 => if e = 0 then some (.flow x) else none
  | 1, 7 => if e = 0 ∧ !gas then some (.power x) else none
  | 98, 1 => if e = 0 then some (.snapshots x) else none
  | 96, 128 =>
    if 40 ≤ e ∧ e ≤ 42 then some (.temp x (e - 40))
    else if e = 43 ∧ gas then some (.press x) else if e = 44 ∧ gas then some (.conv x) else if e = 45 ∧ gas then some (.xh2 x)
    else if 50 ≤ e ∧ e ≤ 52 then some (.demand x (e - 50))
    else if 60 ≤ e ∧ e ≤ 62 then some (.maxDemand x (e - 60)) else none
  | _, _ => none

/-- The object of an OBIS code; group A of a meter point's object must be that of its medium. -/
def State.objectAt (s : State) (o : List Nat) : Option ObjKind :=
  match o with
  | [0, 0, 1, 0, 0, 255] => some .clock
  | [0, 0, 96, 1, 0, 255] => some .devid
  | [0, 0, 96, 1, 2, 255] => some .descr
  | [0, 0, 96, 1, 3, 255] => some .mchk
  | [0, 0, 96, 5, 0, 255] => some .statusWord
  | [0, 0, 13, 0, 0, 255] => some .almanac
  | [0, 0, 11, 0, 0, 255] => some .special
  | [0, 0, 96, 3, 10, 255] => some .actuator
  | [0, 0, 99, 98, 0, 255] => some .legalLog
  | [0, 0, 96, 128, e, 255] =>
    if e = 1 then some .credit else if e = 2 then some .payState else if e = 3 then some .lastToken
    else if 10 ≤ e ∧ e ≤ 13 then some (.deposit (e - 10)) else none
  | [a, b, c, d, e, 255] =>
    if b = 1 ∨ b = 2 then
      let x := b - 1
      let gas := s.isGas x
      if a = (if gas then 7 else 6) then
        match billIndex gas c d e with
        | some n => some (.billReg x n)
        | none => mpObject gas x c d e
      else none
    else none
  | _ => none

/-- The lowest role that may read an object (Table 10.4). -/
def ObjKind.readRank : ObjKind → Nat
  | .clock | .devid | .descr | .mchk | .statusWord | .credit | .payState | .flow _ | .power _ | .temp _ _ => 0
  | .billReg _ n => if n < 4 then 0 else 1
  | _ => 1

/-- The lowest role that may write to an object or invoke its methods. -/
def State.objWriteRank (s : State) (k : ObjKind) : Nat := if k = .clock ∧ s.untrusted then 2 else 3

/-! ### Reading -/

/-- The unit of a register of Table 9.1: 0 volume, 1 energy, 2 base volume, 3 time. -/
def billUnit (n : Nat) : Nat :=
  if n = 1 ∨ n = 2 ∨ (16 ≤ n ∧ n < 32) ∨ n = 45 ∨ n = 46 then 1
  else if n = 3 ∨ (32 ≤ n ∧ n < 40) ∨ n = 41 ∨ n = 43 ∨ n = 47 then 2
  else if 48 ≤ n then 3 else 0

/-- The unit in the command language. -/
def billUnitText (n : Nat) : Text := txt (match billUnit n with | 1 => "J" | 3 => "s" | _ => "uL")

/-- The device description (R146). -/
def State.deviceText (s : State) : Text :=
  txt "IRL9640-BG196 B0 " ++ decText (s.get F.MGMT_ID_FWMAJ) ++ ['.'] ++ decText (s.get F.MGMT_ID_FWMIN)

/-- What ends every date-time: the deviation, not specified, and the status, whose bit 0 is OSF (R348). -/
def State.dateTail (s : State) : List Byte := [0x80#8, 0x00#8, byte (b2n s.untrusted)]

/-- A date-time octet-string (R348). -/
def State.dateTime (s : State) (sec hundredths : Nat) : List Byte :=
  let c := secToCal sec
  bytesBE 2 (2000 + c.year) ++ [byte c.month, byte c.day, byte c.wday, byte c.hour, byte c.minute, byte c.second,
    byte hundredths] ++ s.dateTail

/-- A date-time with nothing specified. -/
def State.noDateTime (s : State) : List Byte := List.replicate 9 0xFF#8 ++ s.dateTail

/-- scaler_unit. -/
def scalerUnit (scaler : Int) (unit : Nat) : Val := .struct [.int8 scaler, .enum unit]

/-- The quantity of an object of class 3, 4 or 5, with its scaler and unit. -/
def State.objQty (s : State) (k : ObjKind) : Val × Val :=
  match k with
  | .billReg x n =>
    (.qty (s.reg96 x n) 16 true false (billUnitText n),
     match billUnit n with | 1 => scalerUnit 0 25 | 2 => scalerUnit (-9) 14 | 3 => scalerUnit 0 7 | _ => scalerUnit (-9) 13)
  | .flow x => (.qty (s.getI (F.MP_FLOWW_FLOW x)) 4 false true (txt "L/h"), scalerUnit (-7) 15)
  | .power x => (.qty (s.getI (F.MP_POWER_POWER x)) 4 false true (txt "W"), scalerUnit (-4) 27)
  | .temp x i =>
    let f := if i = 0 then F.MP_TF_T x else if i = 1 then F.MP_TR_T x else F.MP_TAC_T x
    (.qty (s.getI f) 16 false true (txt "C"), scalerUnit (-4) 9)
  | .press x => (.qty (s.get (F.MP_PRESS_P x)) 8 false false (txt "Pa"), scalerUnit (-4) 23)
  | .conv x => (.qty (s.get (F.MP_CONV_C x)) 24 false false [], scalerUnit (-4) 255)
  | .credit => (.qty s.credit 16 false true [], scalerUnit (-4) (if s.get F.PAY_STAT_CMODE = 1 then 10 else 255))
  | .maxDemand x d => (.qty (s.get (F.BILL_MD_MD x d)) 4 false false (txt (if d = 0 then "L/h" else "W")),
      if d = 0 then scalerUnit (-7) 15 else scalerUnit (-4) 27)
  | .demand x d =>
    (.qty (demandOf d ((s.interval x).acc.getD d 0) s.demandLen) 4 false false (txt (if d = 0 then "L/h" else "W")),
      if d = 0 then scalerUnit (-7) 15 else scalerUnit (-4) 27)
  | _ => (.u8 0, .u8 0)

/-- The fields of a snapshot, offset and size (Table 9.3). -/
def snapshotFields : List (Nat × Nat) :=
  [(0, 4), (4, 4), (8, 4), (12, 1), (13, 1), (14, 1)] ++ (List.range 3).map (fun i => (16 + 8 * i, 8))
    ++ (List.range 24).map (fun i => (40 + 8 * i, 8)) ++ (List.range 7).map (fun i => (232 + 8 * i, 8))
    ++ (List.range 12).map (fun i => (288 + 4 * i, 4)) ++ [(380, 4)]

/-- A field of a record of little-endian fields as a value. -/
def fieldVal (b : List Byte) (p : Nat × Nat) : Val :=
  let v := natLE ((b.drop p.1).take p.2)
  if p.2 = 1 then .u8 v else if p.2 = 4 then .u32 v else if p.2 = 8 then .qty v 0 true false [] else .octets ((b.drop p.1).take p.2)

/-- A billing-period snapshot by its period number: the journal's until its rows are written. -/
def State.snapshotOf (s : State) (x period : Nat) : List Byte :=
  let a := snapshotAddr x (period % 24)
  match (s.jrn.hid.closing.filter (fun p => decide (p.addr = a))).getLast? with
  | some p => p.bytes
  | none => s.nvmBytes a 384

/-- The entries of a profile, and the fields of entry `i`, 0 the newest; none where it does not exist. -/
def State.profileEntries (s : State) : ObjKind → Nat
  | .legalLog => min 512 (s.get F.LOG_LSEQ_SEQ)
  | .snapshots _ => min 24 s.jrn.hid.period
  | _ => 0

/-- The capture-object values of entry `i` of a profile, 0 the newest. -/
def State.profileEntry (s : State) (k : ObjKind) (i : Nat) : Option (List Val) :=
  if s.profileEntries k ≤ i then none
  else match k with
    | .legalLog =>
      let b := s.nvmBytes (legalAddr (s.get F.LOG_LSEQ_SEQ - 1 - i)) 16
      some ([(0, 4), (4, 1), (5, 1), (6, 10)].map (fieldVal b))
    | .snapshots x => some (snapshotFields.map (fieldVal (s.snapshotOf x (s.jrn.hid.period - i))))
    | _ => none

/-- The capture objects of a profile: one for each field, named by its place (log entry 34). -/
def captureObjects (obis : List Nat) (n : Nat) : Val :=
  .arr ((List.range n).map (fun i => .struct [.u16 7, .octets (ofNats obis), .int8 2, .u16 (i + 1)]))

/-- The number of capture objects. -/
def ObjKind.fields : ObjKind → Nat
  | .legalLog => 4
  | .snapshots _ => snapshotFields.length
  | _ => 0

/-- Attributes 2 and up of a profile. -/
def State.profileAttr (s : State) (k : ObjKind) (obis : List Nat) : Nat → Option Val
  | 2 => some (.arr ((List.range (s.profileEntries k)).reverse.map (fun i => .struct ((s.profileEntry k i).getD []))))
  | 3 => some (captureObjects obis k.fields)
  | 4 => some (.u32 0)
  | 5 => some (.enum 1)
  | 6 => some (.arr [])
  | 7 => some (.u32 (s.profileEntries k))
  | 8 => some (.u32 (if k = .legalLog then 512 else 24))
  | _ => none

/-- Attributes of the Clock. -/
def State.clockAttr (s : State) : Nat → Option Val
  | 2 => some (.octets (s.dateTime s.sec (s.frac * 100 / 65536)))
  | 3 => some (.u16 0x8000)
  | 4 => some (.u8 (b2n s.untrusted))
  | 5 | 6 => some (.octets s.noDateTime)
  | 7 => some (.int8 0)
  | 8 => some (.bool false)
  | 9 => some (.enum 1)
  | _ => none

/-- The enabled seasons, the weeks and the day profiles as R350 maps them. -/
def State.calendarAttr (s : State) : Nat → Option Val
  | 2 => some (.octets (textBytes (txt "ALM")))
  | 3 => some (.arr (((List.range 4).filter (fun i => s.flag (F.ALM_SEASON_EN i))).map (fun i =>
      .struct [.octets [byte i],
        .octets ([0xFF#8, 0xFF#8, byte (s.get (F.ALM_SEASON_MONTH i)), byte (s.get (F.ALM_SEASON_DAY i))] ++ List.replicate 5 0xFF#8
          ++ s.dateTail),
        .octets [byte (s.get (F.ALM_SEASON_WEEK i))]])))
  | 4 => some (.arr ((List.range 8).map (fun w =>
      .struct (.octets [byte w] :: (List.range 7).map (fun d => .u8 (s.get (F.ALM_WEEK_DAYS w) / 16 ^ d % 16))))))
  | 5 => some (.arr ((List.range 16).map (fun p =>
      .struct [.u8 p, .arr (((List.range 8).filter (fun e => decide (e = 0) || s.flag (F.ALM_DAY_EN p e))).map (fun e =>
        .struct [.octets [byte (s.entryMinute p e / 60), byte (s.entryMinute p e % 60), 0#8, 0#8],
          .octets (ofNats [0, 0, 10, 0, 100, 255]), .u16 (s.get (F.ALM_DAY_TARIFF p e) + 1)]))])))
  | _ => none

/-- The enabled special days (R351). -/
def State.specialAttr (s : State) : Nat → Option Val
  | 2 => some (.arr (((List.range 64).filter (fun i => s.flag (F.ALM_SPEC_EN i))).map (fun i =>
      .struct [.u16 i,
        .octets (bytesBE 2 (if s.flag (F.ALM_SPEC_RECUR i) then 0xFFFF else 2000 + s.get (F.ALM_SPEC_YEAR i))
          ++ [byte (s.get (F.ALM_SPEC_MONTH i)), byte (s.get (F.ALM_SPEC_DAY i)), 0xFF#8]),
        .u8 (s.get (F.ALM_SPEC_PROFILE i))])))
  | _ => none

/-- Attributes of the Disconnect control (R352). -/
def State.controlAttr (s : State) : Nat → Option Val
  | 2 => some (.bool (decide (s.get F.PAY_ACT_STATE = 1)))
  | 3 => some (.enum (if s.get F.PAY_STAT_STATE = 5 ∨ s.flag F.PAY_STAT_REMOTE then 0 else if s.get F.PAY_STAT_STATE = 6 then 2 else 1))
  | _ => none

/-- Attributes of a demand register. -/
def State.demandAttr (s : State) (x d : Nat) : Nat → Option Val
  | 2 => some (s.objQty (.demand x d)).1
  | 3 => some (.qty (s.get (F.BILL_LD_DEM x d)) 4 false false (txt (if d = 0 then "L/h" else "W")))
  | 4 => some (s.objQty (.demand x d)).2
  | 5 => some (.u8 (bitsOf (s.rd (F.BILL_LFLG x)) 7 0))
  | 6 => some (.octets (s.dateTime (s.get (F.BILL_LEND_SEC x)) 0))
  | 7 => some (.octets (s.dateTime (s.interval x).start 0))
  | 8 => some (.u32 s.demandLen)
  | 9 => some (.u16 1)
  | _ => none

/-- Attribute 2 of the Data objects. -/
def State.dataAttr (s : State) : ObjKind → Option Val
  | .devid => some (.octets (ofNats s.devid))
  | .descr => some (.visible s.deviceText)
  | .mchk => some (.octets (bytesBE 4 (s.rd F.MGMT_MCHK).toNat))
  | .statusWord => some (.u32 s.statusWord)
  | .payState => some (.u8 (s.get F.PAY_STAT_STATE))
  | .lastToken => some (.u32 (s.rd F.PAY_TKLAST).toNat)
  | .deposit n => some (.struct [.bool (s.flag (F.SHOT_P_DEP_FLAG n)), .u16 (s.get (F.SHOT_P_DEP_RATIO n))])
  | .xh2 x => some (.u16 (s.get (F.MP_XH2E_XH2 x)))
  | _ => none

/-- Attribute `a` of an object; none where Table 10.1 does not list it. -/
def State.attr (s : State) (k : ObjKind) (obis : List Nat) (a : Nat) : Option Val :=
  if a = 1 then some (.octets (ofNats obis))
  else if !(attrsOf k.cls).contains a then none
  else match k with
    | .clock => s.clockAttr a
    | .almanac => s.calendarAttr a
    | .special => s.specialAttr a
    | .actuator => s.controlAttr a
    | .legalLog => s.profileAttr k obis a
    | .snapshots _ => s.profileAttr k obis a
    | .demand x d => s.demandAttr x d a
    | .maxDemand x d =>
      if a = 4 then some (.u8 0) else if a = 5 then some (.octets (s.dateTime (s.get (F.BILL_MDT_SEC x d)) 0))
      else some (if a = 2 then (s.objQty k).1 else (s.objQty k).2)
    | .credit | .billReg _ _ | .flow _ | .power _ | .temp _ _ | .press _ | .conv _ =>
      some (if a = 2 then (s.objQty k).1 else (s.objQty k).2)
    | _ => s.dataAttr k

/-- A read by a role: without the right, the type at zero (R360). -/
def State.readAttr (s : State) (rank : Nat) (obis : List Nat) (a : Nat) : Option Val :=
  match s.objectAt obis with
  | none => none
  | some k => (s.attr k obis a).map (fun v => if k.readRank ≤ rank then v else v.zero)

/-! ### Writing -/

/-- The date and time of a Clock write, every field specified (R349): the code of the first check that fails, or the words of
RTC_SETD and RTC_SETT. -/
def clockWords (b : List Byte) : Option (Word × Word) :=
  let n (i : Nat) : Nat := (b.getD i 0#8).toNat
  let y := natBE (b.take 2)
  if b.length ≠ 12 ∨ y < 2000 ∨ 2255 < y ∨ 15 < n 2 ∨ 31 < n 3 ∨ 31 < n 5 ∨ 63 < n 6 ∨ 63 < n 7 then none
  else some (word ((y - 2000) * 2 ^ 16 + n 2 * 2 ^ 8 + n 3), word (n 5 * 2 ^ 16 + n 6 * 2 ^ 8 + n 7))

/-- Writes a calendar time through RTC_SETD and RTC_SETT in one Service window (R284, R285, R349); E04 while a time write is in
progress. -/
def State.setCalendar (s : State) (w : Word × Word) : Nat × State :=
  if s.flag F.RTC_STAT_WBUSY then (4, s) else (0, (s.holdDate w.1).setTimeOfDay w.2)

/-- A word of ALM_SEASONs. -/
def seasonWord (month day week : Nat) : Word := word (2 ^ 31 + week * 2 ^ 16 + month * 2 ^ 8 + day)

/-- A season of an attribute write: its index and its word. -/
def readSeason : Val → Option (Nat × Word)
  | .struct [.octets [i], .octets d, .octets [w]] =>
    let m := (d.getD 2 0#8).toNat
    let dd := (d.getD 3 0#8).toNat
    if i.toNat < 4 ∧ d.length = 12 ∧ 1 ≤ m ∧ m ≤ 12 ∧ 1 ≤ dd ∧ dd ≤ 31 ∧ w.toNat < 8 then some (i.toNat, seasonWord m dd w.toNat)
    else none
  | _ => none

/-- A week of an attribute write. -/
def readWeek : Val → Option (Nat × Word)
  | .struct (.octets [i] :: days) =>
    match days.mapM Val.num with
    | some l => if i.toNat < 8 ∧ l.length = 7 ∧ l.all (fun d => decide (d < 16)) then
        some (i.toNat, word (sumNat (l.zipIdx.map (fun p => p.1 * 16 ^ p.2)))) else none
    | none => none
  | _ => none

/-- An action of a day profile: its minute of the day and its tariff. -/
def readAction : Val → Option (Nat × Nat)
  | .struct [.octets t, .octets name, sel] =>
    let h := (t.getD 0 0#8).toNat
    let m := (t.getD 1 0#8).toNat
    match sel.num with
    | some n => if t.length = 4 ∧ h < 24 ∧ m < 60 ∧ name = ofNats [0, 0, 10, 0, 100, 255] ∧ 1 ≤ n ∧ n ≤ 8 then
        some (60 * h + m, n - 1) else none
    | none => none
  | _ => none

/-- A word of ALM_DAYp_e. -/
def dayWord (a : Nat × Nat) : Word := word (2 ^ 31 + a.2 * 2 ^ 16 + (a.1 / 60) * 2 ^ 8 + a.1 % 60)

/-- A day profile: its index and its entries, that of 00:00 first (R311, R350). -/
def readDay : Val → Option (Nat × List Word)
  | .struct [p, .arr acts] =>
    match p.num, acts.mapM readAction with
    | some i, some l =>
      match l.find? (fun a => decide (a.1 = 0)) with
      | some z => if i < 16 ∧ l.length ≤ 8 then some (i, (z :: l.erase z).map dayWord) else none
      | none => none
    | _, _ => none
  | _ => none

/-- A special day: its index and its word (R351). -/
def readSpecial : Val → Option (Nat × Word)
  | .struct [i, .octets d, p] =>
    let y := natBE (d.take 2)
    let m := (d.getD 2 0#8).toNat
    let dd := (d.getD 3 0#8).toNat
    match i.num, p.num with
    | some n, some q =>
      if n < 64 ∧ d.length = 5 ∧ 1 ≤ m ∧ m ≤ 12 ∧ 1 ≤ dd ∧ dd ≤ 31 ∧ q < 16 ∧ (y = 0xFFFF ∨ (2000 ≤ y ∧ y ≤ 2255)) then
        some (n, word (2 ^ 31 + (if y = 0xFFFF then 2 ^ 30 else (y - 2000) * 2 ^ 20) + m * 2 ^ 16 + dd * 2 ^ 11 + q))
      else none
    | _, _ => none
  | _ => none

/-- Stages the words of a table; an entry that the list omits is disabled. -/
def State.stageTable (s : State) (addr : Nat → Nat) (n : Nat) (l : List (Nat × Word)) : State :=
  (List.range n).foldl (fun (t : State) i => match l.find? (fun p => decide (p.1 = i)) with
    | some (_, w) => t.stage (addr i) w
    | none => t.stageField ⟨addr i, 31, 31⟩ 0) s

/-- Stages the day profiles; the entries after those of a profile are disabled, and entry 0 always stays. -/
def State.stageDays (s : State) (l : List (Nat × List Word)) : State :=
  (List.range 16).foldl (fun (t : State) p =>
    let ws := match l.find? (fun x => decide (x.1 = p)) with | some (_, w) => w | none => []
    (List.range 8).foldl (fun (u : State) e => match ws[e]? with
      | some w => u.stage (F.ALM_DAY p e) w
      | none => if e = 0 then u else u.stageField (F.ALM_DAY_EN p e) 0) t) s

/-- Whether a list holds no number twice. -/
def distinctKeys {α : Type} (l : List (Nat × α)) : Bool := distinct (l.map (fun p => p.1))

/-- A write of an attribute of the Activity calendar (R350). -/
def State.writeCalendar (s : State) (a : Nat) (v : Val) : Nat × State :=
  match v with
  | .arr l =>
    if a = 3 then match l.mapM readSeason with
      | some t => if distinctKeys t then (0, s.stageTable F.ALM_SEASON 4 t) else (3, s)
      | none => (3, s)
    else if a = 4 then match l.mapM readWeek with
      | some t => if distinctKeys t then (0, t.foldl (fun (u : State) p => u.stage (F.ALM_WEEK p.1) p.2) s) else (3, s)
      | none => (3, s)
    else match l.mapM readDay with
      | some t => if distinctKeys t then (0, s.stageDays t) else (3, s)
      | none => (3, s)
  | _ => (3, s)

/-- Method 1 of the Special days table enables one entry; method 2 disables one (R351). -/
def State.specialInsert (s : State) (v : Val) : Nat × State := match readSpecial v with
  | some (i, w) => (0, s.stage (F.ALM_SPEC i) w)
  | none => (3, s)
def State.specialDelete (s : State) (v : Val) : Nat × State := match v.num with
  | some i => if i < 64 then (0, s.stageField (F.ALM_SPEC_EN i) 0) else (3, s)
  | none => (3, s)

/-- A write of an attribute that may be written: Clock 2, Special days 2, Activity calendar 3 to 5. -/
def State.writeAttr (s : State) (k : ObjKind) (a : Nat) (v : Val) : Nat × State :=
  match k, v with
  | .clock, .octets b => match clockWords b with
    | some w => s.setCalendar w
    | none => (3, s)
  | .special, .arr l => match l.mapM readSpecial with
    | some t => if distinctKeys t then (0, s.stageTable F.ALM_SPEC 64 t) else (3, s)
    | none => (3, s)
  | .almanac, _ => s.writeCalendar a v
  | _, _ => (3, s)

/-- Whether an attribute may be written (Table 10.1). -/
def ObjKind.writable (k : ObjKind) (a : Nat) : Bool :=
  decide ((k = .clock ∧ a = 2) ∨ (k = .special ∧ a = 2) ∨ (k = .almanac ∧ 3 ≤ a))

/-- Whether a write or a method would change configuration while it is held (R137). -/
def State.objBusy (s : State) (k : ObjKind) : Bool := decide (k = .special ∨ k = .almanac) && s.cfgBusy

/-- A SET by a role: E02 for an unknown name, then rights, then the value, then the resource (Table 4.5). A read-only attribute
takes a write without effect. -/
def State.setAttr (s : State) (rank : Nat) (obis : List Nat) (a : Nat) (v : Option Val) : Nat × State :=
  match s.objectAt obis with
  | none => (2, s)
  | some k =>
    if !(attrsOf k.cls).contains a then (2, s)
    else if !k.writable a ∨ rank < s.objWriteRank k then (0, s)
    else match v with
      | none => (1, s)
      | some x => match s.writeAttr k a x with
        | (0, s1) => if s.objBusy k then (4, s) else (0, s1)
        | (e, _) => (e, s)

/-- A method's effect. -/
def State.method (s : State) (k : ObjKind) (m : Nat) (v : Option Val) : Nat × State :=
  match k with
  | .actuator => if m = 1 then (0, s.remoteClose) else match s.remoteOpen with | (ok, s1) => (if ok then 0 else 6, s1)
  | .special => match v with
    | none => (1, s)
    | some x => if m = 1 then s.specialInsert x else s.specialDelete x
  | _ => (2, s)

/-- An ACTION by a role. -/
def State.invokeMethod (s : State) (rank : Nat) (obis : List Nat) (m : Nat) (v : Option Val) : Nat × State :=
  match s.objectAt obis with
  | none => (2, s)
  | some k =>
    if !(methodsOf k.cls).contains m then (2, s)
    else if rank < 3 then (0, s)
    else match s.method k m v with
      | (0, s1) => if s.objBusy k then (4, s) else (0, s1)
      | (e, _) => (e, s)

/-! ### The object service (R358 to R360) -/

/-- A response of the object service. -/
def State.objReply (s : State) (nb : Nat) (service : Nat) (invoke : Byte) (code : Nat) (data : List Byte) : State :=
  s.linkSend nb ([byte (service + 0x80), invoke, byte code] ++ data)

/-- The capture-object values from one on that fit within 224 bytes, `room` bytes of them. -/
def fitVals : Nat → List Val → List Val
  | _, [] => []
  | room, v :: t => if v.enc.length ≤ room then v :: fitVals (room - v.enc.length) t else []

/-- A GET with SELECT: entry, first capture object, count. -/
def State.selectEntry (s : State) (k : ObjKind) (sel : Nat × Nat × Nat) : Option Val :=
  match s.profileEntry k sel.1 with
  | none => none
  | some l =>
    let from1 := l.drop sel.2.1
    some (.arr (fitVals 222 (if sel.2.2 = 0 then from1 else from1.take sel.2.2)))

/-- The value of a GET over the link: a code, and the value with RESULT 0. A value longer than 224 bytes answers E09 (log
entry 35). -/
def State.linkGet (s : State) (rank cls : Nat) (obis : List Nat) (a : Nat) (sel : Option (Nat × Nat × Nat)) : Nat × List Byte :=
  match s.objectAt obis with
  | none => (2, [])
  | some k =>
    if k.cls ≠ cls ∨ !(attrsOf k.cls).contains a then (2, [])
    else if rank < k.readRank then
      (match s.attr k obis a with | some v => (0, v.zero.enc) | none => (2, []))
    else
      let v := match sel with
        | some q => if k.cls = 7 ∧ a = 2 then s.selectEntry k q else s.attr k obis a
        | none => s.attr k obis a
      match v with
      | none => (3, [])
      | some x => if 224 < x.enc.length then (9, []) else (0, x.enc)

/-- The role of a link message: its rank (R358). -/
def State.linkRank (s : State) (nb : Fin 32) (sec : Bool) : Nat := roleRank (s.linkRole nb.val sec)

/-- OBJECT_GET. -/
def State.objGet (s : State) (nb : Fin 32) (sec : Bool) (invoke : Byte) (cls : Nat) (obis : List Byte) (index : Nat)
    (sel : Option (Nat × Nat × Nat)) : State :=
  let (code, data) := s.linkGet (s.linkRank nb sec) cls (nats obis) index sel
  s.objReply nb.val 1 invoke code data

/-- Whether a class is that of the object; an unknown object has none. -/
def State.classOk (s : State) (cls : Nat) (obis : List Byte) : Bool := match s.objectAt (nats obis) with
  | some k => decide (k.cls = cls)
  | none => false

/-- OBJECT_SET. -/
def State.objSet (s : State) (nb : Fin 32) (sec : Bool) (invoke : Byte) (cls : Nat) (obis : List Byte) (index : Nat)
    (data : List Byte) : State :=
  if !s.classOk cls obis then s.objReply nb.val 2 invoke 2 []
  else
    let (code, s1) := s.setAttr (s.linkRank nb sec) (nats obis) index (readVal data)
    s1.objReply nb.val 2 invoke code []

/-- OBJECT_ACTION. -/
def State.objAction (s : State) (nb : Fin 32) (sec : Bool) (invoke : Byte) (cls : Nat) (obis : List Byte) (index : Nat)
    (data : List Byte) : State :=
  if !s.classOk cls obis then s.objReply nb.val 3 invoke 2 []
  else
    let (code, s1) := s.invokeMethod (s.linkRank nb sec) (nats obis) index (readVal data)
    s1.objReply nb.val 3 invoke code []

/-- OBJECT_GET (R359, R360): requests run in a Service window. -/
def execObjectGet (nb : Fin 32) (sec : Bool) (invoke : Byte) (cls : Nat) (obis : List Byte) (index : Nat)
    (select : Option (Nat × Nat × Nat)) (s : State) : Host.Outcome State Fault Refusal :=
  .next (if s.serviceOpen then s.objGet nb sec invoke cls obis index select else s)

/-- OBJECT_SET (R359, R360). -/
def execObjectSet (nb : Fin 32) (sec : Bool) (invoke : Byte) (cls : Nat) (obis : List Byte) (index : Nat) (data : List Byte)
    (s : State) : Host.Outcome State Fault Refusal :=
  .next (if s.serviceOpen then s.objSet nb sec invoke cls obis index data else s)

/-- OBJECT_ACTION (R359, R360). -/
def execObjectAction (nb : Fin 32) (sec : Bool) (invoke : Byte) (cls : Nat) (obis : List Byte) (index : Nat) (data : List Byte)
    (s : State) : Host.Outcome State Fault Refusal :=
  .next (if s.serviceOpen then s.objAction nb sec invoke cls obis index data else s)

/-- The OBIS code of the Special days table. -/
def specialObis : List Nat := [0, 0, 11, 0, 0, 255]

/-- SPECIAL_DAY_INSERT (R351): method 1 of the Special days table, by any source. -/
def execSpecialDayInsert (src : Source) (data : List Byte) (s : State) : Host.Outcome State Fault Refusal :=
  .next (if s.serviceOpen then (s.invokeMethod (roleRank (s.roleOf src)) specialObis 1 (readVal data)).2 else s)

/-- SPECIAL_DAY_DELETE (R351): method 2. -/
def execSpecialDayDelete (src : Source) (data : List Byte) (s : State) : Host.Outcome State Fault Refusal :=
  .next (if s.serviceOpen then (s.invokeMethod (roleRank (s.roleOf src)) specialObis 2 (readVal data)).2 else s)

end Sys2Proof.Machine
end

