-- ==== Sys2Proof/Machine/Command.lean ====
section
/-! DEFINITION. The commands of the command language: names and addresses, GET, SET and SHOW, and every other command of
Table 4.3, as rows of the table and as text (R132 to R149, R181, R223, R275, R284, R334, R338, R346, R442 to R444, R464,
R484, R486, R499). -/

namespace Sys2Proof.Machine

/-! ### Names (R140, R275, R298, R346) -/

/-- A quantity: the address of its first word, its words, its fraction bits, whether it is signed, its unit (R136). -/
structure Qty where
  addr : Nat
  words : Nat
  frac : Nat
  signed : Bool
  unit : Text
  deriving DecidableEq, Repr

/-- What a name names. -/
inductive Named where
  | reg (a : Nat)
  | field (a : Nat) (f : FieldRow)
  | qty (q : Qty)
  | time
  | upd
  | attr (obis : List Nat) (a : Nat)
  | method (obis : List Nat) (m : Nat)
  | obis (o : List Nat)
  deriving DecidableEq, Repr

/-- The quantities of a meter point. -/
def mpQty (x : Nat) : List (Text × Qty) := [
  (txt "FLOW", ⟨F.MP_FLOW x, 1, 16, true, txt "L/h"⟩), (txt "FLOWW", ⟨F.MP_FLOWW x, 1, 4, true, txt "L/h"⟩),
  (txt "VEL", ⟨F.MP_VEL x, 1, 24, true, txt "m/s"⟩), (txt "RE", ⟨F.MP_RE x, 1, 0, false, []⟩),
  (txt "KPROF", ⟨F.MP_KPROF x, 1, 30, false, []⟩), (txt "TF", ⟨F.MP_TF x, 1, 16, true, txt "C"⟩),
  (txt "TR", ⟨F.MP_TR x, 1, 16, true, txt "C"⟩), (txt "TAC", ⟨F.MP_TAC x, 1, 16, true, txt "C"⟩),
  (txt "SOS", ⟨F.MP_SOS x, 1, 16, false, txt "m/s"⟩), (txt "PRESS", ⟨F.MP_PRESS x, 1, 8, false, txt "Pa"⟩),
  (txt "POWER", ⟨F.MP_POWER x, 1, 4, true, txt "W"⟩), (txt "CONV", ⟨F.MP_CONV x, 1, 24, false, []⟩),
  (txt "Z", ⟨F.MP_Z x, 1, 30, false, []⟩), (txt "ZB", ⟨F.MP_ZB x, 1, 30, false, []⟩)] ++ [
  (txt "PATM", ⟨F.MP_PATM x, 1, 8, false, txt "Pa"⟩), (txt "PSUB", ⟨F.MP_PSUB x, 1, 8, false, txt "Pa"⟩),
  (txt "TSUB", ⟨F.MP_TSUB x, 1, 16, true, txt "C"⟩)]

/-- The names of Table 9.1 that carry no tariff, with their indices. -/
def billNames : List (Text × Nat) := [
  (txt "TOT_VOL", 0), (txt "TOT_HEAT", 1), (txt "TOT_COOL", 2), (txt "TOT_BVOL", 3), (txt "REV_VOL", 40), (txt "REV_BVOL", 41),
  (txt "ERR_VOL", 42), (txt "ERR_BVOL", 43), (txt "U_VOL", 44), (txt "U_HEAT", 45), (txt "U_COOL", 46), (txt "U_BVOL", 47),
  (txt "ERRT", 48), (txt "ERRT_DIS", 49), (txt "ERRT_FLOW", 50), (txt "ERRT_TEMP", 51), (txt "ERRT_CONV", 52), (txt "ERRT_CALC", 53)]

/-- The names of Table 9.1 under a tariff, with the index of tariff 0. -/
def tariffNames : List (Text × Nat) := [(txt "VOL_T#", 8), (txt "HEAT_T#", 16), (txt "COOL_T#", 24), (txt "BVOL_T#", 32)]

/-- The index of a name of Table 9.1. -/
def billNamed (n : Text) : Option Nat := match billNames.find? (fun p => decide (p.1 = n)) with
  | some p => some p.2
  | none => tariffNames.findSome? (fun p => match matchName p.1 n with
    | some [k] => if k < 8 then some (p.2 + k) else none
    | _ => none)

/-- A register of Table 9.1 as a quantity. -/
def billQty (x n : Nat) : Qty := ⟨F.BILL_REG x n 0, 3, 16, false, billUnitText n⟩

/-- The quantity BLOCK.NAME. The spec gives no list of the registers that R136 answers as quantities; here they are the results of a
meter point and its PATM, PSUB and TSUB, the registers of Table 9.1 and PAY.CREDIT (DESIGN CHOICE, log entry 117). -/
def qtyNamed (b n : Text) : Option Qty :=
  if b = txt "MPA" then (mpQty 0).lookup n
  else if b = txt "MPB" then (mpQty 1).lookup n
  else if b = txt "PAY" ∧ n = txt "CREDIT" then some ⟨F.PAY_CREDIT_LO, 2, 16, true, []⟩
  else if b = txt "BILL" then match n with
    | 'A' :: '_' :: r => (billNamed r).map (billQty 0)
    | 'B' :: '_' :: r => (billNamed r).map (billQty 1)
    | _ => none
  else none

/-- The register of a row that the indices of a name select. -/
def RegRow.pick (r : RegRow) (base : Nat) : List Nat → Option Nat
  | [] => if r.n1 = 1 ∧ r.n2 = 1 then some (base + r.off) else none
  | [i] =>
    if r.n1 ≠ 1 ∧ r.n2 = 1 ∧ i < r.n1 then some (base + r.off + r.s1 * i)
    else if r.n1 = 1 ∧ r.n2 ≠ 1 ∧ i < r.n2 then some (base + r.off + r.s2 * i) else none
  | [i, j] => if i < r.n1 ∧ j < r.n2 then some (base + r.off + r.s1 * i + r.s2 * j) else none
  | _ => none

/-- The register BLOCK.REGISTER (R140). -/
def regNamed (b n : Text) : Option Nat :=
  (allBlocks.find? (fun k => decide (txt (blockName k) = b))).bind (fun k =>
    (blockRows k).findSome? (fun r => (matchName (txt r.name) n).bind (r.pick (blockBase k))))

/-- The field of a register by its name. -/
def fieldNamed (a : Nat) (n : Text) : Option FieldRow :=
  (rowOf a).bind (fun r => r.fields.find? (fun f => decide (txt f.name = n)))

/-- A COSEM name: an OBIS code alone, with "/" and an attribute, or with "/M" and a method (R346). -/
def cosemNamed (t : Text) : Option Named := match cutOn '/' t [] with
  | [o] => (readObis o).map .obis
  | [o, 'M' :: m] => (readObis o).bind (fun c => (readNat 10 m).map (.method c))
  | [o, a] => (readObis o).bind (fun c => (readNat 10 a).map (.attr c))
  | _ => none

/-- What a name names, in capitals or not (R125). -/
def named (name : Text) : Option Named :=
  let t := upper name
  if t.contains ':' then cosemNamed t
  else match cutOn '.' t [] with
    | [b, r] =>
      if b = txt "RTC" ∧ r = txt "TIME" then some .time
      else if b = txt "MGMT" ∧ r = txt "UPD" then some .upd
      else match qtyNamed b r with
        | some q => some (.qty q)
        | none => (regNamed b r).map .reg
    | [b, r, f] => (regNamed b r).bind (fun a => (fieldNamed a f).map (.field a))
    | _ => none

/-! ### Reading (R136, R141) -/

/-- The role of a carrier's session, as a rank. -/
def State.rankOn (s : State) (c : Carrier) : Nat := roleRank (s.car c).role

/-- The stored bits of a quantity as a role reads them. -/
def State.readQty (s : State) (rank : Nat) (q : Qty) (pend : Bool) : Nat :=
  (List.range q.words).foldl (fun v i => v + (s.readReg rank (q.addr + 4 * i) pend).1 * 2 ^ (32 * i)) 0

/-- A quantity in the form of R136. -/
def Qty.text (q : Qty) (v : Nat) : Text :=
  fixedText (if q.signed then toSigned (32 * q.words) v else v) q.frac ++ (if q.unit = [] then [] else ' ' :: q.unit)

/-- A field in decimal. -/
def FieldRow.text (f : FieldRow) (v : Nat) : Text :=
  let n := bitsOf (word v) f.hi f.lo
  if f.signed then intText (toSigned (f.hi + 1 - f.lo) n) else decText n

/-- The time captured and shown (R275); a role below Reader reads zero. -/
def State.timeText (s : State) (rank : Nat) : Text × State :=
  if rank < 1 then (calFracText 0 0, s)
  else
    let s1 := s.capture
    (calFracText (s1.get F.RTC_CAPSEC_SEC) (s1.get F.RTC_CAPFRAC_FRAC), s1)

/-- GET with RAW of an attribute: a quantity answers its stored bits, in the digits of its width; any other value as without RAW
(R136, R346). -/
def rawResp (k : Option ObjKind) (v : Val) : Resp := match v with
  | .qty r _ _ _ _ =>
    let n := match k with | some (.billReg _ _) => 24 | some .credit => 16 | _ => 8
    .ok (hexText n (ofSigned (4 * n) r))
  | _ => v.resp

/-- GET of a name. -/
def State.getNamed (s : State) (rank : Nat) (pend raw : Bool) : Named → Resp × State
  | .reg a =>
    let (v, s1) := s.readReg rank a pend
    (.ok (hexText 8 v), s1)
  | .field a f =>
    let (v, s1) := s.readReg rank a pend
    (.ok (if raw then hexText ((f.hi + 4 - f.lo) / 4) (bitsOf (word v) f.hi f.lo) else f.text v), s1)
  | .qty q =>
    let v := s.readQty rank q pend
    (.ok (if raw then hexText (8 * q.words) v else q.text v), s)
  | .time => match s.timeText rank with | (t, s1) => (.ok t, s1)
  | .attr o a => match s.readAttr rank o a with
    | some v => (if raw then rawResp (s.objectAt o) v else v.resp, s)
    | none => (errResp 2, s)
  | _ => (errResp 2, s)

/-- A clock edge passes between two reads of a command, or none does: the spec leaves the instants of the reads open, and a free
value decides (R277, log entry 118). -/
def State.edgeOrNot (s : State) : State := match s.draw 2 with
  | (1, s1) => s1.advance 1
  | (_, s1) => s1

/-- Words from an address on, each with its address; none where one of them is held (E04). RTC_SEC and RTC_FRAC are separate reads,
and the pair can tear (Table 8.1). -/
def State.readWords (s : State) (rank : Nat) (pend : Bool) : Nat → Nat → Option (List (Nat × Nat)) × State
  | 0, _ => (some [], s)
  | n + 1, a => match s.readWord rank a pend with
    | (none, s1) => (none, s1)
    | (some v, s1) => match (if a = F.RTC_SEC ∧ n ≠ 0 then s1.edgeOrNot else s1).readWords rank pend n (a + 4) with
      | (some l, s2) => (some ((a, v) :: l), s2)
      | (none, s2) => (none, s2)

/-- A word as a data line: "@4002_0100 0x0001_0841". -/
def wordLine (p : Nat × Nat) : Text := '@' :: grouped (hexN 8 p.1) ++ [' '] ++ hexText 8 p.2

/-- GET by address; a count answers one data line a word. -/
def State.getAddr (s : State) (rank a : Nat) (pend : Bool) (count : Option Nat) : Resp × State :=
  if a % 4 ≠ 0 then (errResp 3, s)
  else match count with
    | none => match s.readWord rank a pend with
      | (some v, s1) => (.ok (hexText 8 v), s1)
      | (none, _) => (errResp 4, s)
    | some n =>
      if n = 0 ∨ 64 < n then (errResp 3, s)
      else match s.readWords rank pend n a with
        | (some l, s1) => (.data (l.map wordLine), s1)
        | (none, _) => (errResp 4, s)

/-- GET. -/
def State.aclGet (s : State) (rank : Nat) (o : ObjRef) (pend raw : Bool) (count : Option Nat) : Resp × State :=
  match o with
  | .addr a => if raw then (errResp 1, s) else s.getAddr rank a pend count
  | .name n =>
    if count.isSome then (errResp 1, s)
    else match named n with
      | some x => s.getNamed rank pend raw x
      | none => (errResp 2, s)

/-- SHOW: one data line per field or attribute. -/
def State.aclShow (s : State) (rank : Nat) (o : ObjRef) : Resp × State :=
  match o with
  | .addr _ => (errResp 1, s)
  | .name n => match named n with
    | some (.reg a) => match rowOf a with
      | some r =>
        let (v, s1) := s.readReg rank a false
        (.data (r.fields.map (fun f => txt f.name ++ [' '] ++ f.text v)), s1)
      | none => (errResp 2, s)
    | some (.field a f) =>
      let (v, s1) := s.readReg rank a false
      (.data [txt f.name ++ [' '] ++ f.text v], s1)
    | some (.qty q) => (.data [((upper n).dropWhile (fun c => c ≠ '.')).drop 1 ++ ' ' :: q.text (s.readQty rank q false)], s)
    | some .time => match s.timeText rank with | (t, s1) => (.data [txt "TIME " ++ t], s1)
    | some (.obis c) => match s.objectAt c with
      | some k => (.data ((attrsOf k.cls).filterMap (fun a => (s.readAttr rank c a).map (fun v =>
          upper n ++ ['/'] ++ decText a ++ [' '] ++ v.acl))), s)
      | none => (errResp 2, s)
    | some (.attr c a) => match s.readAttr rank c a with
      | some v => (.data [upper n ++ [' '] ++ v.acl], s)
      | none => (errResp 2, s)
    | _ => (errResp 2, s)

/-! ### Writing (R135, R284, R285, R346, R500) -/

/-- A code and its state as a response. -/
def coded (x : Nat × State) : Resp × State := (codeResp x.1, x.2)

/-- SET of the bits `sel` of a whole register. -/
def State.setReg (s : State) (rank a sel : Nat) (v : Int) : Resp × State :=
  if Nat.land sel (s.writeMask rank a) = 0 then (okResp, s)
  else if v < Int.neg (2 ^ 31) ∨ 2 ^ 32 ≤ v then (errResp 3, s)
  else coded (s.writeWord rank a sel (word (ofSigned 32 v)))

/-- The bits of a field as a mask. -/
def FieldRow.bits (f : FieldRow) : Nat := (2 ^ (f.hi + 1 - f.lo) - 1) * 2 ^ f.lo

/-- SET of a field writes that field alone (R135). -/
def State.setField (s : State) (rank a : Nat) (f : FieldRow) (v : Int) : Resp × State :=
  let n := f.hi + 1 - f.lo
  let fits := if f.signed then decide (Int.neg (2 ^ (n - 1)) ≤ v ∧ v < 2 ^ (n - 1)) else decide (0 ≤ v ∧ v < 2 ^ n)
  if Nat.land f.bits (s.writeMask rank a) = 0 then (okResp, s)
  else if !fits then (errResp 3, s)
  else coded (s.writeWord rank a f.bits (word (ofSigned n v * 2 ^ f.lo)))

/-- SET of a quantity: a decimal number with up to four fractional digits, or its stored bits in 0x or 0b form. -/
def State.setQty (s : State) (rank : Nat) (q : Qty) (t : Text) (unit : Option Text) : Resp × State :=
  let coded0 := upper (t.take 2) = txt "0X" ∨ upper (t.take 2) = txt "0B"
  let v := if coded0 then readInt t else (readFixed t).map (fun n => roundDiv (n * 2 ^ q.frac) 10000)
  let unitOk := match unit with | some u => decide (upper u = upper q.unit) | none => true
  match v with
  | none => (errResp 1, s)
  | some x =>
    let n := 32 * q.words
    let fits := if q.signed then decide (Int.neg (2 ^ (n - 1)) ≤ x ∧ x < 2 ^ (n - 1)) else decide (0 ≤ x ∧ x < 2 ^ n)
    if !unitOk then (errResp 1, s)
    else if q.words ≠ 1 ∨ s.writeMask rank q.addr = 0 then (okResp, s)
    else if !fits then (errResp 3, s)
    else coded (s.writeWord rank q.addr allBits (word (ofSigned 32 x)))

/-- SET RTC.TIME. -/
def State.setTime (s : State) (rank : Nat) (t : Text) : Resp × State := match readCal t with
  | some [y, mo, d, h, mi, sec] =>
    if rank < (if s.untrusted then 2 else 3) then (okResp, s)
    else if y < 2000 ∨ 2255 < y ∨ 15 < mo ∨ 31 < d ∨ 31 < h ∨ 63 < mi ∨ 63 < sec then (errResp 3, s)
    else coded (s.setCalendar (word ((y - 2000) * 2 ^ 16 + mo * 2 ^ 8 + d), word (h * 2 ^ 16 + mi * 2 ^ 8 + sec)))
  | _ => (errResp 1, s)

/-- A date-time of 12 bytes that a calendar text spells; a field beyond a byte reads as not specified. -/
def calOctets (l : List Nat) : List Byte :=
  let b (i : Nat) : Byte := byte (min (l.getD i 0) 255)
  bytesBE 2 (min (l.getD 0 0) 65535) ++ [b 1, b 2, 0xFF#8, b 3, b 4, b 5, 0#8, 0x80#8, 0#8, 0#8]

/-- The value that a SET of an attribute or method carries: a calendar time or 12 bytes for the Clock, a number for an index,
elsewhere A-XDR in hexadecimal (log entry 33). -/
def objValue (k : ObjKind) (m : Option Nat) (t : Text) : Option Val := match k with
  | .clock => match readCal t with
    | some l => some (.octets (calOctets l))
    | none => (readHex t).map .octets
  | .actuator => (readInt t).map (fun _ => .u8 0)
  | .special => if m = some 2 then (readInt t).map (fun v => .u32 v.toNat) else (readHex t).bind readVal
  | _ => (readHex t).bind readVal

/-- The code of a method's argument where the method takes none: 0 is its one value (R346). -/
def noArgCode (t : Text) : Nat := match readInt t with
  | none => 1
  | some v => if v = 0 then 0 else 3

/-- SET of an attribute, or of a method with its argument. -/
def State.setCosem (s : State) (rank : Nat) (o : List Nat) (n : Nat) (method : Bool) (t : Text) : Resp × State :=
  match s.objectAt o with
  | none => (errResp 2, s)
  | some k =>
    if method ∧ k = .actuator ∧ (methodsOf k.cls).contains n ∧ 3 ≤ rank ∧ noArgCode t ≠ 0 then (errResp (noArgCode t), s)
    else
    let v := objValue k (if method then some n else none) t
    coded (if method then s.invokeMethod rank o n v else s.setAttr rank o n v)

/-- An update message, with the recovery mode's limits: messages for application images, from Manufacturer, worked off at once
(R499). -/
def State.update (s : State) (src : Source) (type : Nat) (f : List Nat) : (Nat × Nat × Nat) × State :=
  if s.ticking then s.updMessage src type f
  else
    let app := decide (type = 0x25) || decide ((if type = 0x20 then f.headD 0 else s.get F.MGMT_UPDSTAT_KIND) = 1)
    if !(roleAtLeast (s.roleOf src) .manufacturer && app) then ((0, 0, 0), s)
    else match s.updMessage src type f with
      | ((code, _, _), s1) =>
        let s2 := State.updAll 600 s1
        let s3 := if s2.mgmt.activate then
            let s2a := s2.activatePersist
            { s2a with pow := { s2a.pow with resetReq := some s2a.uptime } }
          else s2
        ((code, s3.updState, s3.get F.MGMT_UPDPROG_NEXT), s3)

/-- SET MGMT.UPD: "OK STATE NEXT", or the error. -/
def State.setUpd (s : State) (c : Carrier) (t : Text) : Resp × State := match readHex t with
  | some (b :: f) =>
    if b.toNat < 0x20 ∨ 0x25 < b.toNat then (if s.rankOn c < 2 then .ok (txt "0 0") else errResp 3, s)
    else match s.update (.carrier c) b.toNat (nats f) with
      | ((0, st, next), s1) => (.ok (decText st ++ [' '] ++ decText next), s1)
      | ((e, _, _), s1) => (errResp e, s1)
  | _ => (errResp 1, s)

/-- SET; the unit of a quantity may follow its value. -/
def State.aclSet (s : State) (c : Carrier) (o : ObjRef) (value : Text) : Resp × State :=
  let rank := s.rankOn c
  let w := tokens value []
  let unit := w[1]?
  match w with
  | [] => (errResp 1, s)
  | t :: _ =>
    if 2 < w.length then (errResp 1, s)
    else match o with
    | .addr a => match readInt t, unit with
      | some v, none =>
        if a % 4 ≠ 0 then (errResp 3, s)
        else if (regAt (viewOf a).1).isNone then (okResp, s)
        else s.setReg rank (viewOf a).1 (viewBits a) v
      | _, _ => (errResp 1, s)
    | .name n =>
      match named n with
      | none => (errResp 2, s)
      | some (.qty q) => s.setQty rank q t unit
      | some x =>
        if unit.isSome then (errResp 1, s)
        else match x with
        | .reg a => match readInt t with | some v => s.setReg rank a allBits v | none => (errResp 1, s)
        | .field a f => match readInt t with | some v => s.setField rank a f v | none => (errResp 1, s)
        | .time => s.setTime rank t
        | .upd => s.setUpd c t
        | .attr ob a => s.setCosem rank ob a false t
        | .method ob m => s.setCosem rank ob m true t
        | _ => (errResp 2, s)

/-! ### SHOT, CAPTURE, LOG -/

/-- SHOT (R139, R181). -/
def State.aclShot (s : State) (c : Carrier) (path : Nat) (count : Option Nat) : Resp × State :=
  let n := count.getD 1
  if s.rankOn c < 2 ∨ !s.sealOpen then (okResp, s)
  else if 3 < path ∨ n = 0 ∨ 16 < n then (errResp 3, s)
  else if !s.flag F.CMD_MODE_TEST ∨ !s.pathOn path then (errResp 6, s)
  else if s.ame.aclReq.isSome then (errResp 4, s)
  else (.defer .shot, { s with ame := { s.ame with aclReq := some ⟨path, n, 0, c, none⟩ } })

/-- CAPTURE (R275). -/
def State.aclCapture (s : State) (c : Carrier) : Resp × State :=
  if s.rankOn c < 1 then (okResp, s)
  else
    let s1 := s.capture
    let sec := s1.get F.RTC_CAPSEC_SEC
    let fr := s1.get F.RTC_CAPFRAC_FRAC
    (.ok (decText sec ++ [' '] ++ hexText 4 fr ++ [' '] ++ calFracText sec fr), s1)

/-- The numbers of the entries that a LOG returns, oldest first: those asked for that exist and are not overwritten. -/
def logNumbers (next size : Nat) (first : Option Nat) (count : Nat) : List Nat :=
  let from0 := match first with | some f => f | none => next - count
  ((List.range count).map (fun i => from0 + i)).filter (fun n => decide (n < next ∧ next ≤ n + size))

/-- A line of the trouble log (R484). -/
def State.troubleLine (s : State) (n : Nat) : Text :=
  let e := s.crsBytes (troubleAddr n) 16
  let v (off len : Nat) : Nat := natLE ((e.drop off).take len)
  decText n ++ [' '] ++ decText (v 0 4) ++ ['.'] ++ fracText (v 4 2) ++ [' '] ++ hexText 2 (v 6 1) ++ [' '] ++ hexText 2 (v 7 1)
    ++ [' '] ++ hexText 8 (v 12 4) ++ [' '] ++ hexText 2 (v 8 1)

/-- A line of the legal log (R486). -/
def State.legalLine (s : State) (n : Nat) : Text :=
  let e := s.nvmBytes (legalAddr n) 16
  decText n ++ [' '] ++ decText (natLE (e.take 4)) ++ [' '] ++ hexText 2 (e.getD 4 0#8).toNat ++ [' '] ++ hexText 2 (e.getD 5 0#8).toNat
    ++ [' '] ++ ((e.drop 6).map (fun b => hexN 2 b.toNat)).flatten

/-- LOG TROUBLE and LOG LEGAL. A read of ring 7 meets the errors of its words (R54). -/
def State.aclLog (s : State) (c : Carrier) (legal : Bool) (first count : Option Nat) : Resp × State :=
  let n := count.getD 16
  if s.rankOn c < (if legal then 1 else 2) then (okResp, s)
  else if n = 0 ∨ 64 < n then (errResp 3, s)
  else if !s.taskEnabled 3 then (errResp 6, s)
  else if legal then (.data ((logNumbers (s.get F.LOG_LSEQ_SEQ) 512 first n).map s.legalLine), s)
  else
    let l := logNumbers (s.get F.LOG_TSEQ_SEQ) 1024 first n
    (.data (l.map s.troubleLine), l.foldl (fun (t : State) k => t.eccMeet (troubleAddr k) 16) s)

/-! ### Sessions (R142 to R145) -/

/-- CMD_AUTHFAIL.LOCK shows the carriers that are locked. -/
def State.showLocks (s : State) : State :=
  s.put F.CMD_AUTHFAIL_LOCK (b2n s.cmd.uart.lockEnd.isSome + 2 * b2n s.cmd.opt.lockEnd.isSome)

/-- A failed attempt: the fifth in a row locks LOGIN on the carrier for 600 s. -/
def State.loginFail (s : State) (c : Carrier) : State :=
  let s1 := s.bump F.CMD_AUTHFAIL_COUNT 1
  let x := s1.car c
  if x.fails + 1 < 5 then s1.setCar c { x with fails := x.fails + 1 }
  else
    let y := { x with fails := 0, lockEnd := some (s1.uptime + secs 600) }
    ((s1.setCar c y).showLocks).logTrouble 0x73 (carrierNum c) 0

/-- A LOGIN that succeeds. -/
def State.loginOk (s : State) (c : Carrier) (r : Role) : State := s.setCar c { s.car c with role := r, fails := 0, chal := none }

/-- A password: 8 to 16 characters from 0x21 to 0x7E. -/
def passwordOk (t : Text) : Bool :=
  decide (8 ≤ t.length ∧ t.length ≤ 16) && t.all (fun c => decide (0x21 ≤ c.toNat ∧ c.toNat ≤ 0x7E))

/-- The digest of a password. -/
def passwordDigest (t : Text) : List Byte := ofNats (sha256 (nats (textBytes t)))

/-- The authentication key of a role: the lowest slot with AUTH, or K_MA (R434). -/
def State.authKey (s : State) (r : Role) : Option (List Nat) × State :=
  if r = .manufacturer then (s.kma, s)
  else match (List.range 8).find? (fun i => s.flag (F.KEYS_SLOT_VALID i) && bit (s.get (F.KEYS_SLOT_USAGE i)) 4) with
    | some i => s.slotKey i
    | none => (none, s)

/-- LOGIN READER or INSTALLER. One without a secret, too, is an attempt that fails (DESIGN CHOICE, log entry 81). -/
def State.loginPassword (s : State) (c : Carrier) (r : Role) (secret : Option Text) : State :=
  let kept := s.keys.pw.getD (roleRank r - 1) none
  match secret, kept with
  | some t, some d => if passwordOk t ∧ passwordDigest t = d then s.loginOk c r else s.loginFail c
  | _, _ => s.loginFail c

/-- LOGIN UTILITY or MANUFACTURER with the response to a challenge. -/
def State.loginResponse (s : State) (c : Carrier) (r : Role) (t : Text) : State :=
  let ch := (s.car c).chal
  let s1 := s.setCar c { s.car c with chal := none }
  match ch, readHex t with
  | some q, some b =>
    if q.role ≠ r ∨ q.sent + secs 60 < s.uptime ∨ t.length ≠ 16 then s1.loginFail c
    else match s1.authKey r with
      | (some k, s2) => if (cmac k (natBytes 8 q.value ++ s.devid)).take 8 = nats b then s2.loginOk c r else s2.loginFail c
      | (none, s2) => s2.loginFail c
  | _, _ => s1.loginFail c

/-- LOGIN (R143, R144). On the tunnel it completes with no effect (R122). The challenge is a free value. -/
def State.aclLogin (s : State) (c : Carrier) (r : Role) (secret : Option Text) : Resp × State :=
  let locked : Bool := match (s.car c).lockEnd with | some t => decide (s.uptime < t) | none => false
  if !hasReceiver c ∨ locked then (okResp, s)
  else match r with
    | .publicRole => (okResp, s)
    | .reader | .installer => (okResp, s.loginPassword c r secret)
    | .utility | .manufacturer => match secret with
      | some t => (okResp, s.loginResponse c r t)
      | none =>
        if s.keys.rngOff then (okResp, s)
        else
          let (v, s1) := s.draw (2 ^ 64)
          (.ok (hexN 16 v), s1.setCar c { s1.car c with chal := some ⟨r, v, s1.uptime⟩ })

/-- LOGOUT. -/
def State.aclLogout (s : State) (c : Carrier) : Resp × State := (okResp, if hasReceiver c then s.endSessionOn c else s)

/-- Ends a lock whose time has come. -/
def State.endLock (s : State) (c : Carrier) : State := (s.setCar c { s.car c with lockEnd := none }).showLocks

/-- LOGIN_LOCK_EXPIRY (R144): 600 s after the lock was set. -/
def execLoginLockExpiry (dt : Nat) (c : Carrier) (s : State) : Host.Outcome State Fault Refusal :=
  match (s.car c).lockEnd with
  | some t => .next ((s.passTo dt t).endLock c)
  | none => .next (s.advance dt)

/-- CHALLENGE_EXPIRY (R143): 60 s after it was sent. -/
def execChallengeExpiry (dt : Nat) (c : Carrier) (s : State) : Host.Outcome State Fault Refusal :=
  match (s.car c).chal with
  | some q =>
    let s1 := s.passTo dt (q.sent + secs 60)
    .next (s1.setCar c { s1.car c with chal := none })
  | none => .next (s.advance dt)

/-! ### KEY, TOKEN -/

/-- The KEY LOAD buffer of a carrier, empty where none or 60 s old. -/
def State.keyBufOf (s : State) (c : Carrier) : List Byte :=
  match s.cmd.keyBuf.find? (fun b => sameCarrier b.1 c) with
  | some (_, b, t) => if s.uptime < t + secs 60 then b else []
  | none => []

/-- Joins a piece to the buffer. -/
def State.setKeyBuf (s : State) (c : Carrier) (b : List Byte) : State :=
  let s1 := s.dropKeyBuf c
  { s1 with cmd := { s1.cmd with keyBuf := s1.cmd.keyBuf ++ [(c, b, s1.uptime)] } }

/-- KEY LOAD (R442, R443): a piece ends with the token "+" where another follows. A last piece that answers E04 leaves the
buffer as it was (R137). -/
def State.aclKeyLoad (s : State) (c : Carrier) (l : LineForm) (piece : Text) : Resp × State :=
  let (hex, more, bad) : Text × Bool × Bool := match tokens piece [] with
    | [h] => (h, false, false)
    | [h, ['+']] => (h, true, false)
    | _ => ([], false, true)
  match bad || decide (192 < hex.length ∨ hex = []), readHex hex with
  | false, some b =>
    let all := s.keyBufOf c ++ b
    if 256 < all.length then (errResp 9, s.dropKeyBuf c)
    else if more then (okResp, s.setKeyBuf c all)
    else if s.keyBusy then (errResp 4, s)
    else match (s.dropKeyBuf c).keyMessage (.carrier c) (some (c, l)) all with
      | (some _, s1) => (errResp 8, s1)
      | (none, s1) => (.defer .keyLoad, s1)
  | _, _ => (errResp 1, s.dropKeyBuf c)

/-- KEY_LOAD_BUFFER_EXPIRY (R442): 60 s without a piece. -/
def execKeyLoadBufferExpiry (dt : Nat) (c : Carrier) (s : State) : Host.Outcome State Fault Refusal :=
  match s.cmd.keyBuf.find? (fun b => sameCarrier b.1 c) with
  | some (_, _, t) => .next ((s.passTo dt (t + secs 60)).dropKeyBuf c)
  | none => .next (s.advance dt)

/-- KEY STATUS (R444). -/
def State.aclKeyStatus (s : State) (digest : Text) : Resp × State :=
  if digest.length ≠ 64 then (errResp 1, s)
  else match readHex digest with
    | none => (errResp 1, s)
    | some d => (if s.isApplied d then .ok (txt "APPLIED " ++ digest) else okResp, s)

/-- KEY PASSWORD (R142). -/
def State.aclKeyPassword (s : State) (c : Carrier) (r : Role) (t : Text) : Resp × State :=
  if s.rankOn c < (if r = .installer then 3 else 2) then (okResp, s)
  else if (r ≠ .reader ∧ r ≠ .installer) ∨ !passwordOk t then (errResp 3, s)
  else (okResp, { s with keys := { s.keys with pw := s.keys.pw.set (roleRank r - 1) (some (passwordDigest t)) } })

/-- TOKEN (R334, R338). -/
def State.aclToken (s : State) (digits : Text) : Resp × State :=
  match readDecimals digits with
  | none => (errResp 1, s)
  | some d =>
    if d.length ≠ 20 then (errResp 1, s)
    else match s.evalToken d with
      | (0, s1) => (.later (fixedText s1.credit 16), s1)
      | (10, s1) => (errResp 6, s1)
      | (_, s1) => (errResp 7, s1)

/-! ### ZEROCAL, COMMIT, SCHEDULE, RESET -/

/-- A calibration refused at its command, while none runs: nothing is owed for it. -/
def State.zcDeny (s : State) (x : Nat) : State :=
  let s1 := s.zcStart x
  { s1.clr F.CMD_STAT_ZCBUSY with shot := { s1.shot with zcOut := none } }

/-- ZEROCAL (R223, R226). -/
def State.aclZerocal (s : State) (c : Carrier) (mp : MeterPoint) : Resp × State :=
  if s.rankOn c < 2 ∨ !s.sealOpen then (okResp, s)
  else
    let k := s.zcCause (mpNum mp)
    if k ≠ 0 then (errResp 6, if s.flag F.CMD_STAT_ZCBUSY then s.put F.SHOT_ZCSTAT_CAUSE k else s.zcDeny (mpNum mp))
    else if s.cfgBusy then (errResp 4, s)
    else (.defer .zerocal, s.zcStart (mpNum mp))

/-- COMMIT (R138): it waits for the next Capture; a second before that Capture joins it. -/
def State.aclCommit (s : State) (c : Carrier) : Resp × State :=
  if s.rankOn c < 2 then (okResp, s)
  else if s.saving ∨ s.get F.KEYS_STAT_COMMIT = 2 ∨ s.updState = 2 then (errResp 4, s)
  else
    let s1 := s.set1 F.CMD_STAT_SAVEPEND
    (.defer .commit, { s1 with cmd := { s1.cmd with savePend := true } })

/-- SCHEDULE COMMIT (R139). -/
def State.aclScheduleCommit (s : State) (c : Carrier) : Resp × State :=
  if s.rankOn c < 2 then (okResp, s)
  else
    let s1 := s.schedCommit
    let cost := decText (s1.get F.FT_ADMIT_COST)
    match s1.get F.FT_ADMIT_RESULT with
    | 1 => if s.cfgBusy then (errResp 4, s) else (.ok (txt "ADMITTED " ++ cost), s1)
    | 2 => (.err 3 (' ' :: cost), s1)
    | _ => (errResp 3, s1)

/-- SCHEDULE DISCARD. -/
def State.aclScheduleDiscard (s : State) (c : Carrier) : Resp × State :=
  if s.rankOn c < 2 then (okResp, s) else if s.cfgBusy then (errResp 4, s) else (okResp, s.schedDiscard)

/-- The entries of a table up to its first END. -/
def upToEnd : List (Nat × Nat) → List (Nat × Nat)
  | [] => []
  | p :: t => if p.2 % 16 = 0 then [p] else p :: upToEnd t

/-- SCHEDULE SHOW: the entries as GET by address shows them (R141). -/
def State.aclScheduleShow (s : State) (c : Carrier) (pend : Bool) : Resp × State :=
  if s.rankOn c < 1 then (okResp, s)
  else
    let l := (List.range 64).map (fun i => (F.FT_SCHED i, (if pend then s.schedShadow i else s.rd (F.FT_SCHED i)).toNat))
    (.data ((upToEnd l).map wordLine), s)

/-- RESET (R139): noted; the reset follows a Persist phase at whose end the transmit buffers are empty. -/
def State.aclReset (s : State) (c : Carrier) : Resp × State :=
  if s.rankOn c < 2 then (okResp, s) else (okResp, { s with pow := { s.pow with resetReq := some s.uptime } })

/-! ### STATUS, HELP (R146, R464) -/

/-- The name of a role. -/
def roleName : Role → Text
  | .publicRole => txt "PUBLIC"
  | .reader => txt "READER"
  | .installer => txt "INSTALLER"
  | .utility => txt "UTILITY"
  | .manufacturer => txt "MANUFACTURER"

/-- The name of a life-cycle state (Table 13.9). -/
def lifeName (n : Nat) : Text := txt (match n with
  | 0 => "BLANK" | 1 => "PERSONALISED" | 2 => "SEALED" | 3 => "RETURNED" | _ => "RETIRED")

/-- The codes of Table 14.7 with their names. -/
def troubleNames : List (Nat × String) := [
  (0x01, "WDOG_RESTART"), (0x02, "SAFETY_RESTART"), (0x10, "XT32_STOP"), (0x11, "CLK_CROSS"), (0x12, "XO24_FAIL"),
  (0x13, "PLL_UNLOCK"), (0x14, "RC_UNLOCK"), (0x20, "CRS_CORR"), (0x21, "CRS_UNCORR"), (0x22, "RAM_UNCORR"), (0x23, "CRS_OWNER"),
  (0x24, "FLASH_CHECK"), (0x30, "CFG_CRC"), (0x31, "OVERRUN"), (0x32, "STALE_RESULT"), (0x33, "COND_LOST")] ++ [
  (0x40, "LB_SOFT"), (0x41, "LB_HARD"), (0x42, "UCODE"), (0x43, "CAPFULL"), (0x44, "SENS_REF"), (0x45, "BRIDGE"), (0x46, "ENERGY"),
  (0x47, "PLAUS"), (0x50, "VLV_CURRENT"), (0x51, "VLV_TIMEOUT"), (0x52, "VLV_MOVED"), (0x53, "VLV_FBBOTH"), (0x60, "TAMPER"),
  (0x70, "KEYS"), (0x71, "TRNG"), (0x72, "RET_CHECK"), (0x73, "LOGIN_LOCK"), (0x74, "CDT_EXP"), (0x75, "DISP_CRC"),
  (0x76, "KEY_DISCARD"), (0x78, "PF_WARN"), (0x79, "FORCE"), (0x80, "SAFE_ENTER"), (0x81, "SAFE_EXIT")]

/-- The name of a trouble-log code. -/
def troubleName (code : Nat) : Text := match troubleNames.lookup code with
  | some n => txt n
  | none => []

/-- The DEVICE line. -/
def State.deviceLine (s : State) : Text :=
  if s.pow.stage = .recovery then txt "IRL9640-BG196 B0 RECOVERY" else s.deviceText

/-- The lines of Table 4.6; the tick period is in ms with four fractional digits. -/
def State.statusLines (s : State) (r : Role) : List Text :=
  let n := roleRank r
  let reader := [txt "LIFECYCLE " ++ lifeName (s.get F.KEYS_LC_STATE),
    txt "TICK " ++ decText s.rm.tick ++ [' '] ++ fixedText ((125 * s.get F.FT_PERIOD_N : Nat) : Int) 2 ++ txt " ms",
    txt "SAFE " ++ (if s.flag F.SAFE_STAT_SAFE then txt "SAFE " ++ troubleName (s.get F.SAFE_STAT_CAUSE) else txt "NORMAL")]
  let installer := [txt "SAVED " ++ decText (s.get F.CMD_SAVED_TICK), txt "TEST " ++ (if s.flag F.CMD_MODE_TEST then txt "ON" else txt "OFF")]
  [txt "ROLE " ++ roleName r, txt "DEVICE " ++ s.deviceLine, txt "ID " ++ s.devidText,
    txt "TIME " ++ (if s.untrusted then txt "UNTRUSTED" else calText s.sec), txt "SEAL " ++ (if s.sealOpen then txt "OPEN" else txt "SEALED")]
    ++ (if 1 ≤ n then reader else []) ++ (if 2 ≤ n then installer else [])

/-- STATUS. -/
def State.aclStatus (s : State) (c : Carrier) : Resp × State := (.data (s.statusLines (s.car c).role), s)

/-- The commands with their syntax, for HELP. -/
def helpLines : List (String × String) := [
  ("GET", "GET name [PENDING] [RAW] | GET address [PENDING] [count]"), ("SET", "SET name value | SET address value"),
  ("SHOW", "SHOW name"), ("SHOT", "SHOT path [count]"), ("CAPTURE", "CAPTURE"), ("LOG", "LOG TROUBLE|LEGAL [first] [count]"),
  ("LOGIN", "LOGIN role [secret]"), ("LOGOUT", "LOGOUT"),
  ("KEY", "KEY LOAD message | KEY STATUS digest | KEY PASSWORD role text"), ("TOKEN", "TOKEN digits"), ("ZEROCAL", "ZEROCAL MPA|MPB"),
  ("COMMIT", "COMMIT"), ("SCHEDULE", "SCHEDULE COMMIT|DISCARD|SHOW [PENDING]"), ("RESET", "RESET"), ("STATUS", "STATUS"),
  ("HELP", "HELP [command]")]

/-- HELP: the commands, or the syntax of one. -/
def State.aclHelp (s : State) (command : Option Text) : Resp × State := match command with
  | none => (.data (helpLines.map (fun p => txt p.1)), s)
  | some t => match helpLines.find? (fun p => decide (txt p.1 = upper t)) with
    | some p => (.data [txt p.2], s)
    | none => (errResp 2, s)

/-! ### A command as its line or its row runs it -/

/-- What a command runs: whether the KEY LOAD buffer survives it, whether recovery mode serves it (R499), and its work. -/
structure Op where
  keep : Bool
  boot : Bool
  run : State → Resp × State

/-- An operation of ticks alone. -/
def tickOp (f : State → Resp × State) : Op := ⟨false, false, f⟩

/-- An operation that only answers an error. -/
def errOp (code : Nat) : Op := tickOp (fun s => (errResp code, s))

/-- Runs an operation for a line of a carrier; recovery mode answers E06 to a command it does not serve. -/
def State.runOp (s : State) (c : Carrier) (inv : Byte) (l : LineForm) (o : Op) : State :=
  s.answer c inv l o.keep (fun t => if t.pow.stage = .recovery ∧ o.boot = false then (errResp 6, t) else o.run t)

/-- A line on the tunnel has the role of the key that protected it (R122, R358). -/
def State.enterTunnel (s : State) (n : Nat) (sec : Bool) : State :=
  s.setCar (.tunnel (Fin.ofNat 32 n)) { s.car (.tunnel (Fin.ofNat 32 n)) with role := s.linkRole n sec }

/-- The state in which a row's line runs: one on the tunnel came protected. -/
def State.enterLine (s : State) (c : Carrier) : State := match c with
  | .tunnel n => s.enterTunnel n.val true
  | _ => s

/-- A row of the table that is a command line. -/
def State.row (s : State) (c : Carrier) (l : LineForm) (o : Op) : State := (s.enterLine c).runOp c 0#8 l o

def opGet (c : Carrier) (o : ObjRef) (pend raw : Bool) (count : Option Nat) : Op :=
  tickOp (fun s => s.aclGet (s.rankOn c) o pend raw count)
def opSet (c : Carrier) (o : ObjRef) (v : Text) : Op :=
  ⟨false, match o with | .name n => decide (named n = some .upd) | _ => false, fun s => s.aclSet c o v⟩
def opShow (c : Carrier) (o : ObjRef) : Op := tickOp (fun s => s.aclShow (s.rankOn c) o)
def opShot (c : Carrier) (path : Nat) (count : Option Nat) : Op := tickOp (fun s => s.aclShot c path count)
def opCapture (c : Carrier) : Op := tickOp (fun s => s.aclCapture c)
def opLog (c : Carrier) (legal : Bool) (first count : Option Nat) : Op := tickOp (fun s => s.aclLog c legal first count)
def opLogin (c : Carrier) (r : Role) (secret : Option Text) : Op :=
  ⟨false, decide (r = .manufacturer), fun s => s.aclLogin c r secret⟩
def opLogout (c : Carrier) : Op := tickOp (fun s => s.aclLogout c)
def opKeyLoad (c : Carrier) (l : LineForm) (piece : Text) : Op := ⟨true, false, fun s => s.aclKeyLoad c l piece⟩
def opKeyStatus (d : Text) : Op := tickOp (fun s => s.aclKeyStatus d)
def opKeyPassword (c : Carrier) (r : Role) (t : Text) : Op := tickOp (fun s => s.aclKeyPassword c r t)
def opToken (d : Text) : Op := tickOp (fun s => s.aclToken d)
def opZerocal (c : Carrier) (mp : MeterPoint) : Op := tickOp (fun s => s.aclZerocal c mp)
def opCommit (c : Carrier) : Op := tickOp (fun s => s.aclCommit c)
def opScheduleCommit (c : Carrier) : Op := tickOp (fun s => s.aclScheduleCommit c)
def opScheduleDiscard (c : Carrier) : Op := tickOp (fun s => s.aclScheduleDiscard c)
def opScheduleShow (c : Carrier) (pend : Bool) : Op := tickOp (fun s => s.aclScheduleShow c pend)
def opReset (c : Carrier) : Op := ⟨false, true, fun s => s.aclReset c⟩
def opStatus (c : Carrier) : Op := ⟨false, true, fun s => s.aclStatus c⟩
def opHelp (t : Option Text) : Op := tickOp (fun s => s.aclHelp t)

/-! ### Lines as text (R126, R132) -/

/-- What a token names: an address or a name; none for a malformed address. -/
def objRef (t : Text) : Option ObjRef := if t.head? = some '@' then (readAddr t).map .addr else some (.name t)

/-- The keywords and the count after GET's name: PENDING, RAW, count; an inner code for what does not parse. -/
def getArgs (addr : Bool) : List Text → Bool × Bool × Option Nat → Except Nat (Bool × Bool × Option Nat)
  | [], x => .ok x
  | t :: r, (p, w, n) =>
    if upper t = txt "PENDING" then (if p then .error 1 else getArgs addr r (true, w, n))
    else if upper t = txt "RAW" ∧ addr = false then (if w then .error 1 else getArgs addr r (p, true, n))
    else match (if addr ∧ r = [] then readNat 10 t else none) with
      | some k => .ok (p, w, some k)
      | none => .error (if addr then 1 else 2)

/-- A role by its name. -/
def roleNamed (t : Text) : Option Role :=
  [Role.publicRole, .reader, .installer, .utility, .manufacturer].find? (fun r => decide (roleName r = upper t))

/-- Words joined by spaces. -/
def joinWords : List Text → Text
  | [] => []
  | [w] => w
  | w :: t => w ++ ' ' :: joinWords t

/-- The first and the count of LOG: a single number is the first. -/
def logArgs : List Text → Option (Option Nat × Option Nat)
  | [] => some (none, none)
  | [f] => (readNat 10 f).map (fun n => (some n, none))
  | [f, k] => match readNat 10 f, readNat 10 k with
    | some n, some m => some (some n, some m)
    | _, _ => none
  | _ => none

/-- LOG's arguments. -/
def logOp (c : Carrier) (w : List Text) : Op := match w with
  | [] => errOp 1
  | k :: t =>
    if upper k = txt "TROUBLE" ∨ upper k = txt "LEGAL" then
      match logArgs t with
      | some (f, n) => opLog c (decide (upper k = txt "LEGAL")) f n
      | none => errOp 1
    else errOp 2

/-- KEY's arguments. -/
def keyOp (c : Carrier) (l : LineForm) (w : List Text) : Op := match w with
  | [] => errOp 1
  | k :: t =>
    if upper k = txt "LOAD" then opKeyLoad c l (joinWords t)
    else if upper k = txt "STATUS" then (match t with | [d] => opKeyStatus d | _ => errOp 1)
    else if upper k = txt "PASSWORD" then (match t with
      | [r, p] => (match roleNamed r with | some x => opKeyPassword c x p | none => errOp 2)
      | _ => errOp 1)
    else errOp 2

/-- SCHEDULE's arguments. -/
def scheduleOp (c : Carrier) (w : List Text) : Op := match w with
  | [] => errOp 1
  | k :: t =>
    if upper k = txt "COMMIT" then (if t = [] then opScheduleCommit c else errOp 1)
    else if upper k = txt "DISCARD" then (if t = [] then opScheduleDiscard c else errOp 1)
    else if upper k = txt "SHOW" then (match t with
      | [] => opScheduleShow c false
      | [p] => if upper p = txt "PENDING" then opScheduleShow c true else errOp 2
      | _ => errOp 1)
    else errOp 2

/-- GET's arguments. -/
def getOp (c : Carrier) (w : List Text) : Op := match w with
  | [] => errOp 1
  | t :: r => match objRef t with
    | none => errOp 1
    | some o => match getArgs (decide (t.head? = some '@')) r (false, false, none) with
      | .ok (p, raw, n) => opGet c o p raw n
      | .error e => errOp e

/-- The commands that take arguments, by their words. -/
def argOp (c : Carrier) (l : LineForm) (cmd : Text) (w : List Text) : Op :=
  if cmd = txt "GET" then getOp c w
  else if cmd = txt "SET" then (match w with
    | t :: v => (match objRef t with | some o => opSet c o (joinWords v) | none => errOp 1)
    | [] => errOp 1)
  else if cmd = txt "SHOW" then (match w with
    | [t] => (match objRef t with | some o => opShow c o | none => errOp 1)
    | _ => errOp 1)
  else if cmd = txt "SHOT" then (match w.mapM (readNat 10) with
    | some [p] => opShot c p none
    | some [p, n] => opShot c p (some n)
    | _ => errOp 1)
  else if cmd = txt "LOG" then logOp c w
  else if cmd = txt "LOGIN" then (match w with
    | [r] => (match roleNamed r with | some x => opLogin c x none | none => errOp 2)
    | [r, p] => (match roleNamed r with | some x => opLogin c x (some p) | none => errOp 2)
    | _ => errOp 1)
  else if cmd = txt "KEY" then keyOp c l w
  else if cmd = txt "TOKEN" then (match w with | [d] => opToken d | _ => errOp 1)
  else if cmd = txt "ZEROCAL" then (match w with
    | [m] => if upper m = txt "MPA" then opZerocal c .mpa else if upper m = txt "MPB" then opZerocal c .mpb else errOp 2
    | _ => errOp 1)
  else if cmd = txt "SCHEDULE" then scheduleOp c w
  else if cmd = txt "HELP" then (match w with | [] => opHelp none | [t] => opHelp (some t) | _ => errOp 1)
  else errOp 2

/-- The commands without arguments. -/
def bareOp (c : Carrier) (cmd : Text) : Option Op :=
  if cmd = txt "CAPTURE" then some (opCapture c)
  else if cmd = txt "LOGOUT" then some (opLogout c)
  else if cmd = txt "COMMIT" then some (opCommit c)
  else if cmd = txt "RESET" then some (opReset c)
  else if cmd = txt "STATUS" then some (opStatus c)
  else none

/-- The command of a line's words. -/
def opOf (c : Carrier) (l : LineForm) : List Text → Op
  | [] => errOp 1
  | cmd :: w => match bareOp c (upper cmd) with
    | some o => if w = [] then o else errOp 1
    | none => argOp c l (upper cmd) w

/-- Runs a line as it was received: `kind` 0 as a line, 1 too long or with a byte above 0x7F, 2 with the buffer full, 3 while
the carrier was held. One that its form rejects counts as executed, but not one that lacks the CRC its carrier asks for (R129). -/
def State.runText (s : State) (c : Carrier) (inv : Byte) (kind : Nat) (t : Text) : State :=
  if !s.lineOk c then s
  else
    let (code, form, w) := s.parseForm c t
    if kind = 1 then (s.dropKeyBuf c).send c inv ⟨form.tag, false⟩ (errResp 1)
    else if kind = 2 then (s.dropKeyBuf c).send c inv form (errResp 9)
    else if code ≠ 0 then
      ((if s.reqCrc c ∧ form.crc = false then s else s.bump F.CMD_LINES_LINES 1).dropKeyBuf c).send c inv form (errResp code)
    else if kind = 3 then ((s.bump F.CMD_LINES_LINES 1).dropKeyBuf c).send c inv form (errResp 4)
    else s.runOp c inv form (opOf c form w)

/-- Whether a byte may stand in a line. -/
def lineByte (b : Byte) : Bool := decide (0x20 ≤ b.toNat ∧ b.toNat ≤ 0x7E)

/-- A line of the tunnel, received as `kind` says (R122, R131): empty ones are ignored, too long or malformed ones answer E01. -/
def State.tunnelLine (s : State) (nb : Fin 32) (sec : Bool) (inv : Byte) (kind : Nat) (line : List Byte) : State :=
  if line = [] then s
  else (s.enterTunnel nb.val sec).runText (.tunnel nb) inv (if line.length ≤ 255 ∧ line.all lineByte then kind else 1) (bytesText line)

/-- ACL_LINE (R122, R359): a line in a link message, with the role of its key. -/
def execAclLine (nb : Fin 32) (sec : Bool) (invoke : Byte) (line : List Byte) (s : State) : Host.Outcome State Fault Refusal :=
  .next (s.tunnelLine nb sec invoke 0 line)

/-! ### The rows -/

/-- GET (R132, R135, R136, R140, R141). -/
def execGet (c : Carrier) (l : LineForm) (obj : ObjRef) (pendingView raw : Bool) (count : Option Nat) (s : State) :
    Host.Outcome State Fault Refusal := .next (s.row c l (opGet c obj pendingView raw count))

/-- SET (R135). -/
def execSet (c : Carrier) (l : LineForm) (obj : ObjRef) (value : Text) (s : State) : Host.Outcome State Fault Refusal :=
  .next (s.row c l (opSet c obj value))

/-- SHOW (R132). -/
def execShowObj (c : Carrier) (l : LineForm) (obj : ObjRef) (s : State) : Host.Outcome State Fault Refusal :=
  .next (s.row c l (opShow c obj))

/-- SHOT (R181). -/
def execShot (c : Carrier) (l : LineForm) (path : Nat) (count : Option Nat) (s : State) : Host.Outcome State Fault Refusal :=
  .next (s.row c l (opShot c path count))

/-- Answers E04 for an ACL SHOT request of which no shot has run, and drops it. -/
def State.dropShot (s : State) (code : Nat) : State := match s.ame.aclReq with
  | none => s
  | some q => ({ s with ame := { s.ame with aclReq := none } }).release q.car (errResp code)

/-- SHOT_REQUEST_ABANDON (R181): a request of which no shot has run within 16 ticks. -/
def execShotRequestAbandon (s : State) : Host.Outcome State Fault Refusal :=
  .next (match s.ame.aclReq with
    | some q => if s.serviceOpen ∧ q.ran = none ∧ 16 ≤ q.waited then s.dropShot 4 else s
    | none => s)

/-- CAPTURE (R274, R275). -/
def execCapture (c : Carrier) (l : LineForm) (s : State) : Host.Outcome State Fault Refusal := .next (s.row c l (opCapture c))

/-- LOG TROUBLE (R484). -/
def execLogTrouble (c : Carrier) (l : LineForm) (first count : Option Nat) (s : State) : Host.Outcome State Fault Refusal :=
  .next (s.row c l (opLog c false first count))

/-- LOG LEGAL (R486). -/
def execLogLegal (c : Carrier) (l : LineForm) (first count : Option Nat) (s : State) : Host.Outcome State Fault Refusal :=
  .next (s.row c l (opLog c true first count))

/-- LOGIN (R142 to R144). -/
def execLogin (c : Carrier) (l : LineForm) (role : Role) (secret : Option Text) (s : State) : Host.Outcome State Fault Refusal :=
  .next (s.row c l (opLogin c role secret))

/-- LOGOUT (R142, R145). -/
def execLogout (c : Carrier) (l : LineForm) (s : State) : Host.Outcome State Fault Refusal := .next (s.row c l (opLogout c))

/-- KEY LOAD (R442). -/
def execKeyLoad (c : Carrier) (l : LineForm) (piece : Text) (s : State) : Host.Outcome State Fault Refusal :=
  .next (s.row c l (opKeyLoad c l piece))

/-- KEY STATUS (R444). -/
def execKeyStatus (c : Carrier) (l : LineForm) (digest : Text) (s : State) : Host.Outcome State Fault Refusal :=
  .next (s.row c l (opKeyStatus digest))

/-- KEY PASSWORD (R142). -/
def execKeyPassword (c : Carrier) (l : LineForm) (role : Role) (text : Text) (s : State) : Host.Outcome State Fault Refusal :=
  .next (s.row c l (opKeyPassword c role text))

/-- TOKEN (R334 to R339). -/
def execToken (c : Carrier) (l : LineForm) (digits : Text) (s : State) : Host.Outcome State Fault Refusal :=
  .next (s.row c l (opToken digits))

/-- ZEROCAL (R223, R226). -/
def execZerocal (c : Carrier) (l : LineForm) (mp : MeterPoint) (s : State) : Host.Outcome State Fault Refusal :=
  .next (s.row c l (opZerocal c mp))

/-- COMMIT (R138). -/
def execCommit (c : Carrier) (l : LineForm) (s : State) : Host.Outcome State Fault Refusal := .next (s.row c l (opCommit c))

/-- SCHEDULE COMMIT (R28 to R31, R139). -/
def execScheduleCommit (c : Carrier) (l : LineForm) (s : State) : Host.Outcome State Fault Refusal :=
  .next (s.row c l (opScheduleCommit c))

/-- SCHEDULE DISCARD (R28, R139). -/
def execScheduleDiscard (c : Carrier) (l : LineForm) (s : State) : Host.Outcome State Fault Refusal :=
  .next (s.row c l (opScheduleDiscard c))

/-- SCHEDULE SHOW. -/
def execScheduleShow (c : Carrier) (l : LineForm) (pendingView : Bool) (s : State) : Host.Outcome State Fault Refusal :=
  .next (s.row c l (opScheduleShow c pendingView))

/-- RESET (R139). -/
def execReset (c : Carrier) (l : LineForm) (s : State) : Host.Outcome State Fault Refusal := .next (s.row c l (opReset c))

/-- STATUS (R146). -/
def execStatus (c : Carrier) (l : LineForm) (s : State) : Host.Outcome State Fault Refusal := .next (s.row c l (opStatus c))

/-- HELP. -/
def execHelp (c : Carrier) (l : LineForm) (command : Option Text) (s : State) : Host.Outcome State Fault Refusal :=
  .next (s.row c l (opHelp command))

/-! ### Update messages as rows (R500, R501) -/

/-- An update message from its source; a link partner is answered in a payload. -/
def State.updateFrom (s : State) (src : Source) (type : Nat) (data : List Byte) : State :=
  if !(s.serviceOpen || decide (s.pow.stage = .recovery ∧ src = .carrier .uart)) then s
  else match s.update src type (nats data) with
    | ((code, st, next), s1) => match src with
      | .link nb _ => s1.linkSend nb.val ([byte (type + 0x80), byte code, byte st] ++ bytesBE 4 next)
      | .carrier _ => s1

/-- UPDATE_BEGIN (R502). -/
def execUpdateBegin (src : Source) (data : List Byte) (s : State) : Host.Outcome State Fault Refusal :=
  .next (s.updateFrom src 0x20 data)

/-- UPDATE_DATA (R503). -/
def execUpdateData (src : Source) (data : List Byte) (s : State) : Host.Outcome State Fault Refusal :=
  .next (s.updateFrom src 0x21 data)

/-- UPDATE_END (R504). -/
def execUpdateEnd (src : Source) (data : List Byte) (s : State) : Host.Outcome State Fault Refusal :=
  .next (s.updateFrom src 0x22 data)

/-- UPDATE_ACTIVATE (R506, R508). -/
def execUpdateActivate (src : Source) (data : List Byte) (s : State) : Host.Outcome State Fault Refusal :=
  .next (s.updateFrom src 0x23 data)

/-- UPDATE_ABORT. -/
def execUpdateAbort (src : Source) (data : List Byte) (s : State) : Host.Outcome State Fault Refusal :=
  .next (s.updateFrom src 0x24 data)

/-- UPDATE_STATUS. -/
def execUpdateStatus (src : Source) (data : List Byte) (s : State) : Host.Outcome State Fault Refusal :=
  .next (s.updateFrom src 0x25 data)

/-! ### Queued lines (R148, R149) -/

/-- The line of a carrier that waits for the CMD task, or for the LOGX task (`log`), with the cycle of its terminator. -/
def State.waiting (s : State) (log : Bool) (c : Carrier) : List (Carrier × Nat) := match (s.car c).lines with
  | [] => []
  | e :: _ => if s.isLogLine c e.1 = log then [(c, e.2)] else []

/-- The carrier whose oldest line a task is to run next: the earliest terminator; within one cycle UART, optical, tunnel. -/
def State.nextLine (s : State) (log : Bool) : Option Carrier :=
  ((s.carriers.flatMap (s.waiting log)).foldl (fun (b : Option (Carrier × Nat)) x => match b with
    | none => some x
    | some y => if x.2 < y.2 then some x else some y) none).map (fun p => p.1)

/-- The oldest line of a carrier is at work: its record is READING. -/
def State.beginLine (s : State) (c : Carrier) : State := match (s.car c).lines with
  | (k :: l, t) :: r => s.setCar c { s.car c with lines := (byte (k.toNat % 128 + 128) :: l, t) :: r }
  | _ => s

/-- The oldest line of a carrier has been executed: its record is FREE, or holds the next line. -/
def State.endLineRun (s : State) (c : Carrier) : State := s.setCar c { s.car c with lines := (s.car c).lines.drop 1 }

/-- Runs the oldest line of a carrier. A tunnelled line is kept with its INVOKE and whether its frame was protected. -/
def State.runNext (s : State) (c : Carrier) : State := match (s.car c).lines with
  | [] => s
  | (b, _) :: _ =>
    let s1 := s.beginLine c
    (match c, b with
      | .tunnel n, k :: inv :: sec :: line => s1.tunnelLine n (decide (sec = 1#8)) inv (k.toNat % 128) line
      | _, k :: line => s1.runText c 0#8 (k.toNat % 128) (bytesText line)
      | _, [] => s1).endLineRun c

/-- The step work done on the oldest line of the CMD task, or of the LOGX task. -/
def State.workDone (s : State) (log : Bool) : Nat := if log then s.cmd.logWork else s.cmd.lineWork

/-- Replaces that work. -/
def State.setWork (s : State) (log : Bool) (v : Nat) : State :=
  if log then { s with cmd := { s.cmd with logWork := v } } else { s with cmd := { s.cmd with lineWork := v } }

/-- A slice of queued lines, each of which takes `time` in all (R148): steps of at most `step`, as long as the next cannot take the
slice beyond `slice`, and one at least; none after a RESET line. A line has its effect in its last step, and one that the slice
cannot finish goes on in the next. `used` is the time used so far. Answers the time used. -/
def State.runLines (log : Bool) (time step slice : Nat) : Nat → Nat → State → Nat × State
  | 0, used, s => (used, s)
  | n + 1, used, s =>
    if s.pow.resetReq.isSome then (used, s)
    else match s.nextLine log with
      | none => (used, s)
      | some c =>
        let rest := time - s.workDone log
        let k := min step rest
        if used ≠ 0 ∧ slice < used + k then (used, s)
        else if rest ≤ k then State.runLines log time step slice n (used + k) ((s.setWork log 0).runNext c)
        else State.runLines log time step slice n (used + k) ((s.setWork log (s.workDone log + k)).beginLine c)

/-- CHARACTER_RECEIVED (R77, R118, R123, R124). In recovery mode no tick runs, and a line runs at its terminator (R499). -/
def execCharacterReceived (dt : Nat) (c : Carrier) (ch : Byte) (s : State) : Host.Outcome State Fault Refusal :=
  let s1 := (s.advance dt).receiveChar c ch
  .next (if s1.pow.stage = .recovery then (State.runLines false 0 0 0 1 0 s1).2 else s1)

end Sys2Proof.Machine
end

