-- ==== Sys2Proof/Machine/Tick.lean ====
section
/-! DEFINITION. The phases of a tick: Capture, Compute, the Service window and Persist, with the rows that are steps inside
them (spec 01_architecture.md, R21 to R45; R138, R148, R218, R247, R301, R305, R316, R324, R325, R357, R472, R473). The
Acoustic window stands in Acoustic.lean. -/

namespace Sys2Proof.Machine

/-! ### Overruns (R25, R33) -/

/-- A tick overrun: FT_STAT and FT_OVRCNT, the fault, the next records' OVERRUN, and RECOV at the next Capture (R218). -/
def State.overrun (s : State) : State :=
  let s1 := (s.set1 F.FT_STAT_OVERRUN).bump F.FT_OVRCNT_COUNT 1
  let s2 := s1.detect 0x31 0xFF (s1.get F.FT_OVRCNT_COUNT) .second
  let s3 := (s2.setMp 0 { s2.mp 0 with overran := true })
  ((s3.setMp 1 { s3.mp 1 with overran := true }).markRecov 0).markRecov 1

/-- At a boundary, work of the previous tick that has not ended is an overrun; what is left of it is dropped. -/
def State.overrunCheck (s : State) : State := if s.ticking ∧ !s.tickDone then s.overrun.stopShots else s

/-! ### Capture (R22 to R24, R38, R40) -/

/-- The tick start time and the tick number, which the retained bytes keep (R23, R24, R276). Time writes applied since the
previous Capture are the tick's (R280). -/
def State.latchTick (s : State) : State :=
  let n := (s.rm.tick + 1) % 2 ^ 48
  let s1 := { s with rm := { s.rm with tick := n, startTime := (s.sec, s.frac), untr := s.untrusted }
                     bill := { s.bill with steps := s.bill.steps ++ s.rtc.steps }
                     rtc := { s.rtc with steps := [] }
                     jrn := { s.jrn with since := s.jrn.since + (if s.rm.first then 0 else s.get F.FT_PERIOD_N) } }
  let s2 := ((s1.put F.RTC_TICKSEC_SEC s1.sec).put F.RTC_TICKFRAC_FRAC s1.frac).put F.FT_TICK_LO_TICK (n % 2 ^ 32)
  s2.retWrite 0 ((bytesLE 6 n).map BitVec.toNat)

/-- What the supply, the die and the clocks measure (R65, R113, R114, R490). -/
def State.measureEnv (s : State) (env : CaptureEnv) : State :=
  let s1 := (s.putB F.PWR_STATE_VIO_OK env.vio).put F.PWR_SUPPLY_VBAT_MV (satNat 12 env.vbatMv)
  (s1.put F.PWR_SUPPLY_VBKUP_MV (satNat 12 env.vbkupMv)).putI F.MGMT_TEMP_T (satSigned 16 env.dieTemp)

/-- At the Capture of a seal closing with HOLD = 1, pending shadows of locked fields take back the values in force (R357). -/
def State.discardSealed (s : State) : State :=
  let back (c : Nat × Option Word) : Option Word := c.2.map (fun w => mergeMask (Nat.land (sealMask c.1) (stagedMask c.1)) (s.rd c.1) w)
  if s.shadow.any (fun c => decide (back c ≠ c.2)) then
    ({ s with shadow := s.shadow.map (fun (c : Nat × Option Word) => (c.1, back c)) }).legal 0x33 []
  else s

/-- An admitted schedule table comes into force (R28, R58). -/
def State.installSched (s : State) : State := match s.rm.schedPend with
  | none => s
  | some t => { (s.schedInstall t).clr F.FT_ADMIT_PENDING with rm := { s.rm with schedPend := none } }

/-- Shadows and an admitted table come into force, unless HOLD is 1 (R38, R40). `closing`: a seal closing takes effect. -/
def State.intoForce (s : State) (closing : Bool) : State :=
  if s.flag F.FT_CTRL_HOLD then (if closing then s.discardSealed else s)
  else
    let s1 := s.copyShadows.installSched
    if s1.get F.FT_PERIOD_N = s.get F.FT_PERIOD_N then s1 else s1.set1 F.FT_STAT_PERIOD_CHG

/-- The seal state in force (R68, R356, R357, R508). -/
def State.sealCapture (s : State) (closing : Bool) : State := match s.pins.sealPend with
  | none => s
  | some v =>
    let s1 := { s with pins := { s.pins with sealForce := v, sealPend := none } }
    if closing then (((s1.sealEndsUpdate).clr F.CMD_MODE_TEST).dropShot 6).zcRefuse 6 else s1

/-- A change of a meter point's gas composition that comes into force is recorded (R262). -/
def State.gasChange (s old : State) (x : Nat) : State :=
  if s.rd (F.MP_GAS0 x) = old.rd (F.MP_GAS0 x) ∧ s.rd (F.MP_GAS1 x) = old.rd (F.MP_GAS1 x) then s
  else s.legal 0x31 ([byte x] ++ bytesLE 2 (s.get (F.MP_GAS1_XH2 x)) ++ bytesLE 2 (s.get (F.MP_GAS0_HS x))
    ++ bytesLE 2 (s.get (F.MP_GAS0_D x)))

/-- A change of a tamper input's MODE or POL that comes into force (R479). -/
def State.tampCapture (s old : State) (n : Nat) : State :=
  if s.get (F.SAFE_TAMP_MODE n) = old.get (F.SAFE_TAMP_MODE n) ∧ s.get (F.SAFE_TAMP_POL n) = old.get (F.SAFE_TAMP_POL n) then s
  else if s.get (F.SAFE_TAMP_MODE n) = 0 then (s.tampSense n).showTamp n
  else s.tampArm n

/-- A path that becomes enabled discards its held value (R219). -/
def State.pathCapture (s : State) (n : Nat) : State :=
  let p := s.pathSt n
  let on := s.portOn n
  s.setPathSt n { p with held := if on ∧ !p.enabled then none else p.held, enabled := on }

/-- The acoustic part of Capture: stored zero-calibration values, the front end, the requests, and the decision whether the tick
is a recovery tick (R171, R182, R218, R223, R225). `old` is the state before the shadows were copied. -/
def State.shotCapture (s old : State) : State :=
  let (s1, zcMp) := s.zcInForce
  let changed := s.rm.first || !old.flag F.AME_CTRL_EN || old.shadow.any (fun c => inBlock .ame c.1)
  let (s2, stale) := s1.ameCapture changed
  let s3 := ([0, 1, 2, 3].foldl State.pathCapture s2).consumeTrig
  let now (x : Nat) : Bool := s3.rm.first || (s3.mpOn x && !s3.shot.mpEnabled.getD x false)
    || (s3.flag F.AME_CTRL_EN && !s3.shot.ameEnabled) || decide (zcMp = some x)
    || stale.any (fun n => bit (s3.get (F.MP_CFG_PATHS x)) n)
  let s4 := ((s3.recovCapture 0 (now 0)).recovCapture 1 (now 1)).zcCapture
  let req := s4.ame.aclReq.map (fun q => { q with waited := q.waited + 1 })
  { s4 with
    shot := { s4.shot with mpEnabled := [s4.mpOn 0, s4.mpOn 1], ameEnabled := s4.flag F.AME_CTRL_EN }
    ame := { s4.ame with aclReq := req, done := [], discarded := [], windowOn := false, plan := [], run := none, cross := false
                         xoFail := false, pllFail := false, hidden := [], index := 0, len := 0 } }

/-- Whether the tick needs the 24 MHz oscillator: a SHOT or LOOPBACK entry is due, or radio work (R95). -/
def State.xo24Due (s : State) : Bool := s.shootsDue || s.radioWork

/-- The clock monitor at Capture: an XT32 that is still stopped, and the 24 MHz oscillator (R113, R291). -/
def State.clockCapture (s : State) (env : CaptureEnv) : State :=
  let s1 := if s.rtc.xtRun then s else s.noteStop.detect 0x10 0xFF 0 .atOnce
  if !s1.xo24Due then s1
  else if env.xo24Stable then (s1.set1 F.CLK_STAT_XO24_OK).set1 F.CLK_STAT_PLL_LOCK
  else
    let s2 := (s1.set1 F.CLK_MON_XO24_FAIL).detect 0x12 0xFF 0 .second
    { s2 with ame := { s2.ame with xoFail := true } }

/-- Prepayment at Capture: the unit of credit, and a lockout that continues or ends (R328, R339). -/
def State.payCapture (s : State) : State :=
  let s1 := s.unitOfCredit
  if s1.rm.first then s1.resumeLockout else s1.checkLockout

/-- A PROMO that comes into force can make a waiting task urgent (R35). -/
def State.promoCapture (s old : State) : State :=
  if (s.urgent.any (fun t => !old.urgent.contains t)) && decide (s.get F.FT_CTRL_PROMO ≠ old.get F.FT_CTRL_PROMO) then
    s.set1 F.FT_STAT_PROMOTED else s

/-- Words of the Carousel have gone wrong since the previous Capture; a second error of a word that still holds one is uncorrectable
(R54, log entry 51). -/
def State.upset (s : State) (l : List (Nat × Bool)) : State :=
  l.foldl (fun (t : State) w =>
    { t with ecc := t.ecc.filter (fun e => decide (e.1 ≠ w.1)) ++ [(w.1, w.2 || t.ecc.any (fun e => decide (e.1 = w.1)))] }) s

/-- The Capture phase. -/
def State.capturePhase (s : State) (env : CaptureEnv) : State :=
  let s1 := (s.upset env.upsets).safeCapture.latchTick
  let closing := s1.pins.sealForce && decide (s1.pins.sealPend = some false)
  let s2 := ((((s1.intoForce closing).baudCapture s1).measureEnv env).sealCapture closing).driveCapture
  let s3 := if s2.lossDue then s2.retentionRecord.sealStore else s2
  let s4 := (s3.gasChange s1 0).gasChange s1 1
  let s5 := (((s4.mpCapture 0).mpCapture 1).sensCapture).shotCapture s1
  let s6 := s5.keyCapture.holdCapture
  let s7 := [0, 1, 2, 3].foldl (fun (t : State) n => t.tampCapture s1 n) s6
  let s8 := ((s7.clockCapture env).refreshClose).conditions
  let s9 := ((s8.linkCapture s1).payCapture).dispCapture s1 env.dieTemp
  let s10 := ((s9.promoCapture s1).saveFix.crcCapture)
  let s11 := State.legalRelease 64 s10
  { (s11.put F.FT_PHASE_PHASE 0).enterPower pwrRun with
      rm := { s11.rm with phaseDone := true, first := false }
      pow := { s11.pow with stage := .running, inStart := false, emEnd := none } }

/-- TICK_BOUNDARY (R21 to R25, R38, R72, R110): the tick timer reaches a boundary: the next on its grid, or after a start-up the
first. No tick runs from a backup-domain power-on until the 32.768 kHz oscillator has started. -/
def execTickBoundary (dt : Nat) (env : CaptureEnv) (s : State) : Host.Outcome State Fault Refusal :=
  match s.pow.stage with
  | .running | .awaitTick | .resuming =>
    let s1 := match s.rm.nextAt with
      | some t => s.advance (t - s.uptime)
      | none => s.advance dt
    let base := match s.rm.nextAt with | some t => t | none => s1.uptime
    if !s1.rtc.started then .next { s1 with rm := { s1.rm with nextAt := none } }
    else
      let s2 := s1.overrunCheck.capturePhase env
      .next { s2 with rm := { s2.rm with nextAt := some (base + 1024 * s2.get F.FT_PERIOD_N) } }
  | _ => .next (s.advance dt)

/-- TICK_PRE_WAKE (R92, R95): the core wakes from SLEEP before a boundary, and XO24 starts where the tick needs it; whether it is
stable is found at the Capture. -/
def execTickPreWake (dt : Nat) (s : State) : Host.Outcome State Fault Refusal := .next (s.advance dt).wakeCore

/-! ### Compute -/

/-- The energy difference that the diagnostics found for a meter point. -/
def mismatchOf (d : DiagIn) (x : Nat) : Int := match d.energyDiff.find? (fun p => decide (p.1.val = x)) with
  | some p => p.2
  | none => 0

/-- The watchdog's service: the next is due between 0.5 and 1.5 tick periods later; one that comes earlier than that is a fault, and
the watchdog acts at once (R472). -/
def State.serveWatchdog (s : State) : State :=
  let per := 1024 * s.get F.FT_PERIOD_N
  let early : Bool := match s.pow.wdtFrom with | some t => decide (s.uptime < t) | none => false
  { s with pow := { s.pow with wdtAt := some (if early then s.uptime else s.uptime + per + per / 2), wdtFrom := some (s.uptime + per / 2) } }

/-- Publication: FT_PUBTICK, the longest Compute, the watchdog's service and a tick on trial (R45, R472, R491, R506). -/
def State.publishTickEnd (s : State) (us : Nat) : State :=
  let s1 := (s.put F.FT_PUBTICK_TICK (s.rm.tick % 2 ^ 32)).put F.MGMT_LOAD_COMPMAX
    (max (s.get F.MGMT_LOAD_COMPMAX) (satNat 16 ((us + 9) / 10)))
  s1.serveWatchdog.trialTick

/-- A flash bank that the flash check found bad holds no valid image. -/
def State.flashLost (s : State) (d : DiagIn) : State := match d.flashBad with
  | some (b, _) => { s with mgmt := { s.mgmt with images := s.mgmt.images.set b none } }
  | none => s

/-- The Compute phase. -/
def State.computePhase (s : State) (d : DiagIn) : State :=
  let s1 := (s.showHidden.put F.FT_PHASE_PHASE 2).loopbackCheck
  let s2 := [0, 1, 2, 3].foldl State.depositBlock ((s1.shotCompute 0).shotCompute 1).countPaths
  let s3 := (s2.meterTick 0 (mismatchOf d 0)).meterTick 1 (mismatchOf d 1)
  let s4 := (s3.billSteps.payTick.diagnose d).flashLost d
  (((s4.frameCheck d.frameUpset).noteRows.zcCompute).showHidden).publishTickEnd d.computeUs

/-- COMPUTE (R22, R45). An uncorrectable error of core RAM resets at once (Table 14.3). -/
def execCompute (diag : DiagIn) (s : State) : Host.Outcome State Fault Refusal :=
  .next (if s.computeDue then
    match diag.coreRam with
    | some a => s.safetyRestart 0x22 a
    | none => s.computePhase diag
  else s)

/-- Whether boundaries of the tick's start time are judged in the Compute due: the time is trusted, and no step or catch-up comes
first (R316). -/
def State.boundariesDue (s : State) : Bool :=
  s.computeDue && !s.rm.untr && decide (s.bill.steps = []) && !s.bill.catchUp && !s.bill.catchUntr

/-- DEMAND_BOUNDARY (R301, R316): the next demand boundary is at or before the tick's start time and no period boundary precedes
it. -/
def execDemandBoundary (s : State) : Host.Outcome State Fault Refusal :=
  let d := s.nextDemand (s.get F.BILL_LASTD_SEC)
  let p := s.nextPeriod (s.get F.BILL_LASTP_SEC)
  .next (if s.boundariesDue ∧ d ≤ s.rm.startTime.1 ∧ d ≤ p then s.fireDemand d else s)

/-- PERIOD_BOUNDARY (R305, R316): a scheduled period boundary is at or before the tick's start time; demand boundaries up to it
come first. -/
def execPeriodBoundary (s : State) : Host.Outcome State Fault Refusal :=
  let p := s.nextPeriod (s.get F.BILL_LASTP_SEC)
  .next (if s.boundariesDue ∧ p ≤ s.rm.startTime.1 then s.fireUpTo p 0 400 else s)

/-- TARIFF_SWITCH (R310, R316): the tariff of the tick's start time differs from the one in force; the boundaries due come
first. -/
def execTariffSwitch (s : State) : Host.Outcome State Fault Refusal :=
  let t := s.rm.startTime.1
  .next (if s.boundariesDue ∧ (s.almanac t).1 ≠ s.get F.BILL_STAT_TARIFF then (s.boundaries t).tariffStep t else s)

/-! ### Link payloads (R358, R359, R387, R444, R500) -/

/-- A line in a link message waits for the CMD task (R122, R148). -/
def State.queueTunnel (s : State) (x : RxItem) : State :=
  let c : Carrier := .tunnel (Fin.ofNat 32 x.nb)
  if !s.flag F.CMD_TUN_EN then s
  else match x.payload with
    | _ :: inv :: b :: t => s.queueLine c (s.lineKind c) (inv :: byte (b2n x.sec) :: b :: t)
    | _ => s

/-- An object-service request of Table 10.6; one too short for its fields gets no response. -/
def State.objectPayload (s : State) (x : RxItem) : State :=
  let b := nats x.payload
  let nb : Fin 32 := Fin.ofNat 32 x.nb
  if b.length < 11 then s
  else
    let inv := byte (b.getD 1 0)
    let cls := 256 * b.getD 2 0 + b.getD 3 0
    let obis := (x.payload.drop 4).take 6
    let a := b.getD 10 0
    match b.getD 0 0 with
    | 1 =>
      let sel := if 15 ≤ b.length ∧ cls = 7 ∧ a = 2 then
          some (256 * b.getD 11 0 + b.getD 12 0, b.getD 13 0, b.getD 14 0) else none
      s.objGet nb x.sec inv cls obis a sel
    | 2 => s.objSet nb x.sec inv cls obis a (x.payload.drop 11)
    | _ => s.objAction nb x.sec inv cls obis a (x.payload.drop 11)

/-- A status query (R444): the code, VERSION and the digest. -/
def State.queryPayload (s : State) (x : RxItem) : State :=
  if x.payload.length ≠ 34 then s
  else s.linkSend x.nb ([0x94#8, 0#8, byte (b2n (s.isApplied (x.payload.drop 2)))] ++ bytesBE 4 (s.get F.KEYS_CTR_COUNTER))

/-- A payload of ring 4 goes to its service by its first byte (R387). -/
def State.linkPayload (s : State) (x : RxItem) : State :=
  let nb : Fin 32 := Fin.ofNat 32 x.nb
  let k := (x.payload.getD 0 0#8).toNat
  if x.payload = [] then s
  else if 1 ≤ k ∧ k ≤ 3 then s.objectPayload x
  else if k = 4 then s.queueTunnel x
  else if 0x10 ≤ k ∧ k ≤ 0x13 then s.keyFromLink nb x.sec x.payload
  else if k = 0x14 then s.queryPayload x
  else if 0x20 ≤ k ∧ k ≤ 0x25 then s.updateFrom (.link nb x.sec) k (x.payload.drop 1)
  else s

/-- The RADIO task takes the payloads of ring 4 in their order and frees their slots (R51). -/
def State.takeInbox (s : State) : State :=
  let l := s.link.inbox
  l.foldl (fun (t : State) x => (t.linkPayload x).dequeue 4 x.slot x.slots) { s with link := { s.link with inbox := [] } }

/-! ### The Service window (R33 to R37, R148) -/

/-- Lines that wait on the carriers. -/
def State.lineCount (s : State) : Nat := sumNat (s.carriers.map (fun c => (s.car c).lines.length))

/-- Whether work waits for a Service task (Table 1.5). LOG lines are the work of LOGX, every other line that of CMD (log entry 49).
-/
def State.taskWork (s : State) (task : Nat) : Bool := match task with
  | 0 => decide (s.link.outbox ≠ [] ∨ s.link.inbox ≠ [])
      || (decide (s.link.tx = .idle) && decide (s.link.queue ≠ []) && !s.ame.xoFail)
  | 1 => s.dispWork
  | 2 => (s.nextLine false).isSome
  | 3 => (s.nextLine true).isSome
  | 4 => s.updWork
  | 5 => decide (s.kpd.queue ≠ [])
  | _ => false

/-- Tasks for which work waits are ready. -/
def State.noteWork (s : State) : State :=
  (List.range 6).foldl (fun (t : State) n => if t.taskWork n then t.ready n else t) s

/-- One slice of a task whose step work takes `time`: the time used, and the state after it. For the CMD and LOGX tasks that is the
time of a line in all; CMD works in steps of 1.0 ms at most, LOGX in steps that its SLICE bounds (R148, log entry 49). -/
def State.taskSliceRun (s : State) (task time : Nat) (flashBad : Bool) : Nat × State := match task with
  | 0 => (time, s.takeInbox.radioTask)
  | 1 => (time, s.dispTask)
  | 2 => State.runLines false time 100 (s.taskSlice 2) (s.lineCount + s.taskSlice 2 / 100 + 1) 0 s
  | 3 => State.runLines true time (s.taskSlice 3) (s.taskSlice 3) (s.lineCount + 1) 0 s
  | 4 => (time, s.updTask flashBad)
  | 5 => (time, s.keypadTask)
  | _ => (time, s)

/-- A task's slice in the window: it starts only if its SLICE fits the time left; a longer one is an overrun (R33). Answers the
time left and the tasks served so far. -/
def State.serveTask (work : ServiceIn) (x : Nat × List Nat × State) (task : Nat) : Nat × List Nat × State :=
  let (left, served, s) := x
  let need := s.taskSlice task
  if s.taskEnabled task ∧ s.rm.ages.getD task none ≠ none ∧ need ≤ left then
    let time := match work.slices.find? (fun p => decide (p.1.val = task)) with | some p => p.2 | none => 0
    let (used, s1) := s.taskSliceRun task time work.flashBad
    let s2 := if need < used then s1.overrun else s1
    let age := if s2.taskWork task then some 0 else none
    (left - used, task :: served, { s2 with rm := { s2.rm with ages := s2.rm.ages.set task age } })
  else x

/-- Inserts a task behind those at least as old. -/
def State.insertTask (s : State) (t : Nat) : List Nat → List Nat
  | [] => [t]
  | u :: l => if (s.rm.ages.getD u none).getD 0 < (s.rm.ages.getD t none).getD 0 then t :: u :: l else u :: s.insertTask t l

/-- Tasks oldest first, ties by lower number (R34). -/
def State.byAge (s : State) (l : List Nat) : List Nat := l.foldl (fun r t => s.insertTask t r) []

/-- The order of the Service tasks: urgent ones first (R34). -/
def State.taskOrder (s : State) : List Nat :=
  let u := s.urgent
  s.byAge u ++ s.byAge ((List.range 6).filter (fun t => !u.contains t))

/-- The window ends: an enabled task that waits and was not served is older by one, and urgent at PROMO (R35, R37). -/
def State.ageTasks (s : State) (served : List Nat) : State :=
  let older (p : Option Nat × Nat) : Option Nat :=
    if s.taskEnabled p.2 ∧ !served.contains p.2 then p.1.map (fun a => a + 1) else p.1
  let was := s.urgent
  let s1 := { s with rm := { s.rm with ages := s.rm.ages.zipIdx.map older } }
  if s1.urgent.any (fun t => !was.contains t) then s1.set1 F.FT_STAT_PROMOTED else s1

/-- Sends the response that the carriers of a kind wait for. -/
def State.releaseAll (s : State) (d : Deferred) (r : Resp) : State :=
  s.carriers.foldl (fun (t : State) c => match (t.car c).held with
    | some (x, _) => if x = d then t.release c r else t
    | none => t) s

/-- The response of a ZEROCAL that has ended (R225, R226). -/
def zcResp : Except Nat (List (Nat × Int × Nat)) → Resp
  | .ok l => .data (l.map (fun v => txt "PATH" ++ decText v.1 ++ [' '] ++ fixedText v.2.1 16 ++ txt " ns SPREAD "
      ++ fixedText v.2.2 16 ++ txt " ns"))
  | .error e => errResp e

/-- COMMIT and ZEROCAL answers (R138, R225). -/
def State.answerSaves (s : State) : State :=
  let s0 := if s.cmd.saveReply then s.releaseAll .commit (.ok (decText (s.get F.CMD_SAVED_TICK))) else s
  let s1 := { s0 with cmd := { s0.cmd with saveReply := false } }
  match s1.shot.zcOut with
  | none => s1
  | some o =>
    let s2 := s1.releaseAll .zerocal (zcResp o)
    ({ s2 with shot := { s2.shot with zcOut := none } }).clr F.CMD_STAT_ZCBUSY

/-- SHOT answers with the tick of its first shot, or is abandoned; a request whose shots have run ends (R181). -/
def State.answerShot (s : State) : State := match s.ame.aclReq with
  | none => s
  | some q => match q.ran with
    | some t =>
      let s1 := s.releaseAll .shot (.ok (decText t))
      if q.left = 0 then { s1 with ame := { s1.ame with aclReq := none } } else s1
    | none => if 16 ≤ q.waited then s.dropShot 4 else s

/-- The answer to a key message (R443). -/
def State.answerKey (s : State) : State := match s.keys.reply with
  | none => s
  | some r =>
    let s1 := { s with keys := { s.keys with reply := none } }
    match r.src, r.line with
    | .link nb _, _ => s1.linkSend nb.val r.payload
    | .carrier c, some _ => s1.release c (codeResp r.code)
    | .carrier _, none => s1

/-- Whether the tick has a Persist phase. -/
def State.persistPhaseDue (s : State) : Bool :=
  s.persistDue || s.pow.safetyReq.isSome || s.pow.resetReq.isSome || s.pow.hibReq

/-- The end of the Service window: the Persist phase follows, or the tick's work has ended. -/
def State.endService (s : State) : State :=
  let s1 := if s.persistPhaseDue then s.put F.FT_PHASE_PHASE 3 else s.endPhases
  { s1.xo24Rest with rm := { s1.rm with phaseDone := true } }

/-- The Service window: answers owed, then the tasks from the time that remains, which is never less than the urgent tasks need: what
admission reserves for them, optional work gives up (R34, R36). -/
def State.servicePhase (s : State) (avail : Nat) (work : ServiceIn) : State :=
  let s1 := ((((s.releaseTokens.keyService).answerSaves).answerShot).answerKey).balanceRequests
  let s2 := s1.noteWork
  let room := max avail (sumNat (s2.urgent.map s2.taskSlice))
  let (left, served, s3) := s2.taskOrder.foldl (State.serveTask work) (room, [], s2)
  let s4 := s3.ageTasks served
  (s4.put F.MGMT_LOAD_SVCMAX (max (s4.get F.MGMT_LOAD_SVCMAX) (satNat 16 (room - left)))).endService

/-- The Service window is due: Compute has ended. -/
def State.serviceDue (s : State) : Bool := s.ticking && decide (s.get F.FT_PHASE_PHASE = 2) && s.rm.phaseDone

/-- A command reset that is due after RESET or an activation, or whose time has passed (R139). -/
def State.resetAtEnd (s : State) : Bool :=
  s.commandResetDue || (s.tickDone && (match s.pow.resetReq with | some t => decide (t + secs 10 ≤ s.uptime) | none => false))

/-- The end of the tick's work: a command reset that is due is made (R139). -/
def State.endTick (s : State) : State := if s.resetAtEnd then s.commandReset else s

/-- SERVICE_WINDOW (R34 to R37): `avail` is the time to the tick's Persist reservation, in 10 µs; `flashBad` says that an erase or a
read-back of the code flash in the UPD slice did not match (R503). -/
def execServiceWindow (avail : Nat) (work : ServiceIn) (s : State) : Host.Outcome State Fault Refusal :=
  .next (if s.serviceDue then (s.servicePhase avail work).endTick else s)

/-- TASK_PROMOTION (R35): after a Service window an enabled task's age has reached PROMO. -/
def execTaskPromotion (s : State) : Host.Outcome State Fault Refusal :=
  .next (if s.ticking ∧ 3 ≤ s.get F.FT_PHASE_PHASE ∧ s.urgent ≠ [] then s.set1 F.FT_STAT_PROMOTED else s)

/-! ### Persist (R138, R324, R325) -/

/-- The Persist phase is due. -/
def State.persistPhase (s : State) : Bool := s.ticking && decide (s.get F.FT_PHASE_PHASE = 3) && s.rm.phaseDone

/-- What follows the rows of a Persist phase: an activation asks for a command reset, a safety reset is made, or HIBERNATE is
entered (R94, R471, R506). -/
def State.endPersist (s : State) : State :=
  let s1 := s.activatePersist
  let s2 := if s.mgmt.activate ∧ s1.pow.resetReq = none then { s1 with pow := { s1.pow with resetReq := some s1.uptime } } else s1
  let s3 := s2.endPhases
  match s3.pow.safetyReq with
  | some c => s3.safetyRestart c 0
  | none =>
    if s3.pow.hibReq then (if s3.disp.lcd ∧ s3.flag F.DISP_CTRL_MQHOLD then s3 else s3.settleDisplay.lcdOff).enterHibernate
    else s3

/-- PERSIST (R325). -/
def execPersist (s : State) : Host.Outcome State Fault Refusal :=
  .next (if s.persistPhase then (if s.persistDue then s.persistRows else s).endPersist.endTick else s)

/-- COMMIT_INTERVAL (R324): 900 s of ticks have passed since the previous commit: one is due. -/
def execCommitInterval (s : State) : Host.Outcome State Fault Refusal :=
  .next (if s.ticking ∧ 28800 ≤ s.jrn.since then s.commitDue else s)

/-- SAVE_COMPLETE (R138): in the Persist phase due, the header row of the save is written. -/
def execSaveComplete (s : State) : Host.Outcome State Fault Refusal :=
  .next (if s.persistPhase ∧ s.saving ∧ !s.persistRows.saving then s.saveEnd else s)

end Sys2Proof.Machine
end

