-- ==== Sys2Proof/Machine/Dispatch.lean ====
section
/-! DEFINITION. The meaning of every command: one arm per row of spec/opcode_table.json, in the order of the table. -/

namespace Sys2Proof.Machine

/-- The command's effect on everything but the queue. -/
def exec (i : Instr) (s : State) : Host.Outcome State Fault Refusal :=
  match i with
  | .tickBoundary dt env => Sys2Proof.Machine.execTickBoundary dt env s
  | .tickPreWake dt => Sys2Proof.Machine.execTickPreWake dt s
  | .acousticWindow room disagree => Sys2Proof.Machine.execAcousticWindow room disagree s
  | .ucodeSelp => Sys2Proof.Machine.execUcodeSelp s
  | .ucodeWait => Sys2Proof.Machine.execUcodeWait s
  | .ucodeFire vtxbMv => Sys2Proof.Machine.execUcodeFire vtxbMv s
  | .ucodeWaitf => Sys2Proof.Machine.execUcodeWaitf s
  | .ucodeWaite => Sys2Proof.Machine.execUcodeWaite s
  | .ucodeSwap => Sys2Proof.Machine.execUcodeSwap s
  | .ucodeEnd => Sys2Proof.Machine.execUcodeEnd s
  | .captureEnd chain0 chain1 => Sys2Proof.Machine.execCaptureEnd chain0 chain1 s
  | .correlationEnd => Sys2Proof.Machine.execCorrelationEnd s
  | .vtxbReady dt => Sys2Proof.Machine.execVtxbReady dt s
  | .conversionSequenceEnd dt conv => Sys2Proof.Machine.execConversionSequenceEnd dt conv s
  | .compute diag => Sys2Proof.Machine.execCompute diag s
  | .demandBoundary => Sys2Proof.Machine.execDemandBoundary s
  | .periodBoundary => Sys2Proof.Machine.execPeriodBoundary s
  | .tariffSwitch => Sys2Proof.Machine.execTariffSwitch s
  | .safeStateExit => Sys2Proof.Machine.execSafeStateExit s
  | .emptyPipe mp => Sys2Proof.Machine.execEmptyPipe mp s
  | .emptyPipeClear mp => Sys2Proof.Machine.execEmptyPipeClear mp s
  | .holdExpiry path => Sys2Proof.Machine.execHoldExpiry path s
  | .recoveryEnd mp => Sys2Proof.Machine.execRecoveryEnd mp s
  | .reverseFlowTamper mp => Sys2Proof.Machine.execReverseFlowTamper mp s
  | .pathSignTamper mp => Sys2Proof.Machine.execPathSignTamper mp s
  | .sensorPlausibilityFault mp => Sys2Proof.Machine.execSensorPlausibilityFault mp s
  | .depositBlock path => Sys2Proof.Machine.execDepositBlock path s
  | .zerocalCollectionEnd => Sys2Proof.Machine.execZerocalCollectionEnd s
  | .zerocalTimeout => Sys2Proof.Machine.execZerocalTimeout s
  | .taskPromotion => Sys2Proof.Machine.execTaskPromotion s
  | .serviceWindow avail work => Sys2Proof.Machine.execServiceWindow avail work s
  | .persist => Sys2Proof.Machine.execPersist s
  | .commitInterval => Sys2Proof.Machine.execCommitInterval s
  | .saveComplete => Sys2Proof.Machine.execSaveComplete s
  | .powerFailWarning dt external vbatMv => Sys2Proof.Machine.execPowerFailWarning dt external vbatMv s
  | .emergencyCommitEnd dt vbatMv => Sys2Proof.Machine.execEmergencyCommitEnd dt vbatMv s
  | .ticksResume dt => Sys2Proof.Machine.execTicksResume dt s
  | .powerFailWaitExpiry dt => Sys2Proof.Machine.execPowerFailWaitExpiry dt s
  | .brownOut dt => Sys2Proof.Machine.execBrownOut dt s
  | .switchOver dt toBackup => Sys2Proof.Machine.execSwitchOver dt toBackup s
  | .backupEntry dt => Sys2Proof.Machine.execBackupEntry dt s
  | .aonPowerOn dt => Sys2Proof.Machine.execAonPowerOn dt s
  | .retentionLoss dt => Sys2Proof.Machine.execRetentionLoss dt s
  | .minlow dt => Sys2Proof.Machine.execMinlow dt s
  | .backupDomainPowerOn dt => Sys2Proof.Machine.execBackupDomainPowerOn dt s
  | .startGate dt => Sys2Proof.Machine.execStartGate dt s
  | .resetnLow pulse => Sys2Proof.Machine.execResetnLow pulse s
  | .watchdogReset dt => Sys2Proof.Machine.execWatchdogReset dt s
  | .commandReset => Sys2Proof.Machine.execCommandReset s
  | .resetDrainTimeout => Sys2Proof.Machine.execResetDrainTimeout s
  | .startUp dt found => Sys2Proof.Machine.execStartUp dt found s
  | .hibernateWake dt => Sys2Proof.Machine.execHibernateWake dt s
  | .carrierWake dt c => Sys2Proof.Machine.execCarrierWake dt c s
  | .carrierIdle dt c => Sys2Proof.Machine.execCarrierIdle dt c s
  | .gpioWake dt ball => Sys2Proof.Machine.execGpioWake dt ball s
  | .characterReceived dt c ch => Sys2Proof.Machine.execCharacterReceived dt c ch s
  | .signOnRequest dt address => Sys2Proof.Machine.execSignOnRequest dt address s
  | .identification dt => Sys2Proof.Machine.execIdentification dt s
  | .optionSelect dt z mode => Sys2Proof.Machine.execOptionSelect dt z mode s
  | .optionSelectTimeout dt => Sys2Proof.Machine.execOptionSelectTimeout dt s
  | .breakMessage dt => Sys2Proof.Machine.execBreakMessage dt s
  | .get c l obj pendingView raw count => Sys2Proof.Machine.execGet c l obj pendingView raw count s
  | .set c l obj value => Sys2Proof.Machine.execSet c l obj value s
  | .showObj c l obj => Sys2Proof.Machine.execShowObj c l obj s
  | .shot c l path count => Sys2Proof.Machine.execShot c l path count s
  | .shotRequestAbandon => Sys2Proof.Machine.execShotRequestAbandon s
  | .capture c l => Sys2Proof.Machine.execCapture c l s
  | .logTrouble c l first count => Sys2Proof.Machine.execLogTrouble c l first count s
  | .logLegal c l first count => Sys2Proof.Machine.execLogLegal c l first count s
  | .login c l role secret => Sys2Proof.Machine.execLogin c l role secret s
  | .loginLockExpiry dt c => Sys2Proof.Machine.execLoginLockExpiry dt c s
  | .challengeExpiry dt c => Sys2Proof.Machine.execChallengeExpiry dt c s
  | .logout c l => Sys2Proof.Machine.execLogout c l s
  | .keyLoad c l piece => Sys2Proof.Machine.execKeyLoad c l piece s
  | .keyLoadBufferExpiry dt c => Sys2Proof.Machine.execKeyLoadBufferExpiry dt c s
  | .keyStatus c l digest => Sys2Proof.Machine.execKeyStatus c l digest s
  | .keyPassword c l role text => Sys2Proof.Machine.execKeyPassword c l role text s
  | .token c l digits => Sys2Proof.Machine.execToken c l digits s
  | .tokenLockoutExpiry => Sys2Proof.Machine.execTokenLockoutExpiry s
  | .zerocal c l mp => Sys2Proof.Machine.execZerocal c l mp s
  | .commit c l => Sys2Proof.Machine.execCommit c l s
  | .scheduleCommit c l => Sys2Proof.Machine.execScheduleCommit c l s
  | .scheduleDiscard c l => Sys2Proof.Machine.execScheduleDiscard c l s
  | .scheduleShow c l pendingView => Sys2Proof.Machine.execScheduleShow c l pendingView s
  | .reset c l => Sys2Proof.Machine.execReset c l s
  | .status c l => Sys2Proof.Machine.execStatus c l s
  | .help c l command => Sys2Proof.Machine.execHelp c l command s
  | .registerWrite src addr value => Sys2Proof.Machine.execRegisterWrite src addr value s
  | .hibernate src => Sys2Proof.Machine.execHibernate src s
  | .timeWrite src value => Sys2Proof.Machine.execTimeWrite src value s
  | .timeWriteApplied => Sys2Proof.Machine.execTimeWriteApplied s
  | .setDate src value => Sys2Proof.Machine.execSetDate src value s
  | .setTime src value => Sys2Proof.Machine.execSetTime src value s
  | .countdownTimerWrite src value => Sys2Proof.Machine.execCountdownTimerWrite src value s
  | .countdownTimerExpiry => Sys2Proof.Machine.execCountdownTimerExpiry s
  | .trimWindow => Sys2Proof.Machine.execTrimWindow s
  | .wrap => Sys2Proof.Machine.execWrap s
  | .xt32Stopped dt => Sys2Proof.Machine.execXt32Stopped dt s
  | .pllUnlocked dt => Sys2Proof.Machine.execPllUnlocked dt s
  | .rcNotLocked dt => Sys2Proof.Machine.execRcNotLocked dt s
  | .close src => Sys2Proof.Machine.execClose src s
  | .remoteDisconnect src => Sys2Proof.Machine.execRemoteDisconnect src s
  | .remoteReconnect src => Sys2Proof.Machine.execRemoteReconnect src s
  | .prepaymentModeWrite src mode => Sys2Proof.Machine.execPrepaymentModeWrite src mode s
  | .actuatorDrive => Sys2Proof.Machine.execActuatorDrive s
  | .driveCurrentCheck dt milliAmp => Sys2Proof.Machine.execDriveCurrentCheck dt milliAmp s
  | .drivePulseExpiry dt => Sys2Proof.Machine.execDrivePulseExpiry dt s
  | .actuatorTimeout dt => Sys2Proof.Machine.execActuatorTimeout dt s
  | .feedbackChange dt first more => Sys2Proof.Machine.execFeedbackChange dt first more s
  | .sealChange dt samples => Sys2Proof.Machine.execSealChange dt samples s
  | .tamperInputChange dt input samples => Sys2Proof.Machine.execTamperInputChange dt input samples s
  | .shottrigEdge dt => Sys2Proof.Machine.execShottrigEdge dt s
  | .keypadWake dt => Sys2Proof.Machine.execKeypadWake dt s
  | .keyAccepted dt key => Sys2Proof.Machine.execKeyAccepted dt key s
  | .keyReleased dt => Sys2Proof.Machine.execKeyReleased dt s
  | .entryTimeout dt => Sys2Proof.Machine.execEntryTimeout dt s
  | .holdack src => Sys2Proof.Machine.execHoldack src s
  | .dbgen src => Sys2Proof.Machine.execDbgen src s
  | .ack src => Sys2Proof.Machine.execAck src s
  | .force src => Sys2Proof.Machine.execForce src s
  | .keyUpdate m => Sys2Proof.Machine.execKeyUpdate m s
  | .lifeCycleTransition m => Sys2Proof.Machine.execLifeCycleTransition m s
  | .authorityChange m => Sys2Proof.Machine.execAuthorityChange m s
  | .tamperAcknowledgement m => Sys2Proof.Machine.execTamperAcknowledgement m s
  | .statusQuery nb digest => Sys2Proof.Machine.execStatusQuery nb digest s
  | .ecdsaVerificationEnd => Sys2Proof.Machine.execEcdsaVerificationEnd s
  | .objectGet nb sec invoke cls obis index select => Sys2Proof.Machine.execObjectGet nb sec invoke cls obis index select s
  | .objectSet nb sec invoke cls obis index data => Sys2Proof.Machine.execObjectSet nb sec invoke cls obis index data s
  | .objectAction nb sec invoke cls obis index data => Sys2Proof.Machine.execObjectAction nb sec invoke cls obis index data s
  | .aclLine nb sec invoke line => Sys2Proof.Machine.execAclLine nb sec invoke line s
  | .specialDayInsert src data => Sys2Proof.Machine.execSpecialDayInsert src data s
  | .specialDayDelete src data => Sys2Proof.Machine.execSpecialDayDelete src data s
  | .channelSample dt preamble => Sys2Proof.Machine.execChannelSample dt preamble s
  | .syncWaitLimit dt => Sys2Proof.Machine.execSyncWaitLimit dt s
  | .frameReceived dt f => Sys2Proof.Machine.execFrameReceived dt f s
  | .acknowledgement dt => Sys2Proof.Machine.execAcknowledgement dt s
  | .frameQueued slot => Sys2Proof.Machine.execFrameQueued slot s
  | .transmissionStart dt channelRssi => Sys2Proof.Machine.execTransmissionStart dt channelRssi s
  | .clearChannelRetry dt channelRssi => Sys2Proof.Machine.execClearChannelRetry dt channelRssi s
  | .transmissionEnd dt => Sys2Proof.Machine.execTransmissionEnd dt s
  | .ackTimeout dt => Sys2Proof.Machine.execAckTimeout dt s
  | .busyRetry dt => Sys2Proof.Machine.execBusyRetry dt s
  | .dutyBinExpiry dt => Sys2Proof.Machine.execDutyBinExpiry dt s
  | .join dt => Sys2Proof.Machine.execJoin dt s
  | .telegramDue dt => Sys2Proof.Machine.execTelegramDue dt s
  | .install dt => Sys2Proof.Machine.execInstall dt s
  | .bistableUpdateEnd dt => Sys2Proof.Machine.execBistableUpdateEnd dt s
  | .dischargeEnd dt => Sys2Proof.Machine.execDischargeEnd dt s
  | .pageReturn dt => Sys2Proof.Machine.execPageReturn dt s
  | .pageScroll dt => Sys2Proof.Machine.execPageScroll dt s
  | .updateBegin src data => Sys2Proof.Machine.execUpdateBegin src data s
  | .updateData src data => Sys2Proof.Machine.execUpdateData src data s
  | .updateEnd src data => Sys2Proof.Machine.execUpdateEnd src data s
  | .updateActivate src data => Sys2Proof.Machine.execUpdateActivate src data s
  | .updateAbort src data => Sys2Proof.Machine.execUpdateAbort src data s
  | .updateStatus src data => Sys2Proof.Machine.execUpdateStatus src data s
  | .updateSessionTimeout dt => Sys2Proof.Machine.execUpdateSessionTimeout dt s
  | .trialConfirmation => Sys2Proof.Machine.execTrialConfirmation s
  | .xt32Ok dt => Sys2Proof.Machine.execXt32Ok dt s
  | .rcLock dt => Sys2Proof.Machine.execRcLock dt s
  | .syncWord dt => Sys2Proof.Machine.execSyncWord dt s
  | .lcdPowerOff dt => Sys2Proof.Machine.execLcdPowerOff dt s

end Sys2Proof.Machine
end

