-- ==== Sys2Proof/Safety.lean ====
section
/-! DEFINITION. What a sound state of the block is, in the terms that statements use. -/

namespace Sys2Proof.Machine

/-- The stores that hold the registers (R8), their pending shadows (R38), the Carousel, its tokens and its rings' record counts (R49
to R51), the metrology store (R323) and the carriers of link messages (R122) are each in canonical form: keys rise and no entry
equals what an unlisted key reads as. -/
def storesCanonical (regs : List (Nat × Word)) (shadow : List (Nat × Option Word)) (crs : List Host.Cell)
    (tok ringSeq : List (Nat × Nat)) (nvm : List Host.Cell) (tun : List (Nat × CarrierSt)) : Bool :=
  swf regReset regs && swf (fun _ => none) shadow && swf byteDefault crs && swf (fun _ => 0) tok && swf (fun _ => 0) ringSeq
    && swf byteDefault nvm && swf (fun _ => CarrierSt.init) tun

/-- The state's stores are in canonical form, so that equal contents are equal data and a read after a write gives the value
written. -/
def State.canonical (s : State) : Bool := storesCanonical s.regs s.shadow s.crs s.tok s.ringSeq s.nvm s.cmd.tun

/-- A one-time debug cell that is programmed stays programmed (R428, R451). -/
def Cells.kept (a b : Cells) : Bool := (!a.dbgB || b.dbgB) && (!a.dbgR || b.dbgR)

/-- The command runs, and its next state has the property: the form of every statement of what a command does. -/
def Runs (c : Instr) (s : State) (p : State → Prop) : Prop := ∃ t, exec c s = .next t ∧ p t

/-- The registers of `t` are those of `s` but for the bits of the given fields. -/
def RegsBut (s t : State) (fs : List Fld) : Prop :=
  ∀ a i, (∀ f ∈ fs, f.addr = a → i < f.lo ∨ f.hi < i) → (t.rd a).getLsbD i = (s.rd a).getLsbD i

/-- `t` is `s` but for the bits of the given register fields. -/
def OnlyRegs (s t : State) (fs : List Fld) : Prop := RegsBut s t fs ∧ t = { s with regs := t.regs }

/-- Every register in the window of a block reads its reset value (R9). -/
def BlockReset (t : State) (b : Block) : Prop := ∀ a, blockOfAddr a = some b → t.rd a = regReset a

/-- Every register in the window of a block reads as in `s`. -/
def BlockKept (s t : State) (b : Block) : Prop := ∀ a, blockOfAddr a = some b → t.rd a = s.rd a

/-- A whole register as a field. -/
def wholeReg (a : Nat) : Fld := ⟨a, 31, 0⟩

/-- A line that a row delivers on a carrier runs at once and nothing stands before its answer: ticks run, the carrier's lines run
(R120, R139), it owes no response (R131), and the line has the CRC suffix that the carrier requires (R129). -/
def State.lineRuns (s : State) (c : Carrier) (l : LineForm) : Bool :=
  s.ticking && s.lineOk c && !s.owes c && (!s.reqCrc c || l.crc)

/-- The state in which the command of such a line runs: a tunnel has its key's role (R358), the line is counted, and the KEY LOAD
buffer of its carrier is discarded where `keep` is false (R442). -/
def State.onLine (s : State) (c : Carrier) (keep : Bool) : State :=
  let s1 := (s.enterLine c).bump F.CMD_LINES_LINES 1
  if keep then s1 else s1.dropKeyBuf c

/-- From `s` the carrier has sent the response next, in the form of the line: behind its bytes waiting, or on the tunnel in a
message; an error response is counted (R127 to R130, R359). -/
def Responded (s t : State) (c : Carrier) (l : LineForm) (r : Resp) : Prop :=
  (match c with
    | .tunnel n => t.link.outbox = s.link.outbox ++ [(n.val, [0x84#8, 0#8, byte r.code] ++ r.bytes l)]
    | _ => (t.car c).tx = (s.car c).tx ++ r.bytes l)
  ∧ (t.car c).held = none
  ∧ t.get F.CMD_LINES_ERRORS = min (s.get F.CMD_LINES_ERRORS + b2n (decide (r.code ≠ 0))) 65535

/-- The same of a line that has been executed, which CMD_LINES counts (R150). -/
def Answered (s t : State) (c : Carrier) (l : LineForm) (r : Resp) : Prop :=
  Responded s t c l r ∧ t.get F.CMD_LINES_LINES = min (s.get F.CMD_LINES_LINES + 1) 65535

/-- From `s` the carrier waits for a deferred response to the line (R131). -/
def Deferring (s t : State) (c : Carrier) (l : LineForm) (d : Deferred) : Prop :=
  (t.car c).held = some (d, l) ∧ (t.car c).tx = (s.car c).tx ∧ t.link.outbox = s.link.outbox
  ∧ t.get F.CMD_LINES_LINES = min (s.get F.CMD_LINES_LINES + 1) 65535

/-- The record counts of every ring but ring 6, that of the line buffers, are those of `s` (R50). -/
def SeqKept (s t : State) : Prop := ∀ r, r ≠ 6 → sget (fun _ => 0) t.ringSeq r = sget (fun _ => 0) s.ringSeq r

/-- `t` is `s` but for the bits of the given register fields, the carriers, the link's outbox and the count of the records of line
buffers. -/
def OnlyLineAnd (s t : State) (fs : List Fld) : Prop :=
  RegsBut s t fs ∧ SeqKept s t
  ∧ t = { s with regs := t.regs, ringSeq := t.ringSeq, cmd := t.cmd, link := { s.link with outbox := t.link.outbox } }

/-- Answering a line changed nothing but those and CMD_LINES. -/
def OnlyLine (s t : State) : Prop := OnlyLineAnd s t [wholeReg F.CMD_LINES]

end Sys2Proof.Machine
end

