-- ==== Sys2Proof/Certificates/Slice0/Obligations.lean ====
section
/-! DEFINITION. The statements about the block. Each says what its commands do wherever the spec gives them their effect: `Runs c s p`
says that `exec c s` answers a next state with the property `p`. -/

open Sys2Proof Sys2Proof.Machine

/-! ### Supply, resets and start-up -/

/-- Tables 3.8 and 3.9: a brown-out, a power-on of AON and RESETN low reset CORE, AFE, RF and DISP, keep the metrology store, the
one-time cells and the time, and set their cause; the domain AON too is reset by the last two. RESETN acts once it is low for 2 µs,
and the device is in reset until it is released (R73). -/
def Obligations.ResetsOfPowerClearTheirDomains : Prop := ∀ (p : ResetPulse) (s : State), s.canonical = true →
  let dt := p.dt
  let lowUs := p.lowUs
  let s1 := s.advance dt
  let coreLost (t : State) : Prop :=
    (∀ b ∈ [Block.sys, .ame, .shot, .mpa, .mpb, .sens, .bill, .alm, .radio, .link, .disp, .keys, .log, .cmd], BlockReset t b)
    ∧ t.crs = [] ∧ t.tok = [] ∧ t.shadow = [] ∧ t.keys.slots = List.replicate 8 none ∧ t.nvm = s1.nvm ∧ t.saved = s1.saved
    ∧ t.keys.cells = s1.keys.cells
    ∧ (∀ a ∈ [F.RTC_SEC, F.RTC_FRAC, F.RTC_RET 0, F.RTC_RET 1, F.RTC_RET 2, F.RTC_RET 3], t.rd a = s1.rd a)
  let aonLost (t : State) : Prop := (∀ a, blockOfAddr a = some .pwr → a ≠ F.PWR_STATE → a ≠ F.PWR_RSTCAUSE → t.rd a = regReset a)
    ∧ BlockReset t .clk ∧ BlockReset t .ft ∧ t.pins.pfwarnLow = false
  (s1.pow.stage ≠ .backup → Runs (.brownOut dt) s fun t => coreLost t ∧ t.flag F.PWR_RSTCAUSE_BOR = true ∧ t.pow.stage = .gate
    ∧ BlockKept s1 t .clk ∧ BlockKept s1 t .ft)
  ∧ (s1.pow.stage ≠ .backup → Runs (.backupEntry dt) s fun t => coreLost t ∧ t.pow.stage = .backup)
  ∧ (s1.pow.stage = .backup → Runs (.aonPowerOn dt) s fun t => coreLost t ∧ aonLost t ∧ t.pow.stage = .gate
    ∧ t.rd F.PWR_RSTCAUSE = regReset F.PWR_RSTCAUSE ∧ t.flag F.PWR_STATE_BKSRC = s1.pow.onBackup)
  ∧ (s1.pow.stage ≠ .backup → s1.pow.stage ≠ .emergency → 2 ≤ lowUs → Runs (.resetnLow p) s fun t => ∃ u,
    coreLost u ∧ aonLost u ∧ u.rd F.PWR_RSTCAUSE = 3#32 ∧ u.uptime = s1.uptime ∧ u.pow.stage = .gate
    ∧ t = { u.advance (usCycles lowUs) with pow := t.pow, pins := t.pins }
    ∧ t.pow.stage = (if s1.gateAfterReset then .startUp else .gate))
  ∧ (s1.pow.stage ≠ .backup → s1.pow.stage = .emergency → 2 ≤ lowUs → Runs (.resetnLow p) s fun t =>
    t = { s1 with pow := { s1.pow with extLow := some (s1.uptime + usCycles lowUs) } })
  ∧ (lowUs < 2 → Runs (.resetnLow p) s fun t => t = s1)

/-- Tables 3.8 and 3.9: watchdog and command resets keep the trouble log and the AON registers, and the start-up follows at once
where the start gate is met. -/
def Obligations.WatchdogAndCommandResetsKeepTheLog : Prop := ∀ (dt t0 : Nat) (s : State), s.canonical = true →
  let kept (s1 t : State) : Prop := (∀ b ∈ [Block.ame, .shot, .bill, .alm, .link, .disp, .keys, .cmd], BlockReset t b)
    ∧ BlockKept s1 t .clk ∧ BlockKept s1 t .ft ∧ t.rd F.LOG_TSEQ = s1.rd F.LOG_TSEQ
    ∧ (∀ a, logSlot ((a - slotAddr 0) / 128) = true → t.crsByte a = s1.crsByte a)
    ∧ (∀ a, logSlot ((a - slotAddr 0) / 128) = false → t.crsByte a = 0#8)
    ∧ t.keys.slots = List.replicate 8 none ∧ t.pow.stage = (if s1.pow.gateMet then .startUp else .gate)
  (s.pow.wdtAt = some t0 → s.pow.stage ∈ [Stage.startUp, .awaitTick, .running, .resuming] →
    Runs (.watchdogReset dt) s fun t => kept (s.passTo dt t0) t ∧ t.flag F.PWR_RSTCAUSE_WDOG = true
      ∧ t.pow.restart = some (0x01, (s.passTo dt t0).flag F.PWR_RSTCAUSE_WDOG, 0))
  ∧ (s.commandResetDue = true → s.disp.run = none →
    Runs .commandReset s fun t => kept s t ∧ t.flag F.PWR_RSTCAUSE_CMD = true)
  ∧ (s.pow.resetReq = some t0 → s.tickDone = true → t0 + secs 10 ≤ s.uptime → s.disp.run = none →
    Runs .resetDrainTimeout s fun t => kept s t ∧ t.flag F.PWR_RSTCAUSE_CMD = true)

/-- R71, R93 and R108: VBAT recovered for 10 ms begins a start-up at the gate and ends HIBERNATE with HIBWAKE; a latched wake ends it
once the gate is met, and waits until then; elsewhere the gate is noted as met and PFWARN, outside an emergency commit, released. A
power-fail wait that expires enters HIBERNATE with the gate not met (Table 3.7). -/
def Obligations.StartGateAndHibernate : Prop := ∀ (dt : Nat) (s : State), s.canonical = true →
  let s1 := s.advance dt
  let starts (t : State) : Prop := t.pow.stage = .startUp ∧ t.pow.gateMet = true ∧ t.pow.wdtAt = some (t.uptime + secs 2)
  let woken (t : State) : Prop := starts t ∧ t.flag F.PWR_RSTCAUSE_HIBWAKE = true ∧ t.crs = [] ∧ t.shadow = [] ∧ t.nvm = s1.nvm
    ∧ t.uptime = s1.uptime
  (s.pow.stage = .gate → ∃ t, exec (.startGate dt) s = .next t ∧ starts t ∧ t.pins.pfwarnLow = false
    ∧ t = { s1 with pow := t.pow, pins := t.pins })
  ∧ (s.pow.stage = .hibernate → s.pow.gateMet = false → ∃ t, exec (.startGate dt) s = .next t ∧ woken t ∧ t.pins.pfwarnLow = false)
  ∧ (s.pow.stage ∉ [Stage.gate, .backup] → s.pow.stage ≠ .hibernate ∨ s.pow.gateMet = true → ∃ t, exec (.startGate dt) s = .next t
    ∧ t.pins.pfwarnLow = (s1.pins.pfwarnLow && decide (s.pow.stage = .emergency))
    ∧ t = { s1 with pow := { s1.pow with gateMet := true }, pins := { s1.pins with pfwarnLow := t.pins.pfwarnLow } })
  ∧ (s.pow.stage = .backup → ∃ t, exec (.startGate dt) s = .next t ∧ t = s1)
  ∧ (s.pow.stage = .hibernate → s.pow.gateMet = true → s1.ret 7 ≠ 0 → ∃ t, exec (.hibernateWake dt) s = .next t ∧ woken t)
  ∧ (s.pow.stage ≠ .hibernate ∨ s.pow.gateMet = false ∨ s1.ret 7 = 0 → ∃ t, exec (.hibernateWake dt) s = .next t ∧ t = s1)
  ∧ (∀ t0, s.pow.stage = .pfWait → s.pow.emEnd = some t0 → ∃ t, exec (.powerFailWaitExpiry dt) s = .next t
    ∧ t.pow.stage = .hibernate ∧ t.pow.gateMet = false ∧ t.pow.wdtAt = none ∧ t0 + secs 1 ≤ t.uptime
    ∧ (let u := s.passTo dt (t0 + secs 1)
       t.uptime = u.uptime ∧ t.count = u.count ∧ t.rm.tick = u.rm.tick ∧ t.nvm = u.nvm ∧ t.saved = u.saved ∧ t.disp = u.disp
       ∧ BlockKept u t .disp ∧ BlockKept u t .ft)
    ∧ t.crs = [] ∧ t.shadow = [] ∧ t.pins.paCtl = false ∧ t.pins.txOn = false ∧ (∀ b ∈ [Block.ame, .shot, .bill, .link], BlockReset t b))
  ∧ (s.pow.stage ≠ .pfWait ∨ s.pow.emEnd = none → ∃ t, exec (.powerFailWaitExpiry dt) s = .next t ∧ t = s1)

/-- R109, R429, R457, R498, R499: with a metrology image and a valid, compatible image in the active bank the start-up ends with
ticks to begin, and a root key that fails its check, or a random number generator that fails its test, is shown; without a metrology
image the boot ROM enters recovery mode, with the trouble log cleared. -/
def Obligations.StartUpEndsReadyOrInRecovery : Prop := ∀ (dt : Nat) (x : BootIn) (s : State), s.canonical = true →
  s.pow.stage = .startUp → s.mgmt.pendCopy = none → s.mgmt.trial = none →
  (s.mgmt.images.getD 0 none = none → Runs (.startUp dt x) s fun t => t.pow.stage = .recovery ∧ t.pow.wdtAt = none
    ∧ t.get F.LOG_TSEQ_SEQ = 0)
  ∧ (s.mgmt.images.getD 0 none ≠ none → s.bankOk s.mgmt.active = true →
    Runs (.startUp dt x) s fun t => t.pow.stage = .awaitTick ∧ t.rm.first = true ∧ t.rm.nextAt = none
      ∧ (t.flag F.KEYS_STAT_ROOTERR = true ↔ x.rootsBad ≠ [] ∨ ∃ i : Fin 3, s.keys.cells.rootBad.getD i.val false = true)
      ∧ t.keys.rngOff = x.rngBad ∧ (x.rngBad = true → t.flag F.KEYS_STAT_TRNGERR = true))

/-- R97 to R99 and R295: what the supply events of the BKUP domain change. -/
def Obligations.BackupSupplyEvents : Prop := ∀ (dt : Nat) (toBackup : Bool) (s : State), s.canonical = true →
  let s1 := s.advance dt
  (s1.pow.stage ≠ .backup → s1.pow.onBackup ≠ toBackup → Runs (.switchOver dt toBackup) s fun t =>
    t.flag F.PWR_STATE_BKSRC = toBackup
    ∧ t.get F.PWR_BKSW_SWCNT = (if toBackup then min (s1.get F.PWR_BKSW_SWCNT + 1) 65535 else s1.get F.PWR_BKSW_SWCNT)
    ∧ RegsBut s1 t [F.PWR_STATE_BKSRC, F.PWR_BKSW_SWCNT]
    ∧ t = { s1 with regs := t.regs, pow := { s1.pow with onBackup := toBackup } })
  ∧ (s1.pow.stage = .backup ∨ s1.pow.onBackup = toBackup → Runs (.switchOver dt toBackup) s fun t =>
    t = { s1 with pow := { s1.pow with onBackup := toBackup } })
  ∧ Runs (.retentionLoss dt) s (fun t => t.rtc.lost = true ∧ t.rtc.railLow = true ∧ t.rtc.xtRun = false ∧ t.rtc.wr = none
    ∧ t = { s1 with rtc := t.rtc })
  ∧ Runs (.minlow dt) s (fun t => t.flag F.PWR_BKSW_MINLOW = true ∧ OnlyRegs s1 t [F.PWR_BKSW_MINLOW])
  ∧ (s1.rtc.railLow = true → Runs (.backupDomainPowerOn dt) s fun t => BlockReset t .rtc ∧ t.get F.RTC_SEC_SEC = 0 ∧ t.rm.tick = 0
    ∧ t.get F.FT_TICK_LO_TICK = 0 ∧ t.get F.FT_TICK_HI_TICK = 0
    ∧ t.flag F.RTC_STAT_OSF = true ∧ t.flag F.RTC_STAT_BKPOR = true ∧ t.flag F.CLK_STAT_XT32_OK = false ∧ t.rtc.railLow = false
    ∧ (s1.pow.stage ≠ .backup → t.flag F.PWR_RSTCAUSE_BKPOR = true) ∧ t.crs = s1.crs ∧ t.nvm = s1.nvm)

/-- R71, R72, R100 to R104: a warning of VBAT, or of PFWARN held low for two cycles, while ticks run stops the tick, the transmitter
and the drivers and begins the emergency commit with every queued legal entry; its end leaves the wait, from which ticks resume at
the next boundary. -/
def Obligations.PowerFailWarningToResumedTicks : Prop := ∀ (dt mv t0 : Nat) (external : Option Nat) (s : State), s.canonical = true →
  let s1 := s.advance dt
  (s1.pow.stage ∈ [Stage.running, .awaitTick] → (∀ n, external = some n → 2 ≤ n) → Runs (.powerFailWarning dt external mv) s fun t =>
    t.pow.stage = .emergency ∧ t.pins.pfwarnLow = true ∧ t.pins.window = false ∧ t.pins.paCtl = false ∧ t.pins.txOn = false
    ∧ t.ame.run = none ∧ t.pow.wdtAt = none ∧ t.jrn.lq = [] ∧ t.jrn.emOpen = true ∧ t.get F.BILL_JRNL_PEND = 0
    ∧ (external = none → t.pow.gateMet = false) ∧ t.act.drive = none ∧ t.ame.boost = false ∧ t.get F.FT_PHASE_PHASE = 5
    ∧ t.get F.PWR_PFSTAT_COUNT = min (s1.get F.PWR_PFSTAT_COUNT + 1) 65535 ∧ t.flag F.PWR_PFSTAT_EXT = external.isSome
    ∧ t.pow.emEnd = some (t.uptime + (32768 * (1000 + 1500 * t.pow.emRows) + 999999) / 1000000))
  ∧ (∀ n, external = some n → n < 2 → Runs (.powerFailWarning dt external mv) s fun t => t = s1)
  ∧ (s.pow.stage = .emergency → s.pow.emEnd = some t0 → s.pow.extLow = none → Runs (.emergencyCommitEnd dt mv) s fun t =>
    t.pow.stage = .pfWait ∧ t.pow.emEnd = some t.uptime ∧ (t.pins.pfwarnLow = true ↔ mv < t.warnMv))
  ∧ (s1.pow.stage = .pfWait → (s1.pow.inStart && !s1.pow.recovered) = false → Runs (.ticksResume dt) s fun t =>
    t.pow.stage = .resuming ∧ t.pins.pfwarnLow = false ∧ t.pow.gateMet = true
    ∧ t.pow.wdtAt = some (t.uptime + 1536 * t.get F.FT_PERIOD_N) ∧ t.rm.nextAt = s1.nextGrid
    ∧ t = { s1 with pow := t.pow, pins := t.pins, rm := t.rm })

/-- R113 (Table 3.12): what the clock monitor's events set, and the safe state that a stopped crystal enters at once. -/
def Obligations.ClockMonitorFlags : Prop := ∀ (dt : Nat) (s : State), s.canonical = true →
  let s1 := s.advance dt
  (s1.pow.stage ≠ .backup → Runs (.xt32Stopped dt) s fun t => t.rtc.xtRun = false
    ∧ t.flag F.RTC_STAT_OSF = true ∧ t.flag F.RTC_STAT_XT32STOP = true ∧ t.flag F.CLK_MON_XT32_STOP = true
    ∧ t.flag F.CLK_STAT_XT32_OK = false ∧ t.flag F.CLK_STAT_RC_LOCK = false
    ∧ (s1.diagnosing = true → t.flag F.SAFE_STAT_SAFE = true ∧ t.get F.SAFE_STAT_CAUSE = 0x10 ∧ t.flag ⟨F.SAFE_FAULT, 1, 1⟩ = true))
  ∧ (s1.pow.stage = .backup → Runs (.xt32Stopped dt) s fun t => t = { s1 with rtc := { s1.rtc with xtRun := false } })
  ∧ Runs (.xt32Ok dt) s (fun t => t.rtc.xtRun = true ∧ t.rtc.started = true ∧ t = { s1 with regs := t.regs, rtc := t.rtc }
    ∧ RegsBut s1 t [F.CLK_STAT_XT32_OK] ∧ (s1.pow.stage ≠ .backup → t.flag F.CLK_STAT_XT32_OK = true))
  ∧ (s1.rtc.xtRun = true → s1.rcOn = true → Runs (.rcNotLocked dt) s fun t => t.flag F.CLK_MON_RC_UNLOCK = true
    ∧ t.flag F.CLK_STAT_RC_LOCK = false ∧ t.flag F.SAFE_STAT_SAFE = s1.flag F.SAFE_STAT_SAFE
    ∧ (s1.diagnosing = true → t.flag ⟨F.SAFE_FAULT, 1, 1⟩ = true))
  ∧ (s1.rtc.xtRun = true → s1.rcOn = true → Runs (.rcLock dt) s fun t =>
    t.flag F.CLK_STAT_RC_LOCK = true ∧ OnlyRegs s1 t [F.CLK_STAT_RC_LOCK])
  ∧ (s1.flag F.CLK_STAT_PLL_LOCK = true → Runs (.pllUnlocked dt) s fun t => t.flag F.CLK_STAT_PLL_LOCK = false
    ∧ t.flag F.CLK_MON_PLL_UNLOCK = true ∧ t.ame.run = none ∧ t.ame.windowOn = false
    ∧ (s1.ame.run ≠ none → t.flag F.AME_STAT_PLLDISC = true)
    ∧ (s1.safe.prev.contains 0x13 = true → t.flag F.SAFE_STAT_SAFE = true))

/-! ### The clock -/

/-- R271 and R289: time passes: with no correction and no write on its way the count of 1/65536 s advances by two each cycle, and
the countdown timer's cycles by one. -/
def Obligations.TimePasses : Prop := ∀ (dt : Nat) (s : State), s.canonical = true →
  s.rtc.xtRun = true → s.rtc.wr = none → s.get F.RTC_TRIM_APPLIED = 0 → s.get F.RTC_TRIM_VAL = 0 → s.count + 2 * dt < 2 ^ 48 → s.rtc.win < 2 ^ 20 →
  Runs (.tickPreWake dt) s fun t => t.count = s.count + 2 * dt ∧ t.uptime = s.uptime + dt
    ∧ t.rtc.pre = (s.rtc.pre + dt) % 128 ∧ t.rtc.win = (s.rtc.win + dt) % 2 ^ 20
    ∧ t.get F.RTC_CDT_COUNT = s.get F.RTC_CDT_COUNT - (s.rtc.pre + dt) / 128
    ∧ t.flag F.RTC_STAT_OSF = s.flag F.RTC_STAT_OSF

/-- R278 to R281, R287 to R291: what the clock's own events leave. -/
def Obligations.ClockEvents : Prop := ∀ (s : State), s.canonical = true →
  (∀ v k, s.rtc.wr = some (v, k) → v < 2 ^ 32 → s.counting = true → Runs .timeWriteApplied s fun t =>
    t.get F.RTC_SEC_SEC = v ∧ t.get F.RTC_FRAC_FRAC = 0 ∧ t.rtc.wr = none ∧ t.flag F.RTC_STAT_WBUSY = false
    ∧ t.flag F.RTC_STAT_STEPPED = true ∧ t.flag F.RTC_STAT_OSF = false ∧ t.uptime = s.uptime + k)
  ∧ (s.rtc.xtRun = true → s.get F.RTC_CDT_COUNT ≠ 0 → Runs .countdownTimerExpiry s fun t =>
    t.get F.RTC_CDT_COUNT = 0 ∧ t.flag F.RTC_STAT_CDTEXP = true)
  ∧ (s.rtc.xtRun = true → Runs .trimWindow s fun t => t.rtc.win = 0 ∧ t.getI F.RTC_TRIM_APPLIED = t.getI F.RTC_TRIM_VAL
    ∧ t.get F.RTC_TRIM_VAL = s.get F.RTC_TRIM_VAL)

/-- R272: the largest time shows as 2136-02-06T06:28:15, and at the next rollover SEC wraps to 0 and OSF sets with cause WRAP, so
that the time is untrusted; whatever trim is in force and whether or not a write is on its way. -/
def Obligations.LargestTimeWraps : Prop := ∀ (s : State), s.canonical = true →
  let c := secToCal 0xFFFFFFFF
  (2000 + c.year = 2136 ∧ c.month = 2 ∧ c.day = 6 ∧ c.hour = 6 ∧ c.minute = 28 ∧ c.second = 15)
  ∧ (s.counting = true → Runs .wrap s fun t => t.get F.RTC_SEC_SEC = 0 ∧ t.flag F.RTC_STAT_OSF = true ∧ t.flag F.RTC_STAT_WRAP = true
    ∧ t.untrusted = true)

/-! ### Register writes -/

/-- R18, R38, R46, R48, R347: in the Service window, a whole-register write by a source. Where nothing stands, and where its role,
the seal or the violation rule leaves it no bit, it changes nothing. A write of Staged fields leaves every value in force and gives
the shadow the bits that may be written. -/
def Obligations.RegisterWritesRespectClassAndRight : Prop := ∀ (src : Source) (a : Nat) (w : Word) (s : State),
  s.canonical = true → s.serviceOpen = true → a % 4 = 0 → viewOf a = (a, false) →
  let rank := roleRank (s.roleOf src)
  let m := Nat.land allBits (s.writeMask rank a)
  (regAt a = none ∨ m = 0 → Runs (.registerWrite src a w) s fun t => t = s)
  ∧ (∀ b r i j, regAt a = some (b, r, i, j) → b ≠ .ame → isSched a = false → m ≠ 0 → m = Nat.land m (stagedMask a)
    → a ≠ F.PAY_CFG → a ≠ F.PWR_CTRL → s.valuesOk a r m w = true → admissible s (s.stage a (mergeMask m w (s.pend a))) b a = true
    → s.cfgBusy = false →
    Runs (.registerWrite src a w) s fun t => t.pend a = mergeMask m w (s.pend a) ∧ t = { s with shadow := t.shadow })

/-- R278, R284 and R289: a write of the time starts a time write and is ignored while one is on its way; a date is held for the
time of day that follows; and the countdown timer takes its count. -/
def Obligations.TimeAndTimerWrites : Prop := ∀ (src : Source) (w : Word) (s : State), s.canonical = true → s.serviceOpen = true →
  let rank := roleRank (s.roleOf src)
  let may := (if s.untrusted then 2 else 3) ≤ rank
  let date := match s.rtc.held with
    | some x => x
    | none => ((secToCal s.sec).year, (secToCal s.sec).month, (secToCal s.sec).day)
  (may → s.flag F.RTC_STAT_WBUSY = false → Runs (.timeWrite src w) s fun t => t.rtc = { s.rtc with wr := some (w.toNat, 2) }
    ∧ t.flag F.RTC_STAT_WBUSY = true ∧ RegsBut s t [F.RTC_STAT_WBUSY] ∧ t = { s with regs := t.regs, rtc := t.rtc })
  ∧ (may → s.flag F.RTC_STAT_WBUSY = false → Runs (.setDate src w) s fun t =>
    t = { s with rtc := { s.rtc with held := some (bitsOf w 23 16, bitsOf w 11 8, bitsOf w 4 0) } })
  ∧ (may → s.flag F.RTC_STAT_WBUSY = false → Runs (.setTime src w) s fun t =>
    t.rtc = { s.rtc with held := none, wr := some ((calToSec date.1 date.2.1 date.2.2 (bitsOf w 20 16) (bitsOf w 13 8)
      (bitsOf w 5 0)).1 % 2 ^ 32, 2) }
    ∧ t.flag F.RTC_STAT_WBUSY = true ∧ RegsBut s t [F.RTC_STAT_WBUSY, F.RTC_STAT_CLAMPED])
  ∧ (s.flag F.RTC_STAT_WBUSY = true → Runs (.timeWrite src w) s (fun t => t = s) ∧ Runs (.setDate src w) s (fun t => t = s)
    ∧ Runs (.setTime src w) s (fun t => t = s))
  ∧ (2 ≤ rank → Runs (.countdownTimerWrite src w) s fun t => t.get F.RTC_CDT_COUNT = w.toNat % 2 ^ 24
    ∧ OnlyRegs s t [F.RTC_CDT_COUNT])

/-- R94, R306, R327, R332 and R468: what the commands to billing, prepayment and the actuator note, for a source of enough right. -/
def Obligations.CommandsToBillingAndPay : Prop := ∀ (src : Source) (mode : BitVec 2) (s : State), s.canonical = true →
  s.serviceOpen = true → 3 ≤ roleRank (s.roleOf src) →
  (Runs (.hibernate src) s fun t => t = { s with pow := { s.pow with hibReq := true } })
  ∧ (Runs (.close src) s fun t => t.flag F.BILL_STAT_CLOSEPEND = true ∧ OnlyRegs s t [F.BILL_STAT_CLOSEPEND])
  ∧ (Runs (.remoteDisconnect src) s fun t => t.flag F.PAY_STAT_REMOTE = true ∧ t.closeDemand = true ∧ t.jrn.due = true
    ∧ t.act.want = some true ∧ t.act.openReq = false ∧ RegsBut s t [F.PAY_STAT_REMOTE]
    ∧ t = { s with regs := t.regs, jrn := t.jrn, act := t.act })
  ∧ (s.openBlocked = true → Runs (.remoteReconnect src) s fun t => t = s)
  ∧ (s.openBlocked = false → s.get F.PAY_CFG_MODE = 0 → Runs (.remoteReconnect src) s fun t =>
    t.flag F.PAY_STAT_REMOTE = false ∧ t.flag F.SAFE_STAT_SSHELD = false ∧ t.act.openReq = true ∧ t.jrn.due = true
    ∧ RegsBut s t [F.PAY_STAT_REMOTE, F.SAFE_STAT_SSHELD])
  ∧ (mode ≠ 3#2 → s.modeRefused mode.toNat = false → s.cfgBusy = false → Runs (.prepaymentModeWrite src mode) s fun t =>
    t.pget F.PAY_CFG_MODE = mode.toNat ∧ t = { s with shadow := t.shadow })
  ∧ (mode ≠ 3#2 → s.modeRefused mode.toNat = true → Runs (.prepaymentModeWrite src mode) s fun t => t = s)

/-! ### The Safety Net, tampers and the actuator -/

/-- R451, R455, R466 and R487: the acknowledgements, the forced entry and the debug enables. -/
def Obligations.AcknowledgeForceAndDebug : Prop := ∀ (src : Source) (s : State), s.canonical = true → s.serviceOpen = true →
  let rank := roleRank (s.roleOf src)
  (3 ≤ rank → s.safe.needAck = true → Runs (.ack src) s fun t => t.safe = { s.safe with acked := true }
    ∧ t.flag F.SAFE_STAT_ACKREQ = false ∧ RegsBut s t [F.SAFE_STAT_ACKREQ] ∧ t = { s with regs := t.regs, safe := t.safe })
  ∧ (2 ≤ rank → s.flag F.CMD_MODE_TEST = true → Runs (.force src) s fun t => t.flag F.SAFE_STAT_SAFE = true
    ∧ t.get F.SAFE_STAT_CAUSE = 0x79 ∧ t.flag F.SAFE_STAT_ACKREQ = true ∧ t.safe.needAck = true
    ∧ t.flag ⟨F.SAFE_FAULT, 11, 11⟩ = true)
  ∧ (3 ≤ rank → s.flag F.KEYS_STAT_HOLD = true → Runs (.holdack src) s fun t =>
    t = { s with keys := { s.keys with holdAck := some 1 } })
  ∧ (4 ≤ rank → s.keys.cells.lcs = 0 → Runs (.dbgen src) s fun t => t.keys.cells = { s.keys.cells with dbgB := true })
  ∧ (4 ≤ rank → s.keys.cells.lcs = 3 → Runs (.dbgen src) s fun t => t.keys.cells = { s.keys.cells with dbgR := true })
  ∧ (rank < 4 ∨ (s.keys.cells.lcs ≠ 0 ∧ s.keys.cells.lcs ≠ 3) → Runs (.dbgen src) s fun t => t = s)

/-- R466: at the Capture that is due the safe state ends when its count is reached and every cause that needs it has been
acknowledged. -/
def Obligations.SafeStateEnds : Prop := ∀ (s : State), s.canonical = true → s.pow.stage = .running → s.rm.phaseDone = true →
  s.exitReady = true → Runs .safeStateExit s fun t => t.flag F.SAFE_STAT_SAFE = false ∧ t.flag F.SAFE_STAT_ACKREQ = false
    ∧ t.flag F.SAFE_STAT_RESTART = false ∧ t.get F.SAFE_STAT_EXITCNT = 0 ∧ t.get F.SAFE_STAT_CAUSE = s.get F.SAFE_STAT_CAUSE
    ∧ t.safe.needAck = false ∧ t.nvm = s.nvm ∧ BlockKept s t .pay ∧ BlockKept s t .bill

/-- R67, R68, R75, R478 and R479: three samples in a row that agree accept a level of SEAL, and as many as its mode asks for a level
of a TAMP input that is enabled; an accepted opening, or an active level, latches its tamper. -/
def Obligations.TamperEventsLatch : Prop := ∀ (dt : Nat) (n : Fin 4) (level : Bool) (s : State), s.canonical = true →
  let s1 := s.advance dt
  let x := s1.pins.strap
  let m := s1.pins.tampMode.getD n.val 0
  let y := s1.tampIn n.val
  (s1.pow.stage ≠ .backup → Runs (.sealChange dt [level, level, level]) s fun t => t.pins.strap = ⟨level, level, 0⟩)
  ∧ (s1.pow.stage ≠ .backup → x.level ≠ level → x.run < 2 → Runs (.sealChange dt [level]) s fun t =>
    t = { s1 with pins := { s1.pins with strap := ⟨level, x.level, x.run + 1⟩ } })
  ∧ (s1.pow.stage = .running → x.level ≠ level → 2 ≤ x.run → Runs (.sealChange dt [level]) s fun t => t.pins.strap.level = level
    ∧ t.pins.sealPend = some level ∧ t.pins.sealForce = s1.pins.sealForce ∧ t.ret 6 = b2n level
    ∧ (level = true → t.flag ⟨F.SAFE_TLATCH, 4, 4⟩ = true ∧ bit (t.ret 8) 5 = true))
  ∧ (s1.pow.stage = .hibernate → x.level ≠ level → 2 ≤ x.run → Runs (.sealChange dt [level]) s fun t => t.pins.strap.level = level
    ∧ bit (t.ret 7) 3 = true)
  ∧ (s1.pow.stage = .running → s1.pins.tamp.length = 4 → m ≠ 0 → y.level ≠ level → (if m = 2 then 1 else 2) ≤ y.run →
    Runs (.tamperInputChange dt n [level]) s fun t => t.flag (F.SAFE_TAMP_LEVEL n.val) = level
    ∧ t.flag (F.SAFE_TAMP_ACTIVE n.val) = decide (level = s1.flag (F.SAFE_TAMP_POL n.val))
    ∧ (level = s1.flag (F.SAFE_TAMP_POL n.val) → t.flag ⟨F.SAFE_TLATCH, n.val, n.val⟩ = true ∧ bit (t.ret 8) (n.val + 1) = true
      ∧ (s1.flag (F.SAFE_TAMP_CLOSE n.val) = true → t.flag F.SAFE_STAT_TCLOSE = true ∧ t.flag F.SAFE_STAT_SSHELD = true)))

/-- R333, R469 and R470: a drive starts where one is due, stops on a wrong current, ends its pulse, repeats once and then is a
fault. -/
def Obligations.ActuatorDrives : Prop := ∀ (dt mA : Nat) (d : Bool) (r : Drive) (s : State), s.canonical = true →
  let s1 := s.advance dt
  (s.driveDue = some d → s.pow.stage = .running → s.pins.window = false → s.flag F.PAY_VLV_EN = true → s.act.drive = none →
    Runs .actuatorDrive s fun t => t.act.drive = some ⟨d, s.uptime, 1, true⟩ ∧ t.get F.PAY_ACT_STATE = (if d then 4 else 3))
  ∧ (s1.act.drive = some r → r.bridgeOn = true → mA < 5 ∨ 400 < mA → Runs (.driveCurrentCheck dt mA) s fun t => t.act.drive = none
    ∧ t.get F.PAY_ACT_STATE = 5 ∧ t.flag F.SAFE_STAT_SAFE = true ∧ t.get F.SAFE_STAT_CAUSE = 0x50)
  ∧ (s1.act.drive = some r → 5 ≤ mA → mA ≤ 400 → Runs (.driveCurrentCheck dt mA) s fun t => t = s1)
  ∧ (s.act.drive = some r → r.bridgeOn = true → Runs (.drivePulseExpiry dt) s fun t =>
    let s2 := s.passTo dt (r.start + millis (s.get F.PAY_VLV_PULSE))
    t = { s2 with regs := t.regs, act := { s2.act with drive := some { r with bridgeOn := false } } } ∧ RegsBut s2 t [F.PWR_STATE_STATE])
  ∧ (s.act.drive = some r → s.pins.window = true → Runs (.actuatorTimeout dt) s fun t =>
    t = s.passTo dt (r.start + 4096 * s.get F.PAY_VLV_TIMEOUT))
  ∧ (s.act.drive = some r → s.pins.window = false → r.attempt < 2 → Runs (.actuatorTimeout dt) s fun t =>
    t.act.drive = some ⟨r.closing, t.uptime, 2, true⟩ ∧ t.get F.PAY_ACT_STATE = (if r.closing then 4 else 3))
  ∧ (s.act.drive = some r → s.pins.window = false → 2 ≤ r.attempt → Runs (.actuatorTimeout dt) s fun t => t.act.drive = none
    ∧ t.get F.PAY_ACT_STATE = 5 ∧ t.flag F.SAFE_STAT_SAFE = true ∧ t.get F.SAFE_STAT_CAUSE = 0x51)

/-- R76, R333 and R470: a change of the feedback that three samples in a row have shown ends the drive that it was the target of;
both ends reached, and a departure without a drive, are actuator faults. -/
def Obligations.FeedbackEndsOrFaults : Prop := ∀ (dt : Nat) (o c : Bool) (r : Drive) (s : State), s.canonical = true →
  let s1 := s.advance dt
  let x := s1.pins.fbo
  let y := s1.pins.fbc
  s1.pow.stage = .running → x.level ≠ o ∨ y.level ≠ c → x.level = o ∨ 2 ≤ x.run → y.level = c ∨ 2 ≤ y.run →
  (s1.act.drive = some r → (o && c) = false → (if r.closing then c else o) = true → Runs (.feedbackChange dt (o, c) []) s fun t =>
    t.act.drive = none ∧ t.act.confirmed = some r.closing ∧ t.get F.PAY_ACT_STATE = (if r.closing then 2 else 1)
    ∧ t.flag F.PAY_ACT_FBO = o ∧ t.flag F.PAY_ACT_FBC = c
    ∧ RegsBut s1 t [F.PAY_ACT_STATE, F.PAY_ACT_FBO, F.PAY_ACT_FBC, F.PWR_STATE_STATE])
  ∧ (s1.act.drive = some r → o = true → c = true → Runs (.feedbackChange dt (o, c) []) s fun t => t.act.drive = none
    ∧ t.get F.PAY_ACT_STATE = 5 ∧ t.flag F.SAFE_STAT_SAFE = true ∧ t.get F.SAFE_STAT_CAUSE = 0x53)
  ∧ (s1.act.drive = none → s1.flag F.PAY_VLV_EN = true → s1.act.confirmed = some true → o = false → c = false →
    Runs (.feedbackChange dt (o, c) []) s fun t => t.flag F.SAFE_STAT_SAFE = true ∧ t.get F.SAFE_STAT_CAUSE = 0x52)

/-! ### The phases of a tick -/

/-- R21 to R25, R38, R40, R68, R72 and R110: a boundary begins a tick: its number, its start time and the seal are latched, pending
configuration comes into force unless HOLD is 1, and the next boundary is one period later. No tick runs before the 32.768 kHz
oscillator has first started. -/
def Obligations.TickBoundaryCaptures : Prop := ∀ (dt : Nat) (env : CaptureEnv) (s : State), s.canonical = true →
  s.pow.stage ∈ [Stage.running, .awaitTick, .resuming] →
  let s1 := match s.rm.nextAt with
    | some t => s.advance (t - s.uptime)
    | none => s.advance dt
  let base := match s.rm.nextAt with
    | some t => t
    | none => s1.uptime
  let waits := s1.rtc.started = false
  (waits → Runs (.tickBoundary dt env) s fun t => t = { s1 with rm := { s1.rm with nextAt := none } })
  ∧ (¬ waits → Runs (.tickBoundary dt env) s fun t =>
    t.pow.stage = .running ∧ t.pow.inStart = false ∧ t.rm.tick = (s1.rm.tick + 1) % 2 ^ 48
    ∧ t.rm.startTime = (s1.get F.RTC_SEC_SEC, s1.get F.RTC_FRAC_FRAC) ∧ t.rm.first = false ∧ t.rm.phaseDone = true
    ∧ t.get F.FT_PHASE_PHASE = 0 ∧ t.rm.nextAt = some (base + 1024 * t.get F.FT_PERIOD_N) ∧ t.rtc.steps = []
    ∧ t.pins.sealForce = s1.pins.sealPend.getD s1.pins.sealForce ∧ t.pins.sealPend = none
    ∧ t.ame.done = [] ∧ t.ame.run = none
    ∧ (s1.flag F.FT_CTRL_HOLD = false → t.shadow = [] ∧ t.rm.schedPend = none))

/-- R26, R30 to R34, R178 and R179 (Tables 1.3, 5.11): after Capture the window's shots are planned; a window with shots opens when
VTXB is ready, with the transmitter off, and one without shots, without VTXB, or whose 24 MHz clock has failed or lost its lock has
ended at once. -/
def Obligations.AcousticWindowOpensOrEnds : Prop := ∀ (room : WindowRoom) (d : Int) (s : State), s.canonical = true →
  s.pow.stage = .running → s.get F.FT_PHASE_PHASE = 0 → s.rm.phaseDone = true →
  let s1 := (s.put F.FT_PHASE_PHASE 1).markSkipped
  let plan := (s1.planWindow room.budget room.reps).1
  let ended (t : State) : Prop := t.get F.FT_PHASE_PHASE = 1 ∧ t.rm.phaseDone = true ∧ t.pins.window = false
    ∧ t.ame.windowOn = false ∧ t.ame.plan = []
    ∧ (s.radioWork = false → t.flag F.CLK_STAT_XO24_OK = false ∧ t.flag F.CLK_STAT_PLL_LOCK = false)
  (plan = [] ∨ s.ame.xoFail = true ∨ s.ame.pllFail = true → Runs (.acousticWindow room d) s ended)
  ∧ (plan ≠ [] → s.ame.xoFail = false → s.ame.pllFail = false → s.flag F.AME_STAT_READY = false →
    Runs (.acousticWindow room d) s fun t =>
    ended t ∧ t.flag F.AME_STAT_VTXB_NR = true)
  ∧ (plan ≠ [] → s.ame.xoFail = false → s.ame.pllFail = false → s.flag F.AME_STAT_READY = true →
    Runs (.acousticWindow room d) s fun t => (s.sending = true → t.pins.txOn = false ∧ t.pins.paCtl = false) ∧
    t.get F.FT_PHASE_PHASE = 1 ∧ t.rm.phaseDone = false ∧ t.pins.window = true ∧ t.ame.windowOn = true ∧ t.ame.plan = plan
    ∧ t.ame.index = 0 ∧ t.getI F.CLK_XO24ERR_ERR = satSigned 16 d
    ∧ (3200 < d.natAbs → t.flag F.CLK_MON_CROSS = true ∧ t.ame.cross = true ∧ 0x11 ∈ t.safe.now))

/-- R22, R45, R472 and R316: Compute runs once the Acoustic window has ended, publishes its tick number last and services the
watchdog, whose limit passes at once where the service comes too early; a RAM error resets the part at once instead. -/
def Obligations.ComputePublishes : Prop := ∀ (d : DiagIn) (s : State), s.canonical = true → s.computeDue = true →
  (d.coreRam = none → Runs (.compute d) s fun t => t.get F.FT_PUBTICK_TICK = s.rm.tick % 2 ^ 32 ∧ t.get F.FT_PHASE_PHASE = 2
    ∧ t.rm.phaseDone = true ∧ t.rm.tick = s.rm.tick ∧ t.pow.wdtFrom = some (s.uptime + 512 * s.get F.FT_PERIOD_N)
    ∧ ((∀ w, s.pow.wdtFrom = some w → w ≤ s.uptime) → t.pow.wdtAt = some (s.uptime + 1536 * s.get F.FT_PERIOD_N))
    ∧ (∀ w, s.pow.wdtFrom = some w → s.uptime < w → t.pow.wdtAt = some s.uptime)
    ∧ t.bill.steps = [] ∧ t.flag F.BILL_STAT_UNTR = s.rm.untr)
  ∧ (∀ a, d.coreRam = some a → Runs (.compute d) s fun t => BlockReset t .ame ∧ BlockReset t .bill ∧ BlockReset t .keys
    ∧ t.keys.slots = List.replicate 8 none ∧ t.pow.stage = (if s.pow.gateMet then .startUp else .gate))

/-- R301 to R306, R310 and R316: the boundaries and the tariff switch that the Compute due finds. -/
def Obligations.BillingBoundariesFire : Prop := ∀ (s : State), s.canonical = true → s.boundariesDue = true →
  let now := s.rm.startTime.1
  let d := s.nextDemand (s.get F.BILL_LASTD_SEC)
  let p := s.nextPeriod (s.get F.BILL_LASTP_SEC)
  (d ≤ now → d ≤ p → d < 2 ^ 32 → Runs .demandBoundary s fun t => t.get F.BILL_LASTD_SEC = d ∧ t.jrn.due = true
    ∧ t.bill.intA = ⟨d, [0, 0, 0], false, false, false, 0, 0⟩ ∧ t.bill.intB = ⟨d, [0, 0, 0], false, false, false, 0, 0⟩
    ∧ (∀ x : Fin 2, t.get (F.BILL_LEND_SEC x.val) = d ∧ t.get (F.BILL_LSTART_SEC x.val) = (s.interval x.val).start % 2 ^ 32
      ∧ ∀ q : Fin 3, t.get (F.BILL_LD_DEM x.val q.val) = demandOf q.val ((s.interval x.val).acc.getD q.val 0) s.demandLen)
    ∧ (∀ x : Fin 2, ∀ n : Fin 54, t.reg96 x.val n.val = s.reg96 x.val n.val) ∧ BlockKept s t .pay ∧ BlockKept s t .alm)
  ∧ (p ≤ now → p < d → p < 2 ^ 32 → Runs .periodBoundary s fun t => t.get F.BILL_LASTP_SEC = p ∧ t.jrn.due = true
    ∧ t.jrn.hid.period = s.jrn.hid.period + 1 ∧ t.get F.BILL_STAT_PERIODS = (s.jrn.hid.period + 1) % 65536 ∧ t.jrn.hid.prevEnd = p
    ∧ t.jrn.snapRows.length = s.jrn.snapRows.length + 2
    ∧ (∀ x : Fin 2, ∀ q : Fin 3, t.get (F.BILL_MD_MD x.val q.val) = 0 ∧ t.get (F.BILL_MDT_SEC x.val q.val) = 0)
    ∧ (∀ x : Fin 2, ∀ n : Fin 54, t.reg96 x.val n.val = s.reg96 x.val n.val) ∧ BlockKept s t .pay ∧ t.bill = s.bill)
  ∧ (now < d → now < p → s.flag F.BILL_STAT_CLOSEPEND = false → (s.almanac now).1 ≠ s.get F.BILL_STAT_TARIFF → now < 2 ^ 32 →
    Runs .tariffSwitch s fun t => t.get F.BILL_STAT_TARIFF = (s.almanac now).1 ∧ t.get F.BILL_LASTT_SEC = now
      ∧ t.rd F.ALM_STAT = word (s.almanac now).2 ∧ t.get F.BILL_SWCNT_SWITCHES = min (s.get F.BILL_SWCNT_SWITCHES + 1) 65535
      ∧ t.jrn.due = true ∧ t = { s with regs := t.regs, jrn := t.jrn }
      ∧ RegsBut s t [F.BILL_STAT_TARIFF, wholeReg F.BILL_LASTT, wholeReg F.ALM_STAT, F.BILL_SWCNT_SWITCHES])

/-- R34 to R37 and R325: the Service window ends in the Persist phase or the tick; a task that has waited PROMO windows is
promoted; and 900 s without a commit make one due. -/
def Obligations.ServiceWindowAndPromotion : Prop := ∀ (avail : Nat) (work : ServiceIn) (s : State),
  s.canonical = true →
  (s.serviceDue = true → (s.servicePhase avail work).resetAtEnd = false →
    Runs (.serviceWindow avail work) s fun t =>
    (t.get F.FT_PHASE_PHASE = 3 ∨ t.get F.FT_PHASE_PHASE = 5) ∧ t.rm.phaseDone = true ∧ t.cmd.saveReply = false)
  ∧ (s.pow.stage = .running → 3 ≤ s.get F.FT_PHASE_PHASE → s.urgent ≠ [] → Runs .taskPromotion s fun t =>
    t.flag F.FT_STAT_PROMOTED = true ∧ OnlyRegs s t [F.FT_STAT_PROMOTED])
  ∧ (s.pow.stage = .running → 28800 ≤ s.jrn.since → Runs .commitInterval s fun t => t = { s with jrn := { s.jrn with due := true } })

/-- R324, R325 and R485: a Persist phase whose commit fits in it writes it whole: the queued legal entries stand in the legal log,
both sequence numbers advance, and the tick ends. -/
def Obligations.PersistWritesTheCommit : Prop := ∀ (s : State), s.canonical = true → s.persistPhase = true →
  s.jrn.due = true → s.jrn.openC = none → s.jrn.snapRows = [] → s.keys.commit = none → s.keys.wipe = none → s.cmd.saveRows = 0 →
  s.mgmt.activate = false → s.pow.safetyReq = none → s.pow.resetReq = none → s.pow.hibReq = false →
  (∀ e ∈ s.jrn.lq, e.data.length = 10) → s.get F.BILL_JRNL_PEND ≠ 0 →
  s.get F.BILL_JRNL_PEND + (s.jrn.lq.length + 3) / 4 + 1 ≤ 4 →
  Runs .persist s fun t => t.get F.FT_PHASE_PHASE = 5 ∧ t.jrn.lq = [] ∧ t.jrn.openC = none ∧ t.jrn.since = 0 ∧ t.jrn.due = false
    ∧ t.get F.BILL_JRNL_PEND = 0 ∧ t.get F.BILL_JSEQ_SEQ = (s.get F.BILL_JSEQ_SEQ + 1) % 2 ^ 32
    ∧ t.get F.LOG_LSEQ_SEQ = (s.get F.LOG_LSEQ_SEQ + s.jrn.lq.length) % 2 ^ 32 ∧ t.jrn.image.tick = s.rm.tick
    ∧ (∀ k e, s.jrn.lq[k]? = some e → t.nvmBytes (legalAddr (s.get F.LOG_LSEQ_SEQ + k)) 16 = e.bytes)
    ∧ t.crs = s.crs

/-- R138: in the Persist phase that writes the header row, the save is in force. -/
def Obligations.SaveCompletes : Prop := ∀ (s : State), s.canonical = true → s.persistPhase = true → s.cmd.saveRows ≠ 0 →
  s.persistRows.cmd.saveRows = 0 → Runs .saveComplete s fun t =>
    t.saved = some (s.cmd.saveImage, s.cmd.saveSched, s.cmd.saveTick) ∧ t.cmd.saveRows = 0 ∧ t.cmd.saveReply = true
      ∧ t.flag F.CMD_STAT_SAVEPEND = false ∧ t.get F.CMD_SAVED_TICK = s.cmd.saveTick % 2 ^ 32
      ∧ BlockKept s t .ame ∧ BlockKept s t .bill ∧ t.shadow = s.shadow

/-! ### Acoustics -/

/-- R185 to R187 (Table 5.8): what each word of the shot sequencer does when it is at the running shot's word. -/
def Obligations.SequencerWordsRun : Prop := ∀ (vtxb : Nat) (r : ShotRun) (s : State), s.canonical = true →
  s.ame.run = some r →
  let w := s.wordAt r.pc
  let op := bitsOf w 31 28
  let a := bitsOf w 27 24
  let b := bitsOf w 23 0
  let c := s.shotFiring r.plan.path
  let runs (t : State) (r1 : ShotRun) : Prop := t = { s with ame := { s.ame with run := some r1 } }
  let fire := (r.time + c.per - 1) / c.per * c.per
  let goes (t : State) (r1 : ShotRun) : Prop := t.ame.run = some r1 ∧ t.get F.AME_VTXB_MV = min vtxb 16383
    ∧ (10 * min vtxb 16383 < 9 * s.driveMv → t.flag F.AME_STAT_VTXB_LOW = true)
    ∧ RegsBut s t [F.AME_VTXB_MV, F.AME_STAT_VTXB_LOW, F.AME_P_STAT_POL r.plan.path] ∧ t = { s with regs := t.regs, ame := t.ame }
  let low := r.vtxbLow || decide (10 * min vtxb 16383 < 9 * s.driveMv)
  (op = 2 → Runs .ucodeWait s fun t => runs t { r with pc := r.pc + 1, time := r.time + b })
  ∧ (op = 3 → a = 0 → c.collides fire r.firedB = false → Runs (.ucodeFire vtxb) s fun t =>
    goes t { r with pc := r.pc + 1, time := fire, firedA := some fire, vtxb := min vtxb 16383, vtxbLow := low })
  ∧ (op = 3 → a ≠ 0 → c.collides fire r.firedA = false → Runs (.ucodeFire vtxb) s fun t =>
    goes t { r with pc := r.pc + 1, time := fire, firedB := some fire, vtxbB := min vtxb 16383, vtxbLow := low })
  ∧ (∀ f, op = 4 → (if a = 0 then r.firedA else r.firedB) = some f → r.time ≤ f + b → Runs .ucodeWaitf s fun t =>
    runs t { r with pc := r.pc + 1, time := f + b })
  ∧ (∀ e, op = 5 → r.eventTime c a = some e → Runs .ucodeWaite s fun t => runs t { r with pc := r.pc + 1, time := max r.time e })
  ∧ (op = 6 → Runs .ucodeSwap s fun t => runs t { r with pc := r.pc + 1, swapped := !r.swapped })
  ∧ (7 ≤ op → Runs .ucodeWait s fun t => t.flag F.AME_STAT_UCODE = true ∧ t.ame.run = none ∧ t.ame.windowOn = false
    ∧ 0x42 ∈ t.safe.now)

/-- R174, R176, R186, R191 and R200 to R214: SELP takes four capture records and starts the planned shot, and without four FREE
records fires nothing; END records the shot and goes on to the next. -/
def Obligations.ShotsStartAndEnd : Prop := ∀ (s : State), s.canonical = true →
  (∀ p rest, s.ame.windowOn = true → s.ame.run = none → s.ame.plan = p :: rest → p.path < 4 ∨ p.path = 15 →
    bitsOf (s.wordAt (routineBase p.path)) 31 28 = 1 →
    (∀ a b c d more, s.freeCaptures = a :: b :: c :: d :: more → Runs .ucodeSelp s fun t => t.ame.index = s.ame.index + 1
      ∧ (∀ i ∈ [a, b, c, d], t.token (16 * i) = tokWriting ∧ t.token (2040 + i) = tokWriting)
      ∧ (∃ r, t.ame.run = some r ∧ r.plan = p ∧ r.pc = routineBase p.path + 1 ∧ r.time = 0 ∧ r.recs = [a, b, c, d]
        ∧ r.gain = (if p.path = 15 then 8 else s.get (F.AME_P_STAT_GAIN p.path)) ∧ r.firedA = none ∧ r.corr = [])
      ∧ t.get (F.SYS_RING_B_HEAD 10) = (d + 1) % 8 ∧ t.nvm = s.nvm ∧ BlockKept s t .shot)
    ∧ (s.freeCaptures.length < 4 → Runs .ucodeSelp s fun t => t.flag F.AME_STAT_CAPFULL = true ∧ t.ame.run = none
      ∧ 0x43 ∈ t.safe.now ∧ t.get F.AME_DISC_COUNT = min (s.get F.AME_DISC_COUNT + 1) 65535 ∧ t.ame.plan = rest))
  ∧ (∀ r, s.ame.run = some r → bitsOf (s.wordAt r.pc) 31 28 = 0 → r.plan.path < 4 ∨ r.plan.path = 15 → Runs .ucodeEnd s fun t =>
    let c := s.shotFiring r.plan.path
    t.ame.run = none ∧ t.ame.plan = s.ame.plan.drop 1
    ∧ (∃ o, t.ame.done = s.ame.done ++ [o] ∧ o.path = r.plan.path ∧ o.origin = r.plan.origin ∧ o.asym = r.asym)
    ∧ t.get (F.SYS_RING_B_HEAD 1) = (s.get (F.SYS_RING_B_HEAD 1) + 1) % 128
    ∧ (s.ame.plan.drop 1 = [] → t.pins.window = false ∧ t.rm.phaseDone = true)
    ∧ (s.ame.plan.drop 1 ≠ [] → t.ame.windowOn = s.ame.windowOn ∧ t.ame.len = s.ame.len + c.dur) ∧ t.nvm = s.nvm)

/-- R53, R54, R173 to R177, R191, R193 and R194: the end of a capture publishes both chains' samples in the shot's records, and that
of capture B sets the path's next gain; the correlator's end frees them, and an uncorrectable error in one discards the shot. -/
def Obligations.CapturesAndCorrelations : Prop := ∀ (x0 x1 : List Int) (i0 i1 i2 i3 : Fin 8) (r : ShotRun) (s : State),
  s.canonical = true → s.ame.run = some r → r.recs = [i0.val, i1.val, i2.val, i3.val] → i0 ≠ i1 → i2 ≠ i3 →
  let n := (s.shotFiring r.plan.path).caplen
  n ≤ 1024 →
  let published (t : State) (a b : Nat) : Prop := t.token (16 * a) = tokPublished ∧ t.token (16 * b) = tokPublished
    ∧ t.captureSamples a n = chainSamples n x0 ∧ t.captureSamples b n = chainSamples n x1
  let free (t : State) (a b : Nat) : Prop := t.token (16 * a) = tokFree ∧ t.token (16 * b) = tokFree
  let writing (a b : Nat) : Prop := ∀ k ∈ capSlots a ++ capSlots b, s.token k = tokWriting
  (∀ f, r.firedA = some f → r.capA = false → writing i0.val i1.val → Runs (.captureEnd x0 x1) s fun t => published t i0.val i1.val
    ∧ ∃ r1, t.ame.run = some r1 ∧ r1.capA = true ∧ r1.capB = r.capB ∧ r1.recs = r.recs ∧ r1.time = r.time)
  ∧ (∀ f, r.firedB = some f → r.capA = true → r.capB = false → writing i2.val i3.val → Runs (.captureEnd x0 x1) s fun t => published t i2.val i3.val
    ∧ (r.plan.path < 4 → r.plan.origin ≠ 3 → (s.shotFiring r.plan.path).agc = false →
      t.get (F.AME_P_STAT_GAIN r.plan.path) = (s.shotFiring r.plan.path).ginit)
    ∧ ∃ r1, t.ame.run = some r1 ∧ r1.capB = true ∧ r1.recs = r.recs)
  ∧ (r.capA = true → r.corrA = false → s.captureBad i0.val = true ∨ s.captureBad i1.val = true → Runs .correlationEnd s fun t =>
    t.ame.run = none ∧ t.get F.AME_DISC_COUNT = min (s.get F.AME_DISC_COUNT + 1) 65535 ∧ free t i0.val i1.val
      ∧ t.ame.done = s.ame.done ∧ t.ame.plan = s.ame.plan.drop 1)
  ∧ (r.capA = true → r.corrA = false → s.captureBad i0.val = false → s.captureBad i1.val = false → Runs .correlationEnd s fun t => free t i0.val i1.val
    ∧ ∃ r1, t.ame.run = some r1 ∧ r1.corrA = true ∧ r1.corr.length = r.corr.length + 2 ∧ r1.recs = r.recs)
  ∧ (r.capB = true → r.corrA = true → r.corrB = false → s.captureBad i2.val = false → s.captureBad i3.val = false → Runs .correlationEnd s fun t => free t i2.val i3.val
    ∧ ∃ r1, t.ame.run = some r1 ∧ r1.corrB = true ∧ r1.corr.length = r.corr.length + 2 ∧ r1.recs = [])

/-- R65, R157, R158, R182, R247 and R476: VTXB's rise shows READY, a SHOTTRIG edge sets its latch while VIO is present, and the
results of a conversion sequence wait for the next Capture unless the reference test fails. -/
def Obligations.FrontEndEvents : Prop := ∀ (dt : Nat) (conv : ConvSeq) (inputs : List Nat) (bridge : Bool) (s : State),
  s.canonical = true →
  let s1 := s.advance dt
  (s1.flag F.AME_CTRL_EN = true → Runs (.vtxbReady dt) s fun t => t.flag F.AME_STAT_READY = true
    ∧ t.ame.vtxb = s1.driveMv * 97 / 100 ∧ (s1.shootsDue = false → t.ame.boost = false)
    ∧ RegsBut s1 t [F.AME_STAT_READY] ∧ t = { s1 with regs := t.regs, ame := { s1.ame with boost := t.ame.boost, vtxb := t.ame.vtxb } })
  ∧ (s1.vioOk = false → Runs (.shottrigEdge dt) s fun t => t = s1)
  ∧ (s1.coreAlive = true → s1.vioOk = true → Runs (.shottrigEdge dt) s fun t =>
    t = { s1 with ame := { s1.ame with trigLatch := true } })
  ∧ (s1.sens.running = some (inputs, bridge) → inputs = [] ∨ (conv.refRatioPpm.natAbs ≤ 1000 ∧ conv.refDirPpm.natAbs ≤ 500) →
    Runs (.conversionSequenceEnd dt conv) s fun t => t.sens.running = none
      ∧ t.sens.held = some (s1.convResults inputs bridge conv) ∧ BlockKept s1 t .sens)
  ∧ (s1.sens.running = some (inputs, bridge) → inputs ≠ [] → 1000 < conv.refRatioPpm.natAbs ∨ 500 < conv.refDirPpm.natAbs →
    Runs (.conversionSequenceEnd dt conv) s fun t => t.sens.running = none ∧ t.sens.held = none
      ∧ t.flag F.SAFE_STAT_SAFE = true ∧ t.get F.SAFE_STAT_CAUSE = 0x44 ∧ BlockKept s1 t .sens)

/-- R218, R219, R221 and R222: in the Compute due, empty pipe sets and clears, an expired hold becomes UNKNOWN with zero, and
the last recovery tick ends the recovery. -/
def Obligations.EmptyPipeHoldAndRecovery : Prop := ∀ (mp : MeterPoint) (n : Fin 4) (v : Int × Nat × Nat) (s : State),
  s.canonical = true → s.computeDue = true →
  let x := mpNum mp
  let empty := s.flag (F.SHOT_MSTAT_EMPTY x)
  (s.mpOn x = true → empty = false → s.emptyRule x = some true →
    s.get (F.SHOT_RULE_EP_COUNT x) ≤ s.get (F.SHOT_MSTAT_EPCNT x) + 1 → Runs (.emptyPipe mp) s fun t =>
    t.flag (F.SHOT_MSTAT_EMPTY x) = true ∧ (∀ k ∈ s.mpPaths x, (t.pathSt k).held = none)
      ∧ RegsBut s t [F.SHOT_MSTAT_EMPTY x, F.SHOT_MSTAT_EPCNT x] ∧ t = { s with regs := t.regs, shot := t.shot })
  ∧ (s.mpOn x = true → empty = true → 3 ≤ s.get (F.SHOT_MSTAT_CLRCNT x) → s.mpPaths x ≠ [] → (∀ k ∈ s.mpPaths x, s.kept k ≠ []) →
    Runs (.emptyPipeClear mp) s fun t => t.flag (F.SHOT_MSTAT_EMPTY x) = false ∧ t.get (F.SHOT_MSTAT_EPCNT x) = 0
      ∧ t.get (F.SHOT_MSTAT_CLRCNT x) = 0 ∧ t.shot = { s.shot with loadRecov := s.shot.loadRecov.set x true }
      ∧ RegsBut s t [F.SHOT_MSTAT_EMPTY x, F.SHOT_MSTAT_EPCNT x, F.SHOT_MSTAT_CLRCNT x])
  ∧ (s.mpOfPath n.val = some x → (s.pathSt n.val).held = some v → s.mpOn x = true → s.pathOn n.val = true → s.kept n.val = [] →
    empty = false → s.get (F.SHOT_RULE_HOLD_TICKS x) ≤ (s.pathSt n.val).heldFor → Runs (.holdExpiry n) s fun t =>
    t.get (F.SHOT_P_TSTAT_STATE n.val) = 2 ∧ t.getI (F.SHOT_P_TDT_DTOF n.val) = 0 ∧ t.get (F.SHOT_P_TUP_TOF n.val) = 0
      ∧ t.get (F.SHOT_P_TDN_TOF n.val) = 0 ∧ t.get (F.SHOT_P_TSTAT_HELDCNT n.val) = 0
      ∧ OnlyRegs s t [wholeReg (F.SHOT_P_TDT n.val), wholeReg (F.SHOT_P_TUP n.val), wholeReg (F.SHOT_P_TDN n.val),
        F.SHOT_P_TSTAT_STATE n.val, F.SHOT_P_TSTAT_HELDCNT n.val])
  ∧ (s.mpOn x = true → s.get (F.SHOT_MSTAT_RECOV x) = 1 → s.shot.recByCount.getD x false = true → Runs (.recoveryEnd mp) s fun t =>
    t.get (F.SHOT_MSTAT_RECOV x) = 0 ∧ RegsBut s t [F.SHOT_MSTAT_RECOV x] ∧ t.shot.recTick = s.shot.recTick)

/-- R45, R205 and R206: in the Compute due a full block of 4,096 shots updates the smoothed mean, RATIO and FLAG, which show with
what else the hidden copy holds, and the next block begins. -/
def Obligations.DepositBlockCloses : Prop := ∀ (n : Fin 4) (s : State), s.canonical = true → s.computeDue = true →
  s.shot.paths.length = 4 →
  let u := s.showHidden
  let p := s.pathSt n.val
  let mean := roundDiv p.depSum p.depCount
  let m := match p.depM with
    | none => mean
    | some m => m + roundDiv (mean - m) 8
  let dref := s.get (F.SHOT_P_DREF_DREF n.val)
  let ratio := min (roundDiv (m * 16384) dref).toNat 65535
  let thr := s.get (F.SHOT_P_LIM_DEPTHR n.val)
  4096 ≤ p.depCount → Runs (.depositBlock n) s fun t =>
    t.pathSt n.val = { p with depSum := 0, depCount := 0, depM := some m }
    ∧ (dref ≠ 0 → t.get (F.SHOT_P_DEP_RATIO n.val) = ratio ∧ (ratio < thr → t.flag (F.SHOT_P_DEP_FLAG n.val) = true)
      ∧ (thr + 1024 ≤ ratio → t.flag (F.SHOT_P_DEP_FLAG n.val) = false))
    ∧ (dref = 0 → t.get (F.SHOT_P_DEP_RATIO n.val) = 0 ∧ t.flag (F.SHOT_P_DEP_FLAG n.val) = false)
    ∧ RegsBut u t [F.SHOT_P_DEP_RATIO n.val, F.SHOT_P_DEP_FLAG n.val] ∧ t = { u with regs := t.regs, shot := t.shot }

/-- R224 and R226 (Table 6.8): a zero calibration whose paths all hold 256 shots stores its values in one journal row, or is
refused by its limits; one that times out is refused. -/
def Obligations.ZeroCalibrationEnds : Prop := ∀ (z : ZcRun) (s : State), s.canonical = true → s.computeDue = true →
  s.shot.zc = some z → s.flag (F.SHOT_MSTAT_EMPTY z.mp) = false →
  let vals := z.paths.map (fun p => (p.1, zcValues p.2))
  let wide := ∃ v ∈ vals, s.get F.SHOT_ZCCFG_SPREAD < v.2.2.2.2
  let far := ∃ v ∈ vals, 256 * s.get F.SHOT_ZCMAX_MAXOFF < v.2.1.natAbs
  let refused (t : State) (cause : Nat) : Prop := t.shot.zc = none ∧ t.jrn = s.jrn ∧ t.get F.SHOT_ZCSTAT_STATE = 0
    ∧ t.get F.SHOT_ZCSTAT_RESULT = 2 ∧ t.get F.SHOT_ZCSTAT_CAUSE = cause ∧ t.flag F.CMD_STAT_ZCBUSY = false
    ∧ RegsBut s t [F.SHOT_ZCSTAT_STATE, F.SHOT_ZCSTAT_RESULT, F.SHOT_ZCSTAT_CAUSE, F.CMD_STAT_ZCBUSY]
  (s.zcFull = true → wide → Runs .zerocalCollectionEnd s fun t => refused t 1)
  ∧ (s.zcFull = true → ¬ wide → far → Runs .zerocalCollectionEnd s fun t => refused t 2)
  ∧ (s.zcFull = true → ¬ wide → ¬ far → Runs .zerocalCollectionEnd s fun t => t.shot.zc = none
    ∧ t.jrn.zcRow = some ⟨z.mp, vals, false⟩ ∧ t.jrn.due = true ∧ t.get F.SHOT_ZCSTAT_STATE = 2
    ∧ BlockKept s t .mpa ∧ BlockKept s t .ame)
  ∧ (s.zcLate = true → Runs .zerocalTimeout s fun t => refused t 3)

/-- R242, R243 and R260: the eighth Measured tick of a run raises the reverse-flow or the path-sign tamper, or ends its
condition, and the eighth disagreeing sample is a sensor fault. -/
def Obligations.FlowTampersAndPlausibility : Prop := ∀ (mp : MeterPoint) (f : Flow) (tv : Int) (s : State), s.canonical = true →
  let x := mpNum mp
  let m := s.mp x
  let s1 := (s.tempStat x).refreshProps x
  (s.dueFlow x = some f → m.rev.count = 7 → m.rev.armed = true → s.reverseCond x f = true → Runs (.reverseFlowTamper mp) s fun t =>
    t.flag (F.MP_STAT_REVTAMP x) = true ∧ t.flag ⟨F.SAFE_TLATCH, 5 + x, 5 + x⟩ = true
      ∧ t.get F.SAFE_TCNT_COUNT = min (s.get F.SAFE_TCNT_COUNT + 1) 65535 ∧ BlockKept s t .bill ∧ BlockKept s t .shot)
  ∧ (s.dueFlow x = some f → m.rev.count = 7 → m.rev.armed = false → s.reverseCond x f = false → Runs (.reverseFlowTamper mp) s
    fun t => BlockKept s t .safe ∧ BlockKept s t .mpa ∧ BlockKept s t .mpb ∧ (s.mps.length = 2 → (t.mp x).rev = ⟨0, true⟩))
  ∧ (s.dueFlow x = some f → 2 ≤ f.v.length → m.sgn.count = 7 → m.sgn.armed = true → signCond f = true →
    Runs (.pathSignTamper mp) s fun t => t.flag (F.MP_STAT_SIGNTAMP x) = true ∧ t.flag ⟨F.SAFE_TLATCH, 7 + x, 7 + x⟩ = true
      ∧ BlockKept s t .bill ∧ BlockKept s t .shot)
  ∧ (s.computeDue = true → s.mpOn x = true → s.flag (F.MP_STAT_CFGERR x) = false → s.sens.newT = true →
    s.get (F.MP_STAT_PLAUSCNT x) = 7 → (s1.mp x).cN ≠ 0 → s1.isGas x = false → s1.tVol x = some tv →
    soundFlat (s1.get (F.MP_CFG_MEDIUM x)) (s1.get (F.MP_WPRESS_P x)) tv = false → Runs (.sensorPlausibilityFault mp) s fun t =>
    (2 * 65536 < ((s1.acousticT x).1 - tv).natAbs → t.get (F.MP_STAT_PLAUSCNT x) = 8 ∧ t.flag (F.MP_STAT_PLAUSFLT x) = true
      ∧ t.flag F.SAFE_STAT_SAFE = true ∧ t.get F.SAFE_STAT_CAUSE = 0x47)
    ∧ (((s1.acousticT x).1 - tv).natAbs ≤ 2 * 65536 → t = s))

/-! ### The command language -/

/-- R79, R132, R136, R140, R141, R146, R181, R484 and R486: what the reading commands answer; nothing else changes but the latch of
FT_TICK_HI (R56). A read of a GPIO register also shows the ball's level in IN, which no statement gives a value. -/
def Obligations.ReadingCommandsAnswer : Prop := ∀ (c : Carrier) (l : LineForm) (s : State), s.canonical = true →
  s.lineRuns c l = true →
  let s1 := s.onLine c false
  let rank := s1.rankOn c
  (∀ a b r i j raw, a % 4 = 0 → viewOf a = (a, false) → regAt a = some (b, r, i, j) → raw = false → (∀ n : Fin 12, a ≠ F.MGMT_GPIO n.val) →
    Runs (.get c l (.addr a) false raw none) s fun t =>
      Answered s t c l (.ok (hexText 8 (Nat.land (s1.regView a).toNat (readMask rank a))))
      ∧ OnlyLineAnd s t [wholeReg F.CMD_LINES, F.FT_TICK_HI_TICK])
  ∧ (∀ n : Fin 12, Runs (.get c l (.addr (F.MGMT_GPIO n.val)) false false none) s fun t =>
      Answered s t c l (.ok (hexText 8 (Nat.land (t.rd (F.MGMT_GPIO n.val)).toNat (readMask rank (F.MGMT_GPIO n.val)))))
      ∧ RegsBut s t [wholeReg F.CMD_LINES, F.MGMT_GPIO_IN n.val])
  ∧ (∀ n pend raw, named n = none → Runs (.get c l (.name n) pend raw none) s fun t => Answered s t c l (errResp 2) ∧ OnlyLine s t)
  ∧ (∀ n a r, named n = some (.reg a) → rowOf a = some r → a ≠ F.FT_TICK_LO → (∀ n : Fin 12, a ≠ F.MGMT_GPIO n.val) →
    Runs (.showObj c l (.name n)) s
    fun t => Answered s t c l (.data (r.fields.map (fun f => txt f.name ++ [' '] ++ f.text (Nat.land (s1.regView a).toNat (readMask rank a)))))
      ∧ OnlyLine s t)
  ∧ (∀ first count, 2 ≤ rank → 1 ≤ count.getD 16 → count.getD 16 ≤ 64 → s.taskEnabled 3 = true →
    Runs (.logTrouble c l first count) s fun t => Answered s t c l
      (.data ((logNumbers (s.get F.LOG_TSEQ_SEQ) 1024 first (count.getD 16)).map s.troubleLine)) ∧ (s.ecc = [] → OnlyLine s t))
  ∧ (∀ first count, 1 ≤ rank → 1 ≤ count.getD 16 → count.getD 16 ≤ 64 → s.taskEnabled 3 = true →
    Runs (.logLegal c l first count) s fun t => Answered s t c l
      (.data ((logNumbers (s.get F.LOG_LSEQ_SEQ) 512 first (count.getD 16)).map s.legalLine)) ∧ OnlyLine s t)
  ∧ Runs (.status c l) s (fun t => Answered s t c l (.data (s1.statusLines (s1.car c).role)) ∧ OnlyLine s t)
  ∧ Runs (.help c l none) s (fun t => Answered s t c l (.data (helpLines.map (fun p => txt p.1))) ∧ OnlyLine s t)
  ∧ (∀ pend, 1 ≤ rank → Runs (.scheduleShow c l pend) s fun t => Answered s t c l (.data ((upToEnd ((List.range 64).map
      (fun i => (F.FT_SCHED i, (if pend then s.schedShadow i else s.rd (F.FT_SCHED i)).toNat)))).map wordLine)) ∧ OnlyLine s t)

/-- R129, R131, R142 to R145 and R150: a line that lacks the CRC its carrier requires answers E05 and does not count as executed,
one that comes while a response is owed for ZEROCAL, COMMIT, SHOT or KEY LOAD answers E04 behind it, and a command of a role above
the session's completes with OK and without effect. -/
def Obligations.LinesRefusedOrWithoutRight : Prop := ∀ (c : Carrier) (l : LineForm) (s : State), s.canonical = true →
  s.pow.stage = .running → s.lineOk c = true →
  (s.owes c = false → s.reqCrc c = true → l.crc = false → Runs (.status c l) s fun t => Responded s t c l (errResp 5)
    ∧ t.get F.CMD_LINES_LINES = s.get F.CMD_LINES_LINES ∧ OnlyLine s t)
  ∧ (∀ d k, (s.car c).held = some (d, k) → d ≠ .token → s.reqCrc c = false → Runs (.status c l) s fun t => (t.car c).held = some (d, k)
    ∧ (t.car c).tx = (s.car c).tx ∧ (t.car c).after = (s.car c).after ++ [(errResp 4).packet c 0#8 l] ∧ OnlyLine s t)
  ∧ (s.lineRuns c l = true → (s.onLine c false).rankOn c < 2 → ∀ path count mp,
    Runs (.shot c l path count) s (fun t => Answered s t c l okResp ∧ OnlyLine s t)
    ∧ Runs (.zerocal c l mp) s (fun t => Answered s t c l okResp ∧ OnlyLine s t)
    ∧ Runs (.commit c l) s (fun t => Answered s t c l okResp ∧ OnlyLine s t)
    ∧ Runs (.scheduleCommit c l) s (fun t => Answered s t c l okResp ∧ OnlyLine s t)
    ∧ Runs (.scheduleDiscard c l) s (fun t => Answered s t c l okResp ∧ OnlyLine s t)
    ∧ Runs (.reset c l) s (fun t => Answered s t c l okResp ∧ OnlyLine s t)
    ∧ Runs (.logTrouble c l none count) s (fun t => Answered s t c l okResp ∧ OnlyLine s t))

/-- R134, R135, R138, R139, R181, R223, R274 and R28 to R31: what the changing commands do for a session of enough right. -/
def Obligations.ChangingCommandsAct : Prop := ∀ (c : Carrier) (l : LineForm) (s : State), s.canonical = true →
  s.lineRuns c l = true →
  let s1 := s.onLine c false
  let rank := s1.rankOn c
  2 ≤ rank →
  (∀ a value x v b r i j, tokens value [] = [x] → readInt x = some v → Int.neg (2 ^ 31) ≤ v → v < 2 ^ 32 → a % 4 = 0 →
    viewOf a = (a, false) → regAt a = some (b, r, i, j) → b ≠ .ame → isSched a = false →
    let w := word (ofSigned 32 v)
    let m := Nat.land allBits (s1.writeMask rank a)
    m ≠ 0 → m = Nat.land m (stagedMask a) → a ≠ F.PAY_CFG → a ≠ F.PWR_CTRL → s1.valuesOk a r m w = true →
    admissible s1 (s1.stage a (mergeMask m w (s1.pend a))) b a = true → s1.cfgBusy = false →
    Runs (.set c l (.addr a) value) s fun t => Answered s t c l okResp ∧ t.pend a = mergeMask m w (s.pend a)
      ∧ RegsBut s t [wholeReg F.CMD_LINES])
  ∧ (∀ path count, s.sealOpen = true → path < 4 → 1 ≤ count.getD 1 → count.getD 1 ≤ 16 → s.flag F.CMD_MODE_TEST = true →
    s.pathOn path = true → s.ame.aclReq = none → Runs (.shot c l path count) s fun t => Deferring s t c l .shot
      ∧ t.ame = { s.ame with aclReq := some ⟨path, count.getD 1, 0, c, none⟩ } ∧ RegsBut s t [wholeReg F.CMD_LINES])
  ∧ Runs (.capture c l) s (fun t =>
    let u := s.advance 1
    let sec := u.get F.RTC_SEC_SEC
    let fr := u.get F.RTC_FRAC_FRAC
    Answered u t c l (.ok (decText sec ++ [' '] ++ hexText 4 fr ++ [' '] ++ calFracText sec fr))
    ∧ t.get F.RTC_CAPSEC_SEC = sec ∧ t.get F.RTC_CAPFRAC_FRAC = fr ∧ t.rd F.RTC_CALD = caldWord (secToCal sec)
    ∧ t.rd F.RTC_CALT = caltWord (secToCal sec))
  ∧ (∀ mp, s.sealOpen = true → s.cfgBusy = false → s.mpOn (mpNum mp) = true → s.mpPaths (mpNum mp) ≠ [] →
    s.flag (F.SHOT_MSTAT_EMPTY (mpNum mp)) = false → Runs (.zerocal c l mp) s fun t => Deferring s t c l .zerocal
      ∧ t.shot = { s.shot with zc := some ⟨mpNum mp, 0, []⟩, zcOut := none } ∧ t.flag F.CMD_STAT_ZCBUSY = true
      ∧ t.get F.SHOT_ZCSTAT_STATE = 1 ∧ t.get F.SHOT_ZCSTAT_MP = mpNum mp ∧ t.get F.SHOT_ZCSTAT_LEAST = 0)
  ∧ (s.saving = false → s.get F.KEYS_STAT_COMMIT ≠ 2 → s.updState ≠ 2 → Runs (.commit c l) s fun t => Deferring s t c l .commit
    ∧ t.cmd.savePend = true ∧ t.flag F.CMD_STAT_SAVEPEND = true ∧ t.saved = s.saved
    ∧ RegsBut s t [wholeReg F.CMD_LINES, F.CMD_STAT_SAVEPEND])
  ∧ (let es := entriesOf (tableWords s.rm.schedShadow)
     let cost := costOf s.pend es
     s.cfgBusy = false → formatOk es = true → costFits s.pend cost = true → Runs (.scheduleCommit c l) s fun t =>
      Answered s t c l (.ok (txt "ADMITTED " ++ decText cost)) ∧ t.get F.FT_ADMIT_RESULT = 1 ∧ t.get F.FT_ADMIT_COST = cost
      ∧ t.flag F.FT_ADMIT_PENDING = true ∧ t.rm.schedPend = some s.rm.schedShadow ∧ t.entries = s.entries)
  ∧ (s.cfgBusy = false → Runs (.scheduleDiscard c l) s fun t => Answered s t c l okResp
    ∧ (∀ i : Fin 64, t.schedShadow i.val = s.rd (F.FT_SCHED i.val)) ∧ RegsBut s t [wholeReg F.CMD_LINES])
  ∧ Runs (.reset c l) s (fun t => Answered s t c l okResp ∧ t.pow = { s.pow with resetReq := some s.uptime }
    ∧ RegsBut s t [wholeReg F.CMD_LINES])

/-- R142 to R145: a right password gives the session its role and a wrong one counts, the fifth in a row locking the carrier;
Utility and Manufacturer get a challenge; LOGOUT ends the session; locks, challenges and passwords follow. -/
def Obligations.SessionsLogInAndOut : Prop := ∀ (c : Carrier) (l : LineForm) (r : Role) (pw : Text) (d : List Byte) (s : State),
  s.canonical = true → s.lineRuns c l = true →
  let x := s.car c
  let locked := ∃ t0, x.lockEnd = some t0 ∧ s.uptime < t0
  let secret := r = .reader ∨ r = .installer
  let right := passwordOk pw = true ∧ passwordDigest pw = d
  (hasReceiver c = true → ¬ locked → secret → s.keys.pw.getD (roleRank r - 1) none = some d → right →
    Runs (.login c l r (some pw)) s fun t => Answered s t c l okResp ∧ OnlyLine s t
      ∧ (t.car c).role = r ∧ (t.car c).fails = 0 ∧ (t.car c).chal = none)
  ∧ (hasReceiver c = true → ¬ locked → secret → s.keys.pw.getD (roleRank r - 1) none = some d → ¬ right → x.fails < 4 →
    Runs (.login c l r (some pw)) s fun t => Answered s t c l okResp ∧ (t.car c).role = x.role ∧ (t.car c).fails = x.fails + 1
      ∧ t.get F.CMD_AUTHFAIL_COUNT = min (s.get F.CMD_AUTHFAIL_COUNT + 1) 65535
      ∧ RegsBut s t [wholeReg F.CMD_LINES, F.CMD_AUTHFAIL_COUNT])
  ∧ (hasReceiver c = true → ¬ locked → secret → s.keys.pw.getD (roleRank r - 1) none = some d → ¬ right → 4 ≤ x.fails →
    Runs (.login c l r (some pw)) s fun t => Answered s t c l okResp ∧ (t.car c).role = x.role ∧ (t.car c).fails = 0
      ∧ (t.car c).lockEnd = some (s.uptime + secs 600) ∧ t.get F.LOG_TSEQ_SEQ = (s.get F.LOG_TSEQ_SEQ + 1) % 2 ^ 32)
  ∧ (hasReceiver c = true → locked → Runs (.login c l r (some pw)) s fun t => Answered s t c l okResp ∧ OnlyLine s t
    ∧ (t.car c).role = x.role)
  ∧ (hasReceiver c = true → ¬ locked → r = .utility ∨ r = .manufacturer → s.keys.rngOff = false →
    Runs (.login c l r none) s fun t => (∃ v, v < 2 ^ 64 ∧ (t.car c).chal = some ⟨r, v, s.uptime⟩ ∧ Answered s t c l (.ok (hexN 16 v)))
      ∧ (t.car c).role = x.role ∧ RegsBut s t [wholeReg F.CMD_LINES])
  ∧ (hasReceiver c = true → Runs (.logout c l) s fun t => Answered s t c l okResp ∧ OnlyLine s t ∧ (t.car c).role = .publicRole
    ∧ (t.car c).chal = none ∧ (∀ b ∈ t.cmd.keyBuf, b.1 ≠ c))
  ∧ (hasReceiver c = false → Runs (.login c l r (some pw)) s (fun t => Answered s t c l okResp ∧ OnlyLine s t)
    ∧ Runs (.logout c l) s (fun t => Answered s t c l okResp ∧ OnlyLine s t))
  ∧ (secret → (if r = .installer then 3 else 2) ≤ (s.onLine c false).rankOn c → passwordOk pw = true → Runs (.keyPassword c l r pw) s
    fun t => Answered s t c l okResp ∧ t.keys = { s.keys with pw := s.keys.pw.set (roleRank r - 1) (some (passwordDigest pw)) }
      ∧ RegsBut s t [wholeReg F.CMD_LINES])

/-- R336 to R339 and R442: KEY LOAD joins its pieces and hands a whole message on; TOKEN adds the credit of a token that passes
every check, and rejects and counts one that fails. -/
def Obligations.KeyLoadAndToken : Prop := ∀ (c : Carrier) (l : LineForm) (digits : Text) (d key : List Nat) (s : State),
  s.canonical = true → s.lineRuns c l = true →
  let s1 := s.onLine c true
  let s2 := s.onLine c false
  let u := (s2.slotFor (s2.get F.PAY_TKCFG_SLOT) 2).2
  let p := digitsNat (ff1Dec key u.devid d)
  let asked := readDecimals digits = some d ∧ d.length = 20
  let keyed := asked ∧ s.jrn.hid.lockEnd = none ∧ s.get F.PAY_CFG_MODE ≠ 0 ∧ s.flag F.PAY_STAT_LOCKOUT = false
    ∧ (s2.slotFor (s2.get F.PAY_TKCFG_SLOT) 2).1 = some key
  (∀ piece hex b, tokens piece [] = [hex, ['+']] → hex ≠ [] → hex.length ≤ 192 → readHex hex = some b →
    (s.keyBufOf c ++ b).length ≤ 256 → Runs (.keyLoad c l piece) s fun t => Answered s t c l okResp
      ∧ t.keyBufOf c = s.keyBufOf c ++ b ∧ OnlyLine s t)
  ∧ (∀ piece hex b v, tokens piece [] = [hex] → hex ≠ [] → hex.length ≤ 192 → readHex hex = some b →
    (s.keyBufOf c ++ b).length ≤ 256 → s.keyBusy = false →
    (s1.dropKeyBuf c).keyMessage (.carrier c) (some (c, l)) (s.keyBufOf c ++ b) = (none, v) → Runs (.keyLoad c l piece) s fun t =>
      Deferring s t c l .keyLoad ∧ t.keys = v.keys ∧ t.keyBufOf c = [])
  ∧ (asked → s.jrn.hid.lockEnd = none → s.get F.PAY_CFG_MODE = 0 → Runs (.token c l digits) s fun t => Answered s t c l (errResp 6)
    ∧ t.get F.PAY_TKLAST_RESULT = 10 ∧ t.credit = s.credit ∧ t.jrn = s.jrn)
  ∧ (keyed → 4 ≤ (u.tokenResult p).1 → Runs (.token c l digits) s fun t => Answered s t c l (errResp 7)
    ∧ t.get F.PAY_TKLAST_RESULT = (u.tokenResult p).1 ∧ t.credit = s.credit ∧ t.jrn.due = true
    ∧ t.get F.PAY_TKCNT_REJECTED = min (s.get F.PAY_TKCNT_REJECTED + 1) 65535
    ∧ t.get F.PAY_STAT_REJRUN = min (s.get F.PAY_STAT_REJRUN + 1) 5
    ∧ (4 ≤ s.get F.PAY_STAT_REJRUN → t.flag F.PAY_STAT_LOCKOUT = true
      ∧ t.jrn.hid.lockEnd = some (s.get F.RTC_SEC_SEC + 600)))
  ∧ (∀ id, keyed → u.tokenResult p = (0, some 0, some id) → Runs (.token c l digits) s fun t => t.credit = s.credit + 65536 * (p / 65536 % 2 ^ 24 : Nat)
      ∧ (t.car c).held = some (.token, l) ∧ (t.car c).after = [(Resp.later (fixedText t.credit 16)).packet c 0#8 l]
      ∧ t.get F.PAY_TKLAST_RESULT = 0 ∧ t.get F.PAY_STAT_REJRUN = 0 ∧ t.jrn.due = true
      ∧ t.get F.PAY_TKCNT_ACCEPTED = min (s.get F.PAY_TKCNT_ACCEPTED + 1) 65535
      ∧ t.get F.PAY_TKHWM_HWM = max (s.get F.PAY_TKHWM_HWM) id)

/-- R65, R77, R79, R117, R118, R123 and R124: a carrier wakes and falls asleep, a ball of function 7 wakes the core, a character in
the 1 ms after a wake is discarded, a printable one joins the line and CR queues it. -/
def Obligations.CarriersWakeReceiveAndSleep : Prop := ∀ (dt : Nat) (c : Carrier) (ch : Byte) (ball : Fin 12) (s : State),
  s.canonical = true →
  let s1 := s.advance dt
  let x := s1.car .uart
  (hasReceiver c = true → s1.isAwake c = false → s1.listening c = true → Runs (.carrierWake dt c) s fun t =>
    t.isAwake c = true ∧ (t.car c).readyAt = s1.uptime + 33 ∧ (t.car c).role = (s1.car c).role
      ∧ (c = .uart → t.flag F.CMD_STAT_UARTAWAKE = true) ∧ RegsBut s1 t [F.CMD_STAT_UARTAWAKE, F.CMD_STAT_OPTSTATE, F.PWR_STATE_STATE])
  ∧ (hasReceiver c = true → s.isAwake c = true → Runs (.carrierIdle dt c) s fun t => t.isAwake c = false
    ∧ (t.car c).role = .publicRole ∧ (t.car c).rx = [] ∧ (t.car c).chal = none
    ∧ (s.car c).lastChar + s.idleTime c ≤ t.uptime ∧ (c = .optical → t.get F.CMD_STAT_OPTSTATE = 0)
    ∧ (c = .uart → t.flag F.CMD_STAT_UARTAWAKE = false))
  ∧ (s1.vioOk = true → s1.get (F.MGMT_GPIO_FUNC ball.val) = 7 → Runs (.gpioWake dt ball) s fun t => OnlyRegs s1 t [F.PWR_STATE_STATE]
    ∧ (s1.ticking = true → s1.get F.FT_PHASE_PHASE = 5 → s1.get F.PWR_STATE_STATE = 2 → t.get F.PWR_STATE_STATE = 0))
  ∧ (s1.vioOk = false ∨ s1.get (F.MGMT_GPIO_FUNC ball.val) ≠ 7 → Runs (.gpioWake dt ball) s fun t => t = s1)
  ∧ (s1.listening .uart = true → x.awake = true → x.readyAt ≤ s1.uptime → 0x20 ≤ ch.toNat → ch.toNat < 0x7F →
    x.bad = false → x.rx.length < 255 → Runs (.characterReceived dt .uart ch) s fun t => t.cmd.uart = { x with
      lastChar := s1.uptime, lastCr := false, rx := x.rx ++ [ch], txHead := t.cmd.uart.txHead
      tx := x.tx ++ (if s1.flag F.CMD_UART_ECHO then [ch] else []) }
      ∧ SeqKept s1 t ∧ t = { s1 with ringSeq := t.ringSeq, cmd := { s1.cmd with uart := t.cmd.uart } })
  ∧ (s1.listening .uart = true → x.awake = true → s1.uptime < x.readyAt → Runs (.characterReceived dt .uart ch) s fun t =>
    t.cmd.uart.rx = x.rx ∧ t.cmd.uart.tx = x.tx ∧ t.cmd.uart.lines = x.lines ∧ t.regs = s1.regs)
  ∧ (s1.listening .uart = true → x.awake = true → x.readyAt ≤ s1.uptime → ch = 0x0D#8 →
    x.bad = false → x.rx ≠ [] → x.lines = [] → x.held = none → Runs (.characterReceived dt .uart ch) s fun t =>
      t.cmd.uart.lines = [(0#8 :: x.rx, s1.uptime)] ∧ t.cmd.uart.rx = []
      ∧ t.cmd.uart.tx = x.tx ++ (if s1.flag F.CMD_UART_ECHO then crlf else []) ∧ t.regs = s1.regs)

/-- R119 to R121: the optical sign-on: a request is noted, answered by the identification, an option select in time opens a
session as Public, any other and 1,500 ms return the carrier to waiting, and a break message ends the session. -/
def Obligations.OpticalSignOn : Prop := ∀ (dt t0 : Nat) (z mode : Char) (address : Text) (s : State), s.canonical = true →
  let s1 := s.advance dt
  let late := s.passTo dt (t0 + millis 200)
  let offered := 48 ≤ z.toNat ∧ z.toNat - 48 ≤ s1.get F.CMD_OPT_MAXBAUD ∧ mode = '6' ∧ s1.uptime ≤ t0 + millis 1500
  (s1.listening .optical = true → s1.inSession = false → address = [] ∨ upper address = s1.devidText →
    Runs (.signOnRequest dt address) s fun t => t.cmd.sign = .requested s1.uptime ∧ t.cmd.opt.awake = true
      ∧ t.get F.CMD_STAT_OPTSTATE = 1)
  ∧ (s.cmd.sign = .requested t0 → late.pow.stage = .running → Runs (.identification dt) s fun t =>
    t.cmd.opt.tx = late.cmd.opt.tx ++ late.identText ∧ t0 + millis 200 ≤ t.uptime
      ∧ t.cmd.sign = .identified (t.uptime + 32768 * 10 * late.identText.length / 300))
  ∧ (s1.cmd.sign = .identified t0 → s1.listening .optical = true → offered → s1.cmd.opt.awake = true → Runs (.optionSelect dt z mode) s
    fun t => t.cmd.sign = .session (z.toNat - 48) ∧ t.cmd.opt.role = .publicRole ∧ t.uptime = s1.uptime + millis 300
      ∧ t.get F.CMD_STAT_OPTSTATE = 2 ∧ t.cmd.opt.rx = [] ∧ (∃ sent, t.cmd.opt.tx = sent ++ textBytes (txt "OK") ++ crlf))
  ∧ (s1.cmd.sign = .identified t0 → s1.listening .optical = true → ¬ offered → Runs (.optionSelect dt z mode) s fun t =>
    t.cmd.sign = .waiting ∧ t.cmd.opt.role = s1.cmd.opt.role)
  ∧ (s.cmd.sign = .identified t0 → Runs (.optionSelectTimeout dt) s fun t => t.cmd.sign = .waiting ∧ t0 + millis 1500 ≤ t.uptime)
  ∧ (s1.listening .optical = true → s1.inSession = true → Runs (.breakMessage dt) s fun t => t.cmd.sign = .waiting ∧ t.cmd.opt.role = .publicRole
    ∧ t.cmd.opt.rx = [] ∧ t.get F.CMD_STAT_OPTSTATE = (if s1.cmd.opt.awake then 1 else 0))

/-- R143, R144, R181, R339 and R442: what expires: a lock of LOGIN, a challenge, a KEY LOAD buffer, a SHOT request and a token
lockout. -/
def Obligations.SessionTimersExpire : Prop := ∀ (dt t0 : Nat) (c : Carrier) (l : LineForm) (q : Challenge) (p : Nat × List Byte)
    (k : ShotReq) (s : State), s.canonical = true → hasReceiver c = true →
  ((s.car c).lockEnd = some t0 → Runs (.loginLockExpiry dt c) s fun t => (t.car c).lockEnd = none ∧ t0 ≤ t.uptime
    ∧ bit (t.get F.CMD_AUTHFAIL_LOCK) (carrierNum c) = false)
  ∧ ((s.car c).chal = some q → Runs (.challengeExpiry dt c) s fun t => (t.car c).chal = none ∧ q.sent + secs 60 ≤ t.uptime
    ∧ (t.car c).role = (s.car c).role)
  ∧ (s.cmd.keyBuf.find? (fun b => sameCarrier b.1 c) = some (c, p.2, p.1) → Runs (.keyLoadBufferExpiry dt c) s fun t =>
    t.keyBufOf c = [] ∧ (∀ b ∈ t.cmd.keyBuf, b.1 ≠ c) ∧ p.1 + secs 60 ≤ t.uptime)
  ∧ (s.ame.aclReq = some k → k.car = c → k.ran = none → 16 ≤ k.waited → s.serviceOpen = true → (s.car c).held = some (.shot, l) →
    (s.car c).after = [] → Runs .shotRequestAbandon s fun t => t.ame = { s.ame with aclReq := none } ∧ (t.car c).held = none
      ∧ (t.car c).tx = (s.car c).tx ++ (errResp 4).bytes l)
  ∧ (s.pow.stage = .running → s.jrn.hid.lockEnd = some t0 → t0 ≤ s.get F.RTC_SEC_SEC → Runs .tokenLockoutExpiry s fun t =>
    t.flag F.PAY_STAT_LOCKOUT = false ∧ t.get F.PAY_STAT_REJRUN = 0 ∧ t.jrn.hid.lockEnd = none ∧ t.jrn.due = true
      ∧ RegsBut s t [F.PAY_STAT_LOCKOUT, F.PAY_STAT_REJRUN])

/-- R122, R358 and R359: a line in a link message runs with the role of its key and is answered in a message; an empty one is
ignored, and one too long answers E01. -/
def Obligations.TunnelledLines : Prop := ∀ (nb : Fin 32) (sec : Bool) (inv : Byte) (line : List Byte) (form : LineForm) (s : State),
  s.canonical = true → s.lineOk (.tunnel nb) = true → s.ticking = true →
  s.owes (.tunnel nb) = false →
  let s1 := s.enterTunnel nb.val sec
  let asked (w : List Text) : Prop := line ≠ [] ∧ line.length ≤ 255 ∧ line.all lineByte = true
    ∧ s1.parseForm (.tunnel nb) (bytesText line) = (0, form, w)
  let answered (t : State) (r : Resp) : Prop :=
    t.link.outbox = s.link.outbox ++ [(nb.val, [0x84#8, inv, byte r.code] ++ r.bytes form)]
  (asked [txt "STATUS"] → Runs (.aclLine nb sec inv line) s fun t =>
    answered t (.data ((s1.bump F.CMD_LINES_LINES 1).statusLines (s.linkRole nb.val sec))) ∧ OnlyLine s t)
  ∧ (asked [txt "RESET"] → roleRank (s.linkRole nb.val sec) < 2 → Runs (.aclLine nb sec inv line) s fun t => answered t okResp
    ∧ OnlyLine s t)
  ∧ (asked [txt "RESET"] → 2 ≤ roleRank (s.linkRole nb.val sec) → Runs (.aclLine nb sec inv line) s fun t => answered t okResp
    ∧ t.pow.resetReq = some s.uptime)
  ∧ (line = [] → Runs (.aclLine nb sec inv line) s fun t => t = s)
  ∧ (255 < line.length → Runs (.aclLine nb sec inv line) s fun t => OnlyLine s t ∧ ∃ f, t.link.outbox = s.link.outbox
    ++ [(nb.val, [0x84#8, inv, 1#8] ++ (errResp 1).bytes f)])

/-! ### Keys -/

/-- R439 to R441, R443 and R445: a key message that fails FORMAT is rejected with RESULT 1; one that passes the checks before AUTH
and carries a signature starts its verification; one that passes every check with a MAC starts the commit that applies it. -/
def Obligations.KeyMessagesAreChecked : Prop := ∀ (m : KeyMsg) (f : KeyFields) (s : State), s.canonical = true → s.serviceOpen = true →
  s.keyBusy = false →
  let kind := (m.bytes.getD 0 0#8).toNat
  let s1 := ((s.put F.KEYS_LAST_KIND kind).clr F.KEYS_LAST_SLOT).put F.KEYS_LAST_SLOT f.target
  let checked := parseKey (nats m.bytes) = some f ∧ f.devid = s.devid ∧ s1.keyStateOk f = true ∧ s1.methodOk f = true
  (∀ p ∈ [(0x10, Instr.keyUpdate m), (0x11, .lifeCycleTransition m), (0x12, .authorityChange m), (0x13, .tamperAcknowledgement m)],
    kind = p.1 →
    (parseKey (nats m.bytes) = none → Runs p.2 s fun t => t.get F.KEYS_LAST_RESULT = 1 ∧ t.get F.KEYS_LAST_KIND = kind
      ∧ t.get F.KEYS_CNT_REJECTED = min (s.get F.KEYS_CNT_REJECTED + 1) 65535
      ∧ RegsBut s t [F.KEYS_LAST_RESULT, F.KEYS_LAST_KIND, F.KEYS_LAST_SLOT, F.KEYS_CNT_REJECTED] ∧ t.keys = s.keys
      ∧ t.link.outbox = s.link.outbox ++ (match m.src with | .link nb _ => [(nb.val, [byte (kind + 0x80), 8#8, 1#8])] | .carrier _ => []))
    ∧ (checked → f.ecdsa = true → s.authPub ≠ none → Runs p.2 s fun t => t.flag F.KEYS_STAT_BUSY = true
      ∧ t.keys = { s.keys with run := some ⟨m.src, none, m.bytes, s.rm.tick, none⟩ } ∧ t.link = s.link ∧ t.nvm = s.nvm
      ∧ RegsBut s t [F.KEYS_LAST_KIND, F.KEYS_LAST_SLOT, F.KEYS_STAT_BUSY]))
  ∧ (∀ p ∈ [(0x10, Instr.keyUpdate m), (0x11, .lifeCycleTransition m)], ∀ key k s2 s3, kind = p.1 → checked → f.ecdsa = false →
    s1.macKey f = (some key, s2) → cmac key f.signed = f.auth → s2.get F.KEYS_CTR_COUNTER < f.counter → usageOk f = true →
    s2.carriedKey f = (some k, s3) → s3.flag F.KEYS_STAT_FAULT = false → Runs p.2 s fun t => t.get F.KEYS_STAT_COMMIT = 1
      ∧ (∃ c, t.keys.commit = some c ∧ c.run.bytes = m.bytes ∧ c.rows = 0 ∧ c.committed = false ∧ copyCounter c.bytes = f.counter
        ∧ copyState c.bytes = 1 ∧ copyKind c.bytes = kind)
      ∧ t.nvm = s.nvm ∧ t.link = s.link ∧ t.get F.KEYS_CTR_COUNTER = s.get F.KEYS_CTR_COUNTER
      ∧ RegsBut s t [F.KEYS_LAST_KIND, F.KEYS_LAST_SLOT, F.KEYS_SLOT_LOADED 0, F.KEYS_STAT_COMMIT])

/-- R441: a verification ends with the result that the signature has under the authority key. R444: KEY STATUS and the link's status
query answer whether a digest is that of the committed copy; the query also carries KEYS_CTR. -/
def Obligations.KeyVerificationAndQuery : Prop := ∀ (nb : Fin 32) (digest : List Byte) (c : Carrier) (l : LineForm) (hex : Text)
    (s : State), s.canonical = true →
  let applied (d : List Byte) : Prop := ∃ k, s.committed = some k ∧ copyDigest (s.keyCopy k) = d
  (∀ r pub f, s.keys.run = some r → r.verified = none → s.authPub = some pub → parseKey (nats r.bytes) = some f →
    s.pins.window = false → Runs .ecdsaVerificationEnd s fun t => t.flag F.KEYS_STAT_BUSY = false
      ∧ t.keys = { s.keys with run := some { r with verified := some (ecdsaVerify (nats pub) f.signed f.auth) } }
      ∧ RegsBut s t [F.KEYS_STAT_BUSY, F.PWR_STATE_STATE] ∧ t = { s with regs := t.regs, keys := t.keys })
  ∧ (s.serviceOpen = true → Runs (.statusQuery nb digest) s fun t => (∃ b, (b = 1#8 ↔ applied digest) ∧ (b = 0#8 ↔ ¬ applied digest)
    ∧ t.link.outbox = s.link.outbox ++ [(nb.val, [0x94#8, 0#8, b] ++ bytesBE 4 (s.get F.KEYS_CTR_COUNTER))])
    ∧ t = { s with link := { s.link with outbox := t.link.outbox } })
  ∧ (∀ d, s.lineRuns c l = true → hex.length = 64 → readHex hex = some d → Runs (.keyStatus c l hex) s fun t => OnlyLine s t
    ∧ (applied d → Answered s t c l (.ok (txt "APPLIED " ++ hex))) ∧ (¬ applied d → Answered s t c l okResp))

/-! ### The object service -/

/-- R358 to R360, R349 and R352: what object requests of a link partner answer and do. Without the right a GET answers the
attribute's type at zero, and a SET and an ACTION answer RESULT 0 without effect (R360). -/
def Obligations.ObjectRequestsAnswer : Prop := ∀ (nb : Fin 32) (sec : Bool) (inv : Byte) (cls index : Nat) (obis data : List Byte)
    (k : ObjKind) (s : State), s.canonical = true → s.serviceOpen = true →
  let o := nats obis
  let rank := s.linkRank nb sec
  let replied (t : State) (service code : Nat) (d : List Byte) : Prop :=
    t.link.outbox = s.link.outbox ++ [(nb.val, [byte (service + 0x80), inv, byte code] ++ d)]
  let only (t : State) : Prop := t = { s with link := { s.link with outbox := t.link.outbox } }
  let names := s.objectAt o = some k ∧ k.cls = cls
  (s.objectAt o = none → (∀ sel, Runs (.objectGet nb sec inv cls obis index sel) s fun t => replied t 1 2 [] ∧ only t)
    ∧ Runs (.objectSet nb sec inv cls obis index data) s (fun t => replied t 2 2 [] ∧ only t)
    ∧ Runs (.objectAction nb sec inv cls obis index data) s (fun t => replied t 3 2 [] ∧ only t))
  ∧ (∀ v, names → s.attr k o index = some v → k.readRank ≤ rank → v.enc.length ≤ 224 →
    Runs (.objectGet nb sec inv cls obis index none) s fun t => replied t 1 0 v.enc ∧ only t)
  ∧ (∀ v sel, names → s.attr k o index = some v → rank < k.readRank → Runs (.objectGet nb sec inv cls obis index sel) s fun t =>
    replied t 1 0 v.zero.enc ∧ only t)
  ∧ (names → (attrsOf cls).contains index = true → k.writable index = false ∨ rank < s.objWriteRank k →
    Runs (.objectSet nb sec inv cls obis index data) s fun t => replied t 2 0 [] ∧ only t)
  ∧ (names → (methodsOf cls).contains index = true → rank < 3 → Runs (.objectAction nb sec inv cls obis index data) s fun t =>
    replied t 3 0 [] ∧ only t)
  ∧ (∀ b w, o = [0, 0, 1, 0, 0, 255] → s.objWriteRank .clock ≤ rank → readVal data = some (.octets b) → clockWords b = some w →
    s.flag F.RTC_STAT_WBUSY = false → Runs (.objectSet nb sec inv 8 obis 2 data) s fun t => replied t 2 0 []
      ∧ t.flag F.RTC_STAT_WBUSY = true ∧ t.rtc.held = none
      ∧ t.rtc.wr = some ((calToSec (bitsOf w.1 23 16) (bitsOf w.1 11 8) (bitsOf w.1 4 0) (bitsOf w.2 20 16) (bitsOf w.2 13 8)
        (bitsOf w.2 5 0)).1 % 2 ^ 32, 2)
      ∧ RegsBut s t [F.RTC_STAT_WBUSY, F.RTC_STAT_CLAMPED])
  ∧ (o = [0, 0, 96, 3, 10, 255] → 3 ≤ rank →
    Runs (.objectAction nb sec inv 70 obis 1 data) s (fun t => replied t 3 0 [] ∧ t.flag F.PAY_STAT_REMOTE = true
      ∧ t.jrn.due = true ∧ t.act.want = some true ∧ RegsBut s t [F.PAY_STAT_REMOTE])
    ∧ (s.openBlocked = true → Runs (.objectAction nb sec inv 70 obis 2 data) s fun t => replied t 3 6 [] ∧ only t)
    ∧ (s.openBlocked = false → s.get F.PAY_CFG_MODE = 0 → Runs (.objectAction nb sec inv 70 obis 2 data) s fun t => replied t 3 0 []
      ∧ t.flag F.PAY_STAT_REMOTE = false ∧ t.flag F.SAFE_STAT_SSHELD = false ∧ t.act.want = some false
      ∧ RegsBut s t [F.PAY_STAT_REMOTE, F.SAFE_STAT_SSHELD]))

/-- R351 and R38: method 1 of the Special days table stages one entry and method 2 disables one; without the right they have no
effect. -/
def Obligations.SpecialDaysAreStaged : Prop := ∀ (src : Source) (data : List Byte) (x : Val) (i : Nat) (w : Word) (s : State),
  s.canonical = true → s.serviceOpen = true →
  let others (t : State) : Prop := (∀ a, a ≠ F.ALM_SPEC i → t.pend a = s.pend a) ∧ t = { s with shadow := t.shadow }
  let right := 3 ≤ roleRank (s.roleOf src)
  (right → readVal data = some x → readSpecial x = some (i, w) → s.cfgBusy = false → Runs (.specialDayInsert src data) s fun t =>
    t.pend (F.ALM_SPEC i) = w ∧ others t)
  ∧ (right → readVal data = some x → x.num = some i → i < 64 → s.cfgBusy = false → Runs (.specialDayDelete src data) s fun t =>
    t.pend (F.ALM_SPEC i) = s.pend (F.ALM_SPEC i) &&& 0x7FFFFFFF#32 ∧ others t)
  ∧ (¬ right → Runs (.specialDayInsert src data) s (fun t => t = s) ∧ Runs (.specialDayDelete src data) s (fun t => t = s))

/-! ### Firmware update -/

/-- R500 to R504 and R506: what the update messages of a source with the right do and answer. -/
def Obligations.UpdateMessagesAct : Prop := ∀ (src : Source) (data : List Byte) (s : State), s.canonical = true → s.serviceOpen = true →
  s.taskEnabled 4 = true →
  let f := nats data
  let off := bytesNat (f.take 4)
  let d := f.drop 4
  let next := s.get F.MGMT_UPDPROG_NEXT
  let mine := s.get F.MGMT_UPDSTAT_OWNER = ownerNum src ∧ s.mgmt.failed = none
  let replied (t : State) (type code : Nat) : Prop := t.link.outbox = s.link.outbox ++ (match src with
    | .link nb _ => [(nb.val, [byte (type + 0x80), byte code, byte t.updState] ++ bytesBE 4 (t.get F.MGMT_UPDPROG_NEXT))]
    | .carrier _ => [])
  (s.updAllowed src 0x20 f = true → s.updState = 0 ∨ mine → f.length = 5 → f.headD 2 ≤ 1 → 272 ≤ bytesNat (f.drop 1) →
    bytesNat (f.drop 1) % 16 = 0 → bytesNat (f.drop 1) ≤ bankSize (s.targetBank (f.headD 2)) → Runs (.updateBegin src data) s fun t =>
    replied t 0x20 0 ∧ t.updState = 1 ∧ t.get F.MGMT_UPDSTAT_KIND = f.headD 2 ∧ t.get F.MGMT_UPDSTAT_OWNER = ownerNum src
      ∧ t.get F.MGMT_UPDSTAT_REASON = 0 ∧ t.get F.MGMT_UPDPROG_NEXT = 0 ∧ t.get F.MGMT_UPDLEN_LENGTH = bytesNat (f.drop 1)
      ∧ t.mgmt.queue = [] ∧ t.mgmt.prog = 0 ∧ t.mgmt.lastAt = s.uptime ∧ t.mgmt.images = s.mgmt.images
      ∧ t.jrn.hid.session = some (f.headD 2, bytesNat (f.drop 1), ownerNum src, 0)
      ∧ RegsBut s t [wholeReg F.MGMT_UPDSTAT, wholeReg F.MGMT_UPDPROG, wholeReg F.MGMT_UPDLEN, F.SYS_RING_B_FILL 8])
  ∧ (s.updAllowed src 0x21 f = true → mine → s.updState = 1 → 16 ≤ d.length → d.length ≤ 112 → d.length % 16 = 0 → off = next →
    off + d.length ≤ s.get F.MGMT_UPDLEN_LENGTH → s.ringRoom 8 1 = true → Runs (.updateData src data) s fun t =>
    replied t 0x21 0 ∧ t.get F.MGMT_UPDPROG_NEXT = off + d.length ∧ t.updState = 1
      ∧ t.mgmt.queue = s.mgmt.queue ++ [(off, ofNats d, s.ringSlot 8 0)] ∧ t.token (s.ringSlot 8 0) = tokPublished
      ∧ RegsBut s t [wholeReg F.MGMT_UPDPROG, F.SYS_RING_B_FILL 8, F.SYS_RING_B_HEAD 8])
  ∧ (s.updAllowed src 0x21 f = true → mine → s.updState = 1 → 16 ≤ d.length → d.length ≤ 112 → d.length % 16 = 0 → off < next →
    Runs (.updateData src data) s fun t => replied t 0x21 0 ∧ t.mgmt = { s.mgmt with lastAt := s.uptime } ∧ t.regs = s.regs)
  ∧ (s.updAllowed src 0x22 f = true → mine → s.updState = 1 → f = [] → next = s.get F.MGMT_UPDLEN_LENGTH →
    Runs (.updateEnd src data) s fun t => replied t 0x22 0 ∧ t.updState = 2 ∧ t.mgmt.verify = true
      ∧ RegsBut s t [F.MGMT_UPDSTAT_STATE])
  ∧ (s.updAllowed src 0x23 f = true → mine → s.updState = 3 → f = [] → s.flag F.CMD_STAT_SAVEPEND = false →
    s.flag F.CMD_STAT_ZCBUSY = false → s.get F.KEYS_STAT_COMMIT = 0 → Runs (.updateActivate src data) s fun t =>
    replied t 0x23 0 ∧ t.mgmt = { s.mgmt with lastAt := s.uptime, activate := true } ∧ t.regs = s.regs)
  ∧ (s.updAllowed src 0x24 f = true → mine → s.updState ≠ 0 → f = [] → Runs (.updateAbort src data) s fun t =>
    replied t 0x24 0 ∧ t.updState = 0 ∧ t.get F.MGMT_UPDSTAT_REASON = 8 ∧ t.mgmt.queue = [] ∧ t.mgmt.failed = some 8
      ∧ t.jrn.hid.session = none ∧ t.get F.MGMT_UPDCNT_FAILED = min (s.get F.MGMT_UPDCNT_FAILED + 1) 65535)
  ∧ (s.updAllowed src 0x25 f = true → Runs (.updateStatus src data) s fun t => replied t 0x25 0
    ∧ t = { s with link := { s.link with outbox := t.link.outbox }, mgmt := t.mgmt }
    ∧ t.mgmt = (if s.updState ≠ 0 ∧ s.get F.MGMT_UPDSTAT_OWNER = ownerNum src then { s.mgmt with lastAt := s.uptime } else s.mgmt))
  ∧ (s.updState ≠ 0 → s.get F.MGMT_UPDSTAT_OWNER ≠ ownerNum src → s.updAllowed src 0x22 f = true → Runs (.updateEnd src data) s fun t =>
    replied t 0x22 4 ∧ t = { s with link := { s.link with outbox := t.link.outbox } })

/-- R502 and R506: a silent owner ends the session with REASON 7, and a trial that has run its ticks is confirmed. -/
def Obligations.SessionTimeoutAndTrialConfirmation : Prop := ∀ (dt old : Nat) (s : State), s.canonical = true →
  let u := s.passTo dt (s.mgmt.lastAt + secs (s.get F.MGMT_UPDCFG_TIMEOUT))
  (s.updState ≠ 0 → Runs (.updateSessionTimeout dt) s fun t => t.updState = 0 ∧ t.get F.MGMT_UPDSTAT_REASON = 7
    ∧ t.mgmt.failed = some 7 ∧ t.mgmt.queue = [] ∧ t.jrn.hid.session = none
    ∧ t.get F.MGMT_UPDCNT_FAILED = min (u.get F.MGMT_UPDCNT_FAILED + 1) 65535
    ∧ s.mgmt.lastAt + secs (s.get F.MGMT_UPDCFG_TIMEOUT) ≤ t.uptime ∧ t.mgmt.images = s.mgmt.images)
  ∧ (s.ticking = true → s.trialDone = true → s.mgmt.trial = some old → (∀ i, s.activeImage = some i → i.svn < 128) →
    Runs .trialConfirmation s fun t => t.mgmt = { s.mgmt with trial := none } ∧ t.flag F.MGMT_BOOT_TRIAL = false
      ∧ t.get F.MGMT_SVN_APP = max (s.get F.MGMT_SVN_APP) (match s.activeImage with | some i => i.svn | none => 0)
      ∧ s.get F.MGMT_SVN_APP ≤ t.get F.MGMT_SVN_APP ∧ t.get F.MGMT_SVN_MET = s.get F.MGMT_SVN_MET)

/-! ### Radio and link -/

/-- R367, R368, R373 and R380 (Table 11.8): a sample that finds a preamble starts the wait for a sync word, which its limit ends;
a sync word heard in that wait or in the listening window of an acknowledgement starts reception. -/
def Obligations.SamplesAndSyncWords : Prop := ∀ (dt t0 : Nat) (preamble : Bool) (s : State), s.canonical = true →
  let u := s.passTo dt t0
  let next (x : State) : State := { x with link := { x.link with sampleAt := some (t0 + csiCycles (x.get F.LINK_CFG_CSI)) } }
  let limit := t0 + millis 40 + csiCycles (s.get F.LINK_CFG_CSI)
  let v := s.advance dt
  (s.link.sampleAt = some t0 → u.sampling = true → preamble = false → Runs (.channelSample dt preamble) s fun t => t = next u)
  ∧ (s.link.sampleAt = some t0 → u.sampling = true → preamble = true → u.link.rx = .sleep → u.link.tx = .idle →
    Runs (.channelSample dt preamble) s fun t => t.link.rx = .syncWait u.uptime ∧ t.get F.RADIO_STAT_STATE = 2
      ∧ t.link.sampleAt = (next u).link.sampleAt ∧ RegsBut u t [F.RADIO_STAT_STATE])
  ∧ (s.link.rx = .syncWait t0 → s.link.tx = .idle → Runs (.syncWaitLimit dt) s fun t => t.link.rx = .sleep
    ∧ t.get F.RADIO_STAT_STATE = 0 ∧ t.uptime = s.uptime + min (max dt (t0 + millis 20 - s.uptime)) (limit - s.uptime))
  ∧ ((∃ x, v.link.rx = .syncWait x) ∨ (v.link.rx = .sleep ∧ ∃ m stop, v.link.tx = .ackWait m stop
      ∧ stop + usCycles 800 ≤ v.uptime + ackListen m ∧ v.uptime ≤ stop) →
    v.radioRx = true → (∀ m a b c, v.link.tx ≠ .send m a b c) → Runs (.syncWord dt) s fun t => t.link = { v.link with rx := .receive }
      ∧ t.get F.RADIO_STAT_STATE = 2 ∧ RegsBut v t [F.RADIO_STAT_STATE])

/-- R381 and R382 (Table 11.9): a frame that fails its CRC or its MIC is discarded; a new DATA frame is kept for the RADIO task and
acknowledged; a repetition is only acknowledged again. -/
def Obligations.FramesAreReceived : Prop := ∀ (dt n : Nat) (f : RxFrame) (fr : Frame) (rest key p : List Nat) (s x : State),
  s.canonical = true →
  let u := s.advance dt
  let w := (({ u with link := { u.link with rx := .sleep } }).putI F.RADIO_STAT_RSSI f.rssi).bump F.RADIO_CNT_RX 1
  let listening := u.radioRx = true ∧ u.flag F.LINK_CFG_EN = true ∧ u.link.rx = .receive
  let mine := listening ∧ parseFrame (nats f.bytes) = some (fr, 0, rest) ∧ fr.typ = 0 ∧ fr.dst = w.get F.LINK_ADDR_ADDR
    ∧ w.entryOf fr.src = some n ∧ fr.sec = true ∧ fr.kid = w.get (F.LINK_NB_A_KID n)
    ∧ w.slotFor (w.get (F.LINK_NB_A_KEY n)) 0 = (some key, x)
  let d := (fr.seq + 65536 - w.get (F.LINK_NB_B_LASTSEQ n)) % 65536
  let heard (t : State) : Prop := t.link.rx = .sleep ∧ t.get F.RADIO_CNT_RX = min (u.get F.RADIO_CNT_RX + 1) 65535
  let acks (t : State) (status : Nat) : Prop := fr.ackreq = true → t.link.ack = some ⟨n, status, fr.seq, u.uptime + 33 + 8 * fr.countdown.getD 0⟩
  (listening → parseFrame (nats f.bytes) = none → Runs (.frameReceived dt f) s fun t => t.link = { u.link with rx := .sleep }
    ∧ RegsBut u t [F.RADIO_STAT_RSSI, F.RADIO_STAT_STATE])
  ∧ (mine → fr.unseal rest key = none → Runs (.frameReceived dt f) s fun t => heard t ∧ t.link = { u.link with rx := .sleep }
    ∧ t.get F.LINK_CNT0_MICFAIL = min (u.get F.LINK_CNT0_MICFAIL + 1) 65535)
  ∧ (mine → fr.unseal rest key = some p → w.flag (F.LINK_NB_B_SEQOK n) = true → 0 < d → d < 64512 →
    w.get (F.LINK_NB_E_RXFC n) < fr.fc → x.ringRoom 4 (slotsFor f.bytes.length) = true → Runs (.frameReceived dt f) s fun t => heard t
      ∧ (∃ slot, t.link.inbox = u.link.inbox ++ [⟨n, true, ofNats p, slot, slotsFor f.bytes.length⟩])
      ∧ acks t (b2n (answered (p.getD 0 0))) ∧ t.get (F.LINK_NB_B_LASTSEQ n) = fr.seq ∧ t.get (F.LINK_NB_E_RXFC n) = fr.fc
      ∧ t.flag (F.LINK_NB_B_SEQOK n) = true ∧ t.link.heardAt = some u.uptime)
  ∧ (mine → fr.unseal rest key = some p → w.flag (F.LINK_NB_B_SEQOK n) = true → d = 0 → fr.fc = w.get (F.LINK_NB_E_RXFC n) →
    Runs (.frameReceived dt f) s fun t => heard t ∧ t.link.inbox = u.link.inbox ∧ acks t (w.get (F.LINK_NB_B_ACKST n))
      ∧ t.get F.LINK_CNT0_DUPACK = min (u.get F.LINK_CNT0_DUPACK + 1) 65535)
  ∧ (mine → fr.unseal rest key = some p → w.flag (F.LINK_NB_B_SEQOK n) = true → 64512 ≤ d → Runs (.frameReceived dt f) s fun t =>
    heard t ∧ t.link = { u.link with rx := .sleep } ∧ t.get F.LINK_CNT2_STALE = min (u.get F.LINK_CNT2_STALE + 1) 65535)

/-- R374 to R376 (Table 11.6) and R364 to R366 (Table 11.7): the idle sender plans the frame at the head of ring 3; at its start a
frame that may go on air does, numbered and counted, and a busy channel puts it off. -/
def Obligations.FramesArePlannedAndStarted : Prop := ∀ (dt start busy n : Nat) (rssi : Int) (m : Method) (f : TxFrame)
    (q : List TxFrame) (s : State), s.canonical = true →
  let now := cyclesUs s.uptime
  let planned (t : State) (x : Method) : Prop := t = { s with link := { s.link with tx := .wait x (usCycles now) 0 } }
  let queued := s.link.queue = f :: q ∧ s.link.tx = .idle ∧ f.notBefore ≤ s.uptime ∧ s.taskEnabled 0 = true
  let toEntry := queued ∧ f.kind ≠ 8 ∧ f.nb = some n ∧ s.flag (F.LINK_NB_A_VALID n) = true
  let u := s.passTo dt start
  let k := u.course f m (cyclesUs u.uptime)
  let starts := s.link.tx = .wait m start busy ∧ u.link.queue = f :: q ∧ u.radioOn = true ∧ u.taskEnabled 0 = true
    ∧ (f.kind ≠ 8 → u.flag F.LINK_CFG_EN = true) ∧ (f.kind = 8 → m = .telegram ∧ 3 ≤ u.get F.FT_PHASE_PHASE)
    ∧ u.bridging = false ∧ u.ame.xoFail = false ∧ u.pins.window = false ∧ u.link.ack = none ∧ u.link.rx ≠ .receive ∧ (∀ pre, m = .rendezvous pre → u.uptime ≤ start)
    ∧ u.courseFits f m (cyclesUs u.uptime) k.2.2.1 k.2.2.2 = true ∧ u.dutyOk k.2.2.1 = true
  let onAir (t v : State) (g : TxFrame) : Prop :=
    t.link.tx = .send m u.uptime (usCycles (v.course g m (cyclesUs u.uptime)).2.1) (v.course g m (cyclesUs u.uptime)).2.2.1
    ∧ t.link.queue = g :: q ∧ t.pins.txOn = true ∧ t.pins.paCtl = u.flag F.RADIO_CTRL_EXTPA ∧ t.get F.RADIO_STAT_STATE = 3
    ∧ t.get F.RADIO_CNT_TX = min (u.get F.RADIO_CNT_TX + 1) 65535
    ∧ sumNat t.link.bins = sumNat u.link.bins + (v.course g m (cyclesUs u.uptime)).2.2.1
  (toEntry → s.get (F.LINK_NB_A_CSI n) = 7 → Runs (.frameQueued f.slot) s fun t => planned t .short)
  ∧ (queued → f.kind ≠ 8 → f.nb = none → Runs (.frameQueued f.slot) s fun t => planned t .short)
  ∧ (queued → f.kind = 8 → Runs (.frameQueued f.slot) s fun t => planned t .telegram)
  ∧ (toEntry → s.get (F.LINK_NB_A_CSI n) ≠ 7 → s.flag (F.LINK_NB_B_PHASEOK n) = false →
    s.copyAir f ≤ 1000 * s.get F.LINK_CFG_TRAINMAX → (s.course f .train now).2.2.2 ≤ 19000 → Runs (.frameQueued f.slot) s fun t =>
    planned t .train)
  ∧ (∀ c, c = Instr.transmissionStart dt rssi ∨ (c = .clearChannelRetry dt rssi ∧ busy ≠ 0) → starts →
    ((u.flag F.RADIO_CCA_EN = true → rssi < u.getI F.RADIO_CCA_THR) → f.kind = 8 → Runs c s fun t => onAir t u f ∧ t.link.air = [f.payload])
    ∧ (∀ key x f1 v, (u.flag F.RADIO_CCA_EN = true → rssi < u.getI F.RADIO_CCA_THR) → f.kind ≠ 8 →
      (if u.txSec f then u.slotFor (u.txSlot f) 0 else (some [], u)) = (some key, x) → x.numberFrame f = some (f1, v) →
      Runs c s fun t => onAir t v f1
        ∧ (f.seq = none → f1.seq = some (u.get F.LINK_TXSEQ_SEQ) ∧ t.get F.LINK_TXSEQ_SEQ = (u.get F.LINK_TXSEQ_SEQ + 1) % 65536)
        ∧ (u.txSec f = true → f.fc = none → f1.fc = some (u.get (F.LINK_FC_FC (u.txSlot f)) + 1)
          ∧ t.get (F.LINK_FC_FC (u.txSlot f)) = u.get (F.LINK_FC_FC (u.txSlot f)) + 1))
    ∧ (u.flag F.RADIO_CCA_EN = true → u.getI F.RADIO_CCA_THR ≤ rssi → busy < 7 → Runs c s fun t =>
      (∃ d, d ≤ 15000 ∧ t.link.tx = .wait m (u.uptime + usCycles (1000 + d)) (busy + 1)) ∧ t.link.queue = f :: q ∧ t.regs = u.regs))

/-- R378, R379 and R388 (Table 11.7): after its last bit DATA awaits its acknowledgement and any other frame leaves ring 3; without
an acknowledgement the attempt has failed, and the last of RETRIES discards the frame; after a busy partner it is planned again. -/
def Obligations.TransmissionsEndOrRepeat : Prop := ∀ (dt start stop air n : Nat) (m : Method) (f : TxFrame) (q : List TxFrame)
    (s : State), s.canonical = true →
  let u := s.passTo dt stop
  let sent := s.link.tx = .send m start stop air ∧ s.link.queue = f :: q
  let unheard := s.link.tx = .ackWait .short stop ∧ s.link.queue = f :: q ∧ s.link.rx ≠ .receive
  let left (t : State) : Prop := t.link.queue = q ∧ t.link.tx = .idle ∧ t.get F.LINK_STAT_QUEUED = min q.length 65535
  let v := s.passTo dt f.notBefore
  (sent → f.kind = 0 → Runs (.transmissionEnd dt) s fun t => t.link.tx = .ackWait m (u.uptime + usCycles (if m = .train then 3300 else 3000))
    ∧ t.link.queue = f :: q ∧ t.pins.txOn = false ∧ t.pins.paCtl = false ∧ t.get F.RADIO_STAT_STATE = 2)
  ∧ (sent → f.kind = 2 → Runs (.transmissionEnd dt) s fun t => left t ∧ t.link.joinFc = f.fc ∧ t.pins.txOn = false)
  ∧ (sent → f.kind = 8 → Runs (.transmissionEnd dt) s fun t => left t ∧ t.pins.txOn = false
    ∧ ∃ d, d ≤ 8192 * u.get F.LINK_WMB_INTERVAL ∧ t.link.wmbAt = some (u.uptime + 28672 * u.get F.LINK_WMB_INTERVAL + d))
  ∧ (unheard → s.get F.LINK_CFG_RETRIES ≤ f.attempts + 1 → Runs (.ackTimeout dt) s fun t => left t
    ∧ t.get F.LINK_CNT1_FAILED = min (u.get F.LINK_CNT1_FAILED + 1) 65535)
  ∧ (unheard → f.attempts + 1 < s.get F.LINK_CFG_RETRIES → f.kind = 0 → f.nb = some n → f.notBefore ≤ u.uptime → u.taskEnabled 0 = true →
    u.flag (F.LINK_NB_A_VALID n) = true → u.get (F.LINK_NB_A_CSI n) = 7 → Runs (.ackTimeout dt) s fun t =>
    t.link.queue = { f with attempts := f.attempts + 1 } :: q ∧ t.link.tx = .wait .short (usCycles (cyclesUs u.uptime)) 0
      ∧ RegsBut u t [F.RADIO_STAT_STATE])
  ∧ (s.link.queue = f :: q → s.link.tx = .idle → v.taskEnabled 0 = true → f.kind = 0 → f.nb = some n →
    v.flag (F.LINK_NB_A_VALID n) = true → v.get (F.LINK_NB_A_CSI n) = 7 → Runs (.busyRetry dt) s fun t =>
    t = { v with link := { v.link with tx := .wait .short (usCycles (cyclesUs v.uptime)) 0 } } ∧ f.notBefore ≤ t.uptime)

/-- R365, R378, R385, R386 and R388 to R390: an owed acknowledgement is sent with a fresh counter; an unjoined block sends a JOIN
each 60 s; a telegram that falls due is built where its key permits; and an airtime bin expires. -/
def Obligations.LinkTimersFire : Prop := ∀ (dt t0 : Nat) (a : AckDue) (s : State), s.canonical = true →
  let ackAt := s.passTo dt a.start
  let w := { ackAt with link := { ackAt.link with ack := none } }
  let slot := w.get (F.LINK_NB_A_KEY a.nb)
  let air := airUs w.rate 32 (frameLen false false (w.flag F.LINK_CFG_SAMPEN) true 1)
  let u := s.passTo dt t0
  let built := u.wmbFrame none
  let later (t : State) : Prop := ∃ d, d ≤ 8192 * u.get F.LINK_WMB_INTERVAL ∧ t.link.wmbAt = some (u.uptime + 28672 * u.get F.LINK_WMB_INTERVAL + d)
  let due := s.link.wmbAt = some t0 ∧ u.radioOn = true ∧ u.flag F.LINK_WMB_EN = true
  let bin := s.passTo dt s.link.binAt
  (∀ key x, s.link.ack = some a → w.slotFor slot 0 = (some key, x) → x.radioOn = true → x.bridging = false →
    x.ame.xoFail = false → x.fitsAir (cyclesUs w.uptime) air = true → x.fcRoom slot = true → Runs (.acknowledgement dt) s fun t => t.link.ack = none
      ∧ t.get (F.LINK_FC_FC slot) = x.get (F.LINK_FC_FC slot) + 1 ∧ t.get F.RADIO_CNT_TX = min (x.get F.RADIO_CNT_TX + 1) 65535
      ∧ (∃ b, t.link.air = [b]) ∧ t.uptime = ackAt.uptime + usCycles air ∧ sumNat t.link.bins = sumNat x.link.bins + air)
  ∧ (∀ x, s.link.ack = some a → w.slotFor slot 0 = (none, x) → Runs (.acknowledgement dt) s fun t => t = x ∧ t.link.ack = none)
  ∧ (s.link.joinAt = some t0 → u.joins = true → u.ringRoom 3 1 = true → Runs (.join dt) s fun t =>
    t.link.joinAt = some (u.uptime + secs 60) ∧ t.get F.LINK_STAT_QUEUED = min (u.link.queue.length + 1) 65535
      ∧ ∃ slot, t.link.queue = u.link.queue
        ++ [⟨none, 2, [byte (if u.flag F.LINK_CFG_SAMPEN then u.get F.LINK_CFG_CSI else 7)], none, none, slot, 1, 0, 0, 0, 0⟩])
  ∧ (due → u.taskEnabled 0 = true → u.flag F.LINK_WMB_SEC = false → u.ringRoom 3 (slotsFor built.length) = true →
    Runs (.telegramDue dt) s fun t => t.link.wmbAt = none ∧ t.link.wmbAccess = (u.link.wmbAccess + 1) % 256
      ∧ ∃ slot, t.link.queue = u.link.queue
        ++ [⟨none, 8, ofNats built, none, none, slot, slotsFor built.length, 0, 0, 0, u.wmbAir built.length⟩])
  ∧ (∀ x, due → u.taskEnabled 0 = true → u.flag F.LINK_WMB_SEC = true → u.slotFor (u.get F.LINK_WMB_SLOT) 1 = (none, x) →
    Runs (.telegramDue dt) s fun t => t.flag F.LINK_STAT_WMBKEY = true ∧ t.link.queue = u.link.queue ∧ later t)
  ∧ (due → u.taskEnabled 0 = false → Runs (.telegramDue dt) s fun t => later t ∧ t.link.queue = u.link.queue ∧ t.regs = u.regs)
  ∧ Runs (.dutyBinExpiry dt) s (fun t => t.link.bins = 0 :: bin.link.bins.take 59 ∧ t.link.binAt = s.link.binAt + secs 60
    ∧ t.get F.RADIO_DUTY_USED = min (sumNat t.link.bins / 100000) 65535 ∧ RegsBut bin t [F.RADIO_DUTY_USED])

/-! ### Display and keypad -/

/-- R397, R402, R405, R407, R418, R423 and R426: an LCD frame is installed; a bistable update ends with the frame in force taking
its bytes, or goes on to its second pass; the discharge clears the record; and the LCD is switched off. Both LCD events come at the
start of a frame of kind A. -/
def Obligations.DisplayUpdatesEnd : Prop := ∀ (dt : Nat) (r : DispRun) (g : SegDrive) (s : State), s.canonical = true →
  let u := s.passTo dt (s.lcdNextA s.uptime)
  let e := s.passTo dt r.stop
  let z := s.passTo dt (r.stop + millis 10)
  let driving := s.disp.run = some r ∧ r.discharge = false ∧ s.windowHolds r.stop = false ∧ r.segs.all (fun d => decide (d.seg < 72)) = true
  (s.disp.installDue = true → s.disp.lcd = true → s.dispMode = 1 → s.pins.window = false → Runs (.install dt) s fun t =>
    t.disp = { u.disp with installDue := false, latch := ((u.bodyAt frameNext).drop 4).take 64 }
    ∧ t.bodyAt frameInForce = u.bodyAt frameNext ∧ t.bodyAt frameNext = u.bodyAt frameNext
    ∧ t.get F.DISP_FCRC_CRC = crc32 (u.bodyAt frameNext) ∧ t.get F.DISP_STAT_UNKNOWN = 0
    ∧ t.get F.DISP_UPDCNT_UPDATES = min (u.get F.DISP_UPDCNT_UPDATES + 1) 65535)
  ∧ (driving → r.kind = 0 → r.whole = false → r.region < 8 → r.target ≠ [] → Runs (.bistableUpdateEnd dt) s fun t =>
    t.disp.run = some { r with stop := e.uptime, discharge := true }
      ∧ t.bodyAt frameInForce = (applyTarget (e.bodyAt frameInForce) ((e.bodyAt frameNext).take 2) r.target)
      ∧ bit (t.get F.DISP_STAT_UNKNOWN) r.region = false
      ∧ t.get F.DISP_UPDCNT_UPDATES = min (e.get F.DISP_UPDCNT_UPDATES + 1) 65535
      ∧ (r.segs = [g] → t.balance g.seg = g.phases.foldl (fun b p => clampInt (Int.neg 32767) 32767 (b + p.1)) (e.balance g.seg)))
  ∧ (driving → r.kind = 1 → Runs (.bistableUpdateEnd dt) s fun t => ∃ x, t.disp.run = some x ∧ x.kind = 2 ∧ x.region = r.region
    ∧ x.whole = r.whole ∧ x.target = r.target ∧ x.discharge = false ∧ t.flag F.DISP_STAT_BUSY = true)
  ∧ (s.disp.run = some r → r.discharge = true → Runs (.dischargeEnd dt) s fun t => t.disp = { z.disp with run := none }
    ∧ t.flag F.DISP_STAT_BUSY = false ∧ t.get F.DISP_STAT_RUNREG = 0 ∧ t.ret 0x10 = 0 ∧ r.stop + millis 10 ≤ t.uptime
    ∧ t.bodyAt frameInForce = s.bodyAt frameInForce)
  ∧ (s.disp.lcd = true → s.dispMode ≠ 1 → Runs (.lcdPowerOff dt) s fun t => t.disp = { s.disp with lcd := false, installDue := false, latch := [] }
    ∧ t = { u.advance (millis 5) with disp := t.disp })

/-- R416: the display returns to its lowest enabled page and scrolls to its next one. R340 and R341: the keypad wakes, accepts one
key until it is released, and forgets an entry 60 s after its last key. -/
def Obligations.PagesAndKeys : Prop := ∀ (dt n : Nat) (key : Fin 16) (s : State), s.canonical = true →
  let back := s.passTo dt (s.disp.keyAt + secs (s.get F.DISP_NAV_RETURN))
  let on := s.passTo dt (s.disp.scrollAt + secs (s.get F.DISP_NAV_SCROLL))
  let u := s.advance dt
  let takes := u.coreAlive = true ∧ u.kpd.scanning = true ∧ u.kpd.down = none ∧ u.kpd.queue.length < 16
  (s.get F.DISP_NAV_RETURN ≠ 0 → s.dispMode ≠ 0 → n < 16 → back.flag (F.DISP_PAGE_EN n) = true →
    (∀ k, k < n → back.flag (F.DISP_PAGE_EN k) = false) → Runs (.pageReturn dt) s fun t =>
    t.disp = { back.disp with page := n, keyAt := back.uptime } ∧ t.regs = back.regs)
  ∧ (s.get F.DISP_NAV_SCROLL ≠ 0 → s.dispMode ≠ 0 → on.disp.page < 16 → on.flag (F.DISP_PAGE_EN ((on.disp.page + 1) % 16)) = true →
    Runs (.pageScroll dt) s fun t => t.disp = { on.disp with page := (on.disp.page + 1) % 16, scrollAt := on.uptime } ∧ t.regs = on.regs)
  ∧ (u.coreAlive = true → Runs (.keypadWake dt) s fun t => t = { u with regs := t.regs, kpd := { u.kpd with scanning := true } }
    ∧ RegsBut u t [F.PWR_STATE_STATE])
  ∧ (u.pow.stage = .hibernate → u.flag F.PWR_CTRL_WAKE_KEY = true → Runs (.keypadWake dt) s fun t => bit (t.ret 7) 1 = true
    ∧ t.ret 8 = u.ret 8)
  ∧ (takes → Runs (.keyAccepted dt key) s fun t => t.kpd = { u.kpd with queue := u.kpd.queue ++ [key.val], lastKey := u.uptime, down := some key.val }
    ∧ t.disp.keyAt = u.uptime ∧ t.regs = u.regs ∧ (key.val ≠ 15 → key.val ≠ 3 → t.disp.page = u.disp.page)
    ∧ (key.val = 15 → t.disp.page = (u.nextPage u.disp.page).getD u.disp.page))
  ∧ (u.kpd.down ≠ none → Runs (.keyAccepted dt key) s fun t => t = u)
  ∧ Runs (.keyReleased dt) s (fun t => t = { u with kpd := { u.kpd with scanning := false, down := none } })
  ∧ (s.kpd.entry ≠ [] → Runs (.entryTimeout dt) s fun t => t.kpd = { s.kpd with entry := [] } ∧ s.kpd.lastKey + secs 60 ≤ t.uptime
    ∧ t.credit = s.credit)

/-! ### The whole block -/

/-- A step runs exactly the command at the front of the queue, on the state with the queue's rest. -/
def Obligations.StepRunsFrontCommand : Prop := ∀ (c : Instr) (rest : List Instr) (s : State),
  step { s with pending := c :: rest } = exec c { s with pending := rest }

/-- R9, R106 and R527: at the first power-on every register reads its reset value, no configuration is saved, the life cycle is BLANK
with no key and no password, memories hold nothing, and the start gate is awaited. An empty queue leaves the block as it is, and no
table word spells a command (log entry 1: the model's own). -/
def Obligations.ResetLeavesABlankPart : Prop :=
  (∀ a, State.reset.rd a = regReset a) ∧ State.reset.canonical = true ∧ State.reset.saved = none ∧ State.reset.nvm = []
  ∧ State.reset.crs = [] ∧ State.reset.pow.stage = .gate ∧ State.reset.keys.cells = ⟨0, 0, false, false, [false, false, false]⟩
  ∧ State.reset.keys.slots = List.replicate 8 none ∧ State.reset.keys.pw = [none, none] ∧ State.reset.link.queue = []
  ∧ step State.reset = .next State.reset
  ∧ (∀ nbits w, decodeTableWord nbits w = none ∧ State.reset.withFetchWord nbits w = State.reset)

/-- Whatever the command, a step keeps the stores of registers, pending shadows, Carousel, tokens, ring counts and metrology store in
canonical form. -/
def Obligations.EveryStepKeepsStoresCanonical : Prop := ∀ s t, s.canonical = true → step s = .next t → t.canonical = true

/-- R428 and R451: no step clears a one-time debug cell that is programmed. -/
def Obligations.NoStepClearsADebugCell : Prop := ∀ s t, step s = .next t → s.keys.cells.kept t.keys.cells = true

/-- Every step answers a next state and takes exactly one command from the queue, in the order they came. -/
def Obligations.EveryStepTakesOneCommand : Prop := ∀ s, ∃ t, step s = .next t ∧ t.pending = s.pending.tail
end

