-- ==== Sys2Proof/Laws/Sparse.lean ====
section
/-! SUPPORT. Laws of the sparse stores: reading after writing, and that every operation keeps the canonical form. -/

namespace Sys2Proof.Machine

variable {α : Type} [DecidableEq α] {d : Nat → α} {l : List (Nat × α)} {k : Nat} {v : α}

/-- A list above a bound is above every lower one. -/
theorem swfAbove_weaken {a b : Nat} (hab : a ≤ b) (h : swfAbove d (some b) l = true) : swfAbove d (some a) l = true := by
  cases l with
  | nil => rfl
  | cons c t =>
    simp only [swfAbove, Bool.and_eq_true, decide_eq_true_eq] at h ⊢
    exact ⟨⟨by omega, h.1.2⟩, h.2⟩

/-- A list above a bound is above no bound. -/
theorem swfAbove_none {b : Nat} (h : swfAbove d (some b) l = true) : swfAbove d none l = true := by
  cases l with
  | nil => rfl
  | cons c t =>
    simp only [swfAbove, Bool.and_eq_true, decide_eq_true_eq] at h ⊢
    exact ⟨⟨trivial, h.1.2⟩, h.2⟩

/-- A write above the bound keeps the list above it. -/
theorem sset_swfAbove {lo : Option Nat} (hk : ∀ b, lo = some b → b < k) (h : swfAbove d lo l = true) :
    swfAbove d lo (sset d l k v) = true := by
  induction l generalizing lo with
  | nil =>
    unfold sset
    split
    · rfl
    · cases lo with
      | none => simp_all [swfAbove]
      | some b => simp_all [swfAbove]
  | cons c t ih =>
    obtain ⟨a, w⟩ := c
    simp only [swfAbove, Bool.and_eq_true, decide_eq_true_eq] at h
    unfold sset
    split
    · rename_i hka
      split
      · simp only [swfAbove, Bool.and_eq_true, decide_eq_true_eq]; exact h
      · rename_i hv
        simp only [swfAbove, Bool.and_eq_true, decide_eq_true_eq]
        refine ⟨⟨?_, hv⟩, ⟨hka, h.1.2⟩, h.2⟩
        cases lo with
        | none => rfl
        | some b => simpa using hk b rfl
    · split
      · rename_i hka
        subst hka
        split
        · cases lo with
          | none => exact swfAbove_none h.2
          | some b => exact swfAbove_weaken (by have := h.1.1; simp at this; omega) h.2
        · rename_i hv
          simp only [swfAbove, Bool.and_eq_true, decide_eq_true_eq]
          exact ⟨⟨h.1.1, hv⟩, h.2⟩
      · rename_i h1 h2
        simp only [swfAbove, Bool.and_eq_true, decide_eq_true_eq]
        refine ⟨h.1, ih ?_ h.2⟩
        intro b hb
        cases hb
        omega

/-- A write keeps the canonical form. -/
theorem sset_swf (h : swf d l = true) : swf d (sset d l k v) = true := sset_swfAbove (by simp) h

/-- Writes at consecutive keys keep the canonical form. -/
theorem ssetAll_swf {vs : List α} (h : swf d l = true) : swf d (ssetAll d l k vs) = true := by
  induction vs generalizing l k with
  | nil => exact h
  | cons v vs ih => exact ih (sset_swf h)

/-- Changing values, none to what an unlisted key reads as, keeps the list above its bound. -/
theorem map_swfAbove {f : Nat × α → α} {lo : Option Nat} (hf : ∀ c, c.2 ≠ d c.1 → f c ≠ d c.1) (h : swfAbove d lo l = true) :
    swfAbove d lo (l.map (fun c => (c.1, f c))) = true := by
  induction l generalizing lo with
  | nil => exact h
  | cons c t ih =>
    simp only [swfAbove, Bool.and_eq_true, decide_eq_true_eq] at h
    simp only [List.map_cons, swfAbove, Bool.and_eq_true, decide_eq_true_eq]
    exact ⟨⟨h.1.1, hf c h.1.2⟩, ih h.2⟩

/-- The same of the canonical form. -/
theorem map_swf {f : Nat × α → α} (hf : ∀ c, c.2 ≠ d c.1 → f c ≠ d c.1) (h : swf d l = true) :
    swf d (l.map (fun c => (c.1, f c))) = true := map_swfAbove hf h

/-- Dropping entries keeps the list above its bound. -/
theorem filter_swfAbove {p : Nat × α → Bool} {lo : Option Nat} (h : swfAbove d lo l = true) :
    swfAbove d lo (l.filter p) = true := by
  induction l generalizing lo with
  | nil => exact h
  | cons c t ih =>
    simp only [swfAbove, Bool.and_eq_true, decide_eq_true_eq] at h
    simp only [List.filter_cons]
    split
    · simp only [swfAbove, Bool.and_eq_true, decide_eq_true_eq]
      exact ⟨h.1, ih h.2⟩
    · cases lo with
      | none => exact swfAbove_none (ih h.2)
      | some b => exact swfAbove_weaken (by have := h.1.1; simp at this; omega) (ih h.2)

/-- Dropping the entries of some keys keeps the canonical form. -/
theorem sdrop_swf {p : Nat → Bool} (h : swf d l = true) : swf d (sdrop p l) = true := filter_swfAbove h

/-- Keeping the entries of some keys keeps the canonical form. -/
theorem skeep_swf {p : Nat → Bool} (h : swf d l = true) : swf d (skeep p l) = true := filter_swfAbove h

/-- A key below the bound of a list reads as unlisted. -/
theorem sget_below {b : Nat} (h : swfAbove d (some b) l = true) (hk : k ≤ b) : sget d l k = d k := by
  induction l generalizing b with
  | nil => rfl
  | cons c t ih =>
    obtain ⟨a, w⟩ := c
    simp only [swfAbove, Bool.and_eq_true, decide_eq_true_eq] at h
    have hne : a ≠ k := by omega
    simp only [sget, hne, if_false]
    exact ih h.2 (by omega)

/-- A write leaves every other key as it was. -/
theorem sget_sset_ne {j : Nat} (hj : j ≠ k) : sget d (sset d l k v) j = sget d l j := by
  induction l with
  | nil =>
    unfold sset
    split
    · rfl
    · simp [sget, Ne.symm hj]
  | cons c t ih =>
    obtain ⟨a, w⟩ := c
    unfold sset
    split
    · split
      · rfl
      · simp [sget, Ne.symm hj]
    · split
      · rename_i hka
        subst hka
        split
        · simp [sget, Ne.symm hj]
        · simp [sget, Ne.symm hj]
      · simp only [sget, ih]

/-- A read after a write to the same key gives the value written. -/
theorem sget_sset_same (h : swf d l = true) : sget d (sset d l k v) k = v := by
  unfold swf at h
  revert h
  generalize none = lo
  intro h
  induction l generalizing lo with
  | nil =>
    unfold sset
    split
    · simp_all [sget]
    · simp [sget]
  | cons c t ih =>
    obtain ⟨a, w⟩ := c
    simp only [swfAbove, Bool.and_eq_true, decide_eq_true_eq] at h
    unfold sset
    split
    · rename_i hka
      split
      · rename_i hv
        have hne : a ≠ k := by omega
        simp only [sget, hne, if_false]
        rw [sget_below h.2 (by omega), hv]
      · simp [sget]
    · split
      · rename_i hka
        subst hka
        split
        · rename_i hv
          rw [sget_below h.2 (Nat.le_refl _), hv]
        · simp [sget]
      · rename_i h1 h2
        have hne : a ≠ k := by omega
        simp only [sget, hne, if_false]
        exact ih _ h.2

end Sys2Proof.Machine
end

