-- ==== Sys2Proof/Laws/Keeps.lean ====
section
/-! SUPPORT. What every operation of the model keeps: the queue, the canonical form of the stores, and programmed debug cells.
One lemma per operation of the model follows in the files Keeps<Module>.lean; they are cited instead of unfolding it. -/

namespace Sys2Proof.Machine

/-- The parts of the state that `Keeps` speaks of. -/
def KeepsParts (s0 : State) (p : List Instr) (r : List (Nat × Word))
    (h : List (Nat × Option Word)) (c : List Host.Cell) (t q : List (Nat × Nat))
    (n : List Host.Cell) (u : List (Nat × CarrierSt)) (k : Cells) : Prop :=
  p = s0.pending ∧ (s0.canonical = true → storesCanonical r h c t q n u = true) ∧ s0.keys.cells.kept k = true

/-- From `s0` the state `t` has been reached with the queue as it was, the stores still canonical if they were, and no
programmed debug cell cleared. -/
def Keeps (s0 t : State) : Prop := KeepsParts s0 t.pending t.regs t.shadow t.crs t.tok t.ringSeq t.nvm t.cmd.tun t.keys.cells

/-- The same of an outcome: of the next state, if it is one. -/
def KeepsO (s0 : State) (o : Host.Outcome State Fault Refusal) : Prop := ∀ t, o = .next t → Keeps s0 t

/-- The same of a state that may be absent. -/
def KeepsOpt (s0 : State) (o : Option State) : Prop := ∀ t, o = some t → Keeps s0 t

/-- The same of an optional pair. -/
def KeepsOptP {α : Type} (s0 : State) (o : Option (α × State)) : Prop := ∀ p, o = some p → Keeps s0 p.2

/-- Debug cells are kept when nothing changes. -/
theorem Cells.kept_refl (a : Cells) : a.kept a = true := by
  unfold Cells.kept
  cases a.dbgB <;> cases a.dbgR <;> rfl

/-- A state keeps itself. -/
theorem Keeps.refl (s : State) : Keeps s s := ⟨rfl, id, Cells.kept_refl _⟩

/-- Updates of fields that `Keeps` does not speak of. -/
theorem Keeps.mk {s0 t : State} (h : Keeps s0 t)
    {x2 : Option (List (Nat × Word) × List (Nat × Word) × Nat)} {x23 : List (Nat × Bool)} {x24 x3 x4 x25 : Nat}
    {x5 : Rtc} {x6 : Power} {x7 : Ringm} {x8 : Cmd}
    {x9 : Journal} {x10 : Bill} {x11 : Act} {x12 : Keypad} {x13 : Ame} {x14 : Shot} {x15 : Sens} {x16 : List MpSt} {x17 : Safe}
    {k : Keys} {x19 : Link} {x20 : Disp} {x21 : Mgmt} {x22 : Pins} (hk : k.cells = t.keys.cells)
    (hu : x8.tun = t.cmd.tun) :
    Keeps s0 ⟨t.pending, t.regs, t.shadow, x2, t.crs, t.tok, t.ringSeq, t.nvm, x23, x24, x3, x4, x25, x5, x6, x7, x8, x9, x10, x11, x12, x13, x14, x15,
      x16, x17, k, x19, x20, x21, x22⟩ := by
  unfold Keeps
  rw [hk, hu]
  exact h

/-- The same where the life cycle or the epoch may change and the debug cells stay. -/
theorem Keeps.mkCells {s0 t : State} (h : Keeps s0 t)
    {x2 : Option (List (Nat × Word) × List (Nat × Word) × Nat)} {x23 : List (Nat × Bool)} {x24 x3 x4 x25 : Nat}
    {x5 : Rtc} {x6 : Power} {x7 : Ringm} {x8 : Cmd}
    {x9 : Journal} {x10 : Bill} {x11 : Act} {x12 : Keypad} {x13 : Ame} {x14 : Shot} {x15 : Sens} {x16 : List MpSt} {x17 : Safe}
    {k : Keys} {x19 : Link} {x20 : Disp} {x21 : Mgmt} {x22 : Pins} (hb : k.cells.dbgB = t.keys.cells.dbgB)
    (hr : k.cells.dbgR = t.keys.cells.dbgR) (hu : x8.tun = t.cmd.tun) :
    Keeps s0 ⟨t.pending, t.regs, t.shadow, x2, t.crs, t.tok, t.ringSeq, t.nvm, x23, x24, x3, x4, x25, x5, x6, x7, x8, x9, x10, x11, x12, x13, x14, x15,
      x16, x17, k, x19, x20, x21, x22⟩ := by
  refine ⟨h.1, fun h0 => hu ▸ h.2.1 h0, ?_⟩
  have hc := h.2.2
  unfold Cells.kept at hc ⊢
  rw [hb, hr]
  exact hc

theorem Keeps.ite {s0 a b : State} {c : Prop} [Decidable c] (ha : Keeps s0 a) (hb : Keeps s0 b) :
    Keeps s0 (if c then a else b) := by split <;> assumption

/-- The same of a state that comes second in a pair. -/
def KeepsP {α : Type} (s0 : State) (p : α × State) : Prop := Keeps s0 p.2

/-- The same of a state that comes third. -/
def KeepsPP {α β : Type} (s0 : State) (p : α × β × State) : Prop := Keeps s0 p.2.2

/-- The same of a state that comes first. -/
def KeepsF {α : Type} (s0 : State) (p : State × α) : Prop := Keeps s0 p.1

theorem KeepsP.out {α : Type} {s0 : State} {p : α × State} (h : KeepsP s0 p) : Keeps s0 p.2 := h

theorem KeepsPP.out {α β : Type} {s0 : State} {p : α × β × State} (h : KeepsPP s0 p) : KeepsP s0 p.2 := h

theorem KeepsF.out {α : Type} {s0 : State} {p : State × α} (h : KeepsF s0 p) : Keeps s0 p.1 := h

theorem KeepsP.pair {α : Type} {s0 t : State} {a : α} (h : Keeps s0 t) : KeepsP s0 (a, t) := h

theorem KeepsF.pair {α : Type} {s0 t : State} {a : α} (h : Keeps s0 t) : KeepsF s0 (t, a) := h

theorem KeepsPP.pair {α β : Type} {s0 : State} {a : α} {p : β × State} (h : KeepsP s0 p) : KeepsPP s0 (a, p) := h

theorem KeepsP.ite {α : Type} {s0 : State} {a b : α × State} {c : Prop} [Decidable c] (ha : KeepsP s0 a) (hb : KeepsP s0 b) :
    KeepsP s0 (if c then a else b) := by split <;> assumption

theorem KeepsPP.ite {α β : Type} {s0 : State} {a b : α × β × State} {c : Prop} [Decidable c] (ha : KeepsPP s0 a)
    (hb : KeepsPP s0 b) : KeepsPP s0 (if c then a else b) := by split <;> assumption

theorem KeepsF.ite {α : Type} {s0 : State} {a b : State × α} {c : Prop} [Decidable c] (ha : KeepsF s0 a) (hb : KeepsF s0 b) :
    KeepsF s0 (if c then a else b) := by split <;> assumption

theorem KeepsO.next {s0 t : State} (h : Keeps s0 t) : KeepsO s0 (.next t) := by
  intro u hu
  cases hu
  exact h

theorem KeepsO.ite {s0 : State} {a b : Host.Outcome State Fault Refusal} {c : Prop} [Decidable c] (ha : KeepsO s0 a)
    (hb : KeepsO s0 b) : KeepsO s0 (if c then a else b) := by split <;> assumption

theorem KeepsOpt.none {s0 : State} : KeepsOpt s0 none := by
  intro t h
  cases h

theorem KeepsOpt.some {s0 t : State} (h : Keeps s0 t) : KeepsOpt s0 (some t) := by
  intro u hu
  cases hu
  exact h

theorem KeepsOpt.ite {s0 : State} {a b : Option State} {c : Prop} [Decidable c] (ha : KeepsOpt s0 a) (hb : KeepsOpt s0 b) :
    KeepsOpt s0 (if c then a else b) := by split <;> assumption

theorem KeepsOpt.getD {s0 : State} {o : Option State} {s : State} (h : KeepsOpt s0 o) (hs : Keeps s0 s) : Keeps s0 (o.getD s) := by
  cases o with
  | none => exact hs
  | some t => exact h t rfl

theorem KeepsOptP.none {α : Type} {s0 : State} : KeepsOptP (α := α) s0 none := by
  intro t h
  cases h

theorem KeepsOptP.some {α : Type} {s0 : State} {p : α × State} (h : KeepsP s0 p) : KeepsOptP s0 (some p) := by
  intro u hu
  cases hu
  exact h

theorem KeepsOptP.ite {α : Type} {s0 : State} {a b : Option (α × State)} {c : Prop} [Decidable c] (ha : KeepsOptP s0 a)
    (hb : KeepsOptP s0 b) : KeepsOptP s0 (if c then a else b) := by split <;> assumption

theorem Keeps.foldl {α : Type} {s0 : State} {f : State → α → State} {l : List α} {a : State} (ha : Keeps s0 a)
    (hf : ∀ t x, Keeps s0 t → Keeps s0 (f t x)) : Keeps s0 (l.foldl f a) := by
  induction l generalizing a with
  | nil => exact ha
  | cons x l ih => exact ih (hf a x ha)

theorem KeepsP.foldl {α β : Type} {s0 : State} {f : β × State → α → β × State} {l : List α} {a : β × State} (ha : KeepsP s0 a)
    (hf : ∀ (t : β × State) x, KeepsP s0 t → KeepsP s0 (f t x)) : KeepsP s0 (l.foldl f a) := by
  induction l generalizing a with
  | nil => exact ha
  | cons x l ih => exact ih (hf a x ha)

theorem KeepsF.foldl {α β : Type} {s0 : State} {f : State × β → α → State × β} {l : List α} {a : State × β} (ha : KeepsF s0 a)
    (hf : ∀ (t : State × β) x, KeepsF s0 t → KeepsF s0 (f t x)) : KeepsF s0 (l.foldl f a) := by
  induction l generalizing a with
  | nil => exact ha
  | cons x l ih => exact ih (hf a x ha)

theorem KeepsPP.foldl {α β γ : Type} {s0 : State} {f : β × γ × State → α → β × γ × State} {l : List α} {a : β × γ × State}
    (ha : KeepsPP s0 a) (hf : ∀ (t : β × γ × State) x, KeepsPP s0 t → KeepsPP s0 (f t x)) : KeepsPP s0 (l.foldl f a) := by
  induction l generalizing a with
  | nil => exact ha
  | cons x l ih => exact ih (hf a x ha)

/-! ### The writes of the stores -/

/-- Canonical stores, store by store. -/
theorem storesCanonical_iff {r : List (Nat × Word)} {h : List (Nat × Option Word)} {c : List Host.Cell} {t q : List (Nat × Nat)}
    {n : List Host.Cell} {u : List (Nat × CarrierSt)} :
    storesCanonical r h c t q n u = true ↔ swf regReset r = true ∧ swf (fun _ => none) h = true ∧ swf byteDefault c = true ∧
      swf (fun _ => 0) t = true ∧ swf (fun _ => 0) q = true ∧ swf byteDefault n = true ∧ swf (fun _ => CarrierSt.init) u = true := by
  simp [storesCanonical, and_assoc]

theorem State.wr_keeps {s0 s : State} {a : Nat} {w : Word} (h : Keeps s0 s) : Keeps s0 (s.wr a w) := by
  refine ⟨h.1, fun h0 => ?_, h.2.2⟩
  have hs := storesCanonical_iff.mp (h.2.1 h0)
  exact storesCanonical_iff.mpr ⟨sset_swf hs.1, hs.2⟩

theorem State.resetBlocks_keeps {s0 s : State} {bs : List Block} (h : Keeps s0 s) : Keeps s0 (s.resetBlocks bs) := by
  refine ⟨h.1, fun h0 => ?_, h.2.2⟩
  have hs := storesCanonical_iff.mp (h.2.1 h0)
  refine storesCanonical_iff.mpr ⟨?_, hs.2⟩
  exact sdrop_swf (p := fun a => bs.any (fun b => inBlock b a)) hs.1

/-- A pending shadow written. -/
theorem Keeps.setShadow {s0 s : State} {a : Nat} {w : Option Word} (h : Keeps s0 s) :
    Keeps s0 { s with shadow := sset (fun _ => none) s.shadow a w } := by
  refine ⟨h.1, fun h0 => ?_, h.2.2⟩
  have hs := storesCanonical_iff.mp (h.2.1 h0)
  exact storesCanonical_iff.mpr ⟨hs.1, sset_swf hs.2.1, hs.2.2⟩

/-- No shadow pending. -/
theorem Keeps.noShadow {s0 s : State} (h : Keeps s0 s) : Keeps s0 { s with shadow := [] } := by
  refine ⟨h.1, fun h0 => ?_, h.2.2⟩
  have hs := storesCanonical_iff.mp (h.2.1 h0)
  exact storesCanonical_iff.mpr ⟨hs.1, rfl, hs.2.2⟩

/-- Shadows whose words change. -/
theorem Keeps.mapShadow {s0 s : State} {f : Nat × Option Word → Option Word} (hf : ∀ c, c.2 ≠ none → f c ≠ none)
    (h : Keeps s0 s) : Keeps s0 { s with shadow := s.shadow.map (fun c => (c.1, f c)) } := by
  refine ⟨h.1, fun h0 => ?_, h.2.2⟩
  have hs := storesCanonical_iff.mp (h.2.1 h0)
  refine storesCanonical_iff.mpr ⟨hs.1, map_swf hf hs.2.1, hs.2.2⟩

theorem State.crsWrite_keeps {s0 s : State} {a : Nat} {bs : List Byte} (h : Keeps s0 s) : Keeps s0 (s.crsWrite a bs) := by
  refine ⟨h.1, fun h0 => ?_, h.2.2⟩
  have hs := storesCanonical_iff.mp (h.2.1 h0)
  exact storesCanonical_iff.mpr ⟨hs.1, hs.2.1, ssetAll_swf hs.2.2.1, hs.2.2.2⟩

theorem State.nvmWrite_keeps {s0 s : State} {a : Nat} {bs : List Byte} (h : Keeps s0 s) : Keeps s0 (s.nvmWrite a bs) := by
  refine ⟨h.1, fun h0 => ?_, h.2.2⟩
  have hs := storesCanonical_iff.mp (h.2.1 h0)
  exact storesCanonical_iff.mpr ⟨hs.1, hs.2.1, hs.2.2.1, hs.2.2.2.1, hs.2.2.2.2.1, ssetAll_swf hs.2.2.2.2.2.1, hs.2.2.2.2.2.2⟩

/-- A tunnel's record written. -/
theorem Keeps.setTun {s0 s : State} {n : Nat} {x : CarrierSt} (h : Keeps s0 s) :
    Keeps s0 { s with cmd := { s.cmd with tun := sset (fun _ => CarrierSt.init) s.cmd.tun n x } } := by
  refine ⟨h.1, fun h0 => ?_, h.2.2⟩
  have hs := storesCanonical_iff.mp (h.2.1 h0)
  exact storesCanonical_iff.mpr ⟨hs.1, hs.2.1, hs.2.2.1, hs.2.2.2.1, hs.2.2.2.2.1, hs.2.2.2.2.2.1, sset_swf hs.2.2.2.2.2.2⟩

theorem State.setToken_keeps {s0 s : State} {i v : Nat} (h : Keeps s0 s) : Keeps s0 (s.setToken i v) := by
  refine ⟨h.1, fun h0 => ?_, h.2.2⟩
  have hs := storesCanonical_iff.mp (h.2.1 h0)
  exact storesCanonical_iff.mpr ⟨hs.1, hs.2.1, hs.2.2.1, sset_swf hs.2.2.2.1, hs.2.2.2.2⟩

theorem State.nextSeq_keeps {s0 s : State} {r : Nat} (h : Keeps s0 s) : KeepsP s0 (s.nextSeq r) := by
  refine ⟨h.1, fun h0 => ?_, h.2.2⟩
  have hs := storesCanonical_iff.mp (h.2.1 h0)
  exact storesCanonical_iff.mpr ⟨hs.1, hs.2.1, hs.2.2.1, hs.2.2.2.1, sset_swf hs.2.2.2.2.1, hs.2.2.2.2.2⟩

end Sys2Proof.Machine
end

