-- ==== Sys2Proof/Laws/KeepsRegs.lean ====
section
/-! SUPPORT. What the operations of Machine/Regs.lean keep (Laws/Keeps.lean), one lemma per operation. -/

namespace Sys2Proof.Machine

theorem State.put_keeps {sI s : State} {f : Fld} {v : ℕ} (hk : Keeps sI s) :
    Keeps sI (State.put s f v) := by
  unfold State.put
  exact State.wr_keeps hk

theorem State.putI_keeps {sI s : State} {f : Fld} {v : ℤ} (hk : Keeps sI s) :
    Keeps sI (State.putI s f v) := by
  unfold State.putI
  exact State.put_keeps hk

theorem State.set1_keeps {sI s : State} {f : Fld} (hk : Keeps sI s) :
    Keeps sI (State.set1 s f) := by
  unfold State.set1
  exact State.put_keeps hk

theorem State.clr_keeps {sI s : State} {f : Fld} (hk : Keeps sI s) :
    Keeps sI (State.clr s f) := by
  unfold State.clr
  exact State.put_keeps hk

theorem State.putB_keeps {sI s : State} {f : Fld} {b : Bool} (hk : Keeps sI s) :
    Keeps sI (State.putB s f b) := by
  unfold State.putB
  exact State.put_keeps hk

theorem State.bump_keeps {sI s : State} {f : Fld} {n : ℕ} (hk : Keeps sI s) :
    Keeps sI (State.bump s f n) := by
  unfold State.bump
  exact State.put_keeps hk

end Sys2Proof.Machine
end

