-- ==== Sys2Proof/Laws/KeepsOps.lean ====
section
/-! SUPPORT. What the operations of Machine/Ops.lean keep (Laws/Keeps.lean), one lemma per operation. -/

namespace Sys2Proof.Machine

theorem State.draw_keeps {sI s : State} {n : ℕ} (hk : Keeps sI s) :
    KeepsP sI (State.draw s n) := by
  unfold State.draw
  exact KeepsP.pair (Keeps.mk hk rfl rfl)

theorem State.drawLevel_keeps {sI s : State} {n : ℕ} (hk : Keeps sI s) :
    KeepsP sI (State.drawLevel s n) := by
  unfold State.drawLevel
  exact KeepsP.pair (Keeps.mk hk rfl rfl)

theorem State.fitS_keeps {sI s : State} {n : ℕ} {v : ℤ} (hk : Keeps sI s) :
    KeepsP sI (State.fitS s n v) := by
  unfold State.fitS
  refine KeepsP.ite ?_ ?_
  · exact KeepsP.pair hk
  · split
    · rename_i x s1 heq
      have hs1 : Keeps sI s1 := by
        have he := congrArg (fun p => p.2) heq
        dsimp only at he
        rw [← he]
        exact State.drawLevel_keeps hk
      exact KeepsP.pair hs1

theorem State.fitU_keeps {sI s : State} {n : ℕ} {v : ℕ} (hk : Keeps sI s) :
    KeepsP sI (State.fitU s n v) := by
  unfold State.fitU
  exact KeepsP.ite (KeepsP.pair hk) (State.drawLevel_keeps hk)

theorem State.moveToken_keeps {sI s : State} {r : ℕ} {slot : ℕ} {v : ℕ} (hk : Keeps sI s) :
    Keeps sI (State.moveToken s r slot v) := by
  unfold State.moveToken
  exact Keeps.ite (State.setToken_keeps hk) (Keeps.ite (State.put_keeps (State.setToken_keeps hk)) (State.put_keeps (State.setToken_keeps hk)))

theorem State.header_keeps {sI s : State} {r : ℕ} (hk : Keeps sI s) :
    KeepsP sI (State.header s r) := by
  unfold State.header
  split
  · rename_i q s1 heq
    have hs1 : Keeps sI s1 := by
      have he := congrArg (fun p => p.2) heq
      dsimp only at he
      rw [← he]
      exact State.nextSeq_keeps hk
    exact KeepsP.pair hs1

theorem State.ringWrite_keeps {s0 s : State} {r : Nat} {slots : List Nat} {bs : List Byte} (h : Keeps s0 s) :
    Keeps s0 (s.ringWrite r slots bs) := by
  induction slots generalizing s bs with
  | nil => exact h
  | cons slot t ih =>
    unfold State.ringWrite
    exact ih (Keeps.ite (State.crsWrite_keeps h) (State.bump_keeps h))

theorem State.moveAll_keeps {sI s : State} {r : ℕ} {slots : List ℕ} {v : ℕ} (hk : Keeps sI s) :
    Keeps sI (State.moveAll s r slots v) := by
  unfold State.moveAll
  exact Keeps.foldl hk (fun _ _ ht => State.moveToken_keeps ht)

theorem State.fill_keeps {sI s : State} {r : ℕ} {slots : List ℕ} {bs : List Byte} (hk : Keeps sI s) :
    Keeps sI (State.fill s r slots bs) := by
  unfold State.fill
  exact State.moveAll_keeps (State.ringWrite_keeps (State.moveAll_keeps hk))

theorem State.publish_keeps {sI s : State} {r : ℕ} {slot : ℕ} {n : ℕ} {body : List Byte} (hk : Keeps sI s) :
    Keeps sI (State.publish s r slot n body) := by
  unfold State.publish
  split
  · rename_i h s1 heq
    have hs1 : Keeps sI s1 := by
      have he := congrArg (fun p => p.2) heq
      dsimp only at he
      rw [← he]
      exact State.header_keeps hk
    exact State.fill_keeps hs1

theorem State.retPut_keeps {sI s : State} {i : ℕ} {v : ℕ} (hk : Keeps sI s) :
    Keeps sI (State.retPut s i v) := by
  unfold State.retPut
  exact State.wr_keeps hk

theorem State.retPutAll_keeps {s0 s : State} {i : Nat} {l : List Nat} (h : Keeps s0 s) : Keeps s0 (s.retPutAll i l) := by
  induction l generalizing s i with
  | nil => exact h
  | cons v l ih => exact ih (State.retPut_keeps h)

theorem State.retSeal_keeps {sI s : State} (hk : Keeps sI s) :
    Keeps sI (State.retSeal s) := by
  unfold State.retSeal
  exact State.retPut_keeps (State.retPut_keeps hk)

theorem State.retWrite_keeps {sI s : State} {i : ℕ} {vs : List ℕ} (hk : Keeps sI s) :
    Keeps sI (State.retWrite s i vs) := by
  unfold State.retWrite
  exact State.retSeal_keeps (State.retPutAll_keeps hk)

theorem State.logTrouble_keeps {sI s : State} {code : ℕ} {source : ℕ} {data : ℕ} (hk : Keeps sI s) :
    Keeps sI (State.logTrouble s code source data) := by
  unfold State.logTrouble
  exact State.put_keeps (State.put_keeps (Keeps.ite (State.bump_keeps (State.moveToken_keeps (State.crsWrite_keeps (State.moveToken_keeps hk)))) (State.moveToken_keeps (State.crsWrite_keeps (State.moveToken_keeps hk)))))

theorem State.legalShow_keeps {sI s : State} (hk : Keeps sI s) :
    Keeps sI (State.legalShow s) := by
  unfold State.legalShow
  exact Keeps.ite (State.put_keeps hk) (State.retWrite_keeps (State.put_keeps hk))

theorem State.legalQueue_keeps {sI s : State} {e : LegalEntry} (hk : Keeps sI s) :
    Keeps sI (State.legalQueue s e) := by
  unfold State.legalQueue
  exact Keeps.ite (State.bump_keeps hk) (Keeps.ite (State.legalShow_keeps (Keeps.mk hk rfl rfl)) (State.legalShow_keeps (Keeps.mk hk rfl rfl)))

theorem State.legalAt_keeps {sI s : State} {sec : ℕ} {code : ℕ} {data : List Byte} (hk : Keeps sI s) :
    Keeps sI (State.legalAt s sec code data) := by
  unfold State.legalAt
  exact Keeps.ite (Keeps.ite (State.legalQueue_keeps hk) (Keeps.mk hk rfl rfl)) (State.legalQueue_keeps hk)

theorem State.legal_keeps {sI s : State} {code : ℕ} {data : List Byte} (hk : Keeps sI s) :
    Keeps sI (State.legal s code data) := by
  unfold State.legal
  exact State.legalAt_keeps hk

theorem State.legalRelease_keeps {s0 s : State} {k : Nat} (h : Keeps s0 s) : Keeps s0 (State.legalRelease k s) := by
  induction k generalizing s with
  | zero => exact h
  | succ k ih =>
    unfold State.legalRelease
    split
    · exact h
    · exact Keeps.ite (ih (State.legalShow_keeps (Keeps.mk h rfl rfl))) h

theorem State.commitDue_keeps {sI s : State} (hk : Keeps sI s) :
    Keeps sI (State.commitDue s) := by
  unfold State.commitDue
  exact Keeps.mk hk rfl rfl

theorem State.demandClose_keeps {sI s : State} (hk : Keeps sI s) :
    Keeps sI (State.demandClose s) := by
  unfold State.demandClose
  exact Keeps.mk (Keeps.ite hk (State.commitDue_keeps (State.set1_keeps hk))) rfl rfl

theorem State.zcRefuse_keeps {sI s : State} {cause : ℕ} (hk : Keeps sI s) :
    Keeps sI (State.zcRefuse s cause) := by
  unfold State.zcRefuse
  split
  · exact hk
  · exact State.clr_keeps (State.put_keeps (State.put_keeps (State.put_keeps (Keeps.mk hk rfl rfl))))

theorem State.noteAck_keeps {sI s : State} {code : ℕ} (hk : Keeps sI s) :
    Keeps sI (State.noteAck s code) := by
  unfold State.noteAck
  exact Keeps.ite (State.set1_keeps (Keeps.mk hk rfl rfl)) hk

theorem State.enterSafe_keeps {sI s : State} {code : ℕ} (hk : Keeps sI s) :
    Keeps sI (State.enterSafe s code) := by
  unfold State.enterSafe
  refine Keeps.ite ?_ ?_
  · exact State.noteAck_keeps (State.clr_keeps (State.put_keeps hk))
  · extract_lets -merge -underBinder s1 s2 s3 src s4
    have hs1 : Keeps sI s1 := State.logTrouble_keeps hk
    have hs2 : Keeps sI s2 := State.clr_keeps (State.put_keeps (State.set1_keeps hs1))
    have hs3 : Keeps sI s3 := State.legal_keeps (State.bump_keeps hs2)
    have hs4 : Keeps sI s4 := State.zcRefuse_keeps (State.noteAck_keeps (Keeps.mk hs3 rfl rfl))
    exact Keeps.ite (State.demandClose_keeps hs4) hs4

theorem State.detect_keeps {sI s : State} {code : ℕ} {source : ℕ} {data : ℕ} {r : Reaction} (hk : Keeps sI s) :
    Keeps sI (State.detect s code source data r) := by
  unfold State.detect
  extract_lets -merge -underBinder s1 s2 s3 src s4 s5
  have hs1 : Keeps sI s1 := State.logTrouble_keeps hk
  have hs2 : Keeps sI s2 := by
    dsimp -zeta only [s2]
    split
    · exact State.put_keeps hs1
    · exact hs1
  have hs3 : Keeps sI s3 := State.bump_keeps hs2
  have hs4 : Keeps sI s4 := Keeps.mk hs3 rfl rfl
  have hs5 : Keeps sI s5 := Keeps.ite (State.clr_keeps hs4) hs4
  split
  · exact State.enterSafe_keeps hs5
  · exact Keeps.ite (State.enterSafe_keeps hs5) hs5
  · exact hs5
  · exact hs5

theorem State.safetyReset_keeps {sI s : State} {code : ℕ} (hk : Keeps sI s) :
    Keeps sI (State.safetyReset s code) := by
  unfold State.safetyReset
  exact Keeps.mk hk rfl rfl

theorem State.eccMeet_keeps {sI s : State} {a : ℕ} {n : ℕ} (hk : Keeps sI s) :
    Keeps sI (State.eccMeet s a n) := by
  unfold State.eccMeet
  exact Keeps.ite hk (Keeps.foldl (Keeps.mk (State.bump_keeps hk) rfl rfl) (fun _ _ ht => State.safetyReset_keeps (State.detect_keeps (State.set1_keeps ht))))

theorem State.crsRead_keeps {sI s : State} {a : ℕ} {n : ℕ} (hk : Keeps sI s) :
    KeepsP sI (State.crsRead s a n) := by
  unfold State.crsRead
  exact KeepsP.pair (State.eccMeet_keeps hk)

theorem State.consume_keeps {sI s : State} {r : ℕ} {slots : List ℕ} (hk : Keeps sI s) :
    Keeps sI (State.consume s r slots) := by
  unfold State.consume
  exact State.moveAll_keeps (Keeps.foldl (State.moveAll_keeps hk) (fun _ _ ht => State.eccMeet_keeps ht))

theorem State.scrubTick_keeps {sI s : State} (hk : Keeps sI s) :
    Keeps sI (State.scrubTick s) := by
  unfold State.scrubTick
  exact Keeps.mk (State.eccMeet_keeps hk) rfl rfl

theorem State.keyAbort_keeps {sI s : State} (hk : Keeps sI s) :
    Keeps sI (State.keyAbort s) := by
  unfold State.keyAbort
  extract_lets -merge -underBinder k hit
  have hhit : ∀ r s, Keeps sI s → Keeps sI (hit r s) := by
    intro r s hs
    dsimp -zeta only [hit]
    exact Keeps.mk (State.clr_keeps (State.bump_keeps (State.put_keeps (State.set1_keeps hs)))) rfl rfl
  split
  · exact hhit _ _ (Keeps.mk hk rfl rfl)
  · exact Keeps.ite (State.clr_keeps (hhit _ _ (Keeps.mk hk rfl rfl))) hk
  · exact hk

theorem State.tamperRecord_keeps {sI s : State} {mask : ℕ} {hold : Bool} (hk : Keeps sI s) :
    Keeps sI (State.tamperRecord s mask hold) := by
  unfold State.tamperRecord
  exact State.retWrite_keeps (State.retPut_keeps hk)

theorem State.showHold_keeps {sI s : State} (hk : Keeps sI s) :
    Keeps sI (State.showHold s) := by
  unfold State.showHold
  exact Keeps.ite (Keeps.mk (State.set1_keeps (State.set1_keeps hk)) rfl rfl) hk

theorem State.raiseTamper_keeps {sI s : State} {src : ℕ} (hk : Keeps sI s) :
    Keeps sI (State.raiseTamper s src) := by
  unfold State.raiseTamper
  extract_lets -merge -underBinder s1 s2 s3 s4 s5 s6
  have hs1 : Keeps sI s1 := State.put_keeps hk
  have hs2 : Keeps sI s2 := State.bump_keeps hs1
  have hs3 : Keeps sI s3 := State.logTrouble_keeps hs2
  have hs4 : Keeps sI s4 := State.legal_keeps hs3
  have hs5 : Keeps sI s5 := Keeps.ite (State.keyAbort_keeps (State.tamperRecord_keeps hs4)) hs4
  have hs6 : Keeps sI s6 := Keeps.ite (State.showHold_keeps hs5) hs5
  exact Keeps.ite (State.demandClose_keeps (State.set1_keeps hs6)) hs6

theorem State.tamperEnd_keeps {sI s : State} {src : ℕ} (hk : Keeps sI s) :
    Keeps sI (State.tamperEnd s src) := by
  unfold State.tamperEnd
  exact State.legal_keeps hk

theorem State.enterPower_keeps {sI s : State} {v : ℕ} (hk : Keeps sI s) :
    Keeps sI (State.enterPower s v) := by
  unfold State.enterPower
  exact State.put_keeps hk

theorem State.restPower_keeps {sI s : State} (hk : Keeps sI s) :
    Keeps sI (State.restPower s) := by
  unfold State.restPower
  exact State.enterPower_keeps hk

theorem State.settlePower_keeps {sI s : State} (hk : Keeps sI s) :
    Keeps sI (State.settlePower s) := by
  unfold State.settlePower
  exact Keeps.ite (State.restPower_keeps hk) hk

theorem State.wakeCore_keeps {sI s : State} (hk : Keeps sI s) :
    Keeps sI (State.wakeCore s) := by
  unfold State.wakeCore
  exact Keeps.ite (State.enterPower_keeps hk) hk

theorem State.endPhases_keeps {sI s : State} (hk : Keeps sI s) :
    Keeps sI (State.endPhases s) := by
  unfold State.endPhases
  exact State.restPower_keeps (State.put_keeps hk)

theorem State.setCar_keeps {s0 s : State} {c : Carrier} {x : CarrierSt} (h : Keeps s0 s) : Keeps s0 (s.setCar c x) := by
  unfold State.setCar
  split
  · exact Keeps.mk h rfl rfl
  · exact Keeps.mk h rfl rfl
  · exact Keeps.setTun h

end Sys2Proof.Machine
end

