-- ==== Sys2Proof/Laws/KeepsClock.lean ====
section
/-! SUPPORT. What the operations of Machine/Clock.lean keep (Laws/Keeps.lean), one lemma per operation. -/

namespace Sys2Proof.Machine

theorem State.linkUntrust_keeps {sI s : State} (hk : Keeps sI s) :
    Keeps sI (State.linkUntrust s) := by
  unfold State.linkUntrust
  exact Keeps.foldl hk (fun _ _ hs => State.clr_keeps (State.clr_keeps hs))

theorem State.linkShift_keeps {sI s : State} {d : ℤ} (hk : Keeps sI s) :
    Keeps sI (State.linkShift s d) := by
  unfold State.linkShift
  exact Keeps.foldl hk (fun _ _ hs => Keeps.ite (State.put_keeps (State.put_keeps hs)) hs)

theorem State.setOsf_keeps {sI s : State} {cause : Fld} (hk : Keeps sI s) :
    Keeps sI (State.setOsf s cause) := by
  unfold State.setOsf
  exact State.linkUntrust_keeps (State.set1_keeps (State.set1_keeps hk))

theorem State.setCount_keeps {sI s : State} {write : Bool} {t : ℕ} (hk : Keeps sI s) :
    Keeps sI (State.setCount s write t) := by
  unfold State.setCount
  exact Keeps.ite (State.setOsf_keeps (State.put_keeps (State.put_keeps hk))) (State.put_keeps (State.put_keeps hk))

theorem State.cdtExpire_keeps {sI s : State} (hk : Keeps sI s) :
    Keeps sI (State.cdtExpire s) := by
  unfold State.cdtExpire
  exact Keeps.ite (State.logTrouble_keeps (State.wakeCore_keeps (State.set1_keeps (State.clr_keeps hk)))) (Keeps.ite (State.retWrite_keeps (State.set1_keeps (State.clr_keeps hk))) (State.set1_keeps (State.clr_keeps hk)))

theorem State.cdtEdges_keeps {sI s : State} {e : ℕ} (hk : Keeps sI s) :
    Keeps sI (State.cdtEdges s e) := by
  unfold State.cdtEdges
  exact Keeps.ite (Keeps.mk hk rfl rfl) (Keeps.ite (State.cdtExpire_keeps (Keeps.mk hk rfl rfl)) (State.put_keeps (Keeps.mk hk rfl rfl)))

theorem State.edges_keeps {sI s : State} {write : Bool} {e : ℕ} (hk : Keeps sI s) :
    Keeps sI (State.edges s write e) := by
  unfold State.edges
  refine Keeps.ite ?_ ?_
  · split
    · exact State.cdtEdges_keeps (State.setCount_keeps (Keeps.mk (State.putI_keeps hk) rfl rfl))
  · exact Keeps.ite (State.setCount_keeps hk) hk

theorem State.applyTime_keeps {sI s : State} {v : ℕ} (hk : Keeps sI s) :
    Keeps sI (State.applyTime s v) := by
  unfold State.applyTime
  extract_lets -merge -underBinder old oldFrac step was s1 s2 s3 rec1 src s4 s5
  have hs1 : Keeps sI s1 := State.clr_keeps (State.clr_keeps (State.put_keeps hk))
  have hs2 : Keeps sI s2 := State.set1_keeps (State.put_keeps (State.putI_keeps hs1))
  have hs3 : Keeps sI s3 := Keeps.ite (State.clr_keeps (State.clr_keeps (State.clr_keeps (State.clr_keeps (State.set1_keeps hs2))))) hs2
  have hs4 : Keeps sI s4 := Keeps.mk hs3 rfl rfl
  have hs5 : Keeps sI s5 := State.linkShift_keeps hs4
  split
  · exact hs5
  · exact Keeps.mk hs5 rfl rfl

theorem State.startTimeWrite_keeps {sI s : State} {v : ℕ} (hk : Keeps sI s) :
    Keeps sI (State.startTimeWrite s v) := by
  unfold State.startTimeWrite
  exact Keeps.ite hk (Keeps.mk (State.set1_keeps hk) rfl rfl)

theorem State.holdDate_keeps {sI s : State} {w : Word} (hk : Keeps sI s) :
    Keeps sI (State.holdDate s w) := by
  unfold State.holdDate
  exact Keeps.ite hk (Keeps.mk hk rfl rfl)

theorem State.setTimeOfDay_keeps {sI s : State} {w : Word} (hk : Keeps sI s) :
    Keeps sI (State.setTimeOfDay s w) := by
  unfold State.setTimeOfDay
  dsimp -zeta only
  exact Keeps.ite hk (State.startTimeWrite_keeps (Keeps.mk (Keeps.ite (State.set1_keeps hk) hk) rfl rfl))

theorem State.writeEdges_keeps {sI s : State} {e : ℕ} (hk : Keeps sI s) :
    Keeps sI (State.writeEdges s e) := by
  unfold State.writeEdges
  split
  · exact State.edges_keeps hk
  · exact Keeps.ite hk (Keeps.ite (State.edges_keeps (State.applyTime_keeps (State.edges_keeps (State.edges_keeps hk)))) (Keeps.mk (State.edges_keeps hk) rfl rfl))

theorem State.latchCapture_keeps {sI s : State} (hk : Keeps sI s) :
    Keeps sI (State.latchCapture s) := by
  unfold State.latchCapture
  exact State.clr_keeps (State.wr_keeps (State.wr_keeps (State.put_keeps (State.put_keeps hk))))

theorem State.clockEdges_keeps {sI s : State} {e : ℕ} (hk : Keeps sI s) :
    Keeps sI (State.clockEdges s e) := by
  unfold State.clockEdges
  exact Keeps.ite (State.writeEdges_keeps (State.latchCapture_keeps (State.writeEdges_keeps hk))) (State.writeEdges_keeps hk)

theorem State.drainTx_keeps {sI s : State} {dt : ℕ} (hk : Keeps sI s) :
    Keeps sI (State.drainTx s dt) := by
  unfold State.drainTx
  exact Keeps.mk hk rfl rfl

theorem State.advance_keeps {sI s : State} {dt : ℕ} (hk : Keeps sI s) :
    Keeps sI (State.advance s dt) := by
  unfold State.advance
  exact Keeps.mk (State.drainTx_keeps (State.clockEdges_keeps hk)) rfl rfl

theorem State.capture_keeps {sI s : State} (hk : Keeps sI s) :
    Keeps sI (State.capture s) := by
  unfold State.capture
  exact State.latchCapture_keeps (State.advance_keeps hk)

theorem State.startCapture_keeps {sI s : State} (hk : Keeps sI s) :
    Keeps sI (State.startCapture s) := by
  unfold State.startCapture
  exact State.set1_keeps hk

theorem State.sampleRun_keeps {α : Type} {s0 s : State} {f : State → α → State} {period dt : Nat} {l : List α}
    (hf : ∀ t v, Keeps s0 t → Keeps s0 (f t v)) (h : Keeps s0 s) : Keeps s0 (State.sampleRun f period s dt l) := by
  induction l generalizing s dt with
  | nil => exact State.advance_keeps h
  | cons v t ih =>
    cases t with
    | nil => exact hf _ _ (State.advance_keeps h)
    | cons w t => exact ih (hf _ _ (State.advance_keeps h))

theorem execTimeWriteApplied_keeps {sI s : State} (hk : Keeps sI s) :
    KeepsO sI (execTimeWriteApplied s) := by
  unfold execTimeWriteApplied
  split
  · exact KeepsO.next hk
  · exact KeepsO.next (State.advance_keeps hk)

theorem execCountdownTimerExpiry_keeps {sI s : State} (hk : Keeps sI s) :
    KeepsO sI (execCountdownTimerExpiry s) := by
  unfold execCountdownTimerExpiry
  exact KeepsO.ite (KeepsO.next hk) (KeepsO.next (State.advance_keeps hk))

theorem execTrimWindow_keeps {sI s : State} (hk : Keeps sI s) :
    KeepsO sI (execTrimWindow s) := by
  unfold execTrimWindow
  exact KeepsO.ite (KeepsO.next (State.advance_keeps hk)) (KeepsO.next hk)

theorem execWrap_keeps {sI s : State} (hk : Keeps sI s) :
    KeepsO sI (execWrap s) := by
  unfold execWrap
  exact KeepsO.ite (KeepsO.next (State.advance_keeps (by
    split
    · exact hk
    · exact State.advance_keeps hk))) (KeepsO.next hk)

end Sys2Proof.Machine
end

