-- ==== Sys2Proof/Laws/KeepsLcd.lean ====
section
/-! SUPPORT. What the operations of Machine/Lcd.lean keep (Laws/Keeps.lean), one lemma per operation. -/

namespace Sys2Proof.Machine

theorem State.lcdBegin_keeps {sI s : State} (hk : Keeps sI s) :
    Keeps sI (State.lcdBegin s) := by
  unfold State.lcdBegin
  exact Keeps.mk hk rfl rfl

theorem State.lcdDefer_keeps {sI s : State} {t0 : ℕ} {t1 : ℕ} (hk : Keeps sI s) :
    Keeps sI (State.lcdDefer s t0 t1) := by
  unfold State.lcdDefer
  exact Keeps.mk hk rfl rfl

theorem State.runHold_keeps {sI s : State} {t0 : ℕ} {t1 : ℕ} (hk : Keeps sI s) :
    Keeps sI (State.runHold s t0 t1) := by
  unfold State.runHold
  split
  · exact hk
  · exact Keeps.ite hk (Keeps.mk hk rfl rfl)

end Sys2Proof.Machine
end

