-- ==== Sys2Proof/Laws/KeepsSchedule.lean ====
section
/-! SUPPORT. What the operations of Machine/Schedule.lean keep (Laws/Keeps.lean), one lemma per operation. -/

namespace Sys2Proof.Machine

theorem State.stage_keeps {s0 s : State} {a : Nat} {w : Word} (h : Keeps s0 s) : Keeps s0 (s.stage a w) := by
  unfold State.stage
  split
  · exact Keeps.mk h rfl rfl
  · exact Keeps.setShadow h

theorem State.stageField_keeps {sI s : State} {f : Fld} {v : ℕ} (hk : Keeps sI s) :
    Keeps sI (State.stageField s f v) := by
  unfold State.stageField
  exact State.stage_keeps hk

theorem State.copyShadows_keeps {s0 s : State} (h : Keeps s0 s) : Keeps s0 s.copyShadows := by
  unfold State.copyShadows
  refine Keeps.noShadow (Keeps.foldl h ?_)
  intro t c ht
  split
  · exact State.wr_keeps ht
  · exact ht

theorem State.schedCommit_keeps {sI s : State} (hk : Keeps sI s) :
    Keeps sI (State.schedCommit s) := by
  unfold State.schedCommit
  exact Keeps.ite (Keeps.ite (Keeps.mk (State.set1_keeps (State.put_keeps (State.put_keeps hk))) rfl rfl) (State.put_keeps (State.put_keeps hk))) (State.put_keeps hk)

theorem State.schedDiscard_keeps {sI s : State} (hk : Keeps sI s) :
    Keeps sI (State.schedDiscard s) := by
  unfold State.schedDiscard
  exact Keeps.mk hk rfl rfl

theorem State.schedInstall_keeps {sI s : State} {t : List (ℕ × Word)} (hk : Keeps sI s) :
    Keeps sI (State.schedInstall s t) := by
  unfold State.schedInstall
  exact Keeps.foldl hk (fun _ _ hs => State.wr_keeps hs)

theorem State.ready_keeps {sI s : State} {task : ℕ} (hk : Keeps sI s) :
    Keeps sI (State.ready s task) := by
  unfold State.ready
  split
  · exact Keeps.mk hk rfl rfl
  · exact hk

end Sys2Proof.Machine
end

