-- ==== Sys2Proof/Laws/KeepsShotRecord.lean ====
section
/-! SUPPORT. What the operations of Machine/ShotRecord.lean keep (Laws/Keeps.lean), one lemma per operation. -/

namespace Sys2Proof.Machine

theorem State.hput_keeps {sI s : State} {f : Fld} {v : ℕ} (hk : Keeps sI s) :
    Keeps sI (State.hput s f v) := by
  unfold State.hput
  exact Keeps.mk hk rfl rfl

theorem State.hputI_keeps {sI s : State} {f : Fld} {v : ℤ} (hk : Keeps sI s) :
    Keeps sI (State.hputI s f v) := by
  unfold State.hputI
  exact State.hput_keeps hk

theorem State.showHidden_keeps {sI s : State} (hk : Keeps sI s) :
    Keeps sI (State.showHidden s) := by
  unfold State.showHidden
  exact Keeps.mk (Keeps.foldl hk (fun _ _ ht => State.put_keeps ht)) rfl rfl

theorem State.fit32_keeps {sI s : State} {v : ℤ} (hk : Keeps sI s) :
    KeepsP sI (State.fit32 s v) := by
  unfold State.fit32
  refine KeepsP.ite ?_ ?_
  · exact KeepsP.pair hk
  · split
    · rename_i d s1 heq
      have hs1 : Keeps sI s1 := by
        have he := congrArg (fun p => p.2) heq
        dsimp only at he
        rw [← he]
        exact State.drawLevel_keeps hk
      exact KeepsP.pair hs1

theorem State.setPathSt_keeps {sI s : State} {n : ℕ} {p : PathSt} (hk : Keeps sI s) :
    Keeps sI (State.setPathSt s n p) := by
  unfold State.setPathSt
  exact Keeps.mk hk rfl rfl

theorem State.depositShow_keeps {sI s : State} {n : ℕ} (hk : Keeps sI s) :
    Keeps sI (State.depositShow s n) := by
  unfold State.depositShow
  extract_lets -merge -underBinder dref
  split
  · exact hk
  · exact Keeps.ite (State.hput_keeps (State.hput_keeps hk)) (Keeps.ite (State.hput_keeps (State.hput_keeps hk)) (Keeps.ite (State.hput_keeps (State.hput_keeps hk)) (State.hput_keeps hk)))

theorem State.depositBlock_keeps {sI s : State} {n : ℕ} (hk : Keeps sI s) :
    Keeps sI (State.depositBlock s n) := by
  unfold State.depositBlock
  exact Keeps.ite (State.depositShow_keeps (State.setPathSt_keeps hk)) hk

theorem State.depositAdd_keeps {sI s : State} {n : ℕ} {an : ℕ} (hk : Keeps sI s) :
    Keeps sI (State.depositAdd s n an) := by
  unfold State.depositAdd
  exact State.setPathSt_keeps (State.depositBlock_keeps hk)

theorem State.zcCollect_keeps {sI s : State} {n : ℕ} {raw : ℤ} {ab : ℤ} {an : ℕ} (hk : Keeps sI s) :
    Keeps sI (State.zcCollect s n raw ab an) := by
  unfold State.zcCollect
  split
  · exact hk
  · exact Keeps.ite hk (State.hput_keeps (Keeps.mk hk rfl rfl))

theorem State.publishShot_keeps {sI s : State} {body : List Byte} (hk : Keeps sI s) :
    Keeps sI (State.publishShot s body) := by
  unfold State.publishShot
  exact State.put_keeps (State.publish_keeps hk)

theorem State.finishShot_keeps {sI s : State} {r : ShotRun} (hk : Keeps sI s) :
    Keeps sI (State.finishShot s r) := by
  unfold State.finishShot
  extract_lets -merge -underBinder path lb c lim cu cd du dd a b p au ad bu bd v ta tb
  split
  · rename_i da s0 heq
    have hs0 : Keeps sI s0 := by
      have he := congrArg (fun p => p.2) heq
      dsimp only at he
      rw [← he]
      exact State.fit32_keeps hk
    split
    · rename_i db s1 heq
      have hs1 : Keeps sI s1 := by
        have he := congrArg (fun p => p.2) heq
        dsimp only at he
        rw [← he]
        exact State.fit32_keeps hs0
      extract_lets -merge -underBinder zstale recov id flags s2 out src s3 an s4 dl
      have hs2 : Keeps sI s2 := State.publishShot_keeps hs1
      have hs3 : Keeps sI s3 := Keeps.mk hs2 rfl rfl
      have hs4 : Keeps sI s4 := State.zcCollect_keeps (State.depositAdd_keeps hs3)
      exact Keeps.ite (Keeps.ite (State.hput_keeps (State.hput_keeps (State.hputI_keeps hs3))) (State.hput_keeps (State.hput_keeps (State.hputI_keeps hs3)))) (Keeps.ite (Keeps.ite (State.hputI_keeps hs4) hs4) hs3)

end Sys2Proof.Machine
end

