-- ==== Sys2Proof/Laws/KeepsSensors.lean ====
section
/-! SUPPORT. What the operations of Machine/Sensors.lean keep (Laws/Keeps.lean), one lemma per operation. -/

namespace Sys2Proof.Machine

theorem State.startConv_keeps {sI s : State} (hk : Keeps sI s) :
    Keeps sI (State.startConv s) := by
  unfold State.startConv
  split
  · exact Keeps.mk hk rfl rfl

theorem State.refFault_keeps {sI s : State} {c : ConvSeq} (hk : Keeps sI s) :
    Keeps sI (State.refFault s c) := by
  unfold State.refFault
  exact Keeps.ite (State.detect_keeps hk) (State.detect_keeps hk)

theorem execConversionSequenceEnd_keeps {sI s : State} {dt : ℕ} {conv : ConvSeq} (hk : Keeps sI s) :
    KeepsO sI (execConversionSequenceEnd dt conv s) := by
  unfold execConversionSequenceEnd
  extract_lets -merge -underBinder s1
  have hs1 : Keeps sI s1 := State.advance_keeps hk
  split
  · exact KeepsO.next hs1
  · extract_lets -merge -underBinder h fails src s2 s3
    have hs2 : Keeps sI s2 := Keeps.mk hs1 rfl rfl
    have hs3 : Keeps sI s3 := by
      dsimp -zeta only [s3]
      split
      · exact Keeps.ite hs2 (State.detect_keeps hs2)
      · exact hs2
    exact KeepsO.next (Keeps.ite (State.refFault_keeps hs3) hs3)

theorem State.sampleInput_keeps {sI s : State} {x : ℕ × ℕ × Option ℤ × ℕ} (hk : Keeps sI s) :
    Keeps sI (State.sampleInput s x) := by
  unfold State.sampleInput
  dsimp -zeta only
  extract_lets -merge -underBinder was s2
  have hs2 : Keeps sI s2 := State.put_keeps (State.put_keeps (State.putI_keeps (KeepsP.out (by
    split
    · exact State.fitS_keeps hk
    · exact KeepsP.pair hk))))
  exact Keeps.ite (State.raiseTamper_keeps hs2) (Keeps.ite (State.tamperEnd_keeps hs2) hs2)

theorem State.sampleBridge_keeps {sI s : State} {x : ℕ × Option ℤ × ℤ} (hk : Keeps sI s) :
    Keeps sI (State.sampleBridge s x) := by
  unfold State.sampleBridge
  dsimp -zeta only
  exact State.put_keeps (State.putI_keeps (State.put_keeps (State.putI_keeps (KeepsP.out (by
    split
    · exact State.fitS_keeps hk
    · exact KeepsP.pair hk)))))

theorem State.sensDisabled_keeps {sI s : State} (hk : Keeps sI s) :
    Keeps sI (State.sensDisabled s) := by
  unfold State.sensDisabled
  exact Keeps.ite (Keeps.foldl hk (fun _ _ ht => Keeps.ite ht (State.put_keeps ht))) (State.put_keeps (Keeps.foldl hk (fun _ _ ht => Keeps.ite ht (State.put_keeps ht))))

theorem State.sensCapture_keeps {sI s : State} (hk : Keeps sI s) :
    Keeps sI (State.sensCapture s) := by
  unfold State.sensCapture
  extract_lets -merge -underBinder h s1 s2
  have hs1 : Keeps sI s1 := Keeps.mk hk rfl rfl
  have hs2 : Keeps sI s2 := by
    dsimp -zeta only [s2]
    clear_value h
    split
    · exact hs1
    · extract_lets -merge -underBinder t src srcx2 t1
      have ht : Keeps sI t := Keeps.foldl hs1 (fun _ _ hs => State.sampleInput_keeps hs)
      have hsrc : Keeps sI src := State.put_keeps ht
      have ht1 : Keeps sI t1 := Keeps.ite ht (Keeps.mk hsrc rfl rfl)
      split
      · exact ht1
      · exact State.sampleBridge_keeps ht1
  exact State.sensDisabled_keeps hs2

end Sys2Proof.Machine
end

