-- ==== Sys2Proof/Laws/KeepsAcoustic.lean ====
section
/-! SUPPORT. What the operations of Machine/Acoustic.lean keep (Laws/Keeps.lean), one lemma per operation. -/

namespace Sys2Proof.Machine

theorem State.wrAll_keeps {s0 s : State} {a : Nat} {l : List Word} (h : Keeps s0 s) : Keeps s0 (s.wrAll a l) := by
  induction l generalizing s a with
  | nil => exact h
  | cons v l ih => exact ih (State.wr_keeps h)

theorem State.buildUcode_keeps {sI s : State} (hk : Keeps sI s) :
    Keeps sI (State.buildUcode s) := by
  unfold State.buildUcode
  extract_lets -merge -underBinder pad s1
  have hs1 : Keeps sI s1 := Keeps.foldl hk (fun _ _ ht => State.wrAll_keeps ht)
  exact State.wrAll_keeps hs1

theorem State.buildDur_keeps {sI s : State} (hk : Keeps sI s) :
    Keeps sI (State.buildDur s) := by
  unfold State.buildDur
  exact Keeps.foldl hk (fun _ _ ht => State.put_keeps ht)

theorem State.buildPdur_keeps {sI s : State} (hk : Keeps sI s) :
    Keeps sI (State.buildPdur s) := by
  unfold State.buildPdur
  exact Keeps.foldl hk (fun _ _ ht => State.put_keeps ht)

theorem State.showPol_keeps {sI s : State} {n : ℕ} (hk : Keeps sI s) :
    Keeps sI (State.showPol s n) := by
  unfold State.showPol
  exact State.put_keeps hk

theorem State.goStale_keeps {sI s : State} {n : ℕ} (hk : Keeps sI s) :
    Keeps sI (State.goStale s n) := by
  unfold State.goStale
  exact State.setPathSt_keeps (State.putI_keeps (Keeps.mk (State.put_keeps (State.set1_keeps hk)) rfl rfl))

theorem State.startBoost_keeps {sI s : State} (hk : Keeps sI s) :
    Keeps sI (State.startBoost s) := by
  unfold State.startBoost
  exact Keeps.mk hk rfl rfl

theorem State.boostCapture_keeps {sI s : State} (hk : Keeps sI s) :
    Keeps sI (State.boostCapture s) := by
  unfold State.boostCapture
  refine Keeps.ite ?_ ?_
  · exact Keeps.mk (State.startBoost_keeps hk) rfl rfl
  · extract_lets -merge -underBinder src srcx2 s1
    have hsrc : Keeps sI src := State.clr_keeps hk
    have hs1 : Keeps sI s1 := Keeps.mk hsrc rfl rfl
    split
    · exact Keeps.mk hs1 rfl rfl
    · refine Keeps.ite ?_ ?_
      · exact hs1
      · split
        · rename_i v s2 heq
          have hs2 : Keeps sI s2 := by
            have he := congrArg (fun p => p.2) heq
            dsimp only at he
            rw [← he]
            exact State.draw_keeps hs1
          exact Keeps.mk hs2 rfl rfl

theorem State.ameCapture_keeps {sI s : State} {changed : Bool} (hk : Keeps sI s) :
    KeepsF sI (State.ameCapture s changed) := by
  unfold State.ameCapture
  extract_lets -merge -underBinder key stale s1 src s2 s3 s4
  have hs1 : Keeps sI s1 := Keeps.foldl hk (fun _ _ hs => State.goStale_keeps hs)
  have hs2 : Keeps sI s2 := Keeps.mk hs1 rfl rfl
  have hs3 : Keeps sI s3 := Keeps.ite (State.buildPdur_keeps (State.buildDur_keeps (State.buildUcode_keeps hs2))) hs2
  have hs4 : Keeps sI s4 := Keeps.foldl hs3 (fun _ _ ht => State.showPol_keeps (Keeps.ite ht (State.put_keeps ht)))
  exact KeepsF.pair (State.boostCapture_keeps hs4)

theorem State.consumeTrig_keeps {sI s : State} (hk : Keeps sI s) :
    Keeps sI (State.consumeTrig s) := by
  unfold State.consumeTrig
  exact Keeps.ite (Keeps.ite (State.bump_keeps (Keeps.mk (Keeps.mk hk rfl rfl) rfl rfl)) (State.bump_keeps (Keeps.mk hk rfl rfl))) hk

theorem State.showTx_keeps {sI s : State} {on : Bool} (hk : Keeps sI s) :
    Keeps sI (State.showTx s on) := by
  unfold State.showTx
  exact Keeps.mk hk rfl rfl

theorem State.stretchTx_keeps {sI s : State} {start : ℕ} {more : ℕ} (hk : Keeps sI s) :
    Keeps sI (State.stretchTx s start more) := by
  unfold State.stretchTx
  split
  · extract_lets -merge -underBinder later src
    exact Keeps.mk hk rfl rfl
  · exact hk

theorem State.pauseTx_keeps {sI s : State} (hk : Keeps sI s) :
    Keeps sI (State.pauseTx s) := by
  unfold State.pauseTx
  exact Keeps.ite (State.stretchTx_keeps (State.showTx_keeps hk)) hk

theorem State.markSkipped_keeps {sI s : State} (hk : Keeps sI s) :
    Keeps sI (State.markSkipped s) := by
  unfold State.markSkipped
  exact Keeps.foldl hk (fun _ _ ht => Keeps.ite ht (State.set1_keeps ht))

theorem State.xo24Off_keeps {sI s : State} (hk : Keeps sI s) :
    Keeps sI (State.xo24Off s) := by
  unfold State.xo24Off
  exact State.clr_keeps (State.clr_keeps hk)

theorem State.xo24Rest_keeps {sI s : State} (hk : Keeps sI s) :
    Keeps sI (State.xo24Rest s) := by
  unfold State.xo24Rest
  exact Keeps.ite hk (State.xo24Off_keeps hk)

theorem State.dispWindow_keeps {sI s : State} (hk : Keeps sI s) :
    Keeps sI (State.dispWindow s) := by
  unfold State.dispWindow
  exact Keeps.ite (State.lcdDefer_keeps (State.runHold_keeps hk)) (State.runHold_keeps hk)

theorem State.endWindow_keeps {sI s : State} (hk : Keeps sI s) :
    Keeps sI (State.endWindow s) := by
  unfold State.endWindow
  extract_lets -merge -underBinder src srcx2 srcx3 s1 s2 s3
  have hs1 : Keeps sI s1 := Keeps.mk hk rfl rfl
  have hs2 : Keeps sI s2 := Keeps.ite (State.dispWindow_keeps (State.put_keeps (State.put_keeps hs1))) hs1
  have hs3 : Keeps sI s3 := Keeps.ite (State.showTx_keeps hs2) hs2
  exact State.enterPower_keeps (State.startConv_keeps (State.xo24Rest_keeps hs3))

theorem State.nextShot_keeps {sI s : State} (hk : Keeps sI s) :
    Keeps sI (State.nextShot s) := by
  unfold State.nextShot
  exact Keeps.ite (State.endWindow_keeps (Keeps.mk hk rfl rfl)) (Keeps.mk hk rfl rfl)

theorem State.crossCheck_keeps {sI s : State} {d : ℤ} (hk : Keeps sI s) :
    Keeps sI (State.crossCheck s d) := by
  unfold State.crossCheck
  exact Keeps.ite (Keeps.mk (State.detect_keeps (State.set1_keeps (State.putI_keeps hk))) rfl rfl) (State.putI_keeps hk)

theorem execAcousticWindow_keeps {sI s : State} {room : WindowRoom} {disagree : ℤ} (hk : Keeps sI s) :
    KeepsO sI (execAcousticWindow room disagree s) := by
  unfold execAcousticWindow
  refine KeepsO.ite ?_ ?_
  · extract_lets -merge -underBinder s1
    have hs1 : Keeps sI s1 := State.markSkipped_keeps (State.put_keeps hk)
    split
    · extract_lets -merge -underBinder s2 src srcx2 srcx3 s3
      have hs2 : Keeps sI s2 := Keeps.ite (State.set1_keeps hs1) hs1
      have hs3 : Keeps sI s3 := Keeps.mk hs2 rfl rfl
      exact KeepsO.ite (KeepsO.next (State.endWindow_keeps hs2)) (KeepsO.ite (KeepsO.next (State.endWindow_keeps hs2)) (KeepsO.ite (KeepsO.next (State.endWindow_keeps (State.set1_keeps hs2))) (KeepsO.next (State.enterPower_keeps (State.pauseTx_keeps (State.crossCheck_keeps hs3))))))
  · exact KeepsO.next hk

theorem execVtxbReady_keeps {sI s : State} {dt : ℕ} (hk : Keeps sI s) :
    KeepsO sI (execVtxbReady dt s) := by
  unfold execVtxbReady
  exact KeepsO.next (Keeps.ite (Keeps.mk (State.set1_keeps (State.advance_keeps hk)) rfl rfl) (State.advance_keeps hk))

theorem State.freeRecs_keeps {sI s : State} {recs : List ℕ} (hk : Keeps sI s) :
    Keeps sI (State.freeRecs s recs) := by
  unfold State.freeRecs
  exact Keeps.mk (Keeps.foldl hk (fun _ _ ht => Keeps.ite (State.consume_keeps (State.consume_keeps ht)) (State.moveToken_keeps (State.moveAll_keeps ht)))) rfl rfl

theorem State.discardShot_keeps {sI s : State} (hk : Keeps sI s) :
    Keeps sI (State.discardShot s) := by
  unfold State.discardShot
  split
  · exact hk
  · exact Keeps.mk (Keeps.ite (State.put_keeps (State.bump_keeps (State.freeRecs_keeps hk))) (State.bump_keeps (State.freeRecs_keeps hk))) rfl rfl

theorem State.stopShots_keeps {sI s : State} (hk : Keeps sI s) :
    Keeps sI (State.stopShots s) := by
  unfold State.stopShots
  exact Keeps.ite (State.endWindow_keeps (State.discardShot_keeps hk)) (State.discardShot_keeps hk)

theorem State.ucodeFault_keeps {sI s : State} {r : ShotRun} (hk : Keeps sI s) :
    Keeps sI (State.ucodeFault s r) := by
  unfold State.ucodeFault
  exact State.detect_keeps (State.stopShots_keeps (State.set1_keeps hk))

theorem execPllUnlocked_keeps {sI s : State} {dt : ℕ} (hk : Keeps sI s) :
    KeepsO sI (execPllUnlocked dt s) := by
  unfold execPllUnlocked
  extract_lets -merge -underBinder s1 s2 s3 src s4
  have hs1 : Keeps sI s1 := State.advance_keeps hk
  have hs2 : Keeps sI s2 := State.set1_keeps (State.clr_keeps hs1)
  have hs3 : Keeps sI s3 := Keeps.ite hs2 (State.set1_keeps hs2)
  have hs4 : Keeps sI s4 := Keeps.mk hs3 rfl rfl
  exact KeepsO.ite (KeepsO.next (State.detect_keeps (State.stopShots_keeps hs4))) (KeepsO.next hs1)

theorem State.setRun_keeps {sI s : State} {r : ShotRun} (hk : Keeps sI s) :
    Keeps sI (State.setRun s r) := by
  unfold State.setRun
  exact Keeps.mk hk rfl rfl

theorem State.ucode_keeps {s0 s : State} {op : Nat} {f : ShotRun → Nat → Nat → State} (h : Keeps s0 s)
    (hf : ∀ r a b, Keeps s0 (f r a b)) : Keeps s0 (s.ucode op f) := by
  unfold State.ucode
  split
  · exact h
  · exact Keeps.ite (State.ucodeFault_keeps h) (Keeps.ite (hf _ _ _) h)

theorem State.noteTest_keeps {sI s : State} {p : Planned} (hk : Keeps sI s) :
    Keeps sI (State.noteTest s p) := by
  unfold State.noteTest
  refine Keeps.ite ?_ ?_
  · exact hk
  · refine Keeps.ite ?_ ?_
    · split
      · exact hk
      · exact Keeps.mk hk rfl rfl
    · exact Keeps.mk hk rfl rfl

theorem execUcodeSelp_keeps {sI s : State} (hk : Keeps sI s) :
    KeepsO sI (execUcodeSelp s) := by
  unfold execUcodeSelp
  split
  · extract_lets -merge -underBinder pc
    refine KeepsO.ite ?_ ?_
    · exact KeepsO.next hk
    · split
      · extract_lets -merge -underBinder take s1 s2 lb n asym s3 gain pol run src
        have htake : ∀ t i, Keeps sI t → Keeps sI (take t i) := by
          intro t i ht
          dsimp -zeta only [take]
          exact State.moveToken_keeps (State.moveAll_keeps ht)
        have hs1 : Keeps sI s1 := Keeps.foldl hk (fun _ _ ht => htake _ _ ht)
        have hs2 : Keeps sI s2 := State.put_keeps (State.put_keeps hs1)
        have hs3 : Keeps sI s3 := Keeps.ite (State.put_keeps hs2) hs2
        exact KeepsO.next (State.noteTest_keeps (Keeps.mk hs3 rfl rfl))
      · exact KeepsO.next (State.nextShot_keeps (State.noteTest_keeps (Keeps.mk (State.detect_keeps (State.bump_keeps (State.set1_keeps hk))) rfl rfl)))
  · exact KeepsO.next hk

theorem execUcodeWait_keeps {sI s : State} (hk : Keeps sI s) :
    KeepsO sI (execUcodeWait s) := by
  unfold execUcodeWait
  exact KeepsO.next (State.ucode_keeps hk (fun _ _ _ => State.setRun_keeps hk))

theorem State.countPol_keeps {sI s : State} {p : Planned} (hk : Keeps sI s) :
    Keeps sI (State.countPol s p) := by
  unfold State.countPol
  exact Keeps.ite (State.showPol_keeps (Keeps.mk hk rfl rfl)) hk

theorem execUcodeFire_keeps {sI s : State} {vtxb : ℕ} (hk : Keeps sI s) :
    KeepsO sI (execUcodeFire vtxb s) := by
  unfold execUcodeFire
  exact KeepsO.next (State.ucode_keeps hk (fun _ _ _ => (by
    extract_lets -merge -underBinder c t other mv low src srcx2 s1 s2 r1
    have hsrc : Keeps sI src := State.put_keeps hk
    have hs1 : Keeps sI s1 := Keeps.mk hsrc rfl rfl
    have hs2 : Keeps sI s2 := Keeps.ite (State.set1_keeps hs1) hs1
    exact Keeps.ite (State.ucodeFault_keeps hk) (Keeps.ite (State.setRun_keeps (State.countPol_keeps hs2)) (State.setRun_keeps hs2)))))

theorem execUcodeWaitf_keeps {sI s : State} (hk : Keeps sI s) :
    KeepsO sI (execUcodeWaitf s) := by
  unfold execUcodeWaitf
  exact KeepsO.next (State.ucode_keeps hk (fun _ _ _ => (by
    split
    · exact hk
    · exact Keeps.ite (State.ucodeFault_keeps hk) (State.setRun_keeps hk))))

theorem execUcodeWaite_keeps {sI s : State} (hk : Keeps sI s) :
    KeepsO sI (execUcodeWaite s) := by
  unfold execUcodeWaite
  exact KeepsO.next (State.ucode_keeps hk (fun _ _ _ => (by
    split
    · exact hk
    · exact State.setRun_keeps hk)))

theorem execUcodeSwap_keeps {sI s : State} (hk : Keeps sI s) :
    KeepsO sI (execUcodeSwap s) := by
  unfold execUcodeSwap
  exact KeepsO.next (State.ucode_keeps hk (fun _ _ _ => State.setRun_keeps hk))

theorem execUcodeEnd_keeps {sI s : State} (hk : Keeps sI s) :
    KeepsO sI (execUcodeEnd s) := by
  unfold execUcodeEnd
  exact KeepsO.next (State.ucode_keeps hk (fun _ _ _ => State.nextShot_keeps (Keeps.mk (State.finishShot_keeps hk) rfl rfl)))

theorem State.publishCapture_keeps {sI s : State} {i : ℕ} {l : List ℤ} {d : Desc} (hk : Keeps sI s) :
    Keeps sI (State.publishCapture s i l d) := by
  unfold State.publishCapture
  split
  · rename_i h s1 heq
    have hs1 : Keeps sI s1 := by
      have he := congrArg (fun p => p.2) heq
      dsimp only at he
      rw [← he]
      exact State.header_keeps hk
    exact State.moveToken_keeps (State.moveAll_keeps (Keeps.mk (State.ringWrite_keeps (State.ringWrite_keeps hs1)) rfl rfl))

theorem State.nextGain_keeps {sI s : State} {r : ShotRun} {c : Firing} (hk : Keeps sI s) :
    Keeps sI (State.nextGain s r c) := by
  unfold State.nextGain
  exact Keeps.ite (State.put_keeps hk) hk

theorem execCaptureEnd_keeps {sI s : State} {chain0 : List ℤ} {chain1 : List ℤ} (hk : Keeps sI s) :
    KeepsO sI (execCaptureEnd chain0 chain1 s) := by
  unfold execCaptureEnd
  split
  · exact KeepsO.next hk
  · extract_lets -merge -underBinder second c x0 x1 all clip peak k d s1 t s2 r1
    have hs1 : Keeps sI s1 := State.publishCapture_keeps (State.publishCapture_keeps hk)
    have ht : Keeps sI t := State.set1_keeps hs1
    have hs2 : Keeps sI s2 := Keeps.ite (Keeps.ite (State.set1_keeps ht) ht) hs1
    exact KeepsO.ite (KeepsO.next hk) (KeepsO.next (Keeps.ite (State.setRun_keeps (State.nextGain_keeps hs2)) (State.setRun_keeps hs2)))

theorem State.captureMeet_keeps {sI s : State} {i : ℕ} (hk : Keeps sI s) :
    Keeps sI (State.captureMeet s i) := by
  unfold State.captureMeet
  exact State.eccMeet_keeps (State.eccMeet_keeps hk)

theorem execCorrelationEnd_keeps {sI s : State} (hk : Keeps sI s) :
    KeepsO sI (execCorrelationEnd s) := by
  unfold execCorrelationEnd
  split
  · exact KeepsO.next hk
  · exact KeepsO.ite (KeepsO.next hk) (KeepsO.ite (KeepsO.next (State.nextShot_keeps (State.discardShot_keeps (State.captureMeet_keeps (State.captureMeet_keeps hk))))) (KeepsO.next (State.setRun_keeps (State.freeRecs_keeps (State.captureMeet_keeps (State.captureMeet_keeps hk))))))

theorem execShottrigEdge_keeps {sI s : State} {dt : ℕ} (hk : Keeps sI s) :
    KeepsO sI (execShottrigEdge dt s) := by
  unfold execShottrigEdge
  exact KeepsO.next (Keeps.ite (Keeps.mk (State.advance_keeps hk) rfl rfl) (State.advance_keeps hk))

end Sys2Proof.Machine
end

