-- ==== Sys2Proof/Laws/KeepsShotTick.lean ====
section
/-! SUPPORT. What the operations of Machine/ShotTick.lean keep (Laws/Keeps.lean), one lemma per operation. -/

namespace Sys2Proof.Machine

theorem State.markRecov_keeps {sI s : State} {x : ℕ} (hk : Keeps sI s) :
    Keeps sI (State.markRecov s x) := by
  unfold State.markRecov
  exact Keeps.mk hk rfl rfl

theorem State.recovCapture_keeps {sI s : State} {x : ℕ} {now : Bool} (hk : Keeps sI s) :
    Keeps sI (State.recovCapture s x now) := by
  unfold State.recovCapture
  exact Keeps.mk (Keeps.ite (State.put_keeps hk) hk) rfl rfl

theorem State.recovCompute_keeps {sI s : State} {x : ℕ} (hk : Keeps sI s) :
    Keeps sI (State.recovCompute s x) := by
  unfold State.recovCompute
  exact Keeps.ite (Keeps.mk (State.put_keeps hk) rfl rfl) hk

theorem State.publishPath_keeps {sI s : State} {n : ℕ} {state : ℕ} {v : ℤ × ℕ × ℕ} {held : ℕ} (hk : Keeps sI s) :
    Keeps sI (State.publishPath s n state v held) := by
  unfold State.publishPath
  exact State.put_keeps (State.put_keeps (State.put_keeps (State.put_keeps (State.putI_keeps hk))))

theorem State.holdPath_keeps {sI s : State} {n : ℕ} {limit : ℕ} (hk : Keeps sI s) :
    Keeps sI (State.holdPath s n limit) := by
  unfold State.holdPath
  extract_lets -merge -underBinder p
  split
  · exact Keeps.ite (State.publishPath_keeps (State.setPathSt_keeps hk)) (State.publishPath_keeps hk)
  · exact State.publishPath_keeps hk

theorem State.reducePath_keeps {sI s : State} {x : ℕ} {n : ℕ} (hk : Keeps sI s) :
    Keeps sI (State.reducePath s x n) := by
  unfold State.reducePath
  exact Keeps.ite (State.publishPath_keeps hk) (Keeps.ite (State.holdPath_keeps hk) (State.publishPath_keeps (State.setPathSt_keeps hk)))

theorem State.countPath_keeps {sI s : State} {n : ℕ} (hk : Keeps sI s) :
    Keeps sI (State.countPath s n) := by
  unfold State.countPath
  extract_lets -merge -underBinder l cnt rej s1 s2 s3
  have hs1 : Keeps sI s1 := State.put_keeps (State.put_keeps (State.put_keeps (State.put_keeps hk)))
  have hs2 : Keeps sI s2 := State.bump_keeps (State.bump_keeps hs1)
  have hs3 : Keeps sI s3 := State.bump_keeps (State.bump_keeps hs2)
  exact State.bump_keeps (State.bump_keeps hs3)

theorem State.setEmpty_keeps {sI s : State} {x : ℕ} (hk : Keeps sI s) :
    Keeps sI (State.setEmpty s x) := by
  unfold State.setEmpty
  exact Keeps.foldl (State.set1_keeps hk) (fun _ _ ht => State.setPathSt_keeps ht)

theorem State.emptyCount_keeps {sI s : State} {x : ℕ} (hk : Keeps sI s) :
    Keeps sI (State.emptyCount s x) := by
  unfold State.emptyCount
  refine Keeps.ite ?_ ?_
  · exact hk
  · split
    · exact State.clr_keeps hk
    · exact hk
    · exact Keeps.ite (State.setEmpty_keeps (State.put_keeps hk)) (State.put_keeps hk)

theorem State.clearCount_keeps {sI s : State} {x : ℕ} (hk : Keeps sI s) :
    Keeps sI (State.clearCount s x) := by
  unfold State.clearCount
  exact Keeps.ite (Keeps.ite (Keeps.ite (State.markRecov_keeps (State.clr_keeps (State.clr_keeps (State.clr_keeps hk)))) (State.put_keeps hk)) (Keeps.ite (State.clr_keeps hk) hk)) hk

theorem State.shotCompute_keeps {sI s : State} {x : ℕ} (hk : Keeps sI s) :
    Keeps sI (State.shotCompute s x) := by
  unfold State.shotCompute
  extract_lets -merge -underBinder was s1 s2 unknown s3 s4
  have hs1 : Keeps sI s1 := Keeps.ite (State.clearCount_keeps hk) (State.emptyCount_keeps hk)
  have hs2 : Keeps sI s2 := Keeps.foldl hs1 (fun _ _ ht => State.reducePath_keeps ht)
  have hs3 : Keeps sI s3 := State.putB_keeps (State.putB_keeps hs2)
  have hs4 : Keeps sI s4 := State.recovCompute_keeps hs3
  exact Keeps.ite (State.markRecov_keeps hs4) hs4

theorem State.countPaths_keeps {sI s : State} (hk : Keeps sI s) :
    Keeps sI (State.countPaths s) := by
  unfold State.countPaths
  exact Keeps.foldl hk (fun _ _ hs => State.countPath_keeps hs)

theorem execEmptyPipe_keeps {sI s : State} {mp : MeterPoint} (hk : Keeps sI s) :
    KeepsO sI (execEmptyPipe mp s) := by
  unfold execEmptyPipe
  exact KeepsO.next (Keeps.ite (State.emptyCount_keeps hk) hk)

theorem execEmptyPipeClear_keeps {sI s : State} {mp : MeterPoint} (hk : Keeps sI s) :
    KeepsO sI (execEmptyPipeClear mp s) := by
  unfold execEmptyPipeClear
  exact KeepsO.next (Keeps.ite (State.clearCount_keeps hk) hk)

theorem execHoldExpiry_keeps {sI s : State} {path : Fin 4} (hk : Keeps sI s) :
    KeepsO sI (execHoldExpiry path s) := by
  unfold execHoldExpiry
  extract_lets -merge -underBinder n
  split
  · exact KeepsO.next (Keeps.ite (State.holdPath_keeps hk) hk)
  · exact KeepsO.next hk

theorem execRecoveryEnd_keeps {sI s : State} {mp : MeterPoint} (hk : Keeps sI s) :
    KeepsO sI (execRecoveryEnd mp s) := by
  unfold execRecoveryEnd
  exact KeepsO.next (Keeps.ite (State.recovCompute_keeps hk) hk)

theorem execDepositBlock_keeps {sI s : State} {path : Fin 4} (hk : Keeps sI s) :
    KeepsO sI (execDepositBlock path s) := by
  unfold execDepositBlock
  exact KeepsO.next (Keeps.ite (State.showHidden_keeps (State.depositBlock_keeps hk)) hk)

theorem State.loopbackFail_keeps {sI s : State} {hard : Bool} {asym : Bool} {data : ℕ} (hk : Keeps sI s) :
    Keeps sI (State.loopbackFail s hard asym data) := by
  unfold State.loopbackFail
  exact Keeps.ite (State.enterSafe_keeps (State.detect_keeps (Keeps.mk hk rfl rfl))) (State.detect_keeps (Keeps.mk hk rfl rfl))

theorem State.loopbackCheck_keeps {sI s : State} (hk : Keeps sI s) :
    Keeps sI (State.loopbackCheck s) := by
  unfold State.loopbackCheck
  extract_lets -merge -underBinder s1
  have hs1 : Keeps sI s1 := Keeps.foldl hk (fun _ _ ht => Keeps.ite (Keeps.mk ht rfl rfl) (State.loopbackFail_keeps ht))
  exact Keeps.foldl hs1 (fun t d ht => by
      split
      · rename_i v t1 heq
        have ht1 : Keeps sI t1 := by
          have he := congrArg (fun p => p.2) heq
          dsimp only at he
          rw [← he]
          exact State.drawLevel_keeps ht
        exact State.loopbackFail_keeps ht1)

theorem State.zcEnd_keeps {sI s : State} (hk : Keeps sI s) :
    Keeps sI (State.zcEnd s) := by
  unfold State.zcEnd
  split
  · exact hk
  · exact Keeps.ite (State.zcRefuse_keeps hk) (Keeps.ite (State.zcRefuse_keeps hk) (Keeps.foldl (State.put_keeps (State.put_keeps (Keeps.mk hk rfl rfl))) (fun _ _ ht => State.legal_keeps ht)))

theorem State.zcCompute_keeps {sI s : State} (hk : Keeps sI s) :
    Keeps sI (State.zcCompute s) := by
  unfold State.zcCompute
  split
  · exact hk
  · exact Keeps.ite (State.zcRefuse_keeps hk) (Keeps.ite (State.zcEnd_keeps hk) (Keeps.ite (State.zcRefuse_keeps hk) hk))

theorem State.zcCapture_keeps {sI s : State} (hk : Keeps sI s) :
    Keeps sI (State.zcCapture s) := by
  unfold State.zcCapture
  split
  · exact hk
  · exact Keeps.mk hk rfl rfl

theorem State.zcInForce_keeps {sI s : State} (hk : Keeps sI s) :
    KeepsF sI (State.zcInForce s) := by
  unfold State.zcInForce
  split
  · exact KeepsF.ite (KeepsF.pair (Keeps.mk (State.put_keeps (State.put_keeps (State.put_keeps (Keeps.foldl hk (fun _ _ ht => Keeps.mk (State.clr_keeps (State.put_keeps (State.put_keeps (State.putI_keeps (State.putI_keeps ht))))) rfl rfl))))) rfl rfl)) (KeepsF.pair hk)
  · exact KeepsF.pair hk

theorem State.zcStart_keeps {sI s : State} {x : ℕ} (hk : Keeps sI s) :
    Keeps sI (State.zcStart s x) := by
  unfold State.zcStart
  exact Keeps.ite (State.put_keeps (Keeps.mk (State.set1_keeps (State.put_keeps (State.put_keeps hk))) rfl rfl)) (State.zcRefuse_keeps (State.put_keeps (Keeps.mk (State.set1_keeps (State.put_keeps (State.put_keeps hk))) rfl rfl)))

theorem execZerocalCollectionEnd_keeps {sI s : State} (hk : Keeps sI s) :
    KeepsO sI (execZerocalCollectionEnd s) := by
  unfold execZerocalCollectionEnd
  exact KeepsO.next (Keeps.ite (State.zcCompute_keeps hk) hk)

theorem execZerocalTimeout_keeps {sI s : State} (hk : Keeps sI s) :
    KeepsO sI (execZerocalTimeout s) := by
  unfold execZerocalTimeout
  exact KeepsO.next (Keeps.ite (State.zcCompute_keeps hk) hk)

end Sys2Proof.Machine
end

