-- ==== Sys2Proof/Laws/KeepsMeter.lean ====
section
/-! SUPPORT. What the operations of Machine/Meter.lean keep (Laws/Keeps.lean), one lemma per operation. -/

namespace Sys2Proof.Machine

theorem State.setMp_keeps {sI s : State} {x : ℕ} {m : MpSt} (hk : Keeps sI s) :
    Keeps sI (State.setMp s x m) := by
  unfold State.setMp
  exact Keeps.mk hk rfl rfl

theorem State.emitPulses_keeps {sI s : State} {x : ℕ} (hk : Keeps sI s) :
    Keeps sI (State.emitPulses s x) := by
  unfold State.emitPulses
  exact State.setMp_keeps hk

theorem State.clearTac_keeps {sI s : State} {x : ℕ} (hk : Keeps sI s) :
    Keeps sI (State.clearTac s x) := by
  unfold State.clearTac
  exact Keeps.ite (State.clr_keeps hk) hk

theorem State.mpCapture_keeps {sI s : State} {x : ℕ} (hk : Keeps sI s) :
    Keeps sI (State.mpCapture s x) := by
  unfold State.mpCapture
  exact Keeps.ite (State.putB_keeps (State.clearTac_keeps (State.emitPulses_keeps hk))) (State.clearTac_keeps (State.emitPulses_keeps hk))

theorem State.evalProps_keeps {sI s : State} {x : ℕ} (hk : Keeps sI s) :
    Keeps sI (State.evalProps s x) := by
  unfold State.evalProps
  extract_lets -merge -underBinder m p tv old h props src s1
  have hs1 : Keeps sI s1 := State.setMp_keeps hk
  exact Keeps.ite (State.put_keeps hs1) hs1

theorem State.refreshProps_keeps {sI s : State} {x : ℕ} (hk : Keeps sI s) :
    Keeps sI (State.refreshProps s x) := by
  unfold State.refreshProps
  exact Keeps.ite hk (Keeps.ite (State.evalProps_keeps hk) hk)

theorem State.publishGas_keeps {sI s : State} {x : ℕ} {g : GasTick} (hk : Keeps sI s) :
    Keeps sI (State.publishGas s x g) := by
  unfold State.publishGas
  extract_lets -merge -underBinder c
  split
  · split
    · rename_i f s1 heq
      have hs1 : Keeps sI s1 := by
        have he := congrArg (fun p => p.2) heq
        dsimp only at he
        rw [← he]
        exact State.fitU_keeps hk
      exact State.put_keeps (State.put_keeps (State.put_keeps (State.put_keeps hs1)))

theorem State.flow_keeps {sI s : State} {x : ℕ} (hk : Keeps sI s) :
    KeepsOptP sI (State.flow s x) := by
  unfold State.flow
  split
  · exact KeepsOptP.none
  · extract_lets -merge -underBinder v c
    split
    · rename_i vw s1 heq
      have hs1 : Keeps sI s1 := by
        have he := congrArg (fun p => p.2) heq
        dsimp only at he
        rw [← he]
        exact State.fitS_keeps hk
      extract_lets -merge -underBinder d re1 tab re k
      split
      · rename_i vm s2 heq
        have hs2 : Keeps sI s2 := by
          have he := congrArg (fun p => p.2) heq
          dsimp only at he
          rw [← he]
          exact State.fitS_keeps hs1
        split
        · rename_i q s3 heq
          have hs3 : Keeps sI s3 := by
            have he := congrArg (fun p => p.2) heq
            dsimp only at he
            rw [← he]
            exact State.fitS_keeps hs2
          exact KeepsOptP.some (KeepsP.pair hs3)

theorem State.publishFlow_keeps {sI s : State} {x : ℕ} {f : Flow} (hk : Keeps sI s) :
    Keeps sI (State.publishFlow s x f) := by
  unfold State.publishFlow
  extract_lets -merge -underBinder q wide
  split
  · rename_i vel s1 heq
    have hs1 : Keeps sI s1 := by
      have he := congrArg (fun p => p.2) heq
      dsimp only at he
      rw [← he]
      exact State.fitS_keeps hk
    exact State.put_keeps (State.put_keeps (State.putI_keeps (State.putI_keeps (State.putB_keeps (State.putI_keeps hs1)))))

theorem State.reverseTick_keeps {sI s : State} {x : ℕ} {cond : Bool} (hk : Keeps sI s) :
    Keeps sI (State.reverseTick s x cond) := by
  unfold State.reverseTick
  split
  · exact Keeps.ite (State.raiseTamper_keeps (State.set1_keeps (State.setMp_keeps hk))) (Keeps.ite (State.tamperEnd_keeps (State.setMp_keeps hk)) (State.setMp_keeps hk))

theorem State.signTick_keeps {sI s : State} {x : ℕ} {cond : Bool} (hk : Keeps sI s) :
    Keeps sI (State.signTick s x cond) := by
  unfold State.signTick
  split
  · exact Keeps.ite (State.raiseTamper_keeps (State.set1_keeps (State.setMp_keeps hk))) (Keeps.ite (State.tamperEnd_keeps (State.setMp_keeps hk)) (State.setMp_keeps hk))

theorem State.signRule_keeps {sI s : State} {x : ℕ} {f : Flow} (hk : Keeps sI s) :
    Keeps sI (State.signRule s x f) := by
  unfold State.signRule
  exact Keeps.ite (State.signTick_keeps hk) hk

theorem State.plausCount_keeps {sI s : State} {x : ℕ} {tac : ℤ} {tv : ℤ} (hk : Keeps sI s) :
    Keeps sI (State.plausCount s x tac tv) := by
  unfold State.plausCount
  exact Keeps.ite (State.clr_keeps hk) (Keeps.ite hk (Keeps.ite (State.detect_keeps (State.set1_keeps (State.put_keeps hk))) (State.put_keeps hk)))

theorem State.acousticT_keeps {sI s : State} {x : ℕ} (hk : Keeps sI s) :
    KeepsP sI (State.acousticT s x) := by
  unfold State.acousticT
  extract_lets -merge -underBinder m
  split
  · exact KeepsP.pair hk
  · split
    · rename_i v s1 heq
      have hs1 : Keeps sI s1 := by
        have he := congrArg (fun p => p.2) heq
        dsimp only at he
        rw [← he]
        exact State.drawLevel_keeps hk
      exact KeepsP.pair hs1

theorem State.plausSample_keeps {sI s : State} {x : ℕ} {tac : ℤ} (hk : Keeps sI s) :
    Keeps sI (State.plausSample s x tac) := by
  unfold State.plausSample
  split
  · exact hk
  · exact Keeps.ite hk (State.plausCount_keeps hk)

theorem State.putEstimate_keeps {sI s : State} {x : ℕ} {e : ℕ × Bool} (hk : Keeps sI s) :
    Keeps sI (State.putEstimate s x e) := by
  unfold State.putEstimate
  exact State.set1_keeps (State.putB_keeps (State.put_keeps hk))

theorem State.putAcoustic_keeps {sI : State} {x : ℕ} {p : ℤ × State} (hk : KeepsP sI p) :
    Keeps sI (State.putAcoustic x p) := by
  unfold State.putAcoustic
  exact State.plausSample_keeps (State.putI_keeps (KeepsP.out hk))

theorem State.newSample_keeps {sI s : State} {x : ℕ} (hk : Keeps sI s) :
    Keeps sI (State.newSample s x) := by
  unfold State.newSample
  extract_lets -merge -underBinder m
  refine Keeps.ite ?_ ?_
  · exact hk
  · refine Keeps.ite ?_ ?_
    · split
      · exact hk
      · exact State.putEstimate_keeps hk
    · exact State.putAcoustic_keeps (State.acousticT_keeps hk)

theorem State.sampleWork_keeps {sI s : State} {x : ℕ} (hk : Keeps sI s) :
    Keeps sI (State.sampleWork s x) := by
  unfold State.sampleWork
  exact Keeps.ite (State.setMp_keeps (State.newSample_keeps hk)) hk

theorem State.dropSums_keeps {sI s : State} {x : ℕ} (hk : Keeps sI s) :
    Keeps sI (State.dropSums s x) := by
  unfold State.dropSums
  exact Keeps.ite (State.setMp_keeps hk) hk

theorem State.soundTick_keeps {sI s : State} {x : ℕ} {f : Flow} (hk : Keeps sI s) :
    Keeps sI (State.soundTick s x f) := by
  unfold State.soundTick
  exact Keeps.ite hk (State.setMp_keeps (State.put_keeps (KeepsP.out (State.fitU_keeps hk))))

theorem State.pulseTick_keeps {sI s : State} {x : ℕ} {q : MpQty} (hk : Keeps sI s) :
    Keeps sI (State.pulseTick s x q) := by
  unfold State.pulseTick
  exact State.setMp_keeps hk

theorem State.publishTick_keeps {sI s : State} {x : ℕ} {q : MpQty} {vs : List ℤ} (hk : Keeps sI s) :
    Keeps sI (State.publishTick s x q vs) := by
  unfold State.publishTick
  exact State.setMp_keeps (State.put_keeps (State.publish_keeps hk))

theorem State.beginStat_keeps {sI s : State} {x : ℕ} (hk : Keeps sI s) :
    Keeps sI (State.beginStat s x) := by
  unfold State.beginStat
  exact State.putB_keeps (State.putB_keeps (State.wr_keeps hk))

theorem State.tempStat_keeps {sI s : State} {x : ℕ} (hk : Keeps sI s) :
    Keeps sI (State.tempStat s x) := by
  unfold State.tempStat
  extract_lets -merge -underBinder put s1
  have hput : ∀ s f t, Keeps sI s → Keeps sI (put s f t) := by
    intro s f t hs
    dsimp -zeta only [put]
    split
    · exact State.putI_keeps hs
    · exact hs
  have hs1 : Keeps sI s1 := hput _ _ _ (hput _ _ _ hk)
  split
  · exact Keeps.ite (State.putB_keeps (State.putB_keeps (State.putB_keeps (State.putB_keeps hs1)))) (State.putB_keeps (State.putB_keeps hs1))

theorem State.endMeter_keeps {sI s : State} {x : ℕ} {fstate : ℕ} {q : MpQty} {vs : List ℤ} (hk : Keeps sI s) :
    Keeps sI (State.endMeter s x fstate q vs) := by
  unfold State.endMeter
  exact State.setMp_keeps (State.publishTick_keeps (State.pulseTick_keeps (State.putB_keeps (State.put_keeps hk))))

theorem State.vFields_keeps {sI s : State} {f : Flow} (hk : Keeps sI s) :
    KeepsP sI (State.vFields s f) := by
  unfold State.vFields
  exact KeepsP.foldl (KeepsP.pair hk) (fun a n ha => by
      split
      · exact KeepsP.pair (KeepsP.out ha)
      · split
        · rename_i v t heq
          have ht : Keeps sI t := by
            have he := congrArg (fun p => p.2) heq
            dsimp only at he
            rw [← he]
            exact State.fitS_keeps (KeepsP.out ha)
          exact KeepsP.pair ht)

theorem State.endMeasured_keeps {sI : State} {x : ℕ} {qty : MpQty} {p : List ℤ × State} (hk : KeepsP sI p) :
    Keeps sI (State.endMeasured x qty p) := by
  unfold State.endMeasured
  exact State.endMeter_keeps (KeepsP.out hk)

theorem State.measuredVolume_keeps {sI : State} {x : ℕ} {f : Flow} {q : ℤ} {mismatch : ℤ} {p : ℤ × State} (hk : KeepsP sI p) :
    Keeps sI (State.measuredVolume x f q mismatch p) := by
  unfold State.measuredVolume
  extract_lets -merge -underBinder s3 src s4 qty disagree s5 s6 s7 s8
  have hs3 : Keeps sI s3 := State.signRule_keeps (State.reverseTick_keeps (KeepsP.out hk))
  have hs4 : Keeps sI s4 := State.setMp_keeps hs3
  have hs5 : Keeps sI s5 := State.putB_keeps (State.putB_keeps (State.putB_keeps hs4))
  have hs6 : Keeps sI s6 := Keeps.ite (State.detect_keeps hs5) hs5
  have hs7 : Keeps sI s7 := Keeps.ite hs6 (State.putI_keeps hs6)
  have hs8 : Keeps sI s8 := Keeps.ite (State.publishGas_keeps hs7) hs7
  exact State.endMeasured_keeps (State.vFields_keeps hs8)

theorem State.measured_keeps {sI s : State} {x : ℕ} {f : Flow} {mismatch : ℤ} (hk : Keeps sI s) :
    Keeps sI (State.measured s x f mismatch) := by
  unfold State.measured
  exact State.measuredVolume_keeps (State.fitS_keeps (State.putB_keeps (State.soundTick_keeps (State.publishFlow_keeps hk))))

theorem State.noteTv_keeps {sI s : State} {x : ℕ} (hk : Keeps sI s) :
    Keeps sI (State.noteTv s x) := by
  unfold State.noteTv
  split
  · exact State.setMp_keeps hk
  · exact hk

theorem State.propTick_keeps {sI s : State} {x : ℕ} (hk : Keeps sI s) :
    Keeps sI (State.propTick s x) := by
  unfold State.propTick
  exact State.refreshProps_keeps (State.noteTv_keeps hk)

theorem State.measure_keeps {sI s : State} {x : ℕ} {mismatch : ℤ} (hk : Keeps sI s) :
    Keeps sI (State.measure s x mismatch) := by
  unfold State.measure
  extract_lets -merge -underBinder s1 zero
  have hs1 : Keeps sI s1 := State.sampleWork_keeps (State.tempStat_keeps hk)
  refine Keeps.ite ?_ ?_
  · exact State.endMeter_keeps hs1
  · refine Keeps.ite ?_ ?_
    · exact State.endMeter_keeps hs1
    · refine Keeps.ite ?_ ?_
      · exact State.endMeter_keeps hs1
      · split
        · exact State.endMeter_keeps (State.set1_keeps hs1)
        · rename_i f s2 heq
          have hs2 : Keeps sI s2 := (State.flow_keeps hs1) _ heq
          exact State.measured_keeps hs2

theorem State.meterTick_keeps {sI s0 : State} {x : ℕ} {mismatch : ℤ} (hk : Keeps sI s0) :
    Keeps sI (State.meterTick s0 x mismatch) := by
  unfold State.meterTick
  extract_lets -merge -underBinder s en svc s1 src s1x2
  have hs : Keeps sI s := State.propTick_keeps hk
  have hs1 : Keeps sI s1 := State.dropSums_keeps hs
  have hs1x2 : Keeps sI s1x2 := State.beginStat_keeps hs
  exact Keeps.ite (State.setMp_keeps (State.put_keeps hs1)) (Keeps.ite (State.endMeter_keeps (State.dropSums_keeps hs1x2)) (State.measure_keeps hs1x2))

theorem execReverseFlowTamper_keeps {sI s : State} {mp : MeterPoint} (hk : Keeps sI s) :
    KeepsO sI (execReverseFlowTamper mp s) := by
  unfold execReverseFlowTamper
  extract_lets -merge -underBinder x
  split
  · exact KeepsO.next hk
  · exact KeepsO.next (Keeps.ite (State.reverseTick_keeps hk) hk)

theorem execPathSignTamper_keeps {sI s : State} {mp : MeterPoint} (hk : Keeps sI s) :
    KeepsO sI (execPathSignTamper mp s) := by
  unfold execPathSignTamper
  extract_lets -merge -underBinder x
  split
  · exact KeepsO.next hk
  · exact KeepsO.next (Keeps.ite (State.signTick_keeps hk) hk)

theorem execSensorPlausibilityFault_keeps {sI s : State} {mp : MeterPoint} (hk : Keeps sI s) :
    KeepsO sI (execSensorPlausibilityFault mp s) := by
  unfold execSensorPlausibilityFault
  exact KeepsO.ite (KeepsO.next (Keeps.ite (State.sampleWork_keeps (State.tempStat_keeps (State.propTick_keeps hk))) hk)) (KeepsO.next hk)

end Sys2Proof.Machine
end

