-- ==== Sys2Proof/Laws/KeepsSafetyNet.lean ====
section
/-! SUPPORT. What the operations of Machine/SafetyNet.lean keep (Laws/Keeps.lean), one lemma per operation. -/

namespace Sys2Proof.Machine

theorem State.condCapture_keeps {sI s : State} {sf2 : Bool} {f : Fld} (hk : Keeps sI s) :
    Keeps sI (State.condCapture s sf2 f) := by
  unfold State.condCapture
  exact Keeps.ite (State.logTrouble_keeps (State.putB_keeps hk)) (State.putB_keeps hk)

theorem State.conditions_keeps {sI s : State} (hk : Keeps sI s) :
    Keeps sI (State.conditions s) := by
  unfold State.conditions
  exact State.condCapture_keeps (State.condCapture_keeps hk)

theorem State.refreshClose_keeps {sI s : State} (hk : Keeps sI s) :
    Keeps sI (State.refreshClose s) := by
  unfold State.refreshClose
  exact Keeps.ite (State.demandClose_keeps (State.putB_keeps hk)) (State.putB_keeps hk)

theorem State.leaveSafe_keeps {sI s : State} (hk : Keeps sI s) :
    Keeps sI (State.leaveSafe s) := by
  unfold State.leaveSafe
  exact State.markRecov_keeps (State.markRecov_keeps (State.legal_keeps (Keeps.mk (State.clr_keeps (State.clr_keeps (State.clr_keeps (State.clr_keeps (State.logTrouble_keeps hk))))) rfl rfl)))

theorem State.safeCapture_keeps {sI s : State} (hk : Keeps sI s) :
    Keeps sI (State.safeCapture s) := by
  unfold State.safeCapture
  exact Keeps.mk (Keeps.ite (State.leaveSafe_keeps hk) (Keeps.ite (State.put_keeps hk) hk)) rfl rfl

theorem execSafeStateExit_keeps {sI s : State} (hk : Keeps sI s) :
    KeepsO sI (execSafeStateExit s) := by
  unfold execSafeStateExit
  exact KeepsO.next (Keeps.ite (State.leaveSafe_keeps hk) hk)

theorem State.crcCapture_keeps {sI s : State} (hk : Keeps sI s) :
    Keeps sI (State.crcCapture s) := by
  unfold State.crcCapture
  exact State.wr_keeps hk

theorem State.eccCheck_keeps {sI s : State} (hk : Keeps sI s) :
    Keeps sI (State.eccCheck s) := by
  unfold State.eccCheck
  exact Keeps.ite (State.scrubTick_keeps hk) (State.detect_keeps (Keeps.mk (State.scrubTick_keeps hk) rfl rfl))

theorem State.ownerFault_keeps {sI s : State} {x : ℕ × ℕ} (hk : Keeps sI s) :
    Keeps sI (State.ownerFault s x) := by
  unfold State.ownerFault
  exact State.detect_keeps (State.bump_keeps hk)

theorem State.ownerCheck_keeps {sI s : State} {d : DiagIn} (hk : Keeps sI s) :
    Keeps sI (State.ownerCheck s d) := by
  unfold State.ownerCheck
  exact Keeps.foldl hk (fun _ _ hs => State.ownerFault_keeps hs)

theorem State.crcCheck_keeps {sI s : State} {d : DiagIn} (hk : Keeps sI s) :
    Keeps sI (State.crcCheck s d) := by
  unfold State.crcCheck
  refine Keeps.ite ?_ ?_
  · split
    · rename_i c s1 heq
      have hs1 : Keeps sI s1 := by
        have he := congrArg (fun p => p.2) heq
        dsimp only at he
        rw [← he]
        exact State.draw_keeps hk
      exact State.safetyReset_keeps (State.detect_keeps hs1)
  · exact hk

theorem State.freshCheck_keeps {sI s : State} {d : DiagIn} (hk : Keeps sI s) :
    Keeps sI (State.freshCheck s d) := by
  unfold State.freshCheck
  split
  · exact hk
  · exact State.detect_keeps hk

theorem State.flashCheck_keeps {sI s : State} {d : DiagIn} (hk : Keeps sI s) :
    Keeps sI (State.flashCheck s d) := by
  unfold State.flashCheck
  split
  · exact hk
  · exact Keeps.mk (State.safetyReset_keeps (State.detect_keeps hk)) rfl rfl

theorem State.rngFail_keeps {sI s : State} (hk : Keeps sI s) :
    Keeps sI (State.rngFail s) := by
  unfold State.rngFail
  exact State.logTrouble_keeps (State.set1_keeps (Keeps.mk hk rfl rfl))

theorem State.checkRng_keeps {sI s : State} {bad : Bool} (hk : Keeps sI s) :
    Keeps sI (State.checkRng s bad) := by
  unfold State.checkRng
  exact Keeps.ite (State.rngFail_keeps hk) (Keeps.mk hk rfl rfl)

theorem State.diagnose_keeps {sI s : State} {d : DiagIn} (hk : Keeps sI s) :
    Keeps sI (State.diagnose s d) := by
  unfold State.diagnose
  extract_lets -merge -underBinder s1
  have hs1 : Keeps sI s1 := State.freshCheck_keeps (State.flashCheck_keeps (State.crcCheck_keeps (State.ownerCheck_keeps (State.eccCheck_keeps hk))))
  exact Keeps.ite (State.rngFail_keeps hs1) hs1

theorem State.setTampIn_keeps {sI s : State} {n : ℕ} {x : Sampler} (hk : Keeps sI s) :
    Keeps sI (State.setTampIn s n x) := by
  unfold State.setTampIn
  exact Keeps.mk hk rfl rfl

theorem State.showTamp_keeps {sI s : State} {n : ℕ} (hk : Keeps sI s) :
    Keeps sI (State.showTamp s n) := by
  unfold State.showTamp
  exact State.putB_keeps (State.putB_keeps hk)

theorem State.tampChange_keeps {sI s : State} {n : ℕ} (hk : Keeps sI s) :
    Keeps sI (State.tampChange s n) := by
  unfold State.tampChange
  exact Keeps.ite (State.raiseTamper_keeps (State.showTamp_keeps hk)) (Keeps.ite (State.tamperEnd_keeps (State.showTamp_keeps hk)) (State.showTamp_keeps hk))

theorem State.tampSense_keeps {sI s : State} {n : ℕ} (hk : Keeps sI s) :
    Keeps sI (State.tampSense s n) := by
  unfold State.tampSense
  exact Keeps.mk (Keeps.ite (State.setTampIn_keeps hk) hk) rfl rfl

theorem State.tampArm_keeps {sI s : State} {n : ℕ} (hk : Keeps sI s) :
    Keeps sI (State.tampArm s n) := by
  unfold State.tampArm
  exact Keeps.ite (State.raiseTamper_keeps (State.showTamp_keeps (State.tampSense_keeps hk))) (State.showTamp_keeps (State.tampSense_keeps hk))

theorem State.tampAccept_keeps {sI s : State} {n : ℕ} (hk : Keeps sI s) :
    Keeps sI (State.tampAccept s n) := by
  unfold State.tampAccept
  exact Keeps.ite (State.tampChange_keeps (State.capture_keeps (State.wakeCore_keeps hk))) (Keeps.ite (State.retWrite_keeps hk) hk)

theorem State.tampSample_keeps {sI s : State} {n : ℕ} {v : Bool} (hk : Keeps sI s) :
    Keeps sI (State.tampSample n s v) := by
  unfold State.tampSample
  exact Keeps.ite (State.setTampIn_keeps hk) (Keeps.ite (State.setTampIn_keeps hk) (State.tampAccept_keeps (State.setTampIn_keeps hk)))

theorem execTamperInputChange_keeps {s0 s : State} {dt : Nat} {input : Fin 4} {samples : List Bool} (h : Keeps s0 s) :
    KeepsO s0 (execTamperInputChange dt input samples s) :=
  KeepsO.next (State.sampleRun_keeps (fun _ _ ht => State.tampSample_keeps ht) h)

theorem State.ackSafe_keeps {sI s : State} (hk : Keeps sI s) :
    Keeps sI (State.ackSafe s) := by
  unfold State.ackSafe
  exact Keeps.ite (State.clr_keeps (Keeps.mk hk rfl rfl)) hk

theorem execAck_keeps {sI s : State} {src : Source} (hk : Keeps sI s) :
    KeepsO sI (execAck src s) := by
  unfold execAck
  exact KeepsO.next (Keeps.ite (State.ackSafe_keeps hk) hk)

theorem State.forceSafe_keeps {sI s : State} (hk : Keeps sI s) :
    Keeps sI (State.forceSafe s) := by
  unfold State.forceSafe
  exact Keeps.ite (State.detect_keeps hk) hk

theorem execForce_keeps {sI s : State} {src : Source} (hk : Keeps sI s) :
    KeepsO sI (execForce src s) := by
  unfold execForce
  exact KeepsO.next (Keeps.ite (State.forceSafe_keeps hk) hk)

end Sys2Proof.Machine
end

