-- ==== Sys2Proof/Laws/KeepsKeys.lean ====
section
/-! SUPPORT. What the operations of Machine/Keys.lean keep (Laws/Keeps.lean), one lemma per operation. -/

namespace Sys2Proof.Machine

theorem State.showSlot_keeps {sI s : State} {i : ℕ} {e : List Byte} (hk : Keeps sI s) :
    Keeps sI (State.showSlot s i e) := by
  unfold State.showSlot
  exact Keeps.ite (State.put_keeps (State.put_keeps (State.put_keeps (State.put_keeps hk)))) (State.wr_keeps hk)

theorem State.showRecord_keeps {sI s : State} {c : List Byte} (hk : Keeps sI s) :
    Keeps sI (State.showRecord s c) := by
  unfold State.showRecord
  extract_lets -merge -underBinder w s1 pub
  have hs1 : Keeps sI s1 := Keeps.foldl hk (fun _ _ ht => State.wr_keeps ht)
  exact Keeps.foldl hs1 (fun _ _ ht => State.wr_keeps ht)

theorem State.showCells_keeps {sI s : State} (hk : Keeps sI s) :
    Keeps sI (State.showCells s) := by
  unfold State.showCells
  exact State.putB_keeps (State.putB_keeps (State.put_keeps (State.put_keeps hk)))

theorem State.keyFault_keeps {sI s : State} (hk : Keeps sI s) :
    Keeps sI (State.keyFault s) := by
  unfold State.keyFault
  exact State.logTrouble_keeps hk

theorem State.slotKey_keeps {sI s : State} {i : ℕ} (hk : Keeps sI s) :
    KeepsP sI (State.slotKey s i) := by
  unfold State.slotKey
  refine KeepsP.ite ?_ ?_
  · exact KeepsP.pair hk
  · split
    · exact KeepsP.pair hk
    · extract_lets -merge -underBinder e blob
      split
      · exact KeepsP.pair (State.set1_keeps (Keeps.mk hk rfl rfl))
      · exact KeepsP.pair (State.keyFault_keeps (State.set1_keeps hk))
    · exact KeepsP.pair hk

theorem State.slotFor_keeps {sI s : State} {i : ℕ} {use : ℕ} (hk : Keeps sI s) :
    KeepsP sI (State.slotFor s i use) := by
  unfold State.slotFor
  exact KeepsP.ite (State.slotKey_keeps hk) (KeepsP.pair hk)

theorem State.zeroise_keeps {sI s : State} (hk : Keeps sI s) :
    Keeps sI (State.zeroise s) := by
  unfold State.zeroise
  exact Keeps.mk (Keeps.foldl hk (fun _ _ ht => State.clr_keeps ht)) rfl rfl

theorem State.macKey_keeps {sI s : State} {m : KeyFields} (hk : Keeps sI s) :
    KeepsP sI (State.macKey s m) := by
  unfold State.macKey
  refine KeepsP.ite ?_ ?_
  · exact KeepsP.pair hk
  · split
    · rename_i k s1 heq
      have hs1 : Keeps sI s1 := by
        have he := congrArg (fun p => p.2) heq
        dsimp only at he
        rw [← he]
        exact State.slotKey_keeps hk
      exact KeepsP.pair hs1

theorem State.carriedKey_keeps {sI s : State} {m : KeyFields} (hk : Keeps sI s) :
    KeepsP sI (State.carriedKey s m) := by
  unfold State.carriedKey
  refine KeepsP.ite ?_ ?_
  · exact KeepsP.pair hk
  · refine KeepsP.ite ?_ ?_
    · exact KeepsP.pair hk
    · split
      · rename_i u s1 heq
        have hs1 : Keeps sI s1 := by
          have he := congrArg (fun p => p.2) heq
          dsimp only at he
          rw [← he]
          exact State.slotKey_keeps hk
        split <;> exact KeepsP.pair hs1

theorem State.keyReject_keeps {sI s : State} {result : ℕ} (hk : Keeps sI s) :
    Keeps sI (State.keyReject s result) := by
  unfold State.keyReject
  exact State.bump_keeps (State.put_keeps hk)

theorem State.startCommit_keeps {sI s : State} {r : KeyRun} {m : KeyFields} {key : Option (List ℕ)} (hk : Keeps sI s) :
    Keeps sI (State.startCommit s r m key) := by
  unfold State.startCommit
  extract_lets -merge -underBinder old oldCopy copy seq trans epoch lcs pub kept entry slots tslot bytes c src srcx2
  have hsrc : Keeps sI src := State.put_keeps hk
  exact Keeps.mk hsrc rfl rfl

theorem State.keyChecks2_keeps {sI s : State} {r : KeyRun} {m : KeyFields} (hk : Keeps sI s) :
    KeepsP sI (State.keyChecks2 s r m) := by
  unfold State.keyChecks2
  refine KeepsP.ite ?_ ?_
  · exact KeepsP.pair (State.keyReject_keeps hk)
  · refine KeepsP.ite ?_ ?_
    · exact KeepsP.pair (State.keyReject_keeps hk)
    · split
      · rename_i k s1 heq
        have hs1 : Keeps sI s1 := by
          have he := congrArg (fun p => p.2) heq
          dsimp only at he
          rw [← he]
          exact State.carriedKey_keeps hk
        split
        · exact KeepsP.pair (State.keyReject_keeps hs1)
        · exact KeepsP.ite (KeepsP.pair (State.keyReject_keeps hs1)) (KeepsP.pair (State.startCommit_keeps hs1))

theorem State.keyMessage_keeps {sI s : State} {src : Source} {line : Option (Carrier × LineForm)} {bytes : List Byte} (hk : Keeps sI s) :
    KeepsP sI (State.keyMessage s src line bytes) := by
  unfold State.keyMessage
  extract_lets -merge -underBinder s0
  have hs0 : Keeps sI s0 := State.clr_keeps (State.put_keeps hk)
  split
  · exact KeepsP.pair (State.keyReject_keeps hs0)
  · extract_lets -merge -underBinder s1 run src srcx2
    have hs1 : Keeps sI s1 := State.put_keeps hs0
    have hsrc : Keeps sI src := State.set1_keeps hs1
    refine KeepsP.ite ?_ ?_
    · exact KeepsP.pair (State.keyReject_keeps hs1)
    · refine KeepsP.ite ?_ ?_
      · exact KeepsP.pair (State.keyReject_keeps hs1)
      · refine KeepsP.ite ?_ ?_
        · exact KeepsP.pair (State.keyReject_keeps hs1)
        · refine KeepsP.ite ?_ ?_
          · exact KeepsP.ite (KeepsP.pair (State.keyReject_keeps hs1)) (KeepsP.pair (Keeps.mk hsrc rfl rfl))
          · split
            · rename_i k s2 heq
              have hs2 : Keeps sI s2 := by
                have he := congrArg (fun p => p.2) heq
                dsimp only at he
                rw [← he]
                exact State.macKey_keeps hs1
              split
              · exact KeepsP.pair (State.keyReject_keeps hs2)
              · exact KeepsP.ite (State.keyChecks2_keeps hs2) (KeepsP.pair (State.keyReject_keeps hs2))

theorem State.owe_keeps {sI s : State} {r : KeyRun} {code : ℕ} {reason : ℕ} (hk : Keeps sI s) :
    Keeps sI (State.owe s r code reason) := by
  unfold State.owe
  exact Keeps.mk hk rfl rfl

theorem State.keyService_keeps {sI s : State} (hk : Keeps sI s) :
    Keeps sI (State.keyService s) := by
  unfold State.keyService
  split
  · exact hk
  · split
    · exact hk
    · refine Keeps.ite ?_ ?_
      · exact hk
      · extract_lets -merge -underBinder src s1
        have hs1 : Keeps sI s1 := Keeps.mk hk rfl rfl
        refine Keeps.ite ?_ ?_
        · exact State.owe_keeps (State.keyReject_keeps hs1)
        · split
          · exact hs1
          · split
            · rename_i e s2 heq
              have hs2 : Keeps sI s2 := by
                have he := congrArg (fun p => p.2) heq
                dsimp only at he
                rw [← he]
                exact State.keyChecks2_keeps hs1
              exact State.owe_keeps hs2
            · rename_i s2 heq
              have hs2 : Keeps sI s2 := by
                have he := congrArg (fun p => p.2) heq
                dsimp only at he
                rw [← he]
                exact State.keyChecks2_keeps hs1
              exact hs2

theorem State.linkSend_keeps {sI s : State} {nb : ℕ} {payload : List Byte} (hk : Keeps sI s) :
    Keeps sI (State.linkSend s nb payload) := by
  unfold State.linkSend
  exact Keeps.mk hk rfl rfl

theorem State.keyFromLink_keeps {sI s : State} {nb : Fin 32} {sec : Bool} {bytes : List Byte} (hk : Keeps sI s) :
    Keeps sI (State.keyFromLink s nb sec bytes) := by
  unfold State.keyFromLink
  extract_lets -merge -underBinder kind
  refine Keeps.ite ?_ ?_
  · exact hk
  · refine Keeps.ite ?_ ?_
    · exact State.linkSend_keeps hk
    · split
      · rename_i e s1 heq
        have hs1 : Keeps sI s1 := by
          have he := congrArg (fun p => p.2) heq
          dsimp only at he
          rw [← he]
          exact State.keyMessage_keeps hk
        exact State.linkSend_keeps hs1
      · rename_i s1 heq
        have hs1 : Keeps sI s1 := by
          have he := congrArg (fun p => p.2) heq
          dsimp only at he
          rw [← he]
          exact State.keyMessage_keeps hk
        exact hs1

theorem State.keyFrom_keeps {sI s : State} {m : KeyMsg} {kind : ℕ} (hk : Keeps sI s) :
    Keeps sI (State.keyFrom s m kind) := by
  unfold State.keyFrom
  refine Keeps.ite ?_ ?_
  · exact hk
  · split
    · exact State.keyFromLink_keeps hk
    · exact Keeps.ite hk (KeepsP.out (State.keyMessage_keeps hk))

theorem execKeyUpdate_keeps {sI s : State} {m : KeyMsg} (hk : Keeps sI s) :
    KeepsO sI (execKeyUpdate m s) := by
  unfold execKeyUpdate
  exact KeepsO.next (State.keyFrom_keeps hk)

theorem execLifeCycleTransition_keeps {sI s : State} {m : KeyMsg} (hk : Keeps sI s) :
    KeepsO sI (execLifeCycleTransition m s) := by
  unfold execLifeCycleTransition
  exact KeepsO.next (State.keyFrom_keeps hk)

theorem execAuthorityChange_keeps {sI s : State} {m : KeyMsg} (hk : Keeps sI s) :
    KeepsO sI (execAuthorityChange m s) := by
  unfold execAuthorityChange
  exact KeepsO.next (State.keyFrom_keeps hk)

theorem execTamperAcknowledgement_keeps {sI s : State} {m : KeyMsg} (hk : Keeps sI s) :
    KeepsO sI (execTamperAcknowledgement m s) := by
  unfold execTamperAcknowledgement
  exact KeepsO.next (State.keyFrom_keeps hk)

theorem execStatusQuery_keeps {sI s : State} {nb : Fin 32} {digest : List Byte} (hk : Keeps sI s) :
    KeepsO sI (execStatusQuery nb digest s) := by
  unfold execStatusQuery
  exact KeepsO.next (Keeps.ite (State.linkSend_keeps hk) hk)

theorem execEcdsaVerificationEnd_keeps {sI s : State} (hk : Keeps sI s) :
    KeepsO sI (execEcdsaVerificationEnd s) := by
  unfold execEcdsaVerificationEnd
  split
  · exact KeepsO.ite (KeepsO.next hk) (KeepsO.next (State.settlePower_keeps (Keeps.mk (State.clr_keeps hk) rfl rfl)))
  · exact KeepsO.next hk

theorem State.commitPhase2_keeps {sI s : State} {c : KeyCommit} (hk : Keeps sI s) :
    Keeps sI (State.commitPhase2 s c) := by
  unfold State.commitPhase2
  exact Keeps.mk (State.put_keeps (State.nvmWrite_keeps (by
    split
    · exact State.showCells_keeps (Keeps.mkCells hk rfl rfl rfl)
    · exact hk))) rfl rfl

theorem State.keyPersist_keeps {sI s : State} {n : ℕ} (hk : Keeps sI s) :
    KeepsP sI (State.keyPersist s n) := by
  unfold State.keyPersist
  split
  · exact KeepsP.ite (KeepsP.pair hk) (KeepsP.ite (KeepsP.pair (State.commitPhase2_keeps hk)) (KeepsP.pair (Keeps.mk (Keeps.ite (State.put_keeps (Keeps.foldl hk (fun _ _ ht => State.nvmWrite_keeps ht))) (Keeps.foldl hk (fun _ _ ht => State.nvmWrite_keeps ht))) rfl rfl)))
  · split
    · exact KeepsP.pair hk
    · exact KeepsP.pair (Keeps.mk (State.nvmWrite_keeps hk) rfl rfl)

theorem State.resetLinkSlot_keeps {sI s : State} {i : ℕ} (hk : Keeps sI s) :
    Keeps sI (State.resetLinkSlot s i) := by
  unfold State.resetLinkSlot
  exact Keeps.foldl (Keeps.mk (State.wr_keeps hk) rfl rfl) (fun _ _ ht => Keeps.ite (State.clr_keeps (State.wr_keeps ht)) ht)

theorem State.transitionEffects_keeps {sI s : State} {lcs : ℕ} (hk : Keeps sI s) :
    Keeps sI (State.transitionEffects s lcs) := by
  unfold State.transitionEffects
  exact Keeps.ite (Keeps.mk (Keeps.foldl hk (fun _ _ hs => State.resetLinkSlot_keeps hs)) rfl rfl) (Keeps.foldl hk (fun _ _ hs => State.resetLinkSlot_keeps hs))

theorem State.dropRoles_keeps {sI s : State} (hk : Keeps sI s) :
    Keeps sI (State.dropRoles s) := by
  unfold State.dropRoles
  exact Keeps.foldl hk (fun _ _ ht => State.setCar_keeps ht)

theorem State.keyCapture_keeps {sI s : State} (hk : Keeps sI s) :
    Keeps sI (State.keyCapture s) := by
  unfold State.keyCapture
  split
  · exact hk
  · refine Keeps.ite ?_ ?_
    · exact hk
    · extract_lets -merge -underBinder b old src s1 s2 s3 s4 s5 s6 s7 srcx2
      have hs1 : Keeps sI s1 := Keeps.mk hk rfl rfl
      have hs2 : Keeps sI s2 := State.bump_keeps (State.put_keeps (State.put_keeps hs1))
      have hs3 : Keeps sI s3 := State.showRecord_keeps hs2
      have hs4 : Keeps sI s4 := by
        dsimp -zeta only [s4]
        split
        · exact State.resetLinkSlot_keeps (Keeps.mk (State.showSlot_keeps hs3) rfl rfl)
        · exact hs3
      have hs5 : Keeps sI s5 := by
        dsimp -zeta only [s5]
        split
        · exact hs4
        · exact State.legal_keeps (State.dropRoles_keeps (State.transitionEffects_keeps (Keeps.foldl (State.zeroise_keeps hs4) (fun _ _ hv => State.showSlot_keeps hv))))
      have hs6 : Keeps sI s6 := State.legal_keeps hs5
      have hs7 : Keeps sI s7 := State.owe_keeps hs6
      exact Keeps.ite (Keeps.mk hs7 rfl rfl) hs7

theorem State.holdCapture_keeps {sI s : State} (hk : Keeps sI s) :
    Keeps sI (State.holdCapture s) := by
  unfold State.holdCapture
  split
  · exact hk
  · exact State.legal_keeps (State.clr_keeps (State.clr_keeps (Keeps.mk (State.retWrite_keeps hk) rfl rfl)))

theorem State.holdAckWrite_keeps {sI s : State} (hk : Keeps sI s) :
    Keeps sI (State.holdAckWrite s) := by
  unfold State.holdAckWrite
  exact Keeps.ite (Keeps.mk hk rfl rfl) hk

theorem execHoldack_keeps {sI s : State} {src : Source} (hk : Keeps sI s) :
    KeepsO sI (execHoldack src s) := by
  unfold execHoldack
  exact KeepsO.next (Keeps.ite (State.holdAckWrite_keeps hk) hk)

theorem State.programDebug_keeps {s0 s : State} (h : Keeps s0 s) : Keeps s0 s.programDebug := by
  unfold State.programDebug
  refine Keeps.ite (State.showCells_keeps ⟨h.1, h.2.1, ?_⟩) (Keeps.ite (State.showCells_keeps ⟨h.1, h.2.1, ?_⟩) h)
  all_goals
    have hc := h.2.2
    unfold Cells.kept at hc ⊢
    simp_all

theorem execDbgen_keeps {sI s : State} {src : Source} (hk : Keeps sI s) :
    KeepsO sI (execDbgen src s) := by
  unfold execDbgen
  exact KeepsO.next (Keeps.ite (State.programDebug_keeps hk) hk)

theorem State.loadCopy_keeps {sI s : State} {copy : ℕ} (hk : Keeps sI s) :
    Keeps sI (State.loadCopy s copy) := by
  unfold State.loadCopy
  exact Keeps.mk (State.put_keeps (Keeps.foldl (State.showRecord_keeps hk) (fun _ _ ht => State.showSlot_keeps ht))) rfl rfl

theorem State.noRecord_keeps {sI s : State} (hk : Keeps sI s) :
    Keeps sI (State.noRecord s) := by
  unfold State.noRecord
  exact Keeps.ite hk (State.keyFault_keeps (State.set1_keeps hk))

theorem State.discardCopy_keeps {sI s : State} {b : List Byte} {older : Option ℕ} (hk : Keeps sI s) :
    Keeps sI (State.discardCopy s b older) := by
  unfold State.discardCopy
  extract_lets -merge -underBinder s1 s2
  have hs1 : Keeps sI s1 := State.logTrouble_keeps (State.set1_keeps hk)
  have hs2 : Keeps sI s2 := State.legal_keeps hs1
  split
  · exact State.loadCopy_keeps hs2
  · exact State.noRecord_keeps hs2

theorem State.recoverPair_keeps {sI s : State} {n : ℕ} {older : Option ℕ} (hk : Keeps sI s) :
    Keeps sI (State.recoverPair s n older) := by
  unfold State.recoverPair
  extract_lets -merge -underBinder b c oldEpoch s1 was src s1x2 done s2
  have hs1 : Keeps sI s1 := State.set1_keeps hk
  have hs1x2 : Keeps sI s1x2 := State.showCells_keeps (Keeps.mkCells hk rfl rfl rfl)
  have hs2 : Keeps sI s2 := State.transitionEffects_keeps (State.loadCopy_keeps (State.set1_keeps (State.nvmWrite_keeps hs1x2)))
  refine Keeps.ite ?_ ?_
  · exact State.loadCopy_keeps hk
  · refine Keeps.ite ?_ ?_
    · split
      · exact State.noRecord_keeps (State.keyFault_keeps hs1)
      · exact State.keyFault_keeps (Keeps.ite (State.wr_keeps (State.loadCopy_keeps hs1)) (State.loadCopy_keeps hs1))
    · exact Keeps.ite (State.legal_keeps hs2) (State.discardCopy_keeps hk)

theorem State.keyRecover_keeps {sI s0 : State} (hk : Keeps sI s0) :
    Keeps sI (State.keyRecover s0) := by
  unfold State.keyRecover
  extract_lets -merge -underBinder a b s older
  have hs : Keeps sI s := State.put_keeps hk
  split
  · exact Keeps.ite (State.recoverPair_keeps hs) (State.recoverPair_keeps hs)
  · exact State.recoverPair_keeps hs
  · exact State.recoverPair_keeps hs
  · exact State.noRecord_keeps hs

theorem State.checkRoots_keeps {sI s : State} {bad : List (Fin 3)} (hk : Keeps sI s) :
    Keeps sI (State.checkRoots s bad) := by
  unfold State.checkRoots
  exact Keeps.ite (State.keyFault_keeps (State.set1_keeps (State.set1_keeps (Keeps.mkCells hk rfl rfl rfl)))) (Keeps.mkCells hk rfl rfl rfl)

theorem State.decideDebug_keeps {sI s : State} (hk : Keeps sI s) :
    Keeps sI (State.decideDebug s) := by
  unfold State.decideDebug
  exact State.putB_keeps (State.showCells_keeps hk)

end Sys2Proof.Machine
end

