-- ==== Sys2Proof/Laws/KeepsRadio.lean ====
section
/-! SUPPORT. What the operations of Machine/Radio.lean keep (Laws/Keeps.lean), one lemma per operation. -/

namespace Sys2Proof.Machine

theorem State.showDuty_keeps {sI s : State} (hk : Keeps sI s) :
    Keeps sI (State.showDuty s) := by
  unfold State.showDuty
  exact State.put_keeps hk

theorem State.addAir_keeps {sI s : State} {us : ℕ} (hk : Keeps sI s) :
    Keeps sI (State.addAir s us) := by
  unfold State.addAir
  exact State.showDuty_keeps (Keeps.mk hk rfl rfl)

theorem State.passTo_keeps {sI s : State} {dt : ℕ} {t : ℕ} (hk : Keeps sI s) :
    Keeps sI (State.passTo s dt t) := by
  unfold State.passTo
  exact State.advance_keeps hk

theorem execDutyBinExpiry_keeps {sI s : State} {dt : ℕ} (hk : Keeps sI s) :
    KeepsO sI (execDutyBinExpiry dt s) := by
  unfold execDutyBinExpiry
  exact KeepsO.next (State.showDuty_keeps (Keeps.mk (State.passTo_keeps hk) rfl rfl))

theorem State.showRadio_keeps {sI s : State} {held : Bool} (hk : Keeps sI s) :
    Keeps sI (State.showRadio s held) := by
  unfold State.showRadio
  exact Keeps.ite (State.xo24Rest_keeps (State.put_keeps hk)) (State.put_keeps hk)

theorem State.showQueued_keeps {sI s : State} (hk : Keeps sI s) :
    Keeps sI (State.showQueued s) := by
  unfold State.showQueued
  exact State.put_keeps hk

theorem State.enqueue_keeps {sI s : State} {r : ℕ} {n : ℕ} {body : List Byte} (hk : Keeps sI s) :
    KeepsP sI (State.enqueue s r n body) := by
  unfold State.enqueue
  split
  · rename_i h s1 heq
    have hs1 : Keeps sI s1 := by
      have he := congrArg (fun p => p.2) heq
      dsimp only at he
      rw [← he]
      exact State.header_keeps hk
    exact KeepsP.pair (State.put_keeps (State.fill_keeps hs1))

theorem State.dequeue_keeps {sI s : State} {r : ℕ} {slot : ℕ} {n : ℕ} (hk : Keeps sI s) :
    Keeps sI (State.dequeue s r slot n) := by
  unfold State.dequeue
  exact State.consume_keeps hk

theorem execChannelSample_keeps {sI s : State} {dt : ℕ} {preamble : Bool} (hk : Keeps sI s) :
    KeepsO sI (execChannelSample dt preamble s) := by
  unfold execChannelSample
  split
  · exact KeepsO.next (State.advance_keeps hk)
  · exact KeepsO.ite (KeepsO.next (Keeps.ite (State.showRadio_keeps (Keeps.mk (Keeps.mk (State.passTo_keeps hk) rfl rfl) rfl rfl)) (Keeps.mk (State.passTo_keeps hk) rfl rfl))) (KeepsO.next (State.passTo_keeps hk))

theorem execSyncWaitLimit_keeps {sI s : State} {dt : ℕ} (hk : Keeps sI s) :
    KeepsO sI (execSyncWaitLimit dt s) := by
  unfold execSyncWaitLimit
  split
  · exact KeepsO.next (State.showRadio_keeps (Keeps.mk (State.advance_keeps hk) rfl rfl))
  · exact KeepsO.next (State.advance_keeps hk)

theorem execSyncWord_keeps {sI s : State} {dt : ℕ} (hk : Keeps sI s) :
    KeepsO sI (execSyncWord dt s) := by
  unfold execSyncWord
  exact KeepsO.next (Keeps.ite (State.showRadio_keeps (Keeps.mk (State.advance_keeps hk) rfl rfl)) (State.advance_keeps hk))

end Sys2Proof.Machine
end

