-- ==== Sys2Proof/Laws/KeepsLink.lean ====
section
/-! SUPPORT. What the operations of Machine/Link.lean keep (Laws/Keeps.lean), one lemma per operation. -/

namespace Sys2Proof.Machine

theorem State.reserveFc_keeps {sI s : State} {slot : ℕ} (hk : Keeps sI s) :
    Keeps sI (State.reserveFc s slot) := by
  unfold State.reserveFc
  exact Keeps.ite (Keeps.mk hk rfl rfl) hk

theorem State.reserveSeq_keeps {sI s : State} (hk : Keeps sI s) :
    Keeps sI (State.reserveSeq s) := by
  unfold State.reserveSeq
  exact Keeps.ite (Keeps.mk hk rfl rfl) hk

theorem State.takeFc_keeps {sI s : State} {slot : ℕ} (hk : Keeps sI s) :
    KeepsP sI (State.takeFc s slot) := by
  unfold State.takeFc
  exact KeepsP.pair (Keeps.ite (State.set1_keeps (State.reserveFc_keeps (State.put_keeps hk))) (State.reserveFc_keeps (State.put_keeps hk)))

theorem State.takeSeq_keeps {sI s : State} (hk : Keeps sI s) :
    KeepsP sI (State.takeSeq s) := by
  unfold State.takeSeq
  exact KeepsP.pair (State.reserveSeq_keeps (State.put_keeps hk))

theorem State.numberFrame_keeps {sI s : State} {f : TxFrame} (hk : Keeps sI s) :
    KeepsOptP sI (State.numberFrame s f) := by
  unfold State.numberFrame
  dsimp -zeta only
  extract_lets -merge -underBinder slot
  refine KeepsOptP.ite ?_ ?_
  · exact KeepsOptP.none
  · exact KeepsOptP.some (KeepsP.pair (State.clr_keeps (KeepsP.out (by
      refine KeepsP.ite ?_ ?_
      · split
        · exact KeepsP.pair (KeepsP.out (by
            split
            · exact KeepsP.pair hk
            · exact State.takeSeq_keeps hk))
        · exact KeepsP.pair (KeepsP.out (State.takeFc_keeps (KeepsP.out (by
            split
            · exact KeepsP.pair hk
            · exact State.takeSeq_keeps hk))))
      · exact KeepsP.pair (KeepsP.out (by
          split
          · exact KeepsP.pair hk
          · exact State.takeSeq_keeps hk))))))

theorem State.nextTelegram_keeps {sI s : State} (hk : Keeps sI s) :
    Keeps sI (State.nextTelegram s) := by
  unfold State.nextTelegram
  extract_lets -merge -underBinder i
  split
  · rename_i d s1 heq
    have hs1 : Keeps sI s1 := by
      have he := congrArg (fun p => p.2) heq
      dsimp only at he
      rw [← he]
      exact State.draw_keeps hk
    exact Keeps.mk hs1 rfl rfl

theorem State.dropHead_keeps {sI s : State} (hk : Keeps sI s) :
    Keeps sI (State.dropHead s) := by
  unfold State.dropHead
  split
  · exact hk
  · exact Keeps.ite (State.nextTelegram_keeps (State.showRadio_keeps (State.showQueued_keeps (State.dequeue_keeps (Keeps.mk hk rfl rfl))))) (State.showRadio_keeps (State.showQueued_keeps (State.dequeue_keeps (Keeps.mk hk rfl rfl))))

theorem State.planHead_keeps {sI s : State} (hk : Keeps sI s) :
    Keeps sI (State.planHead s) := by
  unfold State.planHead
  split
  · exact hk
  · refine Keeps.ite ?_ ?_
    · exact hk
    · split
      · exact Keeps.mk hk rfl rfl
      · exact hk
      · exact State.dropHead_keeps (State.bump_keeps hk)

theorem State.failAttempt_keeps {sI s : State} {m : Method} (hk : Keeps sI s) :
    Keeps sI (State.failAttempt s m) := by
  unfold State.failAttempt
  split
  · exact Keeps.mk hk rfl rfl
  · extract_lets -merge -underBinder isRv f1 src s1 s2
    have hs1 : Keeps sI s1 := Keeps.mk hk rfl rfl
    have hs2 : Keeps sI s2 := by
      dsimp -zeta only [s2]
      split
      · exact Keeps.ite (State.bump_keeps (State.clr_keeps hs1)) hs1
      · exact hs1
    exact Keeps.ite (State.dropHead_keeps (State.bump_keeps hs2)) (State.showRadio_keeps (State.planHead_keeps hs2))

theorem State.queueTx_keeps {sI s : State} {nb : Option ℕ} {kind : ℕ} {payload : List Byte} (hk : Keeps sI s) :
    KeepsOpt sI (State.queueTx s nb kind payload) := by
  unfold State.queueTx
  extract_lets -merge -underBinder f n
  refine KeepsOpt.ite ?_ ?_
  · split
    · rename_i slot s1 heq
      have hs1 : Keeps sI s1 := by
        have he := congrArg (fun p => p.2) heq
        dsimp only at he
        rw [← he]
        exact State.enqueue_keeps hk
      exact KeepsOpt.some (State.showQueued_keeps (Keeps.mk hs1 rfl rfl))
  · exact KeepsOpt.none

theorem execFrameQueued_keeps {sI s : State} {slot : ℕ} (hk : Keeps sI s) :
    KeepsO sI (execFrameQueued slot s) := by
  unfold execFrameQueued
  exact KeepsO.next (by
    split
    · exact Keeps.ite (State.planHead_keeps hk) hk
    · exact hk)

theorem State.beginTx_keeps {sI s : State} {f : TxFrame} {key : List ℕ} {m : Method} (hk : Keeps sI s) :
    Keeps sI (State.beginTx s f key m) := by
  unfold State.beginTx
  extract_lets -merge -underBinder now
  split
  · exact State.showRadio_keeps (State.showTx_keeps (State.bump_keeps (State.addAir_keeps (Keeps.mk hk rfl rfl))))

theorem State.startTx_keeps {sI s : State} {m : Method} {start : ℕ} {busy : ℕ} {rssi : ℤ} (hk : Keeps sI s) :
    Keeps sI (State.startTx s m start busy rssi) := by
  unfold State.startTx
  dsimp -zeta only
  split
  · exact hk
  · extract_lets -merge -underBinder now late src srcx2
    refine Keeps.ite ?_ ?_
    · exact hk
    · refine Keeps.ite ?_ ?_
      · exact hk
      · refine Keeps.ite ?_ ?_
        · exact State.planHead_keeps (Keeps.mk hk rfl rfl)
        · refine Keeps.ite ?_ ?_
          · exact State.showRadio_keeps hk
          · refine Keeps.ite ?_ ?_
            · exact State.showRadio_keeps hk
            · refine Keeps.ite ?_ ?_
              · exact Keeps.ite (State.failAttempt_keeps hk) (Keeps.mk (KeepsP.out (State.draw_keeps hk)) rfl rfl)
              · refine Keeps.ite ?_ ?_
                · exact State.beginTx_keeps hk
                · split
                  · exact KeepsP.out (KeepsP.ite (State.slotFor_keeps hk) (KeepsP.pair hk))
                  · split
                    · exact State.set1_keeps (KeepsP.out (KeepsP.ite (State.slotFor_keeps hk) (KeepsP.pair hk)))
                    · rename_i f1 s2 heq
                      have hs2 : Keeps sI s2 := (State.numberFrame_keeps (KeepsP.out (KeepsP.ite (State.slotFor_keeps hk) (KeepsP.pair hk)))) _ heq
                      exact State.beginTx_keeps hs2

theorem execTransmissionStart_keeps {sI s : State} {dt : ℕ} {rssi : ℤ} (hk : Keeps sI s) :
    KeepsO sI (execTransmissionStart dt rssi s) := by
  unfold execTransmissionStart
  split
  · exact KeepsO.next (State.startTx_keeps (State.passTo_keeps hk))
  · exact KeepsO.next (State.advance_keeps hk)

theorem execClearChannelRetry_keeps {sI s : State} {dt : ℕ} {rssi : ℤ} (hk : Keeps sI s) :
    KeepsO sI (execClearChannelRetry dt rssi s) := by
  unfold execClearChannelRetry
  split
  · exact KeepsO.ite (KeepsO.next (State.advance_keeps hk)) (KeepsO.next (State.startTx_keeps (State.passTo_keeps hk)))
  · exact KeepsO.next (State.advance_keeps hk)

theorem execTransmissionEnd_keeps {sI s : State} {dt : ℕ} (hk : Keeps sI s) :
    KeepsO sI (execTransmissionEnd dt s) := by
  unfold execTransmissionEnd
  split
  · extract_lets -merge -underBinder s1
    have hs1 : Keeps sI s1 := State.showTx_keeps (State.passTo_keeps hk)
    split
    · exact KeepsO.ite (KeepsO.next (State.showRadio_keeps (Keeps.mk hs1 rfl rfl))) (KeepsO.ite (KeepsO.next (State.dropHead_keeps (Keeps.mk hs1 rfl rfl))) (KeepsO.next (State.dropHead_keeps hs1)))
    · exact KeepsO.next (State.showRadio_keeps (Keeps.mk hs1 rfl rfl))
  · exact KeepsO.next (State.advance_keeps hk)

theorem State.stopTx_keeps {sI s : State} (hk : Keeps sI s) :
    Keeps sI (State.stopTx s) := by
  unfold State.stopTx
  split
  · extract_lets -merge -underBinder cut bins cutRun runs src s1
    have hs1 : Keeps sI s1 := State.showDuty_keeps (Keeps.mk hk rfl rfl)
    exact State.showRadio_keeps (State.planHead_keeps (State.showTx_keeps hs1))
  · exact hk

theorem execAckTimeout_keeps {sI s : State} {dt : ℕ} (hk : Keeps sI s) :
    KeepsO sI (execAckTimeout dt s) := by
  unfold execAckTimeout
  split
  · exact KeepsO.next (Keeps.ite (State.passTo_keeps hk) (State.failAttempt_keeps (State.passTo_keeps hk)))
  · exact KeepsO.next (State.advance_keeps hk)

theorem execBusyRetry_keeps {sI s : State} {dt : ℕ} (hk : Keeps sI s) :
    KeepsO sI (execBusyRetry dt s) := by
  unfold execBusyRetry
  split
  · exact KeepsO.next (State.planHead_keeps (State.passTo_keeps hk))
  · exact KeepsO.next (State.advance_keeps hk)

theorem State.learn_keeps {sI s : State} {n : ℕ} {samp : ℕ} (hk : Keeps sI s) :
    Keeps sI (State.learn s n samp) := by
  unfold State.learn
  exact Keeps.ite hk (State.put_keeps (State.set1_keeps (State.put_keeps (State.put_keeps (Keeps.ite (State.set1_keeps (State.putI_keeps hk)) hk)))))

theorem State.learnFrom_keeps {sI s : State} {n : ℕ} {f : Frame} (hk : Keeps sI s) :
    Keeps sI (State.learnFrom s n f) := by
  unfold State.learnFrom
  split
  · exact State.learn_keeps hk
  · exact hk

theorem State.acceptNew_keeps {sI s : State} {n : ℕ} {f : Frame} {payload : List ℕ} {len : ℕ} (hk : Keeps sI s) :
    Keeps sI (State.acceptNew s n f payload len) := by
  unfold State.acceptNew
  extract_lets -merge -underBinder k ack st s1 s2
  have hack : ∀ s st, Keeps sI s → Keeps sI (ack s st) := by
    intro s st hs
    dsimp -zeta only [ack]
    exact Keeps.ite (Keeps.mk hs rfl rfl) hs
  have hs1 : Keeps sI s1 := State.put_keeps (State.set1_keeps (State.put_keeps hk))
  have hs2 : Keeps sI s2 := Keeps.ite (State.put_keeps hs1) hs1
  refine Keeps.ite ?_ ?_
  · split
    · rename_i slot s3 heq
      have hs3 : Keeps sI s3 := by
        have he := congrArg (fun p => p.2) heq
        dsimp only at he
        rw [← he]
        exact State.enqueue_keeps hs2
      exact hack _ _ (State.ready_keeps (State.learnFrom_keeps (Keeps.mk (Keeps.ite (State.commitDue_keeps (Keeps.mk hs3 rfl rfl)) (Keeps.mk hs3 rfl rfl)) rfl rfl)))
  · exact hack _ _ (State.bump_keeps hk)

theorem State.dataFrame_keeps {sI s : State} {n : ℕ} {f : Frame} {payload : List ℕ} {len : ℕ} (hk : Keeps sI s) :
    Keeps sI (State.dataFrame s n f payload len) := by
  unfold State.dataFrame
  exact Keeps.ite (State.acceptNew_keeps hk) (Keeps.ite (Keeps.ite (Keeps.mk (State.bump_keeps hk) rfl rfl) (State.bump_keeps hk)) (Keeps.ite (State.bump_keeps hk) (State.acceptNew_keeps hk)))

theorem State.ackFrame_keeps {sI s : State} {n : ℕ} {f : Frame} {payload : List ℕ} (hk : Keeps sI s) :
    Keeps sI (State.ackFrame s n f payload) := by
  unfold State.ackFrame
  split
  · refine Keeps.ite ?_ ?_
    · extract_lets -merge -underBinder src s0 s1 h1 srcx2 s2
      have hs0 : Keeps sI s0 := Keeps.mk hk rfl rfl
      have hs1 : Keeps sI s1 := State.learnFrom_keeps (State.put_keeps hs0)
      have hs2 : Keeps sI s2 := Keeps.mk hs1 rfl rfl
      exact Keeps.ite (Keeps.ite (State.dropHead_keeps (State.bump_keeps hs2)) hs2) (Keeps.ite (State.dropHead_keeps hs1) hs1)
    · exact hk
  · exact hk

theorem State.joinAccept_keeps {sI s : State} {f : Frame} {payload : List ℕ} (hk : Keeps sI s) :
    Keeps sI (State.joinAccept s f payload) := by
  unfold State.joinAccept
  split
  · exact hk
  · exact Keeps.ite (Keeps.mk (State.stageField_keeps (State.stageField_keeps (State.stageField_keeps (State.stageField_keeps (State.stageField_keeps (State.stageField_keeps hk)))))) rfl rfl) hk

theorem State.checkFrame_keeps {sI s : State} {f : Frame} {hi : ℕ} {rest : List ℕ} {len : ℕ} (hk : Keeps sI s) :
    Keeps sI (State.checkFrame s f hi rest len) := by
  unfold State.checkFrame
  extract_lets -merge -underBinder own joining
  refine Keeps.ite ?_ ?_
  · exact hk
  · refine Keeps.ite ?_ ?_
    · refine Keeps.ite ?_ ?_
      · exact hk
      · split
        · rename_i key s1 heq
          have hs1 : Keeps sI s1 := by
            have he := congrArg (fun p => p.2) heq
            dsimp only at he
            rw [← he]
            exact State.slotFor_keeps hk
          split
          · exact State.bump_keeps hs1
          · exact State.joinAccept_keeps hs1
    · split
      · exact hk
      · refine Keeps.ite ?_ ?_
        · exact Keeps.ite (State.dataFrame_keeps hk) hk
        · split
          · rename_i key s1 heq
            have hs1 : Keeps sI s1 := by
              have he := congrArg (fun p => p.2) heq
              dsimp only at he
              rw [← he]
              exact State.slotFor_keeps hk
            split
            · exact State.bump_keeps hs1
            · exact Keeps.ite (State.dataFrame_keeps hs1) (Keeps.ite (State.ackFrame_keeps hs1) hs1)

theorem execFrameReceived_keeps {sI s : State} {dt : ℕ} {f : RxFrame} (hk : Keeps sI s) :
    KeepsO sI (execFrameReceived dt f s) := by
  unfold execFrameReceived
  extract_lets -merge -underBinder s1 src s2
  have hs1 : Keeps sI s1 := State.advance_keeps hk
  have hs2 : Keeps sI s2 := State.putI_keeps (Keeps.mk hs1 rfl rfl)
  refine KeepsO.ite ?_ ?_
  · split
    · exact KeepsO.next (State.showRadio_keeps hs2)
    · exact KeepsO.next (State.showRadio_keeps (State.checkFrame_keeps (State.bump_keeps hs2)))
  · exact KeepsO.next hs1

theorem execAcknowledgement_keeps {sI s : State} {dt : ℕ} (hk : Keeps sI s) :
    KeepsO sI (execAcknowledgement dt s) := by
  unfold execAcknowledgement
  split
  · exact KeepsO.next (State.advance_keeps hk)
  · extract_lets -merge -underBinder s1 src s2 now air slot
    have hs1 : Keeps sI s1 := State.passTo_keeps hk
    have hs2 : Keeps sI s2 := Keeps.mk hs1 rfl rfl
    split
    · rename_i key s3 heq
      have hs3 : Keeps sI s3 := by
        have he := congrArg (fun p => p.2) heq
        dsimp only at he
        rw [← he]
        exact State.slotFor_keeps hs2
      split
      · exact KeepsO.next (State.showRadio_keeps hs3)
      · refine KeepsO.ite ?_ ?_
        · exact KeepsO.next (State.showRadio_keeps hs3)
        · split
          · rename_i c s4 heq
            have hs4 : Keeps sI s4 := by
              have he := congrArg (fun p => p.2) heq
              dsimp only at he
              rw [← he]
              exact State.takeFc_keeps hs3
            exact KeepsO.next (State.showRadio_keeps (State.advance_keeps (State.bump_keeps (State.addAir_keeps (Keeps.mk hs4 rfl rfl)))))

theorem execJoin_keeps {sI s : State} {dt : ℕ} (hk : Keeps sI s) :
    KeepsO sI (execJoin dt s) := by
  unfold execJoin
  extract_lets -merge -underBinder s1 src s2 code
  have hs1 : Keeps sI s1 := by
    dsimp -zeta only [s1]
    split
    · exact State.passTo_keeps hk
    · exact State.advance_keeps hk
  have hs2 : Keeps sI s2 := Keeps.mk hs1 rfl rfl
  exact KeepsO.ite (KeepsO.next (KeepsOpt.getD (State.queueTx_keeps hs2) hs2)) (KeepsO.next hs1)

theorem State.nbChange_keeps {sI s : State} {old : State} {n : ℕ} (hk : Keeps sI s) :
    Keeps sI (State.nbChange s old n) := by
  unfold State.nbChange
  exact Keeps.ite hk (State.wr_keeps (State.wr_keeps (State.wr_keeps (State.clr_keeps (State.clr_keeps (State.clr_keeps hk))))))

theorem State.armSampling_keeps {sI s : State} (hk : Keeps sI s) :
    Keeps sI (State.armSampling s) := by
  unfold State.armSampling
  split
  · rename_i d s1 heq
    have hs1 : Keeps sI s1 := by
      have he := congrArg (fun p => p.2) heq
      dsimp only at he
      rw [← he]
      exact State.draw_keeps hk
    exact Keeps.mk hs1 rfl rfl

theorem State.linkTimers_keeps {sI s : State} {old : State} (hk : Keeps sI s) :
    Keeps sI (State.linkTimers s old) := by
  unfold State.linkTimers
  extract_lets -merge -underBinder src s1 srcx2 srcx3 s2 srcx4
  have hs1 : Keeps sI s1 := Keeps.ite (Keeps.mk hk rfl rfl) (Keeps.ite (State.armSampling_keeps hk) hk)
  have hs2 : Keeps sI s2 := Keeps.ite (Keeps.mk hs1 rfl rfl) (Keeps.ite (Keeps.mk hs1 rfl rfl) hs1)
  exact Keeps.ite (Keeps.mk hs2 rfl rfl) (Keeps.ite (State.nextTelegram_keeps hs2) hs2)

theorem State.linkCapture_keeps {sI s : State} {old : State} (hk : Keeps sI s) :
    Keeps sI (State.linkCapture s old) := by
  unfold State.linkCapture
  exact State.linkTimers_keeps (State.putB_keeps (by
    split
    · exact Keeps.mk (State.put_keeps (Keeps.foldl hk (fun _ _ ht => State.nbChange_keeps ht))) rfl rfl
    · exact Keeps.foldl hk (fun _ _ ht => State.nbChange_keeps ht)))

theorem State.frameOut_keeps {s0 s : State} {k : Nat} (h : Keeps s0 s) : Keeps s0 (State.frameOut k s) := by
  induction k generalizing s with
  | zero => exact h
  | succ k ih =>
    unfold State.frameOut
    split
    · exact h
    · split
      · exact h
      · rename_i s1 heq
        exact ih (Keeps.mk (State.queueTx_keeps h s1 heq) rfl rfl)

theorem State.radioTask_keeps {sI s : State} (hk : Keeps sI s) :
    Keeps sI (State.radioTask s) := by
  unfold State.radioTask
  exact Keeps.ite hk (Keeps.ite (State.planHead_keeps (State.frameOut_keeps hk)) (State.frameOut_keeps hk))

end Sys2Proof.Machine
end

