-- ==== Sys2Proof/Laws/KeepsBilling.lean ====
section
/-! SUPPORT. What the operations of Machine/Billing.lean keep (Laws/Keeps.lean), one lemma per operation. -/

namespace Sys2Proof.Machine

theorem State.addReg_keeps {sI s : State} {x : ℕ} {n : ℕ} {v : ℕ} (hk : Keeps sI s) :
    Keeps sI (State.addReg s x n v) := by
  unfold State.addReg
  exact Keeps.ite hk (State.wr_keeps (State.wr_keeps (State.wr_keeps hk)))

theorem State.setInterval_keeps {sI s : State} {x : ℕ} {i : OpenInterval} (hk : Keeps sI s) :
    Keeps sI (State.setInterval s x i) := by
  unfold State.setInterval
  exact Keeps.ite (Keeps.mk hk rfl rfl) (Keeps.mk hk rfl rfl)

theorem State.closeOne_keeps {sI s : State} {b : ℕ} {start : ℕ} {x : ℕ} (hk : Keeps sI s) :
    Keeps sI (State.closeOne s b start x) := by
  unfold State.closeOne
  extract_lets -merge -underBinder i elig dem s1 s2 s3
  have hs1 : Keeps sI s1 := Keeps.foldl hk (fun _ _ ht => Keeps.ite (State.put_keeps (State.put_keeps (State.put_keeps ht))) (State.put_keeps ht))
  have hs2 : Keeps sI s2 := State.put_keeps (State.put_keeps hs1)
  have hs3 : Keeps sI s3 := State.wr_keeps hs2
  exact State.setInterval_keeps hs3

theorem State.closeInterval_keeps {sI s : State} {b : ℕ} {start : ℕ} (hk : Keeps sI s) :
    Keeps sI (State.closeInterval s b start) := by
  unfold State.closeInterval
  exact State.commitDue_keeps (State.closeOne_keeps (State.closeOne_keeps hk))

theorem State.mapIntervals_keeps {sI s : State} {f : OpenInterval → OpenInterval} (hk : Keeps sI s) :
    Keeps sI (State.mapIntervals s f) := by
  unfold State.mapIntervals
  exact State.setInterval_keeps (State.setInterval_keeps hk)

theorem State.fireDemand_keeps {sI s : State} {b : ℕ} (hk : Keeps sI s) :
    Keeps sI (State.fireDemand s b) := by
  unfold State.fireDemand
  exact State.put_keeps (State.closeInterval_keeps hk)

theorem State.takeSnapshot_keeps {sI s : State} {b : ℕ} {flags : ℕ} {x : ℕ} (hk : Keeps sI s) :
    Keeps sI (State.takeSnapshot s b flags x) := by
  unfold State.takeSnapshot
  exact Keeps.mk hk rfl rfl

theorem State.closePeriod_keeps {sI s : State} {b : ℕ} {flags : ℕ} {keep : Bool} (hk : Keeps sI s) :
    Keeps sI (State.closePeriod s b flags keep) := by
  unfold State.closePeriod
  extract_lets -merge -underBinder src srcx2 s1 s2 s3 s4 srcx3 srcx4
  have hs1 : Keeps sI s1 := Keeps.mk hk rfl rfl
  have hs2 : Keeps sI s2 := State.put_keeps hs1
  have hs3 : Keeps sI s3 := Keeps.ite (State.takeSnapshot_keeps (State.takeSnapshot_keeps hs2)) hs2
  have hs4 : Keeps sI s4 := Keeps.foldl hs3 (fun _ _ ht => Keeps.foldl ht (fun _ _ hu => State.clr_keeps (State.clr_keeps hu)))
  exact State.commitDue_keeps (Keeps.mk hs4 rfl rfl)

theorem State.firePeriod_keeps {sI s : State} {b : ℕ} {flags : ℕ} {keep : Bool} (hk : Keeps sI s) :
    Keeps sI (State.firePeriod s b flags keep) := by
  unfold State.firePeriod
  exact State.put_keeps (State.closePeriod_keeps hk)

theorem State.fireUpTo_keeps {s0 s : State} {t flags k : Nat} (h : Keeps s0 s) : Keeps s0 (s.fireUpTo t flags k) := by
  induction k generalizing s with
  | zero => exact h
  | succ k ih => exact Keeps.ite (ih (State.fireDemand_keeps h)) (Keeps.ite (ih (State.firePeriod_keeps h)) h)

theorem State.firePeriods_keeps {sI s : State} {t : ℕ} {flags : ℕ} (hk : Keeps sI s) :
    Keeps sI (State.firePeriods s t flags) := by
  unfold State.firePeriods
  exact Keeps.foldl hk (fun _ _ hu => State.firePeriod_keeps hu)

theorem State.splitInterval_keeps {sI s : State} {old : ℕ} {frac : ℕ} {new : ℕ} (hk : Keeps sI s) :
    Keeps sI (State.splitInterval s old frac new) := by
  unfold State.splitInterval
  exact Keeps.ite (State.put_keeps (State.mapIntervals_keeps (State.firePeriods_keeps (State.mapIntervals_keeps (State.closeInterval_keeps (State.mapIntervals_keeps hk)))))) (State.mapIntervals_keeps (State.closeInterval_keeps (State.mapIntervals_keeps hk)))

theorem State.handleStep_keeps {sI s : State} (hk : Keeps sI s) :
    Keeps sI (State.handleStep s) := by
  unfold State.handleStep
  split
  · exact hk
  · extract_lets -merge -underBinder l total new src s0 s1 srcx2 s1x2 s2
    have hs0 : Keeps sI s0 := Keeps.mk hk rfl rfl
    have hs1 : Keeps sI s1 := State.mapIntervals_keeps (State.commitDue_keeps (State.legalAt_keeps hs0))
    have hs1x2 : Keeps sI s1x2 := State.fireUpTo_keeps hs0
    have hs2 : Keeps sI s2 := State.set1_keeps (State.legalAt_keeps hs1x2)
    exact Keeps.ite (Keeps.mk hs1 rfl rfl) (Keeps.ite (State.bump_keeps hs1x2) (State.splitInterval_keeps (State.commitDue_keeps (State.bump_keeps hs2))))

theorem State.initRecords_keeps {sI s : State} {t : ℕ} (hk : Keeps sI s) :
    Keeps sI (State.initRecords s t) := by
  unfold State.initRecords
  exact Keeps.ite (State.put_keeps (Keeps.ite (State.mapIntervals_keeps (State.put_keeps hk)) hk)) (Keeps.ite (State.mapIntervals_keeps (State.put_keeps hk)) hk)

theorem State.catchFlags_keeps {sI s : State} (hk : Keeps sI s) :
    Keeps sI (State.catchFlags s) := by
  unfold State.catchFlags
  exact Keeps.ite (State.mapIntervals_keeps hk) hk

theorem State.catchUp_keeps {sI s : State} {t : ℕ} (hk : Keeps sI s) :
    Keeps sI (State.catchUp s t) := by
  unfold State.catchUp
  extract_lets -merge -underBinder s0 i d p dl s1 s2 s3 src
  have hs0 : Keeps sI s0 := State.catchFlags_keeps (State.initRecords_keeps hk)
  have hs1 : Keeps sI s1 := Keeps.ite (State.put_keeps (State.mapIntervals_keeps (State.closeInterval_keeps hs0))) hs0
  have hs2 : Keeps sI s2 := State.firePeriods_keeps hs1
  have hs3 : Keeps sI s3 := Keeps.ite (State.commitDue_keeps (State.set1_keeps hs2)) hs2
  exact Keeps.mk hs3 rfl rfl

theorem State.boundaries_keeps {sI s : State} {t : ℕ} (hk : Keeps sI s) :
    Keeps sI (State.boundaries s t) := by
  unfold State.boundaries
  exact Keeps.ite (State.clr_keeps (State.closePeriod_keeps (Keeps.ite (State.catchUp_keeps hk) (State.fireUpTo_keeps hk)))) (Keeps.ite (State.catchUp_keeps hk) (State.fireUpTo_keeps hk))

theorem State.tariffStep_keeps {sI s : State} {t : ℕ} (hk : Keeps sI s) :
    Keeps sI (State.tariffStep s t) := by
  unfold State.tariffStep
  split
  · exact Keeps.ite (State.wr_keeps hk) (State.commitDue_keeps (State.bump_keeps (State.put_keeps (State.put_keeps (State.wr_keeps hk)))))

theorem State.accrueForward_keeps {sI s : State} {x : ℕ} {m : MpQty} {q : ℕ} (hk : Keeps sI s) :
    Keeps sI (State.accrueForward s x m q) := by
  unfold State.accrueForward
  exact State.addReg_keeps (State.addReg_keeps hk)

theorem State.accrue_keeps {sI s : State} {x : ℕ} (hk : Keeps sI s) :
    Keeps sI (State.accrue s x) := by
  unfold State.accrue
  split
  · exact hk
  · extract_lets -merge -underBinder s1 s2 s3 i dem
    have hs1 : Keeps sI s1 := Keeps.foldl hk (fun _ _ ht => State.accrueForward_keeps ht)
    have hs2 : Keeps sI s2 := State.addReg_keeps (State.addReg_keeps (State.addReg_keeps (State.addReg_keeps hs1)))
    have hs3 : Keeps sI s3 := Keeps.foldl (State.addReg_keeps hs2) (fun _ _ ht => Keeps.ite (State.addReg_keeps ht) ht)
    exact State.setInterval_keeps hs3

theorem State.billSteps_keeps {sI s : State} (hk : Keeps sI s) :
    Keeps sI (State.billSteps s) := by
  unfold State.billSteps
  extract_lets -merge -underBinder t s1 s2 s3 s4
  have hs1 : Keeps sI s1 := State.handleStep_keeps hk
  have hs2 : Keeps sI s2 := Keeps.ite (State.mapIntervals_keeps hs1) (State.tariffStep_keeps (State.boundaries_keeps hs1))
  have hs3 : Keeps sI s3 := State.accrue_keeps (State.accrue_keeps hs2)
  have hs4 : Keeps sI s4 := Keeps.ite hs3 (State.commitDue_keeps hs3)
  exact State.putB_keeps hs4

theorem State.emergencyClosures_keeps {sI s : State} (hk : Keeps sI s) :
    Keeps sI (State.emergencyClosures s) := by
  unfold State.emergencyClosures
  exact Keeps.ite hk (Keeps.ite (State.handleStep_keeps (Keeps.mk hk rfl rfl)) (State.tariffStep_keeps (State.fireUpTo_keeps (State.handleStep_keeps (Keeps.mk hk rfl rfl)))))

theorem State.closeRequest_keeps {sI s : State} (hk : Keeps sI s) :
    Keeps sI (State.closeRequest s) := by
  unfold State.closeRequest
  exact State.set1_keeps hk

end Sys2Proof.Machine
end

