-- ==== Sys2Proof/Laws/KeepsPay.lean ====
section
/-! SUPPORT. What the operations of Machine/Pay.lean keep (Laws/Keeps.lean), one lemma per operation. -/

namespace Sys2Proof.Machine

theorem State.setCredit_keeps {sI s : State} {c : ℤ} (hk : Keeps sI s) :
    Keeps sI (State.setCredit s c) := by
  unfold State.setCredit
  exact State.putB_keeps (State.wr_keeps (State.wr_keeps hk))

theorem State.unitOfCredit_keeps {sI s : State} (hk : Keeps sI s) :
    Keeps sI (State.unitOfCredit s) := by
  unfold State.unitOfCredit
  exact Keeps.ite (State.put_keeps hk) hk

theorem State.chargeTick_keeps {sI s : State} (hk : Keeps sI s) :
    Keeps sI (State.chargeTick s) := by
  unfold State.chargeTick
  exact Keeps.ite hk (Keeps.ite (Keeps.mk hk rfl rfl) (State.setCredit_keeps (Keeps.mk hk rfl rfl)))

theorem State.wantOpen_keeps {sI s : State} (hk : Keeps sI s) :
    Keeps sI (State.wantOpen s) := by
  unfold State.wantOpen
  exact Keeps.mk hk rfl rfl

theorem State.wantClose_keeps {sI s : State} (hk : Keeps sI s) :
    Keeps sI (State.wantClose s) := by
  unfold State.wantClose
  exact Keeps.mk hk rfl rfl

theorem State.setPay_keeps {sI s : State} {v : ℕ} (hk : Keeps sI s) :
    Keeps sI (State.setPay s v) := by
  unfold State.setPay
  exact Keeps.ite hk (Keeps.ite (State.wantClose_keeps (State.commitDue_keeps (State.put_keeps hk))) (State.commitDue_keeps (State.put_keeps hk)))

theorem State.creditReturns_keeps {sI s : State} (hk : Keeps sI s) :
    Keeps sI (State.creditReturns s) := by
  unfold State.creditReturns
  exact Keeps.ite (State.setPay_keeps hk) (State.wantOpen_keeps (State.setPay_keeps hk))

theorem State.payState_keeps {sI s : State} (hk : Keeps sI s) :
    Keeps sI (State.payState s) := by
  unfold State.payState
  exact Keeps.ite (State.setPay_keeps hk) (Keeps.ite (State.creditReturns_keeps hk) (Keeps.ite hk (State.setPay_keeps hk)))

theorem State.payTick_keeps {sI s : State} (hk : Keeps sI s) :
    Keeps sI (State.payTick s) := by
  unfold State.payTick
  exact State.payState_keeps (State.unitOfCredit_keeps (State.chargeTick_keeps hk))

theorem State.endLockout_keeps {sI s : State} (hk : Keeps sI s) :
    Keeps sI (State.endLockout s) := by
  unfold State.endLockout
  exact State.commitDue_keeps (Keeps.mk (State.clr_keeps (State.clr_keeps hk)) rfl rfl)

theorem State.checkLockout_keeps {sI s : State} (hk : Keeps sI s) :
    Keeps sI (State.checkLockout s) := by
  unfold State.checkLockout
  split
  · exact hk
  · exact Keeps.ite (State.endLockout_keeps hk) hk

theorem execTokenLockoutExpiry_keeps {sI s : State} (hk : Keeps sI s) :
    KeepsO sI (execTokenLockoutExpiry s) := by
  unfold execTokenLockoutExpiry
  exact KeepsO.next (Keeps.ite (State.checkLockout_keeps hk) hk)

theorem State.tokenLast_keeps {sI s : State} {result : ℕ} {cls : Option ℕ} {id : Option ℕ} (hk : Keeps sI s) :
    Keeps sI (State.tokenLast s result cls id) := by
  unfold State.tokenLast
  exact State.wr_keeps hk

theorem State.tokenReject_keeps {sI s : State} (hk : Keeps sI s) :
    Keeps sI (State.tokenReject s) := by
  unfold State.tokenReject
  exact Keeps.ite (State.put_keeps (State.commitDue_keeps (State.bump_keeps hk))) (Keeps.mk (State.set1_keeps (State.put_keeps (State.commitDue_keeps (State.bump_keeps hk)))) rfl rfl)

theorem State.setTokenMap_keeps {sI s : State} {m : ℕ} (hk : Keeps sI s) :
    Keeps sI (State.setTokenMap s m) := by
  unfold State.setTokenMap
  exact State.wr_keeps (State.wr_keeps hk)

theorem State.acceptId_keeps {sI s : State} {id : ℕ} (hk : Keeps sI s) :
    Keeps sI (State.acceptId s id) := by
  unfold State.acceptId
  exact Keeps.ite (State.put_keeps (State.setTokenMap_keeps hk)) (State.setTokenMap_keeps hk)

theorem State.applyToken_keeps {sI s : State} {p : ℕ} {t : ℕ × Option ℕ × Option ℕ} (hk : Keeps sI s) :
    KeepsP sI (State.applyToken s p t) := by
  unfold State.applyToken
  exact KeepsP.ite (KeepsP.pair (State.tokenReject_keeps (State.tokenLast_keeps hk))) (KeepsP.pair (State.commitDue_keeps (State.unitOfCredit_keeps (State.clr_keeps (State.bump_keeps (State.acceptId_keeps (State.setCredit_keeps (State.tokenLast_keeps hk))))))))

theorem State.keyedToken_keeps {sI : State} {digits : List ℕ} {x : Option (List ℕ) × State} (hk : KeepsP sI x) :
    KeepsP sI (State.keyedToken digits x) := by
  unfold State.keyedToken
  split
  · exact KeepsP.pair (State.tokenLast_keeps (KeepsP.out hk))
  · exact KeepsP.ite (KeepsP.pair (State.tokenLast_keeps (KeepsP.out hk))) (State.applyToken_keeps (KeepsP.out hk))

theorem State.evalToken_keeps {sI s : State} {digits : List ℕ} (hk : Keeps sI s) :
    KeepsP sI (State.evalToken s digits) := by
  unfold State.evalToken
  exact KeepsP.ite (KeepsP.pair (State.tokenLast_keeps (State.checkLockout_keeps hk))) (KeepsP.ite (KeepsP.pair (State.tokenLast_keeps (State.checkLockout_keeps hk))) (State.keyedToken_keeps (State.slotFor_keeps (State.checkLockout_keeps hk))))

theorem State.resumeLockout_keeps {sI s : State} (hk : Keeps sI s) :
    Keeps sI (State.resumeLockout s) := by
  unfold State.resumeLockout
  split
  · exact hk
  · exact Keeps.ite (Keeps.mk hk rfl rfl) (State.checkLockout_keeps hk)

theorem State.setAct_keeps {sI s : State} {v : ℕ} (hk : Keeps sI s) :
    Keeps sI (State.setAct s v) := by
  unfold State.setAct
  exact Keeps.ite hk (State.commitDue_keeps (State.put_keeps hk))

theorem State.endHeld_keeps {sI s : State} (hk : Keeps sI s) :
    Keeps sI (State.endHeld s) := by
  unfold State.endHeld
  exact Keeps.ite (State.commitDue_keeps (State.clr_keeps hk)) hk

theorem State.remoteClose_keeps {sI s : State} (hk : Keeps sI s) :
    Keeps sI (State.remoteClose s) := by
  unfold State.remoteClose
  exact State.wantClose_keeps (State.commitDue_keeps (State.set1_keeps hk))

theorem State.remoteOpen_keeps {sI s : State} (hk : Keeps sI s) :
    KeepsP sI (State.remoteOpen s) := by
  unfold State.remoteOpen
  refine KeepsP.ite ?_ ?_
  · exact KeepsP.pair hk
  · extract_lets -merge -underBinder s1
    have hs1 : Keeps sI s1 := State.commitDue_keeps (State.clr_keeps (State.endHeld_keeps hk))
    exact KeepsP.ite (KeepsP.pair (State.wantOpen_keeps hs1)) (KeepsP.ite (KeepsP.pair hs1) (KeepsP.pair (State.creditReturns_keeps hs1)))

theorem State.keypadOpen_keeps {sI s : State} (hk : Keeps sI s) :
    Keeps sI (State.keypadOpen s) := by
  unfold State.keypadOpen
  exact Keeps.ite (Keeps.ite hk (State.wantOpen_keeps (State.endHeld_keeps hk))) (Keeps.ite (State.wantOpen_keeps hk) hk)

theorem State.startDrive_keeps {sI s : State} {closing : Bool} {attempt : ℕ} (hk : Keeps sI s) :
    Keeps sI (State.startDrive s closing attempt) := by
  unfold State.startDrive
  exact State.stopTx_keeps (State.enterPower_keeps (State.setAct_keeps (Keeps.mk hk rfl rfl)))

theorem execActuatorDrive_keeps {sI s : State} (hk : Keeps sI s) :
    KeepsO sI (execActuatorDrive s) := by
  unfold execActuatorDrive
  split
  · exact KeepsO.next hk
  · exact KeepsO.ite (KeepsO.next hk) (KeepsO.next (State.startDrive_keeps hk))

theorem State.endDrive_keeps {sI s : State} (hk : Keeps sI s) :
    Keeps sI (State.endDrive s) := by
  unfold State.endDrive
  exact State.settlePower_keeps (Keeps.mk hk rfl rfl)

theorem State.stopBridge_keeps {sI s : State} (hk : Keeps sI s) :
    Keeps sI (State.stopBridge s) := by
  unfold State.stopBridge
  exact State.settlePower_keeps (Keeps.mk hk rfl rfl)

theorem execDriveCurrentCheck_keeps {sI s : State} {dt : ℕ} {milliAmp : ℕ} (hk : Keeps sI s) :
    KeepsO sI (execDriveCurrentCheck dt milliAmp s) := by
  unfold execDriveCurrentCheck
  extract_lets -merge -underBinder s1
  have hs1 : Keeps sI s1 := State.advance_keeps hk
  split
  · exact KeepsO.next hs1
  · exact KeepsO.ite (KeepsO.next (State.detect_keeps (State.setAct_keeps (State.endDrive_keeps hs1)))) (KeepsO.next hs1)

theorem execDrivePulseExpiry_keeps {sI s : State} {dt : ℕ} (hk : Keeps sI s) :
    KeepsO sI (execDrivePulseExpiry dt s) := by
  unfold execDrivePulseExpiry
  split
  · exact KeepsO.next (State.advance_keeps hk)
  · exact KeepsO.ite (KeepsO.next (State.stopBridge_keeps (State.passTo_keeps hk))) (KeepsO.next (State.advance_keeps hk))

theorem execActuatorTimeout_keeps {sI s : State} {dt : ℕ} (hk : Keeps sI s) :
    KeepsO sI (execActuatorTimeout dt s) := by
  unfold execActuatorTimeout
  split
  · exact KeepsO.next (State.advance_keeps hk)
  · exact KeepsO.ite (KeepsO.next (State.passTo_keeps hk)) (KeepsO.ite (KeepsO.next (State.startDrive_keeps (State.logTrouble_keeps (State.passTo_keeps hk)))) (KeepsO.next (State.detect_keeps (State.setAct_keeps (State.endDrive_keeps (State.passTo_keeps hk))))))

theorem State.showFeedback_keeps {sI s : State} (hk : Keeps sI s) :
    Keeps sI (State.showFeedback s) := by
  unfold State.showFeedback
  exact State.putB_keeps (State.putB_keeps hk)

theorem State.stopDrive_keeps {sI s : State} (hk : Keeps sI s) :
    Keeps sI (State.stopDrive s) := by
  unfold State.stopDrive
  exact Keeps.ite (State.setAct_keeps (State.endDrive_keeps hk)) hk

theorem State.confirmEnd_keeps {sI s : State} {closed : Bool} (hk : Keeps sI s) :
    Keeps sI (State.confirmEnd s closed) := by
  unfold State.confirmEnd
  exact Keeps.mk (State.setAct_keeps (State.endDrive_keeps hk)) rfl rfl

theorem State.feedbackAccept_keeps {sI s : State} (hk : Keeps sI s) :
    Keeps sI (State.feedbackAccept s) := by
  unfold State.feedbackAccept
  extract_lets -merge -underBinder o c s1
  have hs1 : Keeps sI s1 := State.wakeCore_keeps (State.showFeedback_keeps hk)
  refine Keeps.ite ?_ ?_
  · exact hs1
  · split
    · exact Keeps.ite (State.detect_keeps (State.setAct_keeps (State.endDrive_keeps hs1))) (Keeps.ite (State.confirmEnd_keeps hs1) hs1)
    · extract_lets -merge -underBinder s2
      have hs2 : Keeps sI s2 := State.setAct_keeps hs1
      refine Keeps.ite ?_ ?_
      · exact hs2
      · refine Keeps.ite ?_ ?_
        · exact State.detect_keeps hs2
        · split
          · exact Keeps.mk hs2 rfl rfl
          · exact Keeps.ite hs2 (Keeps.ite (State.startDrive_keeps (State.detect_keeps hs2)) (State.detect_keeps hs2))

theorem State.feedbackSample_keeps {sI s : State} {v : Bool × Bool} (hk : Keeps sI s) :
    Keeps sI (State.feedbackSample s v) := by
  unfold State.feedbackSample
  exact Keeps.ite (Keeps.mk hk rfl rfl) (Keeps.ite (Keeps.mk hk rfl rfl) (State.feedbackAccept_keeps (Keeps.mk hk rfl rfl)))

theorem execFeedbackChange_keeps {s0 s : State} {dt : Nat} {first : Bool × Bool} {more : List (Bool × Bool)} (h : Keeps s0 s) : KeepsO s0 (execFeedbackChange dt first more s) :=
  KeepsO.next (State.sampleRun_keeps (fun _ _ ht => State.feedbackSample_keeps ht) h)

theorem State.driveCapture_keeps {sI s : State} (hk : Keeps sI s) :
    Keeps sI (State.driveCapture s) := by
  unfold State.driveCapture
  exact Keeps.ite hk (State.stopDrive_keeps hk)

theorem State.actuatorStart_keeps {sI s : State} (hk : Keeps sI s) :
    Keeps sI (State.actuatorStart s) := by
  unfold State.actuatorStart
  exact Keeps.mk (State.put_keeps (State.showFeedback_keeps hk)) rfl rfl

end Sys2Proof.Machine
end

