-- ==== Sys2Proof/Laws/KeepsDisplay.lean ====
section
/-! SUPPORT. What the operations of Machine/Display.lean keep (Laws/Keeps.lean), one lemma per operation. -/

namespace Sys2Proof.Machine

theorem State.publishFrame_keeps {sI s : State} {body : List Byte} (hk : Keeps sI s) :
    Keeps sI (State.publishFrame s body) := by
  unfold State.publishFrame
  exact State.publish_keeps hk

theorem State.setInForce_keeps {sI s : State} {body : List Byte} (hk : Keeps sI s) :
    Keeps sI (State.setInForce s body) := by
  unfold State.setInForce
  exact State.put_keeps (State.publish_keeps hk)

theorem State.goPage_keeps {sI s : State} {p : Option ℕ} (hk : Keeps sI s) :
    Keeps sI (State.goPage s p) := by
  unfold State.goPage
  split
  · exact hk
  · exact Keeps.mk hk rfl rfl

theorem State.navKey_keeps {sI s : State} {key : ℕ} (hk : Keeps sI s) :
    Keeps sI (State.navKey s key) := by
  unfold State.navKey
  exact Keeps.ite (State.goPage_keeps (Keeps.mk hk rfl rfl)) (Keeps.ite (State.goPage_keeps (Keeps.mk hk rfl rfl)) (Keeps.mk hk rfl rfl))

theorem execPageReturn_keeps {sI s : State} {dt : ℕ} (hk : Keeps sI s) :
    KeepsO sI (execPageReturn dt s) := by
  unfold execPageReturn
  exact KeepsO.ite (KeepsO.next (State.advance_keeps hk)) (KeepsO.next (State.ready_keeps (State.goPage_keeps (Keeps.mk (State.passTo_keeps hk) rfl rfl))))

theorem execPageScroll_keeps {sI s : State} {dt : ℕ} (hk : Keeps sI s) :
    KeepsO sI (execPageScroll dt s) := by
  unfold execPageScroll
  exact KeepsO.ite (KeepsO.next (State.advance_keeps hk)) (KeepsO.next (State.ready_keeps (State.goPage_keeps (Keeps.mk (State.passTo_keeps hk) rfl rfl))))

theorem State.startRun_keeps {sI s : State} {kind : ℕ} {r : ℕ} {whole : Bool} {target : List (ℕ × ℕ)} {segs : List SegDrive} {sec : ℕ} (hk : Keeps sI s) :
    Keeps sI (State.startRun s kind r whole target segs sec) := by
  unfold State.startRun
  exact State.put_keeps (State.set1_keeps (Keeps.mk hk rfl rfl))

theorem State.chargeSeg_keeps {sI s : State} {k : ℕ} {l : List (ℤ × ℕ)} (hk : Keeps sI s) :
    Keeps sI (State.chargeSeg s k l) := by
  unfold State.chargeSeg
  exact State.putI_keeps hk

theorem State.request_keeps {sI s : State} {r : ℕ} (hk : Keeps sI s) :
    Keeps sI (State.request s r) := by
  unfold State.request
  exact State.put_keeps hk

theorem State.unrequest_keeps {sI s : State} {r : ℕ} (hk : Keeps sI s) :
    Keeps sI (State.unrequest s r) := by
  unfold State.unrequest
  exact State.put_keeps hk

theorem State.balanceRequests_keeps {sI s : State} (hk : Keeps sI s) :
    Keeps sI (State.balanceRequests s) := by
  unfold State.balanceRequests
  exact Keeps.foldl hk (fun _ _ ht => Keeps.ite (Keeps.mk (State.request_keeps ht) rfl rfl) ht)

theorem State.serveRegion_keeps {sI s : State} {body : List Byte} {r : ℕ} (hk : Keeps sI s) :
    KeepsP sI (State.serveRegion s body r) := by
  unfold State.serveRegion
  exact KeepsP.ite (KeepsP.pair (Keeps.mk (State.startRun_keeps (Keeps.mk (State.unrequest_keeps hk) rfl rfl)) rfl rfl)) (KeepsP.ite (KeepsP.pair (State.startRun_keeps (Keeps.mk (State.unrequest_keeps hk) rfl rfl))) (KeepsP.pair (State.unrequest_keeps hk)))

theorem State.serve_keeps {s0 s : State} {body : List Byte} {l : List Nat} (h : Keeps s0 s) : Keeps s0 (s.serve body l) := by
  induction l generalizing s with
  | nil => exact h
  | cons r l ih =>
    exact Keeps.ite (Keeps.ite (State.serveRegion_keeps h) (ih (State.serveRegion_keeps h))) (ih h)

theorem State.dispTask_keeps {sI s : State} (hk : Keeps sI s) :
    Keeps sI (State.dispTask s) := by
  unfold State.dispTask
  extract_lets -merge -underBinder page s0 body now
  have hs0 : Keeps sI s0 := State.eccMeet_keeps (State.put_keeps hk)
  split
  · exact Keeps.ite hs0 (Keeps.mk (State.publishFrame_keeps hs0) rfl rfl)
  · extract_lets -merge -underBinder s1 s2
    have hs1 : Keeps sI s1 := Keeps.ite hs0 (State.publishFrame_keeps hs0)
    have hs2 : Keeps sI s2 := Keeps.foldl hs1 (fun _ _ ht => Keeps.ite (State.request_keeps ht) ht)
    split
    · exact hs2
    · exact State.serve_keeps hs2
  · exact hs0

theorem execInstall_keeps {sI s : State} {dt : ℕ} (hk : Keeps sI s) :
    KeepsO sI (execInstall dt s) := by
  unfold execInstall
  extract_lets -merge -underBinder s1 src srcx2 s2 body srcx3 srcx4 s3
  have hs1 : Keeps sI s1 := Keeps.ite (State.passTo_keeps hk) (State.advance_keeps hk)
  have hsrc : Keeps sI src := State.eccMeet_keeps hs1
  have hs2 : Keeps sI s2 := Keeps.mk hsrc rfl rfl
  have hsrcx3 : Keeps sI srcx3 := State.setInForce_keeps hs2
  have hs3 : Keeps sI s3 := Keeps.mk hsrcx3 rfl rfl
  exact KeepsO.ite (KeepsO.next (State.clr_keeps (State.bump_keeps hs3))) (KeepsO.next hs1)

theorem State.chargeAll_keeps {sI s : State} {l : List SegDrive} (hk : Keeps sI s) :
    Keeps sI (State.chargeAll s l) := by
  unfold State.chargeAll
  exact Keeps.foldl hk (fun _ _ ht => State.chargeSeg_keeps ht)

theorem State.runRecord_keeps {sI s : State} {r : DispRun} {ms : ℕ} (hk : Keeps sI s) :
    Keeps sI (State.runRecord s r ms) := by
  unfold State.runRecord
  exact State.retWrite_keeps hk

theorem State.runShown_keeps {sI s : State} (hk : Keeps sI s) :
    Keeps sI (State.runShown s) := by
  unfold State.runShown
  split
  · exact hk
  · refine Keeps.ite ?_ ?_
    · exact hk
    · split
      · exact hk
      · exact State.runRecord_keeps (Keeps.foldl hk (fun _ _ ht => State.chargeSeg_keeps ht))

theorem State.passTwo_keeps {sI s : State} {r : DispRun} (hk : Keeps sI s) :
    Keeps sI (State.passTwo s r) := by
  unfold State.passTwo
  exact State.startRun_keeps hk

theorem State.endRun_keeps {sI s : State} {r : DispRun} (hk : Keeps sI s) :
    Keeps sI (State.endRun s r) := by
  unfold State.endRun
  extract_lets -merge -underBinder s1 s2 s3 src
  have hs1 : Keeps sI s1 := Keeps.ite hk (State.setInForce_keeps hk)
  have hs2 : Keeps sI s2 := Keeps.ite hs1 (Keeps.ite (State.clr_keeps hs1) (State.put_keeps hs1))
  have hs3 : Keeps sI s3 := Keeps.ite (State.bump_keeps hs2) hs2
  exact Keeps.mk hs3 rfl rfl

theorem State.runOff_keeps {sI s : State} (hk : Keeps sI s) :
    Keeps sI (State.runOff s) := by
  unfold State.runOff
  exact State.clr_keeps (State.clr_keeps (Keeps.mk hk rfl rfl))

theorem execBistableUpdateEnd_keeps {sI s : State} {dt : ℕ} (hk : Keeps sI s) :
    KeepsO sI (execBistableUpdateEnd dt s) := by
  unfold execBistableUpdateEnd
  split
  · exact KeepsO.next (State.advance_keeps hk)
  · exact KeepsO.ite (KeepsO.next (State.advance_keeps hk)) (KeepsO.next (Keeps.ite (State.passTwo_keeps (Keeps.mk (State.runRecord_keeps (State.chargeAll_keeps (State.passTo_keeps hk))) rfl rfl)) (State.endRun_keeps (Keeps.mk (State.runRecord_keeps (State.chargeAll_keeps (State.passTo_keeps hk))) rfl rfl))))

theorem execDischargeEnd_keeps {sI s : State} {dt : ℕ} (hk : Keeps sI s) :
    KeepsO sI (execDischargeEnd dt s) := by
  unfold execDischargeEnd
  split
  · exact KeepsO.next (State.advance_keeps hk)
  · exact KeepsO.ite (KeepsO.next (State.runOff_keeps (State.retWrite_keeps (State.passTo_keeps hk)))) (KeepsO.next (State.advance_keeps hk))

theorem State.abandonRun_keeps {sI s : State} (hk : Keeps sI s) :
    Keeps sI (State.abandonRun s) := by
  unfold State.abandonRun
  split
  · exact hk
  · exact Keeps.ite (State.runOff_keeps (State.retWrite_keeps hk)) (State.runOff_keeps (State.runShown_keeps hk))

theorem State.relight_keeps {sI s : State} (hk : Keeps sI s) :
    Keeps sI (State.relight s) := by
  unfold State.relight
  exact State.lcdBegin_keeps (Keeps.mk hk rfl rfl)

theorem State.dispStop_keeps {sI s : State} (hk : Keeps sI s) :
    Keeps sI (State.dispStop s) := by
  unfold State.dispStop
  exact Keeps.mk (State.clr_keeps hk) rfl rfl

theorem State.dispBegin_keeps {sI s : State} {fresh : Bool} (hk : Keeps sI s) :
    Keeps sI (State.dispBegin s fresh) := by
  unfold State.dispBegin
  exact State.ready_keeps (State.lcdBegin_keeps (Keeps.mk (State.goPage_keeps hk) rfl rfl))

theorem State.dispCapture_keeps {sI s : State} {old : State} {die16 : ℤ} (hk : Keeps sI s) :
    Keeps sI (State.dispCapture s old die16) := by
  unfold State.dispCapture
  exact Keeps.ite (Keeps.ite (State.relight_keeps (Keeps.mk hk rfl rfl)) (Keeps.mk hk rfl rfl)) (Keeps.ite (State.dispStop_keeps (Keeps.mk hk rfl rfl)) (State.dispBegin_keeps (Keeps.mk hk rfl rfl)))

theorem State.lcdOff_keeps {sI s : State} (hk : Keeps sI s) :
    Keeps sI (State.lcdOff s) := by
  unfold State.lcdOff
  exact Keeps.mk hk rfl rfl

theorem execLcdPowerOff_keeps {sI s : State} {dt : ℕ} (hk : Keeps sI s) :
    KeepsO sI (execLcdPowerOff dt s) := by
  unfold execLcdPowerOff
  exact KeepsO.ite (KeepsO.next (State.lcdOff_keeps (State.advance_keeps (State.passTo_keeps hk)))) (KeepsO.next (State.advance_keeps hk))

theorem State.settleDisplay_keeps {sI s : State} (hk : Keeps sI s) :
    Keeps sI (State.settleDisplay s) := by
  unfold State.settleDisplay
  exact State.clr_keeps (by
    split
    · exact hk
    · exact State.runOff_keeps (State.retWrite_keeps (Keeps.ite (State.passTo_keeps hk) (State.endRun_keeps (State.runRecord_keeps (State.chargeAll_keeps (State.passTo_keeps hk)))))))

theorem State.dispRecover_keeps {sI s : State} {retFail : Bool} (hk : Keeps sI s) :
    Keeps sI (State.dispRecover s retFail) := by
  unfold State.dispRecover
  exact Keeps.ite hk (State.startRun_keeps (State.bump_keeps (State.publishFrame_keeps hk)))

theorem State.dispStart_keeps {sI s : State} (hk : Keeps sI s) :
    Keeps sI (State.dispStart s) := by
  unfold State.dispStart
  exact State.put_keeps (State.lcdBegin_keeps (Keeps.mk (State.goPage_keeps (Keeps.mk hk rfl rfl)) rfl rfl))

theorem State.frameCheck_keeps {sI s : State} {upset : Bool} (hk : Keeps sI s) :
    Keeps sI (State.frameCheck s upset) := by
  unfold State.frameCheck
  exact Keeps.ite (State.ready_keeps (State.publishFrame_keeps (State.logTrouble_keeps (State.put_keeps (State.bump_keeps hk))))) hk

end Sys2Proof.Machine
end

