-- ==== Sys2Proof/Laws/KeepsKeypad.lean ====
section
/-! SUPPORT. What the operations of Machine/Keypad.lean keep (Laws/Keeps.lean), one lemma per operation. -/

namespace Sys2Proof.Machine

theorem execKeypadWake_keeps {sI s : State} {dt : ℕ} (hk : Keeps sI s) :
    KeepsO sI (execKeypadWake dt s) := by
  unfold execKeypadWake
  exact KeepsO.next (Keeps.ite (Keeps.mk (State.wakeCore_keeps (State.advance_keeps hk)) rfl rfl) (Keeps.ite (State.retWrite_keeps (State.advance_keeps hk)) (State.advance_keeps hk)))

theorem execKeyAccepted_keeps {sI s : State} {dt : ℕ} {key : Fin 16} (hk : Keeps sI s) :
    KeepsO sI (execKeyAccepted dt key s) := by
  unfold execKeyAccepted
  exact KeepsO.ite (KeepsO.next (State.ready_keeps (State.ready_keeps (State.navKey_keeps (Keeps.mk (State.advance_keeps hk) rfl rfl))))) (KeepsO.next (State.advance_keeps hk))

theorem execKeyReleased_keeps {sI s : State} {dt : ℕ} (hk : Keeps sI s) :
    KeepsO sI (execKeyReleased dt s) := by
  unfold execKeyReleased
  exact KeepsO.next (Keeps.mk (State.advance_keeps hk) rfl rfl)

theorem execEntryTimeout_keeps {sI s : State} {dt : ℕ} (hk : Keeps sI s) :
    KeepsO sI (execEntryTimeout dt s) := by
  unfold execEntryTimeout
  exact KeepsO.ite (KeepsO.next (State.advance_keeps hk)) (KeepsO.next (State.ready_keeps (Keeps.mk (State.passTo_keeps hk) rfl rfl)))

theorem State.setEntry_keeps {sI s : State} {l : List ℕ} (hk : Keeps sI s) :
    Keeps sI (State.setEntry s l) := by
  unfold State.setEntry
  exact Keeps.mk hk rfl rfl

theorem State.keySubmit_keeps {sI s : State} (hk : Keeps sI s) :
    Keeps sI (State.keySubmit s) := by
  unfold State.keySubmit
  exact Keeps.ite (State.keypadOpen_keeps (Keeps.mk hk rfl rfl)) (Keeps.ite (State.setEntry_keeps (KeepsP.out (State.evalToken_keeps hk))) hk)

theorem State.takeKey_keeps {sI s : State} {key : ℕ} (hk : Keeps sI s) :
    Keeps sI (State.takeKey s key) := by
  unfold State.takeKey
  extract_lets -merge -underBinder e
  split
  · exact Keeps.ite (State.setEntry_keeps hk) (State.setEntry_keeps hk)
  · exact Keeps.ite (State.keySubmit_keeps hk) (Keeps.ite (State.setEntry_keeps hk) (Keeps.ite (State.setEntry_keeps hk) (Keeps.ite (Keeps.mk hk rfl rfl) (State.setEntry_keeps hk))))

theorem State.keypadTask_keeps {sI s : State} (hk : Keeps sI s) :
    Keeps sI (State.keypadTask s) := by
  unfold State.keypadTask
  exact State.ready_keeps (Keeps.foldl (Keeps.mk hk rfl rfl) (fun _ _ hs => State.takeKey_keeps hs))

end Sys2Proof.Machine
end

