-- ==== Sys2Proof/Laws/KeepsTelegram.lean ====
section
/-! SUPPORT. What the operations of Machine/Telegram.lean keep (Laws/Keeps.lean), one lemma per operation. -/

namespace Sys2Proof.Machine

theorem State.queueTelegram_keeps {sI s : State} {mode5 : Option (List ℕ)} (hk : Keeps sI s) :
    Keeps sI (State.queueTelegram s mode5) := by
  unfold State.queueTelegram
  extract_lets -merge -underBinder b n
  refine Keeps.ite ?_ ?_
  · split
    · rename_i slot s1 heq
      have hs1 : Keeps sI s1 := by
        have he := congrArg (fun p => p.2) heq
        dsimp only at he
        rw [← he]
        exact State.enqueue_keeps hk
      exact State.ready_keeps (State.showQueued_keeps (Keeps.mk hs1 rfl rfl))
  · exact State.nextTelegram_keeps hk

theorem execTelegramDue_keeps {sI s : State} {dt : ℕ} (hk : Keeps sI s) :
    KeepsO sI (execTelegramDue dt s) := by
  unfold execTelegramDue
  split
  · exact KeepsO.next (State.advance_keeps hk)
  · extract_lets -merge -underBinder s1
    have hs1 : Keeps sI s1 := State.passTo_keeps hk
    refine KeepsO.ite ?_ ?_
    · exact KeepsO.next hs1
    · refine KeepsO.ite ?_ ?_
      · exact KeepsO.next (State.nextTelegram_keeps hs1)
      · refine KeepsO.ite ?_ ?_
        · split
          · rename_i key s2 heq
            have hs2 : Keeps sI s2 := by
              have he := congrArg (fun p => p.2) heq
              dsimp only at he
              rw [← he]
              exact State.slotFor_keeps hs1
            split
            · exact KeepsO.ite (KeepsO.next (State.queueTelegram_keeps (State.clr_keeps hs2))) (KeepsO.next (State.nextTelegram_keeps (State.set1_keeps hs2)))
            · exact KeepsO.next (State.nextTelegram_keeps (State.set1_keeps hs2))
        · exact KeepsO.next (State.queueTelegram_keeps hs1)

end Sys2Proof.Machine
end

