-- ==== Sys2Proof/Laws/KeepsUpdate.lean ====
section
/-! SUPPORT. What the operations of Machine/Update.lean keep (Laws/Keeps.lean), one lemma per operation. -/

namespace Sys2Proof.Machine

theorem State.setSession_keeps {sI s : State} {x : Option (ℕ × ℕ × ℕ × ℕ)} (hk : Keeps sI s) :
    Keeps sI (State.setSession s x) := by
  unfold State.setSession
  exact Keeps.mk hk rfl rfl

theorem State.freeUpdates_keeps {sI s : State} (hk : Keeps sI s) :
    Keeps sI (State.freeUpdates s) := by
  unfold State.freeUpdates
  exact Keeps.mk (Keeps.foldl hk (fun _ _ ht => State.consume_keeps ht)) rfl rfl

theorem State.endSession_keeps {sI s : State} {reason : ℕ} (hk : Keeps sI s) :
    Keeps sI (State.endSession s reason) := by
  unfold State.endSession
  extract_lets -merge -underBinder s1 s2 s3 src
  have hs1 : Keeps sI s1 := State.put_keeps (State.put_keeps (State.setSession_keeps (State.freeUpdates_keeps hk)))
  have hs2 : Keeps sI s2 := Keeps.ite hs1 (State.bump_keeps hs1)
  have hs3 : Keeps sI s3 := State.clr_keeps (State.clr_keeps hs2)
  exact Keeps.mk hs3 rfl rfl

theorem State.openSession_keeps {sI s : State} {owner : ℕ} {kind : ℕ} {length : ℕ} (hk : Keeps sI s) :
    Keeps sI (State.openSession s owner kind length) := by
  unfold State.openSession
  exact State.setSession_keeps (Keeps.mk (State.put_keeps (State.put_keeps (State.put_keeps (State.put_keeps (State.put_keeps (State.put_keeps (State.freeUpdates_keeps hk))))))) rfl rfl)

theorem State.updBegin_keeps {sI s : State} {owner : ℕ} {f : List ℕ} (hk : Keeps sI s) :
    KeepsP sI (State.updBegin s owner f) := by
  unfold State.updBegin
  exact KeepsP.ite (KeepsP.pair hk) (KeepsP.ite (KeepsP.pair hk) (KeepsP.pair (State.openSession_keeps hk)))

theorem State.updData_keeps {sI s : State} {f : List ℕ} (hk : Keeps sI s) :
    KeepsP sI (State.updData s f) := by
  unfold State.updData
  extract_lets -merge -underBinder off d next
  refine KeepsP.ite ?_ ?_
  · exact KeepsP.pair hk
  · refine KeepsP.ite ?_ ?_
    · exact KeepsP.pair hk
    · refine KeepsP.ite ?_ ?_
      · exact KeepsP.pair hk
      · refine KeepsP.ite ?_ ?_
        · exact KeepsP.pair hk
        · split
          · rename_i slot s1 heq
            have hs1 : Keeps sI s1 := by
              have he := congrArg (fun p => p.2) heq
              dsimp only at he
              rw [← he]
              exact State.enqueue_keeps hk
            exact KeepsP.pair (State.ready_keeps (Keeps.mk (State.put_keeps hs1) rfl rfl))

theorem State.updEnd_keeps {sI s : State} (hk : Keeps sI s) :
    KeepsP sI (State.updEnd s) := by
  unfold State.updEnd
  exact KeepsP.ite (KeepsP.pair (State.ready_keeps (Keeps.mk (State.put_keeps hk) rfl rfl))) (KeepsP.pair hk)

theorem State.updActivate_keeps {sI s : State} (hk : Keeps sI s) :
    KeepsP sI (State.updActivate s) := by
  unfold State.updActivate
  exact KeepsP.ite (KeepsP.pair hk) (KeepsP.ite (KeepsP.pair hk) (KeepsP.pair (Keeps.mk hk rfl rfl)))

theorem State.updMessage_keeps {sI s : State} {src : Source} {type : ℕ} {f : List ℕ} (hk : Keeps sI s) :
    KeepsP sI (State.updMessage s src type f) := by
  unfold State.updMessage
  dsimp -zeta only
  refine KeepsP.ite ?_ ?_
  · exact KeepsP.pair hk
  · refine KeepsP.ite ?_ ?_
    · exact KeepsP.pair hk
    · exact KeepsP.pair (KeepsP.out (by
        refine KeepsP.ite ?_ ?_
        · exact KeepsP.pair (Keeps.ite (Keeps.mk hk rfl rfl) hk)
        · refine KeepsP.ite ?_ ?_
          · exact KeepsP.pair hk
          · extract_lets -merge -underBinder src s0
            have hs0 : Keeps sI s0 := Keeps.mk hk rfl rfl
            refine KeepsP.ite ?_ ?_
            · exact State.updBegin_keeps hs0
            · split
              · exact KeepsP.pair (Keeps.mk hs0 rfl rfl)
              · exact KeepsP.ite (State.updData_keeps hs0) (KeepsP.ite (KeepsP.pair hs0) (KeepsP.ite (State.updEnd_keeps hs0) (KeepsP.ite (State.updActivate_keeps hs0) (KeepsP.pair (Keeps.ite (State.endSession_keeps hs0) hs0)))))))

theorem State.keepProgress_keeps {sI s : State} (hk : Keeps sI s) :
    Keeps sI (State.keepProgress s) := by
  unfold State.keepProgress
  split
  · exact hk
  · exact Keeps.ite hk (State.setSession_keeps hk)

theorem State.eraseSector_keeps {sI s : State} (hk : Keeps sI s) :
    Keeps sI (State.eraseSector s) := by
  unfold State.eraseSector
  exact Keeps.mk hk rfl rfl

theorem State.program_keeps {s0 s : State} {n : Nat} (h : Keeps s0 s) : Keeps s0 (State.program n s) := by
  induction n generalizing s with
  | zero => exact h
  | succ n ih =>
    unfold State.program
    split
    · exact h
    · exact Keeps.ite (ih (State.consume_keeps (Keeps.mk h rfl rfl))) h

theorem State.checkHeader_keeps {sI s : State} (hk : Keeps sI s) :
    Keeps sI (State.checkHeader s) := by
  unfold State.checkHeader
  exact Keeps.ite hk (Keeps.ite (Keeps.mk hk rfl rfl) (State.endSession_keeps hk))

theorem State.hashBody_keeps {sI s : State} (hk : Keeps sI s) :
    Keeps sI (State.hashBody s) := by
  unfold State.hashBody
  exact Keeps.ite (Keeps.mk (State.put_keeps hk) rfl rfl) (State.endSession_keeps hk)

theorem State.updTask_keeps {sI s : State} {bad : Bool} (hk : Keeps sI s) :
    Keeps sI (State.updTask s bad) := by
  unfold State.updTask
  split
  · exact Keeps.ite (Keeps.ite (State.endSession_keeps (State.eraseSector_keeps hk)) (State.ready_keeps (State.eraseSector_keeps hk))) (Keeps.ite (State.endSession_keeps (State.program_keeps hk)) (State.keepProgress_keeps (State.checkHeader_keeps (State.program_keeps hk))))
  · exact Keeps.ite (State.hashBody_keeps hk) hk

theorem State.updAll_keeps {s0 s : State} {n : Nat} (h : Keeps s0 s) : Keeps s0 (State.updAll n s) := by
  induction n generalizing s with
  | zero => exact h
  | succ n ih => exact Keeps.ite (ih (State.updTask_keeps h)) h

theorem execUpdateSessionTimeout_keeps {sI s : State} {dt : ℕ} (hk : Keeps sI s) :
    KeepsO sI (execUpdateSessionTimeout dt s) := by
  unfold execUpdateSessionTimeout
  exact KeepsO.ite (KeepsO.next (State.advance_keeps hk)) (KeepsO.next (State.endSession_keeps (State.passTo_keeps hk)))

theorem State.sealEndsUpdate_keeps {sI s : State} (hk : Keeps sI s) :
    Keeps sI (State.sealEndsUpdate s) := by
  unfold State.sealEndsUpdate
  exact Keeps.ite (State.endSession_keeps (Keeps.mk hk rfl rfl)) hk

theorem State.activatePersist_keeps {sI s : State} (hk : Keeps sI s) :
    Keeps sI (State.activatePersist s) := by
  unfold State.activatePersist
  exact Keeps.ite hk (State.bump_keeps (State.endSession_keeps (Keeps.mk hk rfl rfl)))

theorem State.confirmTrial_keeps {sI s : State} (hk : Keeps sI s) :
    Keeps sI (State.confirmTrial s) := by
  unfold State.confirmTrial
  split
  · exact hk
  · exact State.legal_keeps (State.put_keeps (State.clr_keeps (Keeps.mk hk rfl rfl)))

theorem execTrialConfirmation_keeps {sI s : State} (hk : Keeps sI s) :
    KeepsO sI (execTrialConfirmation s) := by
  unfold execTrialConfirmation
  exact KeepsO.next (Keeps.ite (State.confirmTrial_keeps hk) hk)

theorem State.trialTick_keeps {sI s : State} (hk : Keeps sI s) :
    Keeps sI (State.trialTick s) := by
  unfold State.trialTick
  exact Keeps.ite (Keeps.ite (State.confirmTrial_keeps (State.bump_keeps hk)) (State.bump_keeps hk)) hk

theorem State.bootCopy_keeps {sI s : State} (hk : Keeps sI s) :
    Keeps sI (State.bootCopy s) := by
  unfold State.bootCopy
  split
  · exact hk
  · exact State.legal_keeps (State.put_keeps (State.set1_keeps (Keeps.mk hk rfl rfl)))

theorem State.fallBack_keeps {sI s : State} {b : ℕ} (hk : Keeps sI s) :
    Keeps sI (State.fallBack s b) := by
  unfold State.fallBack
  exact State.set1_keeps (Keeps.mk hk rfl rfl)

theorem State.bootVerify_keeps {sI s : State} {bad : Bool} (hk : Keeps sI s) :
    KeepsP sI (State.bootVerify s bad) := by
  unfold State.bootVerify
  extract_lets -merge -underBinder s1 s2 a
  have hs1 : Keeps sI s1 := State.bootCopy_keeps hk
  have hs2 : Keeps sI s2 := by
    dsimp -zeta only [s2]
    split
    · exact Keeps.ite (State.fallBack_keeps hs1) hs1
    · exact hs1
  exact KeepsP.ite (KeepsP.pair hs1) (KeepsP.ite (KeepsP.pair hs2) (KeepsP.ite (KeepsP.pair (State.fallBack_keeps hs2)) (KeepsP.pair hs2)))

theorem State.showImages_keeps {sI s : State} (hk : Keeps sI s) :
    Keeps sI (State.showImages s) := by
  unfold State.showImages
  extract_lets -merge -underBinder ver app
  split
  · rename_i c s0 heq
    have hs0 : Keeps sI s0 := by
      have he := congrArg (fun p => p.2) heq
      dsimp only at he
      rw [← he]
      exact State.draw_keeps hk
    exact State.putB_keeps (State.put_keeps (State.put_keeps (State.put_keeps (State.put_keeps (State.put_keeps (State.put_keeps (State.put_keeps hs0)))))))

theorem State.resumeUpdate_keeps {sI s : State} (hk : Keeps sI s) :
    Keeps sI (State.resumeUpdate s) := by
  unfold State.resumeUpdate
  split
  · exact Keeps.mk hk rfl rfl
  · exact State.put_keeps (State.put_keeps (State.put_keeps (State.put_keeps (State.put_keeps (Keeps.mk hk rfl rfl)))))

end Sys2Proof.Machine
end

