-- ==== Sys2Proof/Laws/KeepsJournal.lean ====
section
/-! SUPPORT. What the operations of Machine/Journal.lean keep (Laws/Keeps.lean), one lemma per operation. -/

namespace Sys2Proof.Machine

theorem State.noteRows_keeps {sI s : State} (hk : Keeps sI s) :
    Keeps sI (State.noteRows s) := by
  unfold State.noteRows
  dsimp -zeta only
  exact Keeps.ite (State.put_keeps (KeepsP.out (KeepsP.ite (State.drawLevel_keeps hk) (State.drawLevel_keeps hk)))) hk

theorem State.noteRowsOnce_keeps {sI s : State} (hk : Keeps sI s) :
    Keeps sI (State.noteRowsOnce s) := by
  unfold State.noteRowsOnce
  exact Keeps.ite (State.noteRows_keeps hk) hk

theorem State.writeLegal_keeps {s0 s : State} {n : Nat} {l : List LegalEntry} (h : Keeps s0 s) : Keeps s0 (s.writeLegal n l) := by
  induction l generalizing s n with
  | nil => exact h
  | cons e l ih => exact ih (State.nvmWrite_keeps h)

theorem State.commitOpen_keeps {sI s : State} (hk : Keeps sI s) :
    Keeps sI (State.commitOpen s) := by
  unfold State.commitOpen
  exact State.set1_keeps (State.put_keeps (Keeps.mk hk rfl rfl))

theorem State.commitClose_keeps {sI s : State} {i : JImage} {l : List LegalEntry} (hk : Keeps sI s) :
    Keeps sI (State.commitClose s i l) := by
  unfold State.commitClose
  exact State.legalShow_keeps (State.clr_keeps (Keeps.mk (State.put_keeps (State.put_keeps (State.writeLegal_keeps hk))) rfl rfl))

theorem State.commitRows_keeps {sI s : State} {n : ℕ} (hk : Keeps sI s) :
    KeepsP sI (State.commitRows s n) := by
  unfold State.commitRows
  split
  · exact KeepsP.pair hk
  · exact KeepsP.ite (KeepsP.pair (State.commitClose_keeps (Keeps.mk (State.put_keeps hk) rfl rfl))) (KeepsP.pair (Keeps.mk (Keeps.mk (State.put_keeps hk) rfl rfl) rfl rfl))

theorem State.commitRun_keeps {s0 s : State} {k n : Nat} (h : Keeps s0 s) : KeepsP s0 (State.commitRun k n s) := by
  induction k generalizing n s with
  | zero => exact h
  | succ k ih =>
    have h1 : Keeps s0 (if s.jrn.openC.isNone ∧ s.commitIsDue then s.commitOpen else s) := Keeps.ite (State.commitOpen_keeps h) h
    unfold State.commitRun
    dsimp -zeta only
    refine KeepsP.ite h1 ?_
    exact KeepsP.ite (ih (State.commitRows_keeps h1)) (State.commitRows_keeps h1)

theorem State.snapPersist_keeps {s0 s : State} {f n : Nat} (h : Keeps s0 s) : KeepsP s0 (State.snapPersist f n s) := by
  induction f generalizing n s with
  | zero => exact h
  | succ f ih =>
    unfold State.snapPersist
    split
    · exact h
    · exact KeepsP.ite h (KeepsP.ite (ih (Keeps.mk (State.nvmWrite_keeps h) rfl rfl)) (Keeps.mk (State.nvmWrite_keeps h) rfl rfl))

theorem State.saveFix_keeps {sI s : State} (hk : Keeps sI s) :
    Keeps sI (State.saveFix s) := by
  unfold State.saveFix
  exact Keeps.ite (Keeps.ite (State.clr_keeps (Keeps.mk hk rfl rfl)) (Keeps.mk hk rfl rfl)) hk

theorem State.saveEnd_keeps {sI s : State} (hk : Keeps sI s) :
    Keeps sI (State.saveEnd s) := by
  unfold State.saveEnd
  extract_lets -merge -underBinder c old s1 s2
  have hs1 : Keeps sI s1 := Keeps.mk hk rfl rfl
  have hs2 : Keeps sI s2 := State.clr_keeps (State.put_keeps hs1)
  refine Keeps.ite ?_ ?_
  · split
    · rename_i v s3 heq
      have hs3 : Keeps sI s3 := by
        have he := congrArg (fun p => p.2) heq
        dsimp only at he
        rw [← he]
        exact State.draw_keeps hs2
      exact State.legal_keeps hs3
  · exact hs2

theorem State.savePersist_keeps {sI s : State} {n : ℕ} (hk : Keeps sI s) :
    Keeps sI (State.savePersist s n) := by
  unfold State.savePersist
  exact Keeps.ite hk (Keeps.ite (State.saveEnd_keeps hk) (Keeps.mk hk rfl rfl))

theorem State.persistRows_keeps {sI s : State} (hk : Keeps sI s) :
    Keeps sI (State.persistRows s) := by
  unfold State.persistRows
  extract_lets -merge -underBinder s1 hib
  have hs1 : Keeps sI s1 := State.noteRowsOnce_keeps hk
  split
  · rename_i n1 s3 heq
    have hs3 : Keeps sI s3 := by
      have he := congrArg (fun p => p.2) heq
      dsimp only at he
      rw [← he]
      exact State.commitRun_keeps (Keeps.ite (State.commitDue_keeps hs1) hs1)
    split
    · rename_i n2 s4 heq
      have hs4 : Keeps sI s4 := by
        have he := congrArg (fun p => p.2) heq
        dsimp only at he
        rw [← he]
        exact State.snapPersist_keeps hs3
      split
      · rename_i n3 s5 heq
        have hs5 : Keeps sI s5 := by
          have he := congrArg (fun p => p.2) heq
          dsimp only at he
          rw [← he]
          exact State.keyPersist_keeps hs4
        exact State.savePersist_keeps hs5

theorem State.emergencyBegin_keeps {sI s : State} {closures : Bool} (hk : Keeps sI s) :
    Keeps sI (State.emergencyBegin s closures) := by
  unfold State.emergencyBegin
  exact State.set1_keeps (State.put_keeps (Keeps.mk (Keeps.mk (Keeps.ite (State.emergencyClosures_keeps hk) hk) rfl rfl) rfl rfl))

theorem State.emergencyEnd_keeps {sI s : State} (hk : Keeps sI s) :
    Keeps sI (State.emergencyEnd s) := by
  unfold State.emergencyEnd
  split
  · exact hk
  · exact State.put_keeps (KeepsP.out (State.commitRows_keeps hk))

theorem State.journalLoad_keeps {sI s : State} (hk : Keeps sI s) :
    Keeps sI (State.journalLoad s) := by
  unfold State.journalLoad
  exact Keeps.mk (Keeps.foldl (State.put_keeps (State.put_keeps (Keeps.foldl (Keeps.foldl hk (fun _ _ ht => State.wr_keeps ht)) (fun _ _ ht => State.put_keeps ht)))) (fun _ _ ht => State.putI_keeps ht)) rfl rfl

theorem State.snapRecover_keeps {sI s : State} (hk : Keeps sI s) :
    Keeps sI (State.snapRecover s) := by
  unfold State.snapRecover
  exact Keeps.mk (Keeps.foldl hk (fun _ _ ht => State.nvmWrite_keeps ht)) rfl rfl

theorem State.journalRecover_keeps {sI s : State} (hk : Keeps sI s) :
    Keeps sI (State.journalRecover s) := by
  unfold State.journalRecover
  extract_lets -merge -underBinder was s1 s2 s3 src srcx2 s4 s5
  have hs1 : Keeps sI s1 := State.snapRecover_keeps (State.journalLoad_keeps hk)
  have hs2 : Keeps sI s2 := State.bump_keeps hs1
  have hs3 : Keeps sI s3 := Keeps.ite hs2 (State.retWrite_keeps hs2)
  have hs4 : Keeps sI s4 := Keeps.mk hs3 rfl rfl
  have hs5 : Keeps sI s5 := Keeps.foldl hs4 (fun _ _ ht => State.legal_keeps ht)
  exact Keeps.ite (State.legal_keeps (State.set1_keeps hs5)) (State.legalShow_keeps hs5)

theorem State.configReset_keeps {sI s : State} (hk : Keeps sI s) :
    Keeps sI (State.configReset s) := by
  unfold State.configReset
  exact Keeps.foldl hk (fun _ _ ht => Keeps.ite ht (State.wr_keeps ht))

theorem State.schedLoad_keeps {sI s : State} {t : List (ℕ × Word)} (hk : Keeps sI s) :
    Keeps sI (State.schedLoad s t) := by
  unfold State.schedLoad
  exact State.clr_keeps (State.put_keeps (State.put_keeps (Keeps.mk (State.schedInstall_keeps hk) rfl rfl)))

theorem State.configLoad_keeps {sI s : State} (hk : Keeps sI s) :
    Keeps sI (State.configLoad s) := by
  unfold State.configLoad
  split
  · exact State.schedLoad_keeps (State.configReset_keeps hk)
  · exact State.schedLoad_keeps (State.put_keeps (State.clr_keeps (Keeps.foldl (State.configReset_keeps hk) (fun _ _ hu => Keeps.ite hu (State.wr_keeps hu)))))

end Sys2Proof.Machine
end

