-- ==== Sys2Proof/Laws/KeepsPower.lean ====
section
/-! SUPPORT. What the operations of Machine/Power.lean keep (Laws/Keeps.lean), one lemma per operation. -/

namespace Sys2Proof.Machine

theorem State.resetWords_keeps {sI s : State} {log : Bool} (hk : Keeps sI s) :
    Keeps sI (State.resetWords s log) := by
  unfold State.resetWords
  exact Keeps.foldl (State.resetBlocks_keeps hk) (fun _ _ ht => State.wr_keeps ht)

theorem State.coreReset_keeps {s0 s : State} {log : Bool} (h : Keeps s0 s) : Keeps s0 (s.coreReset log) := by
  have ha := State.abandonRun_keeps h
  have hr := State.resetWords_keeps (log := log) ha
  unfold State.coreReset
  refine ⟨hr.1, fun h0 => ?_, ha.2.2⟩
  have h1 := storesCanonical_iff.mp (ha.2.1 h0)
  have h2 := storesCanonical_iff.mp (hr.2.1 h0)
  refine storesCanonical_iff.mpr ⟨h2.1, rfl, ?_, ?_, rfl, h2.2.2.2.2.2.1, rfl⟩
  · show swf byteDefault (if log = true then skeep _ _ else []) = true
    split
    · exact skeep_swf h1.2.2.1
    · rfl
  · show swf (fun _ => 0) (if log = true then skeep logSlot _ else []) = true
    split
    · exact skeep_swf h1.2.2.2.1
    · rfl

theorem State.toStart_keeps {sI s : State} (hk : Keeps sI s) :
    Keeps sI (State.toStart s) := by
  unfold State.toStart
  exact Keeps.mk hk rfl rfl

theorem State.aonReset_keeps {sI s : State} (hk : Keeps sI s) :
    Keeps sI (State.aonReset s) := by
  unfold State.aonReset
  exact Keeps.mk (State.putB_keeps (State.resetBlocks_keeps hk)) rfl rfl

theorem State.brownOut_keeps {sI s : State} (hk : Keeps sI s) :
    Keeps sI (State.brownOut s) := by
  unfold State.brownOut
  exact Keeps.mk (State.set1_keeps (State.coreReset_keeps hk)) rfl rfl

theorem execBrownOut_keeps {sI s : State} {dt : ℕ} (hk : Keeps sI s) :
    KeepsO sI (execBrownOut dt s) := by
  unfold execBrownOut
  exact KeepsO.next (Keeps.ite (State.advance_keeps hk) (State.brownOut_keeps (State.advance_keeps hk)))

theorem execBackupEntry_keeps {sI s : State} {dt : ℕ} (hk : Keeps sI s) :
    KeepsO sI (execBackupEntry dt s) := by
  unfold execBackupEntry
  exact KeepsO.ite (KeepsO.next (State.advance_keeps hk)) (KeepsO.next (Keeps.mk (State.brownOut_keeps (State.advance_keeps hk)) rfl rfl))

theorem execAonPowerOn_keeps {sI s : State} {dt : ℕ} (hk : Keeps sI s) :
    KeepsO sI (execAonPowerOn dt s) := by
  unfold execAonPowerOn
  exact KeepsO.ite (KeepsO.next (Keeps.mk (State.aonReset_keeps (State.coreReset_keeps (State.advance_keeps hk))) rfl rfl)) (KeepsO.next (State.advance_keeps hk))

theorem State.externalReset_keeps {sI s : State} {held : ℕ} (hk : Keeps sI s) :
    Keeps sI (State.externalReset s held) := by
  unfold State.externalReset
  exact State.toStart_keeps (State.advance_keeps (Keeps.mk (State.set1_keeps (State.aonReset_keeps (State.coreReset_keeps hk))) rfl rfl))

theorem execResetnLow_keeps {sI s : State} {pulse : ResetPulse} (hk : Keeps sI s) :
    KeepsO sI (execResetnLow pulse s) := by
  unfold execResetnLow
  extract_lets -merge -underBinder s1 held
  have hs1 : Keeps sI s1 := State.advance_keeps hk
  refine KeepsO.ite ?_ ?_
  · exact KeepsO.next hs1
  · split
    · exact KeepsO.next hs1
    · exact KeepsO.next (Keeps.mk hs1 rfl rfl)
    · exact KeepsO.next (State.externalReset_keeps hs1)

theorem execWatchdogReset_keeps {sI s : State} {dt : ℕ} (hk : Keeps sI s) :
    KeepsO sI (execWatchdogReset dt s) := by
  unfold execWatchdogReset
  split
  · exact KeepsO.next (State.toStart_keeps (Keeps.mk (State.coreReset_keeps (State.set1_keeps (State.passTo_keeps hk))) rfl rfl))
  · exact KeepsO.next (State.toStart_keeps (Keeps.mk (State.coreReset_keeps (State.set1_keeps (State.passTo_keeps hk))) rfl rfl))
  · exact KeepsO.next (State.toStart_keeps (Keeps.mk (State.coreReset_keeps (State.set1_keeps (State.passTo_keeps hk))) rfl rfl))
  · exact KeepsO.next (State.toStart_keeps (Keeps.mk (State.coreReset_keeps (State.set1_keeps (State.passTo_keeps hk))) rfl rfl))
  · exact KeepsO.next (State.advance_keeps hk)

theorem State.safetyRestart_keeps {sI s : State} {code : ℕ} {data : ℕ} (hk : Keeps sI s) :
    Keeps sI (State.safetyRestart s code data) := by
  unfold State.safetyRestart
  exact State.toStart_keeps (Keeps.mk (State.coreReset_keeps (State.set1_keeps hk)) rfl rfl)

theorem State.commandReset_keeps {sI s : State} (hk : Keeps sI s) :
    Keeps sI (State.commandReset s) := by
  unfold State.commandReset
  exact State.toStart_keeps (State.coreReset_keeps (State.set1_keeps (State.lcdOff_keeps (State.settleDisplay_keeps hk))))

theorem execCommandReset_keeps {sI s : State} (hk : Keeps sI s) :
    KeepsO sI (execCommandReset s) := by
  unfold execCommandReset
  exact KeepsO.next (Keeps.ite (State.commandReset_keeps hk) hk)

theorem execResetDrainTimeout_keeps {sI s : State} (hk : Keeps sI s) :
    KeepsO sI (execResetDrainTimeout s) := by
  unfold execResetDrainTimeout
  split
  · exact KeepsO.next hk
  · exact KeepsO.next (Keeps.ite (State.commandReset_keeps hk) hk)

theorem execSwitchOver_keeps {sI s : State} {dt : ℕ} {toBackup : Bool} (hk : Keeps sI s) :
    KeepsO sI (execSwitchOver dt toBackup s) := by
  unfold execSwitchOver
  extract_lets -merge -underBinder s1 src s2 s3
  have hs1 : Keeps sI s1 := State.advance_keeps hk
  have hs2 : Keeps sI s2 := Keeps.mk hs1 rfl rfl
  have hs3 : Keeps sI s3 := State.putB_keeps hs2
  exact KeepsO.ite (KeepsO.next hs1) (KeepsO.ite (KeepsO.next hs2) (KeepsO.next (Keeps.ite (State.bump_keeps hs3) hs3)))

theorem execRetentionLoss_keeps {sI s : State} {dt : ℕ} (hk : Keeps sI s) :
    KeepsO sI (execRetentionLoss dt s) := by
  unfold execRetentionLoss
  exact KeepsO.next (Keeps.mk (State.advance_keeps hk) rfl rfl)

theorem execMinlow_keeps {sI s : State} {dt : ℕ} (hk : Keeps sI s) :
    KeepsO sI (execMinlow dt s) := by
  unfold execMinlow
  exact KeepsO.next (State.set1_keeps (State.advance_keeps hk))

theorem execBackupDomainPowerOn_keeps {sI s : State} {dt : ℕ} (hk : Keeps sI s) :
    KeepsO sI (execBackupDomainPowerOn dt s) := by
  unfold execBackupDomainPowerOn
  extract_lets -merge -underBinder s1 s2 src srcx2 s3 s4
  have hs1 : Keeps sI s1 := State.advance_keeps hk
  have hs2 : Keeps sI s2 := State.resetBlocks_keeps hs1
  have hs3 : Keeps sI s3 := Keeps.mk hs2 rfl rfl
  have hs4 : Keeps sI s4 := State.linkUntrust_keeps (State.clr_keeps (State.clr_keeps (State.clr_keeps (State.clr_keeps hs3))))
  exact KeepsO.ite (KeepsO.next (Keeps.ite hs4 (State.set1_keeps hs4))) (KeepsO.next hs1)

theorem State.lostTick_keeps {sI s : State} {x : ℕ} (hk : Keeps sI s) :
    Keeps sI (State.lostTick s x) := by
  unfold State.lostTick
  exact Keeps.ite (State.markRecov_keeps (Keeps.ite hk (Keeps.foldl hk (fun _ _ ht => Keeps.ite (State.setPathSt_keeps ht) ht)))) (Keeps.ite hk (Keeps.foldl hk (fun _ _ ht => Keeps.ite (State.setPathSt_keeps ht) ht)))

theorem State.abandonTick_keeps {sI s : State} (hk : Keeps sI s) :
    Keeps sI (State.abandonTick s) := by
  unfold State.abandonTick
  extract_lets -merge -underBinder s1 s2 src srcx2 srcx3 srcx4 srcx5 s3
  have hs1 : Keeps sI s1 := State.stopDrive_keeps (State.stopShots_keeps (State.stopTx_keeps hk))
  have hs2 : Keeps sI s2 := Keeps.ite (State.lostTick_keeps (State.lostTick_keeps hs1)) hs1
  have hs3 : Keeps sI s3 := Keeps.mk hs2 rfl rfl
  exact State.zcRefuse_keeps (State.lcdOff_keeps (State.abandonRun_keeps (State.put_keeps hs3)))

theorem State.noteWarning_keeps {sI s : State} {external : Bool} (hk : Keeps sI s) :
    Keeps sI (State.noteWarning s external) := by
  unfold State.noteWarning
  exact Keeps.mk (State.putB_keeps (State.bump_keeps hk)) rfl rfl

theorem State.countWarning_keeps {sI s : State} {external : Bool} {mv : ℕ} (hk : Keeps sI s) :
    Keeps sI (State.countWarning s external mv) := by
  unfold State.countWarning
  exact State.logTrouble_keeps (State.noteWarning_keeps hk)

theorem State.clearLog_keeps {s0 s : State} (h : Keeps s0 s) : Keeps s0 s.clearLog := by
  have hw := State.wr_keeps (a := F.SYS_RING_B 7) (w := 0#32) (State.wr_keeps (a := F.LOG_TSTAT) (w := 0#32)
    (State.wr_keeps (a := F.LOG_TRD) (w := 0#32) (State.wr_keeps (a := F.LOG_TSEQ) (w := 0#32) h)))
  unfold State.clearLog
  refine ⟨hw.1, fun h0 => ?_, hw.2.2⟩
  have h1 := storesCanonical_iff.mp (hw.2.1 h0)
  exact storesCanonical_iff.mpr ⟨h1.1, h1.2.1, sdrop_swf (p := fun a => logSlot ((a - slotAddr 0) / 128)) h1.2.2.1,
    sdrop_swf (p := logSlot) h1.2.2.2.1, h1.2.2.2.2⟩

theorem State.logStart_keeps {sI s : State} {crsOk : Bool} (hk : Keeps sI s) :
    Keeps sI (State.logStart s crsOk) := by
  unfold State.logStart
  exact Keeps.ite (State.set1_keeps hk) (State.clearLog_keeps hk)

theorem State.restartSafe_keeps {sI s : State} (hk : Keeps sI s) :
    Keeps sI (State.restartSafe s) := by
  unfold State.restartSafe
  split
  · exact hk
  · extract_lets -merge -underBinder src s0 t s1 s2 srcx2
    have hs0 : Keeps sI s0 := Keeps.mk hk rfl rfl
    have ht : Keeps sI t := Keeps.ite (State.detect_keeps hs0) hs0
    have hs1 : Keeps sI s1 := Keeps.ite (State.detect_keeps hs0) (State.logTrouble_keeps ht)
    have hs2 : Keeps sI s2 := State.set1_keeps (State.enterSafe_keeps hs1)
    exact Keeps.ite (State.set1_keeps (Keeps.mk hs2 rfl rfl)) hs2

theorem State.retentionRecord_keeps {sI s : State} (hk : Keeps sI s) :
    Keeps sI (State.retentionRecord s) := by
  unfold State.retentionRecord
  exact Keeps.ite (State.showHold_keeps (State.tamperRecord_keeps (Keeps.mk (State.retSeal_keeps (State.legal_keeps hk)) rfl rfl))) (Keeps.mk (State.retSeal_keeps (State.legal_keeps hk)) rfl rfl)

theorem State.resumeTick_keeps {sI s : State} {n : ℕ} (hk : Keeps sI s) :
    Keeps sI (State.resumeTick s n) := by
  unfold State.resumeTick
  exact Keeps.mk (State.put_keeps (State.put_keeps hk)) rfl rfl

theorem State.evaluate_keeps {sI s : State} (hk : Keeps sI s) :
    KeepsP sI (State.evaluate s) := by
  unfold State.evaluate
  extract_lets -merge -underBinder bad s1 n s1x2
  have hs1 : Keeps sI s1 := State.resumeTick_keeps (State.logTrouble_keeps (State.set1_keeps hk))
  have hs1x2 : Keeps sI s1x2 := State.resumeTick_keeps hk
  exact KeepsP.ite (KeepsP.pair (State.showHold_keeps (State.retentionRecord_keeps (State.resumeTick_keeps hk)))) (KeepsP.ite (KeepsP.pair (State.showHold_keeps (State.tamperRecord_keeps (State.retPut_keeps (State.retPut_keeps hs1))))) (KeepsP.pair (State.showHold_keeps (Keeps.ite hs1x2 (State.retWrite_keeps hs1x2)))))

theorem State.sealRecord_keeps {sI s : State} {isOpen : Bool} (hk : Keeps sI s) :
    Keeps sI (State.sealRecord s isOpen) := by
  unfold State.sealRecord
  exact Keeps.ite (State.raiseTamper_keeps (State.legal_keeps hk)) (State.legal_keeps hk)

theorem State.sealStore_keeps {sI s : State} (hk : Keeps sI s) :
    Keeps sI (State.sealStore s) := by
  unfold State.sealStore
  exact Keeps.ite hk (State.retWrite_keeps hk)

theorem State.sealCompare_keeps {sI s : State} {skip : Bool} (hk : Keeps sI s) :
    Keeps sI (State.sealCompare s skip) := by
  unfold State.sealCompare
  exact Keeps.mk (State.sealStore_keeps (Keeps.ite hk (State.sealRecord_keeps hk))) rfl rfl

theorem State.tampStart_keeps {sI s : State} (hk : Keeps sI s) :
    Keeps sI (State.tampStart s) := by
  unfold State.tampStart
  exact Keeps.foldl hk (fun _ _ hs => State.tampArm_keeps hs)

theorem State.linkStart_keeps {sI s : State} (hk : Keeps sI s) :
    Keeps sI (State.linkStart s) := by
  unfold State.linkStart
  exact Keeps.mk (Keeps.ite (State.reserveSeq_keeps (Keeps.foldl hk (fun _ _ ht => Keeps.ite (State.reserveFc_keeps ht) ht))) (Keeps.foldl hk (fun _ _ ht => Keeps.ite (State.reserveFc_keeps ht) ht))) rfl rfl

theorem State.ameStart_keeps {sI s : State} (hk : Keeps sI s) :
    Keeps sI (State.ameStart s) := by
  unfold State.ameStart
  extract_lets -merge -underBinder s1 s2 src s3
  have hs1 : Keeps sI s1 := State.buildPdur_keeps (State.buildDur_keeps (State.buildUcode_keeps hk))
  have hs2 : Keeps sI s2 := Keeps.foldl hs1 (fun _ _ hv => State.put_keeps hv)
  have hs3 : Keeps sI s3 := Keeps.mk hs2 rfl rfl
  exact Keeps.ite (State.startBoost_keeps hs3) hs3

theorem State.startRest_keeps {sI s : State} {retFail : Bool} {skipSeal : Bool} (hk : Keeps sI s) :
    Keeps sI (State.startRest s retFail skipSeal) := by
  unfold State.startRest
  extract_lets -merge -underBinder s1 src s2 s3 s4 s5 t
  have hs1 : Keeps sI s1 := State.configLoad_keeps (State.keyRecover_keeps (State.journalRecover_keeps hk))
  have hs2 : Keeps sI s2 := Keeps.ite (State.set1_keeps (Keeps.mk hs1 rfl rfl)) hs1
  have hs3 : Keeps sI s3 := State.sealCompare_keeps (State.tampStart_keeps hs2)
  have hs4 : Keeps sI s4 := State.actuatorStart_keeps (State.dispRecover_keeps (State.dispStart_keeps hs3))
  have hs5 : Keeps sI s5 := State.ameStart_keeps (State.linkStart_keeps (State.showImages_keeps (State.resumeUpdate_keeps hs4)))
  exact State.mapIntervals_keeps hs5

theorem State.noteStop_keeps {sI s : State} (hk : Keeps sI s) :
    Keeps sI (State.noteStop s) := by
  unfold State.noteStop
  exact Keeps.mk (State.clr_keeps (State.clr_keeps (State.set1_keeps (State.setOsf_keeps hk)))) rfl rfl

theorem State.clockStart_keeps {sI s : State} (hk : Keeps sI s) :
    Keeps sI (State.clockStart s) := by
  unfold State.clockStart
  exact Keeps.ite (State.set1_keeps hk) (Keeps.ite (State.detect_keeps (State.noteStop_keeps hk)) hk)

theorem State.bootRun_keeps {sI s : State} {dt : ℕ} {found : BootIn} (hk : Keeps sI s) :
    KeepsP sI (State.bootRun s dt found) := by
  unfold State.bootRun
  extract_lets -merge -underBinder s0 src s1 skip bad
  have hs0 : Keeps sI s0 := State.advance_keeps hk
  have hs1 : Keeps sI s1 := Keeps.mk hs0 rfl rfl
  split
  · rename_i retFail s2 heq
    have hs2 : Keeps sI s2 := by
      have he := congrArg (fun p => p.2) heq
      dsimp only at he
      rw [← he]
      exact State.evaluate_keeps (State.restartSafe_keeps (State.decideDebug_keeps (State.checkRng_keeps (State.checkRoots_keeps (State.logStart_keeps hs1)))))
    split
    · rename_i ok s3 heq
      have hs3 : Keeps sI s3 := by
        have he := congrArg (fun p => p.2) heq
        dsimp only at he
        rw [← he]
        exact State.bootVerify_keeps hs2
      exact KeepsP.ite (KeepsP.pair (State.clearLog_keeps hs3)) (KeepsP.pair (State.clockStart_keeps (State.advance_keeps (State.startRest_keeps hs3))))

theorem execStartUp_keeps {sI s : State} {dt : ℕ} {found : BootIn} (hk : Keeps sI s) :
    KeepsO sI (execStartUp dt found s) := by
  unfold execStartUp
  refine KeepsO.ite ?_ ?_
  · exact KeepsO.next (State.advance_keeps hk)
  · split
    · rename_i t heq
      have ht : Keeps sI t := by
        have he := congrArg (fun p => p.2) heq
        dsimp only at he
        rw [← he]
        exact State.bootRun_keeps hk
      exact KeepsO.next (Keeps.mk ht rfl rfl)
    · rename_i t heq
      have ht : Keeps sI t := by
        have he := congrArg (fun p => p.2) heq
        dsimp only at he
        rw [← he]
        exact State.bootRun_keeps hk
      exact KeepsO.next (Keeps.mk ht rfl rfl)

theorem State.warnStart_keeps {sI s : State} {dt : ℕ} {external : Bool} {mv : ℕ} (hk : Keeps sI s) :
    Keeps sI (State.warnStart s dt external mv) := by
  unfold State.warnStart
  extract_lets -merge -underBinder wait
  have hwait : ∀ t, Keeps sI t → Keeps sI (wait t) := by
    intro t ht
    dsimp -zeta only [wait]
    exact Keeps.mk (State.countWarning_keeps ht) rfl rfl
  refine Keeps.ite ?_ ?_
  · exact hwait _ (State.advance_keeps hk)
  · split
    · rename_i t heq
      have ht : Keeps sI t := by
        have he := congrArg (fun p => p.2) heq
        dsimp only at he
        rw [← he]
        exact State.bootRun_keeps hk
      exact Keeps.mk (State.noteWarning_keeps ht) rfl rfl
    · rename_i t heq
      have ht : Keeps sI t := by
        have he := congrArg (fun p => p.2) heq
        dsimp only at he
        rw [← he]
        exact State.bootRun_keeps hk
      exact Keeps.mk (State.enterPower_keeps (State.emergencyBegin_keeps (State.abandonTick_keeps (State.countWarning_keeps ht)))) rfl rfl

theorem State.warn_keeps {sI s : State} {external : Bool} {mv : ℕ} (hk : Keeps sI s) :
    Keeps sI (State.warn s external mv) := by
  unfold State.warn
  split
  · exact Keeps.mk (State.enterPower_keeps (State.emergencyBegin_keeps (State.abandonTick_keeps (State.countWarning_keeps hk)))) rfl rfl
  · exact Keeps.mk (State.enterPower_keeps (State.emergencyBegin_keeps (State.abandonTick_keeps (State.countWarning_keeps hk)))) rfl rfl
  · exact State.countWarning_keeps hk
  · exact State.countWarning_keeps hk
  · exact Keeps.ite (State.countWarning_keeps hk) (Keeps.mk (State.countWarning_keeps hk) rfl rfl)
  · exact State.noteWarning_keeps hk
  · exact State.noteWarning_keeps hk
  · exact hk

theorem execPowerFailWarning_keeps {sI s : State} {dt : ℕ} {external : Option ℕ} {vbatMv : ℕ} (hk : Keeps sI s) :
    KeepsO sI (execPowerFailWarning dt external vbatMv s) := by
  unfold execPowerFailWarning
  extract_lets -merge -underBinder ext gate
  have hgate : ∀ t, Keeps sI t → Keeps sI (gate t) := by
    intro t ht
    dsimp -zeta only [gate]
    exact Keeps.mk ht rfl rfl
  split
  · exact KeepsO.next (State.advance_keeps hk)
  · exact KeepsO.next (State.advance_keeps hk)
  · exact KeepsO.ite (KeepsO.next (hgate _ (State.warnStart_keeps hk))) (KeepsO.next (State.warn_keeps (hgate _ (State.advance_keeps hk))))

theorem execEmergencyCommitEnd_keeps {sI s : State} {dt : ℕ} {vbatMv : ℕ} (hk : Keeps sI s) :
    KeepsO sI (execEmergencyCommitEnd dt vbatMv s) := by
  unfold execEmergencyCommitEnd
  split
  · extract_lets -merge -underBinder s1 src srcx2 s2
    have hs1 : Keeps sI s1 := State.enterPower_keeps (State.emergencyEnd_keeps (State.passTo_keeps hk))
    have hs2 : Keeps sI s2 := Keeps.mk hs1 rfl rfl
    exact KeepsO.next (by
      split
      · exact Keeps.ite (State.externalReset_keeps hs2) hs2
      · exact hs2)
  · exact KeepsO.next (State.advance_keeps hk)

theorem execTicksResume_keeps {sI s : State} {dt : ℕ} (hk : Keeps sI s) :
    KeepsO sI (execTicksResume dt s) := by
  unfold execTicksResume
  exact KeepsO.ite (KeepsO.ite (KeepsO.next (Keeps.mk (Keeps.mk (State.advance_keeps hk) rfl rfl) rfl rfl)) (KeepsO.next (Keeps.mk (Keeps.mk (State.advance_keeps hk) rfl rfl) rfl rfl))) (KeepsO.next (State.advance_keeps hk))

theorem State.keepDisp_keeps {sI s : State} {from_ : State} (hk : Keeps sI s) :
    Keeps sI (State.keepDisp s from_) := by
  unfold State.keepDisp
  exact Keeps.mk (Keeps.foldl hk (fun _ _ ht => Keeps.ite (State.wr_keeps ht) ht)) rfl rfl

theorem State.enterHibernate_keeps {sI s : State} (hk : Keeps sI s) :
    Keeps sI (State.enterHibernate s) := by
  unfold State.enterHibernate
  exact Keeps.mk (State.keepDisp_keeps (State.coreReset_keeps (State.stopDrive_keeps (State.stopTx_keeps hk)))) rfl rfl

theorem execPowerFailWaitExpiry_keeps {sI s : State} {dt : ℕ} (hk : Keeps sI s) :
    KeepsO sI (execPowerFailWaitExpiry dt s) := by
  unfold execPowerFailWaitExpiry
  split
  · exact KeepsO.next (Keeps.mk (State.enterHibernate_keeps (State.passTo_keeps hk)) rfl rfl)
  · exact KeepsO.next (State.advance_keeps hk)

theorem State.endHibernate_keeps {sI s : State} (hk : Keeps sI s) :
    Keeps sI (State.endHibernate s) := by
  unfold State.endHibernate
  exact State.toStart_keeps (State.set1_keeps (State.coreReset_keeps hk))

theorem execStartGate_keeps {sI s : State} {dt : ℕ} (hk : Keeps sI s) :
    KeepsO sI (execStartGate dt s) := by
  unfold execStartGate
  extract_lets -merge -underBinder s1 src srcx2 s2
  have hs1 : Keeps sI s1 := State.advance_keeps hk
  have hs2 : Keeps sI s2 := Keeps.mk hs1 rfl rfl
  split
  · exact KeepsO.next (State.toStart_keeps hs2)
  · exact KeepsO.next (Keeps.ite hs2 (State.endHibernate_keeps hs2))
  · exact KeepsO.next hs1
  · exact KeepsO.next hs2

theorem execHibernateWake_keeps {sI s : State} {dt : ℕ} (hk : Keeps sI s) :
    KeepsO sI (execHibernateWake dt s) := by
  unfold execHibernateWake
  exact KeepsO.next (Keeps.ite (State.endHibernate_keeps (State.advance_keeps hk)) (State.advance_keeps hk))

theorem execXt32Stopped_keeps {sI s : State} {dt : ℕ} (hk : Keeps sI s) :
    KeepsO sI (execXt32Stopped dt s) := by
  unfold execXt32Stopped
  exact KeepsO.ite (KeepsO.next (Keeps.mk (State.advance_keeps hk) rfl rfl)) (KeepsO.next (Keeps.ite (State.detect_keeps (State.noteStop_keeps (State.advance_keeps hk))) (State.noteStop_keeps (State.advance_keeps hk))))

theorem execXt32Ok_keeps {sI s : State} {dt : ℕ} (hk : Keeps sI s) :
    KeepsO sI (execXt32Ok dt s) := by
  unfold execXt32Ok
  exact KeepsO.next (Keeps.ite (Keeps.mk (State.advance_keeps hk) rfl rfl) (State.set1_keeps (Keeps.mk (State.advance_keeps hk) rfl rfl)))

theorem execRcNotLocked_keeps {sI s : State} {dt : ℕ} (hk : Keeps sI s) :
    KeepsO sI (execRcNotLocked dt s) := by
  unfold execRcNotLocked
  exact KeepsO.ite (KeepsO.next (Keeps.ite (State.detect_keeps (State.clr_keeps (State.set1_keeps (State.advance_keeps hk)))) (State.clr_keeps (State.set1_keeps (State.advance_keeps hk))))) (KeepsO.next (State.advance_keeps hk))

theorem execRcLock_keeps {sI s : State} {dt : ℕ} (hk : Keeps sI s) :
    KeepsO sI (execRcLock dt s) := by
  unfold execRcLock
  exact KeepsO.next (Keeps.ite (State.set1_keeps (State.advance_keeps hk)) (State.advance_keeps hk))

theorem State.sealAccept_keeps {sI s : State} (hk : Keeps sI s) :
    Keeps sI (State.sealAccept s) := by
  unfold State.sealAccept
  exact Keeps.ite (Keeps.mk (State.sealStore_keeps (State.sealRecord_keeps (State.capture_keeps (State.wakeCore_keeps hk)))) rfl rfl) (Keeps.ite (State.retWrite_keeps hk) hk)

theorem State.sealSample_keeps {sI s : State} {v : Bool} (hk : Keeps sI s) :
    Keeps sI (State.sealSample s v) := by
  unfold State.sealSample
  exact Keeps.ite (Keeps.mk hk rfl rfl) (Keeps.ite (Keeps.mk hk rfl rfl) (State.sealAccept_keeps (Keeps.mk hk rfl rfl)))

theorem execSealChange_keeps {s0 s : State} {dt : Nat} {samples : List Bool} (h : Keeps s0 s) : KeepsO s0 (execSealChange dt samples s) :=
  KeepsO.next (State.sampleRun_keeps (fun _ _ ht => State.sealSample_keeps ht) h)

end Sys2Proof.Machine
end

