-- ==== Sys2Proof/Laws/KeepsAccess.lean ====
section
/-! SUPPORT. What the operations of Machine/Access.lean keep (Laws/Keeps.lean), one lemma per operation. -/

namespace Sys2Proof.Machine

theorem State.senseGpio_keeps {sI s : State} {a : ℕ} (hk : Keeps sI s) :
    Keeps sI (State.senseGpio s a) := by
  unfold State.senseGpio
  extract_lets -merge -underBinder n f
  refine Keeps.ite ?_ ?_
  · refine Keeps.ite ?_ ?_
    · split
      · rename_i v s1 heq
        have hs1 : Keeps sI s1 := by
          have he := congrArg (fun p => p.2) heq
          dsimp only at he
          rw [← he]
          exact State.draw_keeps hk
        exact State.put_keeps hs1
    · exact State.clr_keeps hk
  · exact hk

theorem State.readReg_keeps {sI s0 : State} {rank : ℕ} {a : ℕ} {pend : Bool} (hk : Keeps sI s0) :
    KeepsP sI (State.readReg s0 rank a pend) := by
  have h : Keeps sI (if pend then s0 else s0.senseGpio a) := Keeps.ite hk (State.senseGpio_keeps hk)
  show Keeps sI (State.readReg s0 rank a pend).2
  unfold State.readReg
  generalize (if pend then s0 else s0.senseGpio a) = s at h
  exact Keeps.ite (State.put_keeps h) h

theorem State.readCrs_keeps {sI s : State} {rank : ℕ} {a : ℕ} (hk : Keeps sI s) :
    KeepsP sI (State.readCrs s rank a) := by
  have h : ∀ x n, Keeps sI (s.eccMeet x n) := fun x n => State.eccMeet_keeps hk
  show Keeps sI (State.readCrs s rank a).2
  unfold State.readCrs
  extract_lets slot r t rcd off
  clear_value slot off
  split
  · exact hk
  · split
    · exact hk
    · split
      · exact hk
      · split
        · exact State.draw_keeps (n := 2 ^ 32) (h _ _)
        · exact h _ _

theorem State.readNvm_keeps {sI s : State} {rank : ℕ} {a : ℕ} (hk : Keeps sI s) :
    KeepsP sI (State.readNvm s rank a) := by
  unfold State.readNvm
  exact KeepsP.ite (KeepsP.pair hk) (KeepsP.ite (State.draw_keeps hk) (KeepsP.pair hk))

theorem State.readWord_keeps {sI s : State} {rank : ℕ} {a : ℕ} {pend : Bool} (hk : Keeps sI s) :
    KeepsP sI (State.readWord s rank a pend) := by
  unfold State.readWord
  split
  · refine KeepsP.ite ?_ ?_
    · split
      · rename_i v s1 heq
        have hs1 : Keeps sI s1 := by
          have he := congrArg (fun p => p.2) heq
          dsimp only at he
          rw [← he]
          exact State.readReg_keeps hk
        exact KeepsP.pair hs1
    · refine KeepsP.ite ?_ ?_
      · exact State.readCrs_keeps hk
      · refine KeepsP.ite ?_ ?_
        · split
          · rename_i v s1 heq
            have hs1 : Keeps sI s1 := by
              have he := congrArg (fun p => p.2) heq
              dsimp only at he
              rw [← he]
              exact State.readNvm_keeps hk
            exact KeepsP.pair hs1
        · exact KeepsP.pair hk

theorem State.writeRw_keeps {sI s : State} {a : ℕ} {r : RegRow} {m : ℕ} {w : Word} (hk : Keeps sI s) :
    Keeps sI (State.writeRw s a r m w) := by
  unfold State.writeRw
  exact Keeps.ite (Keeps.ite hk (State.wr_keeps hk)) (State.stage_keeps (Keeps.ite hk (State.wr_keeps hk)))

theorem State.writeW1c_keeps {sI s : State} {a : ℕ} {r : RegRow} {m : ℕ} {w : Word} (hk : Keeps sI s) :
    Keeps sI (State.writeW1c s a r m w) := by
  unfold State.writeW1c
  exact Keeps.ite (Keeps.foldl hk (fun _ _ ht => Keeps.ite (State.clr_keeps ht) ht)) (Keeps.ite hk (State.wr_keeps hk))

theorem State.writeAction_keeps {sI s : State} {a : ℕ} {m : ℕ} {w : Word} (hk : Keeps sI s) :
    KeepsP sI (State.writeAction s a m w) := by
  unfold State.writeAction
  extract_lets -merge -underBinder on s1 src v s1x2 s1x3
  have hs1 : Keeps sI s1 := Keeps.ite (State.schedCommit_keeps hk) hk
  have hs1x2 : Keeps sI s1x2 := Keeps.ite (State.programDebug_keeps hk) hk
  have hs1x3 : Keeps sI s1x3 := Keeps.ite (State.ackSafe_keeps hk) hk
  refine KeepsP.ite ?_ ?_
  · exact KeepsP.pair (Keeps.ite (State.schedDiscard_keeps hs1) hs1)
  · refine KeepsP.ite ?_ ?_
    · exact KeepsP.pair (Keeps.ite (Keeps.mk hk rfl rfl) hk)
    · refine KeepsP.ite ?_ ?_
      · exact KeepsP.pair (Keeps.ite (State.startTimeWrite_keeps hk) hk)
      · refine KeepsP.ite ?_ ?_
        · exact KeepsP.pair (State.holdDate_keeps hk)
        · refine KeepsP.ite ?_ ?_
          · exact KeepsP.pair (State.setTimeOfDay_keeps hk)
          · refine KeepsP.ite ?_ ?_
            · exact KeepsP.pair (Keeps.ite (State.startCapture_keeps hk) hk)
            · refine KeepsP.ite ?_ ?_
              · exact KeepsP.pair (Keeps.ite (State.closeRequest_keeps hk) hk)
              · refine KeepsP.ite ?_ ?_
                · refine KeepsP.ite ?_ ?_
                  · exact KeepsP.pair (State.remoteClose_keeps hk)
                  · refine KeepsP.ite ?_ ?_
                    · split
                      · rename_i ok s1 heq
                        have hs1 : Keeps sI s1 := by
                          have he := congrArg (fun p => p.2) heq
                          dsimp only at he
                          rw [← he]
                          exact State.remoteOpen_keeps hk
                        exact KeepsP.pair hs1
                    · exact KeepsP.pair hk
                · exact KeepsP.ite (KeepsP.pair (Keeps.ite (State.holdAckWrite_keeps hs1x2) hs1x2)) (KeepsP.ite (KeepsP.ite (KeepsP.ite (KeepsP.pair (State.forceSafe_keeps hs1x3)) (KeepsP.pair hk)) (KeepsP.pair hs1x3)) (KeepsP.pair hk))

theorem State.writeShow_keeps {sI s : State} {b : Block} {a : ℕ} (hk : Keeps sI s) :
    Keeps sI (State.writeShow s b a) := by
  unfold State.writeShow
  exact Keeps.ite (State.buildPdur_keeps hk) (Keeps.ite (State.putB_keeps hk) hk)

theorem State.writeWord_keeps {sI s : State} {rank : ℕ} {a : ℕ} {sel : ℕ} {w : Word} (hk : Keeps sI s) :
    KeepsP sI (State.writeWord s rank a sel w) := by
  unfold State.writeWord
  split
  · exact KeepsP.pair hk
  · extract_lets -merge -underBinder m s1 s2
    have hs1 : Keeps sI s1 := State.writeW1c_keeps (State.writeRw_keeps hk)
    have hs2 : Keeps sI s2 := Keeps.ite hk hs1
    refine KeepsP.ite ?_ ?_
    · exact KeepsP.pair hk
    · refine KeepsP.ite ?_ ?_
      · exact KeepsP.pair hk
      · refine KeepsP.ite ?_ ?_
        · exact KeepsP.pair hk
        · refine KeepsP.ite ?_ ?_
          · exact KeepsP.pair hk
          · refine KeepsP.ite ?_ ?_
            · exact KeepsP.pair hk
            · split
              · rename_i s3 heq
                have hs3 : Keeps sI s3 := by
                  have he := congrArg (fun p => p.2) heq
                  dsimp only at he
                  rw [← he]
                  exact State.writeAction_keeps hs2
                exact KeepsP.pair (State.writeShow_keeps hs3)
              · exact KeepsP.pair hk

theorem State.writeAt_keeps {sI s : State} {rank : ℕ} {a : ℕ} {w : Word} (hk : Keeps sI s) :
    KeepsP sI (State.writeAt s rank a w) := by
  unfold State.writeAt
  exact State.writeWord_keeps hk

theorem State.writeBy_keeps {sI s : State} {src : Source} {a : ℕ} {w : Word} (hk : Keeps sI s) :
    Keeps sI (State.writeBy s src a w) := by
  unfold State.writeBy
  exact Keeps.ite (KeepsP.out (State.writeAt_keeps hk)) hk

theorem execRegisterWrite_keeps {sI s : State} {src : Source} {addr : ℕ} {value : Word} (hk : Keeps sI s) :
    KeepsO sI (execRegisterWrite src addr value s) := by
  unfold execRegisterWrite
  exact KeepsO.next (Keeps.ite (State.writeBy_keeps hk) hk)

theorem execHibernate_keeps {sI s : State} {src : Source} (hk : Keeps sI s) :
    KeepsO sI (execHibernate src s) := by
  unfold execHibernate
  exact KeepsO.next (Keeps.ite (KeepsP.out (State.writeWord_keeps hk)) hk)

theorem execTimeWrite_keeps {sI s : State} {src : Source} {value : Word} (hk : Keeps sI s) :
    KeepsO sI (execTimeWrite src value s) := by
  unfold execTimeWrite
  exact KeepsO.next (State.writeBy_keeps hk)

theorem execSetDate_keeps {sI s : State} {src : Source} {value : Word} (hk : Keeps sI s) :
    KeepsO sI (execSetDate src value s) := by
  unfold execSetDate
  exact KeepsO.next (State.writeBy_keeps hk)

theorem execSetTime_keeps {sI s : State} {src : Source} {value : Word} (hk : Keeps sI s) :
    KeepsO sI (execSetTime src value s) := by
  unfold execSetTime
  exact KeepsO.next (State.writeBy_keeps hk)

theorem execCountdownTimerWrite_keeps {sI s : State} {src : Source} {value : Word} (hk : Keeps sI s) :
    KeepsO sI (execCountdownTimerWrite src value s) := by
  unfold execCountdownTimerWrite
  exact KeepsO.next (State.writeBy_keeps hk)

theorem execClose_keeps {sI s : State} {src : Source} (hk : Keeps sI s) :
    KeepsO sI (execClose src s) := by
  unfold execClose
  exact KeepsO.next (State.writeBy_keeps hk)

theorem execRemoteDisconnect_keeps {sI s : State} {src : Source} (hk : Keeps sI s) :
    KeepsO sI (execRemoteDisconnect src s) := by
  unfold execRemoteDisconnect
  exact KeepsO.next (State.writeBy_keeps hk)

theorem execRemoteReconnect_keeps {sI s : State} {src : Source} (hk : Keeps sI s) :
    KeepsO sI (execRemoteReconnect src s) := by
  unfold execRemoteReconnect
  exact KeepsO.next (State.writeBy_keeps hk)

theorem execPrepaymentModeWrite_keeps {sI s : State} {src : Source} {mode : BitVec 2} (hk : Keeps sI s) :
    KeepsO sI (execPrepaymentModeWrite src mode s) := by
  unfold execPrepaymentModeWrite
  exact KeepsO.next (Keeps.ite (KeepsP.out (State.writeWord_keeps hk)) hk)

end Sys2Proof.Machine
end

