-- ==== Sys2Proof/Laws/KeepsCarriers.lean ====
section
/-! SUPPORT. What the operations of Machine/Carriers.lean keep (Laws/Keeps.lean), one lemma per operation. -/

namespace Sys2Proof.Machine

theorem State.dropKeyBuf_keeps {sI s : State} {c : Carrier} (hk : Keeps sI s) :
    Keeps sI (State.dropKeyBuf s c) := by
  unfold State.dropKeyBuf
  exact Keeps.mk hk rfl rfl

theorem State.endSessionOn_keeps {sI s : State} {c : Carrier} (hk : Keeps sI s) :
    Keeps sI (State.endSessionOn s c) := by
  unfold State.endSessionOn
  exact State.dropKeyBuf_keeps (State.setCar_keeps hk)

theorem State.lineMark_keeps {sI s : State} (hk : Keeps sI s) :
    KeepsP sI (State.lineMark s) := by
  unfold State.lineMark
  split
  · rename_i q s1 heq
    have hs1 : Keeps sI s1 := by
      have he := congrArg (fun p => p.2) heq
      dsimp only at he
      rw [← he]
      exact State.nextSeq_keeps hk
    exact KeepsP.pair hs1

theorem State.emit_keeps {sI s : State} {c : Carrier} {b : List Byte} (hk : Keeps sI s) :
    Keeps sI (State.emit s c b) := by
  unfold State.emit
  dsimp -zeta only
  split
  · exact State.linkSend_keeps hk
  · exact State.setCar_keeps (KeepsP.out (KeepsP.ite (State.lineMark_keeps hk) (KeepsP.pair hk)))

theorem State.baudCapture_keeps {sI s : State} {old : State} (hk : Keeps sI s) :
    Keeps sI (State.baudCapture s old) := by
  unfold State.baudCapture
  exact Keeps.ite hk (Keeps.ite hk (State.setCar_keeps hk))

theorem State.send_keeps {sI s : State} {c : Carrier} {inv : Byte} {l : LineForm} {r : Resp} (hk : Keeps sI s) :
    Keeps sI (State.send s c inv l r) := by
  unfold State.send
  exact Keeps.ite (State.setCar_keeps (Keeps.ite hk (State.bump_keeps hk))) (State.emit_keeps (Keeps.ite hk (State.bump_keeps hk)))

theorem State.conclude_keeps {sI s : State} {c : Carrier} {inv : Byte} {l : LineForm} {r : Resp} (hk : Keeps sI s) :
    Keeps sI (State.conclude s c inv l r) := by
  unfold State.conclude
  split
  · exact State.setCar_keeps hk
  · exact Keeps.ite (State.send_keeps hk) (State.setCar_keeps hk)
  · exact State.send_keeps hk

theorem State.flushAfter_keeps {sI s : State} {c : Carrier} (hk : Keeps sI s) :
    Keeps sI (State.flushAfter s c) := by
  unfold State.flushAfter
  exact Keeps.foldl (State.setCar_keeps hk) (fun _ _ ht => State.emit_keeps ht)

theorem State.release_keeps {sI s : State} {c : Carrier} {r : Resp} (hk : Keeps sI s) :
    Keeps sI (State.release s c r) := by
  unfold State.release
  extract_lets -merge -underBinder x
  split
  · exact hk
  · exact State.flushAfter_keeps (State.setCar_keeps (Keeps.ite hk (State.bump_keeps hk)))

theorem State.releaseTokens_keeps {sI s : State} (hk : Keeps sI s) :
    Keeps sI (State.releaseTokens s) := by
  unfold State.releaseTokens
  exact Keeps.ite hk (Keeps.foldl hk (fun t c ht => by
      split
      · exact State.flushAfter_keeps ht
      · exact ht))

theorem State.answer_keeps {sI s : State} {c : Carrier} {inv : Byte} {l : LineForm} {keep : Bool} {f : State → Resp × State} (hk : Keeps sI s) (hf : ∀ t, Keeps sI t → KeepsP sI (f t)) :
    Keeps sI (State.answer s c inv l keep f) := by
  unfold State.answer
  refine Keeps.ite ?_ ?_
  · exact hk
  · extract_lets -merge -underBinder s1 s2
    have hs1 : Keeps sI s1 := Keeps.ite hk (State.dropKeyBuf_keeps hk)
    have hs2 : Keeps sI s2 := State.bump_keeps hs1
    refine Keeps.ite ?_ ?_
    · exact State.send_keeps hs1
    · refine Keeps.ite ?_ ?_
      · exact State.send_keeps hs2
      · split
        · rename_i r s3 heq
          have hs3 : Keeps sI s3 := by
            have he := congrArg (fun p => p.2) heq
            dsimp only at he
            rw [← he]
            exact hf _ hs2
          exact State.conclude_keeps hs3

theorem State.showCarriers_keeps {sI s : State} (hk : Keeps sI s) :
    Keeps sI (State.showCarriers s) := by
  unfold State.showCarriers
  exact State.put_keeps (State.putB_keeps hk)

theorem State.wakeCarrier_keeps {sI s : State} {c : Carrier} (hk : Keeps sI s) :
    Keeps sI (State.wakeCarrier s c) := by
  unfold State.wakeCarrier
  exact Keeps.ite (State.settlePower_keeps (State.showCarriers_keeps (State.setCar_keeps hk))) hk

theorem execCarrierWake_keeps {sI s : State} {dt : ℕ} {c : Carrier} (hk : Keeps sI s) :
    KeepsO sI (execCarrierWake dt c s) := by
  unfold execCarrierWake
  exact KeepsO.next (Keeps.ite (State.wakeCarrier_keeps (State.advance_keeps hk)) (State.advance_keeps hk))

theorem State.sleepCarrier_keeps {sI s : State} {c : Carrier} (hk : Keeps sI s) :
    Keeps sI (State.sleepCarrier s c) := by
  unfold State.sleepCarrier
  exact State.settlePower_keeps (State.showCarriers_keeps (Keeps.ite (Keeps.mk (State.setCar_keeps (State.endSessionOn_keeps hk)) rfl rfl) (State.setCar_keeps (State.endSessionOn_keeps hk))))

theorem execCarrierIdle_keeps {sI s : State} {dt : ℕ} {c : Carrier} (hk : Keeps sI s) :
    KeepsO sI (execCarrierIdle dt c s) := by
  unfold execCarrierIdle
  exact KeepsO.ite (KeepsO.next (State.sleepCarrier_keeps (State.passTo_keeps hk))) (KeepsO.next (State.advance_keeps hk))

theorem execGpioWake_keeps {sI s : State} {dt : ℕ} {ball : Fin 12} (hk : Keeps sI s) :
    KeepsO sI (execGpioWake dt ball s) := by
  unfold execGpioWake
  exact KeepsO.next (Keeps.ite (State.wakeCore_keeps (State.advance_keeps hk)) (State.advance_keeps hk))

theorem State.echo_keeps {sI s : State} {c : Carrier} {b : List Byte} (hk : Keeps sI s) :
    Keeps sI (State.echo s c b) := by
  unfold State.echo
  exact Keeps.ite (State.emit_keeps hk) hk

theorem State.queueLine_keeps {sI s : State} {c : Carrier} {kind : ℕ} {body : List Byte} (hk : Keeps sI s) :
    Keeps sI (State.queueLine s c kind body) := by
  unfold State.queueLine
  dsimp -zeta only
  exact State.ready_keeps (State.setCar_keeps (KeepsP.out (KeepsP.ite (State.lineMark_keeps hk) (KeepsP.pair hk))))

theorem State.endLine_keeps {sI s : State} {c : Carrier} (hk : Keeps sI s) :
    Keeps sI (State.endLine s c) := by
  unfold State.endLine
  exact Keeps.ite (State.setCar_keeps hk) (State.queueLine_keeps (State.setCar_keeps hk))

theorem State.endOptical_keeps {sI s : State} (hk : Keeps sI s) :
    Keeps sI (State.endOptical s) := by
  unfold State.endOptical
  exact State.showCarriers_keeps (Keeps.mk (State.setCar_keeps (State.endSessionOn_keeps hk)) rfl rfl)

theorem State.takeChar_keeps {sI s : State} {c : Carrier} {ch : Byte} (hk : Keeps sI s) :
    Keeps sI (State.takeChar s c ch) := by
  unfold State.takeChar
  extract_lets -merge -underBinder x n s1 y
  have hs1 : Keeps sI s1 := State.setCar_keeps hk
  refine Keeps.ite ?_ ?_
  · exact Keeps.ite (State.setCar_keeps hk) (State.endLine_keeps (State.echo_keeps hs1))
  · exact Keeps.ite (Keeps.ite (State.setCar_keeps hk) (State.echo_keeps (State.setCar_keeps hk))) (Keeps.ite (State.setCar_keeps hk) (Keeps.ite (State.setCar_keeps hk) (Keeps.ite (State.setCar_keeps hk) (Keeps.ite (State.setCar_keeps hk) (State.echo_keeps (State.setCar_keeps hk))))))

theorem State.setSign_keeps {sI s : State} {x : SignOn} (hk : Keeps sI s) :
    Keeps sI (State.setSign s x) := by
  unfold State.setSign
  exact State.showCarriers_keeps (Keeps.mk hk rfl rfl)

theorem State.signRequest_keeps {sI s : State} {address : Text} (hk : Keeps sI s) :
    Keeps sI (State.signRequest s address) := by
  unfold State.signRequest
  exact Keeps.ite hk (Keeps.ite (State.setSign_keeps hk) hk)

theorem execSignOnRequest_keeps {sI s : State} {dt : ℕ} {address : Text} (hk : Keeps sI s) :
    KeepsO sI (execSignOnRequest dt address s) := by
  unfold execSignOnRequest
  exact KeepsO.ite (KeepsO.next (State.signRequest_keeps (State.settlePower_keeps (State.showCarriers_keeps (State.setCar_keeps (State.advance_keeps hk)))))) (KeepsO.next (State.advance_keeps hk))

theorem execIdentification_keeps {sI s : State} {dt : ℕ} (hk : Keeps sI s) :
    KeepsO sI (execIdentification dt s) := by
  unfold execIdentification
  split
  · exact KeepsO.ite (KeepsO.next (State.setSign_keeps (State.emit_keeps (State.passTo_keeps hk)))) (KeepsO.next (State.passTo_keeps hk))
  · exact KeepsO.next (State.advance_keeps hk)

theorem State.takeOption_keeps {sI s : State} {sent : ℕ} {z : Char} {mode : Char} (hk : Keeps sI s) :
    Keeps sI (State.takeOption s sent z mode) := by
  unfold State.takeOption
  exact Keeps.ite (State.emit_keeps (State.setSign_keeps (State.setCar_keeps (State.endSessionOn_keeps (State.advance_keeps hk))))) (State.setSign_keeps hk)

theorem execOptionSelect_keeps {sI s : State} {dt : ℕ} {z : Char} {mode : Char} (hk : Keeps sI s) :
    KeepsO sI (execOptionSelect dt z mode s) := by
  unfold execOptionSelect
  extract_lets -merge -underBinder s1
  have hs1 : Keeps sI s1 := State.advance_keeps hk
  split
  · exact KeepsO.ite (KeepsO.next (State.takeOption_keeps (State.setCar_keeps hs1))) (KeepsO.next hs1)
  · exact KeepsO.next hs1

theorem execOptionSelectTimeout_keeps {sI s : State} {dt : ℕ} (hk : Keeps sI s) :
    KeepsO sI (execOptionSelectTimeout dt s) := by
  unfold execOptionSelectTimeout
  split
  · exact KeepsO.next (State.setSign_keeps (State.passTo_keeps hk))
  · exact KeepsO.next (State.advance_keeps hk)

theorem execBreakMessage_keeps {sI s : State} {dt : ℕ} (hk : Keeps sI s) :
    KeepsO sI (execBreakMessage dt s) := by
  unfold execBreakMessage
  exact KeepsO.next (Keeps.ite (State.endOptical_keeps (State.advance_keeps hk)) (State.advance_keeps hk))

theorem State.signChar_keeps {sI s : State} {ch : Byte} (hk : Keeps sI s) :
    Keeps sI (State.signChar s ch) := by
  unfold State.signChar
  extract_lets -merge -underBinder x t s1 r
  have hs1 : Keeps sI s1 := State.setCar_keeps hk
  refine Keeps.ite ?_ ?_
  · clear_value t
    split
    · exact State.takeOption_keeps hs1
    · exact Keeps.ite (State.signRequest_keeps hs1) hs1
  · exact Keeps.ite (State.setCar_keeps hk) (State.setCar_keeps hk)

theorem State.noteSlash_keeps {sI s : State} {c : Carrier} {b : Byte} (hk : Keeps sI s) :
    Keeps sI (State.noteSlash s c b) := by
  unfold State.noteSlash
  exact State.setCar_keeps hk

theorem State.optChar_keeps {sI s : State} {b : Byte} (hk : Keeps sI s) :
    Keeps sI (State.optChar s b) := by
  unfold State.optChar
  exact Keeps.ite (State.endOptical_keeps hk) (State.setCar_keeps (State.takeChar_keeps hk))

theorem State.receiveChar_keeps {sI s : State} {c : Carrier} {ch : Byte} (hk : Keeps sI s) :
    Keeps sI (State.receiveChar s c ch) := by
  unfold State.receiveChar
  exact Keeps.ite hk (Keeps.ite (State.noteSlash_keeps (State.wakeCarrier_keeps hk)) (Keeps.ite (State.noteSlash_keeps (State.setCar_keeps hk)) (Keeps.ite (State.takeChar_keeps (State.setCar_keeps hk)) (Keeps.ite (State.optChar_keeps (State.setCar_keeps hk)) (State.signChar_keeps (State.setCar_keeps hk))))))

end Sys2Proof.Machine
end

