-- ==== Sys2Proof/Laws/KeepsObjects.lean ====
section
/-! SUPPORT. What the operations of Machine/Objects.lean keep (Laws/Keeps.lean), one lemma per operation. -/

namespace Sys2Proof.Machine

theorem State.setCalendar_keeps {sI s : State} {w : Word × Word} (hk : Keeps sI s) :
    KeepsP sI (State.setCalendar s w) := by
  unfold State.setCalendar
  exact KeepsP.ite (KeepsP.pair hk) (KeepsP.pair (State.setTimeOfDay_keeps (State.holdDate_keeps hk)))

theorem State.stageTable_keeps {sI s : State} {addr : ℕ → ℕ} {n : ℕ} {l : List (ℕ × Word)} (hk : Keeps sI s) :
    Keeps sI (State.stageTable s addr n l) := by
  unfold State.stageTable
  exact Keeps.foldl hk (fun t i ht => by
      split
      · exact State.stage_keeps ht
      · exact State.stageField_keeps ht)

theorem State.stageDays_keeps {sI s : State} {l : List (ℕ × List Word)} (hk : Keeps sI s) :
    Keeps sI (State.stageDays s l) := by
  unfold State.stageDays
  exact Keeps.foldl hk (fun _ _ ht => Keeps.foldl ht (fun u e hu => by
      split
      · exact State.stage_keeps hu
      · exact Keeps.ite hu (State.stageField_keeps hu)))

theorem State.writeCalendar_keeps {sI s : State} {a : ℕ} {v : Val} (hk : Keeps sI s) :
    KeepsP sI (State.writeCalendar s a v) := by
  unfold State.writeCalendar
  split
  · refine KeepsP.ite ?_ ?_
    · split
      · exact KeepsP.ite (KeepsP.pair (State.stageTable_keeps hk)) (KeepsP.pair hk)
      · exact KeepsP.pair hk
    · refine KeepsP.ite ?_ ?_
      · split
        · exact KeepsP.ite (KeepsP.pair (Keeps.foldl hk (fun _ _ hu => State.stage_keeps hu))) (KeepsP.pair hk)
        · exact KeepsP.pair hk
      · split
        · exact KeepsP.ite (KeepsP.pair (State.stageDays_keeps hk)) (KeepsP.pair hk)
        · exact KeepsP.pair hk
  · exact KeepsP.pair hk

theorem State.specialInsert_keeps {sI s : State} {v : Val} (hk : Keeps sI s) :
    KeepsP sI (State.specialInsert s v) := by
  unfold State.specialInsert
  split
  · exact KeepsP.pair (State.stage_keeps hk)
  · exact KeepsP.pair hk

theorem State.specialDelete_keeps {sI s : State} {v : Val} (hk : Keeps sI s) :
    KeepsP sI (State.specialDelete s v) := by
  unfold State.specialDelete
  split
  · exact KeepsP.ite (KeepsP.pair (State.stageField_keeps hk)) (KeepsP.pair hk)
  · exact KeepsP.pair hk

theorem State.writeAttr_keeps {sI s : State} {k : ObjKind} {a : ℕ} {v : Val} (hk : Keeps sI s) :
    KeepsP sI (State.writeAttr s k a v) := by
  unfold State.writeAttr
  split
  · split
    · exact State.setCalendar_keeps hk
    · exact KeepsP.pair hk
  · split
    · exact KeepsP.ite (KeepsP.pair (State.stageTable_keeps hk)) (KeepsP.pair hk)
    · exact KeepsP.pair hk
  · exact State.writeCalendar_keeps hk
  · exact KeepsP.pair hk

theorem State.setAttr_keeps {sI s : State} {rank : ℕ} {obis : List ℕ} {a : ℕ} {v : Option Val} (hk : Keeps sI s) :
    KeepsP sI (State.setAttr s rank obis a v) := by
  unfold State.setAttr
  split
  · exact KeepsP.pair hk
  · refine KeepsP.ite ?_ ?_
    · exact KeepsP.pair hk
    · refine KeepsP.ite ?_ ?_
      · exact KeepsP.pair hk
      · split
        · exact KeepsP.pair hk
        · split
          · rename_i s1 heq
            have hs1 : Keeps sI s1 := by
              have he := congrArg (fun p => p.2) heq
              dsimp only at he
              rw [← he]
              exact State.writeAttr_keeps hk
            exact KeepsP.ite (KeepsP.pair hk) (KeepsP.pair hs1)
          · exact KeepsP.pair hk

theorem State.method_keeps {sI s : State} {k : ObjKind} {m : ℕ} {v : Option Val} (hk : Keeps sI s) :
    KeepsP sI (State.method s k m v) := by
  unfold State.method
  split
  · refine KeepsP.ite ?_ ?_
    · exact KeepsP.pair (State.remoteClose_keeps hk)
    · split
      · rename_i ok s1 heq
        have hs1 : Keeps sI s1 := by
          have he := congrArg (fun p => p.2) heq
          dsimp only at he
          rw [← he]
          exact State.remoteOpen_keeps hk
        exact KeepsP.pair hs1
  · split
    · exact KeepsP.pair hk
    · exact KeepsP.ite (State.specialInsert_keeps hk) (State.specialDelete_keeps hk)
  · exact KeepsP.pair hk

theorem State.invokeMethod_keeps {sI s : State} {rank : ℕ} {obis : List ℕ} {m : ℕ} {v : Option Val} (hk : Keeps sI s) :
    KeepsP sI (State.invokeMethod s rank obis m v) := by
  unfold State.invokeMethod
  split
  · exact KeepsP.pair hk
  · refine KeepsP.ite ?_ ?_
    · exact KeepsP.pair hk
    · refine KeepsP.ite ?_ ?_
      · exact KeepsP.pair hk
      · split
        · rename_i s1 heq
          have hs1 : Keeps sI s1 := by
            have he := congrArg (fun p => p.2) heq
            dsimp only at he
            rw [← he]
            exact State.method_keeps hk
          exact KeepsP.ite (KeepsP.pair hk) (KeepsP.pair hs1)
        · exact KeepsP.pair hk

theorem State.objReply_keeps {sI s : State} {nb : ℕ} {service : ℕ} {invoke : Byte} {code : ℕ} {data : List Byte} (hk : Keeps sI s) :
    Keeps sI (State.objReply s nb service invoke code data) := by
  unfold State.objReply
  exact State.linkSend_keeps hk

theorem State.objGet_keeps {sI s : State} {nb : Fin 32} {sec : Bool} {invoke : Byte} {cls : ℕ} {obis : List Byte} {index : ℕ} {sel : Option (ℕ × ℕ × ℕ)} (hk : Keeps sI s) :
    Keeps sI (State.objGet s nb sec invoke cls obis index sel) := by
  unfold State.objGet
  split
  · exact State.objReply_keeps hk

theorem State.objSet_keeps {sI s : State} {nb : Fin 32} {sec : Bool} {invoke : Byte} {cls : ℕ} {obis : List Byte} {index : ℕ} {data : List Byte} (hk : Keeps sI s) :
    Keeps sI (State.objSet s nb sec invoke cls obis index data) := by
  unfold State.objSet
  refine Keeps.ite ?_ ?_
  · exact State.objReply_keeps hk
  · split
    · rename_i code s1 heq
      have hs1 : Keeps sI s1 := by
        have he := congrArg (fun p => p.2) heq
        dsimp only at he
        rw [← he]
        exact State.setAttr_keeps hk
      exact State.objReply_keeps hs1

theorem State.objAction_keeps {sI s : State} {nb : Fin 32} {sec : Bool} {invoke : Byte} {cls : ℕ} {obis : List Byte} {index : ℕ} {data : List Byte} (hk : Keeps sI s) :
    Keeps sI (State.objAction s nb sec invoke cls obis index data) := by
  unfold State.objAction
  refine Keeps.ite ?_ ?_
  · exact State.objReply_keeps hk
  · split
    · rename_i code s1 heq
      have hs1 : Keeps sI s1 := by
        have he := congrArg (fun p => p.2) heq
        dsimp only at he
        rw [← he]
        exact State.invokeMethod_keeps hk
      exact State.objReply_keeps hs1

theorem execObjectGet_keeps {sI s : State} {nb : Fin 32} {sec : Bool} {invoke : Byte} {cls : ℕ} {obis : List Byte} {index : ℕ} {select : Option (ℕ × ℕ × ℕ)} (hk : Keeps sI s) :
    KeepsO sI (execObjectGet nb sec invoke cls obis index select s) := by
  unfold execObjectGet
  exact KeepsO.next (Keeps.ite (State.objGet_keeps hk) hk)

theorem execObjectSet_keeps {sI s : State} {nb : Fin 32} {sec : Bool} {invoke : Byte} {cls : ℕ} {obis : List Byte} {index : ℕ} {data : List Byte} (hk : Keeps sI s) :
    KeepsO sI (execObjectSet nb sec invoke cls obis index data s) := by
  unfold execObjectSet
  exact KeepsO.next (Keeps.ite (State.objSet_keeps hk) hk)

theorem execObjectAction_keeps {sI s : State} {nb : Fin 32} {sec : Bool} {invoke : Byte} {cls : ℕ} {obis : List Byte} {index : ℕ} {data : List Byte} (hk : Keeps sI s) :
    KeepsO sI (execObjectAction nb sec invoke cls obis index data s) := by
  unfold execObjectAction
  exact KeepsO.next (Keeps.ite (State.objAction_keeps hk) hk)

theorem execSpecialDayInsert_keeps {sI s : State} {src : Source} {data : List Byte} (hk : Keeps sI s) :
    KeepsO sI (execSpecialDayInsert src data s) := by
  unfold execSpecialDayInsert
  exact KeepsO.next (Keeps.ite (KeepsP.out (State.invokeMethod_keeps hk)) hk)

theorem execSpecialDayDelete_keeps {sI s : State} {src : Source} {data : List Byte} (hk : Keeps sI s) :
    KeepsO sI (execSpecialDayDelete src data s) := by
  unfold execSpecialDayDelete
  exact KeepsO.next (Keeps.ite (KeepsP.out (State.invokeMethod_keeps hk)) hk)

end Sys2Proof.Machine
end

