-- ==== Sys2Proof/Laws/KeepsCommand.lean ====
section
/-! SUPPORT. What the operations of Machine/Command.lean keep (Laws/Keeps.lean), one lemma per operation. -/

namespace Sys2Proof.Machine

theorem State.timeText_keeps {sI s : State} {rank : ℕ} (hk : Keeps sI s) :
    KeepsP sI (State.timeText s rank) := by
  unfold State.timeText
  exact KeepsP.ite (KeepsP.pair hk) (KeepsP.pair (State.capture_keeps hk))

theorem State.getNamed_keeps {sI s : State} {rank : ℕ} {pend : Bool} {raw : Bool} {x : Named} (hk : Keeps sI s) :
    KeepsP sI (State.getNamed s rank pend raw x) := by
  unfold State.getNamed
  split
  · split
    · rename_i v s1 heq
      have hs1 : Keeps sI s1 := by
        have he := congrArg (fun p => p.2) heq
        dsimp only at he
        rw [← he]
        exact State.readReg_keeps hk
      exact KeepsP.pair hs1
  · split
    · rename_i v s1 heq
      have hs1 : Keeps sI s1 := by
        have he := congrArg (fun p => p.2) heq
        dsimp only at he
        rw [← he]
        exact State.readReg_keeps hk
      exact KeepsP.pair hs1
  · exact KeepsP.pair hk
  · split
    · rename_i t s1 heq
      have hs1 : Keeps sI s1 := by
        have he := congrArg (fun p => p.2) heq
        dsimp only at he
        rw [← he]
        exact State.timeText_keeps hk
      exact KeepsP.pair hs1
  · split <;> exact KeepsP.pair hk
  · exact KeepsP.pair hk

theorem State.edgeOrNot_keeps {sI s : State} (hk : Keeps sI s) :
    Keeps sI (State.edgeOrNot s) := by
  unfold State.edgeOrNot
  split
  · rename_i s1 heq
    have hs1 : Keeps sI s1 := by
      have he := congrArg (fun p => p.2) heq
      dsimp only at he
      rw [← he]
      exact State.draw_keeps hk
    exact State.advance_keeps hs1
  · rename_i fst s1 _ heq
    have hs1 : Keeps sI s1 := by
      have he := congrArg (fun p => p.2) heq
      dsimp only at he
      rw [← he]
      exact State.draw_keeps hk
    exact hs1

theorem State.readWords_keeps {s0 s : State} {rank n a : Nat} {pend : Bool} (h : Keeps s0 s) :
    KeepsP s0 (s.readWords rank pend n a) := by
  induction n generalizing s a with
  | zero => exact h
  | succ n ih =>
    have h1 := State.readWord_keeps (rank := rank) (a := a) (pend := pend) h
    unfold State.readWords
    split
    · rename_i s1 heq
      rw [heq] at h1
      exact h1
    · rename_i v s1 heq
      rw [heq] at h1
      have h3 : Keeps s0 (if a = F.RTC_SEC ∧ n ≠ 0 then s1.edgeOrNot else s1) := Keeps.ite (State.edgeOrNot_keeps h1) h1
      have h2 := ih (a := a + 4) h3
      split <;> (rename_i heq2; rw [heq2] at h2; exact h2)

theorem State.getAddr_keeps {sI s : State} {rank : ℕ} {a : ℕ} {pend : Bool} {count : Option ℕ} (hk : Keeps sI s) :
    KeepsP sI (State.getAddr s rank a pend count) := by
  unfold State.getAddr
  refine KeepsP.ite ?_ ?_
  · exact KeepsP.pair hk
  · split
    · split
      · rename_i v s1 heq
        have hs1 : Keeps sI s1 := by
          have he := congrArg (fun p => p.2) heq
          dsimp only at he
          rw [← he]
          exact State.readWord_keeps hk
        exact KeepsP.pair hs1
      · exact KeepsP.pair hk
    · refine KeepsP.ite ?_ ?_
      · exact KeepsP.pair hk
      · split
        · rename_i l s1 heq
          have hs1 : Keeps sI s1 := by
            have he := congrArg (fun p => p.2) heq
            dsimp only at he
            rw [← he]
            exact State.readWords_keeps hk
          exact KeepsP.pair hs1
        · exact KeepsP.pair hk

theorem State.aclGet_keeps {sI s : State} {rank : ℕ} {o : ObjRef} {pend : Bool} {raw : Bool} {count : Option ℕ} (hk : Keeps sI s) :
    KeepsP sI (State.aclGet s rank o pend raw count) := by
  unfold State.aclGet
  split
  · exact KeepsP.ite (KeepsP.pair hk) (State.getAddr_keeps hk)
  · refine KeepsP.ite ?_ ?_
    · exact KeepsP.pair hk
    · split
      · exact State.getNamed_keeps hk
      · exact KeepsP.pair hk

theorem State.aclShow_keeps {sI s : State} {rank : ℕ} {o : ObjRef} (hk : Keeps sI s) :
    KeepsP sI (State.aclShow s rank o) := by
  unfold State.aclShow
  split
  · exact KeepsP.pair hk
  · split
    · split
      · split
        · rename_i v s1 heq
          have hs1 : Keeps sI s1 := by
            have he := congrArg (fun p => p.2) heq
            dsimp only at he
            rw [← he]
            exact State.readReg_keeps hk
          exact KeepsP.pair hs1
      · exact KeepsP.pair hk
    · split
      · rename_i v s1 heq
        have hs1 : Keeps sI s1 := by
          have he := congrArg (fun p => p.2) heq
          dsimp only at he
          rw [← he]
          exact State.readReg_keeps hk
        exact KeepsP.pair hs1
    · exact KeepsP.pair hk
    · split
      · rename_i t s1 heq
        have hs1 : Keeps sI s1 := by
          have he := congrArg (fun p => p.2) heq
          dsimp only at he
          rw [← he]
          exact State.timeText_keeps hk
        exact KeepsP.pair hs1
    · split <;> exact KeepsP.pair hk
    · split <;> exact KeepsP.pair hk
    · exact KeepsP.pair hk

theorem coded_keeps {s0 : State} {x : Nat × State} (h : KeepsP s0 x) : KeepsP s0 (coded x) := h

theorem State.setReg_keeps {sI s : State} {rank : ℕ} {a : ℕ} {sel : ℕ} {v : ℤ} (hk : Keeps sI s) :
    KeepsP sI (State.setReg s rank a sel v) := by
  unfold State.setReg
  exact KeepsP.ite (KeepsP.pair hk) (KeepsP.ite (KeepsP.pair hk) (coded_keeps (State.writeWord_keeps hk)))

theorem State.setField_keeps {sI s : State} {rank : ℕ} {a : ℕ} {f : FieldRow} {v : ℤ} (hk : Keeps sI s) :
    KeepsP sI (State.setField s rank a f v) := by
  unfold State.setField
  exact KeepsP.ite (KeepsP.pair hk) (KeepsP.ite (KeepsP.pair hk) (coded_keeps (State.writeWord_keeps hk)))

theorem State.setQty_keeps {sI s : State} {rank : ℕ} {q : Qty} {t : Text} {unit : Option Text} (hk : Keeps sI s) :
    KeepsP sI (State.setQty s rank q t unit) := by
  unfold State.setQty
  extract_lets -merge -underBinder coded0 v unitOk
  clear_value v
  split
  · exact KeepsP.pair hk
  · exact KeepsP.ite (KeepsP.pair hk) (KeepsP.ite (KeepsP.pair hk) (KeepsP.ite (KeepsP.pair hk) (coded_keeps (State.writeWord_keeps hk))))

theorem State.setTime_keeps {sI s : State} {rank : ℕ} {t : Text} (hk : Keeps sI s) :
    KeepsP sI (State.setTime s rank t) := by
  unfold State.setTime
  split
  · exact KeepsP.ite (KeepsP.pair hk) (KeepsP.ite (KeepsP.pair hk) (coded_keeps (State.setCalendar_keeps hk)))
  · exact KeepsP.pair hk

theorem State.setCosem_keeps {sI s : State} {rank : ℕ} {o : List ℕ} {n : ℕ} {method : Bool} {t : Text} (hk : Keeps sI s) :
    KeepsP sI (State.setCosem s rank o n method t) := by
  unfold State.setCosem
  split
  · exact KeepsP.pair hk
  · exact KeepsP.ite (KeepsP.pair hk) (coded_keeps (KeepsP.ite (State.invokeMethod_keeps hk) (State.setAttr_keeps hk)))

theorem State.update_keeps {sI s : State} {src : Source} {type : ℕ} {f : List ℕ} (hk : Keeps sI s) :
    KeepsP sI (State.update s src type f) := by
  unfold State.update
  refine KeepsP.ite ?_ ?_
  · exact State.updMessage_keeps hk
  · extract_lets -merge -underBinder app
    refine KeepsP.ite ?_ ?_
    · exact KeepsP.pair hk
    · split
      · rename_i code fst snd s1 heq
        have hs1 : Keeps sI s1 := by
          have he := congrArg (fun p => p.2) heq
          dsimp only at he
          rw [← he]
          exact State.updMessage_keeps hk
        exact KeepsP.pair (Keeps.ite (Keeps.mk (State.activatePersist_keeps (State.updAll_keeps hs1)) rfl rfl) (State.updAll_keeps hs1))

theorem State.setUpd_keeps {sI s : State} {c : Carrier} {t : Text} (hk : Keeps sI s) :
    KeepsP sI (State.setUpd s c t) := by
  unfold State.setUpd
  split
  · refine KeepsP.ite ?_ ?_
    · exact KeepsP.pair hk
    · split
      · rename_i st next s1 heq
        have hs1 : Keeps sI s1 := by
          have he := congrArg (fun p => p.2) heq
          dsimp only at he
          rw [← he]
          exact State.update_keeps hk
        exact KeepsP.pair hs1
      · rename_i e fst snd s1 _ heq
        have hs1 : Keeps sI s1 := by
          have he := congrArg (fun p => p.2) heq
          dsimp only at he
          rw [← he]
          exact State.update_keeps hk
        exact KeepsP.pair hs1
  · exact KeepsP.pair hk

theorem State.aclSet_keeps {sI s : State} {c : Carrier} {o : ObjRef} {value : Text} (hk : Keeps sI s) :
    KeepsP sI (State.aclSet s c o value) := by
  unfold State.aclSet
  extract_lets -merge -underBinder rank w unit
  clear_value w
  split
  · exact KeepsP.pair hk
  · refine KeepsP.ite ?_ ?_
    · exact KeepsP.pair hk
    · split
      · clear_value unit
        split
        · exact KeepsP.ite (KeepsP.pair hk) (KeepsP.ite (KeepsP.pair hk) (State.setReg_keeps hk))
        · exact KeepsP.pair hk
      · split
        · exact KeepsP.pair hk
        · exact State.setQty_keeps hk
        · refine KeepsP.ite ?_ ?_
          · exact KeepsP.pair hk
          · split
            · split
              · exact State.setReg_keeps hk
              · exact KeepsP.pair hk
            · split
              · exact State.setField_keeps hk
              · exact KeepsP.pair hk
            · exact State.setTime_keeps hk
            · exact State.setUpd_keeps hk
            · exact State.setCosem_keeps hk
            · exact State.setCosem_keeps hk
            · exact KeepsP.pair hk

theorem State.aclShot_keeps {sI s : State} {c : Carrier} {path : ℕ} {count : Option ℕ} (hk : Keeps sI s) :
    KeepsP sI (State.aclShot s c path count) := by
  unfold State.aclShot
  exact KeepsP.ite (KeepsP.pair hk) (KeepsP.ite (KeepsP.pair hk) (KeepsP.ite (KeepsP.pair hk) (KeepsP.ite (KeepsP.pair hk) (KeepsP.pair (Keeps.mk hk rfl rfl)))))

theorem State.aclCapture_keeps {sI s : State} {c : Carrier} (hk : Keeps sI s) :
    KeepsP sI (State.aclCapture s c) := by
  unfold State.aclCapture
  exact KeepsP.ite (KeepsP.pair hk) (KeepsP.pair (State.capture_keeps hk))

theorem State.aclLog_keeps {sI s : State} {c : Carrier} {legal : Bool} {first : Option ℕ} {count : Option ℕ} (hk : Keeps sI s) :
    KeepsP sI (State.aclLog s c legal first count) := by
  unfold State.aclLog
  exact KeepsP.ite (KeepsP.pair hk) (KeepsP.ite (KeepsP.pair hk) (KeepsP.ite (KeepsP.pair hk) (KeepsP.ite (KeepsP.pair hk) (KeepsP.pair (Keeps.foldl hk (fun _ _ ht => State.eccMeet_keeps ht))))))

theorem State.showLocks_keeps {sI s : State} (hk : Keeps sI s) :
    Keeps sI (State.showLocks s) := by
  unfold State.showLocks
  exact State.put_keeps hk

theorem State.loginFail_keeps {sI s : State} {c : Carrier} (hk : Keeps sI s) :
    Keeps sI (State.loginFail s c) := by
  unfold State.loginFail
  exact Keeps.ite (State.setCar_keeps (State.bump_keeps hk)) (State.logTrouble_keeps (State.showLocks_keeps (State.setCar_keeps (State.bump_keeps hk))))

theorem State.loginOk_keeps {sI s : State} {c : Carrier} {r : Role} (hk : Keeps sI s) :
    Keeps sI (State.loginOk s c r) := by
  unfold State.loginOk
  exact State.setCar_keeps hk

theorem State.authKey_keeps {sI s : State} {r : Role} (hk : Keeps sI s) :
    KeepsP sI (State.authKey s r) := by
  unfold State.authKey
  refine KeepsP.ite ?_ ?_
  · exact KeepsP.pair hk
  · split
    · exact State.slotKey_keeps hk
    · exact KeepsP.pair hk

theorem State.loginPassword_keeps {sI s : State} {c : Carrier} {r : Role} {secret : Option Text} (hk : Keeps sI s) :
    Keeps sI (State.loginPassword s c r secret) := by
  unfold State.loginPassword
  extract_lets -merge -underBinder kept
  clear_value kept
  split
  · exact Keeps.ite (State.loginOk_keeps hk) (State.loginFail_keeps hk)
  · exact State.loginFail_keeps hk

theorem State.loginResponse_keeps {sI s : State} {c : Carrier} {r : Role} {t : Text} (hk : Keeps sI s) :
    Keeps sI (State.loginResponse s c r t) := by
  unfold State.loginResponse
  extract_lets -merge -underBinder ch src s1
  have hs1 : Keeps sI s1 := State.setCar_keeps hk
  clear_value ch
  split
  · refine Keeps.ite ?_ ?_
    · exact State.loginFail_keeps hs1
    · split
      · rename_i k s2 heq
        have hs2 : Keeps sI s2 := by
          have he := congrArg (fun p => p.2) heq
          dsimp only at he
          rw [← he]
          exact State.authKey_keeps hs1
        exact Keeps.ite (State.loginOk_keeps hs2) (State.loginFail_keeps hs2)
      · rename_i s2 heq
        have hs2 : Keeps sI s2 := by
          have he := congrArg (fun p => p.2) heq
          dsimp only at he
          rw [← he]
          exact State.authKey_keeps hs1
        exact State.loginFail_keeps hs2
  · exact State.loginFail_keeps hs1

theorem State.aclLogin_keeps {sI s : State} {c : Carrier} {r : Role} {secret : Option Text} (hk : Keeps sI s) :
    KeepsP sI (State.aclLogin s c r secret) := by
  unfold State.aclLogin
  extract_lets -merge -underBinder locked
  refine KeepsP.ite ?_ ?_
  · exact KeepsP.pair hk
  · split
    · exact KeepsP.pair hk
    · exact KeepsP.pair (State.loginPassword_keeps hk)
    · exact KeepsP.pair (State.loginPassword_keeps hk)
    · split
      · exact KeepsP.pair (State.loginResponse_keeps hk)
      · refine KeepsP.ite ?_ ?_
        · exact KeepsP.pair hk
        · split
          · rename_i v s1 heq
            have hs1 : Keeps sI s1 := by
              have he := congrArg (fun p => p.2) heq
              dsimp only at he
              rw [← he]
              exact State.draw_keeps hk
            exact KeepsP.pair (State.setCar_keeps hs1)
    · split
      · exact KeepsP.pair (State.loginResponse_keeps hk)
      · refine KeepsP.ite ?_ ?_
        · exact KeepsP.pair hk
        · split
          · rename_i v s1 heq
            have hs1 : Keeps sI s1 := by
              have he := congrArg (fun p => p.2) heq
              dsimp only at he
              rw [← he]
              exact State.draw_keeps hk
            exact KeepsP.pair (State.setCar_keeps hs1)

theorem State.aclLogout_keeps {sI s : State} {c : Carrier} (hk : Keeps sI s) :
    KeepsP sI (State.aclLogout s c) := by
  unfold State.aclLogout
  exact KeepsP.pair (Keeps.ite (State.endSessionOn_keeps hk) hk)

theorem State.endLock_keeps {sI s : State} {c : Carrier} (hk : Keeps sI s) :
    Keeps sI (State.endLock s c) := by
  unfold State.endLock
  exact State.showLocks_keeps (State.setCar_keeps hk)

theorem execLoginLockExpiry_keeps {sI s : State} {dt : ℕ} {c : Carrier} (hk : Keeps sI s) :
    KeepsO sI (execLoginLockExpiry dt c s) := by
  unfold execLoginLockExpiry
  split
  · exact KeepsO.next (State.endLock_keeps (State.passTo_keeps hk))
  · exact KeepsO.next (State.advance_keeps hk)

theorem execChallengeExpiry_keeps {sI s : State} {dt : ℕ} {c : Carrier} (hk : Keeps sI s) :
    KeepsO sI (execChallengeExpiry dt c s) := by
  unfold execChallengeExpiry
  split
  · exact KeepsO.next (State.setCar_keeps (State.passTo_keeps hk))
  · exact KeepsO.next (State.advance_keeps hk)

theorem State.setKeyBuf_keeps {sI s : State} {c : Carrier} {b : List Byte} (hk : Keeps sI s) :
    Keeps sI (State.setKeyBuf s c b) := by
  unfold State.setKeyBuf
  exact Keeps.mk (State.dropKeyBuf_keeps hk) rfl rfl

theorem State.aclKeyLoad_keeps {sI s : State} {c : Carrier} {l : LineForm} {piece : Text} (hk : Keeps sI s) :
    KeepsP sI (State.aclKeyLoad s c l piece) := by
  unfold State.aclKeyLoad
  dsimp -zeta only
  split
  · extract_lets -merge -underBinder all
    refine KeepsP.ite ?_ ?_
    · exact KeepsP.pair (State.dropKeyBuf_keeps hk)
    · refine KeepsP.ite ?_ ?_
      · exact KeepsP.pair (State.setKeyBuf_keeps hk)
      · refine KeepsP.ite ?_ ?_
        · exact KeepsP.pair hk
        · split
          · rename_i val s1 heq
            have hs1 : Keeps sI s1 := by
              have he := congrArg (fun p => p.2) heq
              dsimp only at he
              rw [← he]
              exact State.keyMessage_keeps (State.dropKeyBuf_keeps hk)
            exact KeepsP.pair hs1
          · rename_i s1 heq
            have hs1 : Keeps sI s1 := by
              have he := congrArg (fun p => p.2) heq
              dsimp only at he
              rw [← he]
              exact State.keyMessage_keeps (State.dropKeyBuf_keeps hk)
            exact KeepsP.pair hs1
  · exact KeepsP.pair (State.dropKeyBuf_keeps hk)

theorem execKeyLoadBufferExpiry_keeps {sI s : State} {dt : ℕ} {c : Carrier} (hk : Keeps sI s) :
    KeepsO sI (execKeyLoadBufferExpiry dt c s) := by
  unfold execKeyLoadBufferExpiry
  split
  · exact KeepsO.next (State.dropKeyBuf_keeps (State.passTo_keeps hk))
  · exact KeepsO.next (State.advance_keeps hk)

theorem State.aclKeyStatus_keeps {sI s : State} {digest : Text} (hk : Keeps sI s) :
    KeepsP sI (State.aclKeyStatus s digest) := by
  unfold State.aclKeyStatus
  refine KeepsP.ite ?_ ?_
  · exact KeepsP.pair hk
  · split <;> exact KeepsP.pair hk

theorem State.aclKeyPassword_keeps {sI s : State} {c : Carrier} {r : Role} {t : Text} (hk : Keeps sI s) :
    KeepsP sI (State.aclKeyPassword s c r t) := by
  unfold State.aclKeyPassword
  exact KeepsP.ite (KeepsP.pair hk) (KeepsP.ite (KeepsP.pair hk) (KeepsP.pair (Keeps.mk hk rfl rfl)))

theorem State.aclToken_keeps {sI s : State} {digits : Text} (hk : Keeps sI s) :
    KeepsP sI (State.aclToken s digits) := by
  unfold State.aclToken
  split
  · exact KeepsP.pair hk
  · refine KeepsP.ite ?_ ?_
    · exact KeepsP.pair hk
    · split
      · rename_i s1 heq
        have hs1 : Keeps sI s1 := by
          have he := congrArg (fun p => p.2) heq
          dsimp only at he
          rw [← he]
          exact State.evalToken_keeps hk
        exact KeepsP.pair hs1
      · rename_i s1 heq
        have hs1 : Keeps sI s1 := by
          have he := congrArg (fun p => p.2) heq
          dsimp only at he
          rw [← he]
          exact State.evalToken_keeps hk
        exact KeepsP.pair hs1
      · rename_i fst s1 _ _ heq
        have hs1 : Keeps sI s1 := by
          have he := congrArg (fun p => p.2) heq
          dsimp only at he
          rw [← he]
          exact State.evalToken_keeps hk
        exact KeepsP.pair hs1

theorem State.zcDeny_keeps {sI s : State} {x : ℕ} (hk : Keeps sI s) :
    Keeps sI (State.zcDeny s x) := by
  unfold State.zcDeny
  exact Keeps.mk (State.clr_keeps (State.zcStart_keeps hk)) rfl rfl

theorem State.aclZerocal_keeps {sI s : State} {c : Carrier} {mp : MeterPoint} (hk : Keeps sI s) :
    KeepsP sI (State.aclZerocal s c mp) := by
  unfold State.aclZerocal
  exact KeepsP.ite (KeepsP.pair hk) (KeepsP.ite (KeepsP.pair (Keeps.ite (State.put_keeps hk) (State.zcDeny_keeps hk))) (KeepsP.ite (KeepsP.pair hk) (KeepsP.pair (State.zcStart_keeps hk))))

theorem State.aclCommit_keeps {sI s : State} {c : Carrier} (hk : Keeps sI s) :
    KeepsP sI (State.aclCommit s c) := by
  unfold State.aclCommit
  exact KeepsP.ite (KeepsP.pair hk) (KeepsP.ite (KeepsP.pair hk) (KeepsP.pair (Keeps.mk (State.set1_keeps hk) rfl rfl)))

theorem State.aclScheduleCommit_keeps {sI s : State} {c : Carrier} (hk : Keeps sI s) :
    KeepsP sI (State.aclScheduleCommit s c) := by
  unfold State.aclScheduleCommit
  refine KeepsP.ite ?_ ?_
  · exact KeepsP.pair hk
  · extract_lets -merge -underBinder s1 cost
    have hs1 : Keeps sI s1 := State.schedCommit_keeps hk
    split
    · exact KeepsP.ite (KeepsP.pair hk) (KeepsP.pair hs1)
    · exact KeepsP.pair hs1
    · exact KeepsP.pair hs1

theorem State.aclScheduleDiscard_keeps {sI s : State} {c : Carrier} (hk : Keeps sI s) :
    KeepsP sI (State.aclScheduleDiscard s c) := by
  unfold State.aclScheduleDiscard
  exact KeepsP.ite (KeepsP.pair hk) (KeepsP.ite (KeepsP.pair hk) (KeepsP.pair (State.schedDiscard_keeps hk)))

theorem State.aclScheduleShow_keeps {sI s : State} {c : Carrier} {pend : Bool} (hk : Keeps sI s) :
    KeepsP sI (State.aclScheduleShow s c pend) := by
  unfold State.aclScheduleShow
  exact KeepsP.ite (KeepsP.pair hk) (KeepsP.pair hk)

theorem State.aclReset_keeps {sI s : State} {c : Carrier} (hk : Keeps sI s) :
    KeepsP sI (State.aclReset s c) := by
  unfold State.aclReset
  exact KeepsP.ite (KeepsP.pair hk) (KeepsP.pair (Keeps.mk hk rfl rfl))

theorem State.aclStatus_keeps {sI s : State} {c : Carrier} (hk : Keeps sI s) :
    KeepsP sI (State.aclStatus s c) := by
  unfold State.aclStatus
  exact KeepsP.pair hk

theorem State.aclHelp_keeps {sI s : State} {command : Option Text} (hk : Keeps sI s) :
    KeepsP sI (State.aclHelp s command) := by
  unfold State.aclHelp
  split
  · exact KeepsP.pair hk
  · split <;> exact KeepsP.pair hk

/-- An operation that keeps what `Keeps` says. -/
def Op.Keeps (o : Op) : Prop := ∀ s0 s : State, Machine.Keeps s0 s → KeepsP s0 (o.run s)

theorem State.runOp_keeps {s0 s : State} {c : Carrier} {inv : Byte} {l : LineForm} {o : Op} (h : Keeps s0 s) (ho : o.Keeps) :
    Keeps s0 (s.runOp c inv l o) :=
  State.answer_keeps h (fun t ht => KeepsP.ite ht (ho s0 t ht))

theorem tickOp_keeps {f : State → Resp × State} (hf : ∀ s0 s, Machine.Keeps s0 s → KeepsP s0 (f s)) : (tickOp f).Keeps := hf

theorem errOp_keeps {n : Nat} : (errOp n).Keeps := fun _ _ h => h

theorem opGet_keeps {c : Carrier} {o : ObjRef} {p r : Bool} {n : Option Nat} : (opGet c o p r n).Keeps :=
  fun _ _ h => State.aclGet_keeps h

theorem opSet_keeps {c : Carrier} {o : ObjRef} {v : Text} : (opSet c o v).Keeps := fun _ _ h => State.aclSet_keeps h

theorem opShow_keeps {c : Carrier} {o : ObjRef} : (opShow c o).Keeps := fun _ _ h => State.aclShow_keeps h

theorem opShot_keeps {c : Carrier} {p : Nat} {n : Option Nat} : (opShot c p n).Keeps := fun _ _ h => State.aclShot_keeps h

theorem opCapture_keeps {c : Carrier} : (opCapture c).Keeps := fun _ _ h => State.aclCapture_keeps h

theorem opLog_keeps {c : Carrier} {b : Bool} {f n : Option Nat} : (opLog c b f n).Keeps := fun _ _ h => State.aclLog_keeps h

theorem opLogin_keeps {c : Carrier} {r : Role} {p : Option Text} : (opLogin c r p).Keeps := fun _ _ h => State.aclLogin_keeps h

theorem opLogout_keeps {c : Carrier} : (opLogout c).Keeps := fun _ _ h => State.aclLogout_keeps h

theorem opKeyLoad_keeps {c : Carrier} {l : LineForm} {p : Text} : (opKeyLoad c l p).Keeps :=
  fun _ _ h => State.aclKeyLoad_keeps h

theorem opKeyStatus_keeps {d : Text} : (opKeyStatus d).Keeps := fun _ _ h => State.aclKeyStatus_keeps h

theorem opKeyPassword_keeps {c : Carrier} {r : Role} {t : Text} : (opKeyPassword c r t).Keeps :=
  fun _ _ h => State.aclKeyPassword_keeps h

theorem opToken_keeps {d : Text} : (opToken d).Keeps := fun _ _ h => State.aclToken_keeps h

theorem opZerocal_keeps {c : Carrier} {m : MeterPoint} : (opZerocal c m).Keeps := fun _ _ h => State.aclZerocal_keeps h

theorem opCommit_keeps {c : Carrier} : (opCommit c).Keeps := fun _ _ h => State.aclCommit_keeps h

theorem opScheduleCommit_keeps {c : Carrier} : (opScheduleCommit c).Keeps := fun _ _ h => State.aclScheduleCommit_keeps h

theorem opScheduleDiscard_keeps {c : Carrier} : (opScheduleDiscard c).Keeps := fun _ _ h => State.aclScheduleDiscard_keeps h

theorem opScheduleShow_keeps {c : Carrier} {b : Bool} : (opScheduleShow c b).Keeps := fun _ _ h => State.aclScheduleShow_keeps h

theorem opReset_keeps {c : Carrier} : (opReset c).Keeps := fun _ _ h => State.aclReset_keeps h

theorem opStatus_keeps {c : Carrier} : (opStatus c).Keeps := fun _ _ h => State.aclStatus_keeps h

theorem opHelp_keeps {t : Option Text} : (opHelp t).Keeps := fun _ _ h => State.aclHelp_keeps h

theorem logOp_keeps {c : Carrier} {w : List Text} : (logOp c w).Keeps := by
  unfold logOp
  repeat' split
  all_goals first | exact errOp_keeps | exact opLog_keeps

theorem keyOp_keeps {c : Carrier} {l : LineForm} {w : List Text} : (keyOp c l w).Keeps := by
  unfold keyOp
  repeat' split
  all_goals first | exact errOp_keeps | exact opKeyLoad_keeps | exact opKeyStatus_keeps | exact opKeyPassword_keeps

theorem scheduleOp_keeps {c : Carrier} {w : List Text} : (scheduleOp c w).Keeps := by
  unfold scheduleOp
  repeat' split
  all_goals first | exact errOp_keeps | exact opScheduleCommit_keeps | exact opScheduleDiscard_keeps | exact opScheduleShow_keeps

theorem getOp_keeps {c : Carrier} {w : List Text} : (getOp c w).Keeps := by
  unfold getOp
  repeat' split
  all_goals first | exact errOp_keeps | exact opGet_keeps

theorem Op.keeps_ite {p : Prop} [Decidable p] {a b : Op} (ha : a.Keeps) (hb : b.Keeps) : (if p then a else b).Keeps := by
  split <;> assumption

theorem argOp_keeps {c : Carrier} {l : LineForm} {t : Text} {w : List Text} : (argOp c l t w).Keeps := by
  unfold argOp
  refine Op.keeps_ite getOp_keeps (Op.keeps_ite ?_ (Op.keeps_ite ?_ (Op.keeps_ite ?_ (Op.keeps_ite logOp_keeps
    (Op.keeps_ite ?_ (Op.keeps_ite keyOp_keeps (Op.keeps_ite ?_ (Op.keeps_ite ?_ (Op.keeps_ite scheduleOp_keeps
    (Op.keeps_ite ?_ errOp_keeps))))))))))
  all_goals
    repeat' split
    all_goals first | exact errOp_keeps | exact opSet_keeps | exact opShow_keeps | exact opShot_keeps | exact opLogin_keeps |
      exact opToken_keeps | exact opZerocal_keeps | exact opHelp_keeps

theorem bareOp_keeps {c : Carrier} {t : Text} {o : Op} (h : bareOp c t = some o) : o.Keeps := by
  unfold bareOp at h
  repeat' split at h
  all_goals cases h
  all_goals first | exact opCapture_keeps | exact opLogout_keeps | exact opCommit_keeps | exact opReset_keeps | exact opStatus_keeps

theorem opOf_keeps {c : Carrier} {l : LineForm} {w : List Text} : (opOf c l w).Keeps := by
  unfold opOf
  split
  · exact errOp_keeps
  · split
    · rename_i heq
      split
      · exact bareOp_keeps heq
      · exact errOp_keeps
    · exact argOp_keeps

theorem State.enterTunnel_keeps {sI s : State} {n : ℕ} {sec : Bool} (hk : Keeps sI s) :
    Keeps sI (State.enterTunnel s n sec) := by
  unfold State.enterTunnel
  exact State.setCar_keeps hk

theorem State.enterLine_keeps {sI s : State} {c : Carrier} (hk : Keeps sI s) :
    Keeps sI (State.enterLine s c) := by
  unfold State.enterLine
  split
  · exact State.enterTunnel_keeps hk
  · exact hk

theorem State.row_keeps {sI s : State} {c : Carrier} {l : LineForm} {o : Op} (hk : Keeps sI s) (ho : o.Keeps) :
    Keeps sI (State.row s c l o) := by
  unfold State.row
  exact State.runOp_keeps (State.enterLine_keeps hk) ho

theorem State.runText_keeps {sI s : State} {c : Carrier} {inv : Byte} {kind : ℕ} {t : Text} (hk : Keeps sI s) :
    Keeps sI (State.runText s c inv kind t) := by
  unfold State.runText
  refine Keeps.ite ?_ ?_
  · exact hk
  · split
    · refine Keeps.ite ?_ ?_
      · exact State.send_keeps (State.dropKeyBuf_keeps hk)
      · exact Keeps.ite (State.send_keeps (State.dropKeyBuf_keeps hk)) (Keeps.ite (State.send_keeps (State.dropKeyBuf_keeps (Keeps.ite hk (State.bump_keeps hk)))) (Keeps.ite (State.send_keeps (State.dropKeyBuf_keeps (State.bump_keeps hk))) (State.runOp_keeps hk opOf_keeps)))

theorem State.tunnelLine_keeps {sI s : State} {nb : Fin 32} {sec : Bool} {inv : Byte} {kind : ℕ} {line : List Byte} (hk : Keeps sI s) :
    Keeps sI (State.tunnelLine s nb sec inv kind line) := by
  unfold State.tunnelLine
  exact Keeps.ite hk (State.runText_keeps (State.enterTunnel_keeps hk))

theorem execAclLine_keeps {sI s : State} {nb : Fin 32} {sec : Bool} {invoke : Byte} {line : List Byte} (hk : Keeps sI s) :
    KeepsO sI (execAclLine nb sec invoke line s) := by
  unfold execAclLine
  exact KeepsO.next (State.tunnelLine_keeps hk)

theorem execGet_keeps {sI s : State} {c : Carrier} {l : LineForm} {obj : ObjRef} {pendingView : Bool} {raw : Bool} {count : Option ℕ} (hk : Keeps sI s) :
    KeepsO sI (execGet c l obj pendingView raw count s) := by
  unfold execGet
  exact KeepsO.next (State.row_keeps hk opGet_keeps)

theorem execSet_keeps {sI s : State} {c : Carrier} {l : LineForm} {obj : ObjRef} {value : Text} (hk : Keeps sI s) :
    KeepsO sI (execSet c l obj value s) := by
  unfold execSet
  exact KeepsO.next (State.row_keeps hk opSet_keeps)

theorem execShowObj_keeps {sI s : State} {c : Carrier} {l : LineForm} {obj : ObjRef} (hk : Keeps sI s) :
    KeepsO sI (execShowObj c l obj s) := by
  unfold execShowObj
  exact KeepsO.next (State.row_keeps hk opShow_keeps)

theorem execShot_keeps {sI s : State} {c : Carrier} {l : LineForm} {path : ℕ} {count : Option ℕ} (hk : Keeps sI s) :
    KeepsO sI (execShot c l path count s) := by
  unfold execShot
  exact KeepsO.next (State.row_keeps hk opShot_keeps)

theorem State.dropShot_keeps {sI s : State} {code : ℕ} (hk : Keeps sI s) :
    Keeps sI (State.dropShot s code) := by
  unfold State.dropShot
  split
  · exact hk
  · exact State.release_keeps (Keeps.mk hk rfl rfl)

theorem execShotRequestAbandon_keeps {sI s : State} (hk : Keeps sI s) :
    KeepsO sI (execShotRequestAbandon s) := by
  unfold execShotRequestAbandon
  exact KeepsO.next (by
    split
    · exact Keeps.ite (State.dropShot_keeps hk) hk
    · exact hk)

theorem execCapture_keeps {sI s : State} {c : Carrier} {l : LineForm} (hk : Keeps sI s) :
    KeepsO sI (execCapture c l s) := by
  unfold execCapture
  exact KeepsO.next (State.row_keeps hk opCapture_keeps)

theorem execLogTrouble_keeps {sI s : State} {c : Carrier} {l : LineForm} {first : Option ℕ} {count : Option ℕ} (hk : Keeps sI s) :
    KeepsO sI (execLogTrouble c l first count s) := by
  unfold execLogTrouble
  exact KeepsO.next (State.row_keeps hk opLog_keeps)

theorem execLogLegal_keeps {sI s : State} {c : Carrier} {l : LineForm} {first : Option ℕ} {count : Option ℕ} (hk : Keeps sI s) :
    KeepsO sI (execLogLegal c l first count s) := by
  unfold execLogLegal
  exact KeepsO.next (State.row_keeps hk opLog_keeps)

theorem execLogin_keeps {sI s : State} {c : Carrier} {l : LineForm} {role : Role} {secret : Option Text} (hk : Keeps sI s) :
    KeepsO sI (execLogin c l role secret s) := by
  unfold execLogin
  exact KeepsO.next (State.row_keeps hk opLogin_keeps)

theorem execLogout_keeps {sI s : State} {c : Carrier} {l : LineForm} (hk : Keeps sI s) :
    KeepsO sI (execLogout c l s) := by
  unfold execLogout
  exact KeepsO.next (State.row_keeps hk opLogout_keeps)

theorem execKeyLoad_keeps {sI s : State} {c : Carrier} {l : LineForm} {piece : Text} (hk : Keeps sI s) :
    KeepsO sI (execKeyLoad c l piece s) := by
  unfold execKeyLoad
  exact KeepsO.next (State.row_keeps hk opKeyLoad_keeps)

theorem execKeyStatus_keeps {sI s : State} {c : Carrier} {l : LineForm} {digest : Text} (hk : Keeps sI s) :
    KeepsO sI (execKeyStatus c l digest s) := by
  unfold execKeyStatus
  exact KeepsO.next (State.row_keeps hk opKeyStatus_keeps)

theorem execKeyPassword_keeps {sI s : State} {c : Carrier} {l : LineForm} {role : Role} {text : Text} (hk : Keeps sI s) :
    KeepsO sI (execKeyPassword c l role text s) := by
  unfold execKeyPassword
  exact KeepsO.next (State.row_keeps hk opKeyPassword_keeps)

theorem execToken_keeps {sI s : State} {c : Carrier} {l : LineForm} {digits : Text} (hk : Keeps sI s) :
    KeepsO sI (execToken c l digits s) := by
  unfold execToken
  exact KeepsO.next (State.row_keeps hk opToken_keeps)

theorem execZerocal_keeps {sI s : State} {c : Carrier} {l : LineForm} {mp : MeterPoint} (hk : Keeps sI s) :
    KeepsO sI (execZerocal c l mp s) := by
  unfold execZerocal
  exact KeepsO.next (State.row_keeps hk opZerocal_keeps)

theorem execCommit_keeps {sI s : State} {c : Carrier} {l : LineForm} (hk : Keeps sI s) :
    KeepsO sI (execCommit c l s) := by
  unfold execCommit
  exact KeepsO.next (State.row_keeps hk opCommit_keeps)

theorem execScheduleCommit_keeps {sI s : State} {c : Carrier} {l : LineForm} (hk : Keeps sI s) :
    KeepsO sI (execScheduleCommit c l s) := by
  unfold execScheduleCommit
  exact KeepsO.next (State.row_keeps hk opScheduleCommit_keeps)

theorem execScheduleDiscard_keeps {sI s : State} {c : Carrier} {l : LineForm} (hk : Keeps sI s) :
    KeepsO sI (execScheduleDiscard c l s) := by
  unfold execScheduleDiscard
  exact KeepsO.next (State.row_keeps hk opScheduleDiscard_keeps)

theorem execScheduleShow_keeps {sI s : State} {c : Carrier} {l : LineForm} {pendingView : Bool} (hk : Keeps sI s) :
    KeepsO sI (execScheduleShow c l pendingView s) := by
  unfold execScheduleShow
  exact KeepsO.next (State.row_keeps hk opScheduleShow_keeps)

theorem execReset_keeps {sI s : State} {c : Carrier} {l : LineForm} (hk : Keeps sI s) :
    KeepsO sI (execReset c l s) := by
  unfold execReset
  exact KeepsO.next (State.row_keeps hk opReset_keeps)

theorem execStatus_keeps {sI s : State} {c : Carrier} {l : LineForm} (hk : Keeps sI s) :
    KeepsO sI (execStatus c l s) := by
  unfold execStatus
  exact KeepsO.next (State.row_keeps hk opStatus_keeps)

theorem execHelp_keeps {sI s : State} {c : Carrier} {l : LineForm} {command : Option Text} (hk : Keeps sI s) :
    KeepsO sI (execHelp c l command s) := by
  unfold execHelp
  exact KeepsO.next (State.row_keeps hk opHelp_keeps)

theorem State.updateFrom_keeps {sI s : State} {src : Source} {type : ℕ} {data : List Byte} (hk : Keeps sI s) :
    Keeps sI (State.updateFrom s src type data) := by
  unfold State.updateFrom
  refine Keeps.ite ?_ ?_
  · exact hk
  · split
    · rename_i code st next s1 heq
      have hs1 : Keeps sI s1 := by
        have he := congrArg (fun p => p.2) heq
        dsimp only at he
        rw [← he]
        exact State.update_keeps hk
      split
      · exact State.linkSend_keeps hs1
      · exact hs1

theorem execUpdateBegin_keeps {sI s : State} {src : Source} {data : List Byte} (hk : Keeps sI s) :
    KeepsO sI (execUpdateBegin src data s) := by
  unfold execUpdateBegin
  exact KeepsO.next (State.updateFrom_keeps hk)

theorem execUpdateData_keeps {sI s : State} {src : Source} {data : List Byte} (hk : Keeps sI s) :
    KeepsO sI (execUpdateData src data s) := by
  unfold execUpdateData
  exact KeepsO.next (State.updateFrom_keeps hk)

theorem execUpdateEnd_keeps {sI s : State} {src : Source} {data : List Byte} (hk : Keeps sI s) :
    KeepsO sI (execUpdateEnd src data s) := by
  unfold execUpdateEnd
  exact KeepsO.next (State.updateFrom_keeps hk)

theorem execUpdateActivate_keeps {sI s : State} {src : Source} {data : List Byte} (hk : Keeps sI s) :
    KeepsO sI (execUpdateActivate src data s) := by
  unfold execUpdateActivate
  exact KeepsO.next (State.updateFrom_keeps hk)

theorem execUpdateAbort_keeps {sI s : State} {src : Source} {data : List Byte} (hk : Keeps sI s) :
    KeepsO sI (execUpdateAbort src data s) := by
  unfold execUpdateAbort
  exact KeepsO.next (State.updateFrom_keeps hk)

theorem execUpdateStatus_keeps {sI s : State} {src : Source} {data : List Byte} (hk : Keeps sI s) :
    KeepsO sI (execUpdateStatus src data s) := by
  unfold execUpdateStatus
  exact KeepsO.next (State.updateFrom_keeps hk)

theorem State.beginLine_keeps {sI s : State} {c : Carrier} (hk : Keeps sI s) :
    Keeps sI (State.beginLine s c) := by
  unfold State.beginLine
  split
  · exact State.setCar_keeps hk
  · exact hk

theorem State.endLineRun_keeps {sI s : State} {c : Carrier} (hk : Keeps sI s) :
    Keeps sI (State.endLineRun s c) := by
  unfold State.endLineRun
  exact State.setCar_keeps hk

theorem State.runNext_keeps {sI s : State} {c : Carrier} (hk : Keeps sI s) :
    Keeps sI (State.runNext s c) := by
  unfold State.runNext
  split
  · exact hk
  · exact State.endLineRun_keeps (by
      split
      · exact State.tunnelLine_keeps (State.beginLine_keeps hk)
      · exact State.runText_keeps (State.beginLine_keeps hk)
      · exact State.beginLine_keeps hk)

theorem State.setWork_keeps {sI s : State} {log : Bool} {v : ℕ} (hk : Keeps sI s) :
    Keeps sI (State.setWork s log v) := by
  unfold State.setWork
  exact Keeps.ite (Keeps.mk hk rfl rfl) (Keeps.mk hk rfl rfl)

theorem State.runLines_keeps {s0 s : State} {log : Bool} {time step slice n used : Nat} (h : Keeps s0 s) :
    KeepsP s0 (State.runLines log time step slice n used s) := by
  induction n generalizing used s with
  | zero => exact h
  | succ n ih =>
    unfold State.runLines
    refine KeepsP.ite h ?_
    split
    · exact h
    · exact KeepsP.ite h (KeepsP.ite (ih (State.runNext_keeps (State.setWork_keeps h)))
        (ih (State.beginLine_keeps (State.setWork_keeps h))))

theorem execCharacterReceived_keeps {sI s : State} {dt : ℕ} {c : Carrier} {ch : Byte} (hk : Keeps sI s) :
    KeepsO sI (execCharacterReceived dt c ch s) := by
  unfold execCharacterReceived
  exact KeepsO.next (Keeps.ite (KeepsP.out (State.runLines_keeps (State.receiveChar_keeps (State.advance_keeps hk)))) (State.receiveChar_keeps (State.advance_keeps hk)))

end Sys2Proof.Machine
end

