-- ==== Sys2Proof/Laws/KeepsTick.lean ====
section
/-! SUPPORT. What the operations of Machine/Tick.lean keep (Laws/Keeps.lean), one lemma per operation. -/

namespace Sys2Proof.Machine

theorem State.overrun_keeps {sI s : State} (hk : Keeps sI s) :
    Keeps sI (State.overrun s) := by
  unfold State.overrun
  exact State.markRecov_keeps (State.markRecov_keeps (State.setMp_keeps (State.setMp_keeps (State.detect_keeps (State.bump_keeps (State.set1_keeps hk))))))

theorem State.overrunCheck_keeps {sI s : State} (hk : Keeps sI s) :
    Keeps sI (State.overrunCheck s) := by
  unfold State.overrunCheck
  exact Keeps.ite (State.stopShots_keeps (State.overrun_keeps hk)) hk

theorem State.latchTick_keeps {sI s : State} (hk : Keeps sI s) :
    Keeps sI (State.latchTick s) := by
  unfold State.latchTick
  exact State.retWrite_keeps (State.put_keeps (State.put_keeps (State.put_keeps (Keeps.mk hk rfl rfl))))

theorem State.measureEnv_keeps {sI s : State} {env : CaptureEnv} (hk : Keeps sI s) :
    Keeps sI (State.measureEnv s env) := by
  unfold State.measureEnv
  exact State.putI_keeps (State.put_keeps (State.put_keeps (State.putB_keeps hk)))

theorem State.discardSealed_keeps {s0 s : State} (h : Keeps s0 s) : Keeps s0 s.discardSealed := by
  unfold State.discardSealed
  refine Keeps.ite (State.legal_keeps (Keeps.mapShadow ?_ h)) h
  intro c hc
  obtain ⟨a, w⟩ := c
  cases w with
  | none => exact absurd rfl hc
  | some x => simp

theorem State.installSched_keeps {sI s : State} (hk : Keeps sI s) :
    Keeps sI (State.installSched s) := by
  unfold State.installSched
  split
  · exact hk
  · exact Keeps.mk (State.clr_keeps (State.schedInstall_keeps hk)) rfl rfl

theorem State.intoForce_keeps {sI s : State} {closing : Bool} (hk : Keeps sI s) :
    Keeps sI (State.intoForce s closing) := by
  unfold State.intoForce
  exact Keeps.ite (Keeps.ite (State.discardSealed_keeps hk) hk) (Keeps.ite (State.installSched_keeps (State.copyShadows_keeps hk)) (State.set1_keeps (State.installSched_keeps (State.copyShadows_keeps hk))))

theorem State.sealCapture_keeps {sI s : State} {closing : Bool} (hk : Keeps sI s) :
    Keeps sI (State.sealCapture s closing) := by
  unfold State.sealCapture
  split
  · exact hk
  · exact Keeps.ite (State.zcRefuse_keeps (State.dropShot_keeps (State.clr_keeps (State.sealEndsUpdate_keeps (Keeps.mk hk rfl rfl))))) (Keeps.mk hk rfl rfl)

theorem State.gasChange_keeps {sI s : State} {old : State} {x : ℕ} (hk : Keeps sI s) :
    Keeps sI (State.gasChange s old x) := by
  unfold State.gasChange
  exact Keeps.ite hk (State.legal_keeps hk)

theorem State.tampCapture_keeps {sI s : State} {old : State} {n : ℕ} (hk : Keeps sI s) :
    Keeps sI (State.tampCapture s old n) := by
  unfold State.tampCapture
  exact Keeps.ite hk (Keeps.ite (State.showTamp_keeps (State.tampSense_keeps hk)) (State.tampArm_keeps hk))

theorem State.pathCapture_keeps {sI s : State} {n : ℕ} (hk : Keeps sI s) :
    Keeps sI (State.pathCapture s n) := by
  unfold State.pathCapture
  exact State.setPathSt_keeps hk

theorem State.shotCapture_keeps {sI s : State} {old : State} (hk : Keeps sI s) :
    Keeps sI (State.shotCapture s old) := by
  unfold State.shotCapture
  split
  · rename_i s1 zcMp heq
    have hs1 : Keeps sI s1 := by
      have he := congrArg (fun p => p.1) heq
      dsimp only at he
      rw [← he]
      exact State.zcInForce_keeps hk
    extract_lets -merge -underBinder changed
    split
    · rename_i s2 stale heq
      have hs2 : Keeps sI s2 := by
        have he := congrArg (fun p => p.1) heq
        dsimp only at he
        rw [← he]
        exact State.ameCapture_keeps hs1
      extract_lets -merge -underBinder s3 now s4 req src srcx2
      have hs3 : Keeps sI s3 := State.consumeTrig_keeps (Keeps.foldl hs2 (fun _ _ hs => State.pathCapture_keeps hs))
      have hs4 : Keeps sI s4 := State.zcCapture_keeps (State.recovCapture_keeps (State.recovCapture_keeps hs3))
      exact Keeps.mk hs4 rfl rfl

theorem State.clockCapture_keeps {sI s : State} {env : CaptureEnv} (hk : Keeps sI s) :
    Keeps sI (State.clockCapture s env) := by
  unfold State.clockCapture
  extract_lets -merge -underBinder s1 s2 src
  have hs1 : Keeps sI s1 := Keeps.ite hk (State.detect_keeps (State.noteStop_keeps hk))
  have hs2 : Keeps sI s2 := State.detect_keeps (State.set1_keeps hs1)
  exact Keeps.ite hs1 (Keeps.ite (State.set1_keeps (State.set1_keeps hs1)) (Keeps.mk hs2 rfl rfl))

theorem State.payCapture_keeps {sI s : State} (hk : Keeps sI s) :
    Keeps sI (State.payCapture s) := by
  unfold State.payCapture
  exact Keeps.ite (State.resumeLockout_keeps (State.unitOfCredit_keeps hk)) (State.checkLockout_keeps (State.unitOfCredit_keeps hk))

theorem State.promoCapture_keeps {sI s : State} {old : State} (hk : Keeps sI s) :
    Keeps sI (State.promoCapture s old) := by
  unfold State.promoCapture
  exact Keeps.ite (State.set1_keeps hk) hk

theorem State.upset_keeps {sI s : State} {l : List (ℕ × Bool)} (hk : Keeps sI s) :
    Keeps sI (State.upset s l) := by
  unfold State.upset
  exact Keeps.foldl hk (fun _ _ ht => Keeps.mk ht rfl rfl)

theorem State.capturePhase_keeps {sI s : State} {env : CaptureEnv} (hk : Keeps sI s) :
    Keeps sI (State.capturePhase s env) := by
  unfold State.capturePhase
  extract_lets -merge -underBinder s1 closing s2 s3 s4 s5 s6 s7 s8 s9 s10 s11 src srcx2 srcx3
  have hs1 : Keeps sI s1 := State.latchTick_keeps (State.safeCapture_keeps (State.upset_keeps hk))
  have hs2 : Keeps sI s2 := State.driveCapture_keeps (State.sealCapture_keeps (State.measureEnv_keeps (State.baudCapture_keeps (State.intoForce_keeps hs1))))
  have hs3 : Keeps sI s3 := Keeps.ite (State.sealStore_keeps (State.retentionRecord_keeps hs2)) hs2
  have hs4 : Keeps sI s4 := State.gasChange_keeps (State.gasChange_keeps hs3)
  have hs5 : Keeps sI s5 := State.shotCapture_keeps (State.sensCapture_keeps (State.mpCapture_keeps (State.mpCapture_keeps hs4)))
  have hs6 : Keeps sI s6 := State.holdCapture_keeps (State.keyCapture_keeps hs5)
  have hs7 : Keeps sI s7 := Keeps.foldl hs6 (fun _ _ ht => State.tampCapture_keeps ht)
  have hs8 : Keeps sI s8 := State.conditions_keeps (State.refreshClose_keeps (State.clockCapture_keeps hs7))
  have hs9 : Keeps sI s9 := State.dispCapture_keeps (State.payCapture_keeps (State.linkCapture_keeps hs8))
  have hs10 : Keeps sI s10 := State.crcCapture_keeps (State.saveFix_keeps (State.promoCapture_keeps hs9))
  have hs11 : Keeps sI s11 := State.legalRelease_keeps hs10
  have hsrc : Keeps sI src := State.enterPower_keeps (State.put_keeps hs11)
  exact Keeps.mk hsrc rfl rfl

theorem execTickBoundary_keeps {sI s : State} {dt : ℕ} {env : CaptureEnv} (hk : Keeps sI s) :
    KeepsO sI (execTickBoundary dt env s) := by
  unfold execTickBoundary
  split
  · exact KeepsO.ite (KeepsO.next (Keeps.mk (by
      split <;> exact State.advance_keeps hk) rfl rfl)) (KeepsO.next (Keeps.mk (State.capturePhase_keeps (State.overrunCheck_keeps (by
      split <;> exact State.advance_keeps hk))) rfl rfl))
  · exact KeepsO.ite (KeepsO.next (Keeps.mk (by
      split <;> exact State.advance_keeps hk) rfl rfl)) (KeepsO.next (Keeps.mk (State.capturePhase_keeps (State.overrunCheck_keeps (by
      split <;> exact State.advance_keeps hk))) rfl rfl))
  · exact KeepsO.ite (KeepsO.next (Keeps.mk (by
      split <;> exact State.advance_keeps hk) rfl rfl)) (KeepsO.next (Keeps.mk (State.capturePhase_keeps (State.overrunCheck_keeps (by
      split <;> exact State.advance_keeps hk))) rfl rfl))
  · exact KeepsO.next (State.advance_keeps hk)

theorem execTickPreWake_keeps {sI s : State} {dt : ℕ} (hk : Keeps sI s) :
    KeepsO sI (execTickPreWake dt s) := by
  unfold execTickPreWake
  exact KeepsO.next (State.wakeCore_keeps (State.advance_keeps hk))

theorem State.serveWatchdog_keeps {sI s : State} (hk : Keeps sI s) :
    Keeps sI (State.serveWatchdog s) := by
  unfold State.serveWatchdog
  exact Keeps.mk hk rfl rfl

theorem State.publishTickEnd_keeps {sI s : State} {us : ℕ} (hk : Keeps sI s) :
    Keeps sI (State.publishTickEnd s us) := by
  unfold State.publishTickEnd
  exact State.trialTick_keeps (State.serveWatchdog_keeps (State.put_keeps (State.put_keeps hk)))

theorem State.flashLost_keeps {sI s : State} {d : DiagIn} (hk : Keeps sI s) :
    Keeps sI (State.flashLost s d) := by
  unfold State.flashLost
  split
  · exact Keeps.mk hk rfl rfl
  · exact hk

theorem State.computePhase_keeps {sI s : State} {d : DiagIn} (hk : Keeps sI s) :
    Keeps sI (State.computePhase s d) := by
  unfold State.computePhase
  extract_lets -merge -underBinder s1 s2 s3 s4
  have hs1 : Keeps sI s1 := State.loopbackCheck_keeps (State.put_keeps (State.showHidden_keeps hk))
  have hs2 : Keeps sI s2 := Keeps.foldl (State.countPaths_keeps (State.shotCompute_keeps (State.shotCompute_keeps hs1))) (fun _ _ hs => State.depositBlock_keeps hs)
  have hs3 : Keeps sI s3 := State.meterTick_keeps (State.meterTick_keeps hs2)
  have hs4 : Keeps sI s4 := State.flashLost_keeps (State.diagnose_keeps (State.payTick_keeps (State.billSteps_keeps hs3)))
  exact State.publishTickEnd_keeps (State.showHidden_keeps (State.zcCompute_keeps (State.noteRows_keeps (State.frameCheck_keeps hs4))))

theorem execCompute_keeps {sI s : State} {diag : DiagIn} (hk : Keeps sI s) :
    KeepsO sI (execCompute diag s) := by
  unfold execCompute
  exact KeepsO.next (by
    refine Keeps.ite ?_ ?_
    · split
      · exact State.safetyRestart_keeps hk
      · exact State.computePhase_keeps hk
    · exact hk)

theorem execDemandBoundary_keeps {sI s : State} (hk : Keeps sI s) :
    KeepsO sI (execDemandBoundary s) := by
  unfold execDemandBoundary
  exact KeepsO.next (Keeps.ite (State.fireDemand_keeps hk) hk)

theorem execPeriodBoundary_keeps {sI s : State} (hk : Keeps sI s) :
    KeepsO sI (execPeriodBoundary s) := by
  unfold execPeriodBoundary
  exact KeepsO.next (Keeps.ite (State.fireUpTo_keeps hk) hk)

theorem execTariffSwitch_keeps {sI s : State} (hk : Keeps sI s) :
    KeepsO sI (execTariffSwitch s) := by
  unfold execTariffSwitch
  exact KeepsO.next (Keeps.ite (State.tariffStep_keeps (State.boundaries_keeps hk)) hk)

theorem State.queueTunnel_keeps {sI s : State} {x : RxItem} (hk : Keeps sI s) :
    Keeps sI (State.queueTunnel s x) := by
  unfold State.queueTunnel
  extract_lets -merge -underBinder c
  refine Keeps.ite ?_ ?_
  · exact hk
  · split
    · exact State.queueLine_keeps hk
    · exact hk

theorem State.objectPayload_keeps {sI s : State} {x : RxItem} (hk : Keeps sI s) :
    Keeps sI (State.objectPayload s x) := by
  unfold State.objectPayload
  extract_lets -merge -underBinder b nb inv cls obis a
  refine Keeps.ite ?_ ?_
  · exact hk
  · split
    · exact State.objGet_keeps hk
    · exact State.objSet_keeps hk
    · exact State.objAction_keeps hk

theorem State.queryPayload_keeps {sI s : State} {x : RxItem} (hk : Keeps sI s) :
    Keeps sI (State.queryPayload s x) := by
  unfold State.queryPayload
  exact Keeps.ite hk (State.linkSend_keeps hk)

theorem State.linkPayload_keeps {sI s : State} {x : RxItem} (hk : Keeps sI s) :
    Keeps sI (State.linkPayload s x) := by
  unfold State.linkPayload
  exact Keeps.ite hk (Keeps.ite (State.objectPayload_keeps hk) (Keeps.ite (State.queueTunnel_keeps hk) (Keeps.ite (State.keyFromLink_keeps hk) (Keeps.ite (State.queryPayload_keeps hk) (Keeps.ite (State.updateFrom_keeps hk) hk)))))

theorem State.takeInbox_keeps {sI s : State} (hk : Keeps sI s) :
    Keeps sI (State.takeInbox s) := by
  unfold State.takeInbox
  exact Keeps.foldl (Keeps.mk hk rfl rfl) (fun _ _ ht => State.dequeue_keeps (State.linkPayload_keeps ht))

theorem State.noteWork_keeps {sI s : State} (hk : Keeps sI s) :
    Keeps sI (State.noteWork s) := by
  unfold State.noteWork
  exact Keeps.foldl hk (fun _ _ ht => Keeps.ite (State.ready_keeps ht) ht)

theorem State.taskSliceRun_keeps {sI s : State} {task : ℕ} {time : ℕ} {flashBad : Bool} (hk : Keeps sI s) :
    KeepsP sI (State.taskSliceRun s task time flashBad) := by
  unfold State.taskSliceRun
  split
  · exact KeepsP.pair (State.radioTask_keeps (State.takeInbox_keeps hk))
  · exact KeepsP.pair (State.dispTask_keeps hk)
  · exact State.runLines_keeps hk
  · exact State.runLines_keeps hk
  · exact KeepsP.pair (State.updTask_keeps hk)
  · exact KeepsP.pair (State.keypadTask_keeps hk)
  · exact KeepsP.pair hk

theorem State.serveTask_keeps {s0 : State} {work : ServiceIn} {x : Nat × List Nat × State} {task : Nat}
    (h : KeepsPP s0 x) : KeepsPP s0 (State.serveTask work x task) := by
  unfold State.serveTask
  obtain ⟨left, served, s⟩ := x
  have hs : Keeps s0 s := h
  dsimp -zeta only
  refine KeepsPP.ite ?_ h
  extract_lets time s2 age
  have h2 : Keeps s0 s2 := Keeps.ite (State.overrun_keeps (KeepsP.out (State.taskSliceRun_keeps hs)))
    (KeepsP.out (State.taskSliceRun_keeps hs))
  exact Keeps.mk h2 rfl rfl

theorem State.ageTasks_keeps {sI s : State} {served : List ℕ} (hk : Keeps sI s) :
    Keeps sI (State.ageTasks s served) := by
  unfold State.ageTasks
  extract_lets -merge -underBinder older was src s1
  have hs1 : Keeps sI s1 := Keeps.mk hk rfl rfl
  exact Keeps.ite (State.set1_keeps hs1) hs1

theorem State.releaseAll_keeps {sI s : State} {d : Deferred} {r : Resp} (hk : Keeps sI s) :
    Keeps sI (State.releaseAll s d r) := by
  unfold State.releaseAll
  exact Keeps.foldl hk (fun t c ht => by
      split
      · exact Keeps.ite (State.release_keeps ht) ht
      · exact ht)

theorem State.answerSaves_keeps {sI s : State} (hk : Keeps sI s) :
    Keeps sI (State.answerSaves s) := by
  unfold State.answerSaves
  extract_lets -merge -underBinder s0 src s1
  have hs0 : Keeps sI s0 := Keeps.ite (State.releaseAll_keeps hk) hk
  have hs1 : Keeps sI s1 := Keeps.mk hs0 rfl rfl
  split
  · exact hs1
  · exact State.clr_keeps (Keeps.mk (State.releaseAll_keeps hs1) rfl rfl)

theorem State.answerShot_keeps {sI s : State} (hk : Keeps sI s) :
    Keeps sI (State.answerShot s) := by
  unfold State.answerShot
  split
  · exact hk
  · split
    · exact Keeps.ite (Keeps.mk (State.releaseAll_keeps hk) rfl rfl) (State.releaseAll_keeps hk)
    · exact Keeps.ite (State.dropShot_keeps hk) hk

theorem State.answerKey_keeps {sI s : State} (hk : Keeps sI s) :
    Keeps sI (State.answerKey s) := by
  unfold State.answerKey
  split
  · exact hk
  · extract_lets -merge -underBinder src s1
    have hs1 : Keeps sI s1 := Keeps.mk hk rfl rfl
    split
    · exact State.linkSend_keeps hs1
    · exact State.release_keeps hs1
    · exact hs1

theorem State.endService_keeps {sI s : State} (hk : Keeps sI s) :
    Keeps sI (State.endService s) := by
  unfold State.endService
  exact Keeps.mk (State.xo24Rest_keeps (Keeps.ite (State.put_keeps hk) (State.endPhases_keeps hk))) rfl rfl

theorem State.servicePhase_keeps {sI s : State} {avail : ℕ} {work : ServiceIn} (hk : Keeps sI s) :
    Keeps sI (State.servicePhase s avail work) := by
  unfold State.servicePhase
  extract_lets -merge -underBinder s1 s2 room
  have hs1 : Keeps sI s1 := State.balanceRequests_keeps (State.answerKey_keeps (State.answerShot_keeps (State.answerSaves_keeps (State.keyService_keeps (State.releaseTokens_keeps hk)))))
  have hs2 : Keeps sI s2 := State.noteWork_keeps hs1
  split
  · rename_i left served s3 heq
    have hs3 : Keeps sI s3 := by
      have he := congrArg (fun p => p.2.2) heq
      dsimp only at he
      rw [← he]
      exact KeepsPP.foldl (KeepsPP.pair (KeepsP.pair hs2)) (fun _ _ hx => State.serveTask_keeps hx)
    exact State.endService_keeps (State.put_keeps (State.ageTasks_keeps hs3))

theorem State.endTick_keeps {sI s : State} (hk : Keeps sI s) :
    Keeps sI (State.endTick s) := by
  unfold State.endTick
  exact Keeps.ite (State.commandReset_keeps hk) hk

theorem execServiceWindow_keeps {sI s : State} {avail : ℕ} {work : ServiceIn} (hk : Keeps sI s) :
    KeepsO sI (execServiceWindow avail work s) := by
  unfold execServiceWindow
  exact KeepsO.next (Keeps.ite (State.endTick_keeps (State.servicePhase_keeps hk)) hk)

theorem execTaskPromotion_keeps {sI s : State} (hk : Keeps sI s) :
    KeepsO sI (execTaskPromotion s) := by
  unfold execTaskPromotion
  exact KeepsO.next (Keeps.ite (State.set1_keeps hk) hk)

theorem State.endPersist_keeps {sI s : State} (hk : Keeps sI s) :
    Keeps sI (State.endPersist s) := by
  unfold State.endPersist
  extract_lets -merge -underBinder s1 src s2 s3
  have hs1 : Keeps sI s1 := State.activatePersist_keeps hk
  have hs2 : Keeps sI s2 := Keeps.ite (Keeps.mk hs1 rfl rfl) hs1
  have hs3 : Keeps sI s3 := State.endPhases_keeps hs2
  split
  · exact State.safetyRestart_keeps hs3
  · exact Keeps.ite (State.enterHibernate_keeps (Keeps.ite hs3 (State.lcdOff_keeps (State.settleDisplay_keeps hs3)))) hs3

theorem execPersist_keeps {sI s : State} (hk : Keeps sI s) :
    KeepsO sI (execPersist s) := by
  unfold execPersist
  exact KeepsO.next (Keeps.ite (State.endTick_keeps (State.endPersist_keeps (Keeps.ite (State.persistRows_keeps hk) hk))) hk)

theorem execCommitInterval_keeps {sI s : State} (hk : Keeps sI s) :
    KeepsO sI (execCommitInterval s) := by
  unfold execCommitInterval
  exact KeepsO.next (Keeps.ite (State.commitDue_keeps hk) hk)

theorem execSaveComplete_keeps {sI s : State} (hk : Keeps sI s) :
    KeepsO sI (execSaveComplete s) := by
  unfold execSaveComplete
  exact KeepsO.next (Keeps.ite (State.saveEnd_keeps hk) hk)

end Sys2Proof.Machine
end

