-- ==== Sys2Proof/Laws/State.lean ====
section
/-! SUPPORT. Laws of the register file: what a register write leaves alone, field by field of the state, and what a register or a
field reads after it. -/

namespace Sys2Proof.Machine

/-! ### `wr` leaves every field of the state but the registers -/

@[simp] theorem State.wr_pending (s : State) (a : Nat) (w : Word) : (s.wr a w).pending = s.pending := rfl
@[simp] theorem State.wr_shadow (s : State) (a : Nat) (w : Word) : (s.wr a w).shadow = s.shadow := rfl
@[simp] theorem State.wr_saved (s : State) (a : Nat) (w : Word) : (s.wr a w).saved = s.saved := rfl
@[simp] theorem State.wr_crs (s : State) (a : Nat) (w : Word) : (s.wr a w).crs = s.crs := rfl
@[simp] theorem State.wr_tok (s : State) (a : Nat) (w : Word) : (s.wr a w).tok = s.tok := rfl
@[simp] theorem State.wr_ringSeq (s : State) (a : Nat) (w : Word) : (s.wr a w).ringSeq = s.ringSeq := rfl
@[simp] theorem State.wr_nvm (s : State) (a : Nat) (w : Word) : (s.wr a w).nvm = s.nvm := rfl
@[simp] theorem State.wr_ecc (s : State) (a : Nat) (w : Word) : (s.wr a w).ecc = s.ecc := rfl
@[simp] theorem State.wr_scrub (s : State) (a : Nat) (w : Word) : (s.wr a w).scrub = s.scrub := rfl
@[simp] theorem State.wr_uptime (s : State) (a : Nat) (w : Word) : (s.wr a w).uptime = s.uptime := rfl
@[simp] theorem State.wr_free (s : State) (a : Nat) (w : Word) : (s.wr a w).free = s.free := rfl
@[simp] theorem State.wr_freeLevel (s : State) (a : Nat) (w : Word) : (s.wr a w).freeLevel = s.freeLevel := rfl
@[simp] theorem State.wr_rtc (s : State) (a : Nat) (w : Word) : (s.wr a w).rtc = s.rtc := rfl
@[simp] theorem State.wr_pow (s : State) (a : Nat) (w : Word) : (s.wr a w).pow = s.pow := rfl
@[simp] theorem State.wr_rm (s : State) (a : Nat) (w : Word) : (s.wr a w).rm = s.rm := rfl
@[simp] theorem State.wr_cmd (s : State) (a : Nat) (w : Word) : (s.wr a w).cmd = s.cmd := rfl
@[simp] theorem State.wr_jrn (s : State) (a : Nat) (w : Word) : (s.wr a w).jrn = s.jrn := rfl
@[simp] theorem State.wr_bill (s : State) (a : Nat) (w : Word) : (s.wr a w).bill = s.bill := rfl
@[simp] theorem State.wr_act (s : State) (a : Nat) (w : Word) : (s.wr a w).act = s.act := rfl
@[simp] theorem State.wr_kpd (s : State) (a : Nat) (w : Word) : (s.wr a w).kpd = s.kpd := rfl
@[simp] theorem State.wr_ame (s : State) (a : Nat) (w : Word) : (s.wr a w).ame = s.ame := rfl
@[simp] theorem State.wr_shot (s : State) (a : Nat) (w : Word) : (s.wr a w).shot = s.shot := rfl
@[simp] theorem State.wr_sens (s : State) (a : Nat) (w : Word) : (s.wr a w).sens = s.sens := rfl
@[simp] theorem State.wr_mps (s : State) (a : Nat) (w : Word) : (s.wr a w).mps = s.mps := rfl
@[simp] theorem State.wr_safe (s : State) (a : Nat) (w : Word) : (s.wr a w).safe = s.safe := rfl
@[simp] theorem State.wr_keys (s : State) (a : Nat) (w : Word) : (s.wr a w).keys = s.keys := rfl
@[simp] theorem State.wr_link (s : State) (a : Nat) (w : Word) : (s.wr a w).link = s.link := rfl
@[simp] theorem State.wr_disp (s : State) (a : Nat) (w : Word) : (s.wr a w).disp = s.disp := rfl
@[simp] theorem State.wr_mgmt (s : State) (a : Nat) (w : Word) : (s.wr a w).mgmt = s.mgmt := rfl
@[simp] theorem State.wr_pins (s : State) (a : Nat) (w : Word) : (s.wr a w).pins = s.pins := rfl

/-! ### `put` leaves every field of the state but the registers -/

@[simp] theorem State.put_pending (s : State) (f : Fld) (v : Nat) : (s.put f v).pending = s.pending := rfl
@[simp] theorem State.put_shadow (s : State) (f : Fld) (v : Nat) : (s.put f v).shadow = s.shadow := rfl
@[simp] theorem State.put_saved (s : State) (f : Fld) (v : Nat) : (s.put f v).saved = s.saved := rfl
@[simp] theorem State.put_crs (s : State) (f : Fld) (v : Nat) : (s.put f v).crs = s.crs := rfl
@[simp] theorem State.put_tok (s : State) (f : Fld) (v : Nat) : (s.put f v).tok = s.tok := rfl
@[simp] theorem State.put_ringSeq (s : State) (f : Fld) (v : Nat) : (s.put f v).ringSeq = s.ringSeq := rfl
@[simp] theorem State.put_nvm (s : State) (f : Fld) (v : Nat) : (s.put f v).nvm = s.nvm := rfl
@[simp] theorem State.put_ecc (s : State) (f : Fld) (v : Nat) : (s.put f v).ecc = s.ecc := rfl
@[simp] theorem State.put_scrub (s : State) (f : Fld) (v : Nat) : (s.put f v).scrub = s.scrub := rfl
@[simp] theorem State.put_uptime (s : State) (f : Fld) (v : Nat) : (s.put f v).uptime = s.uptime := rfl
@[simp] theorem State.put_free (s : State) (f : Fld) (v : Nat) : (s.put f v).free = s.free := rfl
@[simp] theorem State.put_freeLevel (s : State) (f : Fld) (v : Nat) : (s.put f v).freeLevel = s.freeLevel := rfl
@[simp] theorem State.put_rtc (s : State) (f : Fld) (v : Nat) : (s.put f v).rtc = s.rtc := rfl
@[simp] theorem State.put_pow (s : State) (f : Fld) (v : Nat) : (s.put f v).pow = s.pow := rfl
@[simp] theorem State.put_rm (s : State) (f : Fld) (v : Nat) : (s.put f v).rm = s.rm := rfl
@[simp] theorem State.put_cmd (s : State) (f : Fld) (v : Nat) : (s.put f v).cmd = s.cmd := rfl
@[simp] theorem State.put_jrn (s : State) (f : Fld) (v : Nat) : (s.put f v).jrn = s.jrn := rfl
@[simp] theorem State.put_bill (s : State) (f : Fld) (v : Nat) : (s.put f v).bill = s.bill := rfl
@[simp] theorem State.put_act (s : State) (f : Fld) (v : Nat) : (s.put f v).act = s.act := rfl
@[simp] theorem State.put_kpd (s : State) (f : Fld) (v : Nat) : (s.put f v).kpd = s.kpd := rfl
@[simp] theorem State.put_ame (s : State) (f : Fld) (v : Nat) : (s.put f v).ame = s.ame := rfl
@[simp] theorem State.put_shot (s : State) (f : Fld) (v : Nat) : (s.put f v).shot = s.shot := rfl
@[simp] theorem State.put_sens (s : State) (f : Fld) (v : Nat) : (s.put f v).sens = s.sens := rfl
@[simp] theorem State.put_mps (s : State) (f : Fld) (v : Nat) : (s.put f v).mps = s.mps := rfl
@[simp] theorem State.put_safe (s : State) (f : Fld) (v : Nat) : (s.put f v).safe = s.safe := rfl
@[simp] theorem State.put_keys (s : State) (f : Fld) (v : Nat) : (s.put f v).keys = s.keys := rfl
@[simp] theorem State.put_link (s : State) (f : Fld) (v : Nat) : (s.put f v).link = s.link := rfl
@[simp] theorem State.put_disp (s : State) (f : Fld) (v : Nat) : (s.put f v).disp = s.disp := rfl
@[simp] theorem State.put_mgmt (s : State) (f : Fld) (v : Nat) : (s.put f v).mgmt = s.mgmt := rfl
@[simp] theorem State.put_pins (s : State) (f : Fld) (v : Nat) : (s.put f v).pins = s.pins := rfl

/-! ### `putI` leaves every field of the state but the registers -/

@[simp] theorem State.putI_pending (s : State) (f : Fld) (v : Int) : (s.putI f v).pending = s.pending := rfl
@[simp] theorem State.putI_shadow (s : State) (f : Fld) (v : Int) : (s.putI f v).shadow = s.shadow := rfl
@[simp] theorem State.putI_saved (s : State) (f : Fld) (v : Int) : (s.putI f v).saved = s.saved := rfl
@[simp] theorem State.putI_crs (s : State) (f : Fld) (v : Int) : (s.putI f v).crs = s.crs := rfl
@[simp] theorem State.putI_tok (s : State) (f : Fld) (v : Int) : (s.putI f v).tok = s.tok := rfl
@[simp] theorem State.putI_ringSeq (s : State) (f : Fld) (v : Int) : (s.putI f v).ringSeq = s.ringSeq := rfl
@[simp] theorem State.putI_nvm (s : State) (f : Fld) (v : Int) : (s.putI f v).nvm = s.nvm := rfl
@[simp] theorem State.putI_ecc (s : State) (f : Fld) (v : Int) : (s.putI f v).ecc = s.ecc := rfl
@[simp] theorem State.putI_scrub (s : State) (f : Fld) (v : Int) : (s.putI f v).scrub = s.scrub := rfl
@[simp] theorem State.putI_uptime (s : State) (f : Fld) (v : Int) : (s.putI f v).uptime = s.uptime := rfl
@[simp] theorem State.putI_free (s : State) (f : Fld) (v : Int) : (s.putI f v).free = s.free := rfl
@[simp] theorem State.putI_freeLevel (s : State) (f : Fld) (v : Int) : (s.putI f v).freeLevel = s.freeLevel := rfl
@[simp] theorem State.putI_rtc (s : State) (f : Fld) (v : Int) : (s.putI f v).rtc = s.rtc := rfl
@[simp] theorem State.putI_pow (s : State) (f : Fld) (v : Int) : (s.putI f v).pow = s.pow := rfl
@[simp] theorem State.putI_rm (s : State) (f : Fld) (v : Int) : (s.putI f v).rm = s.rm := rfl
@[simp] theorem State.putI_cmd (s : State) (f : Fld) (v : Int) : (s.putI f v).cmd = s.cmd := rfl
@[simp] theorem State.putI_jrn (s : State) (f : Fld) (v : Int) : (s.putI f v).jrn = s.jrn := rfl
@[simp] theorem State.putI_bill (s : State) (f : Fld) (v : Int) : (s.putI f v).bill = s.bill := rfl
@[simp] theorem State.putI_act (s : State) (f : Fld) (v : Int) : (s.putI f v).act = s.act := rfl
@[simp] theorem State.putI_kpd (s : State) (f : Fld) (v : Int) : (s.putI f v).kpd = s.kpd := rfl
@[simp] theorem State.putI_ame (s : State) (f : Fld) (v : Int) : (s.putI f v).ame = s.ame := rfl
@[simp] theorem State.putI_shot (s : State) (f : Fld) (v : Int) : (s.putI f v).shot = s.shot := rfl
@[simp] theorem State.putI_sens (s : State) (f : Fld) (v : Int) : (s.putI f v).sens = s.sens := rfl
@[simp] theorem State.putI_mps (s : State) (f : Fld) (v : Int) : (s.putI f v).mps = s.mps := rfl
@[simp] theorem State.putI_safe (s : State) (f : Fld) (v : Int) : (s.putI f v).safe = s.safe := rfl
@[simp] theorem State.putI_keys (s : State) (f : Fld) (v : Int) : (s.putI f v).keys = s.keys := rfl
@[simp] theorem State.putI_link (s : State) (f : Fld) (v : Int) : (s.putI f v).link = s.link := rfl
@[simp] theorem State.putI_disp (s : State) (f : Fld) (v : Int) : (s.putI f v).disp = s.disp := rfl
@[simp] theorem State.putI_mgmt (s : State) (f : Fld) (v : Int) : (s.putI f v).mgmt = s.mgmt := rfl
@[simp] theorem State.putI_pins (s : State) (f : Fld) (v : Int) : (s.putI f v).pins = s.pins := rfl

/-! ### `set1` leaves every field of the state but the registers -/

@[simp] theorem State.set1_pending (s : State) (f : Fld) : (s.set1 f).pending = s.pending := rfl
@[simp] theorem State.set1_shadow (s : State) (f : Fld) : (s.set1 f).shadow = s.shadow := rfl
@[simp] theorem State.set1_saved (s : State) (f : Fld) : (s.set1 f).saved = s.saved := rfl
@[simp] theorem State.set1_crs (s : State) (f : Fld) : (s.set1 f).crs = s.crs := rfl
@[simp] theorem State.set1_tok (s : State) (f : Fld) : (s.set1 f).tok = s.tok := rfl
@[simp] theorem State.set1_ringSeq (s : State) (f : Fld) : (s.set1 f).ringSeq = s.ringSeq := rfl
@[simp] theorem State.set1_nvm (s : State) (f : Fld) : (s.set1 f).nvm = s.nvm := rfl
@[simp] theorem State.set1_ecc (s : State) (f : Fld) : (s.set1 f).ecc = s.ecc := rfl
@[simp] theorem State.set1_scrub (s : State) (f : Fld) : (s.set1 f).scrub = s.scrub := rfl
@[simp] theorem State.set1_uptime (s : State) (f : Fld) : (s.set1 f).uptime = s.uptime := rfl
@[simp] theorem State.set1_free (s : State) (f : Fld) : (s.set1 f).free = s.free := rfl
@[simp] theorem State.set1_freeLevel (s : State) (f : Fld) : (s.set1 f).freeLevel = s.freeLevel := rfl
@[simp] theorem State.set1_rtc (s : State) (f : Fld) : (s.set1 f).rtc = s.rtc := rfl
@[simp] theorem State.set1_pow (s : State) (f : Fld) : (s.set1 f).pow = s.pow := rfl
@[simp] theorem State.set1_rm (s : State) (f : Fld) : (s.set1 f).rm = s.rm := rfl
@[simp] theorem State.set1_cmd (s : State) (f : Fld) : (s.set1 f).cmd = s.cmd := rfl
@[simp] theorem State.set1_jrn (s : State) (f : Fld) : (s.set1 f).jrn = s.jrn := rfl
@[simp] theorem State.set1_bill (s : State) (f : Fld) : (s.set1 f).bill = s.bill := rfl
@[simp] theorem State.set1_act (s : State) (f : Fld) : (s.set1 f).act = s.act := rfl
@[simp] theorem State.set1_kpd (s : State) (f : Fld) : (s.set1 f).kpd = s.kpd := rfl
@[simp] theorem State.set1_ame (s : State) (f : Fld) : (s.set1 f).ame = s.ame := rfl
@[simp] theorem State.set1_shot (s : State) (f : Fld) : (s.set1 f).shot = s.shot := rfl
@[simp] theorem State.set1_sens (s : State) (f : Fld) : (s.set1 f).sens = s.sens := rfl
@[simp] theorem State.set1_mps (s : State) (f : Fld) : (s.set1 f).mps = s.mps := rfl
@[simp] theorem State.set1_safe (s : State) (f : Fld) : (s.set1 f).safe = s.safe := rfl
@[simp] theorem State.set1_keys (s : State) (f : Fld) : (s.set1 f).keys = s.keys := rfl
@[simp] theorem State.set1_link (s : State) (f : Fld) : (s.set1 f).link = s.link := rfl
@[simp] theorem State.set1_disp (s : State) (f : Fld) : (s.set1 f).disp = s.disp := rfl
@[simp] theorem State.set1_mgmt (s : State) (f : Fld) : (s.set1 f).mgmt = s.mgmt := rfl
@[simp] theorem State.set1_pins (s : State) (f : Fld) : (s.set1 f).pins = s.pins := rfl

/-! ### `clr` leaves every field of the state but the registers -/

@[simp] theorem State.clr_pending (s : State) (f : Fld) : (s.clr f).pending = s.pending := rfl
@[simp] theorem State.clr_shadow (s : State) (f : Fld) : (s.clr f).shadow = s.shadow := rfl
@[simp] theorem State.clr_saved (s : State) (f : Fld) : (s.clr f).saved = s.saved := rfl
@[simp] theorem State.clr_crs (s : State) (f : Fld) : (s.clr f).crs = s.crs := rfl
@[simp] theorem State.clr_tok (s : State) (f : Fld) : (s.clr f).tok = s.tok := rfl
@[simp] theorem State.clr_ringSeq (s : State) (f : Fld) : (s.clr f).ringSeq = s.ringSeq := rfl
@[simp] theorem State.clr_nvm (s : State) (f : Fld) : (s.clr f).nvm = s.nvm := rfl
@[simp] theorem State.clr_ecc (s : State) (f : Fld) : (s.clr f).ecc = s.ecc := rfl
@[simp] theorem State.clr_scrub (s : State) (f : Fld) : (s.clr f).scrub = s.scrub := rfl
@[simp] theorem State.clr_uptime (s : State) (f : Fld) : (s.clr f).uptime = s.uptime := rfl
@[simp] theorem State.clr_free (s : State) (f : Fld) : (s.clr f).free = s.free := rfl
@[simp] theorem State.clr_freeLevel (s : State) (f : Fld) : (s.clr f).freeLevel = s.freeLevel := rfl
@[simp] theorem State.clr_rtc (s : State) (f : Fld) : (s.clr f).rtc = s.rtc := rfl
@[simp] theorem State.clr_pow (s : State) (f : Fld) : (s.clr f).pow = s.pow := rfl
@[simp] theorem State.clr_rm (s : State) (f : Fld) : (s.clr f).rm = s.rm := rfl
@[simp] theorem State.clr_cmd (s : State) (f : Fld) : (s.clr f).cmd = s.cmd := rfl
@[simp] theorem State.clr_jrn (s : State) (f : Fld) : (s.clr f).jrn = s.jrn := rfl
@[simp] theorem State.clr_bill (s : State) (f : Fld) : (s.clr f).bill = s.bill := rfl
@[simp] theorem State.clr_act (s : State) (f : Fld) : (s.clr f).act = s.act := rfl
@[simp] theorem State.clr_kpd (s : State) (f : Fld) : (s.clr f).kpd = s.kpd := rfl
@[simp] theorem State.clr_ame (s : State) (f : Fld) : (s.clr f).ame = s.ame := rfl
@[simp] theorem State.clr_shot (s : State) (f : Fld) : (s.clr f).shot = s.shot := rfl
@[simp] theorem State.clr_sens (s : State) (f : Fld) : (s.clr f).sens = s.sens := rfl
@[simp] theorem State.clr_mps (s : State) (f : Fld) : (s.clr f).mps = s.mps := rfl
@[simp] theorem State.clr_safe (s : State) (f : Fld) : (s.clr f).safe = s.safe := rfl
@[simp] theorem State.clr_keys (s : State) (f : Fld) : (s.clr f).keys = s.keys := rfl
@[simp] theorem State.clr_link (s : State) (f : Fld) : (s.clr f).link = s.link := rfl
@[simp] theorem State.clr_disp (s : State) (f : Fld) : (s.clr f).disp = s.disp := rfl
@[simp] theorem State.clr_mgmt (s : State) (f : Fld) : (s.clr f).mgmt = s.mgmt := rfl
@[simp] theorem State.clr_pins (s : State) (f : Fld) : (s.clr f).pins = s.pins := rfl

/-! ### `putB` leaves every field of the state but the registers -/

@[simp] theorem State.putB_pending (s : State) (f : Fld) (b : Bool) : (s.putB f b).pending = s.pending := rfl
@[simp] theorem State.putB_shadow (s : State) (f : Fld) (b : Bool) : (s.putB f b).shadow = s.shadow := rfl
@[simp] theorem State.putB_saved (s : State) (f : Fld) (b : Bool) : (s.putB f b).saved = s.saved := rfl
@[simp] theorem State.putB_crs (s : State) (f : Fld) (b : Bool) : (s.putB f b).crs = s.crs := rfl
@[simp] theorem State.putB_tok (s : State) (f : Fld) (b : Bool) : (s.putB f b).tok = s.tok := rfl
@[simp] theorem State.putB_ringSeq (s : State) (f : Fld) (b : Bool) : (s.putB f b).ringSeq = s.ringSeq := rfl
@[simp] theorem State.putB_nvm (s : State) (f : Fld) (b : Bool) : (s.putB f b).nvm = s.nvm := rfl
@[simp] theorem State.putB_ecc (s : State) (f : Fld) (b : Bool) : (s.putB f b).ecc = s.ecc := rfl
@[simp] theorem State.putB_scrub (s : State) (f : Fld) (b : Bool) : (s.putB f b).scrub = s.scrub := rfl
@[simp] theorem State.putB_uptime (s : State) (f : Fld) (b : Bool) : (s.putB f b).uptime = s.uptime := rfl
@[simp] theorem State.putB_free (s : State) (f : Fld) (b : Bool) : (s.putB f b).free = s.free := rfl
@[simp] theorem State.putB_freeLevel (s : State) (f : Fld) (b : Bool) : (s.putB f b).freeLevel = s.freeLevel := rfl
@[simp] theorem State.putB_rtc (s : State) (f : Fld) (b : Bool) : (s.putB f b).rtc = s.rtc := rfl
@[simp] theorem State.putB_pow (s : State) (f : Fld) (b : Bool) : (s.putB f b).pow = s.pow := rfl
@[simp] theorem State.putB_rm (s : State) (f : Fld) (b : Bool) : (s.putB f b).rm = s.rm := rfl
@[simp] theorem State.putB_cmd (s : State) (f : Fld) (b : Bool) : (s.putB f b).cmd = s.cmd := rfl
@[simp] theorem State.putB_jrn (s : State) (f : Fld) (b : Bool) : (s.putB f b).jrn = s.jrn := rfl
@[simp] theorem State.putB_bill (s : State) (f : Fld) (b : Bool) : (s.putB f b).bill = s.bill := rfl
@[simp] theorem State.putB_act (s : State) (f : Fld) (b : Bool) : (s.putB f b).act = s.act := rfl
@[simp] theorem State.putB_kpd (s : State) (f : Fld) (b : Bool) : (s.putB f b).kpd = s.kpd := rfl
@[simp] theorem State.putB_ame (s : State) (f : Fld) (b : Bool) : (s.putB f b).ame = s.ame := rfl
@[simp] theorem State.putB_shot (s : State) (f : Fld) (b : Bool) : (s.putB f b).shot = s.shot := rfl
@[simp] theorem State.putB_sens (s : State) (f : Fld) (b : Bool) : (s.putB f b).sens = s.sens := rfl
@[simp] theorem State.putB_mps (s : State) (f : Fld) (b : Bool) : (s.putB f b).mps = s.mps := rfl
@[simp] theorem State.putB_safe (s : State) (f : Fld) (b : Bool) : (s.putB f b).safe = s.safe := rfl
@[simp] theorem State.putB_keys (s : State) (f : Fld) (b : Bool) : (s.putB f b).keys = s.keys := rfl
@[simp] theorem State.putB_link (s : State) (f : Fld) (b : Bool) : (s.putB f b).link = s.link := rfl
@[simp] theorem State.putB_disp (s : State) (f : Fld) (b : Bool) : (s.putB f b).disp = s.disp := rfl
@[simp] theorem State.putB_mgmt (s : State) (f : Fld) (b : Bool) : (s.putB f b).mgmt = s.mgmt := rfl
@[simp] theorem State.putB_pins (s : State) (f : Fld) (b : Bool) : (s.putB f b).pins = s.pins := rfl

/-! ### `bump` leaves every field of the state but the registers -/

@[simp] theorem State.bump_pending (s : State) (f : Fld) (n : Nat) : (s.bump f n).pending = s.pending := rfl
@[simp] theorem State.bump_shadow (s : State) (f : Fld) (n : Nat) : (s.bump f n).shadow = s.shadow := rfl
@[simp] theorem State.bump_saved (s : State) (f : Fld) (n : Nat) : (s.bump f n).saved = s.saved := rfl
@[simp] theorem State.bump_crs (s : State) (f : Fld) (n : Nat) : (s.bump f n).crs = s.crs := rfl
@[simp] theorem State.bump_tok (s : State) (f : Fld) (n : Nat) : (s.bump f n).tok = s.tok := rfl
@[simp] theorem State.bump_ringSeq (s : State) (f : Fld) (n : Nat) : (s.bump f n).ringSeq = s.ringSeq := rfl
@[simp] theorem State.bump_nvm (s : State) (f : Fld) (n : Nat) : (s.bump f n).nvm = s.nvm := rfl
@[simp] theorem State.bump_ecc (s : State) (f : Fld) (n : Nat) : (s.bump f n).ecc = s.ecc := rfl
@[simp] theorem State.bump_scrub (s : State) (f : Fld) (n : Nat) : (s.bump f n).scrub = s.scrub := rfl
@[simp] theorem State.bump_uptime (s : State) (f : Fld) (n : Nat) : (s.bump f n).uptime = s.uptime := rfl
@[simp] theorem State.bump_free (s : State) (f : Fld) (n : Nat) : (s.bump f n).free = s.free := rfl
@[simp] theorem State.bump_freeLevel (s : State) (f : Fld) (n : Nat) : (s.bump f n).freeLevel = s.freeLevel := rfl
@[simp] theorem State.bump_rtc (s : State) (f : Fld) (n : Nat) : (s.bump f n).rtc = s.rtc := rfl
@[simp] theorem State.bump_pow (s : State) (f : Fld) (n : Nat) : (s.bump f n).pow = s.pow := rfl
@[simp] theorem State.bump_rm (s : State) (f : Fld) (n : Nat) : (s.bump f n).rm = s.rm := rfl
@[simp] theorem State.bump_cmd (s : State) (f : Fld) (n : Nat) : (s.bump f n).cmd = s.cmd := rfl
@[simp] theorem State.bump_jrn (s : State) (f : Fld) (n : Nat) : (s.bump f n).jrn = s.jrn := rfl
@[simp] theorem State.bump_bill (s : State) (f : Fld) (n : Nat) : (s.bump f n).bill = s.bill := rfl
@[simp] theorem State.bump_act (s : State) (f : Fld) (n : Nat) : (s.bump f n).act = s.act := rfl
@[simp] theorem State.bump_kpd (s : State) (f : Fld) (n : Nat) : (s.bump f n).kpd = s.kpd := rfl
@[simp] theorem State.bump_ame (s : State) (f : Fld) (n : Nat) : (s.bump f n).ame = s.ame := rfl
@[simp] theorem State.bump_shot (s : State) (f : Fld) (n : Nat) : (s.bump f n).shot = s.shot := rfl
@[simp] theorem State.bump_sens (s : State) (f : Fld) (n : Nat) : (s.bump f n).sens = s.sens := rfl
@[simp] theorem State.bump_mps (s : State) (f : Fld) (n : Nat) : (s.bump f n).mps = s.mps := rfl
@[simp] theorem State.bump_safe (s : State) (f : Fld) (n : Nat) : (s.bump f n).safe = s.safe := rfl
@[simp] theorem State.bump_keys (s : State) (f : Fld) (n : Nat) : (s.bump f n).keys = s.keys := rfl
@[simp] theorem State.bump_link (s : State) (f : Fld) (n : Nat) : (s.bump f n).link = s.link := rfl
@[simp] theorem State.bump_disp (s : State) (f : Fld) (n : Nat) : (s.bump f n).disp = s.disp := rfl
@[simp] theorem State.bump_mgmt (s : State) (f : Fld) (n : Nat) : (s.bump f n).mgmt = s.mgmt := rfl
@[simp] theorem State.bump_pins (s : State) (f : Fld) (n : Nat) : (s.bump f n).pins = s.pins := rfl

/-! ### Reading registers and fields -/

/-- A write leaves every other register. -/
@[simp] theorem State.rd_wr_ne {s : State} {a b : Nat} {w : Word} (h : b ≠ a) : (s.wr a w).rd b = s.rd b := sget_sset_ne h

/-- A canonical state has a canonical register file. -/
theorem State.canonical_regs {s : State} (h : s.canonical = true) : swf regReset s.regs = true := by
  unfold State.canonical storesCanonical at h
  simp only [Bool.and_eq_true] at h
  exact h.1.1.1.1.1.1

/-- A read after a write gives the value written. -/
theorem State.rd_wr_self {s : State} {a : Nat} {w : Word} (h : s.canonical = true) : (s.wr a w).rd a = w :=
  sget_sset_same (State.canonical_regs h)

/-- A register write keeps the state canonical. -/
theorem State.wr_canonical {s : State} {a : Nat} {w : Word} (h : s.canonical = true) : (s.wr a w).canonical = true := by
  unfold State.canonical storesCanonical at h ⊢
  simp only [Bool.and_eq_true] at h ⊢
  exact ⟨⟨⟨⟨⟨⟨sset_swf h.1.1.1.1.1.1, h.1.1.1.1.1.2⟩, h.1.1.1.1.2⟩, h.1.1.1.2⟩, h.1.1.2⟩, h.1.2⟩, h.2⟩

/-- A field write keeps the state canonical. -/
theorem State.put_canonical {s : State} {f : Fld} {v : Nat} (h : s.canonical = true) : (s.put f v).canonical = true :=
  State.wr_canonical h

/-- A field write leaves every other register. -/
@[simp] theorem State.rd_put_ne {s : State} {f : Fld} {v b : Nat} (h : b ≠ f.addr) : (s.put f v).rd b = s.rd b :=
  State.rd_wr_ne h

/-- A field write leaves the fields of every other register. -/
@[simp] theorem State.get_put_ne {s : State} {f g : Fld} {v : Nat} (h : g.addr ≠ f.addr) : (s.put f v).get g = s.get g := by
  unfold State.get
  rw [State.rd_put_ne h]

/-- The value of a word with a field replaced: the bits below, the field, the bits above. -/
theorem withBits_toNat {w : Word} {hi lo v : Nat} (hl : lo ≤ hi) (hh : hi < 32) :
    (withBits w hi lo v).toNat =
      w.toNat % 2 ^ lo + (v % 2 ^ (hi + 1 - lo)) * 2 ^ lo + (w.toNat / 2 ^ (hi + 1)) * 2 ^ (hi + 1) := by
  unfold withBits word
  have hv : v % 2 ^ (hi + 1 - lo) < 2 ^ (hi + 1 - lo) := Nat.mod_lt _ (Nat.two_pow_pos _)
  have hr : w.toNat % 2 ^ lo < 2 ^ lo := Nat.mod_lt _ (Nat.two_pow_pos _)
  have hq : w.toNat / 2 ^ (hi + 1) < 2 ^ (32 - (hi + 1)) := by
    apply Nat.div_lt_of_lt_mul
    rw [← Nat.pow_add, show hi + 1 + (32 - (hi + 1)) = 32 by omega]
    exact w.isLt
  have e1 : (2 : Nat) ^ (hi + 1) = 2 ^ (hi + 1 - lo) * 2 ^ lo := by rw [← Nat.pow_add]; congr 1; omega
  have e2 : (2 : Nat) ^ 32 = 2 ^ (32 - (hi + 1)) * 2 ^ (hi + 1) := by rw [← Nat.pow_add]; congr 1; omega
  generalize w.toNat / 2 ^ (hi + 1) = q at *
  generalize w.toNat % 2 ^ lo = r at *
  generalize v % 2 ^ (hi + 1 - lo) = x at *
  have h1 : r + x * 2 ^ lo < 2 ^ (hi + 1) := by
    rw [e1]
    have h2 : (x + 1) * 2 ^ lo ≤ 2 ^ (hi + 1 - lo) * 2 ^ lo := Nat.mul_le_mul_right _ hv
    rw [Nat.add_mul] at h2
    omega
  have h3 : (q + 1) * 2 ^ (hi + 1) ≤ 2 ^ (32 - (hi + 1)) * 2 ^ (hi + 1) := Nat.mul_le_mul_right _ hq
  rw [Nat.add_mul] at h3
  rw [BitVec.toNat_ofNat, Nat.mod_eq_of_lt (by omega)]

/-- A field reads what was written into it, reduced to its width. -/
theorem bitsOf_withBits_same {w : Word} {hi lo v : Nat} (hl : lo ≤ hi) (hh : hi < 32) :
    bitsOf (withBits w hi lo v) hi lo = v % 2 ^ (hi + 1 - lo) := by
  unfold bitsOf
  rw [withBits_toNat hl hh]
  have hv : v % 2 ^ (hi + 1 - lo) < 2 ^ (hi + 1 - lo) := Nat.mod_lt _ (Nat.two_pow_pos _)
  have hr : w.toNat % 2 ^ lo < 2 ^ lo := Nat.mod_lt _ (Nat.two_pow_pos _)
  have e1 : (2 : Nat) ^ (hi + 1) = 2 ^ (hi + 1 - lo) * 2 ^ lo := by rw [← Nat.pow_add]; congr 1; omega
  rw [e1, show w.toNat % 2 ^ lo + v % 2 ^ (hi + 1 - lo) * 2 ^ lo +
      w.toNat / (2 ^ (hi + 1 - lo) * 2 ^ lo) * (2 ^ (hi + 1 - lo) * 2 ^ lo) =
      w.toNat % 2 ^ lo + 2 ^ lo * (v % 2 ^ (hi + 1 - lo) + 2 ^ (hi + 1 - lo) * (w.toNat / (2 ^ (hi + 1 - lo) * 2 ^ lo))) by ring,
    Nat.add_mul_div_left _ _ (Nat.two_pow_pos _), Nat.div_eq_of_lt hr, Nat.zero_add, Nat.add_mul_mod_self_left,
    Nat.mod_eq_of_lt hv]

/-- Fields of one register that share no bit do not disturb each other. -/
theorem bitsOf_withBits_disjoint {w : Word} {hi lo v h2 l2 : Nat} (hl : lo ≤ hi) (hh : hi < 32) (hd : h2 < lo ∨ hi < l2)
    (h22 : l2 ≤ h2) : bitsOf (withBits w hi lo v) h2 l2 = bitsOf w h2 l2 := by
  unfold bitsOf
  rw [withBits_toNat hl hh]
  have e1 : (2 : Nat) ^ (hi + 1) = 2 ^ lo * 2 ^ (hi + 1 - lo) := by rw [← Nat.pow_add]; congr 1; omega
  rcases hd with hd | hd
  · have key : ∀ a : Nat, a / 2 ^ l2 % 2 ^ (h2 + 1 - l2) = a % 2 ^ lo % 2 ^ (h2 + 1) / 2 ^ l2 := by
      intro a
      rw [Nat.mod_mod_of_dvd _ (Nat.pow_dvd_pow 2 (by omega : h2 + 1 ≤ lo)), ← Nat.mod_mul_right_div_self, ← Nat.pow_add,
        show l2 + (h2 + 1 - l2) = h2 + 1 by omega]
    rw [key, key w.toNat]
    congr 2
    rw [e1, show w.toNat % 2 ^ lo + v % 2 ^ (hi + 1 - lo) * 2 ^ lo +
        w.toNat / (2 ^ lo * 2 ^ (hi + 1 - lo)) * (2 ^ lo * 2 ^ (hi + 1 - lo)) =
        w.toNat % 2 ^ lo + 2 ^ lo * (v % 2 ^ (hi + 1 - lo) +
          w.toNat / (2 ^ lo * 2 ^ (hi + 1 - lo)) * 2 ^ (hi + 1 - lo)) by ring,
      Nat.add_mul_mod_self_left, Nat.mod_mod]
  · have hv : v % 2 ^ (hi + 1 - lo) < 2 ^ (hi + 1 - lo) := Nat.mod_lt _ (Nat.two_pow_pos _)
    have hr : w.toNat % 2 ^ lo < 2 ^ lo := Nat.mod_lt _ (Nat.two_pow_pos _)
    have hlt : w.toNat % 2 ^ lo + v % 2 ^ (hi + 1 - lo) * 2 ^ lo < 2 ^ (hi + 1) := by
      have h2 : (v % 2 ^ (hi + 1 - lo) + 1) * 2 ^ lo ≤ 2 ^ (hi + 1 - lo) * 2 ^ lo := Nat.mul_le_mul_right _ hv
      rw [Nat.add_mul] at h2
      rw [e1, Nat.mul_comm (2 ^ lo)]
      omega
    have key : ∀ a : Nat, a / 2 ^ l2 = a / 2 ^ (hi + 1) / 2 ^ (l2 - (hi + 1)) := by
      intro a
      rw [Nat.div_div_eq_div_mul, ← Nat.pow_add, show hi + 1 + (l2 - (hi + 1)) = l2 by omega]
    rw [key, key w.toNat, Nat.add_mul_div_right _ _ (Nat.two_pow_pos _), Nat.div_eq_of_lt hlt, Nat.zero_add]

/-- A field write leaves the fields that share no bit with it. -/
theorem State.get_put_disjoint {s : State} {f g : Fld} {v : Nat} (h : s.canonical = true) (hl : f.lo ≤ f.hi) (hh : f.hi < 32)
    (hg : g.lo ≤ g.hi) (hd : g.hi < f.lo ∨ f.hi < g.lo) : (s.put f v).get g = s.get g := by
  by_cases ha : g.addr = f.addr
  · unfold State.get State.put
    rw [ha, State.rd_wr_self h, bitsOf_withBits_disjoint hl hh hd hg]
  · exact State.get_put_ne ha

/-- A field reads the value written, where it fits. -/
theorem State.get_put_self {s : State} {f : Fld} {v : Nat} (h : s.canonical = true) (hl : f.lo ≤ f.hi) (hh : f.hi < 32)
    (hv : v < 2 ^ (f.hi + 1 - f.lo)) : (s.put f v).get f = v := by
  unfold State.get State.put
  rw [State.rd_wr_self h, bitsOf_withBits_same hl hh, Nat.mod_eq_of_lt hv]

end Sys2Proof.Machine
end

