-- ==== Sys2Proof/Machine/Balls.lean ====
section
/-! DEFINITION. The balls: what the 9640 does at each of them in every power state, as the state gives it (spec 02_package_pins.md,
R62 to R81; 05_acoustic_front_end.md, R155; 12_display.md, R398 to R401, R403 to R405; 09_billing.md, R265, Table 9.10). -/

namespace Sys2Proof.Machine

/-- The balls of Table 2.3, supplies and grounds apart. -/
inductive Ball where
  | ut (n : Fin 8)
  | ts (n : Fin 6)
  | bridge
  | seg (n : Fin 64)
  | com (n : Fin 8)
  | vcom
  | vlcd (n : Fin 3)
  | vpos | vneg
  | krow (n : Fin 4)
  | kcol (n : Fin 4)
  | tamp (n : Fin 4)
  | vlvA | vlvB | vlvFbo | vlvFbc
  | seal | shottrig | resetn | pfwarn
  | cmdTx | cmdRx | optTx | optRx
  | dbgclk | dbgio
  | gpio (n : Fin 12)
  | rflo | rfhi | paCtl
  | xt32 | xo24
  deriving DecidableEq, Repr

/-- What the 9640 does at a ball: drives it low, high or to VSS, leaves it at high impedance, holds it by a pull, connects 1 MΩ to
VSS, has an analogue circuit at work on it, drives a fraction of VOP, or drives a number of volts (Tables 2.3, 2.4, 12.3, 12.4). -/
inductive Level where
  | low | high | vss | hiZ | pullUp | pullDown | passive | active
  | vop (num den : Nat)
  | volts (v : Int)
  deriving DecidableEq, Repr

/-- A digital output's level. -/
def outLevel (b : Bool) : Level := if b then .high else .low

/-- The device is in reset, or has not left it: start-up has not configured a ball (R62). -/
def State.inReset (s : State) : Bool := decide (s.pow.stage = .gate ∨ s.pow.stage = .startUp)

/-- CORE and its registers are on: neither HIBERNATE nor BACKUP (Table 3.2). -/
def State.coreOn (s : State) : Bool := decide (s.pow.stage ≠ .hibernate ∧ s.pow.stage ≠ .backup)

/-- The core is in RUN or DOZE. -/
def State.inRunDoze (s : State) : Bool := s.coreOn && decide (s.get F.PWR_STATE_STATE ≠ pwrSleep)

/-- A VIO-bank output: high impedance without VIO, in HIBERNATE and in BACKUP (R65, Table 2.4); `rst` from reset. -/
def State.vioOut (s : State) (rst : Level) (b : Level) : Level :=
  if s.inReset then rst else if !s.coreOn ∨ !s.vioOk then .hiZ else b

/-- An AON-bank ball: unpowered in BACKUP (Table 2.4). -/
def State.aonBall (s : State) (l : Level) : Level := if s.pow.stage = .backup then .hiZ else l

/-- Bit `k` of a character on the line, its start bit first: 8N1, or 7E1 with even parity (R116). -/
def charBit (seven : Bool) (c : Byte) (k : Nat) : Bool :=
  if k = 0 then false
  else if seven then (if k ≤ 7 then c.getLsbD (k - 1) else if k = 8 then decide ((List.range 7).countP (fun i => c.getLsbD i) % 2 = 1) else true)
  else if k ≤ 8 then c.getLsbD (k - 1) else true

/-- What a transmitter sends now: mark where its buffer is empty. -/
def CarrierSt.mark (x : CarrierSt) (seven : Bool) : Bool := match x.tx with
  | [] => true
  | c :: _ => charBit seven c (x.txPhase / 32768)

/-- The shot that runs uses a transducer port. -/
def State.portInShot (s : State) (n : Nat) : Bool := match s.ame.run with
  | none => false
  | some r => decide (r.plan.path < 4)
      && (decide (s.get (F.AME_P_PORT_PORTU r.plan.path) = n) || decide (s.get (F.AME_P_PORT_PORTD r.plan.path) = n))

/-- A transducer port (R155, Table 2.4). -/
def State.utBall (s : State) (n : Nat) : Level :=
  if s.inReset then .vss else if !s.inRunDoze then .passive else if s.portInShot n then .active else .vss

/-- A sensor ball, and one of the bridge: at work during its conversion (Table 2.4). -/
def State.tsBall (s : State) (n : Option Nat) : Level := match s.sens.running with
  | some (l, bridge) => if s.inRunDoze && (match n with | some i => l.contains i | none => bridge) then .active else .hiZ
  | none => .hiZ

/-! ### The display's balls -/

/-- The instant at which the levels of the LCD are those of `us`: none changes within an Acoustic window (R401). -/
def State.lcdInstant (s : State) (us : Nat) : Nat := usCycles (if s.pins.window then min us s.windowStart else us)

/-- The bias as the number of steps of VOP. -/
def State.lcdBias (s : State) : Nat := if s.flag F.DISP_LCD_BIAS then 4 else 3

/-- A level of Table 12.3 that is `n` of `d` parts of VOP in an A frame, and the rest of VOP in a B frame. -/
def frameLevel (kindB : Bool) (n d : Nat) : Level := .vop (if kindB then d - n else n) d

/-- A common in LCD mode. -/
def State.lcdCom (s : State) (us n : Nat) : Level :=
  let d := s.lcdAt (s.lcdInstant us)
  let b := s.lcdBias
  if s.lcdComs ≤ n then .vss else frameLevel d.kindB (if d.com = n then b else 1) b

/-- Whether a ball carries its off level alone: in HIBERNATE every one outside region 0 does (R403). -/
def State.lcdHeld (s : State) (n : Nat) : Bool := decide (s.pow.stage = .hibernate) && decide (s.regionOf n ≠ 0)

/-- A segment ball in LCD mode: the segment latch at the common selected. -/
def State.lcdSeg (s : State) (us n : Nat) : Level :=
  let d := s.lcdAt (s.lcdInstant us)
  if bit (s.disp.latch.getD n 0#8).toNat d.com ∧ !s.lcdHeld n then frameLevel d.kindB 0 1
  else if s.lcdBias = 3 then frameLevel d.kindB 2 3 else frameLevel d.kindB 1 2

/-- The charge units that a drive applies `ms` after its first phase began: its present phase, 0 V after the last. -/
def phaseAt : List (Int × Nat) → Nat → Int
  | [], _ => 0
  | p :: t, ms => if ms < p.2 then p.1 else phaseAt t (ms - p.2)

/-- A segment output of an update in progress; every other one is at 0 V (R404, R418). -/
def State.bistable (s : State) (k : Nat) : Level := match s.disp.run with
  | none => .vss
  | some r => match s.runMs r, r.segs.find? (fun d => decide (d.seg = k)) with
    | some ms, some d => if r.discharge then .vss else .volts (phaseAt d.phases ms)
    | _, _ => .vss

/-- SEGn, COMn and VCOM (Table 2.4, R405): at VSS where nothing drives them. -/
def State.dispBall (s : State) (us : Nat) (k : Nat) : Level :=
  if s.pow.stage = .backup then .vss
  else if s.disp.lcd then (if k < 64 then s.lcdSeg us k else s.lcdCom us (k - 64))
  else s.bistable k

/-- VLCD1 to VLCD3: the levels of the ladder (Table 12.2), at VSS while no LCD is driven (Table 12.10). -/
def State.vlcdBall (s : State) (n : Nat) : Level :=
  if s.pow.stage = .backup ∨ !s.disp.lcd then .vss
  else if n = 2 then .vop 1 1 else .vop (if n = 0 then 1 else s.lcdBias - 1) s.lcdBias

/-- The ladder is fed from the internal doubler where VOP exceeds VBAT − 0.3 V, and from VBAT otherwise (R398). -/
def State.lcdDoubler (s : State) : Bool := s.disp.lcd && decide (s.get F.PWR_SUPPLY_VBAT_MV < s.disp.vop + 300)

/-- VPOS and VNEG: charged from 4 ms after the start of an update to its last phase (Table 12.8). -/
def State.pumpBall (s : State) (v : Int) : Level := match s.disp.run with
  | none => .vss
  | some r => if r.discharge then .vss else if r.kind = 2 ∨ r.start + millis 4 ≤ s.uptime then .volts v else .active

/-! ### The radio's balls -/

/-- A transmission is on air at an instant, `before` µs before its ramp and `after` µs behind it. -/
def State.onAirAt (s : State) (us before after : Nat) : Bool :=
  !s.pins.window && s.link.onAir.any (fun x => decide (x.1 ≤ us + before ∧ us ≤ x.2 + after))

/-- PA_CTL (R81, Table 2.7). -/
def State.paBall (s : State) (us : Nat) : Level :=
  if s.inReset then .low else if !s.inRunDoze then .low
  else s.vioOut .low (outLevel (s.flag F.RADIO_CTRL_EXTPA && s.onAirAt us 20 5))

/-- RFLO and RFHI (R80): the port of the frequency in force, while radio work runs. -/
def State.rfBall (s : State) (low : Bool) : Level :=
  if s.inRunDoze && s.radioWork && decide (onRflo (s.get F.RADIO_FREQ_HZ) = low) then .active else .hiZ

/-! ### The other balls -/

/-- VLV_A and VLV_B (Table 9.10): the bridge drives in RUN alone (R76). -/
def State.valveBall (s : State) (opens : Bool) : Level := match s.act.drive with
  | some d => s.aonBall (outLevel (d.bridgeOn && !d.closing == opens && decide (s.get F.PWR_STATE_STATE = pwrRun)))
  | none => s.aonBall .low

/-- The pull of an input ball (MGMT_GPIOn.PULL). -/
def pullOf (n : Nat) : Level := if n = 1 then .pullDown else if n = 2 then .pullUp else .hiZ

/-- A general-purpose ball (Table 2.6). -/
def State.gpioBall (s : State) (n : Nat) : Level :=
  if s.inReset ∨ !s.coreOn then .pullDown
  else if !s.vioOk then .hiZ
  else match s.get (F.MGMT_GPIO_FUNC n) with
    | 1 | 7 => pullOf (s.get (F.MGMT_GPIO_PULL n))
    | 2 => outLevel (s.flag (F.MGMT_GPIO_OUT n))
    | 3 => outLevel s.pins.window
    | 4 => outLevel (s.flag F.SAFE_STAT_SAFE)
    | 5 => outLevel (s.pulseHigh 0)
    | 6 => outLevel (s.pulseHigh 1)
    | _ => .pullDown

/-- A tamper input: its pull is on while it is sampled, off in continuous mode and while it is disabled (R75). -/
def State.tampBall (s : State) (n : Nat) : Level := s.aonBall (if s.pins.tampMode.getD n 0 = 1 then .pullUp else .hiZ)

/-- The level or the state of a ball at an instant, in µs of uptime, from now until the next command. -/
def State.ball (s : State) (us : Nat) : Ball → Level
  | .ut n => s.utBall n.val
  | .ts n => s.tsBall (some n.val)
  | .bridge => s.tsBall none
  | .seg n => s.dispBall us n.val
  | .com n => s.dispBall us (64 + n.val)
  | .vcom => .vss
  | .vlcd n => s.vlcdBall n.val
  | .vpos => s.pumpBall 15
  | .vneg => s.pumpBall (-15)
  | .krow _ => s.aonBall .low
  | .kcol _ => s.aonBall .pullUp
  | .tamp n => s.tampBall n.val
  | .vlvA => s.valveBall true
  | .vlvB => s.valveBall false
  | .vlvFbo | .vlvFbc | .seal => s.aonBall .pullUp
  | .resetn => s.aonBall .pullUp
  | .pfwarn => s.aonBall (if s.pins.pfwarnLow then .low else .pullUp)
  | .shottrig | .dbgclk => .pullDown
  | .cmdRx | .optRx | .dbgio => .pullUp
  | .cmdTx => s.vioOut .high (outLevel (s.cmd.uart.mark (s.flag F.CMD_UART_FMT)))
  | .optTx => s.vioOut .low (outLevel (!s.cmd.opt.mark true))
  | .gpio n => s.gpioBall n.val
  | .rflo => s.rfBall true
  | .rfhi => s.rfBall false
  | .paCtl => s.paBall us
  | .xt32 => if s.rtc.xtRun then .active else .hiZ
  | .xo24 => if s.flag F.CLK_STAT_XO24_OK then .active else .hiZ

end Sys2Proof.Machine
end

