-- ==== Sys2Proof/WellFormed.lean ====
section
/-! DEFINITION. Well-formed commands: the operands that a line, a message or a bus access can carry at all (R8, R123, R126,
R127, R186, R359, R369). An operand that can be carried and is wrong, such as a path out of range or an address where nothing stands, is
well-formed: its command has the effect that the spec gives such an operand. -/

namespace Sys2Proof

/-- A character of a line (R123). -/
def lineChar (c : Char) : Bool := decide (0x20 ≤ c.toNat ∧ c.toNat ≤ 0x7E)

/-- A letter or a digit. -/
def letterOrDigit (c : Char) : Bool :=
  decide (48 ≤ c.toNat ∧ c.toNat ≤ 57) || decide (65 ≤ c.toNat ∧ c.toNat ≤ 90) || decide (97 ≤ c.toNat ∧ c.toNat ≤ 122)

/-- The text of one argument: characters of a line, no space, at most 255 (R123, R126). -/
def Text.wf (t : Text) : Bool := t.all (fun c => lineChar c && decide (c ≠ ' ')) && decide (t.length ≤ 255)

/-- A tag of at most 8 letters or digits, empty where the line has none (R127). -/
def LineForm.wf (l : LineForm) : Bool := l.tag.all letterOrDigit && decide (l.tag.length ≤ 8)

/-- An address has 32 bits (R8). -/
def addrWf (a : Nat) : Bool := decide (a < 2 ^ 32)

/-- What a line names. -/
def ObjRef.wf : ObjRef → Bool
  | .name n => n.wf && decide (n ≠ [])
  | .addr a => addrWf a

/-- The head of an object request: CLASS of two bytes, OBIS of six, INDEX of one (R359). -/
def requestWf (cls : Nat) (obis : List Byte) (index : Nat) : Bool :=
  decide (cls < 2 ^ 16) && decide (obis.length = 6) && decide (index < 2 ^ 8)

/-- SELECT: an entry of two bytes, a first object and a count of one byte each (R359). -/
def selectWf : Option (Nat × Nat × Nat) → Bool
  | none => true
  | some (e, f, n) => decide (e < 2 ^ 16) && decide (f < 2 ^ 8) && decide (n < 2 ^ 8)

/-- A sample of a receive chain: 14 bits in two's complement (R186). -/
def sampleWf (x : Int) : Bool := decide (-8192 ≤ x ∧ x ≤ 8191)

/-- A command is well-formed. A frame has a two-byte header and at most 2,047 bytes behind it (R369). -/
def Instr.wf : Instr → Bool
  | .captureEnd a b => a.all sampleWf && b.all sampleWf
  | .signOnRequest _ t => t.all lineChar
  | .optionSelect _ z m => lineChar z && lineChar m
  | .get _ l o _ _ _ => l.wf && o.wf
  | .set _ l o v => l.wf && o.wf && v.wf && decide (v ≠ [])
  | .showObj _ l o => l.wf && o.wf
  | .shot _ l _ _ => l.wf
  | .capture _ l => l.wf
  | .logTrouble _ l _ _ => l.wf
  | .logLegal _ l _ _ => l.wf
  | .login _ l _ p => l.wf && (match p with | none => true | some t => t.wf && decide (t ≠ []))
  | .logout _ l => l.wf
  | .keyLoad _ l p => l.wf && p.wf
  | .keyStatus _ l d => l.wf && d.wf
  | .keyPassword _ l _ t => l.wf && t.wf
  | .token _ l d => l.wf && d.wf
  | .zerocal _ l _ => l.wf
  | .commit _ l => l.wf
  | .scheduleCommit _ l => l.wf
  | .scheduleDiscard _ l => l.wf
  | .scheduleShow _ l _ => l.wf
  | .reset _ l => l.wf
  | .status _ l => l.wf
  | .help _ l c => l.wf && (match c with | none => true | some t => t.wf)
  | .registerWrite _ a _ => addrWf a
  | .objectGet _ _ _ c o i e => requestWf c o i && selectWf e
  | .objectSet _ _ _ c o i _ => requestWf c o i
  | .objectAction _ _ _ c o i _ => requestWf c o i
  | .aclLine _ _ _ l => decide (l.length ≤ 255)
  | .frameReceived _ f => decide (f.bytes.length ≤ 2049)
  | .tickBoundary .. | .tickPreWake .. | .acousticWindow .. | .ucodeSelp | .ucodeWait | .ucodeFire .. | .ucodeWaitf
  | .ucodeWaite | .ucodeSwap | .ucodeEnd | .correlationEnd | .vtxbReady .. | .conversionSequenceEnd .. | .compute ..
  | .demandBoundary | .periodBoundary | .tariffSwitch | .safeStateExit | .emptyPipe .. | .emptyPipeClear ..
  | .holdExpiry .. | .recoveryEnd .. | .reverseFlowTamper .. | .pathSignTamper .. | .sensorPlausibilityFault ..
  | .depositBlock .. | .zerocalCollectionEnd | .zerocalTimeout | .taskPromotion | .serviceWindow .. | .persist
  | .commitInterval | .saveComplete | .powerFailWarning .. | .emergencyCommitEnd .. | .ticksResume ..
  | .powerFailWaitExpiry .. | .brownOut .. | .switchOver .. | .backupEntry .. | .aonPowerOn .. | .retentionLoss ..
  | .minlow .. | .backupDomainPowerOn .. | .startGate .. | .resetnLow .. | .watchdogReset .. | .commandReset
  | .resetDrainTimeout | .startUp .. | .hibernateWake .. | .carrierWake .. | .carrierIdle .. | .gpioWake ..
  | .characterReceived .. | .identification .. | .optionSelectTimeout .. | .breakMessage .. | .shotRequestAbandon
  | .loginLockExpiry .. | .challengeExpiry .. | .keyLoadBufferExpiry .. | .tokenLockoutExpiry | .hibernate ..
  | .timeWrite .. | .timeWriteApplied | .setDate .. | .setTime .. | .countdownTimerWrite .. | .countdownTimerExpiry
  | .trimWindow | .wrap | .xt32Stopped .. | .pllUnlocked .. | .rcNotLocked .. | .close .. | .remoteDisconnect ..
  | .remoteReconnect .. | .prepaymentModeWrite .. | .actuatorDrive | .driveCurrentCheck .. | .drivePulseExpiry ..
  | .actuatorTimeout .. | .feedbackChange .. | .sealChange .. | .tamperInputChange .. | .shottrigEdge ..
  | .keypadWake .. | .keyAccepted .. | .keyReleased .. | .entryTimeout .. | .holdack .. | .dbgen .. | .ack ..
  | .force .. | .keyUpdate .. | .lifeCycleTransition .. | .authorityChange .. | .tamperAcknowledgement ..
  | .statusQuery .. | .ecdsaVerificationEnd | .specialDayInsert .. | .specialDayDelete .. | .channelSample ..
  | .syncWaitLimit .. | .acknowledgement .. | .frameQueued .. | .transmissionStart .. | .clearChannelRetry ..
  | .transmissionEnd .. | .ackTimeout .. | .busyRetry .. | .dutyBinExpiry .. | .join .. | .telegramDue ..
  | .install .. | .bistableUpdateEnd .. | .dischargeEnd .. | .pageReturn .. | .pageScroll .. | .updateBegin ..
  | .updateData .. | .updateEnd .. | .updateActivate .. | .updateAbort .. | .updateStatus ..
  | .updateSessionTimeout .. | .trialConfirmation | .xt32Ok .. | .rcLock .. | .syncWord .. | .lcdPowerOff .. => true

end Sys2Proof
end

