-- ==== Sys2Proof/Tests/Slice0.lean ====
section
/-! SUPPORT. The author's own tests: the well-formedness checks refuse an ill-formed command each, values worked out by hand from the
spec, and for every statement of Certificates/Slice0/Obligations.lean states and operands that meet the hypotheses of its clauses. -/

open Sys2Proof Sys2Proof.Machine

namespace Sys2Proof.Tests

-- one theorem at a time: each waits for the kernel
set_option Elab.async false

/-- Writes fields. -/
def pokes (s : State) (l : List (Fld × Nat)) : State := l.foldl (fun t p => t.put p.1 p.2) s

/-- The part after its first power-on, in a stage and with fields written. -/
def stageAt (st : Stage) (l : List (Fld × Nat)) : State :=
  pokes { State.reset with pow := { State.reset.pow with stage := st, gateMet := true, recovered := true } } l

/-- Ticks run. -/
def running (l : List (Fld × Nat)) : State := stageAt .running l

/-- The Service window is open. -/
def service (l : List (Fld × Nat)) : State :=
  let s := running ((F.FT_PHASE_PHASE, 2) :: l)
  { s with rm := { s.rm with phaseDone := true } }

/-! ### Hypotheses of the statements: supply, resets and start-up -/

theorem wit_ResetsOfPowerClearTheirDomains :
    (running []).canonical = true ∧ ((running []).advance 3).pow.stage ≠ .backup ∧ ((stageAt .backup []).advance 3).pow.stage = .backup
    ∧ (stageAt .backup []).canonical = true ∧ ((running []).advance 3).pow.stage ≠ .emergency
    ∧ ((stageAt .emergency []).advance 3).pow.stage = .emergency := by decide +kernel

/-- A RESET line that came at time 7. -/
def resetting (up : Nat) : State :=
  { running [(F.FT_PHASE_PHASE, 5)] with uptime := up, pow := { (running []).pow with resetReq := some 7 } }

theorem wit_WatchdogAndCommandResetsKeepTheLog :
    let w := { running [] with pow := { (running []).pow with wdtAt := some 9 } }
    w.canonical = true ∧ w.pow.wdtAt = some 9 ∧ w.pow.stage ∈ [Stage.startUp, .awaitTick, .running]
    ∧ (resetting 8).canonical = true ∧ (resetting 8).commandResetDue = true ∧ (resetting 8).disp.run = none
    ∧ (resetting 327687).pow.resetReq = some 7 ∧ (resetting 327687).tickDone = true ∧ 7 + secs 10 ≤ (resetting 327687).uptime := by
  decide +kernel

theorem wit_StartGateAndHibernate :
    let h := stageAt .hibernate []
    let off := { h with pow := { h.pow with gateMet := false } }
    let key := h.retWrite 7 [2]
    let w := stageAt .pfWait []
    let wait := { w with pow := { w.pow with emEnd := some 4 } }
    State.reset.canonical = true ∧ State.reset.pow.stage = .gate ∧ off.canonical = true ∧ off.pow.stage = .hibernate
    ∧ off.pow.gateMet = false ∧ key.canonical = true ∧ key.pow.stage = .hibernate ∧ key.pow.gateMet = true ∧ (key.advance 1).ret 7 ≠ 0
    ∧ (h.advance 1).ret 7 = 0 ∧ (stageAt .backup []).pow.stage = .backup ∧ (running []).pow.stage ∉ [Stage.gate, .backup]
    ∧ wait.canonical = true ∧ wait.pow.stage = .pfWait ∧ wait.pow.emEnd = some 4 := by decide +kernel

theorem wit_StartUpEndsReadyOrInRecovery :
    let s := stageAt .startUp []
    let bad := { s with mgmt := { s.mgmt with images := [none, some .shipped, none] } }
    s.canonical = true ∧ s.pow.stage = .startUp ∧ s.mgmt.pendCopy = none ∧ s.mgmt.trial = none
    ∧ s.mgmt.images.getD 0 none ≠ none ∧ s.bankOk s.mgmt.active = true ∧ bad.mgmt.images.getD 0 none = none
    ∧ bad.pow.stage = .startUp ∧ bad.mgmt.pendCopy = none ∧ bad.mgmt.trial = none := by decide +kernel

theorem wit_BackupSupplyEvents :
    let low := { running [] with rtc := { (running []).rtc with railLow := true } }
    ((running []).advance 1).pow.stage ≠ .backup ∧ ((running []).advance 1).pow.onBackup ≠ true ∧ ((running []).advance 1).pow.onBackup = false
    ∧ low.canonical = true ∧ (low.advance 1).rtc.railLow = true := by decide +kernel

theorem wit_PowerFailWarningToResumedTicks :
    let e := stageAt .emergency []
    let em := { e with pow := { e.pow with emEnd := some 6 } }
    let w := stageAt .pfWait []
    ((running []).advance 1).pow.stage ∈ [Stage.running, .awaitTick] ∧ em.pow.stage = .emergency ∧ em.pow.emEnd = some 6
    ∧ em.pow.extLow = none ∧ w.canonical = true ∧ (w.advance 1).pow.stage = .pfWait
    ∧ ((w.advance 1).pow.inStart && !(w.advance 1).pow.recovered) = false := by decide +kernel

/-- The crystal runs. -/
def ticking (l : List (Fld × Nat)) : State :=
  { running l with rtc := { (running l).rtc with xtRun := true, started := true } }

theorem wit_ClockMonitorFlags :
    let s := ticking [(F.CLK_STAT_PLL_LOCK, 1)]
    let u := { s with safe := { s.safe with prev := [0x13] } }
    s.canonical = true ∧ (s.advance 2).pow.stage ≠ .backup ∧ (s.advance 2).rtc.xtRun = true ∧ (s.advance 2).diagnosing = true ∧ (s.advance 2).rcOn = true
    ∧ ((stageAt .backup []).advance 2).pow.stage = .backup
    ∧ (s.advance 2).flag F.CLK_STAT_PLL_LOCK = true ∧ (u.advance 2).safe.prev.contains 0x13 = true := by decide +kernel

/-! ### The clock and register writes -/

theorem wit_TimePasses :
    let s := { ticking [] with rtc := { (ticking []).rtc with win := 2 ^ 20 - 1 } }
    s.canonical = true ∧ s.rtc.xtRun = true ∧ s.rtc.wr = none ∧ s.get F.RTC_TRIM_APPLIED = 0 ∧ s.get F.RTC_TRIM_VAL = 0
    ∧ s.count + 2 * (2 ^ 47 - 1) < 2 ^ 48 ∧ s.rtc.win < 2 ^ 20 := by decide +kernel

theorem wit_ClockEvents :
    let s := ticking [(F.RTC_CDT_COUNT, 1)]
    let w := { s with rtc := { s.rtc with wr := some (2 ^ 32 - 1, 2) } }
    w.canonical = true ∧ w.rtc.wr = some (2 ^ 32 - 1, 2) ∧ 2 ^ 32 - 1 < 2 ^ 32 ∧ w.counting = true
    ∧ s.rtc.xtRun = true ∧ s.get F.RTC_CDT_COUNT ≠ 0 ∧ s.counting = true ∧ s.rtc.wr = none ∧ s.get F.RTC_TRIM_APPLIED = 0
    ∧ s.get F.RTC_TRIM_VAL = 0 := by decide +kernel

theorem wit_LargestTimeWraps :
    let s := ticking [(F.RTC_TRIM_APPLIED, 0x7FF), (F.RTC_SEC_SEC, 2 ^ 32 - 1), (F.RTC_FRAC_FRAC, 65535)]
    s.canonical = true ∧ s.counting = true := by decide +kernel

/-- A session of a role on the UART in the Service window, its receiver awake. -/
def session (r : Role) (l : List (Fld × Nat)) : State :=
  let s := service l
  { s with cmd := { s.cmd with uart := { s.cmd.uart with awake := true, role := r } } }

/-- A session's source. -/
def uart : Source := .carrier .uart

theorem wit_RegisterWritesRespectClassAndRight :
    let a := F.BILL_CFG
    let s := session .manufacturer []
    let m := Nat.land allBits (s.writeMask 4 a)
    s.canonical = true ∧ s.serviceOpen = true ∧ 0x50000000 % 4 = 0 ∧ viewOf 0x50000000 = (0x50000000, false) ∧ regAt 0x50000000 = none
    ∧ roleRank (s.roleOf uart) = 4 ∧ a % 4 = 0 ∧ viewOf a = (a, false) ∧ isSched a = false ∧ m ≠ 0 ∧ m = Nat.land m (stagedMask a)
    ∧ a ≠ F.PAY_CFG ∧ a ≠ F.PWR_CTRL ∧ s.cfgBusy = false
    ∧ (regAt a).any (fun x => decide (x.1 ≠ .ame ∧ s.valuesOk a x.2.1 m (s.pend a) = true
      ∧ admissible s (s.stage a (mergeMask m (s.pend a) (s.pend a))) x.1 a = true)) = true := by decide +kernel

theorem wit_TimeAndTimerWrites :
    let s := session .utility []
    let b := session .utility [(F.RTC_STAT_WBUSY, 1)]
    s.canonical = true ∧ s.serviceOpen = true ∧ (if s.untrusted then 2 else 3) ≤ roleRank (s.roleOf uart)
    ∧ s.flag F.RTC_STAT_WBUSY = false ∧ b.flag F.RTC_STAT_WBUSY = true ∧ b.canonical = true := by decide +kernel

theorem wit_CommandsToBillingAndPay :
    let s := session .utility []
    let b := session .utility [(F.SAFE_STAT_SAFE, 1), (F.SAFE_STAT_SSHELD, 1)]
    let c := (session .utility [(F.PAY_STAT_CMODE, 1)]).setCredit 1
    s.canonical = true ∧ s.serviceOpen = true ∧ 3 ≤ roleRank (s.roleOf uart) ∧ b.openBlocked = true ∧ s.openBlocked = false
    ∧ s.get F.PAY_CFG_MODE = 0 ∧ s.modeRefused 2 = false ∧ s.cfgBusy = false ∧ c.canonical = true ∧ c.modeRefused 2 = true
    ∧ 3 ≤ roleRank (c.roleOf uart) ∧ c.serviceOpen = true := by decide +kernel

/-! ### The Safety Net, tampers and the actuator -/

theorem wit_AcknowledgeForceAndDebug :
    let s := session .manufacturer [(F.CMD_MODE_TEST, 1), (F.KEYS_STAT_HOLD, 1)]
    let n := { s with safe := { s.safe with needAck := true } }
    let life (l : Nat) : State := { s with keys := { s.keys with cells := { s.keys.cells with lcs := l } } }
    s.canonical = true ∧ s.serviceOpen = true ∧ 4 ≤ roleRank (s.roleOf uart) ∧ n.safe.needAck = true ∧ s.flag F.CMD_MODE_TEST = true
    ∧ s.flag F.KEYS_STAT_HOLD = true ∧ s.keys.cells.lcs = 0 ∧ (life 3).keys.cells.lcs = 3
    ∧ (life 2).keys.cells.lcs ≠ 0 ∧ (life 2).keys.cells.lcs ≠ 3 := by decide +kernel

theorem wit_SafeStateEnds :
    let s := ticking [(F.SAFE_STAT_SAFE, 1), (F.SAFE_CFG_EXITT, 1), (F.SAFE_STAT_EXITCNT, 1)]
    let t := { s with rm := { s.rm with phaseDone := true } }
    t.canonical = true ∧ t.pow.stage = .running ∧ t.rm.phaseDone = true ∧ t.exitReady = true := by decide +kernel

/-- Two samples of SEAL, of TAMP3 and of the feedback inputs have differed from the accepted levels. -/
def twoOff (s : State) : State :=
  { s with pins := { s.pins with strap := ⟨true, false, 2⟩, fbo := ⟨true, false, 2⟩, fbc := ⟨true, false, 2⟩
                                 tamp := s.pins.tamp.set 3 ⟨true, false, 2⟩, tampMode := [0, 0, 0, 1] } }

theorem wit_TamperEventsLatch :
    let s := twoOff (running [(F.SAFE_TAMP_MODE 3, 1)])
    let h := twoOff (stageAt .hibernate [])
    let s1 := s.advance 1
    s.canonical = true ∧ s1.pow.stage = .running ∧ s1.pow.stage ≠ .backup ∧ s1.pins.strap.level ≠ true ∧ 2 ≤ s1.pins.strap.run
    ∧ (((running []).advance 1).pins.strap.run < 2 ∧ ((running []).advance 1).pins.strap.level ≠ true)
    ∧ (h.advance 1).pow.stage = .hibernate ∧ (h.advance 1).pins.strap.level ≠ true ∧ 2 ≤ (h.advance 1).pins.strap.run
    ∧ s1.pins.tamp.length = 4 ∧ s1.pins.tampMode.getD 3 0 = 1 ∧ (s1.tampIn 3).level ≠ true ∧ 2 ≤ (s1.tampIn 3).run := by decide +kernel

/-- A drive in progress. -/
def driving (closing : Bool) (attempt : Nat) (l : List (Fld × Nat)) : State :=
  { running l with act := { Act.init with drive := some ⟨closing, 0, attempt, true⟩ } }

theorem wit_ActuatorDrives :
    let s := running [(F.PAY_VLV_EN, 1)]
    let o := { s with act := { s.act with openReq := true } }
    o.canonical = true ∧ o.driveDue = some false ∧ o.pow.stage = .running ∧ o.pins.window = false ∧ o.flag F.PAY_VLV_EN = true
    ∧ o.act.drive = none ∧ ((driving true 1 []).advance 1).act.drive = some ⟨true, 0, 1, true⟩
    ∧ (driving true 1 []).act.drive = some ⟨true, 0, 1, true⟩ ∧ (driving true 2 []).act.drive = some ⟨true, 0, 2, true⟩
    ∧ (driving true 2 []).canonical = true ∧ (driving true 2 []).pins.window = false
    ∧ ({ driving true 1 [] with pins := { (driving true 1 []).pins with window := true } }).pins.window = true := by decide +kernel

theorem wit_FeedbackEndsOrFaults :
    let s := twoOff (driving true 1 [])
    let a := running [(F.PAY_VLV_EN, 1)]
    let c := { a with act := { Act.init with confirmed := some true }, pins := { a.pins with fbc := ⟨false, true, 2⟩ } }
    (s.advance 1).pow.stage = .running ∧ (s.advance 1).act.drive = some ⟨true, 0, 1, true⟩ ∧ (s.advance 1).pins.fbc.level ≠ true
    ∧ 2 ≤ (s.advance 1).pins.fbc.run ∧ (s.advance 1).pins.fbo.level = false ∧ 2 ≤ (s.advance 1).pins.fbo.run
    ∧ c.canonical = true ∧ (c.advance 1).act.drive = none ∧ (c.advance 1).flag F.PAY_VLV_EN = true
    ∧ (c.advance 1).act.confirmed = some true ∧ (c.advance 1).pins.fbc.level ≠ false ∧ 2 ≤ (c.advance 1).pins.fbc.run
    ∧ (c.advance 1).pins.fbo.level = false ∧ (c.advance 1).pow.stage = .running := by decide +kernel

/-! ### The phases of a tick -/

/-- A phase has ended. -/
def phase (p : Nat) (l : List (Fld × Nat)) : State :=
  let s := ticking ((F.FT_PHASE_PHASE, p) :: l)
  { s with rm := { s.rm with phaseDone := true } }

/-- Every test passes and nothing is found. -/
def clean : DiagIn := ⟨none, [], false, [], none, none, false, false, 0⟩

theorem wit_TickBoundaryCaptures :
    let s := running []
    s.canonical = true ∧ s.pow.stage ∈ [Stage.running, .awaitTick, .resuming] ∧ (s.advance 5).rtc.started = false
    ∧ (ticking []).canonical = true ∧ (ticking []).rm.nextAt = none ∧ ((ticking []).advance 5).rtc.started = true
    ∧ ((ticking []).advance 5).flag F.FT_CTRL_HOLD = false := by decide +kernel

/-- The front end on, with a LOOPBACK entry due each tick. -/
def loopbackOn (ready : Nat) : State :=
  phase 0 [(F.AME_CTRL_EN, 1), (F.AME_STAT_READY, ready), (F.FT_SCHED_KIND 0, 2), (F.FT_SCHED_EVERY 0, 1),
    (F.FT_SCHED_MULT_MIN 0, 1), (F.FT_SCHED_MULT_MAX 0, 1)]

theorem wit_AcousticWindowOpensOrEnds :
    let s := phase 0 []
    s.canonical = true ∧ s.pow.stage = .running ∧ s.get F.FT_PHASE_PHASE = 0 ∧ s.rm.phaseDone = true
    ∧ (((s.put F.FT_PHASE_PHASE 1).markSkipped).planWindow 0 0).1 = []
    ∧ (loopbackOn 0).canonical = true ∧ ((((loopbackOn 0).put F.FT_PHASE_PHASE 1).markSkipped).planWindow 0 0).1 = [⟨15, 2, false⟩]
    ∧ (loopbackOn 0).ame.xoFail = false ∧ (loopbackOn 0).ame.pllFail = false ∧ s.radioWork = false
    ∧ (loopbackOn 0).flag F.AME_STAT_READY = false
    ∧ (loopbackOn 1).flag F.AME_STAT_READY = true ∧ ((((loopbackOn 1).put F.FT_PHASE_PHASE 1).markSkipped).planWindow 0 0).1 ≠ []
    ∧ 3200 < (3201 : Int).natAbs := by decide +kernel

theorem wit_ComputePublishes :
    let early := { phase 1 [] with pow := { (phase 1 []).pow with wdtFrom := some 500 } }
    (phase 1 []).canonical = true ∧ (phase 1 []).computeDue = true ∧ clean.coreRam = none ∧ (phase 1 []).pow.wdtFrom = none
    ∧ early.canonical = true ∧ early.computeDue = true ∧ early.uptime < 500
    ∧ { clean with coreRam := some 8 }.coreRam = some 8 := by decide +kernel

/-- A Compute due at a start time, with its records fired. -/
def billing (now lastD lastP : Nat) (l : List (Fld × Nat)) : State :=
  let s := phase 1 ([(F.BILL_LASTD_SEC, lastD), (F.BILL_LASTP_SEC, lastP)] ++ l)
  { s with bill := { s.bill with catchUp := false }, rm := { s.rm with startTime := (now, 0), untr := false } }

theorem wit_BillingBoundariesFire :
    let a := billing 3600 0 0 []
    let p := a.nextPeriod 0
    let b := billing p p 0 []
    let c := billing 10 0 0 [(F.BILL_STAT_TARIFF, 5)]
    a.canonical = true ∧ a.boundariesDue = true ∧ a.nextDemand 0 ≤ 3600 ∧ a.nextDemand 0 ≤ p ∧ a.nextDemand 0 < 2 ^ 32
    ∧ a.get F.BILL_LASTD_SEC = 0 ∧ a.get F.BILL_LASTP_SEC = 0
    ∧ b.canonical = true ∧ b.boundariesDue = true ∧ b.nextPeriod (b.get F.BILL_LASTP_SEC) ≤ p
    ∧ b.nextPeriod (b.get F.BILL_LASTP_SEC) < b.nextDemand (b.get F.BILL_LASTD_SEC) ∧ p < 2 ^ 32
    ∧ c.canonical = true ∧ c.boundariesDue = true ∧ 10 < c.nextDemand (c.get F.BILL_LASTD_SEC)
    ∧ 10 < c.nextPeriod (c.get F.BILL_LASTP_SEC) ∧ c.flag F.BILL_STAT_CLOSEPEND = false
    ∧ (c.almanac 10).1 ≠ c.get F.BILL_STAT_TARIFF := by decide +kernel

theorem wit_ServiceWindowAndPromotion :
    let s := phase 2 []
    let u := phase 3 [(F.FT_SCHED_KIND 0, 3), (F.FT_SCHED_TASK 0, 1), (F.FT_SCHED_SLICE 0, 100)]
    let v := { u with rm := { u.rm with ages := [none, some 255, none, none, none, none] } }
    let i := { s with jrn := { s.jrn with since := 28800 } }
    s.canonical = true ∧ s.serviceDue = true ∧ (s.servicePhase 100 ⟨[], true⟩).resetAtEnd = false
    ∧ v.canonical = true ∧ v.pow.stage = .running ∧ 3 ≤ v.get F.FT_PHASE_PHASE ∧ v.urgent ≠ []
    ∧ i.pow.stage = .running ∧ 28800 ≤ i.jrn.since := by decide +kernel

/-- A legal entry. -/
def entry (code : Nat) : LegalEntry := ⟨7, code, 0, legalData []⟩

theorem wit_PersistWritesTheCommit :
    let p := phase 3 [(F.BILL_JRNL_PEND, 1)]
    let s := { p with jrn := { p.jrn with due := true, lq := List.replicate 8 (entry 0x10) } }
    s.canonical = true ∧ s.persistPhase = true ∧ s.jrn.due = true ∧ s.jrn.openC = none ∧ s.jrn.snapRows = [] ∧ s.keys.commit = none
    ∧ s.keys.wipe = none ∧ s.cmd.saveRows = 0 ∧ s.mgmt.activate = false ∧ s.pow.safetyReq = none ∧ s.pow.resetReq = none
    ∧ s.pow.hibReq = false ∧ (∀ e ∈ s.jrn.lq, e.data.length = 10) ∧ s.get F.BILL_JRNL_PEND ≠ 0
    ∧ s.get F.BILL_JRNL_PEND + (s.jrn.lq.length + 3) / 4 + 1 ≤ 4 := by decide +kernel

theorem wit_SaveCompletes :
    let p := phase 3 []
    let s := { p with cmd := { p.cmd with saveRows := 1 } }
    s.canonical = true ∧ s.persistPhase = true ∧ s.cmd.saveRows ≠ 0 ∧ s.persistRows.cmd.saveRows = 0 := by decide +kernel

/-! ### Acoustics -/

/-- A shot of path 0 at the word `pc`. -/
def shotAt (pc : Nat) : ShotRun :=
  ⟨⟨0, 0, false⟩, pc, 0, [0, 1, 2, 3], none, none, false, false, false, false, false, 8, false, false, 0, 0, false, false, 0, []⟩

/-- That shot running, with its word. -/
def shooting (r : ShotRun) (w : Nat) : State :=
  let s := running [(wholeReg (F.AME_UCODE r.pc), w)]
  { s with ame := { s.ame with run := some r, windowOn := true, plan := [r.plan] } }

theorem wit_SequencerWordsRun :
    let r := shotAt 3
    let ended := { r with firedA := some 96, capA := true }
    (shooting r 0x20000005).canonical = true ∧ (shooting r 0x20000005).ame.run = some r
    ∧ bitsOf ((shooting r 0x20000005).wordAt r.pc) 31 28 = 2 ∧ bitsOf ((shooting r 0x20FFFFFF).wordAt r.pc) 23 0 = 0xFFFFFF
    ∧ bitsOf ((shooting r 0x30000000).wordAt r.pc) 31 28 = 3 ∧ bitsOf ((shooting r 0x30000000).wordAt r.pc) 27 24 = 0
    ∧ ((shooting r 0x30000000).shotFiring 0).collides 0 none = false
    ∧ bitsOf ((shooting r 0x31000000).wordAt r.pc) 27 24 ≠ 0
    ∧ bitsOf ((shooting ended 0x40000060).wordAt r.pc) 31 28 = 4 ∧ ended.firedA = some 96 ∧ ended.time ≤ 96 + 0x60
    ∧ bitsOf ((shooting ended 0x50000000).wordAt r.pc) 31 28 = 5
    ∧ (ended.eventTime ((shooting ended 0x50000000).shotFiring 0) 0).isSome = true
    ∧ bitsOf ((shooting r 0x60000000).wordAt r.pc) 31 28 = 6 ∧ 7 ≤ bitsOf ((shooting r 0xF0000000).wordAt r.pc) 31 28 := by
  decide +kernel

theorem wit_ShotsStartAndEnd :
    let s := running [(wholeReg (F.AME_UCODE 0), 0x10000000)]
    let w := { s with ame := { s.ame with windowOn := true, plan := [⟨0, 0, false⟩] } }
    let full := w.setToken 0 1
    let busy := (full.setToken 16 1).setToken 32 1 |>.setToken 48 1 |>.setToken 64 1
    w.canonical = true ∧ w.ame.run = none ∧ w.ame.plan = [⟨0, 0, false⟩] ∧ bitsOf (w.wordAt (routineBase 0)) 31 28 = 1
    ∧ w.freeCaptures = [0, 1, 2, 3, 4, 5, 6, 7] ∧ busy.canonical = true ∧ busy.freeCaptures = [5, 6, 7]
    ∧ (shooting (shotAt 3) 0).ame.run = some (shotAt 3) ∧ bitsOf ((shooting (shotAt 3) 0).wordAt 3) 31 28 = 0
    ∧ (shotAt 3).plan.path < 4 ∧ (shotAt 3).plan.origin ≠ 3 := by decide +kernel

theorem wit_CapturesAndCorrelations :
    let r := { shotAt 3 with firedA := some 0 }
    let both := { r with capA := true, firedB := some 9600 }
    let s := shooting r 0
    s.canonical = true ∧ s.ame.run = some r ∧ r.recs = [0, 1, 2, 3] ∧ (s.shotFiring r.plan.path).caplen ≤ 1024 ∧ r.firedA = some 0
    ∧ r.capA = false ∧ (shooting both 0).ame.run = some both ∧ both.firedB = some 9600 ∧ both.capA = true ∧ both.capB = false
    ∧ both.corrA = false ∧ s.captureBad 0 = false ∧ s.captureBad 3 = false
    ∧ ({ s with ecc := [(5, true)] }).captureBad 0 = true ∧ ({ s with ecc := [(5, false)] }).captureBad 0 = false
    ∧ { both with capB := true, corrA := true }.corrB = false := by decide +kernel

theorem wit_FrontEndEvents :
    let s := running [(F.AME_CTRL_EN, 1)]
    let c := { s with sens := { s.sens with running := some ([0], false) } }
    (s.advance 1).flag F.AME_CTRL_EN = true ∧ (s.advance 1).coreAlive = true ∧ (s.advance 1).vioOk = false ∧ ((running [(F.PWR_STATE_VIO_OK, 1)]).advance 1).vioOk = true
    ∧ c.canonical = true ∧ (c.advance 1).sens.running = some ([0], false) ∧ (1000 : Int).natAbs ≤ 1000 ∧ (Int.neg 500).natAbs ≤ 500
    ∧ 1000 < (1001 : Int).natAbs := by decide +kernel

/-- Path 0 of meter point A, with what its shots of the tick were. -/
def metered (l : List (Fld × Nat)) (shots : List ShotOut) : State :=
  let s := phase 1 ([(F.AME_CTRL_EN, 1), (F.AME_P_PORT_EN 0, 1), (F.MP_CTRL_EN 0, 1), (F.MP_CFG_PATHS 0, 1)] ++ l)
  { s with ame := { s.ame with done := shots } }

theorem wit_EmptyPipeHoldAndRecovery :
    let s := metered [(F.SHOT_RULE_EP_COUNT 0, 4), (F.SHOT_MSTAT_EPCNT 0, 3)] [⟨0, 0, 3, 1, false, 0, 0, 0⟩]
    let c := metered [(F.SHOT_MSTAT_EMPTY 0, 1), (F.SHOT_MSTAT_CLRCNT 0, 3)]
      (List.replicate 3 ⟨0, 0, 0, 0, false, 5, 70000000, 70000005⟩)
    let h := metered [(F.SHOT_RULE_HOLD_TICKS 0, 2)] []
    let hold := h.setPathSt 0 { h.pathSt 0 with held := some (5, 7, 8), heldFor := 2 }
    let r := metered [(F.SHOT_MSTAT_RECOV 0, 1)] []
    let rec1 := { r with shot := { r.shot with recByCount := [true, false] } }
    s.canonical = true ∧ s.computeDue = true ∧ s.mpOn 0 = true ∧ s.flag (F.SHOT_MSTAT_EMPTY 0) = false ∧ s.emptyRule 0 = some true
    ∧ s.get (F.SHOT_RULE_EP_COUNT 0) ≤ s.get (F.SHOT_MSTAT_EPCNT 0) + 1
    ∧ c.canonical = true ∧ c.computeDue = true ∧ c.flag (F.SHOT_MSTAT_EMPTY 0) = true ∧ 3 ≤ c.get (F.SHOT_MSTAT_CLRCNT 0)
    ∧ c.mpPaths 0 ≠ [] ∧ (∀ k ∈ c.mpPaths 0, c.kept k ≠ [])
    ∧ hold.canonical = true ∧ hold.mpOfPath 0 = some 0 ∧ (hold.pathSt 0).held = some (5, 7, 8) ∧ hold.pathOn 0 = true
    ∧ hold.kept 0 = [] ∧ hold.flag (F.SHOT_MSTAT_EMPTY 0) = false ∧ hold.get (F.SHOT_RULE_HOLD_TICKS 0) ≤ (hold.pathSt 0).heldFor
    ∧ rec1.canonical = true ∧ rec1.get (F.SHOT_MSTAT_RECOV 0) = 1 ∧ rec1.shot.recByCount.getD 0 false = true := by decide +kernel

theorem wit_DepositBlockCloses :
    let s := phase 1 [(F.SHOT_P_DREF_DREF 3, 16384), (F.SHOT_P_LIM_DEPTHR 3, 8)]
    let d := s.setPathSt 3 ⟨none, 0, 4096 * 4, 4096, none, true⟩
    d.canonical = true ∧ d.computeDue = true ∧ d.shot.paths.length = 4 ∧ 4096 ≤ (d.pathSt 3).depCount ∧ d.get (F.SHOT_P_DREF_DREF 3) ≠ 0
    ∧ (phase 1 []).get (F.SHOT_P_DREF_DREF 3) = 0 := by decide +kernel

/-- A zero calibration of meter point A over 256 shots of path 0. -/
def calibrating (v : Int) (n : Nat) (l : List (Fld × Nat)) : State :=
  let s := phase 1 ([(F.SHOT_ZCCFG_SPREAD, 2), (F.SHOT_ZCMAX_MAXOFF, 1), (F.SHOT_ZCCFG_TIMEOUT, 1)] ++ l)
  { s with shot := { s.shot with zc := some ⟨0, 1, [(0, (List.replicate (n - 1) (v, 0, 5)) ++ [(2 * v, 0, 5)])]⟩ } }

theorem wit_ZeroCalibrationEnds :
    let s := calibrating 0 256 []
    let f := calibrating 5120 256 [(F.SHOT_ZCCFG_SPREAD, 65535)]
    let w := calibrating 5120 256 []
    let zc (t : State) : List (Nat × Int × Int × Nat × Nat) := match t.shot.zc with | some z => z.paths.map (fun p => (p.1, zcValues p.2)) | none => []
    s.canonical = true ∧ s.computeDue = true ∧ s.zcFull = true ∧ s.flag (F.SHOT_MSTAT_EMPTY 0) = false
    ∧ (zc s).all (fun v => decide (v.2.2.2.2 ≤ s.get F.SHOT_ZCCFG_SPREAD ∧ v.2.1.natAbs ≤ 256 * s.get F.SHOT_ZCMAX_MAXOFF)) = true
    ∧ f.zcFull = true ∧ (zc f).all (fun v => decide (v.2.2.2.2 ≤ f.get F.SHOT_ZCCFG_SPREAD ∧ 256 * f.get F.SHOT_ZCMAX_MAXOFF < v.2.1.natAbs)) = true
    ∧ w.zcFull = true ∧ (zc w).all (fun v => decide (w.get F.SHOT_ZCCFG_SPREAD < v.2.2.2.2)) = true
    ∧ (calibrating 0 255 []).zcLate = true ∧ (calibrating 0 255 []).canonical = true := by decide +kernel

/-- A water meter point A on paths 0 and 1 of 0.1 m, with one shot of each in the tick. -/
def measuring (l : List (Fld × Nat)) (dt0 dt1 : Int) : State :=
  let path (n : Nat) : List (Fld × Nat) := [(F.AME_P_PORT_EN n, 1), (F.MP_P_LEN_LEN 0 n, 100000), (F.MP_P_AX_AX 0 n, 80000),
    (F.MP_P_T0_T0 0 n, 0), (F.MP_P_W_W 0 n, 2 ^ 29)]
  let s := phase 1 ([(F.AME_CTRL_EN, 1), (F.MP_CTRL_EN 0, 1), (F.MP_CFG_PATHS 0, 3), (F.MP_GEOM_D 0, 20000), (F.MP_KRE_RE 0 0, 0),
    (F.MP_KF_K 0 0, 2 ^ 30)] ++ path 0 ++ path 1 ++ l)
  { s with ame := { s.ame with done := [⟨0, 0, 0, 0, false, dt0, 17920000, 17920000⟩, ⟨1, 0, 0, 0, false, dt1, 17920000, 17920000⟩] } }

/-- Its properties evaluated, and its tamper runs. -/
def runsAt (s : State) (rev sgn : TamperRun) : State :=
  s.setMp 0 { s.mp 0 with props := some ⟨1000 * 65536, 0, 0, 2 ^ 44⟩, propKey := (s.get (F.MP_WPRESS_P 0), s.get (F.MP_CFG_MEDIUM 0))
                          rev := rev, sgn := sgn }

/-- A new sample of 10 °C beside a speed of sound of 1,428 m/s. -/
def sampling : State :=
  let s := measuring [(F.SENS_CTRL_EN, 1), (F.SENS_CTRL_TSEN, 1), (F.MP_CFG_SENS1 0, 0), (F.MP_CFG_SENS2 0, 0),
    (F.SENS_TVAL_T 0, 10 * 65536), (F.SENS_TSTAT_STATE 0, 0), (F.MP_STAT_PLAUSCNT 0, 7)] 0 0
  { s with sens := { s.sens with newT := true }, mps := [{ s.mp 0 with cSum := 1428 * 2 ^ 32, cN := 1 }, s.mp 1] }

theorem wit_FlowTampersAndPlausibility :
    let a := runsAt (measuring [(F.MP_LIMITS_REVTH 0, 1)] (-100000) (-100000)) ⟨7, true⟩ ⟨7, true⟩
    let b := runsAt (measuring [] 0 0) ⟨7, false⟩ ⟨7, true⟩
    let c := runsAt (measuring [] 300000 (-300000)) ⟨7, true⟩ ⟨7, true⟩
    let s1 := (sampling.tempStat 0).refreshProps 0
    a.canonical = true ∧ (a.mp 0).rev = ⟨7, true⟩ ∧ (a.dueFlow 0).any (fun f => a.reverseCond 0 f) = true
    ∧ b.canonical = true ∧ (b.mp 0).rev = ⟨7, false⟩ ∧ (b.dueFlow 0).any (fun f => !b.reverseCond 0 f) = true ∧ b.mps.length = 2
    ∧ c.canonical = true ∧ (c.mp 0).sgn = ⟨7, true⟩ ∧ (c.dueFlow 0).any (fun f => decide (2 ≤ f.v.length) && signCond f) = true
    ∧ sampling.canonical = true ∧ sampling.computeDue = true ∧ sampling.mpOn 0 = true ∧ sampling.flag (F.MP_STAT_CFGERR 0) = false
    ∧ sampling.sens.newT = true ∧ sampling.get (F.MP_STAT_PLAUSCNT 0) = 7 ∧ (s1.mp 0).cN ≠ 0 ∧ s1.isGas 0 = false
    ∧ s1.tVol 0 = some (10 * 65536) ∧ soundFlat (s1.get (F.MP_CFG_MEDIUM 0)) (s1.get (F.MP_WPRESS_P 0)) (10 * 65536) = false := by decide +kernel

/-! ### The command language -/

/-- A session on the UART. -/
def lines (r : Role) (l : List (Fld × Nat)) : State := session r ((F.CMD_UART_EN, 1) :: l)

/-- The Service tasks 2 and 3 with slices of 1 ms, in force and in the shadow table. -/
def withTasks (s : State) : State :=
  let t := [(0, 0x6423#32), (1, 0x6433#32)]
  { t.foldl (fun u p => u.put (wholeReg (F.FT_SCHED p.1)) p.2.toNat) s with rm := { s.rm with schedShadow := t } }

/-- A line without a tag and without a CRC suffix. -/
def bare : LineForm := ⟨[], false⟩

/-- The UART owes a response. -/
def owing (d : Deferred) : State :=
  let s := lines .installer []
  { s with cmd := { s.cmd with uart := { s.cmd.uart with held := some (d, bare) } } }

theorem wit_ReadingCommandsAnswer :
    let s := withTasks (lines .installer [])
    s.canonical = true ∧ s.lineRuns .uart bare = true ∧ F.BILL_CFG % 4 = 0 ∧ viewOf F.BILL_CFG = (F.BILL_CFG, false)
    ∧ (regAt F.BILL_CFG).isSome = true ∧ F.FT_PHASE % 4 = 0 ∧ viewOf F.FT_PHASE = (F.FT_PHASE, false) ∧ (regAt F.FT_PHASE).isSome = true
    ∧ named (txt "NOSUCHNAME") = none ∧ named (txt "BILL.CFG") = some (.reg F.BILL_CFG) ∧ (rowOf F.BILL_CFG).isSome = true
    ∧ F.BILL_CFG ≠ F.FT_TICK_LO ∧ (∀ n : Fin 12, F.BILL_CFG ≠ F.MGMT_GPIO n.val) ∧ 2 ≤ (s.onLine .uart false).rankOn .uart ∧ s.taskEnabled 3 = true := by
  decide +kernel

theorem wit_LinesRefusedOrWithoutRight :
    let s := lines .reader []
    let q := lines .reader [(F.CMD_UART_REQCRC, 1)]
    s.canonical = true ∧ s.pow.stage = .running ∧ s.lineOk .uart = true
    ∧ q.canonical = true ∧ q.lineOk .uart = true ∧ q.owes .uart = false ∧ q.reqCrc .uart = true ∧ bare.crc = false
    ∧ (owing .zerocal).canonical = true ∧ (owing .zerocal).lineOk .uart = true ∧ ((owing .zerocal).car .uart).held = some (.zerocal, bare)
    ∧ (owing .zerocal).reqCrc .uart = false ∧ s.lineRuns .uart bare = true ∧ (s.onLine .uart false).rankOn .uart < 2 := by decide +kernel

/-- A session with the seal open, test mode and meter point A on path 0. -/
def serving (l : List (Fld × Nat)) : State :=
  let s := withTasks <| lines .manufacturer ([(F.CMD_MODE_TEST, 1), (F.AME_CTRL_EN, 1), (F.AME_P_PORT_EN 0, 1), (F.MP_CTRL_EN 0, 1),
    (F.MP_CFG_PATHS 0, 1)] ++ l)
  { s with pins := { s.pins with sealForce := true } }

theorem wit_ChangingCommandsAct :
    let s := serving []
    let s1 := s.onLine .uart false
    let a := F.BILL_CFG
    let m := Nat.land allBits (s1.writeMask 4 a)
    let w := word (ofSigned 32 1966082)
    s.canonical = true ∧ s.lineRuns .uart bare = true ∧ s1.rankOn .uart = 4
    ∧ tokens (txt "1966082") [] = [txt "1966082"] ∧ readInt (txt "1966082") = some 1966082 ∧ a % 4 = 0 ∧ viewOf a = (a, false) ∧ isSched a = false
    ∧ m ≠ 0 ∧ m = Nat.land m (stagedMask a) ∧ a ≠ F.PAY_CFG ∧ a ≠ F.PWR_CTRL
    ∧ (regAt a).any (fun x => decide (x.1 ≠ .ame ∧ s1.valuesOk a x.2.1 m w = true
      ∧ admissible s1 (s1.stage a (mergeMask m w (s1.pend a))) x.1 a = true)) = true ∧ s1.cfgBusy = false
    ∧ s.sealOpen = true ∧ s.flag F.CMD_MODE_TEST = true ∧ s.pathOn 0 = true ∧ s.ame.aclReq = none
    ∧ s.cfgBusy = false ∧ s.mpOn (mpNum .mpa) = true ∧ s.mpPaths (mpNum .mpa) ≠ [] ∧ s.flag (F.SHOT_MSTAT_EMPTY (mpNum .mpa)) = false
    ∧ s.saving = false ∧ s.get F.KEYS_STAT_COMMIT ≠ 2 ∧ s.updState ≠ 2
    ∧ formatOk (entriesOf (tableWords s.rm.schedShadow)) = true ∧ costFits s.pend (costOf s.pend (entriesOf (tableWords s.rm.schedShadow))) = true := by
  decide +kernel

/-- A session whose Reader password is "hydro-7a", with failed attempts and a lock. -/
def signing (r : Role) (fails : Nat) (lock : Option Nat) : State :=
  let s := lines r []
  { s with keys := { s.keys with pw := [some (passwordDigest (txt "hydro-7a")), none] }
           cmd := { s.cmd with uart := { s.cmd.uart with fails := fails, lockEnd := lock } } }

theorem wit_SessionsLogInAndOut :
    let s := signing .publicRole 3 none
    s.canonical = true ∧ s.lineRuns .uart bare = true ∧ hasReceiver .uart = true ∧ (s.car .uart).lockEnd = none
    ∧ s.keys.pw.getD (roleRank .reader - 1) none = some (passwordDigest (txt "hydro-7a"))
    ∧ passwordOk (txt "hydro-7a") = true ∧ passwordDigest (txt "hydro-7b") ≠ passwordDigest (txt "hydro-7a")
    ∧ (s.car .uart).fails < 4 ∧ 4 ≤ ((signing .publicRole 4 none).car .uart).fails ∧ (signing .publicRole 4 none).canonical = true
    ∧ (signing .publicRole 4 none).lineRuns .uart bare = true
    ∧ ((signing .publicRole 0 (some 9)).car .uart).lockEnd = some 9 ∧ (signing .publicRole 0 (some 9)).uptime < 9
    ∧ (signing .publicRole 0 (some 9)).lineRuns .uart bare = true ∧ s.keys.rngOff = false
    ∧ s.lineRuns (.tunnel 0) bare = true ∧ hasReceiver (.tunnel 0) = false
    ∧ 3 ≤ ((signing .utility 0 none).onLine .uart false).rankOn .uart ∧ (signing .utility 0 none).lineRuns .uart bare = true := by
  decide +kernel
/-- Slot `n` usable for a use, with its key unwrapped; the life cycle is NORMAL and an authority key stands in copy A. -/
def keyedAt (s : State) (n usage : Nat) (key : List Byte) : State :=
  let t := pokes s [(F.KEYS_SLOT_VALID n, 1), (F.KEYS_SLOT_USAGE n, usage), (F.KEYS_SLOT_LOADED n, 1)]
  { t.nvmWrite (keyRow 0 1) (List.replicate 64 3#8) with
      keys := { t.keys with slots := t.keys.slots.set n (some key), cells := { t.keys.cells with lcs := 1 }, used := some 0 } }

/-- FF1 encryption of 20 digits, the inverse of the model's decryption. -/
def ff1Enc (key tweak digits : List Nat) : List Nat :=
  let p := (List.range 10).foldl (fun (p : Nat × Nat) i => (p.2, (p.1 + ff1Round key tweak i p.2) % 10 ^ 10))
    (digitsNat (digits.take 10), digitsNat (digits.drop 10))
  tenDigits p.1 ++ tenDigits p.2

/-- A credit token: CLASS 0, an identifier and an amount, with its check. -/
def creditToken (id amount : Nat) : Nat :=
  let v := 2 ^ 24 * id + amount
  65536 * v + crc16 (natBytes 7 v)

/-- A prepayment meter with a vending key in slot 1. -/
def vending (l : List (Fld × Nat)) : State :=
  keyedAt (lines .publicRole ([(F.PAY_CFG_MODE, 1), (F.PAY_TKCFG_SLOT, 1)] ++ l)) 1 4 (List.replicate 16 7#8)

/-- An authority change with a signature of no meaning, its counter 1. -/
def authorityMessage : List Byte := [0x12#8, 1#8] ++ zeros 8 ++ [0#8, 0#8, 0#8, 1#8] ++ List.replicate 128 5#8

theorem wit_KeyLoadAndToken_pieces :
    let s := keyedAt (lines .publicRole []) 1 4 (List.replicate 16 7#8)
    s.canonical = true ∧ s.lineRuns .uart bare = true
    ∧ tokens (txt "0102 +") [] = [txt "0102", ['+']] ∧ (readHex (txt "0102")).isSome = true ∧ (s.keyBufOf .uart ++ [1#8, 2#8]).length ≤ 256 := by
  decide +kernel

/-- A state that holds the first 46 bytes of that message. -/
def loading : State :=
  let s := keyedAt (lines .publicRole []) 1 4 (List.replicate 16 7#8)
  { s with cmd := { s.cmd with keyBuf := [(.uart, authorityMessage.take 46, 0)] } }

theorem wit_KeyLoadAndToken_message :
    let k := loading
    let hex := (authorityMessage.drop 46).flatMap (fun b => hexN 2 b.toNat)
    k.canonical = true ∧ k.keyBusy = false ∧ k.lineRuns .uart bare = true ∧ tokens hex [] = [hex]
    ∧ hex.length ≤ 192 ∧ readHex hex = some (authorityMessage.drop 46) ∧ k.keyBufOf .uart ++ authorityMessage.drop 46 = authorityMessage := by
  decide +kernel

theorem wit_KeyLoadAndToken_checked :
    (((loading.onLine .uart true).dropKeyBuf .uart).keyMessage (.carrier .uart) (some (.uart, bare)) authorityMessage).1 = none := by
  decide +kernel
theorem wit_KeyLoadAndToken_refused :
    let s := keyedAt (lines .publicRole []) 1 4 (List.replicate 16 7#8)
    let v := vending []
    let s2 := v.onLine .uart false
    readDecimals (List.replicate 20 '0') = some (List.replicate 20 0) ∧ s.jrn.hid.lockEnd = none ∧ s.get F.PAY_CFG_MODE = 0
    ∧ v.canonical = true ∧ v.lineRuns .uart bare = true ∧ v.jrn.hid.lockEnd = none ∧ v.get F.PAY_CFG_MODE ≠ 0
    ∧ v.flag F.PAY_STAT_LOCKOUT = false ∧ (s2.slotFor (s2.get F.PAY_TKCFG_SLOT) 2).1 = some (List.replicate 16 7) := by
  decide +kernel

theorem wit_KeyLoadAndToken_rejected :
    let v := vending []
    let s2 := v.onLine .uart false
    4 ≤ ((s2.slotFor (s2.get F.PAY_TKCFG_SLOT) 2).2.tokenResult
        (digitsNat (ff1Dec (List.replicate 16 7) s2.devid (List.replicate 20 0)))).1 := by
  decide +kernel

theorem wit_KeyLoadAndToken_accepted :
    let s2 := (vending []).onLine .uart false
    let d := [1, 7, 2, 1, 6, 6, 7, 0, 2, 5, 7, 8, 2, 1, 0, 8, 8, 1, 4, 2]
    (ff1Dec (List.replicate 16 7) s2.devid d).foldl (fun a x => a * 10 + x) 0 = creditToken 100 5
    ∧ d.length = 20 ∧ readDecimals (d.map (fun n => Char.ofNat (48 + n))) = some d
    ∧ (s2.slotFor (s2.get F.PAY_TKCFG_SLOT) 2).2.tokenResult (creditToken 100 5) = (0, some 0, some 100) := by
  decide +kernel

/-! ### Carriers -/

/-- The optical port in a sign-on state. -/
def optical (g : SignOn) (awake : Bool) : State :=
  let s := running [(F.PWR_STATE_VIO_OK, 1), (F.CMD_OPT_EN, 1), (F.CMD_OPT_MAXBAUD, 5)]
  { s with cmd := { s.cmd with sign := g, opt := { s.cmd.opt with awake := awake } } }

/-- The UART awake with characters received. -/
def heard (rx : List Byte) : State :=
  let s := lines .publicRole [(F.PWR_STATE_VIO_OK, 1)]
  { s with cmd := { s.cmd with uart := { s.cmd.uart with rx := rx } } }

theorem wit_CarriersWakeReceiveAndSleep :
    let s := running [(F.PWR_STATE_VIO_OK, 1), (F.CMD_UART_EN, 1)]
    let h := heard [0x41#8]
    let f := (heard []).advance 1
    s.canonical = true ∧ hasReceiver .uart = true ∧ (s.advance 1).isAwake .uart = false ∧ (s.advance 1).listening .uart = true ∧ h.canonical = true ∧ h.isAwake .uart = true
    ∧ ((running [(F.PWR_STATE_VIO_OK, 1), (F.MGMT_GPIO_FUNC 11, 7)]).advance 1).get (F.MGMT_GPIO_FUNC 11) = 7
    ∧ ((running [(F.PWR_STATE_VIO_OK, 1), (F.MGMT_GPIO_FUNC 11, 7)]).advance 1).vioOk = true
    ∧ f.listening .uart = true ∧ (({ h with uptime := 5, cmd := { h.cmd with uart := { h.cmd.uart with readyAt := 9 } } }).advance 1).uptime < 9 ∧ (f.car .uart).awake = true ∧ (f.car .uart).readyAt ≤ f.uptime
    ∧ (f.car .uart).bad = false ∧ (f.car .uart).rx.length < 255 ∧ ((h.advance 1).car .uart).rx ≠ []
    ∧ ((h.advance 1).car .uart).lines = [] ∧ ((h.advance 1).car .uart).held = none := by decide +kernel

theorem wit_OpticalSignOn :
    let s := optical .waiting false
    let q := optical (.requested 5) true
    let i := optical (.identified 5) true
    let o := optical (.session 5) true
    s.canonical = true ∧ (s.advance 1).listening .optical = true ∧ (s.advance 1).inSession = false
    ∧ q.canonical = true ∧ q.cmd.sign = .requested 5 ∧ (q.passTo 1 (5 + millis 200)).pow.stage = .running
    ∧ i.canonical = true ∧ (i.advance 1).cmd.sign = .identified 5 ∧ (i.advance 1).listening .optical = true
    ∧ 48 ≤ '5'.toNat ∧ '5'.toNat - 48 ≤ (i.advance 1).get F.CMD_OPT_MAXBAUD ∧ (i.advance 1).uptime ≤ 5 + millis 1500
    ∧ (i.advance 1).cmd.opt.awake = true ∧ ¬ '6'.toNat - 48 ≤ (i.advance 1).get F.CMD_OPT_MAXBAUD
    ∧ o.canonical = true ∧ (o.advance 1).inSession = true ∧ (o.advance 1).listening .optical = true := by decide +kernel

theorem wit_SessionTimersExpire :
    let s := lines .reader []
    let k := { s with cmd := { s.cmd with uart := { s.cmd.uart with lockEnd := some 9, chal := some ⟨.utility, 3, 1⟩, held := some (.shot, bare) }
                                          keyBuf := [(.uart, [1#8], 7)] }
                      ame := { s.ame with aclReq := some ⟨0, 1, 16, .uart, none⟩ }
                      jrn := { s.jrn with hid := { s.jrn.hid with lockEnd := some 0 } } }
    k.canonical = true ∧ hasReceiver .uart = true ∧ (k.car .uart).lockEnd = some 9 ∧ (k.car .uart).chal = some ⟨.utility, 3, 1⟩
    ∧ k.cmd.keyBuf.find? (fun b => sameCarrier b.1 .uart) = some (.uart, [1#8], 7) ∧ k.ame.aclReq = some ⟨0, 1, 16, .uart, none⟩
    ∧ k.pow.stage = .running ∧ k.serviceOpen = true ∧ (k.car .uart).held = some (.shot, bare) ∧ (k.car .uart).after = []
    ∧ k.jrn.hid.lockEnd = some 0 ∧ 0 ≤ k.get F.RTC_SEC_SEC := by decide +kernel

/-- The tunnel on, with neighbour entry 3 of a role. -/
def tunnel (l : List (Fld × Nat)) : State := service ((F.CMD_TUN_EN, 1) :: l)

theorem wit_TunnelledLines :
    let s := tunnel []
    let u := keyedAt (tunnel [(F.LINK_NB_A_VALID 3, 1), (F.LINK_NB_A_KEY 3, 1)]) 1 65 (List.replicate 16 7#8)
    s.canonical = true ∧ s.lineOk (.tunnel 3) = true ∧ s.ticking = true ∧ s.owes (.tunnel 3) = false
    ∧ (textBytes (txt "STATUS")).all lineByte = true
    ∧ (s.enterTunnel 3 false).parseForm (.tunnel 3) (bytesText (textBytes (txt "STATUS"))) = (0, bare, [txt "STATUS"])
    ∧ (s.enterTunnel 3 false).parseForm (.tunnel 3) (bytesText (textBytes (txt "RESET"))) = (0, bare, [txt "RESET"])
    ∧ roleRank (s.linkRole 3 false) < 2
    ∧ u.canonical = true ∧ u.lineOk (.tunnel 3) = true ∧ u.owes (.tunnel 3) = false ∧ 2 ≤ roleRank (u.linkRole 3 true)
    ∧ (u.enterTunnel 3 true).parseForm (.tunnel 3) (bytesText (textBytes (txt "RESET"))) = (0, bare, [txt "RESET"])
    ∧ 255 < (List.replicate 256 0#8).length := by decide +kernel
/-! ### Keys, objects and updates -/

/-- A key message's bytes before AUTH: kind, FORMAT 1, device 0, counter 1 and what follows. -/
def keyHead (kind : Nat) (l : List Nat) : List Nat := [kind, 1] ++ zero8 8 ++ [0, 0, 0, 1] ++ l

/-- The part with a utility master key in slot 0. -/
def mastered : State := keyedAt (service []) 0 8 (List.replicate 32 7#8)

/-- A message that erases slot 1, and one that returns the part, each with its MAC under K_MAC of that master key. -/
def erasing : List Nat := keyHead 0x10 [1, 0, 0] ++ cmac (mastered.kmac (List.replicate 32 7)) (keyHead 0x10 [1, 0, 0])
def returning : List Nat := keyHead 0x11 [3, 0] ++ cmac (mastered.kmac (List.replicate 32 7)) (keyHead 0x11 [3, 0])

/-- Whether a message with a MAC passes every check before the commit. -/
def passes (b : List Nat) : Bool := (parseKey b).any (fun f =>
  let s1 := ((mastered.put F.KEYS_LAST_KIND (b.getD 0 0)).clr F.KEYS_LAST_SLOT).put F.KEYS_LAST_SLOT f.target
  let k := s1.macKey f
  decide (f.devid = mastered.devid) && s1.keyStateOk f && s1.methodOk f && !f.ecdsa
    && k.1.any (fun key => decide (cmac key f.signed = f.auth)) && decide (k.2.get F.KEYS_CTR_COUNTER < f.counter) && usageOk f
    && (k.2.carriedKey f).1.isSome && !(k.2.carriedKey f).2.flag F.KEYS_STAT_FAULT)

theorem wit_KeyMessagesAreChecked :
    let s := keyedAt (service []) 0 8 (List.replicate 32 7#8)
    s.canonical = true ∧ s.serviceOpen = true ∧ s.keyBusy = false
    ∧ ([0x10, 0x11, 0x12, 0x13].all (fun k => (parseKey [k]).isNone)) = true
    ∧ (parseKey (nats authorityMessage)).any (fun f =>
      let s1 := ((s.put F.KEYS_LAST_KIND 0x12).clr F.KEYS_LAST_SLOT).put F.KEYS_LAST_SLOT f.target
      decide (f.devid = s.devid) && s1.keyStateOk f && s1.methodOk f && f.ecdsa) = true ∧ s.authPub ≠ none := by decide +kernel

theorem wit_KeyMessagesAreChecked_erase : passes erasing = true := by decide +kernel

theorem wit_KeyMessagesAreChecked_return : passes returning = true := by decide +kernel

theorem wit_KeyVerificationAndQuery :
    let s := keyedAt (service []) 0 8 (List.replicate 32 7#8)
    let r : KeyRun := ⟨.link 3 true, none, authorityMessage, 0, none⟩
    let u := { s with keys := { s.keys with run := some r } }
    u.canonical = true ∧ u.keys.run = some r ∧ r.verified = none ∧ u.authPub.isSome = true ∧ (parseKey (nats r.bytes)).isSome = true
    ∧ u.pins.window = false ∧ s.canonical = true ∧ s.serviceOpen = true ∧ s.lineRuns .uart bare = true
    ∧ (List.replicate 64 'A').length = 64 ∧ (readHex (List.replicate 64 'A')).isSome = true := by decide +kernel

/-- Neighbour entry 3 with a link key of the Utility role, and a Service task of 1 ms. -/
def linked (task : Nat) (l : List (Fld × Nat)) : State :=
  keyedAt (service ([(F.LINK_NB_A_VALID 3, 1), (F.LINK_NB_A_KEY 3, 1), (F.LINK_NB_A_ADDR 3, 0x1234), (F.LINK_NB_A_KID 3, 2), (F.LINK_NB_A_CSI 3, 7),
    (wholeReg (F.FT_SCHED 0), 0x6403 + 16 * task)] ++ l)) 1 97 (List.replicate 16 7#8)

theorem wit_ObjectRequestsAnswer :
    let s := linked 0 []
    let p := linked 0 [(F.SAFE_STAT_SAFE, 1), (F.SAFE_STAT_SSHELD, 1)]
    let clock := [0, 0, 1, 0, 0, 255]
    let b := bytesBE 2 2026 ++ [3#8, 1#8, 0xFF#8, 9#8, 14#8, 22#8, 0#8, 0x80#8, 0#8, 0#8]
    s.canonical = true ∧ s.serviceOpen = true ∧ s.objectAt [9, 9, 9, 9, 9, 9] = none
    ∧ s.objectAt clock = some .clock ∧ ObjKind.clock.cls = 8 ∧ (s.attr .clock clock 2).any (fun v => decide (v.enc.length ≤ 224)) = true
    ∧ ObjKind.clock.readRank ≤ s.linkRank 3 true ∧ s.objectAt [0, 0, 96, 128, 3, 255] = some .lastToken
    ∧ (s.attr .lastToken [0, 0, 96, 128, 3, 255] 2).isSome = true ∧ s.linkRank 3 false < ObjKind.lastToken.readRank
    ∧ (attrsOf 1).contains 2 = true ∧ ObjKind.lastToken.writable 2 = false
    ∧ s.objWriteRank .clock ≤ s.linkRank 3 true ∧ (readVal ([9#8, 12#8] ++ b)).any (fun v => match v with | .octets x => decide (x = b) | _ => false) = true ∧ (clockWords b).isSome = true
    ∧ s.flag F.RTC_STAT_WBUSY = false ∧ 3 ≤ s.linkRank 3 true ∧ p.canonical = true ∧ p.openBlocked = true ∧ 3 ≤ p.linkRank 3 true
    ∧ s.openBlocked = false ∧ s.get F.PAY_CFG_MODE = 0
    ∧ s.objectAt specialObis = some .special ∧ ObjKind.special.cls = 11 ∧ (methodsOf 11).contains 2 = true
    ∧ s.linkRank 3 false < 3 := by decide +kernel

theorem wit_SpecialDaysAreStaged :
    let s := linked 0 []
    let day := [2#8, 3#8, 0x12#8, 0#8, 63#8, 9#8, 5#8, 0xFF#8, 0xFF#8, 12#8, 25#8, 0xFF#8, 0x11#8, 4#8]
    s.canonical = true ∧ s.serviceOpen = true ∧ 3 ≤ roleRank (s.roleOf (.link 3 true)) ∧ ¬ 3 ≤ roleRank (s.roleOf (.link 3 false))
    ∧ (readVal day).any (fun x => (readSpecial x).isSome) = true ∧ s.cfgBusy = false
    ∧ (readVal [0x12#8, 0#8, 63#8]).any (fun x => decide (x.num = some 63)) = true := by decide +kernel

/-- A link partner's update session of 272 bytes in a state. -/
def updating (state next : Nat) (l : List (Fld × Nat)) : State :=
  linked 4 ([(F.MGMT_UPDSTAT_STATE, state), (F.MGMT_UPDSTAT_OWNER, 131), (F.MGMT_UPDSTAT_KIND, 1), (F.MGMT_UPDLEN_LENGTH, 272),
    (F.MGMT_UPDPROG_NEXT, next)] ++ l)

theorem wit_UpdateMessagesAct :
    let s := linked 4 []
    let b := updating 1 0 []
    let o := { b with cmd := { b.cmd with uart := { b.cmd.uart with role := .utility } } }
    let src : Source := .link 3 true
    s.canonical = true ∧ s.serviceOpen = true ∧ s.taskEnabled 4 = true
    ∧ s.updAllowed src 0x20 [1, 0, 0, 1, 16] = true ∧ s.updState = 0 ∧ 272 ≤ bytesNat [0, 0, 1, 16] ∧ bytesNat [0, 0, 1, 16] % 16 = 0
    ∧ bytesNat [0, 0, 1, 16] ≤ bankSize (s.targetBank 1)
    ∧ b.canonical = true ∧ b.serviceOpen = true ∧ b.taskEnabled 4 = true ∧ b.updAllowed src 0x21 (zero8 20) = true
    ∧ b.get F.MGMT_UPDSTAT_OWNER = ownerNum src ∧ b.mgmt.failed = none ∧ b.updState = 1
    ∧ bytesNat (zero8 4) = b.get F.MGMT_UPDPROG_NEXT ∧ (zero8 16).length ≤ b.get F.MGMT_UPDLEN_LENGTH ∧ b.ringRoom 8 1 = true
    ∧ 0 < (updating 1 16 []).get F.MGMT_UPDPROG_NEXT ∧ (updating 1 16 []).canonical = true
    ∧ (updating 1 272 []).get F.MGMT_UPDPROG_NEXT = (updating 1 272 []).get F.MGMT_UPDLEN_LENGTH
    ∧ (updating 1 272 []).updAllowed src 0x22 [] = true
    ∧ (updating 3 272 []).updState = 3 ∧ (updating 3 272 []).updAllowed src 0x23 [] = true ∧ (updating 3 272 []).flag F.CMD_STAT_SAVEPEND = false
    ∧ (updating 3 272 []).flag F.CMD_STAT_ZCBUSY = false ∧ (updating 3 272 []).get F.KEYS_STAT_COMMIT = 0
    ∧ b.updAllowed src 0x24 [] = true ∧ b.updState ≠ 0 ∧ b.updAllowed src 0x25 [] = true
    ∧ o.canonical = true ∧ o.updState ≠ 0 ∧ o.get F.MGMT_UPDSTAT_OWNER ≠ ownerNum uart ∧ o.updAllowed uart 0x22 [] = true := by
  decide +kernel

theorem wit_SessionTimeoutAndTrialConfirmation :
    let s := running [(F.MGMT_BOOT_TRIAL, 1), (F.MGMT_BOOT_CONFCNT, 200)]
    let t := { s with mgmt := { s.mgmt with trial := some 1, images := [none, some ⟨5, 1, 0, 0, 0⟩, none] } }
    (updating 1 0 []).canonical = true ∧ (updating 1 0 []).updState ≠ 0
    ∧ t.canonical = true ∧ t.ticking = true ∧ t.trialDone = true ∧ t.mgmt.trial = some 1
    ∧ t.activeImage.all (fun i => decide (i.svn < 128)) = true := by decide +kernel
/-! ### Radio and link -/

/-- The radio, the link and its sampling on, with neighbour entry 3. -/
def radio (l : List (Fld × Nat)) : State :=
  linked 0 ([(F.RADIO_CTRL_EN, 1), (F.LINK_CFG_EN, 1), (F.LINK_CFG_SAMPEN, 1), (F.LINK_ADDR_ADDR, 0x42), (F.RADIO_DUTY_LIMIT, 65535)] ++ l)

/-- The link in a state of its sender and receiver. -/
def linkAs (s : State) (q : List TxFrame) (tx : TxState) (rx : RxState) : State :=
  { s with link := { s.link with queue := q, tx := tx, rx := rx } }

theorem wit_SamplesAndSyncWords :
    let s := { radio [] with link := { (radio []).link with sampleAt := some 5 } }
    let w := linkAs (radio []) [] .idle (.syncWait 2)
    let a := linkAs (radio []) [] (.ackWait .short 73) .sleep
    s.canonical = true ∧ s.link.sampleAt = some 5 ∧ (s.passTo 1 5).sampling = true ∧ (s.passTo 1 5).link.rx = .sleep
    ∧ (s.passTo 1 5).link.tx = .idle ∧ w.canonical = true ∧ w.link.rx = .syncWait 2 ∧ w.link.tx = .idle
    ∧ (w.advance 1).link.rx = .syncWait 2 ∧ (w.advance 1).radioRx = true ∧ (w.advance 1).link.tx = .idle
    ∧ a.canonical = true ∧ (a.advance 1).link.rx = .sleep ∧ (a.advance 1).link.tx = .ackWait .short 73
    ∧ 73 + usCycles 800 ≤ (a.advance 1).uptime + ackListen .short ∧ (a.advance 1).uptime ≤ 73 ∧ (a.advance 1).radioRx = true := by decide +kernel

/-- A DATA frame from neighbour 3, protected under a key. -/
def dataFrame (key : List Nat) : List Byte :=
  ofNats (Frame.bytes ⟨0, true, true, 0x42, 0x1234, 5, none, none, none, 9, 2, [4, 1]⟩ key)

/-- The block receives; the entry's last SEQ and frame counter stand at given values. -/
def receiving (lastSeq rxFc : Nat) : State :=
  linkAs (radio [(F.LINK_NB_B_SEQOK 3, 1), (F.LINK_NB_B_LASTSEQ 3, lastSeq), (F.LINK_NB_E_RXFC 3, rxFc)]) [] .idle .receive

/-- The conditions before step 6 hold, and the payload under the entry's key. -/
def opened (s : State) (b : List Byte) : Option (Option (List Nat)) := match parseFrame (nats b) with
  | some (fr, 0, rest) =>
    let w := (({ s.advance 1 with link := { (s.advance 1).link with rx := .sleep } }).putI F.RADIO_STAT_RSSI 0).bump F.RADIO_CNT_RX 1
    if fr.typ = 0 ∧ fr.dst = w.get F.LINK_ADDR_ADDR ∧ w.entryOf fr.src = some 3 ∧ fr.sec = true ∧ fr.kid = w.get (F.LINK_NB_A_KID 3) then
      (w.slotFor (w.get (F.LINK_NB_A_KEY 3)) 0).1.map (fr.unseal rest)
    else none
  | _ => none

theorem wit_FramesAreReceived :
    let u := (receiving 4 8).advance 1
    (receiving 4 8).canonical = true ∧ u.radioRx = true ∧ u.flag F.LINK_CFG_EN = true ∧ u.link.rx = .receive
    ∧ parseFrame [1, 2, 3] = none ∧ opened (receiving 4 8) (dataFrame (List.replicate 16 8)) = some none
    ∧ opened (receiving 4 8) (dataFrame (List.replicate 16 7)) = some (some [4, 1])
    ∧ u.flag (F.LINK_NB_B_SEQOK 3) = true ∧ u.get (F.LINK_NB_B_LASTSEQ 3) = 4 ∧ u.get (F.LINK_NB_E_RXFC 3) < 9
    ∧ u.ringRoom 4 (slotsFor (dataFrame (List.replicate 16 7)).length) = true
    ∧ (receiving 5 9).canonical = true ∧ opened (receiving 5 9) (dataFrame (List.replicate 16 7)) = some (some [4, 1])
    ∧ ((receiving 5 9).advance 1).get (F.LINK_NB_E_RXFC 3) = 9
    ∧ (receiving 6 9).canonical = true ∧ opened (receiving 6 9) (dataFrame (List.replicate 16 7)) = some (some [4, 1])
    ∧ 64512 ≤ (5 + 65536 - ((receiving 6 9).advance 1).get (F.LINK_NB_B_LASTSEQ 3)) % 65536 := by decide +kernel

/-- A frame of ring 3. -/
def waiting (nb : Option Nat) (kind attempts : Nat) : TxFrame := ⟨nb, kind, [4#8], none, none, 0, 1, attempts, 0, 0, 900⟩

/-- Reservations are recorded. -/
def reserved (s : State) : State :=
  { s with jrn := { s.jrn with image := { s.jrn.image with hid := { s.jrn.image.hid with fcRes := List.replicate 8 4096, seqRes := 512 } } } }

/-- The conditions of WAIT's end, all but the channel's. -/
def mayStart (s : State) (f : TxFrame) (m : Method) : Bool :=
  let u := s.passTo 1 9
  let k := u.course f m (cyclesUs u.uptime)
  u.radioOn && u.taskEnabled 0 && u.flag F.LINK_CFG_EN && (decide (f.kind ≠ 8) || decide (3 ≤ u.get F.FT_PHASE_PHASE)) && !u.bridging
    && !u.ame.xoFail && !u.pins.window && u.link.ack.isNone && decide (u.link.rx ≠ .receive) && u.courseFits f m (cyclesUs u.uptime) k.2.2.1 k.2.2.2 && u.dutyOk k.2.2.1

theorem wit_FramesArePlannedAndStarted :
    let f := waiting (some 3) 0 0
    let s := linkAs (radio []) [f] .idle .sleep
    let j := linkAs (radio []) [waiting none 2 0] .idle .sleep
    let g := linkAs (radio []) [waiting none 8 0] .idle .sleep
    let t := linkAs (radio [(F.LINK_NB_A_CSI 3, 0)]) [f] .idle .sleep
    let b := linkAs (reserved (radio [])) [f] (.wait .short 9 1) .sleep
    let h := linkAs (radio [(F.FT_PHASE_PHASE, 3)]) [waiting none 8 0] (.wait .telegram 9 1) .sleep
    let c := linkAs (radio [(F.RADIO_CCA_EN, 1), (F.RADIO_CCA_THR, 156)]) [f] (.wait .short 9 0) .sleep
    s.canonical = true ∧ s.link.tx = .idle ∧ s.taskEnabled 0 = true ∧ s.flag (F.LINK_NB_A_VALID 3) = true ∧ s.get (F.LINK_NB_A_CSI 3) = 7
    ∧ j.canonical = true ∧ g.canonical = true ∧ t.canonical = true ∧ t.get (F.LINK_NB_A_CSI 3) ≠ 7 ∧ t.flag (F.LINK_NB_B_PHASEOK 3) = false
    ∧ t.flag (F.LINK_NB_A_VALID 3) = true ∧ t.taskEnabled 0 = true ∧ t.copyAir f ≤ 1000 * t.get F.LINK_CFG_TRAINMAX
    ∧ (t.course f .train (cyclesUs t.uptime)).2.2.2 ≤ 19000
    ∧ b.canonical = true ∧ mayStart b f .short = true ∧ (b.passTo 1 9).flag F.RADIO_CCA_EN = false ∧ (b.passTo 1 9).txSec f = true
    ∧ ((b.passTo 1 9).slotFor ((b.passTo 1 9).txSlot f) 0).1.isSome = true
    ∧ (((b.passTo 1 9).slotFor ((b.passTo 1 9).txSlot f) 0).2.numberFrame f).isSome = true
    ∧ h.canonical = true ∧ mayStart h (waiting none 8 0) .telegram = true ∧ (h.passTo 1 9).flag F.RADIO_CCA_EN = false
    ∧ c.canonical = true ∧ mayStart c f .short = true ∧ (c.passTo 1 9).flag F.RADIO_CCA_EN = true
    ∧ (c.passTo 1 9).getI F.RADIO_CCA_THR ≤ Int.neg 100 := by decide +kernel

theorem wit_TransmissionsEndOrRepeat :
    let sending (k : Nat) := linkAs (radio []) [waiting (some 3) k 0] (.send .short 3 9 100) .sleep
    let unheard (a : Nat) := linkAs (radio [(F.LINK_CFG_RETRIES, 3)]) [waiting (some 3) 0 a] (.ackWait .short 9) .sleep
    let v := linkAs (radio []) [waiting (some 3) 0 1] .idle .sleep
    let u := (unheard 0).passTo 1 9
    (sending 0).canonical = true ∧ (sending 2).canonical = true ∧ (sending 8).canonical = true ∧ (unheard 2).canonical = true
    ∧ (unheard 2).get F.LINK_CFG_RETRIES ≤ 2 + 1 ∧ 0 + 1 < (unheard 0).get F.LINK_CFG_RETRIES ∧ u.taskEnabled 0 = true
    ∧ u.flag (F.LINK_NB_A_VALID 3) = true ∧ u.get (F.LINK_NB_A_CSI 3) = 7 ∧ (unheard 0).link.rx ≠ .receive
    ∧ v.canonical = true ∧ (v.passTo 1 0).taskEnabled 0 = true ∧ (v.passTo 1 0).flag (F.LINK_NB_A_VALID 3) = true
    ∧ (v.passTo 1 0).get (F.LINK_NB_A_CSI 3) = 7 := by decide +kernel

theorem wit_LinkTimersFire :
    let a : AckDue := ⟨3, 0, 5, 10⟩
    let s := reserved (radio [])
    let o := { s with link := { s.link with ack := some a } }
    let at10 := o.passTo 1 10
    let w := { at10 with link := { at10.link with ack := none } }
    let x := (w.slotFor (w.get (F.LINK_NB_A_KEY 3)) 0).2
    let e := { radio [(F.LINK_NB_A_KEY 3, 2)] with link := o.link }
    let e10 := e.passTo 1 10
    let j := { radio [(F.LINK_ADDR_ADDR, 0xFFFE), (F.LINK_CFG_JOINEN, 1)] with link := { s.link with joinAt := some 5 } }
    let m (sec : Nat) := { radio [(F.LINK_WMB_EN, 1), (F.LINK_WMB_SEC, sec), (F.LINK_WMB_SLOT, 2)] with link := { s.link with wmbAt := some 5 } }
    let n := { m 0 with regs := (pokes (m 0) [(F.FT_SCHED_KIND 0, 0)]).regs }
    o.canonical = true ∧ (w.slotFor (w.get (F.LINK_NB_A_KEY 3)) 0).1.isSome = true ∧ x.radioOn = true ∧ x.bridging = false
    ∧ x.ame.xoFail = false ∧ x.fitsAir (cyclesUs w.uptime) (airUs w.rate 32 (frameLen false false (w.flag F.LINK_CFG_SAMPEN) true 1)) = true
    ∧ x.fcRoom (w.get (F.LINK_NB_A_KEY 3)) = true
    ∧ e.canonical = true ∧ e.link.ack = some a ∧ (e10.slotFor (e10.get (F.LINK_NB_A_KEY 3)) 0).1 = none
    ∧ j.canonical = true ∧ (j.passTo 1 5).joins = true ∧ (j.passTo 1 5).ringRoom 3 1 = true
    ∧ (m 0).canonical = true ∧ ((m 0).passTo 1 5).radioOn = true ∧ ((m 0).passTo 1 5).flag F.LINK_WMB_EN = true
    ∧ ((m 0).passTo 1 5).taskEnabled 0 = true ∧ ((m 0).passTo 1 5).flag F.LINK_WMB_SEC = false
    ∧ ((m 0).passTo 1 5).ringRoom 3 (slotsFor (((m 0).passTo 1 5).wmbFrame none).length) = true
    ∧ (m 1).canonical = true ∧ ((m 1).passTo 1 5).flag F.LINK_WMB_SEC = true
    ∧ (((m 1).passTo 1 5).slotFor (((m 1).passTo 1 5).get F.LINK_WMB_SLOT) 1).1 = none
    ∧ n.canonical = true ∧ (n.passTo 1 5).taskEnabled 0 = false ∧ (n.passTo 1 5).radioOn = true := by decide +kernel

/-! ### Display and keypad -/

/-- The display in a mode with an update running. -/
def showing (mode : Nat) (r : Option DispRun) : State :=
  let s := running [(F.DISP_CTRL_EN, 1), (F.DISP_CTRL_MODE, mode)]
  { s with disp := { s.disp with run := r, installDue := true, lcd := true } }

theorem wit_DisplayUpdatesEnd :
    let r : DispRun := ⟨0, 1, false, [(0, 1)], [⟨3, [(20, 4)]⟩], 0, 9, false, 0, 7⟩
    (showing 1 none).canonical = true ∧ ((showing 1 none).advance 1).disp.installDue = true ∧ ((showing 1 none).advance 1).disp.lcd = true
    ∧ ((showing 1 none).advance 1).dispMode = 1
    ∧ (showing 2 (some r)).canonical = true ∧ r.segs.all (fun d => decide (d.seg < 72)) = true ∧ r.target ≠ []
    ∧ (showing 2 (some r)).windowHolds 9 = false
    ∧ (showing 2 (some { r with kind := 1 })).canonical = true ∧ (showing 2 (some { r with discharge := true })).canonical = true
    ∧ (showing 2 none).canonical = true ∧ (showing 2 none).disp.lcd = true ∧ (showing 2 none).dispMode ≠ 1 := by decide +kernel

theorem wit_PagesAndKeys :
    let s := running [(F.DISP_CTRL_EN, 1), (F.DISP_CTRL_MODE, 2), (F.DISP_NAV_RETURN, 30), (F.DISP_NAV_SCROLL, 10), (F.DISP_PAGE_EN 0, 0), (F.DISP_PAGE_EN 1, 1)]
    let k := { s with kpd := { s.kpd with scanning := true, entry := [4, 2] } }
    let d := { s with kpd := { s.kpd with down := some 4 } }
    let h := stageAt .hibernate [(F.PWR_CTRL_WAKE_KEY, 1)]
    let back := s.passTo 1 (s.disp.keyAt + secs (s.get F.DISP_NAV_RETURN))
    let on := s.passTo 1 (s.disp.scrollAt + secs (s.get F.DISP_NAV_SCROLL))
    s.canonical = true ∧ s.get F.DISP_NAV_RETURN ≠ 0 ∧ s.dispMode ≠ 0 ∧ back.flag (F.DISP_PAGE_EN 1) = true
    ∧ back.flag (F.DISP_PAGE_EN 0) = false ∧ s.get F.DISP_NAV_SCROLL ≠ 0 ∧ on.disp.page < 16
    ∧ on.flag (F.DISP_PAGE_EN ((on.disp.page + 1) % 16)) = true
    ∧ k.canonical = true ∧ (k.advance 1).coreAlive = true ∧ (k.advance 1).kpd.scanning = true ∧ (k.advance 1).kpd.down = none
    ∧ (k.advance 1).kpd.queue.length < 16 ∧ k.kpd.entry ≠ [] ∧ d.canonical = true ∧ (d.advance 1).kpd.down ≠ none
    ∧ h.canonical = true ∧ (h.advance 1).pow.stage = .hibernate ∧ (h.advance 1).flag F.PWR_CTRL_WAKE_KEY = true := by decide +kernel

/-! ### The whole block -/

theorem wit_EveryStepKeepsStoresCanonical :
    State.reset.canonical = true ∧ (match step State.reset with | .next t => decide (t = State.reset) | _ => false) = true := by decide +kernel

/-- The debug cells are programmed, and a keypad event is at the front of the queue. -/
def debugged : State :=
  { running [] with keys := { (running []).keys with cells := ⟨1, 0, true, true, [false, false, false]⟩ }, pending := [.keyReleased 1, .keypadWake 1] }

theorem wit_NoStepClearsADebugCell :
    debugged.keys.cells.dbgB = true ∧ debugged.keys.cells.dbgR = true
    ∧ (match step debugged with | .next t => decide (t.pending = [.keypadWake 1] ∧ t.keys.cells = debugged.keys.cells) | _ => false) = true := by
  decide +kernel
/-! ### Well-formedness: an ill-formed command for each check, which the check refuses -/

theorem wf_character : (Instr.keyPassword .uart bare .reader ['a', Char.ofNat 7]).wf = false := by decide
theorem wf_space : (Instr.token .uart bare [' ']).wf = false := by decide
theorem wf_length : (Instr.keyLoad .uart bare (List.replicate 256 'A')).wf = false := by decide +kernel
theorem wf_tag_character : (Instr.status .uart ⟨['#'], false⟩).wf = false := by decide
theorem wf_tag_length : (Instr.status .uart ⟨List.replicate 9 'A', false⟩).wf = false := by decide
theorem wf_name : (Instr.showObj .uart bare (.name [])).wf = false := by decide
theorem wf_address : (Instr.registerWrite uart (2 ^ 32) 0#32).wf = false := by decide +kernel
theorem wf_value : (Instr.set .uart bare (.addr 0) []).wf = false := by decide
theorem wf_secret : (Instr.login .uart bare .reader (some [])).wf = false := by decide
theorem wf_class : (Instr.objectSet 3 true 0#8 65536 (zeros 6) 2 []).wf = false := by decide +kernel
theorem wf_obis : (Instr.objectSet 3 true 0#8 3 (zeros 5) 2 []).wf = false := by decide
theorem wf_index : (Instr.objectAction 3 true 0#8 3 (zeros 6) 256 []).wf = false := by decide
theorem wf_select : (Instr.objectGet 3 true 0#8 7 (zeros 6) 2 (some (1, 1, 256))).wf = false := by decide
theorem wf_sample : (Instr.captureEnd [0, 8192] []).wf = false := by decide
theorem wf_sign_on : (Instr.signOnRequest 0 [Char.ofNat 13]).wf = false := by decide
theorem wf_option : (Instr.optionSelect 0 '5' (Char.ofNat 200)).wf = false := by decide
theorem wf_tunnelled : (Instr.aclLine 3 true 0#8 (List.replicate 256 0x41#8)).wf = false := by decide +kernel
theorem wf_frame : (Instr.frameReceived 0 ⟨List.replicate 2050 0#8, 0⟩).wf = false := by decide +kernel
theorem wf_accepts : (Instr.get .uart ⟨['7', 'a'], true⟩ (.name (txt "BILL.CFG")) false false none).wf = true
    ∧ (Instr.captureEnd [-8192, 8191] []).wf = true := by decide +kernel

/-! ### Values worked out from the spec and from the standards that it names -/

/-- FIPS 197, appendices C.1 and C.3. -/
theorem test_aes : aesEnc (natBytes 16 0x000102030405060708090A0B0C0D0E0F) (natBytes 16 0x00112233445566778899AABBCCDDEEFF)
      = natBytes 16 0x69C4E0D86A7B0430D8CDB78070B4C55A
    ∧ aesDec (natBytes 32 0x000102030405060708090A0B0C0D0E0F101112131415161718191A1B1C1D1E1F)
      (natBytes 16 0x8EA2B7CA516745BFEAFC49904B496089) = natBytes 16 0x00112233445566778899AABBCCDDEEFF := by decide +kernel

/-- RFC 4493, example 2. -/
theorem test_cmac : cmac (natBytes 16 0x2B7E151628AED2A6ABF7158809CF4F3C) (natBytes 16 0x6BC1BEE22E409F96E93D7E117393172A)
    = natBytes 16 0x070A16B46B4D4144F79BDD9DD04A287C := by decide +kernel

/-- RFC 3394, section 4.1. -/
theorem test_unwrap : unwrapKey (natBytes 16 0x000102030405060708090A0B0C0D0E0F)
    (natBytes 24 0x1FA68B0A8112B447AEF34BD8FB5A7B829D3E862371D2CFE5) = some (natBytes 16 0x00112233445566778899AABBCCDDEEFF) := by
  decide +kernel

/-- FIPS 180-4: the digest of "abc". -/
theorem test_sha : sha256 [0x61, 0x62, 0x63]
    = natBytes 32 0xBA7816BF8F01CFEA414140DE5DAE2223B00361A396177A9CB410FF61F20015AD := by decide +kernel

/-- R128 and R473: the check values of the two codes over "123456789". -/
theorem test_crc : crc16 ((txt "123456789").map Char.toNat) = 0x29B1 ∧ crc32 (textBytes (txt "123456789")) = 0xCBF43926 := by decide +kernel

/-- R282: 2000-01-01 is a Saturday; and the worked example of Table 8.2: 2031-03-02T08:00:00 is 983,520,000 s. -/
theorem test_calendar : (secToCal 0).wday = 6 ∧ (calToSec 31 3 2 8 0 0).1 = 983520000 ∧ (calToSec 100 2 29 0 0 0).1 % 86400 = 0
    ∧ (secToCal (calToSec 100 2 29 0 0 0).1).day = 29 := by decide +kernel

/-- Table 8.2: a write of 983,520,000 at 983,491,199 + 0xFFFC/65536 s lands at the second edge, a step of 28,800 s. -/
theorem test_write_on_rollover :
    let s := ticking [(F.RTC_SEC_SEC, 983491199), (F.RTC_FRAC_FRAC, 0xFFFC)]
    (match exec .timeWriteApplied { s with rtc := { s.rtc with wr := some (983520000, 2) } } with
      | .next t => decide (t.get F.RTC_SEC_SEC = 983520000 ∧ t.get F.RTC_FRAC_FRAC = 0 ∧ t.get F.RTC_STEP_STEP = 28800
          ∧ t.get F.RTC_STEPFRAC_FRAC = 0)
      | _ => false) = true := by decide +kernel

/-- The first admission example of the architecture chapter: 27.5 ms, with shots of 0.6 ms. -/
theorem test_admission :
    let path (n : Nat) : List (Fld × Nat) := [(F.AME_P_PORT_EN n, 1), (F.AME_P_PORT_PORTD n, 1), (F.AME_P_FIRE_DIV n, 96), (F.AME_P_FIRE_CYCLES n, 1),
      (F.AME_P_FIRE_CPC n, 0), (F.AME_P_FIRE_LOG2LEN n, 3), (F.AME_P_FIRE_KIND n, 0), (F.AME_P_TIME_GAP n, 350), (F.AME_P_TIME_WINDLY n, 672),
      (F.AME_P_RX_CAPLEN n, 2), (F.AME_P_RX_FSDIV n, 0)]
    let shot (p : Nat) : Nat := 1 + 16 * p + 64 + 2048 * 16 + 65536
    let serve (t slice : Nat) : Nat := 3 + 16 * t + 256 * slice
    let s := running ([(F.FT_PERIOD_N, 8), (F.MP_CFG_PATHS 0, 3)] ++ path 0 ++ path 1)
    costOf s.rd (entriesOf ([shot 0, shot 1, 2 + 64 + 2048 + 65536 * 4, serve 0 400, serve 1 100, serve 2 800, serve 3 200, 0].map word)) = 2750 := by
  decide +kernel

/-- Table 10.7, steps 1 and 2: the total heat of MPA read over the link. -/
theorem test_link_read :
    let s := (linked 0 [(F.MP_CTRL_EN 0, 1), (F.MP_CFG_APPL 0, 1)])
    let t := s.addReg 0 1 (12345678901 * 65536 + 34078)
    (match exec (.objectGet 3 true 7#8 3 [6#8, 1#8, 1#8, 8#8, 0#8, 0xFF#8] 2 none) t with
      | .next u => decide (u.link.outbox = [(3, [0x81#8, 7#8, 0#8, 0x15#8, 0#8, 0#8, 0#8, 2#8, 0xDF#8, 0xDC#8, 0x1C#8, 0x35#8])])
      | _ => false) = true := by decide +kernel
end Sys2Proof.Tests
end

section
/-! PROOF. R272: the rollover of the largest time. The trim of a run of edges adds up over its parts, so `Counted` says of any
stretch of the clock how far the count has come and that a wrap shows; WRAP runs as many edges as reach 2^48 and at most three
units more. -/

namespace Sys2Proof.Machine

/-! ### The corrected cycles of a trim add up -/

/-- No cycle, none corrected. -/
@[simp] theorem trimCount_zero (n : Int) (w : Nat) : trimCount n w 0 = 0 := by simp [trimCount]

/-- The corrected cycles of two stretches of one window follow each other. -/
theorem trimCount_add (n : Int) (w d e : Nat) : trimCount n w (d + e) = trimCount n w d + trimCount n (w + d) e := by
  unfold trimCount
  have h1 : n.natAbs * w / 2 ^ 20 ≤ n.natAbs * (w + d) / 2 ^ 20 := Nat.div_le_div_right (Nat.mul_le_mul_left _ (by omega))
  have h2 : n.natAbs * (w + d) / 2 ^ 20 ≤ n.natAbs * (w + d + e) / 2 ^ 20 :=
    Nat.div_le_div_right (Nat.mul_le_mul_left _ (by omega))
  rw [← Nat.add_assoc]
  dsimp only
  split <;> omega

/-- A position and the same position some windows later see the same corrections. -/
theorem trimCount_window (n : Int) (q w e : Nat) : trimCount n (2 ^ 20 * q + w) e = trimCount n w e := by
  have h (p : Nat) : n.natAbs * (2 ^ 20 * q + p) / 2 ^ 20 = n.natAbs * q + n.natAbs * p / 2 ^ 20 := by
    rw [show n.natAbs * (2 ^ 20 * q + p) = n.natAbs * p + 2 ^ 20 * (n.natAbs * q) by ring,
      Nat.add_mul_div_left _ _ (by norm_num), Nat.add_comm]
  unfold trimCount
  rw [Nat.add_assoc, h, h, Nat.add_sub_add_left]

/-- Whole windows have the trim's value each, and their rest its own corrections. -/
theorem trimCount_windows (n : Int) (q r : Nat) : trimCount n 0 (2 ^ 20 * q + r) = n * q + trimCount n 0 r := by
  have h0 : trimCount n 0 (2 ^ 20 * q) = n * q := by
    unfold trimCount
    rw [Nat.zero_add, Nat.mul_zero, Nat.zero_div, Nat.sub_zero, show n.natAbs * (2 ^ 20 * q) = 2 ^ 20 * (n.natAbs * q) by ring,
      Nat.mul_div_cancel_left _ (by norm_num)]
    push_cast
    split
    · rw [abs_of_nonneg ‹_›]
    · rw [abs_of_neg (by omega)]; ring
  have hw := trimCount_window n q 0 r
  rw [Nat.add_zero] at hw
  rw [trimCount_add, h0, Nat.zero_add, hw]

/-- A trim of at most a window's length corrects a cycle at most once. -/
theorem trimCount_one {n : Int} (hn : n.natAbs ≤ 2 ^ 20) (w : Nat) : -1 ≤ trimCount n w 1 ∧ trimCount n w 1 ≤ 1 := by
  unfold trimCount
  rw [Nat.mul_add, Nat.mul_one]
  dsimp only
  split <;> omega

/-- A trim of at most 2^10 takes no more than one cycle in 2^10, and one for the place in the window. -/
theorem trimCount_ge {n : Int} (hn : n.natAbs ≤ 2 ^ 10) (w e : Nat) : -((e / 2 ^ 10 + 1 : Nat) : Int) ≤ trimCount n w e := by
  have h : n.natAbs * e ≤ 2 ^ 10 * e := Nat.mul_le_mul_right _ hn
  unfold trimCount
  rw [Nat.mul_add]
  dsimp only
  split <;> omega

/-! ### The units of a run of edges -/

/-- A run that stays in its window. -/
theorem trimmed_inside {a v : Int} {w e : Nat} (h : w + e < 2 ^ 20) :
    trimmed a v w e = (2 * (e : Int) + 2 * trimCount a w e, w + e, a) := if_pos h

/-- A run that reaches the next window: APPLIED up to it, VAL from it on. -/
theorem trimmed_across {a v : Int} {w e : Nat} (h : 2 ^ 20 ≤ w + e) :
    trimmed a v w e = (2 * (e : Int) + 2 * (trimCount a w (2 ^ 20 - w) + trimCount v 0 (e - (2 ^ 20 - w))),
      (e - (2 ^ 20 - w)) % 2 ^ 20, v) := by
  have hs := trimCount_windows v ((e - (2 ^ 20 - w)) / 2 ^ 20) ((e - (2 ^ 20 - w)) % 2 ^ 20)
  rw [Nat.div_add_mod] at hs
  unfold trimmed
  rw [if_neg (by omega), hs, ← Int.add_assoc]

/-- Under one trim, from a position inside a window, the units do not show where the windows start. -/
theorem trimmed_uniform (n : Int) {w : Nat} (hw : w < 2 ^ 20) (e : Nat) :
    (trimmed n n w e).1 = 2 * (e : Int) + 2 * trimCount n w e := by
  by_cases h : w + e < 2 ^ 20
  · rw [trimmed_inside h]
  · have hp := trimCount_window n 1 0 (e - (2 ^ 20 - w))
    have ha := trimCount_add n w (2 ^ 20 - w) (e - (2 ^ 20 - w))
    rw [show 2 ^ 20 - w + (e - (2 ^ 20 - w)) = e by omega, show w + (2 ^ 20 - w) = 2 ^ 20 * 1 + 0 by omega, hp] at ha
    rw [trimmed_across (by omega), ha]

/-- The units of a run are those of its first part and those of the rest, from the window position and the trim that the first part
leaves. -/
theorem trimmed_add (a v : Int) (w d e : Nat) :
    (trimmed a v w (d + e)).1
      = (trimmed a v w d).1 + (trimmed (trimmed a v w d).2.2 v (trimmed a v w d).2.1 e).1 := by
  by_cases hd : w + d < 2 ^ 20
  · rw [trimmed_inside hd]
    dsimp only
    by_cases he : w + d + e < 2 ^ 20
    · rw [trimmed_inside (by omega), trimmed_inside he, trimCount_add]
      push_cast
      ring
    · have ha := trimCount_add a w d (2 ^ 20 - (w + d))
      rw [show d + (2 ^ 20 - (w + d)) = 2 ^ 20 - w by omega] at ha
      rw [trimmed_across (by omega), trimmed_across (by omega), ha,
        show d + e - (2 ^ 20 - w) = e - (2 ^ 20 - (w + d)) by omega]
      push_cast
      ring
  · have ha := trimCount_add v 0 (d - (2 ^ 20 - w)) e
    have hw := trimCount_window v ((d - (2 ^ 20 - w)) / 2 ^ 20) ((d - (2 ^ 20 - w)) % 2 ^ 20) e
    rw [Nat.div_add_mod] at hw
    rw [Nat.zero_add, hw, show d - (2 ^ 20 - w) + e = d + e - (2 ^ 20 - w) by omega] at ha
    rw [trimmed_across (by omega : 2 ^ 20 ≤ w + d), trimmed_across (by omega : 2 ^ 20 ≤ w + (d + e)),
      trimmed_uniform v (Nat.mod_lt _ (by norm_num)), ha]
    push_cast
    ring

/-- The trim in force after a run is APPLIED or VAL. -/
theorem trimmed_applied (a v : Int) (w e : Nat) : (trimmed a v w e).2.2 = a ∨ (trimmed a v w e).2.2 = v := by
  by_cases h : w + e < 2 ^ 20
  · exact .inl (by rw [trimmed_inside h])
  · exact .inr (by rw [trimmed_across (by omega)])

/-- No edge adds nothing. -/
theorem trimmed_zero (a v : Int) (w : Nat) : (trimmed a v w 0).1 = 0 := by
  by_cases h : w + 0 < 2 ^ 20
  · simp [trimmed_inside h]
  · rw [trimmed_across (by omega), show 2 ^ 20 - w = 0 by omega]
    simp

/-- One edge adds 0 to 4 units (R271). -/
theorem trimmed_one {a v : Int} (ha : a.natAbs ≤ 2 ^ 10) (hv : v.natAbs ≤ 2 ^ 10) (w : Nat) :
    0 ≤ (trimmed a v w 1).1 ∧ (trimmed a v w 1).1 ≤ 4 := by
  have h1 := trimCount_one (n := a) (by omega) w
  have h2 := trimCount_one (n := v) (by omega) 0
  by_cases h : w + 1 < 2 ^ 20
  · rw [trimmed_inside h]
    dsimp only
    omega
  · rw [trimmed_across (by omega)]
    by_cases hw : w < 2 ^ 20
    · rw [show 2 ^ 20 - w = 1 by omega, trimCount_zero]
      dsimp only
      omega
    · rw [show 2 ^ 20 - w = 0 by omega, trimCount_zero, Nat.sub_zero]
      dsimp only
      omega

/-- The trim in force after a run is no larger than the larger of the two. -/
theorem trimmed_applied_le {a v : Int} {m : Nat} (ha : a.natAbs ≤ m) (hv : v.natAbs ≤ m) (w e : Nat) :
    (trimmed a v w e).2.2.natAbs ≤ m := by
  rcases trimmed_applied a v w e with h | h <;> rwa [h]

/-- One edge more adds 0 to 4 units. -/
theorem trimmed_succ {a v : Int} (ha : a.natAbs ≤ 2 ^ 10) (hv : v.natAbs ≤ 2 ^ 10) (w e : Nat) :
    (trimmed a v w e).1 ≤ (trimmed a v w (e + 1)).1 ∧ (trimmed a v w (e + 1)).1 ≤ (trimmed a v w e).1 + 4 := by
  have h := trimmed_one (trimmed_applied_le ha hv w e) hv (trimmed a v w e).2.1
  rw [trimmed_add]
  omega

/-- A run never takes the count back. -/
theorem trimmed_nonneg {a v : Int} (ha : a.natAbs ≤ 2 ^ 10) (hv : v.natAbs ≤ 2 ^ 10) (w e : Nat) : 0 ≤ (trimmed a v w e).1 := by
  induction e with
  | zero => rw [trimmed_zero]
  | succ e ih => exact ih.trans (trimmed_succ ha hv w e).1

/-- A run of 2^49 edges passes the largest count. -/
theorem trimmed_ge {a v : Int} (ha : a.natAbs ≤ 2 ^ 10) (hv : v.natAbs ≤ 2 ^ 10) (w : Nat) :
    2 ^ 48 ≤ (trimmed a v w (2 ^ 49)).1 := by
  have h1 := trimCount_ge ha w (2 ^ 20 - w)
  have h2 := trimCount_ge hv 0 (2 ^ 49 - (2 ^ 20 - w))
  rw [trimmed_across (by omega)]
  dsimp only
  omega

/-! ### What leaves the clock alone -/

/-- A write of the first field shows in no bit of the second. -/
abbrev Fld.apart (f g : Fld) : Prop := g.addr ≠ f.addr ∨ f.lo ≤ f.hi ∧ f.hi < 32 ∧ g.lo ≤ g.hi ∧ (g.hi < f.lo ∨ f.hi < g.lo)

/-- A field write leaves every field apart from it. -/
theorem State.get_put_apart {s : State} {f g : Fld} {v : Nat} (hc : s.canonical = true) (h : f.apart g) :
    (s.put f v).get g = s.get g := by
  rcases h with h | ⟨hl, hh, hg, hd⟩
  · exact State.get_put_ne h
  · exact State.get_put_disjoint hc hl hh hg hd

/-- The fields that the count and its wrap rest on. -/
def clockFields : List Fld :=
  [F.RTC_SEC_SEC, F.RTC_FRAC_FRAC, F.RTC_TRIM_APPLIED, F.RTC_TRIM_VAL, F.RTC_STAT_OSF, F.RTC_STAT_WRAP]

/-- What the clock holds beside its registers: the time write on its way, the place in the trim window, and what it runs from. -/
def State.clockHid (s : State) : Option (Nat × Nat) × Nat × Bool × Bool × Stage :=
  (s.rtc.wr, s.rtc.win, s.rtc.xtRun, s.rtc.started, s.pow.stage)

/-- From a canonical state `t` has been reached with the clock's hidden state and the fields `l` as in `s`. -/
structure ClockKept (l : List Fld) (s t : State) : Prop where
  canonical : t.canonical = true
  hid : t.clockHid = s.clockHid
  get : ∀ g ∈ l, t.get g = s.get g

section
variable {l : List Fld} {s0 s t : State}

theorem ClockKept.refl (hc : s.canonical = true) : ClockKept l s s := ⟨hc, rfl, fun _ _ => rfl⟩

theorem ClockKept.trans (hs : ClockKept l s0 s) (ht : ClockKept l s t) : ClockKept l s0 t :=
  ⟨ht.canonical, ht.hid.trans hs.hid, fun g hg => (ht.get g hg).trans (hs.get g hg)⟩

/-- Fewer fields kept. -/
theorem ClockKept.mono {l' : List Fld} (h : ClockKept l s0 s) (hl : ∀ g ∈ l', g ∈ l) : ClockKept l' s0 s :=
  ⟨h.canonical, h.hid, fun g hg => h.get g (hl g hg)⟩

theorem ClockKept.ite {c : Prop} [Decidable c] (hs : ClockKept l s0 s) (ht : ClockKept l s0 t) :
    ClockKept l s0 (if c then s else t) := by split <;> assumption

theorem ClockKept.foldl {α : Type} {f : State → α → State} {xs : List α} (h : ClockKept l s0 s)
    (hf : ∀ t x, ClockKept l s0 t → ClockKept l s0 (f t x)) : ClockKept l s0 (xs.foldl f s) := by
  induction xs generalizing s with
  | nil => exact h
  | cons x xs ih => exact ih (hf s x h)

/-- An operation that leaves the registers and the clock's hidden state. -/
theorem ClockKept.same_regs (h : ClockKept l s0 s) (hc : t.canonical = true) (hr : t.regs = s.regs)
    (hh : t.clockHid = s.clockHid) : ClockKept l s0 t := by
  refine ⟨hc, hh.trans h.hid, fun g hg => ?_⟩
  rw [← h.get g hg]
  unfold State.get State.rd
  rw [hr]

/-- A write of a field apart from those kept. -/
theorem ClockKept.put {f : Fld} {v : Nat} (h : ClockKept l s0 s) (hf : ∀ g ∈ l, f.apart g) : ClockKept l s0 (s.put f v) :=
  ⟨State.put_canonical h.canonical, h.hid, fun g hg => (State.get_put_apart h.canonical (hf g hg)).trans (h.get g hg)⟩

/-- A write of a register that holds none of the fields kept. -/
theorem ClockKept.wr {a : Nat} {w : Word} (h : ClockKept l s0 s) (ha : ∀ g ∈ l, g.addr ≠ a) : ClockKept l s0 (s.wr a w) := by
  refine ⟨State.wr_canonical h.canonical, h.hid, fun g hg => ?_⟩
  rw [← h.get g hg]
  unfold State.get
  rw [State.rd_wr_ne (ha g hg)]

end

/-- A field of a register at another address than the clock's is apart from its fields. -/
theorem apart_clockFields {f : Fld} (h : f.addr < F.RTC_SEC ∨ F.RTC_TRIM < f.addr) : ∀ g ∈ clockFields, f.apart g := by
  intro g hg
  have hr : F.RTC_SEC ≤ g.addr ∧ g.addr ≤ F.RTC_TRIM := by
    revert g
    decide
  exact .inl (by omega)

section
variable {s0 s : State}

theorem State.linkUntrust_clockKept (h : ClockKept clockFields s0 s) : ClockKept clockFields s0 s.linkUntrust :=
  h.foldl fun _ n ht =>
    (ht.put (apart_clockFields (.inr (by simp only [F.RTC_TRIM, F.LINK_NB_B_PHASEOK, F.LINK_NB_B]; omega)))).put
      (apart_clockFields (.inr (by simp only [F.RTC_TRIM, F.LINK_NB_B_DRIFTOK, F.LINK_NB_B]; omega)))

theorem State.linkShift_clockKept (h : ClockKept clockFields s0 s) (d : Int) : ClockKept clockFields s0 (s.linkShift d) :=
  h.foldl fun _ n ht => .ite
    ((ht.put (apart_clockFields (.inr (by simp only [F.RTC_TRIM, F.LINK_NB_C_PSEC, F.LINK_NB_C]; omega)))).put
      (apart_clockFields (.inr (by simp only [F.RTC_TRIM, F.LINK_NB_D_PFRAC, F.LINK_NB_D]; omega)))) ht

theorem State.wakeCore_clockKept (h : ClockKept clockFields s0 s) : ClockKept clockFields s0 s.wakeCore :=
  .ite (h.put (apart_clockFields (.inl (by decide)))) h

theorem State.setToken_clockKept (h : ClockKept clockFields s0 s) (i v : Nat) : ClockKept clockFields s0 (s.setToken i v) :=
  h.same_regs ((State.setToken_keeps (Keeps.refl s)).2.1 h.canonical) rfl rfl

theorem State.moveToken_clockKept (h : ClockKept clockFields s0 s) (slot v : Nat) :
    ClockKept clockFields s0 (s.moveToken 7 slot v) :=
  have ht := State.setToken_clockKept h slot v
  have hf : ∀ g ∈ clockFields, (F.SYS_RING_B_FILL 7).apart g := apart_clockFields (.inl (by decide))
  .ite ht (.ite (ht.put hf) (ht.put hf))

theorem State.crsWrite_clockKept (h : ClockKept clockFields s0 s) (a : Nat) (bs : List Byte) :
    ClockKept clockFields s0 (s.crsWrite a bs) :=
  h.same_regs ((State.crsWrite_keeps (Keeps.refl s)).2.1 h.canonical) rfl rfl

theorem State.logTrouble_clockKept (h : ClockKept clockFields s0 s) (code source data : Nat) :
    ClockKept clockFields s0 (s.logTrouble code source data) :=
  have hm := State.moveToken_clockKept (State.crsWrite_clockKept (State.moveToken_clockKept h _ _) _ _) _ _
  ((ClockKept.ite (hm.put (apart_clockFields (.inr (by decide)))) hm).put (apart_clockFields (.inr (by decide)))).put
    (apart_clockFields (.inl (by decide)))

theorem State.retPut_clockKept (h : ClockKept clockFields s0 s) (i v : Nat) : ClockKept clockFields s0 (s.retPut i v) :=
  h.put (f := ⟨F.RTC_RET (i / 4), 8 * (i % 4) + 7, 8 * (i % 4)⟩)
    (apart_clockFields (.inr (by simp only [F.RTC_TRIM, F.RTC_RET]; omega)))

theorem State.retPutAll_clockKept (h : ClockKept clockFields s0 s) (i : Nat) (vs : List Nat) :
    ClockKept clockFields s0 (s.retPutAll i vs) := by
  induction vs generalizing s i with
  | nil => exact h
  | cons v vs ih => exact ih (State.retPut_clockKept h i v) (i + 1)

theorem State.retWrite_clockKept (h : ClockKept clockFields s0 s) (i : Nat) (vs : List Nat) :
    ClockKept clockFields s0 (s.retWrite i vs) :=
  State.retPut_clockKept (State.retPut_clockKept (State.retPutAll_clockKept h i vs) _ _) _ _

theorem State.cdtExpire_clockKept (h : ClockKept clockFields s0 s) : ClockKept clockFields s0 s.cdtExpire :=
  have h1 := (h.put (f := F.RTC_CDT_COUNT) (v := 0) (apart_clockFields (.inr (by decide)))).put (f := F.RTC_STAT_CDTEXP) (v := 1)
    (by decide)
  .ite (State.logTrouble_clockKept (State.wakeCore_clockKept h1) _ _ _) (.ite (State.retWrite_clockKept h1 _ _) h1)

theorem State.cdtEdges_clockKept (h : ClockKept clockFields s0 s) (e : Nat) : ClockKept clockFields s0 (s.cdtEdges e) :=
  have h1 := h.same_regs (t := { s with rtc := { s.rtc with pre := (s.rtc.pre + e) % 128 } }) h.canonical rfl rfl
  .ite h1 (.ite (State.cdtExpire_clockKept h1) (h1.put (apart_clockFields (.inr (by decide)))))

theorem State.latchCapture_clockKept (h : ClockKept clockFields s0 s) : ClockKept clockFields s0 s.latchCapture :=
  ((((h.put (by decide)).put (by decide)).wr (by decide)).wr (by decide)).put (by decide)

end

/-! ### The count over a stretch of the clock -/

/-- The units that `e` edges add to the count. -/
def State.gain (s : State) (e : Nat) : Nat :=
  if s.rtc.xtRun then (trimmed (s.getI F.RTC_TRIM_APPLIED) (s.getI F.RTC_TRIM_VAL) s.rtc.win e).1.toNat else 2 * e

/-- OSF is set, with cause WRAP. -/
def State.wrapShown (s : State) : Bool := s.flag F.RTC_STAT_OSF && s.flag F.RTC_STAT_WRAP

/-- The clock has run over `e` edges from `s` to `t`: the count has come that far round, and where no edge among them applied a time
write, a wrap shows. -/
structure Counted (write : Bool) (s t : State) (e : Nat) : Prop where
  canonical : t.canonical = true
  counting : t.counting = s.counting
  wr : t.rtc.wr = s.rtc.wr
  count : t.count = (s.count + s.gain e) % 2 ^ 48
  gain : ∀ d, s.gain (e + d) = s.gain e + t.gain d
  shown : s.wrapShown = true ∨ (write = false ∧ 2 ^ 48 ≤ s.count + s.gain e) → t.wrapShown = true

/-- SEC and FRAC fill the count's 48 bits. -/
theorem State.count_lt (s : State) : s.count < 2 ^ 48 := by
  have h1 : s.sec < 2 ^ 32 := Nat.mod_lt _ (by decide)
  have h2 : s.frac < 2 ^ 16 := Nat.mod_lt _ (by decide)
  unfold State.count
  omega

@[simp] theorem State.gain_zero (s : State) : s.gain 0 = 0 := by
  simp [State.gain, trimmed_zero]

/-- One stretch after another. -/
theorem Counted.trans {write : Bool} {s t u : State} {d e : Nat} (h : Counted write s t d) (k : Counted write t u e) :
    Counted write s u (d + e) where
  canonical := k.canonical
  counting := k.counting.trans h.counting
  wr := k.wr.trans h.wr
  count := by rw [k.count, h.count, h.gain, Nat.mod_add_mod, Nat.add_assoc]
  gain c := by rw [Nat.add_assoc, h.gain, k.gain, h.gain, Nat.add_assoc]
  shown hs := by
    have hlt := s.count_lt
    rw [h.gain] at hs
    by_cases hw : s.wrapShown = true ∨ (write = false ∧ 2 ^ 48 ≤ s.count + s.gain d)
    · exact k.shown (.inl (h.shown hw))
    · refine k.shown (.inr ?_)
      rw [h.count]
      rcases hs with hs | ⟨hf, hs⟩
      · exact absurd (.inl hs) hw
      · have hd : ¬ 2 ^ 48 ≤ s.count + s.gain d := fun hd => hw (.inr ⟨hf, hd⟩)
        rw [Nat.mod_eq_of_lt (by omega)]
        exact ⟨hf, by omega⟩

section
variable {l : List Fld} {s t : State} (h : ClockKept l s t)
include h

theorem ClockKept.wr_eq : t.rtc.wr = s.rtc.wr := congrArg (·.1) h.hid

theorem ClockKept.win_eq : t.rtc.win = s.rtc.win := congrArg (·.2.1) h.hid

theorem ClockKept.xtRun_eq : t.rtc.xtRun = s.rtc.xtRun := congrArg (·.2.2.1) h.hid

theorem ClockKept.counting_eq : t.counting = s.counting :=
  congrArg (fun x : Option (Nat × Nat) × Nat × Bool × Bool × Stage => x.2.2.1 || (x.2.2.2.1 && decide (x.2.2.2.2 ≠ .backup))) h.hid

theorem ClockKept.count_eq (hs : F.RTC_SEC_SEC ∈ l) (hf : F.RTC_FRAC_FRAC ∈ l) : t.count = s.count := by
  simp only [State.count, State.sec, State.frac, h.get _ hs, h.get _ hf]

theorem ClockKept.gain_eq (ha : F.RTC_TRIM_APPLIED ∈ l) (hv : F.RTC_TRIM_VAL ∈ l) (e : Nat) : t.gain e = s.gain e := by
  simp only [State.gain, State.getI, h.get _ ha, h.get _ hv, h.win_eq, h.xtRun_eq]

theorem ClockKept.wrapShown_eq (ho : F.RTC_STAT_OSF ∈ l) (hw : F.RTC_STAT_WRAP ∈ l) : t.wrapShown = s.wrapShown := by
  simp only [State.wrapShown, State.flag, h.get _ ho, h.get _ hw]

end

/-- What leaves the clock alone counts no edge. -/
theorem ClockKept.counted {write : Bool} {s t : State} (h : ClockKept clockFields s t) : Counted write s t 0 where
  canonical := h.canonical
  counting := h.counting_eq
  wr := h.wr_eq
  count := by rw [h.count_eq (by decide) (by decide), State.gain_zero, Nat.add_zero, Nat.mod_eq_of_lt s.count_lt]
  gain d := by rw [h.gain_eq (by decide) (by decide), State.gain_zero, Nat.zero_add, Nat.zero_add]
  shown := by
    have hlt := s.count_lt
    rw [h.wrapShown_eq (by decide) (by decide), State.gain_zero]
    rintro (hs | ⟨-, hs⟩)
    · exact hs
    · omega

/-! ### The edges -/

/-- A field reads what was written into it, reduced to its width. -/
theorem State.get_put_mod {s : State} {f : Fld} {v : Nat} (hc : s.canonical = true) (hl : f.lo ≤ f.hi) (hh : f.hi < 32) :
    (s.put f v).get f = v % 2 ^ (f.hi + 1 - f.lo) := by
  unfold State.get State.put
  rw [State.rd_wr_self hc, bitsOf_withBits_same hl hh]

/-- OSF with cause WRAP shows the wrap. -/
theorem State.setOsf_wrapShown {s : State} (hc : s.canonical = true) : (s.setOsf F.RTC_STAT_WRAP).wrapShown = true := by
  have hc1 : (s.set1 F.RTC_STAT_OSF).canonical = true := State.put_canonical hc
  have hk := (State.linkUntrust_clockKept (ClockKept.refl (State.put_canonical (f := F.RTC_STAT_WRAP) (v := 1) hc1))).get
  have hosf : (s.setOsf F.RTC_STAT_WRAP).get F.RTC_STAT_OSF = 1 := by
    refine (hk _ (by decide)).trans ?_
    rw [State.get_put_apart hc1 (by decide)]
    exact State.get_put_self hc (by decide) (by decide) (by decide)
  have hwrap : (s.setOsf F.RTC_STAT_WRAP).get F.RTC_STAT_WRAP = 1 :=
    (hk _ (by decide)).trans (State.get_put_self hc1 (by decide) (by decide) (by decide))
  simp [State.wrapShown, State.flag, hosf, hwrap]

/-- And it leaves the count and the trim. -/
theorem State.setOsf_clockKept {s : State} (hc : s.canonical = true) :
    ClockKept [F.RTC_SEC_SEC, F.RTC_FRAC_FRAC, F.RTC_TRIM_APPLIED, F.RTC_TRIM_VAL] s (s.setOsf F.RTC_STAT_WRAP) :=
  have h := ((ClockKept.refl hc).put (f := F.RTC_STAT_OSF) (v := 1) (by decide)).put (f := F.RTC_STAT_WRAP) (v := 1) (by decide)
  h.trans ((State.linkUntrust_clockKept (.refl h.canonical)).mono (by decide))

/-- SEC and FRAC written from a count. -/
def State.putCount (s : State) (c : Nat) : State := (s.put F.RTC_SEC_SEC (c / 65536)).put F.RTC_FRAC_FRAC (c % 65536)

theorem State.setCount_eq (s : State) (write : Bool) (c : Nat) :
    s.setCount write c = if 2 ^ 48 ≤ c ∧ !write then (s.putCount c).setOsf F.RTC_STAT_WRAP else s.putCount c := rfl

theorem State.putCount_clockKept {s : State} (hc : s.canonical = true) (c : Nat) :
    ClockKept [F.RTC_TRIM_APPLIED, F.RTC_TRIM_VAL, F.RTC_STAT_OSF, F.RTC_STAT_WRAP] s (s.putCount c) :=
  ((ClockKept.refl hc).put (by decide)).put (by decide)

theorem State.putCount_count {s : State} (hc : s.canonical = true) (c : Nat) : (s.putCount c).count = c % 2 ^ 48 := by
  have hc1 : (s.put F.RTC_SEC_SEC (c / 65536)).canonical = true := State.put_canonical hc
  have hsec : (s.putCount c).sec = c / 65536 % 2 ^ 32 :=
    (State.get_put_apart hc1 (by decide)).trans (State.get_put_mod hc (by decide) (by decide))
  have hfrac : (s.putCount c).frac = c % 65536 :=
    State.get_put_self hc1 (by decide) (by decide) (Nat.mod_lt _ (by decide))
  rw [State.count, hsec, hfrac]
  omega

/-- A count set is the count shown, round its 48 bits. -/
theorem State.setCount_count {s : State} (hc : s.canonical = true) (write : Bool) (c : Nat) :
    (s.setCount write c).count = c % 2 ^ 48 := by
  have hp := State.putCount_clockKept hc c
  rw [State.setCount_eq]
  split
  · exact ((State.setOsf_clockKept hp.canonical).count_eq (by decide) (by decide)).trans (State.putCount_count hc c)
  · exact State.putCount_count hc c

theorem State.setCount_clockKept {s : State} (hc : s.canonical = true) (write : Bool) (c : Nat) :
    ClockKept [F.RTC_TRIM_APPLIED, F.RTC_TRIM_VAL] s (s.setCount write c) := by
  have hp := (State.putCount_clockKept hc c).mono (l' := [F.RTC_TRIM_APPLIED, F.RTC_TRIM_VAL]) (by decide)
  rw [State.setCount_eq]
  exact .ite (hp.trans ((State.setOsf_clockKept hp.canonical).mono (by decide))) hp

/-- A wrap shows once the count passes 2^48, and one that shows stays. -/
theorem State.setCount_wrapShown {s : State} (hc : s.canonical = true) {write : Bool} {c : Nat}
    (h : s.wrapShown = true ∨ (write = false ∧ 2 ^ 48 ≤ c)) : (s.setCount write c).wrapShown = true := by
  have hp := State.putCount_clockKept hc c
  rw [State.setCount_eq]
  split
  · exact State.setOsf_wrapShown hp.canonical
  · rename_i hn
    rcases h with h | ⟨hw, hc⟩
    · exact (hp.wrapShown_eq (by decide) (by decide)).trans h
    · exact absurd ⟨hc, by rw [hw]; rfl⟩ hn

/-! ### The trim of a state -/

/-- A field of eleven bits in two's complement is at most 2^10. -/
theorem toSigned_eleven (x : Nat) : (toSigned 11 x).natAbs ≤ 2 ^ 10 := by
  unfold toSigned
  split <;> omega

theorem State.applied_le (s : State) : (s.getI F.RTC_TRIM_APPLIED).natAbs ≤ 2 ^ 10 := toSigned_eleven _

theorem State.val_le (s : State) : (s.getI F.RTC_TRIM_VAL).natAbs ≤ 2 ^ 10 := toSigned_eleven _

/-- The pattern of a value of eleven bits reads as that value. -/
theorem toSigned_ofSigned_eleven (x : Nat) : toSigned 11 (ofSigned 11 (toSigned 11 x)) = toSigned 11 x := by
  unfold toSigned ofSigned
  split <;> split <;> omega

/-- The trim that a run of edges leaves: APPLIED and the place in the window. -/
def State.trimTo (s : State) (e : Nat) : State :=
  let r := trimmed (s.getI F.RTC_TRIM_APPLIED) (s.getI F.RTC_TRIM_VAL) s.rtc.win e
  { s.putI F.RTC_TRIM_APPLIED r.2.2 with rtc := { s.rtc with win := r.2.1 } }

theorem State.trimTo_canonical {s : State} (hc : s.canonical = true) (e : Nat) : (s.trimTo e).canonical = true :=
  State.put_canonical (s := s) hc

/-- The fields apart from APPLIED, after it has changed. -/
theorem State.trimTo_get {s : State} (hc : s.canonical = true) (e : Nat) {g : Fld} (h : F.RTC_TRIM_APPLIED.apart g) :
    (s.trimTo e).get g = s.get g := State.get_put_apart hc h

theorem State.trimTo_applied {s : State} (hc : s.canonical = true) (e : Nat) :
    (s.trimTo e).getI F.RTC_TRIM_APPLIED
      = (trimmed (s.getI F.RTC_TRIM_APPLIED) (s.getI F.RTC_TRIM_VAL) s.rtc.win e).2.2 := by
  have hx : ∃ x, (trimmed (s.getI F.RTC_TRIM_APPLIED) (s.getI F.RTC_TRIM_VAL) s.rtc.win e).2.2 = toSigned 11 x := by
    rcases trimmed_applied (s.getI F.RTC_TRIM_APPLIED) (s.getI F.RTC_TRIM_VAL) s.rtc.win e with h | h
    · exact ⟨s.get F.RTC_TRIM_APPLIED, h⟩
    · exact ⟨s.get F.RTC_TRIM_VAL, h⟩
  obtain ⟨x, hx⟩ := hx
  have hg : (s.trimTo e).get F.RTC_TRIM_APPLIED = ofSigned 11 (toSigned 11 x) := by
    rw [← hx]
    refine State.get_put_self hc (by decide) (by decide) ?_
    unfold ofSigned
    simp only [F.RTC_TRIM_APPLIED]
    omega
  rw [hx, ← toSigned_ofSigned_eleven, ← hg]
  rfl

theorem State.gain_of_xtRun {s : State} (h : s.rtc.xtRun = true) (e : Nat) :
    s.gain e = (trimmed (s.getI F.RTC_TRIM_APPLIED) (s.getI F.RTC_TRIM_VAL) s.rtc.win e).1.toNat := if_pos h

theorem State.gain_of_not_xtRun {s : State} (h : s.rtc.xtRun = false) (e : Nat) : s.gain e = 2 * e := by
  simp [State.gain, h]

/-- The units of a run add up over its parts, the second from the trim that the first leaves. -/
theorem State.gain_trimTo {s : State} (hc : s.canonical = true) (hx : s.rtc.xtRun = true) (e d : Nat) :
    s.gain (e + d) = s.gain e + (s.trimTo e).gain d := by
  have hval : (s.trimTo e).getI F.RTC_TRIM_VAL = s.getI F.RTC_TRIM_VAL := by
    rw [State.getI, State.getI, State.trimTo_get hc e (by decide)]
  rw [State.gain_of_xtRun hx, State.gain_of_xtRun hx, State.gain_of_xtRun (s := s.trimTo e) hx, trimmed_add, hval,
    ← State.trimTo_applied hc e]
  exact Int.toNat_add (trimmed_nonneg s.applied_le s.val_le _ _) (trimmed_nonneg (s.trimTo e).applied_le s.val_le _ _)

/-! ### The edges, by the source that counts them -/

theorem State.edges_of_xtRun {s : State} (hc : s.canonical = true) (h : s.rtc.xtRun = true) (write : Bool) (e : Nat) :
    s.edges write e = ((s.trimTo e).setCount write (s.count + s.gain e)).cdtEdges e := by
  have hn : (s.trimTo e).count = s.count := by
    rw [State.count, State.count, State.sec, State.frac, State.trimTo_get hc e (by decide), State.trimTo_get hc e (by decide)]
    rfl
  rw [← hn, State.gain_of_xtRun h]
  exact if_pos h

theorem State.edges_of_not_xtRun {s : State} (h : s.rtc.xtRun = false) (hr : s.counting = true) (write : Bool) (e : Nat) :
    s.edges write e = s.setCount write (s.count + s.gain e) := by
  simp [State.edges, State.gain, h, hr]

/-- A count set to where the edges take it, from a state `u` that differs from `s` in the trim those edges leave. -/
theorem State.setCount_counted {s u : State} {e : Nat} (write : Bool) (hc : u.canonical = true) (hr : u.counting = s.counting)
    (hw : u.rtc.wr = s.rtc.wr) (hg : ∀ d, s.gain (e + d) = s.gain e + u.gain d) (hs : u.wrapShown = s.wrapShown) :
    Counted write s (u.setCount write (s.count + s.gain e)) e :=
  have hk := State.setCount_clockKept hc write (s.count + s.gain e)
  { canonical := hk.canonical
    counting := hk.counting_eq.trans hr
    wr := hk.wr_eq.trans hw
    count := State.setCount_count hc write _
    gain := fun d => by rw [hg, hk.gain_eq (by decide) (by decide)]
    shown := fun h => State.setCount_wrapShown hc (hs ▸ h) }

/-- Edges of a clock that counts. -/
theorem State.edges_counted {s : State} (hc : s.canonical = true) (hr : s.counting = true) (write : Bool) (e : Nat) :
    Counted write s (s.edges write e) e := by
  cases hx : s.rtc.xtRun with
  | true =>
    have hs : (s.trimTo e).wrapShown = s.wrapShown := by
      rw [State.wrapShown, State.wrapShown, State.flag, State.flag, State.trimTo_get hc e (by decide),
        State.trimTo_get hc e (by decide)]
      rfl
    have h1 := State.setCount_counted (s := s) write (State.trimTo_canonical hc e) rfl rfl (State.gain_trimTo hc hx e) hs
    rw [State.edges_of_xtRun hc hx]
    exact h1.trans (State.cdtEdges_clockKept (ClockKept.refl h1.canonical) e).counted
  | false =>
    have hg (d : Nat) : s.gain (e + d) = s.gain e + s.gain d := by simp only [State.gain_of_not_xtRun hx, Nat.mul_add]
    rw [State.edges_of_not_xtRun hx hr]
    exact State.setCount_counted write hc rfl rfl hg rfl

/-! ### A time write on its way is applied first -/

/-- The clock counts and no time write is on its way. -/
structure ClockFree (t : State) : Prop where
  canonical : t.canonical = true
  counting : t.counting = true
  wr : t.rtc.wr = none

theorem Counted.clockFree {write : Bool} {s t : State} {e : Nat} (k : Counted write s t e) (h : ClockFree s) : ClockFree t :=
  ⟨k.canonical, k.counting.trans h.counting, k.wr.trans h.wr⟩

/-- A write applied leaves the clock's source as it was, and nothing on its way. -/
theorem State.applyTime_clockFree {s : State} (hc : s.canonical = true) (hr : s.counting = true) (v : Nat) :
    ClockFree (s.applyTime v) := by
  unfold State.applyTime
  extract_lets -merge -underBinder old oldFrac step was s1 s2 s3 rec1 src s4 s5
  have hp {f : Fld} {x : Nat} {t : State} (h : ClockKept [] s t) : ClockKept [] s (t.put f x) := h.put (List.forall_mem_nil _)
  have hs1 : ClockKept [] s s1 := hp (hp (hp (.refl hc)))
  have hs2 : ClockKept [] s s2 := hp (hp (hp hs1))
  have hs3 : ClockKept [] s s3 := .ite (hp (hp (hp (hp (hp hs2))))) hs2
  have hs4 : ClockFree s4 := ⟨hs3.canonical, hs3.counting_eq.trans hr, rfl⟩
  have hk := State.linkShift_clockKept (ClockKept.refl hs4.canonical) (65536 * step - oldFrac)
  have hs5 : ClockFree s5 := hk.counted (write := false).clockFree hs4
  split
  · exact hs5
  · exact ⟨hs5.canonical, hs5.counting, hs5.wr⟩

/-- The write's edge is among those that pass. -/
theorem State.writeEdges_clockFree {s : State} {v k e : Nat} (hc : s.canonical = true) (hr : s.counting = true)
    (hw : s.rtc.wr = some (v, k)) (hk : k ≤ e) : ClockFree (s.writeEdges e) := by
  have h1 := State.edges_counted hc hr false (k - 1)
  have h2 := State.edges_counted h1.canonical (h1.counting.trans hr) true (min k 1)
  have h3 := State.applyTime_clockFree h2.canonical (h2.counting.trans (h1.counting.trans hr)) v
  have h4 := (State.edges_counted h3.canonical h3.counting false (e - k)).clockFree h3
  simpa [State.writeEdges, hw, hr, hk] using h4

/-- The write's edge is still to come. -/
theorem State.writeEdges_pending {s : State} {v k e : Nat} (hc : s.canonical = true) (hr : s.counting = true)
    (hw : s.rtc.wr = some (v, k)) (hk : e < k) :
    (s.writeEdges e).canonical = true ∧ (s.writeEdges e).counting = true ∧ (s.writeEdges e).rtc.wr = some (v, k - e) := by
  have h1 := State.edges_counted hc hr false e
  have he : s.writeEdges e = { s.edges false e with rtc := { (s.edges false e).rtc with wr := some (v, k - e) } } := by
    simp [State.writeEdges, hw, hr, Nat.not_le.mpr hk]
  rw [he]
  exact ⟨h1.canonical, h1.counting.trans hr, rfl⟩

theorem State.writeEdges_of_none {s : State} (h : s.rtc.wr = none) (e : Nat) : s.writeEdges e = s.edges false e := by
  simp [State.writeEdges, h]

theorem ClockFree.writeEdges_counted {s : State} (h : ClockFree s) (e : Nat) : Counted false s (s.writeEdges e) e := by
  rw [State.writeEdges_of_none h.wr]
  exact State.edges_counted h.canonical h.counting false e

/-- Time passes to the edge that applies the write, also over the edge that latches a capture. -/
theorem State.clockEdges_clockFree {s : State} {v k : Nat} (hc : s.canonical = true) (hr : s.counting = true)
    (hw : s.rtc.wr = some (v, k)) : ClockFree (s.clockEdges k) := by
  unfold State.clockEdges
  split
  · rename_i h
    obtain ⟨-, -, hk⟩ := h
    rcases Nat.eq_or_lt_of_le hk with hk | hk
    · have h1 := State.writeEdges_clockFree hc hr hw (Nat.le_of_eq hk.symm)
      have h2 := ((State.latchCapture_clockKept (.refl h1.canonical)).counted (write := false)).clockFree h1
      exact (h2.writeEdges_counted (k - 1)).clockFree h2
    · obtain ⟨hc1, hr1, hw1⟩ := State.writeEdges_pending hc hr hw hk
      have h2 := State.latchCapture_clockKept (.refl hc1)
      exact State.writeEdges_clockFree h2.canonical (h2.counting_eq.trans hr1) (h2.wr_eq.trans hw1) (Nat.le_refl _)
  · exact State.writeEdges_clockFree hc hr hw (Nat.le_refl _)

/-! ### The passage of time -/

/-- Beside the edges, time drains the transmitters and moves the uptime on, which are no part of the clock. -/
theorem State.advance_clockKept {s : State} {dt : Nat} (h : (s.clockEdges dt).canonical = true) :
    ClockKept clockFields (s.clockEdges dt) (s.advance dt) :=
  (ClockKept.refl h).same_regs (t := s.advance dt) h rfl rfl

/-- Time that passes with no time write on its way, also over the edge that latches a capture. -/
theorem ClockFree.advance_counted {s : State} (h : ClockFree s) (dt : Nat) : Counted false s (s.advance dt) dt := by
  have hk : Counted false s (s.clockEdges dt) dt := by
    unfold State.clockEdges
    split
    · rename_i hb
      obtain ⟨-, -, hdt⟩ := hb
      have h1 := h.writeEdges_counted 1
      have h2 := h1.trans (State.latchCapture_clockKept (.refl h1.canonical)).counted
      have h3 := h2.trans ((h2.clockFree h).writeEdges_counted (dt - 1))
      rwa [show 1 + 0 + (dt - 1) = dt by omega] at h3
    · exact h.writeEdges_counted dt
  exact hk.trans (State.advance_clockKept hk.canonical).counted

/-! ### The edges to the wrap -/

/-- A test that holds at the lower end of a bisection and fails at the upper holds at the result and fails right after it. -/
theorem bisect_spec {p : Int → Bool} {k : Nat} {lo : Int} (h0 : p lo = true) (h1 : p (lo + (2 ^ k : Nat)) = false) :
    lo ≤ bisect p k lo ∧ p (bisect p k lo) = true ∧ p (bisect p k lo + 1) = false := by
  induction k generalizing lo with
  | zero => exact ⟨Int.le_refl _, h0, h1⟩
  | succ k ih =>
    have hk : (2 ^ (k + 1) : Nat) = 2 ^ k + 2 ^ k := by rw [Nat.pow_succ]; omega
    unfold bisect
    split
    · rename_i hm
      have hr := ih hm (by rwa [Int.add_assoc, ← Int.natCast_add, ← hk])
      exact ⟨Int.le_trans (Int.le_add_of_nonneg_right (Int.natCast_nonneg _)) hr.1, hr.2⟩
    · rename_i hm
      exact ih h0 (by simpa using hm)

/-- One edge adds at most 4 units (R271). -/
theorem State.gain_succ_le (s : State) (e : Nat) : s.gain (e + 1) ≤ s.gain e + 4 := by
  have h := trimmed_succ s.applied_le s.val_le s.rtc.win e
  unfold State.gain
  split <;> omega

/-- 2^49 edges pass the largest count. -/
theorem State.gain_ge (s : State) : 2 ^ 48 ≤ s.gain (2 ^ 49) := by
  have h := trimmed_ge s.applied_le s.val_le s.rtc.win
  unfold State.gain
  split <;> omega

/-- The test by which the model looks for the wrap: after `e` edges the count is below 2^48. -/
def State.beforeWrap (s : State) (e : Int) : Bool :=
  decide ((if s.rtc.xtRun then (trimmed (s.getI F.RTC_TRIM_APPLIED) (s.getI F.RTC_TRIM_VAL) s.rtc.win e.toNat).1 else 2 * e)
    < (2 ^ 48 : Nat) - (s.count : Int))

theorem State.edgesToWrap_eq (s : State) : s.edgesToWrap = (bisect s.beforeWrap 49 0).toNat + 1 := rfl

theorem State.beforeWrap_iff (s : State) (e : Nat) : s.beforeWrap e = true ↔ s.count + s.gain e < 2 ^ 48 := by
  have hn := trimmed_nonneg s.applied_le s.val_le s.rtc.win e
  unfold State.beforeWrap State.gain
  rw [decide_eq_true_iff, Int.toNat_natCast]
  split <;> omega

/-- The edges to the wrap reach 2^48, and pass it by less than one edge's units. -/
theorem State.edgesToWrap_spec (s : State) :
    2 ^ 48 ≤ s.count + s.gain s.edgesToWrap ∧ s.count + s.gain s.edgesToWrap < 2 ^ 48 + 4 := by
  have h0 : s.beforeWrap (0 : Nat) = true := (s.beforeWrap_iff 0).mpr (by rw [State.gain_zero]; exact s.count_lt)
  have h1 : s.beforeWrap (2 ^ 49 : Nat) = false := by
    have hg := s.gain_ge
    rw [Bool.eq_false_iff, Ne, s.beforeWrap_iff]
    omega
  obtain ⟨hle, hlt, hge⟩ := bisect_spec (p := s.beforeWrap) (k := 49) (lo := 0) h0 (by rwa [Int.zero_add])
  obtain ⟨x, hx⟩ := Int.eq_ofNat_of_zero_le hle
  rw [State.edgesToWrap_eq]
  rw [hx] at hlt hge ⊢
  have hl := (s.beforeWrap_iff x).mp hlt
  have hg : ¬ s.count + s.gain (x + 1) < 2 ^ 48 := fun h =>
    Bool.false_ne_true (hge.symm.trans ((s.beforeWrap_iff (x + 1)).mpr h))
  have hs := s.gain_succ_le x
  rw [Int.toNat_natCast]
  omega

/-! ### WRAP -/

/-- With nothing on its way, the edges to the wrap leave SEC at 0 and the wrap shown. -/
theorem ClockFree.advance_edgesToWrap {s : State} (h : ClockFree s) :
    (s.advance s.edgesToWrap).sec = 0 ∧ (s.advance s.edgesToWrap).wrapShown = true := by
  obtain ⟨hge, hlt⟩ := s.edgesToWrap_spec
  have hk := h.advance_counted s.edgesToWrap
  have hc := hk.count
  refine ⟨?_, hk.shown (.inr ⟨rfl, hge⟩)⟩
  unfold State.count at hc hge hlt
  omega

/-- WRAP runs the edges to the wrap from a state with nothing on its way. -/
theorem execWrap_eq {s : State} (hc : s.canonical = true) (hr : s.counting = true) :
    ∃ u, ClockFree u ∧ execWrap s = .next (u.advance u.edgesToWrap) := by
  unfold execWrap
  rw [if_pos hr]
  cases hw : s.rtc.wr with
  | none => exact ⟨s, ⟨hc, hr, hw⟩, rfl⟩
  | some x =>
    have hk := State.clockEdges_clockFree hc hr hw
    exact ⟨s.advance x.2, ((State.advance_clockKept hk.canonical).counted (write := false)).clockFree hk, rfl⟩

/-- Settles O10: WRAP runs the least edges whose units take the count to 2^48, which leaves SEC at 0 and OSF with its cause. -/
theorem largestTimeWraps : Obligations.LargestTimeWraps := by
  intro s hc
  refine ⟨by decide, fun hr => ?_⟩
  obtain ⟨u, hu, he⟩ := execWrap_eq hc hr
  obtain ⟨hsec, hshown⟩ := hu.advance_edgesToWrap
  obtain ⟨hosf, hwrap⟩ := Bool.and_eq_true_iff.mp hshown
  exact ⟨_, he, hsec, hosf, hwrap, hosf⟩

end Sys2Proof.Machine
end

section
/-! PROOF. R358 to R360, R348, R349 and R352: the object service of a link partner. A request is its answer on top of what the
catalogue's GET, SET or ACTION gives (`runs_objectGet`, `runs_objectSet`, `runs_objectAction`); what those give follows case by
case. That method 2 of Disconnect control with prepayment off makes its open request at once is the model's reading (log entry
26). -/

namespace Sys2Proof.Machine

/-! ### What a field write leaves -/

/-- A field write leaves the bits outside the field. -/
theorem getLsbD_withBits_outside {w : Word} {hi lo v i : Nat} (hl : lo ≤ hi) (hh : hi < 32) (h : i < lo ∨ hi < i) :
    (withBits w hi lo v).getLsbD i = w.getLsbD i := by
  have hb : bitsOf (withBits w hi lo v) i i = bitsOf w i i := bitsOf_withBits_disjoint hl hh h (Nat.le_refl i)
  simp only [bitsOf, Nat.add_sub_cancel_left, Nat.pow_one] at hb
  rw [BitVec.getLsbD, BitVec.getLsbD, Nat.testBit_eq_decide_div_mod_eq, Nat.testBit_eq_decide_div_mod_eq, hb]

/-- No register has changed. -/
theorem RegsBut.refl (s : State) (fs : List Fld) : RegsBut s s fs := fun _ _ _ => rfl

/-- A write of one of the fields that may change. -/
theorem RegsBut.put {s t : State} {fs : List Fld} {f : Fld} {v : Nat} (h : RegsBut s t fs) (hc : t.canonical = true) (hf : f ∈ fs)
    (hl : f.lo ≤ f.hi) (hh : f.hi < 32) : RegsBut s (t.put f v) fs := by
  intro a i hi
  rw [← h a i hi]
  by_cases ha : f.addr = a
  · subst ha
    rw [State.put, State.rd_wr_self hc, getLsbD_withBits_outside hl hh (hi f hf rfl)]
  · rw [State.rd_put_ne (Ne.symm ha)]

/-- A one-bit field set reads as set. -/
theorem State.flag_set1 {s : State} {f : Fld} (hc : s.canonical = true) (hl : f.lo ≤ f.hi) (hh : f.hi < 32) :
    (s.set1 f).flag f = true :=
  decide_eq_true (State.get_put_self hc hl hh (Nat.one_lt_two_pow (by omega)))

/-- A field cleared reads as clear. -/
theorem State.flag_clr {s : State} {f : Fld} (hc : s.canonical = true) (hl : f.lo ≤ f.hi) (hh : f.hi < 32) :
    (s.clr f).flag f = false := by
  have h : (s.clr f).get f = 0 := State.get_put_self hc hl hh (Nat.two_pow_pos _)
  simp [State.flag, h]

/-- A write of another field leaves a flag. -/
theorem State.flag_put_apart {s : State} {f g : Fld} {v : Nat} (hc : s.canonical = true) (h : f.apart g) :
    (s.put f v).flag g = s.flag g := by
  rw [State.flag, State.flag, State.get_put_apart hc h]

/-! ### A request runs and is answered -/

section
variable {s t : State} {nb service code : Nat} {inv : Byte} {d : List Byte}

/-- The response of a request that left the link stands behind the messages that wait for the RADIO task. -/
theorem State.objReply_outbox (h : t.link = s.link) : (t.objReply nb service inv code d).link.outbox
    = s.link.outbox ++ [(nb, [byte (service + 0x80), inv, byte code] ++ d)] := by
  rw [← h]
  rfl

/-- A response is all that changes where the request had no effect. -/
theorem State.objReply_only :
    (s.objReply nb service inv code d).link.outbox = s.link.outbox ++ [(nb, [byte (service + 0x80), inv, byte code] ++ d)]
    ∧ s.objReply nb service inv code d
      = { s with link := { s.link with outbox := (s.objReply nb service inv code d).link.outbox } } :=
  ⟨State.objReply_outbox rfl, rfl⟩

end

section
variable {nb : Fin 32} {sec : Bool} {inv : Byte} {cls index : Nat} {obis data d : List Byte} {sel : Option (Nat × Nat × Nat)}
  {s s1 : State} {code : Nat} {p : State → Prop}

/-- A GET in the Service window answers what the catalogue reads. -/
theorem runs_objectGet (hs : s.serviceOpen = true) (h : s.linkGet (s.linkRank nb sec) cls (nats obis) index sel = (code, d))
    (hp : p (s.objReply nb.val 1 inv code d)) : Runs (.objectGet nb sec inv cls obis index sel) s p := by
  refine ⟨_, ?_, hp⟩
  change execObjectGet nb sec inv cls obis index sel s = _
  rw [execObjectGet, if_pos hs, State.objGet, h]

/-- A SET of an unknown object, or of one of another class. -/
theorem runs_objectSet_unknown (hs : s.serviceOpen = true) (hk : s.classOk cls obis = false)
    (hp : p (s.objReply nb.val 2 inv 2 [])) : Runs (.objectSet nb sec inv cls obis index data) s p := by
  refine ⟨_, ?_, hp⟩
  change execObjectSet nb sec inv cls obis index data s = _
  rw [execObjectSet, if_pos hs, State.objSet, hk]
  rfl

/-- A SET in the Service window answers from the state that the write leaves. -/
theorem runs_objectSet (hs : s.serviceOpen = true) (hk : s.classOk cls obis = true)
    (h : s.setAttr (s.linkRank nb sec) (nats obis) index (readVal data) = (code, s1))
    (hp : p (s1.objReply nb.val 2 inv code [])) : Runs (.objectSet nb sec inv cls obis index data) s p := by
  refine ⟨_, ?_, hp⟩
  change execObjectSet nb sec inv cls obis index data s = _
  rw [execObjectSet, if_pos hs, State.objSet, hk, h]
  rfl

/-- An ACTION on an unknown object, or on one of another class. -/
theorem runs_objectAction_unknown (hs : s.serviceOpen = true) (hk : s.classOk cls obis = false)
    (hp : p (s.objReply nb.val 3 inv 2 [])) : Runs (.objectAction nb sec inv cls obis index data) s p := by
  refine ⟨_, ?_, hp⟩
  change execObjectAction nb sec inv cls obis index data s = _
  rw [execObjectAction, if_pos hs, State.objAction, hk]
  rfl

/-- An ACTION in the Service window answers from the state that the method leaves. -/
theorem runs_objectAction (hs : s.serviceOpen = true) (hk : s.classOk cls obis = true)
    (h : s.invokeMethod (s.linkRank nb sec) (nats obis) index (readVal data) = (code, s1))
    (hp : p (s1.objReply nb.val 3 inv code [])) : Runs (.objectAction nb sec inv cls obis index data) s p := by
  refine ⟨_, ?_, hp⟩
  change execObjectAction nb sec inv cls obis index data s = _
  rw [execObjectAction, if_pos hs, State.objAction, hk, h]
  rfl

end

/-! ### What the catalogue answers -/

section
variable {s s1 : State} {k : ObjKind} {o : List Nat} {obis : List Byte} {rank cls a : Nat} {v : Val}
  {sel : Option (Nat × Nat × Nat)}

theorem State.classOk_of_none (h : s.objectAt (nats obis) = none) : s.classOk cls obis = false := by
  simp [State.classOk, h]

theorem State.classOk_of_some (h : s.objectAt (nats obis) = some k) (hc : k.cls = cls) : s.classOk cls obis = true := by
  simp [State.classOk, h, hc]

/-- Every class lists the logical name (R348). -/
theorem ObjKind.one_mem_attrsOf (k : ObjKind) : 1 ∈ attrsOf k.cls := by cases k <;> exact List.mem_cons_self

/-- What has a value is among what the class lists. -/
theorem State.mem_attrsOf_of_attr (h : s.attr k o a = some v) : a ∈ attrsOf k.cls := by
  by_cases h1 : a = 1
  · rw [h1]
    exact k.one_mem_attrsOf
  · by_contra hn
    simp [State.attr, h1, hn] at h

theorem State.linkGet_unknown (h : s.objectAt o = none) : s.linkGet rank cls o a sel = (2, []) := by
  simp [State.linkGet, h]

theorem State.linkGet_of_right (hk : s.objectAt o = some k) (hc : k.cls = cls) (hv : s.attr k o a = some v)
    (hr : k.readRank ≤ rank) (hl : v.enc.length ≤ 224) : s.linkGet rank cls o a none = (0, v.enc) := by
  have ha := State.mem_attrsOf_of_attr hv
  subst hc
  simp [State.linkGet, hk, ha, hv, Nat.not_lt.mpr hr, Nat.not_lt.mpr hl]

/-- A GET without the right: the type at zero, whatever SELECT asks for (R360). -/
theorem State.linkGet_of_noRight (hk : s.objectAt o = some k) (hc : k.cls = cls) (hv : s.attr k o a = some v)
    (hr : rank < k.readRank) : s.linkGet rank cls o a sel = (0, v.zero.enc) := by
  have ha := State.mem_attrsOf_of_attr hv
  subst hc
  simp [State.linkGet, hk, ha, hv, hr]

/-- A SET of what is read-only or without the right: no effect (R360). -/
theorem State.setAttr_of_noRight {x : Option Val} (hk : s.objectAt o = some k) (ha : a ∈ attrsOf k.cls)
    (h : k.writable a = false ∨ rank < s.objWriteRank k) : s.setAttr rank o a x = (0, s) := by
  rcases h with hw | hr
  · simp [State.setAttr, hk, ha, hw]
  · simp [State.setAttr, hk, ha, hr]

/-- A SET with the right is the write of the value, where nothing holds the configuration. -/
theorem State.setAttr_of_right {x : Val} (hk : s.objectAt o = some k) (ha : a ∈ attrsOf k.cls)
    (hw : k.writable a = true) (hr : s.objWriteRank k ≤ rank) (hb : s.objBusy k = false) (h : s.writeAttr k a x = (0, s1)) :
    s.setAttr rank o a (some x) = (0, s1) := by
  simp [State.setAttr, hk, ha, hw, hb, h, Nat.not_lt.mpr hr]

/-- An ACTION without the right: no effect (R360). -/
theorem State.invokeMethod_of_noRight {x : Option Val} (hk : s.objectAt o = some k) (ha : a ∈ methodsOf k.cls)
    (h : rank < 3) : s.invokeMethod rank o a x = (0, s) := by
  simp [State.invokeMethod, hk, ha, h]

/-- An ACTION with the right whose method acts, where nothing holds the configuration. -/
theorem State.invokeMethod_of_right {x : Option Val} (hk : s.objectAt o = some k) (ha : a ∈ methodsOf k.cls)
    (hr : 3 ≤ rank) (hb : s.objBusy k = false) (h : s.method k a x = (0, s1)) : s.invokeMethod rank o a x = (0, s1) := by
  simp [State.invokeMethod, hk, ha, hb, h, Nat.not_lt.mpr hr]

/-- An ACTION with the right whose method has no effect: its code, from the state as it was. -/
theorem State.invokeMethod_of_refused {x : Option Val} {e : Nat} (hk : s.objectAt o = some k)
    (ha : a ∈ methodsOf k.cls) (hr : 3 ≤ rank) (h : s.method k a x = (e + 1, s1)) :
    s.invokeMethod rank o a x = (e + 1, s) := by
  simp [State.invokeMethod, hk, ha, h, Nat.not_lt.mpr hr]

end

/-! ### A write of the Clock (R349) -/

/-- The calendar time of a Clock write in seconds, and whether it was clamped (R284). -/
def calendarSec (w : Word × Word) : Nat × Bool :=
  calToSec (bitsOf w.1 23 16) (bitsOf w.1 11 8) (bitsOf w.1 4 0) (bitsOf w.2 20 16) (bitsOf w.2 13 8) (bitsOf w.2 5 0)

/-- A clamped calendar time shows in CLAMPED, and no date is held any more. -/
def State.noteClamped (s : State) (clamped : Bool) : State :=
  let s1 := if clamped then s.set1 F.RTC_STAT_CLAMPED else s
  { s1 with rtc := { s1.rtc with held := none } }

/-- From `s` a time write of `v` seconds has been started: its edge is the second from now, and no date is held. -/
structure TimeWriteStarted (s t : State) (v : Nat) : Prop where
  busy : t.flag F.RTC_STAT_WBUSY = true
  held : t.rtc.held = none
  wr : t.rtc.wr = some (v % 2 ^ 32, 2)
  regs : RegsBut s t [F.RTC_STAT_WBUSY, F.RTC_STAT_CLAMPED]
  link : t.link = s.link

section
variable {s : State}

/-- A date is held while no time write is on its way. -/
theorem State.holdDate_eq (hb : s.flag F.RTC_STAT_WBUSY = false) (w : Word) :
    s.holdDate w = { s with rtc := { s.rtc with held := some (bitsOf w 23 16, bitsOf w 11 8, bitsOf w 4 0) } } := by
  rw [State.holdDate, hb]
  rfl

/-- A time of day written after a date starts a time write. -/
theorem State.setTimeOfDay_holdDate (hb : s.flag F.RTC_STAT_WBUSY = false) (w : Word × Word) :
    (s.holdDate w.1).setTimeOfDay w.2 = (s.noteClamped (calendarSec w).2).startTimeWrite (calendarSec w).1 := by
  have hb1 : (s.holdDate w.1).flag F.RTC_STAT_WBUSY = false := by
    rw [State.holdDate_eq hb]
    exact hb
  have hn (b : Bool) : (s.holdDate w.1).noteClamped b = s.noteClamped b := by
    rw [State.holdDate_eq hb]
    cases b <;> rfl
  rw [← hn, State.setTimeOfDay, hb1, State.holdDate_eq hb]
  rfl

theorem State.noteClamped_canonical (hc : s.canonical = true) (b : Bool) : (s.noteClamped b).canonical = true := by
  cases b
  · exact hc
  · exact State.put_canonical (s := s) hc

theorem State.noteClamped_busy (hc : s.canonical = true) (b : Bool) :
    (s.noteClamped b).flag F.RTC_STAT_WBUSY = s.flag F.RTC_STAT_WBUSY := by
  cases b
  · rfl
  · exact State.flag_put_apart (f := F.RTC_STAT_CLAMPED) hc (by decide)

theorem State.noteClamped_regs (hc : s.canonical = true) (b : Bool) :
    RegsBut s (s.noteClamped b) [F.RTC_STAT_WBUSY, F.RTC_STAT_CLAMPED] := by
  cases b
  · exact RegsBut.refl s _
  · exact (RegsBut.refl s _).put (f := F.RTC_STAT_CLAMPED) hc (by decide) (by decide) (by decide)

theorem State.noteClamped_link (b : Bool) : (s.noteClamped b).link = s.link := by cases b <;> rfl

/-- A calendar write, while no time write is on its way, starts one. -/
theorem State.setCalendar_starts (hc : s.canonical = true) (hb : s.flag F.RTC_STAT_WBUSY = false) (w : Word × Word) :
    ∃ t, s.setCalendar w = (0, t) ∧ TimeWriteStarted s t (calendarSec w).1 := by
  have hc1 := State.noteClamped_canonical hc (calendarSec w).2
  have hb1 := (State.noteClamped_busy hc (calendarSec w).2).trans hb
  have he : s.setCalendar w = (0, (s.noteClamped (calendarSec w).2).startTimeWrite (calendarSec w).1) := by
    rw [State.setCalendar, hb, State.setTimeOfDay_holdDate hb]
    rfl
  refine ⟨_, he, ?_⟩
  rw [State.startTimeWrite, hb1]
  exact {
    busy := State.flag_set1 (f := F.RTC_STAT_WBUSY) hc1 (by decide) (by decide)
    held := rfl
    wr := rfl
    regs := (State.noteClamped_regs hc _).put hc1 (by decide) (by decide) (by decide)
    link := State.noteClamped_link _ }

/-- A SET of the Clock's time with the right starts a time write. -/
theorem State.setAttr_clock {rank : Nat} {o : List Nat} {b : List Byte} {w : Word × Word} (hc : s.canonical = true)
    (hk : s.objectAt o = some .clock) (hr : s.objWriteRank .clock ≤ rank) (hw : clockWords b = some w)
    (hb : s.flag F.RTC_STAT_WBUSY = false) :
    ∃ t, s.setAttr rank o 2 (some (.octets b)) = (0, t) ∧ TimeWriteStarted s t (calendarSec w).1 := by
  obtain ⟨t, ht, hst⟩ := State.setCalendar_starts hc hb w
  have hwr : s.writeAttr .clock 2 (.octets b) = (0, t) := by simp only [State.writeAttr, hw, ht]
  exact ⟨t, State.setAttr_of_right hk (by decide) rfl hr rfl hwr, hst⟩

end

/-! ### Disconnect control (R352, R332, R468) -/

section
variable {s : State}

/-- Held closed by command: REMOTE, a commit and the close request. -/
theorem State.remoteClose_effect (hc : s.canonical = true) :
    s.remoteClose.flag F.PAY_STAT_REMOTE = true ∧ s.remoteClose.jrn.due = true ∧ s.remoteClose.act.want = some true
      ∧ RegsBut s s.remoteClose [F.PAY_STAT_REMOTE] :=
  ⟨State.flag_set1 (f := F.PAY_STAT_REMOTE) hc (by decide) (by decide), rfl, rfl,
    (RegsBut.refl s _).put (f := F.PAY_STAT_REMOTE) hc (by decide) (by decide) (by decide)⟩

/-- From `s` SSHELD has ended; of the registers only it, and REMOTE that a reconnection clears, may differ. -/
structure HeldEnded (s t : State) : Prop where
  canonical : t.canonical = true
  clear : t.flag F.SAFE_STAT_SSHELD = false
  regs : RegsBut s t [F.PAY_STAT_REMOTE, F.SAFE_STAT_SSHELD]
  mode : t.get F.PAY_CFG_MODE = s.get F.PAY_CFG_MODE
  link : t.link = s.link

theorem State.endHeld_heldEnded (hc : s.canonical = true) : HeldEnded s s.endHeld := by
  unfold State.endHeld
  split
  case isTrue =>
    exact {
      canonical := State.put_canonical (s := s) hc
      clear := State.flag_clr (f := F.SAFE_STAT_SSHELD) hc (by decide) (by decide)
      regs := (RegsBut.refl s _).put (f := F.SAFE_STAT_SSHELD) hc (by decide) (by decide) (by decide)
      mode := State.get_put_apart (f := F.SAFE_STAT_SSHELD) hc (by decide)
      link := rfl }
  case isFalse h => exact ⟨hc, Bool.eq_false_iff.mpr h, RegsBut.refl s _, rfl, rfl⟩

/-- With prepayment off and no other close demand, the open request is made at once (log entry 26). -/
theorem State.remoteOpen_eq (hc : s.canonical = true) (hb : s.openBlocked = false) (hm : s.get F.PAY_CFG_MODE = 0) :
    s.remoteOpen = (true, ((s.endHeld.clr F.PAY_STAT_REMOTE).commitDue).wantOpen) := by
  have hh := State.endHeld_heldEnded hc
  have hm1 : ((s.endHeld.clr F.PAY_STAT_REMOTE).commitDue).get F.PAY_CFG_MODE = 0 :=
    (State.get_put_apart hh.canonical (f := F.PAY_STAT_REMOTE) (by decide)).trans (hh.mode.trans hm)
  simp only [State.remoteOpen, hb, hm1, Bool.false_eq_true, if_false, if_true]

/-- What that request changes: REMOTE and SSHELD end, and the valve is to open. -/
theorem State.openRequest_effect (hc : s.canonical = true) :
    let t := ((s.endHeld.clr F.PAY_STAT_REMOTE).commitDue).wantOpen
    t.flag F.PAY_STAT_REMOTE = false ∧ t.flag F.SAFE_STAT_SSHELD = false ∧ t.act.want = some false
      ∧ RegsBut s t [F.PAY_STAT_REMOTE, F.SAFE_STAT_SSHELD] := by
  have hh := State.endHeld_heldEnded hc
  have hheld : (s.endHeld.clr F.PAY_STAT_REMOTE).flag F.SAFE_STAT_SSHELD = false :=
    (State.flag_put_apart hh.canonical (f := F.PAY_STAT_REMOTE) (by decide)).trans hh.clear
  exact ⟨State.flag_clr (f := F.PAY_STAT_REMOTE) hh.canonical (by decide) (by decide), hheld, rfl,
    hh.regs.put (f := F.PAY_STAT_REMOTE) hh.canonical (by decide) (by decide) (by decide)⟩

end

/-- Settles O45, clause by clause from what the catalogue's GET, SET and ACTION give. -/
theorem objectRequestsAnswer : Obligations.ObjectRequestsAnswer := by
  intro nb sec inv cls index obis data k s hc hs
  refine ⟨?unknown, ?get, ?getNoRight, ?setNoRight, ?actionNoRight, ?clock, ?control⟩
  case unknown =>
    intro hn
    have hcls := State.classOk_of_none (cls := cls) hn
    exact ⟨fun sel => runs_objectGet hs (State.linkGet_unknown hn) State.objReply_only,
      runs_objectSet_unknown hs hcls State.objReply_only, runs_objectAction_unknown hs hcls State.objReply_only⟩
  case get =>
    rintro v ⟨hk, hcls⟩ hv hr hl
    exact runs_objectGet hs (State.linkGet_of_right hk hcls hv hr hl) State.objReply_only
  case getNoRight =>
    rintro v sel ⟨hk, hcls⟩ hv hr
    exact runs_objectGet hs (State.linkGet_of_noRight hk hcls hv hr) State.objReply_only
  case setNoRight =>
    rintro ⟨hk, rfl⟩ ha h
    exact runs_objectSet hs (State.classOk_of_some hk rfl)
      (State.setAttr_of_noRight hk (List.contains_iff_mem.mp ha) h) State.objReply_only
  case actionNoRight =>
    rintro ⟨hk, rfl⟩ ha h
    exact runs_objectAction hs (State.classOk_of_some hk rfl)
      (State.invokeMethod_of_noRight hk (List.contains_iff_mem.mp ha) h) State.objReply_only
  case clock =>
    intro b w ho hr hv hw hb
    have hk : s.objectAt (nats obis) = some .clock := by rw [ho]; rfl
    obtain ⟨t, ht, hst⟩ := State.setAttr_clock hc hk hr hw hb
    exact runs_objectSet hs (State.classOk_of_some hk rfl) (by rw [hv]; exact ht)
      ⟨State.objReply_outbox hst.link, hst.busy, hst.held, hst.wr, hst.regs⟩
  case control =>
    intro ho hr
    have hk : s.objectAt (nats obis) = some .actuator := by rw [ho]; rfl
    have hcls := State.classOk_of_some hk rfl
    refine ⟨?close, fun hb => ?blocked, fun hb hm => ?opens⟩
    case close =>
      exact runs_objectAction hs hcls (State.invokeMethod_of_right hk (by decide) hr rfl rfl)
        ⟨State.objReply_outbox rfl, State.remoteClose_effect hc⟩
    case blocked =>
      have hm : s.method .actuator 2 (readVal data) = (6, s) := by simp [State.method, State.remoteOpen, hb]
      exact runs_objectAction hs hcls (State.invokeMethod_of_refused hk (by decide) hr hm) State.objReply_only
    case opens =>
      have hm : s.method .actuator 2 (readVal data) = (0, ((s.endHeld.clr F.PAY_STAT_REMOTE).commitDue).wantOpen) := by
        simp [State.method, State.remoteOpen_eq hc hb hm]
      exact runs_objectAction hs hcls (State.invokeMethod_of_right hk (by decide) hr rfl hm)
        ⟨State.objReply_outbox (State.endHeld_heldEnded hc).link, State.openRequest_effect hc⟩

end Sys2Proof.Machine
end

section
/-! PROOF. R441 and R444: a verification ends with the signature's result, and KEY STATUS and the link's status query tell a digest
that is applied. A line that runs at once is its response handed out on top of the state in which its command runs
(`State.row_tickOp`); what entering a line changes and what handing out bytes changes are stated once each. -/

namespace Sys2Proof.Machine

/-! ### What may differ, combined -/

section
variable {s t u : State} {fs gs : List Fld}

theorem State.get_of_regs (h : t.regs = s.regs) (f : Fld) : t.get f = s.get f := by
  rw [State.get, State.get, State.rd, State.rd, h]

/-- Equal register files. -/
theorem RegsBut.of_regs (h : t.regs = s.regs) : RegsBut s t fs := by
  intro a i _
  rw [State.rd, State.rd, h]

theorem RegsBut.trans (h : RegsBut s t fs) (k : RegsBut t u fs) : RegsBut s u fs :=
  fun a i hi => (k a i hi).trans (h a i hi)

/-- Fields that cover those that may change. -/
theorem RegsBut.mono (h : RegsBut s t fs) (hg : ∀ f ∈ fs, ∃ g ∈ gs, g.addr = f.addr ∧ g.lo ≤ f.lo ∧ f.hi ≤ g.hi) :
    RegsBut s t gs := by
  intro a i hi
  refine h a i fun f hf ha => ?_
  obtain ⟨g, hgs, hga, hlo, hhi⟩ := hg f hf
  have := hi g hgs (hga.trans ha)
  omega

theorem OnlyLineAnd.trans (h : OnlyLineAnd s t fs) (k : OnlyLineAnd t u fs) : OnlyLineAnd s u fs := by
  obtain ⟨hr, hq, he⟩ := h
  obtain ⟨kr, kq, ke⟩ := k
  refine ⟨hr.trans kr, fun r hn => (kq r hn).trans (hq r hn), ke.trans ?_⟩
  rw [he]

end

/-! ### Bytes handed out on a carrier -/

/-- Bytes stand last among those that the carrier, or on the tunnel the link, is still to send. -/
def SentLast (s t : State) (c : Carrier) (b : List Byte) : Prop := match c with
  | .tunnel n => t.link.outbox = s.link.outbox ++ [(n.val, b)]
  | _ => (t.car c).tx = (s.car c).tx ++ b

/-- From `s` bytes have been handed out on the carrier: what it is held by, the registers and all but the carriers, the link's
outbox and the count of the records of line buffers are as in `s`. -/
structure Emitted (s t : State) (c : Carrier) (b : List Byte) : Prop where
  sent : SentLast s t c b
  held : (t.car c).held = (s.car c).held
  regs : t.regs = s.regs
  seq : SeqKept s t
  rest : t = { s with regs := t.regs, ringSeq := t.ringSeq, cmd := t.cmd, link := { s.link with outbox := t.link.outbox } }

/-- Bytes behind those that the carrier's transmitter holds. -/
def State.transmit (s : State) (c : Carrier) (b : List Byte) (head : Nat × Nat) : State :=
  s.setCar c { s.car c with tx := (s.car c).tx ++ b, txHead := head }

/-- A transmitter takes the bytes; a line that finds it empty counts a record of ring 6 first. -/
theorem State.emit_serial {s : State} {c : Carrier} {b : List Byte} (hc : ∀ n, c ≠ .tunnel n) :
    ∃ h t, (t = s ∨ t = (s.nextSeq 6).2) ∧ s.emit c b = t.transmit c b h := by
  have he : s.emit c b = (let p := if (s.car c).tx = [] then s.lineMark else ((s.car c).txHead, s); p.2.transmit c b p.1) := by
    cases c with
    | tunnel n => exact absurd rfl (hc n)
    | uart | optical => rfl
  by_cases h : (s.car c).tx = []
  · rw [if_pos h] at he
    exact ⟨_, _, .inr rfl, he⟩
  · rw [if_neg h] at he
    exact ⟨_, _, .inl rfl, he⟩

theorem State.emit_emitted (s : State) (c : Carrier) (b : List Byte) : Emitted s (s.emit c b) c b := by
  cases hcar : c with
  | tunnel n => exact ⟨rfl, rfl, rfl, fun _ _ => rfl, rfl⟩
  | uart | optical =>
    obtain ⟨h, t, ht, he⟩ := State.emit_serial (s := s) (c := c) (b := b) (by simp [hcar])
    rw [hcar] at he
    rw [he]
    rcases ht with rfl | rfl
    · exact ⟨rfl, rfl, rfl, fun _ _ => rfl, rfl⟩
    · exact ⟨rfl, rfl, rfl, fun _ hr => sget_sset_ne hr, rfl⟩

/-! ### The state in which a line's command runs -/

section
variable {s : State} {c : Carrier} {l : LineForm}

/-- A line enters with the role of its key on a tunnel and with nothing else of the carrier's record changed. -/
theorem State.car_enterLine (hc : s.canonical = true) : ∃ r, (s.enterLine c).car c = { s.car c with role := r } := by
  cases c with
  | uart | optical => exact ⟨_, rfl⟩
  | tunnel n =>
    obtain ⟨-, -, -, -, -, -, htun⟩ := storesCanonical_iff.mp hc
    refine ⟨s.linkRole n.val true, ?_⟩
    simp only [State.enterLine, State.enterTunnel, Fin.ofNat_val_eq_self]
    exact sget_sset_same htun

theorem State.enterLine_canonical (hc : s.canonical = true) : (s.enterLine c).canonical = true := by
  obtain ⟨-, h, -⟩ := State.enterLine_keeps (c := c) (Keeps.refl s)
  exact h hc

theorem State.enterLine_regs : (s.enterLine c).regs = s.regs := by cases c <;> rfl

theorem State.onLine_regs {keep : Bool} : (s.onLine c keep).regs = ((s.enterLine c).bump F.CMD_LINES_LINES 1).regs := by
  cases keep <;> rfl

theorem State.onLine_held (hc : s.canonical = true) (keep : Bool) : ((s.onLine c keep).car c).held = (s.car c).held := by
  obtain ⟨r, hr⟩ := State.car_enterLine (c := c) hc
  have he : ((s.onLine c keep).car c).held = ((s.enterLine c).car c).held := by cases keep <;> cases c <;> rfl
  rw [he, hr]

/-- Entering a line changes the carriers and CMD_LINES. -/
theorem State.onLine_onlyLine (hc : s.canonical = true) (keep : Bool) : OnlyLine s (s.onLine c keep) := by
  have hr : RegsBut s ((s.enterLine c).bump F.CMD_LINES_LINES 1) [F.CMD_LINES_LINES] :=
    (RegsBut.of_regs State.enterLine_regs).put (State.enterLine_canonical hc) (by decide) (by decide) (by decide)
  refine ⟨(hr.mono (by decide)).trans (.of_regs State.onLine_regs), fun r _ => ?_, ?_⟩
  · cases keep <;> cases c <;> rfl
  · cases keep <;> cases c <;> rfl

/-- CMD_LINES counts the line and no error. -/
theorem State.onLine_count (hc : s.canonical = true) (keep : Bool) :
    (s.onLine c keep).get F.CMD_LINES_LINES = min (s.get F.CMD_LINES_LINES + 1) 65535
    ∧ (s.onLine c keep).get F.CMD_LINES_ERRORS = s.get F.CMD_LINES_ERRORS := by
  have he (f : Fld) : (s.enterLine c).get f = s.get f := State.get_of_regs State.enterLine_regs f
  have ho (f : Fld) : (s.onLine c keep).get f = ((s.enterLine c).bump F.CMD_LINES_LINES 1).get f :=
    State.get_of_regs State.onLine_regs f
  have hce := State.enterLine_canonical (c := c) hc
  rw [ho, ho, ← he, ← he]
  exact ⟨State.get_put_self hce (by decide) (by decide) (Nat.lt_of_le_of_lt (Nat.min_le_right _ _) (by decide)),
    State.get_put_apart hce (f := F.CMD_LINES_LINES) (by decide)⟩

/-- What the carrier sends is not touched by entering a line. -/
theorem SentLast.of_onLine {t : State} {b : List Byte} {keep : Bool}
    (h : SentLast (s.onLine c keep) t c b) : SentLast s t c b := by
  cases keep <;> cases c <;> exact h

/-! ### A line that runs at once -/

theorem State.lineRuns_iff : s.lineRuns c l = true ↔
    s.ticking = true ∧ s.lineOk c = true ∧ (s.car c).held = none ∧ (s.reqCrc c = false ∨ l.crc = true) := by
  simp [State.lineRuns, State.owes, and_assoc]

/-- A line that runs at once concludes with what its command gives on top of the state that the line enters. -/
theorem State.row_tickOp {f : State → Resp × State} (hc : s.canonical = true) (hl : s.lineRuns c l = true) :
    s.row c l (tickOp f) = (f (s.onLine c false)).2.conclude c 0#8 l (f (s.onLine c false)).1 := by
  obtain ⟨htick, hline, hheld, hcrc⟩ := State.lineRuns_iff.mp hl
  have hline1 : (s.enterLine c).lineOk c = true := by cases c <;> exact hline
  have hcrc1 : ¬ (((s.enterLine c).dropKeyBuf c).reqCrc c = true ∧ l.crc = false) := by
    have he : ((s.enterLine c).dropKeyBuf c).reqCrc c = s.reqCrc c := by cases c <;> rfl
    rw [he]
    rcases hcrc with h | h <;> simp [h]
  have hheld1 : (s.onLine c false).isHeld c = false := by rw [State.isHeld, State.onLine_held hc, hheld]
  have hstage : (s.onLine c false).pow.stage ≠ .recovery := by
    have he : (s.onLine c false).pow = s.pow := by cases c <;> rfl
    rw [he, of_decide_eq_true htick]
    decide
  have ho : ((s.enterLine c).dropKeyBuf c).bump F.CMD_LINES_LINES 1 = s.onLine c false := rfl
  simp [State.row, State.runOp, State.answer, tickOp, hline1, hcrc1, ho, hheld1, hstage]

/-- A command that answers OK and changes nothing. -/
theorem State.row_ok {f : State → Resp × State} {v : Text} (hc : s.canonical = true) (hl : s.lineRuns c l = true)
    (hf : f (s.onLine c false) = (.ok v, s.onLine c false)) :
    OnlyLine s (s.row c l (tickOp f)) ∧ Answered s (s.row c l (tickOp f)) c l (.ok v) := by
  obtain ⟨-, -, hheld, -⟩ := State.lineRuns_iff.mp hl
  have hheld1 : ((s.onLine c false).car c).held = none := (State.onLine_held hc false).trans hheld
  have ht : s.row c l (tickOp f) = (s.onLine c false).emit c ((Resp.ok v).packet c 0#8 l) := by
    rw [State.row_tickOp hc hl, hf]
    simp [State.conclude, State.send, Resp.code, State.owes, hheld1]
  obtain ⟨hsent, hh, hregs, hseq, hrest⟩ := State.emit_emitted (s.onLine c false) c ((Resp.ok v).packet c 0#8 l)
  obtain ⟨hlines, herr⟩ := State.onLine_count (c := c) hc false
  rw [ht]
  refine ⟨(State.onLine_onlyLine hc false).trans ⟨.of_regs hregs, hseq, hrest⟩, ⟨?_, hh.trans hheld1, ?_⟩,
    (State.get_of_regs hregs _).trans hlines⟩
  · have h := hsent.of_onLine
    cases c <;> exact h
  · rw [State.get_of_regs hregs, herr]
    exact (Nat.min_eq_left (Nat.le_of_lt_succ (Nat.mod_lt _ (by decide)))).symm

end

/-! ### The digest of the committed copy (R444) -/

section
variable {s : State} {digest : List Byte}

theorem State.isApplied_iff : s.isApplied digest = true ↔ ∃ k, s.committed = some k ∧ copyDigest (s.keyCopy k) = digest := by
  unfold State.isApplied
  cases s.committed <;> simp

theorem State.isApplied_onLine (c : Carrier) (keep : Bool) : (s.onLine c keep).isApplied digest = s.isApplied digest := by
  cases keep <;> cases c <;> rfl

/-- The byte of a truth value tells it. -/
theorem byte_b2n_iff (b : Bool) : (byte (b2n b) = 1#8 ↔ b = true) ∧ (byte (b2n b) = 0#8 ↔ ¬ b = true) := by
  cases b <;> decide

/-- KEY STATUS with 64 digits answers on the digest and changes nothing. -/
theorem State.aclKeyStatus_of_digest {hex : Text} (hn : hex.length = 64) (hd : readHex hex = some digest) :
    s.aclKeyStatus hex = (.ok (if s.isApplied digest then txt "APPLIED " ++ hex else []), s) := by
  cases h : s.isApplied digest <;> simp [State.aclKeyStatus, hn, hd, h, okResp]

/-- The line of KEY STATUS answers whether the digest is applied. -/
theorem runs_keyStatus {c : Carrier} {l : LineForm} {hex : Text} (hc : s.canonical = true) (hl : s.lineRuns c l = true)
    (hn : hex.length = 64) (hd : readHex hex = some digest) : Runs (.keyStatus c l hex) s fun t => OnlyLine s t
      ∧ Answered s t c l (.ok (if s.isApplied digest then txt "APPLIED " ++ hex else [])) := by
  refine ⟨_, rfl, State.row_ok hc hl ?_⟩
  rw [State.aclKeyStatus_of_digest hn hd, State.isApplied_onLine]

end

/-! ### A verification ends (R441) -/

section
variable {s : State}

/-- The power state that follows is in PWR_STATE.STATE alone. -/
theorem State.settlePower_cases : s.settlePower = s ∨ ∃ v, s.settlePower = s.put F.PWR_STATE_STATE v := by
  unfold State.settlePower
  split
  · exact .inr ⟨_, rfl⟩
  · exact .inl rfl

/-- The signature engine is free again, and the key block holds `k`. -/
def State.engineFreed (s : State) (k : Keys) : State := { s.clr F.KEYS_STAT_BUSY with keys := k }

/-- A verification that ends outside an Acoustic window holds the signature's result, and the power state follows. -/
theorem execEcdsaVerificationEnd_eq {r : KeyRun} {pub : List Byte} {f : KeyFields} (hr : s.keys.run = some r)
    (hv : r.verified = none) (hp : s.authPub = some pub) (hf : parseKey (nats r.bytes) = some f) (hw : s.pins.window = false) :
    execEcdsaVerificationEnd s = .next (s.engineFreed { s.keys with
      run := some { r with verified := some (ecdsaVerify (nats pub) f.signed f.auth) } }).settlePower := by
  simp [execEcdsaVerificationEnd, State.engineFreed, hr, hp, hv, hf, hw]

/-- What ends with the engine freed and the power state settled: BUSY, and of the rest of the registers PWR_STATE.STATE alone. -/
theorem State.engineFreed_settled (hc : s.canonical = true) (k : Keys) :
    let t := (s.engineFreed k).settlePower
    t.flag F.KEYS_STAT_BUSY = false ∧ t.keys = k ∧ RegsBut s t [F.KEYS_STAT_BUSY, F.PWR_STATE_STATE]
      ∧ t = { s with regs := t.regs, keys := t.keys } := by
  have hfc : (s.engineFreed k).canonical = true := State.put_canonical (s := s) (f := F.KEYS_STAT_BUSY) hc
  have hbusy : (s.engineFreed k).flag F.KEYS_STAT_BUSY = false := State.flag_clr (s := s) hc (by decide) (by decide)
  have hregs : RegsBut s (s.engineFreed k) [F.KEYS_STAT_BUSY, F.PWR_STATE_STATE] :=
    (RegsBut.refl s _).put (f := F.KEYS_STAT_BUSY) hc (by decide) (by decide) (by decide)
  rcases State.settlePower_cases (s := s.engineFreed k) with h | ⟨v, h⟩ <;> rw [h]
  · exact ⟨hbusy, rfl, hregs, rfl⟩
  · exact ⟨(State.flag_put_apart hfc (f := F.PWR_STATE_STATE) (by decide)).trans hbusy, rfl,
      hregs.put hfc (by decide) (by decide) (by decide), rfl⟩

end

/-- Settles O44: the verification's result beside the freed engine, and the digest of the committed copy in both answers. -/
theorem keyVerificationAndQuery : Obligations.KeyVerificationAndQuery := by
  intro nb digest c l hex s hc
  refine ⟨?verified, ?query, ?line⟩
  case verified =>
    intro r pub f hr hv hp hf hw
    exact ⟨_, execEcdsaVerificationEnd_eq hr hv hp hf hw, State.engineFreed_settled hc _⟩
  case query =>
    intro hs
    obtain ⟨h1, h0⟩ := byte_b2n_iff (s.isApplied digest)
    have he : exec (.statusQuery nb digest) s = .next (s.linkSend nb.val
        ([0x94#8, 0#8, byte (b2n (s.isApplied digest))] ++ bytesBE 4 (s.get F.KEYS_CTR_COUNTER))) := by
      change execStatusQuery nb digest s = _
      rw [execStatusQuery, if_pos hs]
    exact ⟨_, he, ⟨_, h1.trans State.isApplied_iff, h0.trans (not_congr State.isApplied_iff), rfl⟩, rfl⟩
  case line =>
    intro d hl hn hd
    obtain ⟨t, ht, honly, hans⟩ := runs_keyStatus hc hl hn hd
    refine ⟨t, ht, honly, fun ha => ?_, fun ha => ?_⟩
    · rwa [if_pos (State.isApplied_iff.mpr ha)] at hans
    · rwa [if_neg (mt State.isApplied_iff.mp ha)] at hans

end Sys2Proof.Machine
end

section
set_option Elab.async false
/-! PROOF. What every step keeps, whatever the command: `exec_keeps` puts the lemmas of Keeps<Module>.lean together, one command each,
and the invariants of the step are its three parts. Beside them stands what the part is like at its first power-on. -/

namespace Sys2Proof.Machine

/-- A command keeps the queue, canonical stores and programmed debug cells. -/
theorem exec_keeps (c : Instr) (s : State) : KeepsO s (exec c s) := by
  have h := Keeps.refl s
  cases c with
  | tickBoundary => exact execTickBoundary_keeps h
  | tickPreWake => exact execTickPreWake_keeps h
  | acousticWindow => exact execAcousticWindow_keeps h
  | ucodeSelp => exact execUcodeSelp_keeps h
  | ucodeWait => exact execUcodeWait_keeps h
  | ucodeFire => exact execUcodeFire_keeps h
  | ucodeWaitf => exact execUcodeWaitf_keeps h
  | ucodeWaite => exact execUcodeWaite_keeps h
  | ucodeSwap => exact execUcodeSwap_keeps h
  | ucodeEnd => exact execUcodeEnd_keeps h
  | captureEnd => exact execCaptureEnd_keeps h
  | correlationEnd => exact execCorrelationEnd_keeps h
  | vtxbReady => exact execVtxbReady_keeps h
  | conversionSequenceEnd => exact execConversionSequenceEnd_keeps h
  | compute => exact execCompute_keeps h
  | demandBoundary => exact execDemandBoundary_keeps h
  | periodBoundary => exact execPeriodBoundary_keeps h
  | tariffSwitch => exact execTariffSwitch_keeps h
  | safeStateExit => exact execSafeStateExit_keeps h
  | emptyPipe => exact execEmptyPipe_keeps h
  | emptyPipeClear => exact execEmptyPipeClear_keeps h
  | holdExpiry => exact execHoldExpiry_keeps h
  | recoveryEnd => exact execRecoveryEnd_keeps h
  | reverseFlowTamper => exact execReverseFlowTamper_keeps h
  | pathSignTamper => exact execPathSignTamper_keeps h
  | sensorPlausibilityFault => exact execSensorPlausibilityFault_keeps h
  | depositBlock => exact execDepositBlock_keeps h
  | zerocalCollectionEnd => exact execZerocalCollectionEnd_keeps h
  | zerocalTimeout => exact execZerocalTimeout_keeps h
  | taskPromotion => exact execTaskPromotion_keeps h
  | serviceWindow => exact execServiceWindow_keeps h
  | persist => exact execPersist_keeps h
  | commitInterval => exact execCommitInterval_keeps h
  | saveComplete => exact execSaveComplete_keeps h
  | powerFailWarning => exact execPowerFailWarning_keeps h
  | emergencyCommitEnd => exact execEmergencyCommitEnd_keeps h
  | ticksResume => exact execTicksResume_keeps h
  | powerFailWaitExpiry => exact execPowerFailWaitExpiry_keeps h
  | brownOut => exact execBrownOut_keeps h
  | switchOver => exact execSwitchOver_keeps h
  | backupEntry => exact execBackupEntry_keeps h
  | aonPowerOn => exact execAonPowerOn_keeps h
  | retentionLoss => exact execRetentionLoss_keeps h
  | minlow => exact execMinlow_keeps h
  | backupDomainPowerOn => exact execBackupDomainPowerOn_keeps h
  | startGate => exact execStartGate_keeps h
  | resetnLow => exact execResetnLow_keeps h
  | watchdogReset => exact execWatchdogReset_keeps h
  | commandReset => exact execCommandReset_keeps h
  | resetDrainTimeout => exact execResetDrainTimeout_keeps h
  | startUp => exact execStartUp_keeps h
  | hibernateWake => exact execHibernateWake_keeps h
  | carrierWake => exact execCarrierWake_keeps h
  | carrierIdle => exact execCarrierIdle_keeps h
  | gpioWake => exact execGpioWake_keeps h
  | characterReceived => exact execCharacterReceived_keeps h
  | signOnRequest => exact execSignOnRequest_keeps h
  | identification => exact execIdentification_keeps h
  | optionSelect => exact execOptionSelect_keeps h
  | optionSelectTimeout => exact execOptionSelectTimeout_keeps h
  | breakMessage => exact execBreakMessage_keeps h
  | get => exact execGet_keeps h
  | set => exact execSet_keeps h
  | showObj => exact execShowObj_keeps h
  | shot => exact execShot_keeps h
  | shotRequestAbandon => exact execShotRequestAbandon_keeps h
  | capture => exact execCapture_keeps h
  | logTrouble => exact execLogTrouble_keeps h
  | logLegal => exact execLogLegal_keeps h
  | login => exact execLogin_keeps h
  | loginLockExpiry => exact execLoginLockExpiry_keeps h
  | challengeExpiry => exact execChallengeExpiry_keeps h
  | logout => exact execLogout_keeps h
  | keyLoad => exact execKeyLoad_keeps h
  | keyLoadBufferExpiry => exact execKeyLoadBufferExpiry_keeps h
  | keyStatus => exact execKeyStatus_keeps h
  | keyPassword => exact execKeyPassword_keeps h
  | token => exact execToken_keeps h
  | tokenLockoutExpiry => exact execTokenLockoutExpiry_keeps h
  | zerocal => exact execZerocal_keeps h
  | commit => exact execCommit_keeps h
  | scheduleCommit => exact execScheduleCommit_keeps h
  | scheduleDiscard => exact execScheduleDiscard_keeps h
  | scheduleShow => exact execScheduleShow_keeps h
  | reset => exact execReset_keeps h
  | status => exact execStatus_keeps h
  | help => exact execHelp_keeps h
  | registerWrite => exact execRegisterWrite_keeps h
  | hibernate => exact execHibernate_keeps h
  | timeWrite => exact execTimeWrite_keeps h
  | timeWriteApplied => exact execTimeWriteApplied_keeps h
  | setDate => exact execSetDate_keeps h
  | setTime => exact execSetTime_keeps h
  | countdownTimerWrite => exact execCountdownTimerWrite_keeps h
  | countdownTimerExpiry => exact execCountdownTimerExpiry_keeps h
  | trimWindow => exact execTrimWindow_keeps h
  | wrap => exact execWrap_keeps h
  | xt32Stopped => exact execXt32Stopped_keeps h
  | pllUnlocked => exact execPllUnlocked_keeps h
  | rcNotLocked => exact execRcNotLocked_keeps h
  | close => exact execClose_keeps h
  | remoteDisconnect => exact execRemoteDisconnect_keeps h
  | remoteReconnect => exact execRemoteReconnect_keeps h
  | prepaymentModeWrite => exact execPrepaymentModeWrite_keeps h
  | actuatorDrive => exact execActuatorDrive_keeps h
  | driveCurrentCheck => exact execDriveCurrentCheck_keeps h
  | drivePulseExpiry => exact execDrivePulseExpiry_keeps h
  | actuatorTimeout => exact execActuatorTimeout_keeps h
  | feedbackChange => exact execFeedbackChange_keeps h
  | sealChange => exact execSealChange_keeps h
  | tamperInputChange => exact execTamperInputChange_keeps h
  | shottrigEdge => exact execShottrigEdge_keeps h
  | keypadWake => exact execKeypadWake_keeps h
  | keyAccepted => exact execKeyAccepted_keeps h
  | keyReleased => exact execKeyReleased_keeps h
  | entryTimeout => exact execEntryTimeout_keeps h
  | holdack => exact execHoldack_keeps h
  | dbgen => exact execDbgen_keeps h
  | ack => exact execAck_keeps h
  | force => exact execForce_keeps h
  | keyUpdate => exact execKeyUpdate_keeps h
  | lifeCycleTransition => exact execLifeCycleTransition_keeps h
  | authorityChange => exact execAuthorityChange_keeps h
  | tamperAcknowledgement => exact execTamperAcknowledgement_keeps h
  | statusQuery => exact execStatusQuery_keeps h
  | ecdsaVerificationEnd => exact execEcdsaVerificationEnd_keeps h
  | objectGet => exact execObjectGet_keeps h
  | objectSet => exact execObjectSet_keeps h
  | objectAction => exact execObjectAction_keeps h
  | aclLine => exact execAclLine_keeps h
  | specialDayInsert => exact execSpecialDayInsert_keeps h
  | specialDayDelete => exact execSpecialDayDelete_keeps h
  | channelSample => exact execChannelSample_keeps h
  | syncWaitLimit => exact execSyncWaitLimit_keeps h
  | frameReceived => exact execFrameReceived_keeps h
  | acknowledgement => exact execAcknowledgement_keeps h
  | frameQueued => exact execFrameQueued_keeps h
  | transmissionStart => exact execTransmissionStart_keeps h
  | clearChannelRetry => exact execClearChannelRetry_keeps h
  | transmissionEnd => exact execTransmissionEnd_keeps h
  | ackTimeout => exact execAckTimeout_keeps h
  | busyRetry => exact execBusyRetry_keeps h
  | dutyBinExpiry => exact execDutyBinExpiry_keeps h
  | join => exact execJoin_keeps h
  | telegramDue => exact execTelegramDue_keeps h
  | install => exact execInstall_keeps h
  | bistableUpdateEnd => exact execBistableUpdateEnd_keeps h
  | dischargeEnd => exact execDischargeEnd_keeps h
  | pageReturn => exact execPageReturn_keeps h
  | pageScroll => exact execPageScroll_keeps h
  | updateBegin => exact execUpdateBegin_keeps h
  | updateData => exact execUpdateData_keeps h
  | updateEnd => exact execUpdateEnd_keeps h
  | updateActivate => exact execUpdateActivate_keeps h
  | updateAbort => exact execUpdateAbort_keeps h
  | updateStatus => exact execUpdateStatus_keeps h
  | updateSessionTimeout => exact execUpdateSessionTimeout_keeps h
  | trialConfirmation => exact execTrialConfirmation_keeps h
  | xt32Ok => exact execXt32Ok_keeps h
  | rcLock => exact execRcLock_keeps h
  | syncWord => exact execSyncWord_keeps h
  | lcdPowerOff => exact execLcdPowerOff_keeps h

/-- Every command answers a next state: at once, or in every branch of its meaning. -/
theorem exec_answers (c : Instr) (s : State) : ∃ t, exec c s = .next t := by
  cases c with
  | tickPreWake | ucodeWait | ucodeFire | ucodeWaitf | ucodeWaite | ucodeSwap | ucodeEnd | vtxbReady | compute
  | demandBoundary | periodBoundary | tariffSwitch | safeStateExit | emptyPipe | emptyPipeClear | recoveryEnd | depositBlock
  | zerocalCollectionEnd | zerocalTimeout | taskPromotion | serviceWindow | persist | commitInterval | saveComplete
  | brownOut | retentionLoss | minlow | commandReset | hibernateWake | carrierWake | gpioWake | characterReceived
  | breakMessage | get | set | showObj | shot | shotRequestAbandon | capture | logTrouble | logLegal | login | logout
  | keyLoad | keyStatus | keyPassword | token | tokenLockoutExpiry | zerocal | commit | scheduleCommit | scheduleDiscard
  | scheduleShow | reset | status | help | registerWrite | hibernate | timeWrite | setDate | setTime | countdownTimerWrite
  | close | remoteDisconnect | remoteReconnect | prepaymentModeWrite | feedbackChange | sealChange | tamperInputChange
  | shottrigEdge | keypadWake | keyReleased | holdack | dbgen | ack | force | keyUpdate | lifeCycleTransition
  | authorityChange | tamperAcknowledgement | statusQuery | objectGet | objectSet | objectAction | aclLine | specialDayInsert
  | specialDayDelete | frameQueued | dutyBinExpiry | updateBegin | updateData | updateEnd | updateActivate | updateAbort
  | updateStatus | trialConfirmation | xt32Ok | rcLock | syncWord =>
    exact ⟨_, rfl⟩
  | tickBoundary | acousticWindow | ucodeSelp | captureEnd | correlationEnd | conversionSequenceEnd | holdExpiry
  | reverseFlowTamper | pathSignTamper | sensorPlausibilityFault | powerFailWarning | emergencyCommitEnd | ticksResume
  | powerFailWaitExpiry | switchOver | backupEntry | aonPowerOn | backupDomainPowerOn | startGate | resetnLow | watchdogReset
  | resetDrainTimeout | startUp | carrierIdle | signOnRequest | identification | optionSelect | optionSelectTimeout
  | loginLockExpiry | challengeExpiry | keyLoadBufferExpiry | timeWriteApplied | countdownTimerExpiry | trimWindow | wrap
  | xt32Stopped | pllUnlocked | rcNotLocked | actuatorDrive | driveCurrentCheck | drivePulseExpiry | actuatorTimeout
  | keyAccepted | entryTimeout | ecdsaVerificationEnd | channelSample | syncWaitLimit | frameReceived | acknowledgement
  | transmissionStart | clearChannelRetry | transmissionEnd | ackTimeout | busyRetry | join | telegramDue | install
  | bistableUpdateEnd | dischargeEnd | pageReturn | pageScroll | updateSessionTimeout | lcdPowerOff =>
    simp only [exec, execTickBoundary, execAcousticWindow, execUcodeSelp, execCaptureEnd, execCorrelationEnd,
      execConversionSequenceEnd, execHoldExpiry, execReverseFlowTamper, execPathSignTamper, execSensorPlausibilityFault,
      execPowerFailWarning, execEmergencyCommitEnd, execTicksResume, execPowerFailWaitExpiry, execSwitchOver,
      execBackupEntry, execAonPowerOn, execBackupDomainPowerOn, execStartGate, execResetnLow, execWatchdogReset,
      execResetDrainTimeout, execStartUp, execCarrierIdle, execSignOnRequest, execIdentification, execOptionSelect,
      execOptionSelectTimeout, execLoginLockExpiry, execChallengeExpiry, execKeyLoadBufferExpiry, execTimeWriteApplied,
      execCountdownTimerExpiry, execTrimWindow, execWrap, execXt32Stopped, execPllUnlocked, execRcNotLocked,
      execActuatorDrive, execDriveCurrentCheck, execDrivePulseExpiry, execActuatorTimeout, execKeyAccepted, execEntryTimeout,
      execEcdsaVerificationEnd, execChannelSample, execSyncWaitLimit, execFrameReceived, execAcknowledgement,
      execTransmissionStart, execClearChannelRetry, execTransmissionEnd, execAckTimeout, execBusyRetry, execJoin,
      execTelegramDue, execInstall, execBistableUpdateEnd, execDischargeEnd, execPageReturn, execPageScroll,
      execUpdateSessionTimeout, execLcdPowerOff]
    repeat' (first | exact ⟨_, rfl⟩ | split)

/-- A step keeps the stores' canonical form and programmed debug cells, and takes the front command. -/
theorem step_keeps (s : State) : ∃ t, step s = .next t ∧ Keeps { s with pending := s.pending.tail } t := by
  cases hp : s.pending with
  | nil =>
    refine ⟨s, by rw [step, hp], ?_⟩
    have he : { s with pending := ([] : List Instr).tail } = s := by rw [List.tail_nil, ← hp]
    rw [he]
    exact Keeps.refl s
  | cons c rest =>
    obtain ⟨t, ht⟩ := exec_answers c { s with pending := rest }
    exact ⟨t, by rw [step, hp, ← ht], exec_keeps c _ t ht⟩

/-- The same of the state that a step answers. -/
theorem keeps_of_step {s t : State} (h : step s = .next t) : Keeps { s with pending := s.pending.tail } t := by
  obtain ⟨u, hu, hk⟩ := step_keeps s
  cases hu.symm.trans h
  exact hk

/-- Settles O58: the stores' part of what a step keeps. -/
theorem everyStepKeepsStoresCanonical : Obligations.EveryStepKeepsStoresCanonical := by
  intro s t hc h
  obtain ⟨-, hstores, -⟩ := keeps_of_step h
  exact hstores hc

/-- Settles O59: the cells' part of what a step keeps. -/
theorem noStepClearsADebugCell : Obligations.NoStepClearsADebugCell := by
  intro s t h
  obtain ⟨-, -, hcells⟩ := keeps_of_step h
  exact hcells

/-- Settles O60: the queue's part of what a step keeps, and that it answers a next state. -/
theorem everyStepTakesOneCommand : Obligations.EveryStepTakesOneCommand := by
  intro s
  obtain ⟨t, ht, hqueue, -, -⟩ := step_keeps s
  exact ⟨t, ht, hqueue⟩

/-- Settles O56: it is how a step is defined. -/
theorem stepRunsFrontCommand : Obligations.StepRunsFrontCommand := by
  intro c rest s
  rfl

/-- Settles O57: what the first power-on leaves is written out in `State.reset`; no table word spells a command. -/
theorem resetLeavesABlankPart : Obligations.ResetLeavesABlankPart :=
  ⟨fun _ => rfl, rfl, rfl, rfl, rfl, rfl, rfl, rfl, rfl, rfl, rfl, fun _ _ => ⟨rfl, rfl⟩⟩

end Sys2Proof.Machine
end

section
set_option Elab.async false
/-! PROOF. What an operation may change. A `Zone` is a set of register bits, a `Part` one of the state's fields beside the register
file; `Changes W L s t` says that from the canonical `s` the canonical `t` differs in the bits of the zones `W` and in the parts `L`
alone. One lemma per operation gives its zones and parts; what a statement keeps is then read off by `decide`. -/

namespace Sys2Proof.Machine

/-! ### Zones of register bits -/

/-- The bits [hi:lo] of `count` registers, `stride` bytes apart from `base` on. -/
structure Zone where
  base : Nat
  stride : Nat
  count : Nat
  hi : Nat
  lo : Nat
  deriving DecidableEq

/-- A register is one of the zone's. -/
def Zone.has (z : Zone) (a : Nat) : Bool :=
  decide (z.base ≤ a) && decide ((a - z.base) % z.stride = 0) && decide ((a - z.base) / z.stride < z.count)

/-- A bit of a register lies in the zone. -/
def Zone.holds (z : Zone) (a i : Nat) : Bool := z.has a && decide (z.lo ≤ i ∧ i ≤ z.hi)

/-- A field has no bit in the zone. -/
def Zone.apart (z : Zone) (g : Fld) : Bool := !z.has g.addr || decide (g.hi < z.lo) || decide (z.hi < g.lo)

/-- Every bit of a field lies in the zone. -/
def Zone.covers (z : Zone) (f : Fld) : Bool := z.has f.addr && decide (z.lo ≤ f.lo) && decide (f.hi ≤ z.hi)

/-- The field's bits are in order and in the register. -/
def Fld.sane (f : Fld) : Bool := Nat.ble f.lo f.hi && Nat.ble f.hi 31

theorem Fld.sane_iff {f : Fld} : f.sane = true ↔ f.lo ≤ f.hi ∧ f.hi < 32 := by
  rw [Fld.sane, Bool.and_eq_true, Nat.ble_eq, Nat.ble_eq, Nat.lt_succ_iff]

/-- The zone of one field. -/
def Fld.zone (f : Fld) : Zone := ⟨f.addr, 1, 1, f.hi, f.lo⟩

/-- The zone of the registers from an address on, in a window of `n` bytes. -/
def window (a n : Nat) : Zone := ⟨a, 1, n, 31, 0⟩

theorem Zone.has_iff {z : Zone} {a : Nat} :
    z.has a = true ↔ (z.base ≤ a ∧ (a - z.base) % z.stride = 0) ∧ (a - z.base) / z.stride < z.count := by
  simp only [Zone.has, Bool.and_eq_true, decide_eq_true_eq]

theorem Zone.covers_iff {z : Zone} {f : Fld} : z.covers f = true ↔ (z.has f.addr = true ∧ z.lo ≤ f.lo) ∧ f.hi ≤ z.hi := by
  simp only [Zone.covers, Bool.and_eq_true, decide_eq_true_eq]

theorem Fld.zone_has {f : Fld} {a : Nat} : f.zone.has a = true ↔ a = f.addr := by
  rw [Zone.has_iff]
  change (f.addr ≤ a ∧ (a - f.addr) % 1 = 0) ∧ (a - f.addr) / 1 < 1 ↔ _
  omega

/-- A field is a zone that covers it. -/
theorem Fld.zone_covers (f : Fld) : f.zone.covers f = true :=
   Zone.covers_iff.mpr ⟨⟨Fld.zone_has.mpr rfl, Nat.le_refl _⟩, Nat.le_refl _⟩

/-- The zone has every bit of a zone of one register. -/
def Zone.widens (z v : Zone) : Bool :=
  decide (v.count ≤ 1) && decide (v.stride = 1) && z.has v.base && decide (z.lo ≤ v.lo) && decide (v.hi ≤ z.hi)

theorem Zone.holds_of_widens {z v : Zone} {a i : Nat} (h : z.widens v = true) (hz : z.holds a i = false) : v.holds a i = false := by
  simp only [Zone.widens, Bool.and_eq_true, decide_eq_true_eq] at h
  obtain ⟨⟨⟨⟨hcount, hstride⟩, hbase⟩, hlo⟩, hhi⟩ := h
  by_cases hv : v.has a = true
  · have ha : a = v.base := by
      obtain ⟨⟨hge, -⟩, hlt⟩ := Zone.has_iff.mp hv
      rw [hstride, Nat.div_one] at hlt
      omega
    rw [Zone.holds, ha, hbase, Bool.true_and, decide_eq_false_iff_not] at hz
    rw [Zone.holds, hv, Bool.true_and, decide_eq_false_iff_not]
    omega
  · rw [Zone.holds, Bool.eq_false_iff.mpr hv, Bool.false_and]

/-- The registers of `t` are those of `s` but for the zones. -/
def ZonesBut (W : List Zone) (s t : State) : Prop :=
  ∀ a i, (∀ z ∈ W, z.holds a i = false) → (t.rd a).getLsbD i = (s.rd a).getLsbD i

/-- Words that agree in the bits of a field have the same field. -/
theorem bitsOf_congr {v w : Word} {hi lo : Nat} (h : ∀ i, lo ≤ i → i ≤ hi → v.getLsbD i = w.getLsbD i) :
    bitsOf v hi lo = bitsOf w hi lo := by
  refine Nat.eq_of_testBit_eq fun i => ?_
  unfold bitsOf
  rw [Nat.testBit_mod_two_pow, Nat.testBit_mod_two_pow, Nat.testBit_div_two_pow, Nat.testBit_div_two_pow]
  by_cases hi' : i < hi + 1 - lo
  · have hb := h (i + lo) (by omega) (by omega)
    rw [BitVec.getLsbD, BitVec.getLsbD] at hb
    rw [hb]
  · simp [hi']

theorem ZonesBut.get {W : List Zone} {s t : State} (h : ZonesBut W s t) {g : Fld} (hg : ∀ z ∈ W, z.apart g = true) :
    t.get g = s.get g := by
  refine bitsOf_congr fun i hl hh => h g.addr i fun z hz => ?_
  have ha := hg z hz
  simp only [Zone.apart, Zone.holds, Bool.or_eq_true, Bool.not_eq_true', decide_eq_true_eq, Bool.and_eq_false_iff,
    decide_eq_false_iff_not] at ha ⊢
  rcases ha with (ha | ha) | ha
  · exact .inl ha
  · exact .inr (by omega)
  · exact .inr (by omega)

theorem ZonesBut.rd {W : List Zone} {s t : State} (h : ZonesBut W s t) {a : Nat} (ha : ∀ z ∈ W, z.has a = false) :
    t.rd a = s.rd a := by
  refine BitVec.eq_of_getLsbD_eq fun i _ => h a i fun z hz => ?_
  simp [Zone.holds, ha z hz]

theorem ZonesBut.trans {W : List Zone} {s t u : State} (h : ZonesBut W s t) (k : ZonesBut W t u) : ZonesBut W s u :=
  fun a i hi => (k a i hi).trans (h a i hi)

theorem ZonesBut.mono {V W : List Zone} {s t : State} (h : ZonesBut V s t) (hV : ∀ z ∈ V, z ∈ W) : ZonesBut W s t :=
  fun a i hi => h a i fun z hz => hi z (hV z hz)

/-- Zones of fields are what `RegsBut` speaks of. -/
theorem ZonesBut.regsBut {W : List Zone} {fs : List Fld} {s t : State} (h : ZonesBut W s t)
    (hW : ∀ z ∈ W, ∃ f ∈ fs, z = f.zone) : RegsBut s t fs := by
  refine fun a i hi => h a i fun z hz => ?_
  obtain ⟨f, hf, rfl⟩ := hW z hz
  rw [Zone.holds, Bool.and_eq_false_iff]
  by_cases ha : f.addr = a
  · refine .inr (decide_eq_false ?_)
    have hb := hi f hf ha
    simp only [Fld.zone]
    omega
  · exact .inl (Bool.eq_false_iff.mpr fun hh => ha (Fld.zone_has.mp hh).symm)

/-- A field that a zone covers may be written. -/
theorem ZonesBut.put {W : List Zone} {s t : State} {f : Fld} {v : Nat} (h : ZonesBut W s t) (hc : t.canonical = true)
    (hf : ∃ z ∈ W, z.covers f = true) (hl : f.sane = true) : ZonesBut W s (t.put f v) := by
  intro a i hi
  rw [Fld.sane_iff] at hl
  obtain ⟨z, hz, hcov⟩ := hf
  rw [← h a i hi]
  by_cases ha : f.addr = a
  · subst ha
    rw [State.put, State.rd_wr_self hc, getLsbD_withBits_outside hl.1 hl.2]
    have hn := hi z hz
    obtain ⟨⟨hhas, hlo⟩, hhi⟩ := Zone.covers_iff.mp hcov
    rw [Zone.holds, hhas, Bool.true_and, decide_eq_false_iff_not] at hn
    omega
  · rw [State.rd_put_ne (Ne.symm ha)]

/-- A register that a zone has whole may be written. -/
theorem ZonesBut.wr {W : List Zone} {s t : State} {a : Nat} {w : Word} (h : ZonesBut W s t)
    (ha : ∃ z ∈ W, z.covers (wholeReg a) = true) : ZonesBut W s (t.wr a w) := by
  intro b i hi
  rw [← h b i hi]
  by_cases hb : b = a
  · obtain ⟨z, hz, hcov⟩ := ha
    subst hb
    have hn := hi z hz
    obtain ⟨⟨hhas, hlo⟩, hhi⟩ := Zone.covers_iff.mp hcov
    rw [Zone.holds, show z.has b = true from hhas, Bool.true_and, decide_eq_false_iff_not] at hn
    change z.lo ≤ 0 at hlo
    change 31 ≤ z.hi at hhi
    rw [BitVec.getLsbD_of_ge _ _ (by omega), BitVec.getLsbD_of_ge _ _ (by omega)]
  · rw [State.rd_wr_ne hb]

/-! ### Parts of the state -/

/-- The fields of the state beside the register file. -/
inductive Part where
  | pending | shadow | saved | crs | tok | ringSeq | nvm | ecc | scrub | uptime | free | freeLevel | rtc | pow | rm | cmd
  | jrn | bill | act | kpd | ame | shot | sens | mps | safe | keys | link | disp | mgmt | pins
  deriving DecidableEq

/-- A part is the same in two states. -/
def Part.same (p : Part) (s t : State) : Prop := match p with
  | .pending => t.pending = s.pending
  | .shadow => t.shadow = s.shadow
  | .saved => t.saved = s.saved
  | .crs => t.crs = s.crs
  | .tok => t.tok = s.tok
  | .ringSeq => t.ringSeq = s.ringSeq
  | .nvm => t.nvm = s.nvm
  | .ecc => t.ecc = s.ecc
  | .scrub => t.scrub = s.scrub
  | .uptime => t.uptime = s.uptime
  | .free => t.free = s.free
  | .freeLevel => t.freeLevel = s.freeLevel
  | .rtc => t.rtc = s.rtc
  | .pow => t.pow = s.pow
  | .rm => t.rm = s.rm
  | .cmd => t.cmd = s.cmd
  | .jrn => t.jrn = s.jrn
  | .bill => t.bill = s.bill
  | .act => t.act = s.act
  | .kpd => t.kpd = s.kpd
  | .ame => t.ame = s.ame
  | .shot => t.shot = s.shot
  | .sens => t.sens = s.sens
  | .mps => t.mps = s.mps
  | .safe => t.safe = s.safe
  | .keys => t.keys = s.keys
  | .link => t.link = s.link
  | .disp => t.disp = s.disp
  | .mgmt => t.mgmt = s.mgmt
  | .pins => t.pins = s.pins

theorem Part.same_refl (s : State) (p : Part) : p.same s s := by cases p <;> exact rfl

theorem Part.same_trans {s t u : State} (p : Part) (h : p.same s t) (k : p.same t u) : p.same s u := by
  cases p <;> exact Eq.trans k h

/-- From `s` the canonical `t` differs in the bits of the zones `W` and in the parts `L` alone. -/
structure Changes (W : List Zone) (L : List Part) (s t : State) : Prop where
  canonical : t.canonical = true
  zones : ZonesBut W s t
  parts : ∀ p, p ∉ L → p.same s t

section
variable {V W : List Zone} {L M : List Part} {s0 s t : State}

theorem Changes.refl (hc : s.canonical = true) : Changes W L s s := ⟨hc, fun _ _ _ => rfl, fun p _ => p.same_refl s⟩

theorem Changes.mono (h : Changes V M s t) (hV : ∀ z ∈ V, z ∈ W := by decide) (hM : ∀ p ∈ M, p ∈ L := by decide) : Changes W L s t :=
  ⟨h.canonical, h.zones.mono hV, fun p hp => h.parts p fun hm => hp (hM p hm)⟩

theorem Changes.trans (h : Changes W L s0 s) (k : Changes W L s t) : Changes W L s0 t :=
  ⟨k.canonical, h.zones.trans k.zones, fun p hp => p.same_trans (h.parts p hp) (k.parts p hp)⟩

/-- An operation whose zones and parts are among those that may change. -/
theorem Changes.next (h : Changes W L s0 s) (k : Changes V M s t) (hV : ∀ z ∈ V, z ∈ W := by decide)
    (hM : ∀ p ∈ M, p ∈ L := by decide) : Changes W L s0 t := h.trans (k.mono hV hM)

/-- Zones wider than those that may change. -/
theorem Changes.cover (h : Changes V M s t) (hV : ∀ v ∈ V, ∃ z ∈ W, z.widens v = true := by decide)
    (hM : ∀ p ∈ M, p ∈ L := by decide) : Changes W L s t :=
  ⟨h.canonical, fun a i hi => h.zones a i fun v hv => by
    obtain ⟨z, hz, hw⟩ := hV v hv
    exact Zone.holds_of_widens hw (hi z hz), fun p hp => h.parts p fun hm => hp (hM p hm)⟩

theorem Changes.ite {c : Prop} [Decidable c] (hs : Changes W L s0 s) (ht : Changes W L s0 t) :
    Changes W L s0 (if c then s else t) := by split <;> assumption

theorem Changes.foldl {α : Type} {f : State → α → State} {xs : List α} (h : Changes W L s0 s)
    (hf : ∀ t, ∀ x ∈ xs, Changes W L s0 t → Changes W L s0 (f t x)) : Changes W L s0 (xs.foldl f s) := by
  induction xs generalizing s with
  | nil => exact h
  | cons x xs ih => exact ih (hf s x List.mem_cons_self h) fun t y hy => hf t y (List.mem_cons_of_mem x hy)

theorem Changes.get (h : Changes W L s t) (g : Fld) (hg : ∀ z ∈ W, z.apart g = true := by decide) : t.get g = s.get g := h.zones.get hg

theorem Changes.getI (h : Changes W L s t) (g : Fld) (hg : ∀ z ∈ W, z.apart g = true := by decide) : t.getI g = s.getI g := by
  rw [State.getI, State.getI, h.get g hg]

theorem Changes.flag (h : Changes W L s t) (g : Fld) (hg : ∀ z ∈ W, z.apart g = true := by decide) : t.flag g = s.flag g := by
  rw [State.flag, State.flag, h.get g hg]

theorem Changes.rd (h : Changes W L s t) (a : Nat) (ha : ∀ z ∈ W, z.has a = false := by decide) : t.rd a = s.rd a := h.zones.rd ha

theorem Changes.regsBut (h : Changes W L s t) {fs : List Fld} (hW : ∀ z ∈ W, ∃ f ∈ fs, z = f.zone := by decide) :
    RegsBut s t fs := h.zones.regsBut hW

/-! ### Blocks -/

/-- The zone has no register in the window of a block. -/
def Zone.clearOf (z : Zone) (b : Block) : Bool :=
  decide (0 < z.stride) && (decide (z.base + z.stride * z.count ≤ blockBase b) || decide (blockBase b + 0x8000 ≤ z.base))

theorem ite_some_elim {α : Type} {P : α → Prop} {c : Prop} [Decidable c] {x y : Option α} (hx : c → ∀ b, x = some b → P b)
    (hy : ¬c → ∀ b, y = some b → P b) : ∀ b, (if c then x else y) = some b → P b := by
  split <;> simp_all

/-- A block's registers lie in its window. -/
theorem blockOfAddr_window {a : Nat} {b : Block} (h : blockOfAddr a = some b) : blockBase b ≤ a ∧ a < blockBase b + 0x8000 := by
  revert b
  unfold blockOfAddr
  extract_lets w
  have one {x : Block} (hb : w = blockBase x / 0x8000) (hx : blockBase x % 0x8000 = 0) :
      ∀ b, some x = some b → blockBase b ≤ a ∧ a < blockBase b + 0x8000 := by
    rintro _ ⟨⟩
    omega
  iterate 6 refine ite_some_elim (fun hw => one hw rfl) fun _ => ?_
  refine ite_some_elim (fun hw => ite_some_elim (fun _ => one hw rfl) fun h1 => ite_some_elim (fun h2 => ?mpb) fun _ => nofun) fun _ => ?_
  case mpb =>
    rintro _ ⟨⟩
    simp only [blockBase]
    omega
  iterate 12 refine ite_some_elim (fun hw => one hw rfl) fun _ => ?_
  exact ite_some_elim (fun hw => one hw rfl) fun _ => nofun

theorem Zone.not_has_of_clearOf {z : Zone} {b : Block} {a : Nat} (hz : z.clearOf b = true) (ha : blockOfAddr a = some b) :
    z.has a = false := by
  refine Bool.eq_false_iff.mpr fun hh => ?_
  obtain ⟨hge, hlt⟩ := blockOfAddr_window ha
  obtain ⟨⟨hb, -⟩, hc⟩ := Zone.has_iff.mp hh
  simp only [Zone.clearOf, Bool.and_eq_true, Bool.or_eq_true, decide_eq_true_eq] at hz
  have hd : a - z.base < z.stride * z.count := by
    rw [Nat.mul_comm]
    exact (Nat.div_lt_iff_lt_mul hz.1).mp hc
  omega

/-- What happens elsewhere keeps a block's registers. -/
theorem Changes.blockKept (h : Changes W L s t) (b : Block) (hW : ∀ z ∈ W, z.clearOf b = true := by decide) : BlockKept s t b :=
  fun _ ha => h.zones.rd fun z hz => Zone.not_has_of_clearOf (hW z hz) ha

/-- What happens elsewhere keeps a block reset. -/
theorem Changes.blockReset (h : Changes W L s t) {b : Block} (hb : BlockReset s b) (hW : ∀ z ∈ W, z.clearOf b = true := by decide) :
    BlockReset t b := fun a ha => (h.blockKept b hW a ha).trans (hb a ha)

/-! ### Register writes -/

theorem Changes.put (h : Changes W L s0 s) {f : Fld} {v : Nat} (hf : ∃ z ∈ W, z.covers f = true := by decide)
    (hl : f.sane = true := by rfl) : Changes W L s0 (s.put f v) :=
  ⟨State.put_canonical h.canonical, h.zones.put h.canonical hf hl, h.parts⟩

theorem Changes.putI (h : Changes W L s0 s) {f : Fld} {v : Int} (hf : ∃ z ∈ W, z.covers f = true := by decide)
    (hl : f.sane = true := by rfl) : Changes W L s0 (s.putI f v) := h.put hf hl

theorem Changes.set1 (h : Changes W L s0 s) {f : Fld} (hf : ∃ z ∈ W, z.covers f = true := by decide)
    (hl : f.sane = true := by rfl) : Changes W L s0 (s.set1 f) := h.put hf hl

theorem Changes.clr (h : Changes W L s0 s) {f : Fld} (hf : ∃ z ∈ W, z.covers f = true := by decide)
    (hl : f.sane = true := by rfl) : Changes W L s0 (s.clr f) := h.put hf hl

theorem Changes.putB (h : Changes W L s0 s) {f : Fld} {b : Bool} (hf : ∃ z ∈ W, z.covers f = true := by decide)
    (hl : f.sane = true := by rfl) : Changes W L s0 (s.putB f b) := h.put hf hl

theorem Changes.bump (h : Changes W L s0 s) {f : Fld} {n : Nat} (hf : ∃ z ∈ W, z.covers f = true := by decide)
    (hl : f.sane = true := by rfl) : Changes W L s0 (s.bump f n) := h.put hf hl

theorem Changes.wr (h : Changes W L s0 s) {a : Nat} {w : Word} (ha : ∃ z ∈ W, z.covers (wholeReg a) = true := by decide) :
    Changes W L s0 (s.wr a w) := ⟨State.wr_canonical h.canonical, h.zones.wr ha, h.parts⟩

/-- An operation that leaves the registers. -/
theorem Changes.same_regs (h : Changes W L s0 s) (hc : t.canonical = true) (hr : t.regs = s.regs) (hp : ∀ p, p ∉ L → p.same s t) :
    Changes W L s0 t := by
  refine ⟨hc, fun a i hi => ?_, fun p hn => p.same_trans (h.parts p hn) (hp p hn)⟩
  rw [← h.zones a i hi, State.rd, State.rd, hr]

/-! ### What is kept, part by part -/

theorem Changes.pending (h : Changes W L s t) (hp : Part.pending ∉ L := by decide) : t.pending = s.pending := h.parts .pending hp
theorem Changes.shadow (h : Changes W L s t) (hp : Part.shadow ∉ L := by decide) : t.shadow = s.shadow := h.parts .shadow hp
theorem Changes.saved (h : Changes W L s t) (hp : Part.saved ∉ L := by decide) : t.saved = s.saved := h.parts .saved hp
theorem Changes.crs (h : Changes W L s t) (hp : Part.crs ∉ L := by decide) : t.crs = s.crs := h.parts .crs hp
theorem Changes.tok (h : Changes W L s t) (hp : Part.tok ∉ L := by decide) : t.tok = s.tok := h.parts .tok hp
theorem Changes.ringSeq (h : Changes W L s t) (hp : Part.ringSeq ∉ L := by decide) : t.ringSeq = s.ringSeq := h.parts .ringSeq hp
theorem Changes.nvm (h : Changes W L s t) (hp : Part.nvm ∉ L := by decide) : t.nvm = s.nvm := h.parts .nvm hp
theorem Changes.ecc (h : Changes W L s t) (hp : Part.ecc ∉ L := by decide) : t.ecc = s.ecc := h.parts .ecc hp
theorem Changes.scrub (h : Changes W L s t) (hp : Part.scrub ∉ L := by decide) : t.scrub = s.scrub := h.parts .scrub hp
theorem Changes.uptime (h : Changes W L s t) (hp : Part.uptime ∉ L := by decide) : t.uptime = s.uptime := h.parts .uptime hp
theorem Changes.free (h : Changes W L s t) (hp : Part.free ∉ L := by decide) : t.free = s.free := h.parts .free hp
theorem Changes.freeLevel (h : Changes W L s t) (hp : Part.freeLevel ∉ L := by decide) : t.freeLevel = s.freeLevel := h.parts .freeLevel hp
theorem Changes.rtc (h : Changes W L s t) (hp : Part.rtc ∉ L := by decide) : t.rtc = s.rtc := h.parts .rtc hp
theorem Changes.pow (h : Changes W L s t) (hp : Part.pow ∉ L := by decide) : t.pow = s.pow := h.parts .pow hp
theorem Changes.rm (h : Changes W L s t) (hp : Part.rm ∉ L := by decide) : t.rm = s.rm := h.parts .rm hp
theorem Changes.cmd (h : Changes W L s t) (hp : Part.cmd ∉ L := by decide) : t.cmd = s.cmd := h.parts .cmd hp
theorem Changes.jrn (h : Changes W L s t) (hp : Part.jrn ∉ L := by decide) : t.jrn = s.jrn := h.parts .jrn hp
theorem Changes.bill (h : Changes W L s t) (hp : Part.bill ∉ L := by decide) : t.bill = s.bill := h.parts .bill hp
theorem Changes.act (h : Changes W L s t) (hp : Part.act ∉ L := by decide) : t.act = s.act := h.parts .act hp
theorem Changes.kpd (h : Changes W L s t) (hp : Part.kpd ∉ L := by decide) : t.kpd = s.kpd := h.parts .kpd hp
theorem Changes.ame (h : Changes W L s t) (hp : Part.ame ∉ L := by decide) : t.ame = s.ame := h.parts .ame hp
theorem Changes.shot (h : Changes W L s t) (hp : Part.shot ∉ L := by decide) : t.shot = s.shot := h.parts .shot hp
theorem Changes.sens (h : Changes W L s t) (hp : Part.sens ∉ L := by decide) : t.sens = s.sens := h.parts .sens hp
theorem Changes.mps (h : Changes W L s t) (hp : Part.mps ∉ L := by decide) : t.mps = s.mps := h.parts .mps hp
theorem Changes.safe (h : Changes W L s t) (hp : Part.safe ∉ L := by decide) : t.safe = s.safe := h.parts .safe hp
theorem Changes.keys (h : Changes W L s t) (hp : Part.keys ∉ L := by decide) : t.keys = s.keys := h.parts .keys hp
theorem Changes.link (h : Changes W L s t) (hp : Part.link ∉ L := by decide) : t.link = s.link := h.parts .link hp
theorem Changes.disp (h : Changes W L s t) (hp : Part.disp ∉ L := by decide) : t.disp = s.disp := h.parts .disp hp
theorem Changes.mgmt (h : Changes W L s t) (hp : Part.mgmt ∉ L := by decide) : t.mgmt = s.mgmt := h.parts .mgmt hp
theorem Changes.pins (h : Changes W L s t) (hp : Part.pins ∉ L := by decide) : t.pins = s.pins := h.parts .pins hp

/-! ### Updates of the parts that no store is in -/

theorem Changes.setSaved (h : Changes W L s0 s) {x} (hp : Part.saved ∈ L := by decide) : Changes W L s0 { s with saved := x } :=
  h.same_regs h.canonical rfl fun p hn => by cases p <;> first | exact rfl | exact absurd hp hn

theorem Changes.setEcc (h : Changes W L s0 s) {x} (hp : Part.ecc ∈ L := by decide) : Changes W L s0 { s with ecc := x } :=
  h.same_regs h.canonical rfl fun p hn => by cases p <;> first | exact rfl | exact absurd hp hn

theorem Changes.setScrub (h : Changes W L s0 s) {x} (hp : Part.scrub ∈ L := by decide) : Changes W L s0 { s with scrub := x } :=
  h.same_regs h.canonical rfl fun p hn => by cases p <;> first | exact rfl | exact absurd hp hn

theorem Changes.setUptime (h : Changes W L s0 s) {x} (hp : Part.uptime ∈ L := by decide) : Changes W L s0 { s with uptime := x } :=
  h.same_regs h.canonical rfl fun p hn => by cases p <;> first | exact rfl | exact absurd hp hn

theorem Changes.setFree (h : Changes W L s0 s) {x} (hp : Part.free ∈ L := by decide) : Changes W L s0 { s with free := x } :=
  h.same_regs h.canonical rfl fun p hn => by cases p <;> first | exact rfl | exact absurd hp hn

theorem Changes.setFreeLevel (h : Changes W L s0 s) {x} (hp : Part.freeLevel ∈ L := by decide) : Changes W L s0 { s with freeLevel := x } :=
  h.same_regs h.canonical rfl fun p hn => by cases p <;> first | exact rfl | exact absurd hp hn

theorem Changes.setRtc (h : Changes W L s0 s) {x} (hp : Part.rtc ∈ L := by decide) : Changes W L s0 { s with rtc := x } :=
  h.same_regs h.canonical rfl fun p hn => by cases p <;> first | exact rfl | exact absurd hp hn

theorem Changes.setPow (h : Changes W L s0 s) {x} (hp : Part.pow ∈ L := by decide) : Changes W L s0 { s with pow := x } :=
  h.same_regs h.canonical rfl fun p hn => by cases p <;> first | exact rfl | exact absurd hp hn

theorem Changes.setRm (h : Changes W L s0 s) {x} (hp : Part.rm ∈ L := by decide) : Changes W L s0 { s with rm := x } :=
  h.same_regs h.canonical rfl fun p hn => by cases p <;> first | exact rfl | exact absurd hp hn

theorem Changes.setJrn (h : Changes W L s0 s) {x} (hp : Part.jrn ∈ L := by decide) : Changes W L s0 { s with jrn := x } :=
  h.same_regs h.canonical rfl fun p hn => by cases p <;> first | exact rfl | exact absurd hp hn

theorem Changes.setBill (h : Changes W L s0 s) {x} (hp : Part.bill ∈ L := by decide) : Changes W L s0 { s with bill := x } :=
  h.same_regs h.canonical rfl fun p hn => by cases p <;> first | exact rfl | exact absurd hp hn

theorem Changes.setAct (h : Changes W L s0 s) {x} (hp : Part.act ∈ L := by decide) : Changes W L s0 { s with act := x } :=
  h.same_regs h.canonical rfl fun p hn => by cases p <;> first | exact rfl | exact absurd hp hn

theorem Changes.setKpd (h : Changes W L s0 s) {x} (hp : Part.kpd ∈ L := by decide) : Changes W L s0 { s with kpd := x } :=
  h.same_regs h.canonical rfl fun p hn => by cases p <;> first | exact rfl | exact absurd hp hn

theorem Changes.setAme (h : Changes W L s0 s) {x} (hp : Part.ame ∈ L := by decide) : Changes W L s0 { s with ame := x } :=
  h.same_regs h.canonical rfl fun p hn => by cases p <;> first | exact rfl | exact absurd hp hn

theorem Changes.setShot (h : Changes W L s0 s) {x} (hp : Part.shot ∈ L := by decide) : Changes W L s0 { s with shot := x } :=
  h.same_regs h.canonical rfl fun p hn => by cases p <;> first | exact rfl | exact absurd hp hn

theorem Changes.setSens (h : Changes W L s0 s) {x} (hp : Part.sens ∈ L := by decide) : Changes W L s0 { s with sens := x } :=
  h.same_regs h.canonical rfl fun p hn => by cases p <;> first | exact rfl | exact absurd hp hn

theorem Changes.setMps (h : Changes W L s0 s) {x} (hp : Part.mps ∈ L := by decide) : Changes W L s0 { s with mps := x } :=
  h.same_regs h.canonical rfl fun p hn => by cases p <;> first | exact rfl | exact absurd hp hn

theorem Changes.setSafe (h : Changes W L s0 s) {x} (hp : Part.safe ∈ L := by decide) : Changes W L s0 { s with safe := x } :=
  h.same_regs h.canonical rfl fun p hn => by cases p <;> first | exact rfl | exact absurd hp hn

theorem Changes.setKeys (h : Changes W L s0 s) {x} (hp : Part.keys ∈ L := by decide) : Changes W L s0 { s with keys := x } :=
  h.same_regs h.canonical rfl fun p hn => by cases p <;> first | exact rfl | exact absurd hp hn

theorem Changes.setLink (h : Changes W L s0 s) {x} (hp : Part.link ∈ L := by decide) : Changes W L s0 { s with link := x } :=
  h.same_regs h.canonical rfl fun p hn => by cases p <;> first | exact rfl | exact absurd hp hn

theorem Changes.setDisp (h : Changes W L s0 s) {x} (hp : Part.disp ∈ L := by decide) : Changes W L s0 { s with disp := x } :=
  h.same_regs h.canonical rfl fun p hn => by cases p <;> first | exact rfl | exact absurd hp hn

theorem Changes.setMgmt (h : Changes W L s0 s) {x} (hp : Part.mgmt ∈ L := by decide) : Changes W L s0 { s with mgmt := x } :=
  h.same_regs h.canonical rfl fun p hn => by cases p <;> first | exact rfl | exact absurd hp hn

theorem Changes.setPins (h : Changes W L s0 s) {x} (hp : Part.pins ∈ L := by decide) : Changes W L s0 { s with pins := x } :=
  h.same_regs h.canonical rfl fun p hn => by cases p <;> first | exact rfl | exact absurd hp hn

/-- The carriers may change where no tunnel does. -/
theorem Changes.setCmd (h : Changes W L s0 s) {x : Cmd} (hx : x.tun = s.cmd.tun := by rfl) (hp : Part.cmd ∈ L := by decide) :
    Changes W L s0 { s with cmd := x } := by
  refine h.same_regs ?_ rfl fun p hn => by cases p <;> first | exact rfl | exact absurd hp hn
  have hc := h.canonical
  rw [State.canonical, ← hx] at hc
  exact hc

end

/-- An operation that keeps canonical stores and leaves the registers. -/
theorem Changes.of_keeps {W : List Zone} {L : List Part} {s t : State} (hc : s.canonical = true) (hk : Keeps s t)
    (hr : t.regs = s.regs) (hp : ∀ p, p ∉ L → p.same s t) : Changes W L s t :=
  (Changes.refl hc).same_regs (hk.2.1 hc) hr hp

/-! ### What a field reads after it has been written -/

section
variable {s : State} {f : Fld}

theorem State.get_put (hc : s.canonical = true) {v : Nat} (hv : v < 2 ^ (f.hi + 1 - f.lo)) (hf : f.sane = true := by rfl) :
    (s.put f v).get f = v := by
  obtain ⟨hl, hh⟩ := Fld.sane_iff.mp hf
  exact State.get_put_self hc hl hh hv

theorem State.set1_flag (hc : s.canonical = true) (hf : f.sane = true := by rfl) : (s.set1 f).flag f = true := by
  obtain ⟨hl, hh⟩ := Fld.sane_iff.mp hf
  exact State.flag_set1 hc hl hh

theorem State.clr_flag (hc : s.canonical = true) (hf : f.sane = true := by rfl) : (s.clr f).flag f = false := by
  obtain ⟨hl, hh⟩ := Fld.sane_iff.mp hf
  exact State.flag_clr hc hl hh

theorem State.clr_get (hc : s.canonical = true) (hf : f.sane = true := by rfl) : (s.clr f).get f = 0 :=
  State.get_put hc (Nat.two_pow_pos _) hf

theorem State.putB_flag (hc : s.canonical = true) (b : Bool) (hf : f.sane = true := by rfl) : (s.putB f b).flag f = b := by
  cases b
  · exact State.clr_flag hc hf
  · exact State.set1_flag hc hf

/-- A counter counts up to its largest value. -/
theorem State.bump_get (hc : s.canonical = true) (n : Nat) (hf : f.sane = true := by rfl) :
    (s.bump f n).get f = min (s.get f + n) (2 ^ (f.hi + 1 - f.lo) - 1) :=
  State.get_put hc (Nat.lt_of_le_of_lt (Nat.min_le_right _ _) (Nat.sub_lt (Nat.two_pow_pos _) Nat.one_pos)) hf

/-- Signed values: what is written in range is read. -/
theorem State.getI_of_get {t : State} (h : t.get f = s.get f) : t.getI f = s.getI f := by rw [State.getI, State.getI, h]

end

/-! ### A block of registers reset -/

section
variable {s : State} {bs : List Block} {a : Nat}

theorem sget_sdrop {α : Type} {d : Nat → α} {p : Nat → Bool} {l : List (Nat × α)} {k : Nat} :
    sget d (sdrop p l) k = if p k then d k else sget d l k := by
  induction l with
  | nil => simp [sdrop, sget]
  | cons c l ih =>
    obtain ⟨a, v⟩ := c
    unfold sdrop at ih ⊢
    by_cases hp : p a = true
    · rw [List.filter_cons_of_neg (by simp [hp]), ih]
      by_cases ha : a = k
      · subst ha; simp [hp]
      · simp [sget, ha]
    · rw [List.filter_cons_of_pos (by simp [hp])]
      by_cases ha : a = k
      · subst ha; simp [sget, hp]
      · simp only [sget, ha, if_false]
        exact ih

/-- A reset of blocks gives their registers their reset values and leaves the others. -/
theorem State.rd_resetBlocks : (s.resetBlocks bs).rd a = if bs.any (fun b => inBlock b a) then regReset a else s.rd a :=
  sget_sdrop (p := fun a => bs.any fun b => inBlock b a)

theorem State.rd_resetBlocks_of_mem {b : Block} (hb : b ∈ bs) (ha : blockOfAddr a = some b) :
    (s.resetBlocks bs).rd a = regReset a := by
  rw [State.rd_resetBlocks, if_pos]
  exact List.any_eq_true.mpr ⟨b, hb, by simp [inBlock, ha]⟩

theorem State.rd_resetBlocks_of_not_mem (ha : ∀ b ∈ bs, blockOfAddr a ≠ some b) : (s.resetBlocks bs).rd a = s.rd a := by
  rw [State.rd_resetBlocks, if_neg]
  simpa [inBlock] using ha

theorem State.resetBlocks_canonical (hc : s.canonical = true) : (s.resetBlocks bs).canonical = true :=
  (State.resetBlocks_keeps (Keeps.refl s)).2.1 hc

end

end Sys2Proof.Machine
end

section
set_option Elab.async false
/-! PROOF. What the shared operations may change (Machine/Ops.lean, Machine/Clock.lean), one lemma per operation: the passage of time,
the logs, the tampers, a detection and the safe state. -/

namespace Sys2Proof.Machine

/-! ### The zones -/

/-- What a trouble-log entry shows in. -/
def logZones : List Zone := [(F.SYS_RING_B_FILL 7).zone, (F.SYS_RING_B_HEAD 7).zone, F.LOG_TSEQ_SEQ.zone, F.LOG_TSTAT_OVF.zone]

/-- The retained bytes. -/
def retZone : Zone := window (F.RTC_RET 0) 32

/-- What a legal event shows in. -/
def legalZones : List Zone := [F.LOG_LSTAT_PEND.zone, F.LOG_LSTAT_LOST.zone, retZone]

/-- What a time write or an untrusted time shows of the link's neighbours. -/
def neighbourZones : List Zone := [⟨F.LINK_NB_B 0, 32, 32, 31, 30⟩, ⟨F.LINK_NB_C 0, 32, 32, 31, 0⟩, ⟨F.LINK_NB_D 0, 32, 32, 31, 16⟩]

/-- What the clock's own edges show in. -/
def clockZones : List Zone :=
  [F.RTC_SEC_SEC.zone, F.RTC_FRAC_FRAC.zone, window F.RTC_CAPSEC 16, ⟨F.RTC_STAT, 1, 1, 7, 0⟩, F.RTC_STAT_CDTEXP.zone,
   F.RTC_STAT_CBUSY.zone, F.RTC_STEP_STEP.zone, F.RTC_STEPFRAC_FRAC.zone, F.RTC_TRIM_APPLIED.zone, F.RTC_CDT_COUNT.zone]

/-- What a capture shows in. -/
def captureZones : List Zone := [window F.RTC_CAPSEC 16, F.RTC_STAT_CBUSY.zone]

/-- What the countdown timer shows in. -/
def cdtZones : List Zone := [F.RTC_STAT_CDTEXP.zone, F.RTC_CDT_COUNT.zone] ++ logZones ++ [retZone, F.PWR_STATE_STATE.zone]

/-- What the passage of time shows in. -/
def timeZones : List Zone := clockZones ++ neighbourZones ++ logZones ++ [retZone, F.PWR_STATE_STATE.zone]

/-- The parts that a trouble-log entry changes. -/
def logParts : List Part := [.crs, .tok, .ecc]

/-- The parts that the clock's edges change. -/
def edgeParts : List Part := [.crs, .tok, .ecc, .rtc, .jrn]

/-- The parts that the passage of time changes. -/
def timeParts : List Part := [.crs, .tok, .ecc, .uptime, .rtc, .cmd, .jrn]

/-! ### Memories and the trouble log -/

section
variable {W : List Zone} {L : List Part} {s0 s : State}

theorem State.setToken_changes (h : Changes W L s0 s) (i v : Nat) (hL : .tok ∈ L := by decide) : Changes W L s0 (s.setToken i v) :=
  h.trans (.of_keeps h.canonical (State.setToken_keeps (Keeps.refl s)) rfl fun p hp => by
    cases p <;> first | exact rfl | exact absurd hL hp)

theorem State.moveToken_changes (h : Changes W L s0 s) (r slot v : Nat)
    (hW : ∃ z ∈ W, z.covers (F.SYS_RING_B_FILL r) = true := by decide) (hL : .tok ∈ L := by decide) :
    Changes W L s0 (s.moveToken r slot v) := by
  have ht := State.setToken_changes h slot v hL
  exact .ite ht (.ite (ht.put hW) (ht.put hW))

theorem State.crsWrite_changes (h : Changes W L s0 s) (a : Nat) (bs : List Byte) (hc : .crs ∈ L := by decide)
    (he : .ecc ∈ L := by decide) : Changes W L s0 (s.crsWrite a bs) :=
  h.trans (.of_keeps h.canonical (State.crsWrite_keeps (Keeps.refl s)) rfl fun p hp => by
    cases p <;> first | exact rfl | exact absurd hc hp | exact absurd he hp)

theorem State.nvmWrite_changes (h : Changes W L s0 s) (a : Nat) (bs : List Byte) (hn : .nvm ∈ L := by decide) :
    Changes W L s0 (s.nvmWrite a bs) :=
  h.trans (.of_keeps h.canonical (State.nvmWrite_keeps (Keeps.refl s)) rfl fun p hp => by
    cases p <;> first | exact rfl | exact absurd hn hp)

theorem State.nextSeq_changes (h : Changes W L s0 s) (r : Nat) (hL : .ringSeq ∈ L := by decide) : Changes W L s0 (s.nextSeq r).2 :=
  h.trans (.of_keeps h.canonical (State.nextSeq_keeps (Keeps.refl s)) rfl fun p hp => by
    cases p <;> first | exact rfl | exact absurd hL hp)

end

section
variable {s : State}

theorem State.logTrouble_changes (hc : s.canonical = true) (code source data : Nat) :
    Changes logZones logParts s (s.logTrouble code source data) := by
  unfold State.logTrouble
  extract_lets -merge -underBinder n flags e slot s1 s2 s3
  have h1 : Changes logZones logParts s s1 := State.crsWrite_changes (State.moveToken_changes (.refl hc) _ _ _) _ _
  have h2 : Changes logZones logParts s s2 := State.moveToken_changes h1 _ _ _
  have h3 : Changes logZones logParts s s3 := .ite h2.bump h2
  exact h3.put.put

/-! ### The retained bytes -/

/-- A retained byte lies in the window of the retained bytes. -/
theorem retZone_covers {i : Nat} (hi : i < 32) : retZone.covers ⟨F.RTC_RET (i / 4), 8 * (i % 4) + 7, 8 * (i % 4)⟩ = true := by
  simp only [Zone.covers_iff, Zone.has_iff, retZone, window, F.RTC_RET]
  omega

theorem State.retPut_changes (hc : s.canonical = true) {i : Nat} (hi : i < 32) (v : Nat) : Changes [retZone] [] s (s.retPut i v) :=
  (Changes.refl hc).put (f := ⟨F.RTC_RET (i / 4), 8 * (i % 4) + 7, 8 * (i % 4)⟩) ⟨_, List.mem_singleton_self _, retZone_covers hi⟩
    (Fld.sane_iff.mpr ⟨by dsimp only; omega, by dsimp only; omega⟩)

theorem State.retPutAll_changes (hc : s.canonical = true) {i : Nat} {vs : List Nat} (hi : i + vs.length ≤ 32) :
    Changes [retZone] [] s (s.retPutAll i vs) := by
  induction vs generalizing s i with
  | nil => exact .refl hc
  | cons v vs ih =>
    rw [List.length_cons] at hi
    have h := State.retPut_changes hc (i := i) (by omega) v
    exact h.trans (ih h.canonical (by omega))

theorem State.retSeal_changes (hc : s.canonical = true) : Changes [retZone] [] s s.retSeal := by
  have h := State.retPut_changes hc (i := 0x1E) (by decide) (s.retCheck % 256)
  exact h.trans (State.retPut_changes h.canonical (by decide) _)

theorem State.retWrite_changes (hc : s.canonical = true) {i : Nat} {vs : List Nat} (hi : Nat.ble (i + vs.length) 32 = true := by rfl) :
    Changes [retZone] [] s (s.retWrite i vs) := by
  have h := State.retPutAll_changes hc (Nat.le_of_ble_eq_true hi)
  exact h.trans (State.retSeal_changes h.canonical)

/-! ### The power state -/

theorem State.enterPower_changes (hc : s.canonical = true) (v : Nat) : Changes [F.PWR_STATE_STATE.zone] [] s (s.enterPower v) :=
  (Changes.refl hc).put

theorem State.restPower_changes (hc : s.canonical = true) : Changes [F.PWR_STATE_STATE.zone] [] s s.restPower :=
  State.enterPower_changes hc _

theorem State.settlePower_changes (hc : s.canonical = true) : Changes [F.PWR_STATE_STATE.zone] [] s s.settlePower :=
  .ite (State.restPower_changes hc) (.refl hc)

theorem State.wakeCore_changes (hc : s.canonical = true) : Changes [F.PWR_STATE_STATE.zone] [] s s.wakeCore :=
  .ite (State.enterPower_changes hc _) (.refl hc)

theorem State.endPhases_changes (hc : s.canonical = true) :
    Changes [F.FT_PHASE_PHASE.zone, F.PWR_STATE_STATE.zone] [] s s.endPhases := by
  have h : Changes [F.FT_PHASE_PHASE.zone, F.PWR_STATE_STATE.zone] [] s (s.put F.FT_PHASE_PHASE 5) := (Changes.refl hc).put
  exact h.next (State.restPower_changes h.canonical)

/-! ### The clock -/

/-- The neighbours' registers that the clock writes are in their zones. -/
theorem neighbourZones_cover {n : Nat} (hn : n < 32) :
    (∃ z ∈ neighbourZones, z.covers (F.LINK_NB_B_PHASEOK n) = true) ∧ (∃ z ∈ neighbourZones, z.covers (F.LINK_NB_B_DRIFTOK n) = true)
    ∧ (∃ z ∈ neighbourZones, z.covers (F.LINK_NB_C_PSEC n) = true) ∧ ∃ z ∈ neighbourZones, z.covers (F.LINK_NB_D_PFRAC n) = true := by
  simp only [neighbourZones, List.mem_cons, List.not_mem_nil, or_false, exists_eq_or_imp, exists_eq_left, Zone.covers_iff, Zone.has_iff,
    F.LINK_NB_B_PHASEOK, F.LINK_NB_B_DRIFTOK, F.LINK_NB_C_PSEC, F.LINK_NB_D_PFRAC, F.LINK_NB_B, F.LINK_NB_C, F.LINK_NB_D]
  omega

theorem State.linkUntrust_changes (hc : s.canonical = true) : Changes neighbourZones [] s s.linkUntrust :=
  (Changes.refl hc).foldl fun _ n hn ht => by
    obtain ⟨hp, hd, -, -⟩ := neighbourZones_cover (List.mem_range.mp hn)
    exact (ht.clr hp).clr hd

theorem State.linkShift_changes (hc : s.canonical = true) (d : Int) : Changes neighbourZones [] s (s.linkShift d) :=
  (Changes.refl hc).foldl fun _ n hn ht => by
    obtain ⟨-, -, hs, hf⟩ := neighbourZones_cover (List.mem_range.mp hn)
    exact .ite ((ht.put hs).put hf) ht

theorem State.setOsf_changes (hc : s.canonical = true) {cause : Fld} {W : List Zone} (hW : ∀ z ∈ neighbourZones, z ∈ W)
    (ho : ∃ z ∈ W, z.covers F.RTC_STAT_OSF = true) (hf : ∃ z ∈ W, z.covers cause = true) (hl : cause.sane = true := by rfl) :
    Changes W [] s (s.setOsf cause) := by
  have h : Changes W [] s ((s.set1 F.RTC_STAT_OSF).set1 cause) := ((Changes.refl hc).set1 ho).set1 hf hl
  exact h.trans ((State.linkUntrust_changes h.canonical).mono hW)

theorem State.cdtExpire_changes (hc : s.canonical = true) : Changes cdtZones edgeParts s s.cdtExpire := by
  have h1 : Changes cdtZones edgeParts s ((s.clr F.RTC_CDT_COUNT).set1 F.RTC_STAT_CDTEXP) := ((Changes.refl hc).clr).set1
  have h2 := h1.next (State.wakeCore_changes h1.canonical)
  exact .ite (h2.next (State.logTrouble_changes h2.canonical _ _ _))
    (.ite (h1.next (State.retWrite_changes h1.canonical)) h1)

theorem State.cdtEdges_changes (hc : s.canonical = true) (e : Nat) : Changes cdtZones edgeParts s (s.cdtEdges e) := by
  have h1 : Changes cdtZones edgeParts s { s with rtc := { s.rtc with pre := (s.rtc.pre + e) % 128 } } := (Changes.refl hc).setRtc
  exact .ite h1 (.ite (h1.next (State.cdtExpire_changes h1.canonical)) h1.put)

theorem State.setCount_changes (hc : s.canonical = true) (write : Bool) (c : Nat) :
    Changes timeZones edgeParts s (s.setCount write c) := by
  have h1 : Changes timeZones edgeParts s ((s.put F.RTC_SEC_SEC (c / 65536)).put F.RTC_FRAC_FRAC (c % 65536)) :=
    ((Changes.refl hc).put).put
  exact .ite (h1.next (State.setOsf_changes (W := timeZones) h1.canonical (by decide) (by decide) (by decide))) h1

theorem State.edges_changes (hc : s.canonical = true) (write : Bool) (e : Nat) : Changes timeZones edgeParts s (s.edges write e) := by
  cases hx : s.rtc.xtRun with
  | true =>
    have h1 : Changes timeZones edgeParts s (s.trimTo e) := ((Changes.refl hc).putI).setRtc
    have h2 := h1.trans (State.setCount_changes h1.canonical write (s.count + s.gain e))
    rw [State.edges_of_xtRun hc hx]
    exact h2.next (State.cdtEdges_changes h2.canonical e)
  | false =>
    rw [State.edges, hx, if_neg Bool.false_ne_true]
    exact .ite (State.setCount_changes hc write _) (.refl hc)

theorem State.applyTime_changes (hc : s.canonical = true) (v : Nat) : Changes timeZones edgeParts s (s.applyTime v) := by
  unfold State.applyTime
  extract_lets -merge -underBinder old oldFrac step was s1 s2 s3 rec1 src s4 s5
  have hs1 : Changes timeZones edgeParts s s1 := (((Changes.refl hc).put).clr).clr
  have hs2 : Changes timeZones edgeParts s s2 := ((hs1.putI).put).set1
  have hs3 : Changes timeZones edgeParts s s3 := .ite (((((hs2.set1).clr).clr).clr).clr) hs2
  have hs4 : Changes timeZones edgeParts s s4 := hs3.setRtc
  have hs5 : Changes timeZones edgeParts s s5 := hs4.next (State.linkShift_changes hs4.canonical _)
  split
  · exact hs5
  · exact hs5.setJrn

theorem State.writeEdges_changes (hc : s.canonical = true) (e : Nat) : Changes timeZones edgeParts s (s.writeEdges e) := by
  unfold State.writeEdges
  split
  · exact State.edges_changes hc false e
  · rename_i v k _
    have h1 := State.edges_changes hc false (k - 1)
    have h2 := h1.next (State.edges_changes h1.canonical true (min k 1))
    have h3 := h2.next (State.applyTime_changes h2.canonical v)
    exact .ite (.refl hc) (.ite (h3.next (State.edges_changes h3.canonical false (e - k))) (State.edges_changes hc false e).setRtc)

theorem State.latchCapture_changes (hc : s.canonical = true) : Changes captureZones [] s s.latchCapture :=
  (((((Changes.refl hc).put).put).wr).wr).clr

theorem State.clockEdges_changes (hc : s.canonical = true) (e : Nat) : Changes timeZones edgeParts s (s.clockEdges e) := by
  have h1 := State.writeEdges_changes hc 1
  have h2 := h1.next (State.latchCapture_changes h1.canonical)
  exact .ite (h2.next (State.writeEdges_changes h2.canonical (e - 1))) (State.writeEdges_changes hc e)

/-- What the passage of time changes: the clock, its captures and its record, the logs that it writes, and what leaves the
transmitters. -/
theorem State.advance_changes (hc : s.canonical = true) (dt : Nat) : Changes timeZones timeParts s (s.advance dt) :=
  ((State.clockEdges_changes hc dt).mono.setCmd (x := ((s.clockEdges dt).drainTx dt).cmd)).setUptime

theorem State.passTo_changes (hc : s.canonical = true) (dt t : Nat) : Changes timeZones timeParts s (s.passTo dt t) :=
  State.advance_changes hc _

theorem State.capture_changes (hc : s.canonical = true) : Changes timeZones timeParts s s.capture := by
  have h := State.advance_changes hc 1
  exact h.next (State.latchCapture_changes h.canonical)

/-- Time passes by the cycles that pass. -/
theorem State.advance_uptime (hc : s.canonical = true) (dt : Nat) : (s.advance dt).uptime = s.uptime + dt :=
  congrArg (· + dt) (State.clockEdges_changes hc dt).uptime

end

/-! ### The legal log -/

/-- The parts that a legal event changes: a start-up holds it until the journal is recovered (R528). -/
def legalParts : List Part := [.jrn, .pow]

section
variable {s : State}

theorem State.legalShow_changes (hc : s.canonical = true) : Changes legalZones [] s s.legalShow := by
  have h1 : Changes legalZones [] s (s.put F.LOG_LSTAT_PEND (s.jrn.lq.length + s.jrn.lheld.length + s.legalOpen)) :=
    (Changes.refl hc).put
  exact .ite h1 (h1.next (State.retWrite_changes h1.canonical))

theorem State.legalQueue_changes (hc : s.canonical = true) (e : LegalEntry) : Changes legalZones [.jrn] s (s.legalQueue e) := by
  have hj (j : Journal) : Changes legalZones [.jrn] s ({ s with jrn := j }).legalShow := by
    have h : Changes legalZones [.jrn] s { s with jrn := j } := (Changes.refl hc).setJrn
    exact h.next (State.legalShow_changes h.canonical)
  exact .ite (Changes.refl hc).bump (.ite (hj _) (hj _))

theorem State.legalAt_changes (hc : s.canonical = true) (sec code : Nat) (data : List Byte) :
    Changes legalZones legalParts s (s.legalAt sec code data) :=
  .ite (.ite ((State.legalQueue_changes hc _).mono) (Changes.refl hc).setPow) ((State.legalQueue_changes hc _).mono)

theorem State.legal_changes (hc : s.canonical = true) (code : Nat) (data : List Byte) :
    Changes legalZones legalParts s (s.legal code data) := State.legalAt_changes hc _ _ _

/-! ### The safe state -/

theorem State.demandClose_changes (hc : s.canonical = true) : Changes [F.SAFE_STAT_SSHELD.zone] [.jrn, .act] s s.demandClose :=
  (Changes.ite (.refl hc) ((Changes.refl hc).set1).setJrn).setAct

/-- What refusing a zero calibration shows in. -/
def zcZones : List Zone := [F.SHOT_ZCSTAT_STATE.zone, F.SHOT_ZCSTAT_RESULT.zone, F.SHOT_ZCSTAT_CAUSE.zone, F.CMD_STAT_ZCBUSY.zone]

theorem State.zcRefuse_changes (hc : s.canonical = true) (cause : Nat) : Changes zcZones [.shot] s (s.zcRefuse cause) := by
  unfold State.zcRefuse
  split
  · exact .refl hc
  · exact ((((Changes.refl hc).setShot).put).put).put.clr

theorem State.noteAck_changes (hc : s.canonical = true) (code : Nat) :
    Changes [F.SAFE_STAT_ACKREQ.zone] [.safe] s (s.noteAck code) :=
  .ite ((Changes.refl hc).setSafe).set1 (.refl hc)

/-- What the entry to the safe state shows in. -/
def safeZones : List Zone := logZones ++ legalZones ++ zcZones
  ++ [F.SAFE_STAT_SAFE.zone, F.SAFE_STAT_CAUSE.zone, F.SAFE_STAT_EXITCNT.zone, F.SAFE_STAT_ACKREQ.zone, F.SAFE_STAT_SSHELD.zone,
      F.SAFE_CNT_ENTRIES.zone]

/-- The parts that the entry to the safe state changes. -/
def safeParts : List Part := [.crs, .tok, .ecc, .jrn, .pow, .safe, .shot, .act]

theorem State.enterSafe_changes (hc : s.canonical = true) (code : Nat) : Changes safeZones safeParts s (s.enterSafe code) := by
  unfold State.enterSafe
  split
  · have h : Changes safeZones safeParts s ((s.put F.SAFE_STAT_CAUSE code).clr F.SAFE_STAT_EXITCNT) := ((Changes.refl hc).put).clr
    exact h.next (State.noteAck_changes h.canonical code)
  · extract_lets -merge -underBinder s1 s2 s3 src s4
    have h1 : Changes safeZones safeParts s s1 := (State.logTrouble_changes hc _ _ _).mono
    have h2 : Changes safeZones safeParts s s2 := ((h1.set1).put).clr
    have hb : Changes safeZones safeParts s (s2.bump F.SAFE_CNT_ENTRIES 1) := h2.bump
    have h3 : Changes safeZones safeParts s s3 := hb.next (State.legal_changes hb.canonical _ _)
    have hs : Changes safeZones safeParts s { s3 with safe := { s3.safe with since := s3.rm.tick } } := h3.setSafe
    have ha := hs.next (State.noteAck_changes hs.canonical code)
    have h4 : Changes safeZones safeParts s s4 := ha.next (State.zcRefuse_changes ha.canonical 7)
    exact .ite (h4.next (State.demandClose_changes h4.canonical)) h4

/-- What a detection shows in. -/
def detectZones : List Zone := window F.SAFE_FAULT 4 :: F.SAFE_CNT_FAULTS.zone :: safeZones

/-- Every code's bit is one of the first twelve. -/
theorem faultBit_lt {code b : Nat} (h : faultBit code = some b) : b < 12 := by
  have hd : (faultBit code).getD 0 < 12 := by
    unfold faultBit
    iterate 12 refine iteInduction (motive := fun o : Option Nat => o.getD 0 < 12) (fun _ => by decide) fun _ => ?_
    decide
  rwa [h] at hd

/-- A detection's entry and its bit. -/
def State.showFault (s : State) (code source data : Nat) : State :=
  let s1 := s.logTrouble code source data
  match faultBit code with
  | some b => s1.put ⟨F.SAFE_FAULT, b, b⟩ 1
  | none => s1

/-- A fault counts, and is one of this tick's. -/
def State.countFault (s : State) (code : Nat) : State :=
  { s.bump F.SAFE_CNT_FAULTS 1 with safe := { s.safe with now := code :: s.safe.now } }

/-- A detection up to its reaction: with its counts, and the exit count that starts again. -/
def State.noteFault (s : State) (code source data : Nat) (r : Reaction) : State :=
  let s4 := (s.showFault code source data).countFault code
  if r ≠ .logOnly ∧ s4.flag F.SAFE_STAT_SAFE then s4.clr F.SAFE_STAT_EXITCNT else s4

/-- A detection at once enters the safe state. -/
theorem State.detect_atOnce (code source data : Nat) :
    s.detect code source data .atOnce = (s.noteFault code source data .atOnce).enterSafe code := rfl

/-- One in the second tick in a row does so too. -/
theorem State.detect_second (code source data : Nat) :
    s.detect code source data .second = if (s.noteFault code source data .second).safe.prev.contains code
      then (s.noteFault code source data .second).enterSafe code else s.noteFault code source data .second := rfl

theorem State.detect_logOnly (code source data : Nat) :
    s.detect code source data .logOnly = s.noteFault code source data .logOnly := rfl

theorem State.detect_exits (code source data : Nat) : s.detect code source data .exits = s.noteFault code source data .exits := rfl

/-- What a detection up to its reaction shows in. -/
def faultZones : List Zone := window F.SAFE_FAULT 4 :: F.SAFE_CNT_FAULTS.zone :: F.SAFE_STAT_EXITCNT.zone :: logZones

theorem State.showFault_spec (hc : s.canonical = true) (code source data : Nat) :
    Changes (window F.SAFE_FAULT 4 :: logZones) logParts s (s.showFault code source data)
    ∧ ∀ b, faultBit code = some b → (s.showFault code source data).flag ⟨F.SAFE_FAULT, b, b⟩ = true := by
  have h1 : Changes (window F.SAFE_FAULT 4 :: logZones) logParts s (s.logTrouble code source data) :=
    (State.logTrouble_changes hc _ _ _).mono
  unfold State.showFault
  cases hb : faultBit code with
  | none => exact ⟨h1, nofun⟩
  | some b =>
    have hlt := faultBit_lt hb
    have hsane : Fld.sane ⟨F.SAFE_FAULT, b, b⟩ = true := Fld.sane_iff.mpr ⟨Nat.le_refl _, Nat.lt_trans hlt (by decide)⟩
    refine ⟨h1.put (f := ⟨F.SAFE_FAULT, b, b⟩) ⟨_, List.mem_cons_self, ?_⟩ hsane, fun b' hb' => ?_⟩
    · simp only [Zone.covers_iff, Zone.has_iff, window]
      omega
    · cases hb'
      exact State.set1_flag h1.canonical hsane

/-- What follows the bit: counts and the exit count. -/
theorem State.noteFault_after (hc : s.canonical = true) (code source data : Nat) (r : Reaction) :
    Changes [F.SAFE_CNT_FAULTS.zone, F.SAFE_STAT_EXITCNT.zone] [.safe] (s.showFault code source data)
      (s.noteFault code source data r) := by
  have h : Changes [F.SAFE_CNT_FAULTS.zone, F.SAFE_STAT_EXITCNT.zone] [.safe] (s.showFault code source data)
      ((s.showFault code source data).countFault code) :=
    ((Changes.refl (State.showFault_spec hc code source data).1.canonical).bump).setSafe
  exact .ite h.clr h

/-- A detection changes the log and the fault's own registers, and shows its bit. -/
theorem State.noteFault_spec (hc : s.canonical = true) (code source data : Nat) (r : Reaction) :
    Changes faultZones (.safe :: logParts) s (s.noteFault code source data r)
    ∧ ∀ b, faultBit code = some b → (s.noteFault code source data r).flag ⟨F.SAFE_FAULT, b, b⟩ = true := by
  obtain ⟨h1, hbit⟩ := State.showFault_spec hc code source data
  have h2 := State.noteFault_after hc code source data r
  refine ⟨(h1.mono (W := faultZones) (L := .safe :: logParts)).next h2, fun b hb => ?_⟩
  refine (h2.flag ⟨F.SAFE_FAULT, b, b⟩ fun z hz => ?_).trans (hbit b hb)
  have hz' : ∀ z ∈ [F.SAFE_CNT_FAULTS.zone, F.SAFE_STAT_EXITCNT.zone], z.has F.SAFE_FAULT = false := by decide
  rw [Zone.apart, hz' z hz]
  rfl

theorem State.noteFault_changes (hc : s.canonical = true) (code source data : Nat) (r : Reaction) :
    Changes faultZones (.safe :: logParts) s (s.noteFault code source data r) := (State.noteFault_spec hc code source data r).1

theorem State.detect_changes (hc : s.canonical = true) (code source data : Nat) (r : Reaction) :
    Changes detectZones safeParts s (s.detect code source data r) := by
  have hn (r : Reaction) : Changes detectZones safeParts s (s.noteFault code source data r) :=
    (State.noteFault_changes hc code source data r).mono
  have he (r : Reaction) := (hn r).next (State.enterSafe_changes (hn r).canonical code)
  cases r with
  | atOnce => exact he .atOnce
  | second => exact .ite (he .second) (hn .second)
  | logOnly => exact hn .logOnly
  | exits => exact hn .exits

/-- Once entered, the safe state shows with its cause. -/
theorem State.enterSafe_shows (hc : s.canonical = true) {code : Nat} (hcode : code < 256) :
    (s.enterSafe code).flag F.SAFE_STAT_SAFE = true ∧ (s.enterSafe code).get F.SAFE_STAT_CAUSE = code := by
  have hcause {u : State} (hu : u.canonical = true) : (u.put F.SAFE_STAT_CAUSE code).get F.SAFE_STAT_CAUSE = code :=
    State.get_put_self hu (by decide) (by decide) hcode
  unfold State.enterSafe
  split
  · rename_i hsafe
    have h1 : Changes [F.SAFE_STAT_CAUSE.zone] [] s (s.put F.SAFE_STAT_CAUSE code) := (Changes.refl hc).put
    have h2 : Changes [F.SAFE_STAT_EXITCNT.zone, F.SAFE_STAT_ACKREQ.zone] [.safe] (s.put F.SAFE_STAT_CAUSE code)
        ((s.put F.SAFE_STAT_CAUSE code).clr F.SAFE_STAT_EXITCNT) := (Changes.refl h1.canonical).clr
    have h3 := h2.next (State.noteAck_changes h2.canonical code)
    exact ⟨(h3.flag _).trans ((h1.flag _).trans hsafe), (h3.get _).trans (hcause hc)⟩
  · extract_lets -merge -underBinder s1 s2 s3 src s4
    have h1 := State.logTrouble_changes hc 0x80 code 0
    have hm : Changes [F.SAFE_STAT_SAFE.zone] [] s1 (s1.set1 F.SAFE_STAT_SAFE) := (Changes.refl h1.canonical).set1
    have hp : Changes [F.SAFE_STAT_CAUSE.zone] [] (s1.set1 F.SAFE_STAT_SAFE) ((s1.set1 F.SAFE_STAT_SAFE).put F.SAFE_STAT_CAUSE code) :=
      (Changes.refl hm.canonical).put
    let Z : List Zone := legalZones ++ zcZones
      ++ [F.SAFE_STAT_EXITCNT.zone, F.SAFE_STAT_ACKREQ.zone, F.SAFE_STAT_SSHELD.zone, F.SAFE_CNT_ENTRIES.zone]
    have h2 : Changes Z safeParts _ (s2.bump F.SAFE_CNT_ENTRIES 1) := ((Changes.refl hp.canonical).clr (f := F.SAFE_STAT_EXITCNT)).bump
    have h3 : Changes Z safeParts _ s3 := h2.next (State.legal_changes h2.canonical _ _)
    have hs : Changes Z safeParts _ { s3 with safe := { s3.safe with since := s3.rm.tick } } := h3.setSafe
    have ha := hs.next (State.noteAck_changes hs.canonical code)
    have h4 : Changes Z safeParts _ s4 := ha.next (State.zcRefuse_changes ha.canonical 7)
    have h5 := Changes.ite (c := s4.flag F.SAFE_CFG_SSCLOSE = true) (h4.next (State.demandClose_changes h4.canonical)) h4
    exact ⟨(h5.flag F.SAFE_STAT_SAFE).trans ((hp.flag F.SAFE_STAT_SAFE).trans (State.flag_set1 h1.canonical (by decide) (by decide))),
      (h5.get F.SAFE_STAT_CAUSE).trans (hcause hm.canonical)⟩

/-- The faults of this tick and of the last one. -/
def Safe.faults (x : Safe) : List Nat × List Nat := (x.now, x.prev)

/-- An entry to the safe state leaves the faults of this tick and of the last one. -/
theorem State.enterSafe_faults (hc : s.canonical = true) (code : Nat) : (s.enterSafe code).safe.faults = s.safe.faults := by
  have hack (u : State) : (u.noteAck code).safe.faults = u.safe.faults := by
    unfold State.noteAck
    split <;> rfl
  unfold State.enterSafe
  split
  · exact hack _
  · extract_lets -merge -underBinder s1 s2 s3 src s4
    have h1 := State.logTrouble_changes hc 0x80 code 0
    have h2 : Changes safeZones safeParts s1 (s2.bump F.SAFE_CNT_ENTRIES 1) :=
      (((Changes.refl h1.canonical).set1 (f := F.SAFE_STAT_SAFE)).put (f := F.SAFE_STAT_CAUSE)).clr.bump
    have h3 := State.legal_changes h2.canonical 0x35 [byte code]
    have ha := State.noteAck_changes (s := { s3 with safe := { s3.safe with since := s3.rm.tick } }) h3.canonical code
    have h4 : s4.safe.faults = s.safe.faults := by
      rw [(State.zcRefuse_changes ha.canonical 7).safe, hack, h3.safe, ← h1.safe]
      rfl
    split
    · exact (congrArg Safe.faults (State.demandClose_changes (State.zcRefuse_changes ha.canonical 7).canonical).safe).trans h4
    · exact h4

theorem State.noteFault_faults (hc : s.canonical = true) (code source data : Nat) (r : Reaction) :
    (s.noteFault code source data r).safe.faults = (code :: s.safe.now, s.safe.prev) := by
  rw [← (State.showFault_spec hc code source data).1.safe]
  unfold State.noteFault
  extract_lets s4
  split <;> rfl

/-- A detection adds its code to the faults of this tick. -/
theorem State.detect_faults (hc : s.canonical = true) (code source data : Nat) (r : Reaction) :
    (s.detect code source data r).safe.faults = (code :: s.safe.now, s.safe.prev) := by
  have hn (r : Reaction) := State.noteFault_faults hc code source data r
  have he (r : Reaction) := (State.enterSafe_faults (State.noteFault_changes hc code source data r).canonical code).trans (hn r)
  cases r with
  | atOnce => exact he .atOnce
  | second =>
    rw [State.detect_second]
    split
    · exact he .second
    · exact hn .second
  | logOnly => exact hn .logOnly
  | exits => exact hn .exits

theorem State.detect_prev (hc : s.canonical = true) (code source data : Nat) (r : Reaction) :
    (s.detect code source data r).safe.prev = s.safe.prev := congrArg Prod.snd (State.detect_faults hc code source data r)

theorem State.detect_now (hc : s.canonical = true) (code source data : Nat) (r : Reaction) :
    code ∈ (s.detect code source data r).safe.now := by
  rw [show (s.detect code source data r).safe.now = code :: s.safe.now from congrArg Prod.fst (State.detect_faults hc code source data r)]
  exact List.mem_cons_self

/-- The fault's bit shows after a detection. -/
theorem State.detect_bit (hc : s.canonical = true) {code b : Nat} (hb : faultBit code = some b) (source data : Nat) (r : Reaction) :
    (s.detect code source data r).flag ⟨F.SAFE_FAULT, b, b⟩ = true := by
  have hn (r : Reaction) := State.noteFault_spec hc code source data r
  have he (r : Reaction) : ((s.noteFault code source data r).enterSafe code).flag ⟨F.SAFE_FAULT, b, b⟩ = true := by
    refine ((State.enterSafe_changes (hn r).1.canonical code).flag ⟨F.SAFE_FAULT, b, b⟩ fun z hz => ?_).trans ((hn r).2 b hb)
    have hz' : ∀ z ∈ safeZones, z.has F.SAFE_FAULT = false := by decide
    rw [Zone.apart, hz' z hz]
    rfl
  cases r with
  | atOnce => exact he .atOnce
  | second =>
    rw [State.detect_second]
    split
    · exact he .second
    · exact (hn .second).2 b hb
  | logOnly => exact (hn .logOnly).2 b hb
  | exits => exact (hn .exits).2 b hb

/-- A detection at once shows the safe state and its cause. -/
theorem State.detect_atOnce_shows (hc : s.canonical = true) {code : Nat} (hcode : code < 256) (source data : Nat) :
    (s.detect code source data .atOnce).flag F.SAFE_STAT_SAFE = true
    ∧ (s.detect code source data .atOnce).get F.SAFE_STAT_CAUSE = code :=
  State.enterSafe_shows (State.noteFault_changes hc code source data .atOnce).canonical hcode

/-- A detection in the second tick in a row shows the safe state. -/
theorem State.detect_second_shows (hc : s.canonical = true) {code : Nat} (hcode : code < 256) (source data : Nat)
    (hp : s.safe.prev.contains code = true) : (s.detect code source data .second).flag F.SAFE_STAT_SAFE = true := by
  have hn := State.noteFault_changes hc code source data .second
  have hprev : (s.noteFault code source data .second).safe.prev = s.safe.prev :=
    congrArg Prod.snd (State.noteFault_faults hc code source data .second)
  rw [State.detect_second, hprev, if_pos hp]
  exact (State.enterSafe_shows hn.canonical hcode).1

/-! ### Tampers -/

/-- What aborting a key operation shows in. -/
def keyZones : List Zone := [F.KEYS_STAT_ABORT.zone, F.KEYS_LAST_RESULT.zone, F.KEYS_CNT_REJECTED.zone, F.KEYS_STAT_BUSY.zone,
  F.KEYS_STAT_COMMIT.zone]

theorem State.keyAbort_changes (hc : s.canonical = true) : Changes keyZones [.keys] s s.keyAbort := by
  unfold State.keyAbort
  extract_lets -merge -underBinder k hit
  have hh (r : KeyRun) {u : State} (hu : Changes keyZones [.keys] s u) : Changes keyZones [.keys] s (hit r u) :=
    (((hu.set1).put).bump.clr).setKeys
  split
  · exact hh _ (Changes.refl hc).setKeys
  · exact .ite (hh _ (Changes.refl hc).setKeys).clr (.refl hc)
  · exact .refl hc

theorem State.tamperRecord_changes (hc : s.canonical = true) (mask : Nat) (hold : Bool) :
    Changes [retZone] [] s (s.tamperRecord mask hold) := by
  have h := State.retPut_changes hc (i := 8) (by decide) (if hold then Nat.lor (Nat.lor (s.ret 8) mask) 1 else Nat.lor (s.ret 8) mask)
  exact h.trans (State.retWrite_changes h.canonical)

theorem State.showHold_changes (hc : s.canonical = true) :
    Changes [F.SAFE_TLATCH_HOLD.zone, F.KEYS_STAT_HOLD.zone] [.keys] s s.showHold :=
  .ite (((Changes.refl hc).set1).set1).setKeys (.refl hc)

/-- What a tamper shows in. -/
def tamperZones : List Zone := window F.SAFE_TLATCH 8 :: F.SAFE_STAT_TCLOSE.zone :: F.SAFE_STAT_SSHELD.zone :: F.KEYS_STAT_HOLD.zone
  :: (logZones ++ legalZones ++ keyZones)

/-- The parts that a tamper changes. -/
def tamperParts : List Part := [.crs, .tok, .ecc, .jrn, .pow, .keys, .act]

theorem tlatch_covered {b : Nat} (hb : b < 32) : ∃ z ∈ tamperZones, z.covers ⟨F.SAFE_TLATCH, b, b⟩ = true := by
  refine ⟨_, List.mem_cons_self, ?_⟩
  simp only [Zone.covers_iff, Zone.has_iff, window]
  omega

theorem State.raiseTamper_changes (hc : s.canonical = true) {src : Nat} (hs : src < 32) :
    Changes tamperZones tamperParts s (s.raiseTamper src) := by
  unfold State.raiseTamper
  extract_lets -merge -underBinder s1 s2 s3 s4 s5 s6
  have h1 : Changes tamperZones tamperParts s s1 :=
    (Changes.refl hc).put (tlatch_covered hs) (Fld.sane_iff.mpr ⟨Nat.le_refl _, hs⟩)
  have h2 : Changes tamperZones tamperParts s s2 := h1.bump
  have h3 : Changes tamperZones tamperParts s s3 := h2.next (State.logTrouble_changes h2.canonical _ _ _)
  have h4 : Changes tamperZones tamperParts s s4 := h3.next (State.legal_changes h3.canonical _ _)
  have hr := h4.next (State.tamperRecord_changes h4.canonical (2 ^ (src + 1)) s4.pow.inStart)
  have h5 : Changes tamperZones tamperParts s s5 := .ite (hr.next (State.keyAbort_changes hr.canonical)) h4
  have h6 : Changes tamperZones tamperParts s s6 := .ite (h5.trans ((State.showHold_changes h5.canonical).cover)) h5
  have ht : Changes tamperZones tamperParts s (s6.set1 F.SAFE_STAT_TCLOSE) := h6.set1
  exact .ite (ht.next (State.demandClose_changes ht.canonical)) h6

theorem State.tamperEnd_changes (hc : s.canonical = true) (src : Nat) : Changes legalZones legalParts s (s.tamperEnd src) :=
  State.legal_changes hc _ _

/-! ### Words of the Carousel in error -/

/-- What a word in error shows in. -/
def eccZones : List Zone := window F.SYS_CRS_ECC 4 :: detectZones

theorem State.safetyReset_changes (hc : s.canonical = true) (code : Nat) : Changes [] [.pow] s (s.safetyReset code) :=
  (Changes.refl hc).setPow

theorem State.eccMeet_changes (hc : s.canonical = true) (a n : Nat) : Changes eccZones safeParts s (s.eccMeet a n) := by
  unfold State.eccMeet
  extract_lets -merge -underBinder met corr src src2 s1
  have h0 : Changes eccZones safeParts s src := (Changes.refl hc).bump
  have h1 : Changes eccZones safeParts s s1 := (h0.setEcc (x := s.ecc.filter fun w => !inWords a n w.1)).setSafe
  refine .ite (.refl hc) (h1.foldl fun t w _ ht => ?_)
  have h2 : Changes eccZones safeParts s (t.set1 F.SYS_CRS_ECC_UNCORR) := ht.set1
  have h3 := h2.next (State.detect_changes h2.canonical 0x21 0xFF (0x21000000 + 4 * w.1) .atOnce)
  exact h3.next (State.safetyReset_changes h3.canonical 0x21)

/-- Words in error leave the faults of the last tick. -/
theorem State.eccMeet_prev (hc : s.canonical = true) (a n : Nat) : (s.eccMeet a n).safe.prev = s.safe.prev := by
  unfold State.eccMeet
  extract_lets -merge -underBinder met corr src src2 s1
  split
  · rfl
  · have h1 : Changes eccZones safeParts s s1 :=
      (((Changes.refl hc).bump (f := F.SYS_CRS_ECC_CORR)).setEcc (x := s.ecc.filter fun w => !inWords a n w.1)).setSafe
    have hfold (l : List (Nat × Bool)) {t : State} (ht : t.canonical = true) :
        (l.foldl (fun (t : State) w =>
          ((t.set1 F.SYS_CRS_ECC_UNCORR).detect 0x21 0xFF (0x21000000 + 4 * w.1) .atOnce).safetyReset 0x21) t).safe.prev = t.safe.prev := by
      induction l generalizing t with
      | nil => rfl
      | cons w l ih =>
        have hd := State.detect_changes (State.put_canonical (f := F.SYS_CRS_ECC_UNCORR) (v := 1) ht) 0x21 0xFF (0x21000000 + 4 * w.1) .atOnce
        exact (ih (State.safetyReset_changes hd.canonical 0x21).canonical).trans (State.detect_prev (State.put_canonical ht) _ _ _ _)
    exact hfold _ h1.canonical

end

end Sys2Proof.Machine
end

section
set_option Elab.async false
/-! PROOF. The supply of the BKUP domain and the clock monitor: R97 to R99, R113 and R295. -/

namespace Sys2Proof.Machine

/-! ### The BKUP domain (R97 to R99, R295) -/

section
variable {s : State}

/-- Outside BACKUP a change of source shows in BKSRC, and one to VBKUP is counted. -/
def State.showSource (s : State) (b : Bool) : State :=
  let s1 := { s with pow := { s.pow with onBackup := b } }.putB F.PWR_STATE_BKSRC b
  if b then s1.bump F.PWR_BKSW_SWCNT 1 else s1

theorem execSwitchOver_eq {dt : Nat} {b : Bool} (ho : (s.advance dt).pow.onBackup ≠ b) (hs : (s.advance dt).pow.stage ≠ .backup) :
    exec (.switchOver dt b) s = .next ((s.advance dt).showSource b) := by
  change execSwitchOver dt b s = _
  rw [execSwitchOver, if_neg ho, if_neg hs, State.showSource]

theorem execSwitchOver_hidden {dt : Nat} {b : Bool} (h : (s.advance dt).pow.stage = .backup ∨ (s.advance dt).pow.onBackup = b) :
    exec (.switchOver dt b) s = .next { s.advance dt with pow := { (s.advance dt).pow with onBackup := b } } := by
  change execSwitchOver dt b s = _
  rw [execSwitchOver]
  by_cases ho : (s.advance dt).pow.onBackup = b
  · rw [if_pos ho]
    subst ho
    rfl
  · rw [if_neg ho, if_pos (h.resolve_right ho)]

theorem State.showSource_spec (hc : s.canonical = true) (b : Bool) :
    (s.showSource b).flag F.PWR_STATE_BKSRC = b
    ∧ (s.showSource b).get F.PWR_BKSW_SWCNT = (if b then min (s.get F.PWR_BKSW_SWCNT + 1) 65535 else s.get F.PWR_BKSW_SWCNT)
    ∧ RegsBut s (s.showSource b) [F.PWR_STATE_BKSRC, F.PWR_BKSW_SWCNT]
    ∧ s.showSource b = { s with regs := (s.showSource b).regs, pow := { s.pow with onBackup := b } } := by
  have h1 : Changes [F.PWR_STATE_BKSRC.zone, F.PWR_BKSW_SWCNT.zone] [.pow] s
      ({ s with pow := { s.pow with onBackup := b } }.putB F.PWR_STATE_BKSRC b) := ((Changes.refl hc).setPow).putB
  have hsrc := State.putB_flag (s := { s with pow := { s.pow with onBackup := b } }) (f := F.PWR_STATE_BKSRC) hc b
  have hcnt := State.get_put_ne (s := { s with pow := { s.pow with onBackup := b } }) (f := F.PWR_STATE_BKSRC)
    (g := F.PWR_BKSW_SWCNT) (v := b2n b) (by decide)
  cases b with
  | false => exact ⟨hsrc, hcnt, h1.regsBut, rfl⟩
  | true =>
    have hbump := State.bump_get (f := F.PWR_BKSW_SWCNT) h1.canonical 1
    exact ⟨(State.flag_put_apart h1.canonical (by decide)).trans hsrc, by rw [State.showSource, if_pos rfl, hbump]; exact congrArg (fun n => min (n + 1) 65535) hcnt,
      (h1.bump (f := F.PWR_BKSW_SWCNT)).regsBut, rfl⟩

/-- The registers and the clock as a power-on of the BKUP domain leaves them, with the crystal still to start. -/
def State.bkupReset (s : State) : State :=
  { s.resetBlocks [.rtc] with rtc := { Rtc.init with steps := s.rtc.steps }, rm := { s.rm with tick := 0 } }

/-- The same with what other blocks show of it. -/
def State.bkupOn (s : State) : State :=
  let s1 := (s.bkupReset.clr F.CLK_STAT_XT32_OK).clr F.CLK_STAT_RC_LOCK
  let s2 := ((s1.clr F.FT_TICK_LO_TICK).clr F.FT_TICK_HI_TICK).linkUntrust
  if s.pow.stage = .backup then s2 else s2.set1 F.PWR_RSTCAUSE_BKPOR

theorem execBackupDomainPowerOn_eq {dt : Nat} (h : (s.advance dt).rtc.railLow = true) :
    exec (.backupDomainPowerOn dt) s = .next (s.advance dt).bkupOn := by
  change execBackupDomainPowerOn dt s = _
  rw [execBackupDomainPowerOn, if_pos h]
  rfl

/-- Where a power-on of the BKUP domain shows outside its block. -/
def bkupZones : List Zone := neighbourZones ++ [F.CLK_STAT_XT32_OK.zone, F.CLK_STAT_RC_LOCK.zone, F.FT_TICK_LO_TICK.zone, F.FT_TICK_HI_TICK.zone,
  F.PWR_RSTCAUSE_BKPOR.zone]

theorem State.bkupReset_canonical (hc : s.canonical = true) : s.bkupReset.canonical = true :=
  State.resetBlocks_canonical (bs := [.rtc]) hc

theorem State.bkupReset_rtc : BlockReset s.bkupReset .rtc :=
  fun _ ha => State.rd_resetBlocks_of_mem (s := s) (List.mem_singleton_self _) ha

theorem State.bkupOn_spec (hc : s.canonical = true) :
    Changes bkupZones [] s.bkupReset s.bkupOn ∧ s.bkupOn.flag F.CLK_STAT_XT32_OK = false
    ∧ s.bkupOn.get F.FT_TICK_LO_TICK = 0 ∧ s.bkupOn.get F.FT_TICK_HI_TICK = 0
    ∧ (s.pow.stage ≠ .backup → s.bkupOn.flag F.PWR_RSTCAUSE_BKPOR = true) := by
  unfold State.bkupOn
  extract_lets s1 s2
  have hz := State.bkupReset_canonical hc
  have hx : Changes bkupZones [] s.bkupReset (s.bkupReset.clr F.CLK_STAT_XT32_OK) := (Changes.refl hz).clr
  have h1 : Changes bkupZones [] s.bkupReset s1 := hx.clr
  have hlo := h1.clr (f := F.FT_TICK_LO_TICK)
  have hhi := hlo.clr (f := F.FT_TICK_HI_TICK)
  have hu := State.linkUntrust_changes hhi.canonical
  have h2 : Changes bkupZones [] s.bkupReset s2 := hhi.next hu
  have hxv : s2.flag F.CLK_STAT_XT32_OK = false := by
    have hk : Changes (F.CLK_STAT_RC_LOCK.zone :: F.FT_TICK_LO_TICK.zone :: F.FT_TICK_HI_TICK.zone :: neighbourZones) []
      (s.bkupReset.clr F.CLK_STAT_XT32_OK) s2 := (((Changes.refl hx.canonical).clr.clr).clr).next hu
    rw [hk.flag F.CLK_STAT_XT32_OK]
    exact State.clr_flag hz
  have hlov : s2.get F.FT_TICK_LO_TICK = 0 := by
    have hk : Changes (F.FT_TICK_HI_TICK.zone :: neighbourZones) [] (s1.clr F.FT_TICK_LO_TICK) s2 := ((Changes.refl hlo.canonical).clr).next hu
    rw [hk.get F.FT_TICK_LO_TICK]
    exact State.clr_get h1.canonical
  have hhiv : s2.get F.FT_TICK_HI_TICK = 0 := (hu.get F.FT_TICK_HI_TICK).trans (State.clr_get hlo.canonical)
  split
  · rename_i hs
    exact ⟨h2, hxv, hlov, hhiv, absurd hs⟩
  · exact ⟨h2.set1, (State.flag_put_apart h2.canonical (by decide)).trans hxv, (State.get_put_ne (by decide)).trans hlov,
      (State.get_put_ne (by decide)).trans hhiv, fun _ => State.set1_flag h2.canonical⟩

end

/-- Settles O5: each event's next state is written out, and what it shows is read off it. -/
theorem backupSupplyEvents : Obligations.BackupSupplyEvents := by
  intro dt b s hc s1
  have hc1 : s1.canonical = true := (State.advance_changes hc dt).canonical
  refine ⟨fun hs ho => ⟨_, execSwitchOver_eq ho hs, State.showSource_spec hc1 b⟩, fun h => ⟨_, execSwitchOver_hidden h, rfl⟩,
    ⟨_, rfl, rfl, rfl, rfl, rfl, rfl⟩, ⟨_, rfl, State.set1_flag hc1, ?low, rfl⟩, fun hl => ⟨_, execBackupDomainPowerOn_eq hl, ?on⟩⟩
  case low => exact ((Changes.refl (W := [F.PWR_BKSW_MINLOW.zone]) (L := []) hc1).set1).regsBut
  case on =>
    obtain ⟨hch, hxt, hlo, hhi, hpor⟩ := State.bkupOn_spec hc1
    have hr := hch.blockReset State.bkupReset_rtc
    have hreg (f : Fld) (hf : blockOfAddr f.addr = some .rtc) : s1.bkupOn.get f = bitsOf (regReset f.addr) f.hi f.lo := by
      rw [State.get, hr _ hf]
    have hstat (f : Fld) (hf : blockOfAddr f.addr = some .rtc) (h1 : bitsOf (regReset f.addr) f.hi f.lo = 1) :
        s1.bkupOn.flag f = true := decide_eq_true ((hreg f hf).trans h1)
    exact ⟨hr, hreg F.RTC_SEC_SEC (by decide), congrArg Ringm.tick hch.rm, hlo, hhi, hstat F.RTC_STAT_OSF (by decide) (by decide), hstat F.RTC_STAT_BKPOR (by decide) (by decide), hxt,
      congrArg Rtc.railLow hch.rtc, hpor, hch.crs, hch.nvm⟩

end Sys2Proof.Machine
end

section
set_option Elab.async false
/-! PROOF. What the acoustic front end's shared operations may change (Machine/Acoustic.lean, Machine/Lcd.lean), and the clock
monitor (R113), which stops the shots. -/

namespace Sys2Proof.Machine

/-! ### Rings -/

section
variable {W : List Zone} {L : List Part} {s0 s : State}

theorem State.moveAll_changes (h : Changes W L s0 s) (r : Nat) (slots : List Nat) (v : Nat)
    (hW : ∃ z ∈ W, z.covers (F.SYS_RING_B_FILL r) = true := by decide) (hL : .tok ∈ L := by decide) :
    Changes W L s0 (s.moveAll r slots v) :=
  h.foldl fun _ i _ ht => State.moveToken_changes ht r i v hW hL

end

section
variable {s : State}

/-- What a consumer's way through slots of a ring shows in. -/
def consumeZones (r : Nat) : List Zone := (F.SYS_RING_B_FILL r).zone :: eccZones

theorem consumeZones_fill (r : Nat) : ∃ z ∈ consumeZones r, z.covers (F.SYS_RING_B_FILL r) = true :=
  ⟨_, List.mem_cons_self, Fld.zone_covers _⟩

theorem State.eccMeets_changes (hc : s.canonical = true) (slots : List Nat) (n : Nat) :
    Changes eccZones safeParts s (slots.foldl (fun (t : State) i => t.eccMeet (slotAddr i) n) s) :=
  (Changes.refl hc).foldl fun _ i _ ht => ht.next (State.eccMeet_changes ht.canonical (slotAddr i) n)

theorem State.consume_changes (hc : s.canonical = true) (r : Nat) (slots : List Nat) :
    Changes (consumeZones r) safeParts s (s.consume r slots) := by
  have h1 := State.moveAll_changes (W := consumeZones r) (L := safeParts) (.refl hc) r slots tokReading (consumeZones_fill r)
  have h2 := h1.next (State.eccMeets_changes h1.canonical slots 128) fun z hz => List.mem_cons_of_mem _ hz
  exact State.moveAll_changes h2 r slots tokFree (consumeZones_fill r)

theorem State.consume_prev (hc : s.canonical = true) (r : Nat) (slots : List Nat) : (s.consume r slots).safe.prev = s.safe.prev := by
  have h1 := State.moveAll_changes (W := consumeZones r) (L := [.tok]) (.refl hc) r slots tokReading (consumeZones_fill r)
  have hf (l : List Nat) {t : State} (ht : t.canonical = true) :
      (l.foldl (fun (t : State) i => t.eccMeet (slotAddr i) 128) t).safe.prev = t.safe.prev := by
    induction l generalizing t with
    | nil => rfl
    | cons i l ih => exact (ih (State.eccMeet_changes ht _ _).canonical).trans (State.eccMeet_prev ht _ _)
  have h2 := State.eccMeets_changes h1.canonical slots 128
  have h3 := State.moveAll_changes (W := consumeZones r) (L := [.tok]) (.refl h2.canonical) r slots tokFree (consumeZones_fill r)
  exact (congrArg Safe.prev h3.safe).trans ((hf slots h1.canonical).trans (congrArg Safe.prev h1.safe))

/-! ### The window's end -/

theorem State.dispWindow_changes (hc : s.canonical = true) : Changes [] [.disp] s s.dispWindow := by
  unfold State.dispWindow
  extract_lets t0 t1 s1
  have h1 : Changes [] [.disp] s s1 := by
    dsimp only [s1]
    unfold State.runHold
    split
    · exact .refl hc
    · exact .ite (.refl hc) (Changes.refl hc).setDisp
  exact .ite h1.setDisp h1

theorem State.xo24Rest_changes (hc : s.canonical = true) :
    Changes [F.CLK_STAT_XO24_OK.zone, F.CLK_STAT_PLL_LOCK.zone] [] s s.xo24Rest :=
  .ite (.refl hc) ((Changes.refl hc).clr).clr

/-- What the end of the Acoustic window shows in. -/
def windowZones : List Zone :=
  [F.AME_WIN_SHOTS.zone, F.AME_WIN_LEN.zone, F.CLK_STAT_XO24_OK.zone, F.CLK_STAT_PLL_LOCK.zone, F.PWR_STATE_STATE.zone]

/-- The parts that the end of the Acoustic window changes. -/
def windowParts : List Part := [.ame, .pins, .rm, .disp, .sens]

/-- The end of the Acoustic window up to the 24 MHz clock, the conversions and the power state that follow it. -/
def State.windowClosed (s : State) : State :=
  let s1 := { s with ame := { s.ame with windowOn := false, plan := [], run := none, boost := s.ame.boost && !s.flag F.AME_STAT_READY }
                     pins := { s.pins with window := false }
                     rm := { s.rm with phaseDone := true } }
  let s2 := if s.ame.windowOn then
      ((s1.put F.AME_WIN_SHOTS (satNat 8 s.ame.index)).put F.AME_WIN_LEN (satNat 16 s.ame.len)).dispWindow
    else s1
  if s.ame.windowOn ∧ s.sending then s2.showTx true else s2

theorem State.endWindow_eq : s.endWindow = (s.windowClosed.xo24Rest.startConv).enterPower pwrRun := rfl

theorem State.windowClosed_spec (hc : s.canonical = true) :
    Changes [F.AME_WIN_SHOTS.zone, F.AME_WIN_LEN.zone] [.ame, .pins, .rm, .disp] s s.windowClosed
    ∧ s.windowClosed.ame = { s.ame with windowOn := false, plan := [], run := none, boost := s.ame.boost && !s.flag F.AME_STAT_READY }
    ∧ s.windowClosed.rm = { s.rm with phaseDone := true } ∧ s.windowClosed.pins.window = false := by
  unfold State.windowClosed
  extract_lets -merge -underBinder src src2 src3 s1 s2
  have hc1 : s1.canonical = true := hc
  have ha : Changes [F.AME_WIN_SHOTS.zone, F.AME_WIN_LEN.zone] [.ame, .pins, .rm, .disp] s { s with ame := s1.ame } :=
    (Changes.refl hc).setAme
  have hp : Changes [F.AME_WIN_SHOTS.zone, F.AME_WIN_LEN.zone] [.ame, .pins, .rm, .disp] s { s with ame := s1.ame, pins := s1.pins } :=
    ha.setPins
  have h1 : Changes [F.AME_WIN_SHOTS.zone, F.AME_WIN_LEN.zone] [.ame, .pins, .rm, .disp] s s1 := hp.setRm
  have hw : Changes [F.AME_WIN_SHOTS.zone, F.AME_WIN_LEN.zone] [] s1
      ((s1.put F.AME_WIN_SHOTS (satNat 8 s.ame.index)).put F.AME_WIN_LEN (satNat 16 s.ame.len)) := ((Changes.refl hc1).put).put
  have h2 : Changes [F.AME_WIN_SHOTS.zone, F.AME_WIN_LEN.zone] [.disp] s1 s2 :=
    .ite (hw.mono.next (State.dispWindow_changes hw.canonical)) (.refl hc1)
  have h3 : Changes [F.AME_WIN_SHOTS.zone, F.AME_WIN_LEN.zone] [.disp, .pins] s1 (if s.ame.windowOn ∧ s.sending then s2.showTx true else s2) :=
    .ite h2.mono.setPins h2.mono
  refine ⟨h1.next h3, h3.ame, h3.rm, ?_⟩
  split
  · exact congrArg Pins.window h2.pins
  · exact congrArg Pins.window h2.pins

theorem State.endWindow_changes (hc : s.canonical = true) : Changes windowZones windowParts s s.endWindow := by
  have h3 := (State.windowClosed_spec hc).1.mono (W := windowZones) (L := windowParts)
  have h4 := h3.next (State.xo24Rest_changes h3.canonical)
  have h5 : Changes windowZones windowParts s s.windowClosed.xo24Rest.startConv := h4.setSens
  exact h5.next (State.enterPower_changes h5.canonical _)

/-- What follows the closed window leaves the front end, the tick and the pins. -/
theorem State.endWindow_after (hc : s.canonical = true) :
    Changes [F.CLK_STAT_XO24_OK.zone, F.CLK_STAT_PLL_LOCK.zone, F.PWR_STATE_STATE.zone] [.sens] s.windowClosed s.endWindow := by
  have h4 := State.xo24Rest_changes (State.windowClosed_spec hc).1.canonical
  have h5 : Changes [F.CLK_STAT_XO24_OK.zone, F.CLK_STAT_PLL_LOCK.zone, F.PWR_STATE_STATE.zone] [.sens] s.windowClosed
    s.windowClosed.xo24Rest.startConv := h4.mono.setSens
  exact h5.next (State.enterPower_changes h5.canonical _)

/-- After the window's end none of it is left. -/
theorem State.endWindow_ame (hc : s.canonical = true) : s.endWindow.ame =
    { s.ame with windowOn := false, plan := [], run := none, boost := s.ame.boost && !s.flag F.AME_STAT_READY } :=
  (State.endWindow_after hc).ame.trans (State.windowClosed_spec hc).2.1

/-- The end of the window leaves a lock of the PLL as it was, or takes it away. -/
theorem State.endWindow_pllLock (hc : s.canonical = true) (h : s.flag F.CLK_STAT_PLL_LOCK = false) :
    s.endWindow.flag F.CLK_STAT_PLL_LOCK = false := by
  have h3 := (State.windowClosed_spec hc).1
  have h4 : s.windowClosed.xo24Rest.flag F.CLK_STAT_PLL_LOCK = false := by
    unfold State.xo24Rest
    split
    · exact (h3.flag _).trans h
    · exact State.clr_flag (State.put_canonical h3.canonical)
  have h5 : Changes [] [.sens] s.windowClosed.xo24Rest s.windowClosed.xo24Rest.startConv :=
    (Changes.refl (State.xo24Rest_changes h3.canonical).canonical).setSens
  exact ((State.enterPower_changes h5.canonical pwrRun).flag _).trans ((h5.flag _).trans h4)

/-! ### Shots that are stopped -/

/-- What freeing capture records shows in. -/
def freeZones : List Zone := (F.SYS_RING_B_FILL 0).zone :: (F.SYS_RING_B_FILL 10).zone :: eccZones

/-- The parts that freeing capture records changes. -/
def freeParts : List Part := .ame :: safeParts

theorem State.freeRec_changes (hc : s.canonical = true) (i : Nat) :
    Changes freeZones safeParts s (if s.token (descSlot i) = tokPublished then (s.consume 0 (capSlots i)).consume 10 [descSlot i]
      else (s.moveAll 0 (capSlots i) tokFree).moveToken 10 (descSlot i) tokFree) := by
  have h1 : Changes freeZones safeParts s (s.consume 0 (capSlots i)) := (State.consume_changes hc 0 _).mono
  have h2 : Changes freeZones safeParts s (s.moveAll 0 (capSlots i) tokFree) := State.moveAll_changes (.refl hc) 0 _ tokFree
  exact .ite (h1.next (State.consume_changes h1.canonical 10 _)) (State.moveToken_changes h2 10 _ tokFree)

theorem State.freeRecs_changes (hc : s.canonical = true) (recs : List Nat) : Changes freeZones freeParts s (s.freeRecs recs) := by
  unfold State.freeRecs
  extract_lets t
  have h : Changes freeZones freeParts s t :=
    (Changes.refl hc).foldl fun _ i _ hu => hu.next (State.freeRec_changes hu.canonical i)
  exact h.setAme

theorem State.freeRecs_prev (hc : s.canonical = true) (recs : List Nat) : (s.freeRecs recs).safe.prev = s.safe.prev := by
  have hf (l : List Nat) {t : State} (ht : t.canonical = true) : (l.foldl (fun (t : State) i =>
      if t.token (descSlot i) = tokPublished then (t.consume 0 (capSlots i)).consume 10 [descSlot i]
      else (t.moveAll 0 (capSlots i) tokFree).moveToken 10 (descSlot i) tokFree) t).safe.prev = t.safe.prev := by
    induction l generalizing t with
    | nil => rfl
    | cons i l ih =>
      refine (ih (State.freeRec_changes ht i).canonical).trans ?_
      split
      · exact (State.consume_prev (State.consume_changes ht 0 _).canonical 10 _).trans (State.consume_prev ht 0 _)
      · have h2 := State.moveAll_changes (W := freeZones) (L := [.tok]) (.refl ht) 0 (capSlots i) tokFree
        exact congrArg Safe.prev (State.moveToken_changes h2 10 (descSlot i) tokFree).safe
  exact hf recs hc

/-- What discarding a shot shows in. -/
def discardZones : List Zone := F.AME_DISC_COUNT.zone :: ⟨F.AME_P_STAT 0, 0x40, 4, 31, 0⟩ :: freeZones

theorem gain_covered {n : Nat} (hn : n < 4) : ∃ z ∈ discardZones, z.covers (F.AME_P_STAT_GAIN n) = true := by
  refine ⟨_, List.mem_cons_of_mem _ List.mem_cons_self, ?_⟩
  simp only [Zone.covers_iff, Zone.has_iff, F.AME_P_STAT_GAIN, F.AME_P_STAT]
  omega

theorem State.discardShot_changes (hc : s.canonical = true) : Changes discardZones freeParts s s.discardShot := by
  unfold State.discardShot
  split
  · exact .refl hc
  · rename_i r _
    have h1 := (State.freeRecs_changes hc r.recs).mono (W := discardZones) (L := freeParts)
    have h2 := h1.bump (f := F.AME_DISC_COUNT) (n := 1)
    refine Changes.setAme ?_
    split
    · rename_i hr
      exact h2.put (gain_covered hr.2.1)
    · exact h2

theorem State.discardShot_run : s.discardShot.ame.run = none := by
  unfold State.discardShot
  split
  · assumption
  · rfl

/-- What stopping the shots shows in. -/
def stopZones : List Zone := windowZones ++ discardZones

/-- The parts that stopping the shots changes. -/
def stopParts : List Part := windowParts ++ safeParts

theorem State.stopShots_changes (hc : s.canonical = true) : Changes stopZones stopParts s s.stopShots := by
  have h1 : Changes stopZones stopParts s s.discardShot := (State.discardShot_changes hc).mono
  exact .ite (h1.next (State.endWindow_changes h1.canonical)) h1

theorem State.discardShot_prev (hc : s.canonical = true) : s.discardShot.safe.prev = s.safe.prev := by
  unfold State.discardShot
  split
  · rfl
  · rename_i r _
    have h := State.freeRecs_prev hc r.recs
    simp only
    split <;> exact h

theorem State.stopShots_prev (hc : s.canonical = true) : s.stopShots.safe.prev = s.safe.prev := by
  have hd := State.discardShot_changes hc
  unfold State.stopShots
  extract_lets s1
  split
  · exact (congrArg Safe.prev (State.endWindow_changes hd.canonical).safe).trans (State.discardShot_prev hc)
  · exact State.discardShot_prev hc

/-- No shot runs, and no window is open, once the shots are stopped. -/
theorem State.stopShots_ame (hc : s.canonical = true) : s.stopShots.ame.run = none ∧ s.stopShots.ame.windowOn = false := by
  unfold State.stopShots
  extract_lets s1
  split
  · rw [State.endWindow_ame (State.discardShot_changes hc).canonical]
    exact ⟨rfl, rfl⟩
  · rename_i hw
    exact ⟨State.discardShot_run, Bool.eq_false_iff.mpr hw⟩

/-- A clock flag that falls stays down when the shots are stopped. -/
theorem State.stopShots_pllLock (hc : s.canonical = true) (h : s.flag F.CLK_STAT_PLL_LOCK = false) :
    s.stopShots.flag F.CLK_STAT_PLL_LOCK = false := by
  have hd := State.discardShot_changes hc
  have hf : s.discardShot.flag F.CLK_STAT_PLL_LOCK = false := (hd.flag _).trans h
  unfold State.stopShots
  extract_lets s1
  split
  · exact State.endWindow_pllLock hd.canonical hf
  · exact hf

end

end Sys2Proof.Machine
end

section
set_option Elab.async false
/-! PROOF. The clock monitor (R113, Table 3.12). -/

namespace Sys2Proof.Machine

section
variable {s : State} {dt : Nat}

/-- Whether the diagnostics run is the power stage's. -/
theorem Changes.diagnosing {W : List Zone} {L : List Part} {t : State} (h : Changes W L s t) (hp : Part.pow ∉ L := by decide) :
    t.diagnosing = s.diagnosing := by
  rw [State.diagnosing, State.diagnosing, State.coreAlive, State.coreAlive, h.pow hp]

/-! ### A stopped crystal -/

/-- What a stop of the crystal shows in. -/
def stopClockZones : List Zone := [F.RTC_STAT_OSF.zone, F.RTC_STAT_XT32STOP.zone, F.CLK_MON_XT32_STOP.zone, F.CLK_STAT_XT32_OK.zone,
  F.CLK_STAT_RC_LOCK.zone] ++ neighbourZones

/-- A stop of the crystal shows in the clock's and the monitor's flags. -/
theorem State.noteStop_spec (hc : s.canonical = true) :
    Changes stopClockZones [.rtc] s s.noteStop ∧ s.noteStop.rtc.xtRun = false
    ∧ s.noteStop.flag F.RTC_STAT_OSF = true ∧ s.noteStop.flag F.RTC_STAT_XT32STOP = true ∧ s.noteStop.flag F.CLK_MON_XT32_STOP = true
    ∧ s.noteStop.flag F.CLK_STAT_XT32_OK = false ∧ s.noteStop.flag F.CLK_STAT_RC_LOCK = false := by
  have h1 : Changes stopClockZones [.rtc] s (s.set1 F.RTC_STAT_OSF) := (Changes.refl hc).set1
  have h2 : Changes stopClockZones [.rtc] s ((s.set1 F.RTC_STAT_OSF).set1 F.RTC_STAT_XT32STOP) := h1.set1
  have hu := State.linkUntrust_changes h2.canonical
  have h3 : Changes stopClockZones [.rtc] s (s.setOsf F.RTC_STAT_XT32STOP) := h2.next hu
  have h4 := h3.set1 (f := F.CLK_MON_XT32_STOP)
  have h5 := h4.clr (f := F.CLK_STAT_XT32_OK)
  have h6 := h5.clr (f := F.CLK_STAT_RC_LOCK)
  have k6 : Changes [] [.rtc] (((s.setOsf F.RTC_STAT_XT32STOP).set1 F.CLK_MON_XT32_STOP).clr F.CLK_STAT_XT32_OK |>.clr F.CLK_STAT_RC_LOCK)
    s.noteStop := (Changes.refl h6.canonical).setRtc
  have k5 : Changes [F.CLK_STAT_RC_LOCK.zone] [.rtc] (((s.setOsf F.RTC_STAT_XT32STOP).set1 F.CLK_MON_XT32_STOP).clr F.CLK_STAT_XT32_OK)
    s.noteStop := ((Changes.refl h5.canonical).clr).next k6
  have k4 : Changes [F.CLK_STAT_XT32_OK.zone, F.CLK_STAT_RC_LOCK.zone] [.rtc] ((s.setOsf F.RTC_STAT_XT32STOP).set1 F.CLK_MON_XT32_STOP)
    s.noteStop := ((Changes.refl h4.canonical).clr).next k5
  have k3 : Changes [F.CLK_MON_XT32_STOP.zone, F.CLK_STAT_XT32_OK.zone, F.CLK_STAT_RC_LOCK.zone] [.rtc] (s.setOsf F.RTC_STAT_XT32STOP)
    s.noteStop := ((Changes.refl h3.canonical).set1).next k4
  have hosf : (s.setOsf F.RTC_STAT_XT32STOP).flag F.RTC_STAT_OSF = true :=
    (hu.flag _).trans ((State.flag_put_apart h1.canonical (by decide)).trans (State.set1_flag hc))
  have hstop : (s.setOsf F.RTC_STAT_XT32STOP).flag F.RTC_STAT_XT32STOP = true := (hu.flag _).trans (State.set1_flag h1.canonical)
  exact ⟨h6.next k6, rfl, (k3.flag F.RTC_STAT_OSF).trans hosf, (k3.flag F.RTC_STAT_XT32STOP).trans hstop,
    (k4.flag F.CLK_MON_XT32_STOP).trans (State.set1_flag h3.canonical), (k5.flag F.CLK_STAT_XT32_OK).trans (State.clr_flag h4.canonical),
    (k6.flag F.CLK_STAT_RC_LOCK).trans (State.clr_flag h5.canonical)⟩

theorem execXt32Stopped_eq (h : (s.advance dt).pow.stage ≠ .backup) :
    exec (.xt32Stopped dt) s = .next (if (s.advance dt).noteStop.diagnosing then (s.advance dt).noteStop.detect 0x10 0xFF 0 .atOnce
      else (s.advance dt).noteStop) := by
  change execXt32Stopped dt s = _
  rw [execXt32Stopped, if_neg h]

theorem execXt32Stopped_unwatched (h : (s.advance dt).pow.stage = .backup) :
    exec (.xt32Stopped dt) s = .next { s.advance dt with rtc := { (s.advance dt).rtc with xtRun := false } } := by
  change execXt32Stopped dt s = _
  rw [execXt32Stopped, if_pos h]

/-! ### The crystal's start, and the lock of the RC oscillator -/

theorem execXt32Ok_eq : exec (.xt32Ok dt) s = .next (if (s.advance dt).pow.stage = .backup
    then { s.advance dt with rtc := { (s.advance dt).rtc with xtRun := true, started := true } }
    else { s.advance dt with rtc := { (s.advance dt).rtc with xtRun := true, started := true } }.set1 F.CLK_STAT_XT32_OK) := rfl

/-- A lost lock of the RC oscillator. -/
def State.rcUnlocked (s : State) : State := (s.set1 F.CLK_MON_RC_UNLOCK).clr F.CLK_STAT_RC_LOCK

theorem State.rcUnlocked_spec (hc : s.canonical = true) :
    Changes [F.CLK_MON_RC_UNLOCK.zone, F.CLK_STAT_RC_LOCK.zone] [] s s.rcUnlocked
    ∧ s.rcUnlocked.flag F.CLK_MON_RC_UNLOCK = true ∧ s.rcUnlocked.flag F.CLK_STAT_RC_LOCK = false := by
  have h1 : Changes [F.CLK_MON_RC_UNLOCK.zone, F.CLK_STAT_RC_LOCK.zone] [] s (s.set1 F.CLK_MON_RC_UNLOCK) := (Changes.refl hc).set1
  exact ⟨h1.clr, (State.flag_put_apart h1.canonical (by decide)).trans (State.set1_flag hc), State.clr_flag h1.canonical⟩

theorem execRcNotLocked_eq (hx : (s.advance dt).rtc.xtRun = true) (hr : (s.advance dt).rcOn = true) :
    exec (.rcNotLocked dt) s = .next (if (s.advance dt).rcUnlocked.diagnosing then (s.advance dt).rcUnlocked.detect 0x14 0xFF 0 .logOnly
      else (s.advance dt).rcUnlocked) := by
  change execRcNotLocked dt s = _
  rw [execRcNotLocked, if_pos ⟨hx, hr⟩, State.rcUnlocked]

theorem execRcLock_eq (hx : (s.advance dt).rtc.xtRun = true) (hr : (s.advance dt).rcOn = true) :
    exec (.rcLock dt) s = .next ((s.advance dt).set1 F.CLK_STAT_RC_LOCK) := by
  change execRcLock dt s = _
  rw [execRcLock, if_pos ⟨hx, hr⟩]

/-! ### A lost lock of the PLL -/

/-- A lost lock of the PLL, up to what it stops. -/
def State.pllLost (s : State) : State :=
  let s2 := (s.clr F.CLK_STAT_PLL_LOCK).set1 F.CLK_MON_PLL_UNLOCK
  let s3 := if s2.ame.run = none then s2 else s2.set1 F.AME_STAT_PLLDISC
  { s3 with ame := { s3.ame with pllFail := true } }

theorem State.pllLost_spec (hc : s.canonical = true) : s.pllLost.canonical = true ∧ s.pllLost.safe = s.safe
    ∧ s.pllLost.flag F.CLK_STAT_PLL_LOCK = false ∧ s.pllLost.flag F.CLK_MON_PLL_UNLOCK = true
    ∧ (s.ame.run ≠ none → s.pllLost.flag F.AME_STAT_PLLDISC = true) := by
  unfold State.pllLost
  extract_lets -merge -underBinder s2 s3
  have h1 := State.put_canonical (f := F.CLK_STAT_PLL_LOCK) (v := 0) hc
  have h2 : s2.canonical = true := State.put_canonical h1
  have hd : Changes [F.AME_STAT_PLLDISC.zone] [] s2 s3 := .ite (.refl h2) (Changes.refl h2).set1
  refine ⟨hd.canonical, hd.safe, (hd.flag F.CLK_STAT_PLL_LOCK).trans ?_, (hd.flag F.CLK_MON_PLL_UNLOCK).trans (State.set1_flag h1), fun hr => ?_⟩
  · exact (State.flag_put_apart h1 (by decide)).trans (State.clr_flag hc)
  · change s3.flag F.AME_STAT_PLLDISC = true
    dsimp only [s3]
    rw [if_neg (show s2.ame.run ≠ none from hr)]
    exact State.set1_flag h2

theorem execPllUnlocked_eq (h : (s.advance dt).flag F.CLK_STAT_PLL_LOCK = true) :
    exec (.pllUnlocked dt) s = .next ((s.advance dt).pllLost.stopShots.detect 0x13 0xFF 0 .second) := by
  change execPllUnlocked dt s = _
  rw [execPllUnlocked, if_pos h]
  rfl

/-- After the shots are stopped for it, the lock is lost, the monitor and the front end say so, and no shot runs. -/
theorem State.pllLost_stopShots (hc : s.canonical = true) (source data : Nat) {t : State}
    (ht : t = s.pllLost.stopShots.detect 0x13 source data .second) :
    t.flag F.CLK_STAT_PLL_LOCK = false ∧ t.flag F.CLK_MON_PLL_UNLOCK = true ∧ t.ame.run = none ∧ t.ame.windowOn = false
    ∧ (s.ame.run ≠ none → t.flag F.AME_STAT_PLLDISC = true) ∧ (s.safe.prev.contains 0x13 = true → t.flag F.SAFE_STAT_SAFE = true) := by
  subst ht
  obtain ⟨hl, hsafe, hlock, hmon, hdisc⟩ := State.pllLost_spec hc
  have hs := State.stopShots_changes hl
  have hd := State.detect_changes hs.canonical 0x13 source data .second
  obtain ⟨hrun, hwin⟩ := State.stopShots_ame hl
  refine ⟨(hd.flag _).trans (State.stopShots_pllLock hl hlock), (hd.flag _).trans ((hs.flag _).trans hmon), (congrArg Ame.run hd.ame).trans hrun,
    (congrArg Ame.windowOn hd.ame).trans hwin, fun hr => (hd.flag _).trans ((hs.flag _).trans (hdisc hr)), fun hp => ?_⟩
  refine State.detect_second_shows hs.canonical (by decide) source data ?_
  rwa [State.stopShots_prev hl, hsafe]

end

/-- Settles O7: each event's next state is its flags' writes, and a detection where the diagnostics run. -/
theorem clockMonitorFlags : Obligations.ClockMonitorFlags := by
  intro dt s hc s1
  have hc1 : s1.canonical = true := (State.advance_changes hc dt).canonical
  refine ⟨fun hs => ⟨_, execXt32Stopped_eq hs, ?stopped⟩, fun hs => ⟨_, execXt32Stopped_unwatched hs, rfl⟩, ⟨_, execXt32Ok_eq, ?ok⟩,
    fun hx hr => ⟨_, execRcNotLocked_eq hx hr, ?unlocked⟩, fun hx hr => ⟨_, execRcLock_eq hx hr, State.set1_flag hc1, ?lock, rfl⟩,
    fun hl => ⟨_, execPllUnlocked_eq hl, ?pll⟩⟩
  case stopped =>
    obtain ⟨hn, hx, hosf, hstop, hmon, hok, hrc⟩ := State.noteStop_spec hc1
    have hd := State.detect_changes hn.canonical 0x10 0xFF 0 .atOnce
    have ht : Changes detectZones safeParts s1.noteStop (if s1.noteStop.diagnosing then s1.noteStop.detect 0x10 0xFF 0 .atOnce
      else s1.noteStop) := .ite hd (.refl hn.canonical)
    refine ⟨(congrArg Rtc.xtRun ht.rtc).trans hx, (ht.flag _).trans hosf, (ht.flag _).trans hstop, (ht.flag _).trans hmon,
      (ht.flag _).trans hok, (ht.flag _).trans hrc, fun hdiag => ?_⟩
    rw [if_pos (hn.diagnosing.trans hdiag)]
    obtain ⟨hsafe, hcause⟩ := State.detect_atOnce_shows hn.canonical (code := 0x10) (by decide) 0xFF 0
    exact ⟨hsafe, hcause, State.detect_bit hn.canonical (by decide) 0xFF 0 .atOnce⟩
  case ok =>
    have h0 : Changes [F.CLK_STAT_XT32_OK.zone] [.rtc] s1 { s1 with rtc := { s1.rtc with xtRun := true, started := true } } :=
      (Changes.refl hc1).setRtc
    split
    · rename_i hs
      exact ⟨rfl, rfl, rfl, h0.regsBut, fun h => absurd hs h⟩
    · exact ⟨rfl, rfl, rfl, (h0.set1 (f := F.CLK_STAT_XT32_OK)).regsBut, fun _ => State.set1_flag h0.canonical⟩
  case unlocked =>
    obtain ⟨hu, hmon, hrc⟩ := State.rcUnlocked_spec hc1
    have hd := State.noteFault_changes hu.canonical 0x14 0xFF 0 .logOnly
    rw [← State.detect_logOnly] at hd
    have ht : Changes faultZones (.safe :: logParts) s1.rcUnlocked (if s1.rcUnlocked.diagnosing
      then s1.rcUnlocked.detect 0x14 0xFF 0 .logOnly else s1.rcUnlocked) := .ite hd (.refl hu.canonical)
    refine ⟨(ht.flag _).trans hmon, (ht.flag _).trans hrc, (ht.flag _).trans (hu.flag _), fun hdiag => ?_⟩
    rw [if_pos (hu.diagnosing.trans hdiag)]
    exact State.detect_bit hu.canonical (by decide) 0xFF 0 .logOnly
  case pll => exact State.pllLost_stopShots hc1 0xFF 0 rfl
  case lock => exact ((Changes.refl (W := [F.CLK_STAT_RC_LOCK.zone]) (L := []) hc1).set1).regsBut

end Sys2Proof.Machine
end

section
set_option Elab.async false
/-! PROOF. What the clock's own events leave: R271 and R278 to R291. `Crystal` says what a run of the crystal's edges leaves of the
countdown timer and of the trim; it adds up over the parts of a run, whatever a time write or a capture does between them. -/

namespace Sys2Proof.Machine

/-! ### The crystal's edges -/

/-- The place in the trim window, and the trim then applied, add up over the parts of a run. -/
theorem trimmed_add_place (a v : Int) (w d e : Nat) :
    (trimmed a v w (d + e)).2 = (trimmed (trimmed a v w d).2.2 v (trimmed a v w d).2.1 e).2 := by
  by_cases hd : w + d < 2 ^ 20
  · rw [trimmed_inside hd]
    dsimp only
    by_cases he : w + d + e < 2 ^ 20
    · rw [trimmed_inside he, trimmed_inside (by omega), Nat.add_assoc]
    · rw [trimmed_across (by omega), trimmed_across (by omega)]
      simp only [Prod.mk.injEq, and_true]
      omega
  · rw [trimmed_across (w := w) (e := d) (by omega), trimmed_across (w := w) (e := d + e) (by omega)]
    dsimp only
    by_cases he : (d - (2 ^ 20 - w)) % 2 ^ 20 + e < 2 ^ 20
    · rw [trimmed_inside he]
      simp only [Prod.mk.injEq, and_true]
      omega
    · rw [trimmed_across (by omega)]
      simp only [Prod.mk.injEq, and_true]
      omega

/-- Without a trim a run only moves on in its window. -/
theorem trimmed_none {w : Nat} (hw : w < 2 ^ 20) (e : Nat) : trimmed 0 0 w e = (2 * (e : Int), (w + e) % 2 ^ 20, 0) := by
  have h0 (u d : Nat) : trimCount 0 u d = 0 := by simp [trimCount]
  by_cases h : w + e < 2 ^ 20
  · rw [trimmed_inside h, h0, Nat.mod_eq_of_lt h, Int.mul_zero, Int.add_zero]
  · rw [trimmed_across (by omega), h0, h0, show (e - (2 ^ 20 - w)) % 2 ^ 20 = (w + e) % 2 ^ 20 by omega]
    simp

/-- What the crystal counts beside the time. -/
structure CrystalKept (s t : State) : Prop where
  canonical : t.canonical = true
  xtRun : t.rtc.xtRun = s.rtc.xtRun
  pre : t.rtc.pre = s.rtc.pre
  win : t.rtc.win = s.rtc.win
  count : t.get F.RTC_CDT_COUNT = s.get F.RTC_CDT_COUNT
  expired : t.flag F.RTC_STAT_CDTEXP = s.flag F.RTC_STAT_CDTEXP
  applied : t.getI F.RTC_TRIM_APPLIED = s.getI F.RTC_TRIM_APPLIED
  val : t.get F.RTC_TRIM_VAL = s.get F.RTC_TRIM_VAL

/-- The crystal has run over `e` edges from `s` to `t`. -/
structure Crystal (s t : State) (e : Nat) : Prop where
  canonical : t.canonical = true
  xtRun : t.rtc.xtRun = true
  pre : t.rtc.pre = (s.rtc.pre + e) % 128
  count : t.get F.RTC_CDT_COUNT = s.get F.RTC_CDT_COUNT - (s.rtc.pre + e) / 128
  expired : s.flag F.RTC_STAT_CDTEXP = true ∨ (s.get F.RTC_CDT_COUNT ≠ 0 ∧ s.get F.RTC_CDT_COUNT ≤ (s.rtc.pre + e) / 128) →
    t.flag F.RTC_STAT_CDTEXP = true
  trim : (t.rtc.win, t.getI F.RTC_TRIM_APPLIED) = (trimmed (s.getI F.RTC_TRIM_APPLIED) (s.getI F.RTC_TRIM_VAL) s.rtc.win e).2
  val : t.get F.RTC_TRIM_VAL = s.get F.RTC_TRIM_VAL

section
variable {s t u : State} {d e : Nat}

theorem Crystal.trans (h : Crystal s t d) (k : Crystal t u e) : Crystal s u (d + e) where
  canonical := k.canonical
  xtRun := k.xtRun
  pre := by rw [k.pre, h.pre]; omega
  count := by rw [k.count, h.count, h.pre]; omega
  expired hs := by
    refine k.expired ?_
    by_cases hd : s.flag F.RTC_STAT_CDTEXP = true ∨ (s.get F.RTC_CDT_COUNT ≠ 0 ∧ s.get F.RTC_CDT_COUNT ≤ (s.rtc.pre + d) / 128)
    · exact .inl (h.expired hd)
    · rw [not_or] at hd
      obtain ⟨h0, hc⟩ := hs.resolve_left hd.1
      have hn := hd.2
      refine .inr ?_
      rw [h.count, h.pre]
      omega
  trim := by
    have hw := congrArg Prod.fst h.trim
    have ha := congrArg Prod.snd h.trim
    dsimp only at hw ha
    rw [k.trim, trimmed_add_place, ← hw, ← ha, State.getI_of_get h.val]
  val := k.val.trans h.val

theorem Crystal.kept (h : Crystal s t e) (k : CrystalKept t u) : Crystal s u e where
  canonical := k.canonical
  xtRun := k.xtRun.trans h.xtRun
  pre := k.pre.trans h.pre
  count := k.count.trans h.count
  expired hs := k.expired.trans (h.expired hs)
  trim := by rw [k.win, k.applied, h.trim]
  val := k.val.trans h.val

theorem Changes.crystalKept {W : List Zone} {L : List Part} (h : Changes W L s t)
    (hr : t.rtc.xtRun = s.rtc.xtRun ∧ t.rtc.pre = s.rtc.pre ∧ t.rtc.win = s.rtc.win)
    (hc : ∀ z ∈ W, z.apart F.RTC_CDT_COUNT = true := by decide) (he : ∀ z ∈ W, z.apart F.RTC_STAT_CDTEXP = true := by decide)
    (ha : ∀ z ∈ W, z.apart F.RTC_TRIM_APPLIED = true := by decide) (hv : ∀ z ∈ W, z.apart F.RTC_TRIM_VAL = true := by decide) :
    CrystalKept s t :=
  ⟨h.canonical, hr.1, hr.2.1, hr.2.2, h.get _ hc, h.flag _ he, h.getI _ ha, h.get _ hv⟩

/-! ### Each of the clock's steps -/

/-- An expiry stops the countdown timer and shows. -/
theorem State.cdtExpire_shows (hc : s.canonical = true) :
    s.cdtExpire.get F.RTC_CDT_COUNT = 0 ∧ s.cdtExpire.flag F.RTC_STAT_CDTEXP = true ∧ s.cdtExpire.rtc = s.rtc := by
  unfold State.cdtExpire
  extract_lets s1
  have h0 := State.put_canonical (f := F.RTC_CDT_COUNT) (v := 0) hc
  have h1 : s1.canonical = true := State.put_canonical h0
  have hcnt : s1.get F.RTC_CDT_COUNT = 0 := (State.get_put_apart h0 (by decide)).trans (State.clr_get hc)
  have hexp : s1.flag F.RTC_STAT_CDTEXP = true := State.set1_flag h0
  have hw := State.wakeCore_changes h1
  have ht : Changes (logZones ++ [retZone, F.PWR_STATE_STATE.zone]) logParts s1 (if s1.coreAlive then s1.wakeCore.logTrouble 0x74 0xFF 0
      else if s1.pow.stage = .hibernate ∧ s1.flag F.PWR_CTRL_WAKE_CDT then s1.retWrite 7 [Nat.lor (s1.ret 7) 1] else s1) :=
    .ite (hw.mono.next (State.logTrouble_changes hw.canonical _ _ _)) (.ite (State.retWrite_changes h1).mono (.refl h1))
  exact ⟨(ht.get _).trans hcnt, (ht.flag _).trans hexp, ht.rtc⟩

/-- The countdown timer's cycles, without its steps. -/
def State.preTo (s : State) (e : Nat) : State := { s with rtc := { s.rtc with pre := (s.rtc.pre + e) % 128 } }

theorem State.preTo_rtc (e : Nat) : (s.preTo e).rtc = { s.rtc with pre := (s.rtc.pre + e) % 128 } := rfl

theorem State.cdtEdges_eq (e : Nat) : s.cdtEdges e =
    if s.get F.RTC_CDT_COUNT = 0 ∨ (s.rtc.pre + e) / 128 = 0 then s.preTo e
    else if s.get F.RTC_CDT_COUNT ≤ (s.rtc.pre + e) / 128 then (s.preTo e).cdtExpire
    else (s.preTo e).put F.RTC_CDT_COUNT (s.get F.RTC_CDT_COUNT - (s.rtc.pre + e) / 128) := rfl

/-- The countdown timer over some cycles. -/
theorem State.cdtEdges_spec (hc : s.canonical = true) (e : Nat) :
    (s.cdtEdges e).rtc = (s.preTo e).rtc
    ∧ (s.cdtEdges e).get F.RTC_CDT_COUNT = s.get F.RTC_CDT_COUNT - (s.rtc.pre + e) / 128
    ∧ (s.flag F.RTC_STAT_CDTEXP = true ∨ (s.get F.RTC_CDT_COUNT ≠ 0 ∧ s.get F.RTC_CDT_COUNT ≤ (s.rtc.pre + e) / 128) →
      (s.cdtEdges e).flag F.RTC_STAT_CDTEXP = true) := by
  have h1 : (s.preTo e).canonical = true := hc
  have hcnt : (s.preTo e).get F.RTC_CDT_COUNT = s.get F.RTC_CDT_COUNT := rfl
  rw [State.cdtEdges_eq]
  split
  · exact ⟨rfl, by omega, fun hs => hs.resolve_right (by omega)⟩
  · split
    · obtain ⟨h0, hx, hr⟩ := State.cdtExpire_shows h1
      exact ⟨hr, by omega, fun _ => hx⟩
    · have hlt : s.get F.RTC_CDT_COUNT - (s.rtc.pre + e) / 128 < 2 ^ 24 :=
        Nat.lt_of_le_of_lt (Nat.sub_le _ _) (Nat.mod_lt _ (by decide))
      refine ⟨rfl, State.get_put h1 hlt, fun hs => ?_⟩
      rw [State.flag_put_apart h1 (by decide)]
      exact hs.resolve_right (by omega)

/-- What the clock's edges show in beside the countdown timer. -/
def countZones : List Zone := [F.RTC_SEC_SEC.zone, F.RTC_FRAC_FRAC.zone, F.RTC_STAT_OSF.zone, F.RTC_STAT_WRAP.zone] ++ neighbourZones

theorem State.setCount_countZones (hc : s.canonical = true) (write : Bool) (c : Nat) : Changes countZones [] s (s.setCount write c) := by
  have h1 : Changes countZones [] s ((s.put F.RTC_SEC_SEC (c / 65536)).put F.RTC_FRAC_FRAC (c % 65536)) := ((Changes.refl hc).put).put
  exact .ite (h1.next (State.setOsf_changes (W := countZones) h1.canonical (by decide) (by decide) (by decide))) h1

theorem State.edges_crystal (hc : s.canonical = true) (hx : s.rtc.xtRun = true) (write : Bool) (e : Nat) :
    Crystal s (s.edges write e) e := by
  have ht : Changes [F.RTC_TRIM_APPLIED.zone] [.rtc] s (s.trimTo e) := ((Changes.refl hc).putI).setRtc
  have hk := State.setCount_countZones ht.canonical write (s.count + s.gain e)
  obtain ⟨hr, hcnt, hexp⟩ := State.cdtEdges_spec hk.canonical e
  have hd := State.cdtEdges_changes hk.canonical e
  have hrtc : ((s.trimTo e).setCount write (s.count + s.gain e)).rtc = (s.trimTo e).rtc := hk.rtc
  rw [State.edges_of_xtRun hc hx]
  rw [State.preTo_rtc, hrtc] at hr
  rw [hrtc] at hcnt hexp
  rw [hk.get F.RTC_CDT_COUNT, ht.get F.RTC_CDT_COUNT] at hcnt hexp
  rw [hk.flag F.RTC_STAT_CDTEXP, ht.flag F.RTC_STAT_CDTEXP] at hexp
  refine ⟨hd.canonical, ?_, ?_, hcnt, hexp, ?_, ?_⟩
  · rw [hr]
    exact hx
  · rw [hr]
    rfl
  · rw [hr, hd.getI F.RTC_TRIM_APPLIED, hk.getI F.RTC_TRIM_APPLIED, State.trimTo_applied hc e]
    rfl
  · rw [hd.get F.RTC_TRIM_VAL, hk.get F.RTC_TRIM_VAL, ht.get F.RTC_TRIM_VAL]

/-- What the record of a time write shows in. -/
def stepRest : List Zone := [F.RTC_STAT_STEPUNTR.zone, F.RTC_STAT_OSF.zone, F.RTC_STAT_BKPOR.zone, F.RTC_STAT_XT32STOP.zone,
  F.RTC_STAT_WRAP.zone] ++ neighbourZones

/-- What a time write shows in. -/
def stepZones : List Zone := [F.RTC_SEC_SEC.zone, F.RTC_FRAC_FRAC.zone, F.RTC_STAT_WBUSY.zone, F.RTC_STEP_STEP.zone,
  F.RTC_STEPFRAC_FRAC.zone, F.RTC_STAT_STEPPED.zone] ++ stepRest

/-- The fields of a time write, in the order in which they are written. -/
def State.stepFields (s : State) (v : Nat) : State :=
  let s1 := ((s.put F.RTC_SEC_SEC v).clr F.RTC_FRAC_FRAC).clr F.RTC_STAT_WBUSY
  ((s1.putI F.RTC_STEP_STEP (satSigned 32 ((v : Int) - s.sec))).put F.RTC_STEPFRAC_FRAC s.frac).set1 F.RTC_STAT_STEPPED

/-- A time write that ends an untrusted time says so and clears its causes. -/
def State.trustTime (s : State) (was : Bool) : State :=
  if was then ((((s.set1 F.RTC_STAT_STEPUNTR).clr F.RTC_STAT_OSF).clr F.RTC_STAT_BKPOR).clr F.RTC_STAT_XT32STOP).clr F.RTC_STAT_WRAP
  else s

/-- The core's record of a time write, which is then no longer on its way. -/
def State.recordStep (s : State) (r : TimeStep) : State := { s with rtc := { s.rtc with wr := none, steps := s.rtc.steps ++ [r] } }

/-- What a time write leaves to the link and to a lockout. -/
def State.shiftTimes (s : State) (step : Int) (frac : Nat) : State :=
  let s5 := s.linkShift (65536 * step - frac)
  match s5.jrn.hid.lockEnd with
  | none => s5
  | some l => { s5 with jrn := { s5.jrn with due := true, hid := { s5.jrn.hid with lockEnd := some (l + step).toNat } } }

theorem State.applyTime_eq (v : Nat) : s.applyTime v =
    (((s.stepFields v).trustTime (s.flag F.RTC_STAT_OSF)).recordStep
      ⟨s.sec, s.frac, v, satSigned 32 ((v : Int) - s.sec), s.flag F.RTC_STAT_OSF⟩).shiftTimes (satSigned 32 ((v : Int) - s.sec)) s.frac := rfl

theorem State.stepFields_spec (hc : s.canonical = true) (v : Nat) :
    Changes stepZones [] s (s.stepFields v) ∧ (v < 2 ^ 32 → (s.stepFields v).get F.RTC_SEC_SEC = v) ∧ (s.stepFields v).get F.RTC_FRAC_FRAC = 0
    ∧ (s.stepFields v).flag F.RTC_STAT_WBUSY = false ∧ (s.stepFields v).flag F.RTC_STAT_STEPPED = true
    ∧ (s.stepFields v).flag F.RTC_STAT_OSF = s.flag F.RTC_STAT_OSF := by
  unfold State.stepFields
  extract_lets s1
  have ha : Changes stepZones [] s (s.put F.RTC_SEC_SEC v) := (Changes.refl hc).put
  have hb := ha.clr (f := F.RTC_FRAC_FRAC)
  have h1 : Changes stepZones [] s s1 := hb.clr
  have hsec (hv : v < 2 ^ 32) : s1.get F.RTC_SEC_SEC = v :=
    (State.get_put_apart hb.canonical (by decide)).trans ((State.get_put_apart ha.canonical (by decide)).trans (State.get_put hc hv))
  have hfrac : s1.get F.RTC_FRAC_FRAC = 0 := (State.get_put_apart hb.canonical (by decide)).trans (State.clr_get ha.canonical)
  have hbusy : s1.flag F.RTC_STAT_WBUSY = false := State.clr_flag hb.canonical
  have h0 : Changes [F.RTC_SEC_SEC.zone, F.RTC_FRAC_FRAC.zone, F.RTC_STAT_WBUSY.zone] [] s s1 := (((Changes.refl hc).put).clr).clr
  have hp : Changes [F.RTC_STEP_STEP.zone, F.RTC_STEPFRAC_FRAC.zone] [] s1
      ((s1.putI F.RTC_STEP_STEP (satSigned 32 ((v : Int) - s.sec))).put F.RTC_STEPFRAC_FRAC s.frac) := ((Changes.refl h1.canonical).putI).put
  have k : Changes [F.RTC_STEP_STEP.zone, F.RTC_STEPFRAC_FRAC.zone, F.RTC_STAT_STEPPED.zone] [] s1
      (((s1.putI F.RTC_STEP_STEP (satSigned 32 ((v : Int) - s.sec))).put F.RTC_STEPFRAC_FRAC s.frac).set1 F.RTC_STAT_STEPPED) := hp.mono.set1
  exact ⟨h1.next k, fun hv => (k.get _).trans (hsec hv), (k.get _).trans hfrac, (k.flag _).trans hbusy, State.set1_flag hp.canonical,
    (k.flag _).trans (h0.flag _)⟩

theorem State.trustTime_spec (hc : s.canonical = true) :
    Changes stepRest [] s (s.trustTime (s.flag F.RTC_STAT_OSF)) ∧ (s.trustTime (s.flag F.RTC_STAT_OSF)).flag F.RTC_STAT_OSF = false := by
  unfold State.trustTime
  split
  · have ha : Changes stepRest [] s (s.set1 F.RTC_STAT_STEPUNTR) := (Changes.refl hc).set1
    have hb := ha.clr (f := F.RTC_STAT_OSF)
    have k : Changes [F.RTC_STAT_BKPOR.zone, F.RTC_STAT_XT32STOP.zone, F.RTC_STAT_WRAP.zone] [] ((s.set1 F.RTC_STAT_STEPUNTR).clr F.RTC_STAT_OSF)
        (((((s.set1 F.RTC_STAT_STEPUNTR).clr F.RTC_STAT_OSF).clr F.RTC_STAT_BKPOR).clr F.RTC_STAT_XT32STOP).clr F.RTC_STAT_WRAP) :=
      (((Changes.refl hb.canonical).clr).clr).clr
    exact ⟨hb.next k, (k.flag _).trans (State.clr_flag ha.canonical)⟩
  · rename_i h
    exact ⟨.refl hc, Bool.eq_false_iff.mpr h⟩

theorem State.shiftTimes_changes (hc : s.canonical = true) (step : Int) (frac : Nat) :
    Changes neighbourZones [.jrn] s (s.shiftTimes step frac) := by
  have h : Changes neighbourZones [.jrn] s (s.linkShift (65536 * step - frac)) := (State.linkShift_changes hc _).mono
  unfold State.shiftTimes
  extract_lets s5
  split
  · exact h
  · exact h.setJrn

/-- An applied time write: what it shows, and what it leaves of the clock. -/
theorem State.applyTime_spec (hc : s.canonical = true) (v : Nat) :
    Changes stepZones [.rtc, .jrn] s (s.applyTime v)
    ∧ (s.applyTime v).rtc.wr = none ∧ CrystalKept s (s.applyTime v)
    ∧ (v < 2 ^ 32 → (s.applyTime v).get F.RTC_SEC_SEC = v) ∧ (s.applyTime v).get F.RTC_FRAC_FRAC = 0 ∧ (s.applyTime v).flag F.RTC_STAT_WBUSY = false
    ∧ (s.applyTime v).flag F.RTC_STAT_STEPPED = true ∧ (s.applyTime v).flag F.RTC_STAT_OSF = false := by
  obtain ⟨h2, hsec, hfrac, hbusy, hstep, hosf⟩ := State.stepFields_spec hc v
  obtain ⟨h3, hosf3⟩ := State.trustTime_spec h2.canonical
  rw [hosf] at h3 hosf3
  rw [State.applyTime_eq]
  generalize (s.stepFields v).trustTime (s.flag F.RTC_STAT_OSF) = s3 at *
  have h4 (r : TimeStep) : Changes [] [.rtc] s3 (s3.recordStep r) := (Changes.refl h3.canonical).setRtc
  have h5 (r : TimeStep) := State.shiftTimes_changes (h4 r).canonical (satSigned 32 ((v : Int) - s.sec)) s.frac
  have k (r : TimeStep) : Changes neighbourZones [.rtc, .jrn] s3 _ := (h4 r).mono.next (h5 r)
  generalize (⟨s.sec, s.frac, v, satSigned 32 ((v : Int) - s.sec), s.flag F.RTC_STAT_OSF⟩ : TimeStep) = r
  replace k := k r
  have ht := (h5 r).rtc
  generalize State.shiftTimes _ _ _ = t at *
  have h : Changes stepZones [.rtc, .jrn] s t := (h2.mono.next h3).next k
  have hr : s3.rtc = s.rtc := h3.rtc.trans h2.rtc
  refine ⟨h, congrArg Rtc.wr ht, h.crystalKept ?_, ?_, ?_, ?_, ?_, (k.flag _).trans hosf3⟩
  · rw [ht, ← hr]
    exact ⟨rfl, rfl, rfl⟩
  · exact fun hv => (k.get _).trans ((h3.get _).trans (hsec hv))
  · exact (k.get _).trans ((h3.get _).trans hfrac)
  · exact (k.flag _).trans ((h3.flag _).trans hbusy)
  · exact (k.flag _).trans ((h3.flag _).trans hstep)

/-! ### Whole runs -/

theorem State.counting_of_xtRun (hx : s.rtc.xtRun = true) : s.counting = true := by rw [State.counting, hx, Bool.true_or]

/-- Edges with a time write on its way, or none. -/
theorem State.writeEdges_crystal (hc : s.canonical = true) (hx : s.rtc.xtRun = true) (e : Nat) : Crystal s (s.writeEdges e) e := by
  unfold State.writeEdges
  split
  · exact State.edges_crystal hc hx false e
  · rename_i v k _
    rw [if_neg (by simp [State.counting_of_xtRun hx])]
    split
    · rename_i hk
      have h1 := State.edges_crystal hc hx false (k - 1)
      have h2 := h1.trans (State.edges_crystal h1.canonical h1.xtRun true (min k 1))
      have h3 := h2.kept (State.applyTime_spec h2.canonical v).2.2.1
      have h4 := h3.trans (State.edges_crystal h3.canonical h3.xtRun false (e - k))
      rwa [show k - 1 + min k 1 + (e - k) = e by omega] at h4
    · have h1 := State.edges_crystal hc hx false e
      have h2 : Changes [] [.rtc] (s.edges false e) { s.edges false e with rtc := { (s.edges false e).rtc with wr := some (v, k - e) } } :=
        (Changes.refl h1.canonical).setRtc
      exact h1.kept (h2.crystalKept ⟨rfl, rfl, rfl⟩)

theorem State.clockEdges_crystal (hc : s.canonical = true) (hx : s.rtc.xtRun = true) (e : Nat) : Crystal s (s.clockEdges e) e := by
  unfold State.clockEdges
  split
  · rename_i hb
    obtain ⟨-, -, he⟩ := hb
    have h1 := State.writeEdges_crystal hc hx 1
    have hl := State.latchCapture_changes h1.canonical
    have h2 := h1.kept (hl.crystalKept (by rw [hl.rtc]; exact ⟨rfl, rfl, rfl⟩))
    have h3 := h2.trans (State.writeEdges_crystal h2.canonical h2.xtRun (e - 1))
    rwa [show 1 + (e - 1) = e by omega] at h3
  · exact State.writeEdges_crystal hc hx e

/-- Beside the edges, time drains the transmitters and moves the uptime on. -/
theorem State.advance_edges {dt : Nat} (hc : (s.clockEdges dt).canonical = true) :
    Changes [] [.cmd, .uptime] (s.clockEdges dt) (s.advance dt) :=
  ((Changes.refl hc).setCmd (x := ((s.clockEdges dt).drainTx dt).cmd)).setUptime

/-- The passage of time is a run of the crystal's edges. -/
theorem State.advance_crystal (hc : s.canonical = true) (hx : s.rtc.xtRun = true) (dt : Nat) : Crystal s (s.advance dt) dt := by
  have h := State.clockEdges_crystal hc hx dt
  have k := State.advance_edges h.canonical
  exact h.kept (k.crystalKept (by rw [k.rtc]; exact ⟨rfl, rfl, rfl⟩))

/-! ### Time without a wrap -/

/-- What time shows in where no wrap and no time write comes. -/
def calmZones : List Zone := [F.RTC_SEC_SEC.zone, F.RTC_FRAC_FRAC.zone, F.RTC_TRIM_APPLIED.zone] ++ captureZones ++ cdtZones

theorem State.setCount_calm (hc : s.canonical = true) {c : Nat} (h : c < 2 ^ 48) : Changes calmZones [] s (s.setCount false c) := by
  have h1 : Changes calmZones [] s ((s.put F.RTC_SEC_SEC (c / 65536)).put F.RTC_FRAC_FRAC (c % 65536)) := ((Changes.refl hc).put).put
  unfold State.setCount
  rw [if_neg (by omega)]
  exact h1

theorem State.edges_calm (hc : s.canonical = true) {e : Nat} (h : s.count + s.gain e < 2 ^ 48) :
    Changes calmZones edgeParts s (s.edges false e) := by
  cases hx : s.rtc.xtRun with
  | true =>
    have h1 : Changes calmZones edgeParts s (s.trimTo e) := ((Changes.refl hc).putI).setRtc
    have h2 := h1.next (State.setCount_calm h1.canonical h)
    rw [State.edges_of_xtRun hc hx]
    exact h2.next (State.cdtEdges_changes h2.canonical e)
  | false =>
    rw [State.gain_of_not_xtRun hx] at h
    rw [State.edges, hx, if_neg Bool.false_ne_true]
    exact .ite (State.setCount_calm hc h).mono (.refl hc)

/-- Time with no write on its way that does not reach the wrap. -/
theorem ClockFree.advance_calm (hf : ClockFree s) {dt : Nat} (h : s.count + s.gain dt < 2 ^ 48) :
    Changes calmZones timeParts s (s.advance dt) := by
  have hk : Changes calmZones edgeParts s (s.clockEdges dt) := by
    unfold State.clockEdges
    split
    · rename_i hb
      obtain ⟨-, -, hdt⟩ := hb
      have hg := (hf.writeEdges_counted 1).gain (dt - 1)
      rw [show 1 + (dt - 1) = dt by omega] at hg
      have h1 : Changes calmZones edgeParts s (s.writeEdges 1) := by
        rw [State.writeEdges_of_none hf.wr]
        exact State.edges_calm hf.canonical (by omega)
      have h2 := h1.next (State.latchCapture_changes h1.canonical)
      have hc1 := (hf.writeEdges_counted 1).trans (State.latchCapture_clockKept (.refl h1.canonical)).counted
      have hc2 := hc1.clockFree hf
      rw [State.writeEdges_of_none hc2.wr]
      refine h2.trans (State.edges_calm h2.canonical ?_)
      have hl := State.latchCapture_clockKept (.refl h1.canonical)
      rw [hl.gain_eq (by decide) (by decide), hl.count_eq (by decide) (by decide), (hf.writeEdges_counted 1).count]
      omega
    · rw [State.writeEdges_of_none hf.wr]
      exact State.edges_calm hf.canonical h
  exact hk.mono.next (State.advance_edges hk.canonical)

/-! ### An applied time write -/

/-- A time write has just been applied. -/
structure Stepped (v : Nat) (t : State) : Prop where
  free : ClockFree t
  sec : t.get F.RTC_SEC_SEC = v
  frac : t.get F.RTC_FRAC_FRAC = 0
  busy : t.flag F.RTC_STAT_WBUSY = false
  stepped : t.flag F.RTC_STAT_STEPPED = true
  osf : t.flag F.RTC_STAT_OSF = false

/-- What leaves the time and its flags. -/
theorem Stepped.kept {v : Nat} (h : Stepped v s) (hf : ClockFree t) (hs : t.get F.RTC_SEC_SEC = s.get F.RTC_SEC_SEC)
    (hr : t.get F.RTC_FRAC_FRAC = s.get F.RTC_FRAC_FRAC)
    (hl : ∀ f ∈ [F.RTC_STAT_WBUSY, F.RTC_STAT_STEPPED, F.RTC_STAT_OSF], t.flag f = s.flag f) : Stepped v t :=
  ⟨hf, hs.trans h.sec, hr.trans h.frac, (hl _ (by decide)).trans h.busy, (hl _ (by decide)).trans h.stepped, (hl _ (by decide)).trans h.osf⟩

/-- The last of the write's edges adds nothing to the count. -/
theorem Stepped.noEdges {v : Nat} (h : Stepped v s) : Stepped v (s.edges false 0) := by
  have hlt := s.count_lt
  have hk := State.edges_calm (e := 0) h.free.canonical (by rw [State.gain_zero]; exact hlt)
  have hcount := State.edges_counted h.free.canonical h.free.counting false 0
  have he := hcount.count
  rw [State.gain_zero, Nat.add_zero, Nat.mod_eq_of_lt hlt, State.count, State.count] at he
  have h1 : (s.edges false 0).frac < 2 ^ 16 := Nat.mod_lt _ (by decide)
  have h2 : s.frac < 2 ^ 16 := Nat.mod_lt _ (by decide)
  have hsec : (s.edges false 0).sec = s.sec := by omega
  have hfrac : (s.edges false 0).frac = s.frac := by omega
  exact h.kept (hcount.clockFree h.free) hsec hfrac
    (List.forall_mem_cons.mpr ⟨hk.flag _, List.forall_mem_cons.mpr ⟨hk.flag _, List.forall_mem_singleton.mpr (hk.flag _)⟩⟩)

theorem Stepped.latch {v : Nat} (h : Stepped v s) : Stepped v s.latchCapture := by
  have hk := State.latchCapture_changes h.free.canonical
  have hf := ((State.latchCapture_clockKept (.refl h.free.canonical)).counted (write := false)).clockFree h.free
  exact h.kept hf (hk.get _) (hk.get _)
    (List.forall_mem_cons.mpr ⟨hk.flag _, List.forall_mem_cons.mpr ⟨hk.flag _, List.forall_mem_singleton.mpr (hk.flag _)⟩⟩)

/-- The write's edge is the last of those that pass. -/
theorem State.writeEdges_stepped {v k : Nat} (hc : s.canonical = true) (hr : s.counting = true) (hw : s.rtc.wr = some (v, k))
    (hv : v < 2 ^ 32) : Stepped v (s.writeEdges k) := by
  have h1 := State.edges_counted hc hr false (k - 1)
  have h2 := State.edges_counted h1.canonical (h1.counting.trans hr) true (min k 1)
  have hf := State.applyTime_clockFree h2.canonical (h2.counting.trans (h1.counting.trans hr)) v
  obtain ⟨-, -, -, hsec, hfrac, hbusy, hstep, hosf⟩ := State.applyTime_spec h2.canonical v
  have he : s.writeEdges k = (((s.edges false (k - 1)).edges true (min k 1)).applyTime v).edges false 0 := by
    simp [State.writeEdges, hw, hr]
  rw [he]
  exact Stepped.noEdges ⟨hf, hsec hv, hfrac, hbusy, hstep, hosf⟩

/-- Time passes to the edge that applies the write, also over the edge that latches a capture. -/
theorem State.advance_stepped {v k : Nat} (hc : s.canonical = true) (hr : s.counting = true) (hw : s.rtc.wr = some (v, k))
    (hv : v < 2 ^ 32) : Stepped v (s.advance k) := by
  have h : Stepped v (s.clockEdges k) := by
    unfold State.clockEdges
    split
    · rename_i hb
      obtain ⟨-, -, hk⟩ := hb
      rcases Nat.eq_or_lt_of_le hk with hk | hk
      · subst hk
        have h1 := (State.writeEdges_stepped hc hr hw hv).latch
        rw [State.writeEdges_of_none h1.free.wr]
        exact h1.noEdges
      · obtain ⟨hc1, hr1, hw1⟩ := State.writeEdges_pending hc hr hw hk
        have h2 := State.latchCapture_clockKept (.refl hc1)
        exact State.writeEdges_stepped h2.canonical (h2.counting_eq.trans hr1) (h2.wr_eq.trans hw1) hv
    · exact State.writeEdges_stepped hc hr hw hv
  have hk := State.advance_edges h.free.canonical
  have hf := ((State.advance_clockKept h.free.canonical).counted (write := false)).clockFree h.free
  exact h.kept hf (hk.get _) (hk.get _)
    (List.forall_mem_cons.mpr ⟨hk.flag _, List.forall_mem_cons.mpr ⟨hk.flag _, List.forall_mem_singleton.mpr (hk.flag _)⟩⟩)

end

/-- Settles O8: without a trim the crystal's edges add two units each, and without a write or a wrap nothing else moves the time. -/
theorem timePasses : Obligations.TimePasses := by
  intro dt s hc hx hw ha hv hlt hwin
  have hf : ClockFree s := ⟨hc, State.counting_of_xtRun hx, hw⟩
  have hai : s.getI F.RTC_TRIM_APPLIED = 0 := by rw [State.getI, ha]; rfl
  have hvi : s.getI F.RTC_TRIM_VAL = 0 := by rw [State.getI, hv]; rfl
  have hg : s.gain dt = 2 * dt := by
    rw [State.gain_of_xtRun hx, hai, hvi, trimmed_none hwin]
    omega
  have hcr := State.advance_crystal hc hx dt
  have hcalm := hf.advance_calm (dt := dt) (by omega)
  have hcount := (hf.advance_counted dt).count
  rw [hg, Nat.mod_eq_of_lt hlt] at hcount
  have hk := State.wakeCore_changes hcr.canonical
  have hsec := hk.get F.RTC_SEC_SEC
  have hfrac := hk.get F.RTC_FRAC_FRAC
  refine ⟨_, rfl, ?_, hk.uptime.trans (State.advance_uptime hc dt), ?_, ?_, (hk.get _).trans hcr.count, (hk.flag _).trans (hcalm.flag _)⟩
  · rw [State.count, State.sec, State.frac, hsec, hfrac]
    exact hcount
  · rw [hk.rtc, hcr.pre]
  · have ht := congrArg Prod.fst hcr.trim
    rw [hai, hvi, trimmed_none hwin] at ht
    exact (congrArg Rtc.win hk.rtc).trans ht

/-- Settles O9: time passes to each event's edge; what the run leaves is the write's, the timer's or the window's. -/
theorem clockEvents : Obligations.ClockEvents := by
  intro s hc
  refine ⟨fun v k hw hv hr => ?write, fun hx h0 => ?timer, fun hx => ?window⟩
  case write =>
    have h := State.advance_stepped hc hr hw hv
    refine ⟨s.advance k, ?_, h.sec, h.frac, h.free.wr, h.busy, h.stepped, h.osf, State.advance_uptime hc k⟩
    change execTimeWriteApplied s = _
    rw [execTimeWriteApplied, hw]
  case timer =>
    have h := State.advance_crystal hc hx (128 * s.get F.RTC_CDT_COUNT - s.rtc.pre)
    refine ⟨_, ?_, ?_, h.expired (.inr ⟨h0, by omega⟩)⟩
    · change execCountdownTimerExpiry s = _
      rw [execCountdownTimerExpiry]
      exact if_neg (by simp [h0, hx])
    · rw [h.count]
      omega
  case window =>
    have h := State.advance_crystal hc hx (2 ^ 20 - s.rtc.win)
    have ht := h.trim
    rw [trimmed_across (by omega), Nat.sub_self, Nat.zero_mod] at ht
    refine ⟨_, ?_, congrArg Prod.fst ht, ?_, h.val⟩
    · change execTrimWindow s = _
      rw [execTrimWindow, if_pos hx]
    · exact (congrArg Prod.snd ht).trans (State.getI_of_get h.val).symm

end Sys2Proof.Machine
end

section
set_option Elab.async false
/-! PROOF. Register writes by a source (Machine/Access.lean): what the bits of an action register and of a Staged register come to. -/

namespace Sys2Proof.Machine

/-! ### Words under a mask -/

/-- A merge takes the bits of a mask from one word and the others from the other. -/
theorem mergeMask_eq (m : Nat) (w v : Word) : mergeMask m w v = (w &&& BitVec.ofNat 32 m) ||| (v &&& ~~~ BitVec.ofNat 32 m) := by
  have hm (x : Word) : Nat.land x.toNat m = (x &&& BitVec.ofNat 32 m).toNat := by
    rw [BitVec.toNat_and, BitVec.toNat_ofNat]
    refine Nat.eq_of_testBit_eq fun i => ?_
    change (x.toNat &&& m).testBit i = (x.toNat &&& m % 2 ^ 32).testBit i
    rw [Nat.testBit_and, Nat.testBit_and, Nat.testBit_mod_two_pow]
    by_cases hi : i < 32
    · simp [hi]
    · rw [Nat.testBit_lt_two_pow (Nat.lt_of_lt_of_le x.isLt (Nat.pow_le_pow_right (by decide) (Nat.le_of_not_lt hi)))]
      rfl
  have hv : v = (v &&& BitVec.ofNat 32 m) + (v &&& ~~~ BitVec.ofNat 32 m) := by
    rw [BitVec.add_eq_or_of_and_eq_zero]
    · ext i
      simp only [BitVec.getElem_or, BitVec.getElem_and, BitVec.getElem_not]
      cases v[i] <;> cases (BitVec.ofNat 32 m)[i] <;> rfl
    · ext i
      simp only [BitVec.getElem_and, BitVec.getElem_not, BitVec.getElem_zero]
      cases v[i] <;> cases (BitVec.ofNat 32 m)[i] <;> rfl
  have hd : v.toNat - (v &&& BitVec.ofNat 32 m).toNat = (v &&& ~~~ BitVec.ofNat 32 m).toNat := by
    have hle : (v &&& BitVec.ofNat 32 m) ≤ v := by
      rw [BitVec.le_def, BitVec.toNat_and]
      exact Nat.and_le_left
    rw [← BitVec.toNat_sub_of_le hle]
    congr 1
    rw [BitVec.sub_eq_iff_eq_add]
    conv_lhs => rw [hv]
    exact BitVec.add_comm _ _
  unfold mergeMask word
  rw [hm w, hm v, hd]
  refine BitVec.eq_of_toNat_eq ?_
  rw [BitVec.toNat_ofNat, BitVec.toNat_or]
  exact Nat.mod_eq_of_lt (Nat.or_lt_two_pow (BitVec.isLt _) (BitVec.isLt _))

theorem getLsbD_mergeMask {m i : Nat} (hi : i < 32) (w v : Word) :
    (mergeMask m w v).getLsbD i = if m.testBit i then w.getLsbD i else v.getLsbD i := by
  rw [mergeMask_eq, BitVec.getLsbD_or, BitVec.getLsbD_and, BitVec.getLsbD_and, BitVec.getLsbD_not, BitVec.getLsbD_ofNat]
  simp only [hi, decide_true, Bool.true_and]
  cases m.testBit i <;> simp

/-- A field inside a mask reads through it. -/
theorem bitsOf_land {m : Nat} (w : Word) {hi lo : Nat} (hh : hi < 32) (hm : ∀ i < 32, lo ≤ i → i ≤ hi → m.testBit i = true) :
    bitsOf (word (Nat.land m w.toNat)) hi lo = bitsOf w hi lo := by
  refine bitsOf_congr fun i h1 h2 => ?_
  change (BitVec.ofNat 32 (m &&& w.toNat)).getLsbD i = _
  rw [BitVec.getLsbD_ofNat, Nat.testBit_and, hm i (by omega) h1 h2, Bool.true_and, decide_eq_true (show i < 32 by omega), Bool.true_and]
  rfl

/-- A field inside the mask of a merge takes its new value. -/
theorem bitsOf_mergeMask {m : Nat} (w v : Word) {hi lo : Nat} (hh : hi < 32) (hm : ∀ i < 32, lo ≤ i → i ≤ hi → m.testBit i = true) :
    bitsOf (mergeMask m w v) hi lo = bitsOf w hi lo := by
  refine bitsOf_congr fun i h1 h2 => ?_
  rw [getLsbD_mergeMask (by omega), hm i (by omega) h1 h2, if_pos rfl]

/-! ### Rows -/

/-- A mask takes its fields one by one. -/
theorem RegRow.mask_congr {r : RegRow} {p q : FieldRow → Bool} (h : ∀ f ∈ r.fields, p f = q f) : r.mask p = r.mask q := by
  unfold RegRow.mask
  rw [List.filter_congr h]

/-- In every row the Staged fields are read-write, and no other field shares their bits. -/
def RegRow.stagedApart (r : RegRow) : Bool :=
  let st := r.mask (fun f => decide (f.cls = .staged))
  decide (r.mask (fun f => decide (f.acc = .rw ∧ f.cls = .staged)) = st)
    && decide (Nat.land st (r.mask (fun f => decide (f.acc = .rw ∧ f.cls ≠ .staged))) = 0)
    && decide (Nat.land st (r.mask (fun f => f.acc = .w1c)) = 0)

theorem rows_stagedApart (b : Block) : (blockRows b).all RegRow.stagedApart = true := by cases b <;> rfl

theorem mem_of_rowAt {l : List RegRow} {o : Nat} {r : RegRow} {i j : Nat} (h : rowAt l o = some (r, i, j)) : r ∈ l := by
  induction l with
  | nil => exact absurd h nofun
  | cons x l ih =>
    unfold rowAt at h
    split at h
    · cases h
      exact List.mem_cons_self
    · exact List.mem_cons_of_mem _ (ih h)

/-- The row of an address is one of its block's. -/
theorem row_of_regAt {a : Nat} {b : Block} {r : RegRow} {i j : Nat} (h : regAt a = some (b, r, i, j)) : r ∈ blockRows b := by
  unfold regAt at h
  split at h
  · split at h
    · exact absurd h nofun
    · split at h
      · rename_i hrow
        cases h
        exact mem_of_rowAt hrow
      · exact absurd h nofun
  · exact absurd h nofun

theorem stagedMask_of_regAt {a : Nat} {b : Block} {r : RegRow} {i j : Nat} (h : regAt a = some (b, r, i, j)) :
    stagedMask a = r.mask (fun f => decide (f.cls = .staged)) := by rw [stagedMask, rowOf, h]; rfl

/-! ### What a role may write -/

section
variable {s : State} {a : Nat} {b : Block} {r : RegRow} {i j rank sel m : Nat} {w : Word}

theorem roleRank_le (x : Role) : roleRank x ≤ 4 := by cases x <;> decide

/-- With the right to every field, and outside the seal, what may be written is what is not read-only. -/
theorem State.writeMask_of_right (hr : regAt a = some (b, r, i, j)) (hs : sealMask a = 0) (hle : rank ≤ 4)
    (hf : ∀ f ∈ r.fields, fixedEntry a f = false ∧ f.cls ≠ .locked) (hw : ∀ f, f.acc ≠ .ro → s.writeRank b a f ≤ rank) :
    s.writeMask rank a = r.mask (fun f => decide (f.acc ≠ .ro)) := by
  have hm : r.mask (fun f => decide (s.writeRank b a f ≤ rank) && !fixedEntry a f && !(decide (f.cls = .locked) && s.ownerEnabled b))
      = r.mask (fun f => decide (f.acc ≠ .ro)) := by
    refine RegRow.mask_congr fun f hmem => ?_
    obtain ⟨hfix, hlock⟩ := hf f hmem
    rw [hfix, decide_eq_false hlock, Bool.false_and, Bool.not_false, Bool.and_true, Bool.and_true]
    by_cases hro : f.acc = .ro
    · have h5 : s.writeRank b a f = 5 := if_pos hro
      rw [h5, decide_eq_false (by omega), decide_eq_false (not_not.mpr hro)]
    · rw [decide_eq_true (hw f hro), decide_eq_true hro]
  rw [State.writeMask, hr]
  dsimp only
  rw [hm, hs]
  have h0 : Nat.land (r.mask fun f => decide (f.acc ≠ .ro)) 0 = 0 := Nat.and_zero _
  rw [h0, Nat.sub_zero, ite_self]

theorem State.writeBy_eq (hs : s.serviceOpen = true) (hv : viewOf a = (a, false)) (src : Source) (w : Word) :
    s.writeBy src a w = (s.writeWord (roleRank (s.roleOf src)) a allBits w).2 := by
  rw [State.writeBy, if_pos hs, State.writeAt, viewBits, hv]
  rfl

/-! ### Writes that change nothing -/

theorem State.writeWord_of_regAt_none (h : regAt a = none) : s.writeWord rank a sel w = (0, s) := by
  rw [State.writeWord, h]

theorem State.writeWord_of_noBits (h : Nat.land sel (s.writeMask rank a) = 0) : s.writeWord rank a sel w = (0, s) := by
  unfold State.writeWord
  split
  · rfl
  · exact if_pos h

/-- A write of the time while one is on its way leaves the state. -/
theorem State.writeWord_of_timeBusy (h : s.timeBusy a = true) : (s.writeWord rank a sel w).2 = s := by
  unfold State.writeWord
  split
  · rfl
  · extract_lets -merge -underBinder m s1 s2
    rw [if_pos (c := (s.cfgBusy ∧ Nat.land m (State.cfgBits a _) ≠ 0) ∨ s.timeBusy a) (.inr h)]
    repeat' split
    all_goals rfl

/-- A refused change of the mode leaves the state. -/
theorem State.writeWord_of_modeRefused (hm : Nat.land (Nat.land sel (s.writeMask rank F.PAY_CFG)) 3 ≠ 0)
    (h : s.modeRefused (bitsOf w 1 0) = true) : (s.writeWord rank F.PAY_CFG sel w).2 = s := by
  unfold State.writeWord
  split
  · rfl
  · extract_lets -merge -underBinder m s1 s2
    rw [if_pos (c := F.PAY_CFG = F.PAY_CFG ∧ Nat.land m 3 ≠ 0 ∧ s.modeRefused (bitsOf w 1 0)) ⟨rfl, hm, h⟩]
    repeat' split
    all_goals rfl

/-! ### Writes that start an action -/

/-- The bits `m` of the register are actions alone: none of them is configuration or a flag that clears. -/
structure ActionRow (a : Nat) (b : Block) (r : RegRow) (sel m : Nat) : Prop where
  reg : ∃ i j, regAt a = some (b, r, i, j)
  unsealed : sealMask a = 0
  fields : ∀ f ∈ r.fields, fixedEntry a f = false ∧ f.cls ≠ .locked
  bits : Nat.land sel (r.mask (fun f => decide (f.acc ≠ .ro))) = m
  some : m ≠ 0
  values : ∀ f ∈ r.fields, f.acc ≠ .rw ∨ bit m f.lo = false
  staged : Nat.land m (r.mask (fun f => decide (f.acc = .rw ∧ f.cls = .staged))) = 0
  immediate : Nat.land m (r.mask (fun f => decide (f.acc = .rw ∧ f.cls ≠ .staged))) = 0
  clears : Nat.land m (r.mask (fun f => f.acc = .w1c)) = 0
  config : Nat.land m (State.cfgBits a r) = 0
  other : a ≠ F.MGMT_LOAD ∧ a ≠ F.PAY_CFG ∧ a ≠ F.RTC_SEC ∧ a ≠ F.SAFE_TLATCH ∧ b ≠ .ame
  free : ∀ s t, admissible s t b a = true

/-- What an action answers is what its write does. -/
theorem ActionRow.writeWord (h : ActionRow a b r sel m) (hle : rank ≤ 4) (hw : ∀ f, f.acc ≠ .ro → s.writeRank b a f ≤ rank)
    (hbusy : s.timeBusy a = false) (w : Word) :
    (s.writeWord rank a sel w).2 = if (s.writeAction a m w).1 = 0 then (s.writeAction a m w).2 else s := by
  obtain ⟨i, j, hr⟩ := h.reg
  obtain ⟨hload, hpay, hsec, htl, hame⟩ := h.other
  have hm : Nat.land sel (s.writeMask rank a) = m := by rw [State.writeMask_of_right hr h.unsealed hle h.fields hw, h.bits]
  have hv : s.valuesOk a r m w = true := by
    refine List.all_eq_true.mpr fun f hf => ?_
    rcases h.values f hf with h1 | h1 <;> simp [h1]
  have hrw : s.writeRw a r m w = s := by
    rw [State.writeRw, h.staged, h.immediate]
    rfl
  have hc : s.writeW1c a r m w = s := by
    rw [State.writeW1c, if_neg hload, h.clears]
    rfl
  rw [State.writeWord, hr]
  dsimp only
  rw [hm, if_neg h.some, hv, hrw, hc, h.free, if_neg (by decide), if_neg (by decide), if_neg (fun hp => hpay hp.1), h.config,
    if_neg (by simp [hbusy]), if_neg hsec]
  rcases s.writeAction a m w with ⟨e, t⟩
  cases e with
  | zero =>
    change t.writeShow b a = t
    unfold State.writeShow
    rw [if_neg hame, if_neg htl]
  | succ e => rfl

/-! ### Writes of Staged fields -/

/-- A staged word is pending; every other register keeps what is pending of it. -/
theorem State.pend_stage (hc : s.canonical = true) (ha : isSched a = false) (w : Word) (c : Nat) :
    (s.stage a w).pend c = if c = a then w else s.pend c := by
  rw [State.stage, ha, if_neg Bool.false_ne_true]
  unfold State.pend
  by_cases hca : c = a
  · subst hca
    rw [ha, if_neg Bool.false_ne_true, sget_sset_same (storesCanonical_iff.mp hc).2.1, if_pos rfl]
    by_cases hw : w = s.rd c
    · rw [if_pos hw, hw]
      rfl
    · rw [if_neg hw]
  · rw [sget_sset_ne hca, if_neg hca]
    rfl

theorem State.stage_only (ha : isSched a = false) (w : Word) : s.stage a w = { s with shadow := (s.stage a w).shadow } := by
  rw [State.stage, ha, if_neg Bool.false_ne_true]

/-- The registers whose writes do more than change bits. -/
def actingRegs : List Nat :=
  [F.FT_CMD, F.RTC_SEC, F.RTC_SETD, F.RTC_SETT, F.RTC_CTRL, F.BILL_CMD, F.PAY_ACT, F.KEYS_CMD, F.SAFE_CMD, F.SAFE_TLATCH, F.MGMT_LOAD]

/-- Bits inside a mask lie apart from what the mask lies apart from. -/
theorem land_eq_zero_of_subset {m st x : Nat} (hm : m = Nat.land m st) (h : Nat.land st x = 0) : Nat.land m x = 0 := by
  change m &&& x = 0
  rw [show m = m &&& st from hm, Nat.and_assoc, show st &&& x = 0 from h, Nat.and_zero]

/-- A write of Staged fields alone stages them. -/
theorem State.writeWord_staged (hr : regAt a = some (b, r, i, j)) (hame : b ≠ .ame) (hm : Nat.land sel (s.writeMask rank a) = m) (h0 : m ≠ 0)
    (hst : m = Nat.land m (stagedMask a)) (hpwr : a ≠ F.PWR_CTRL) (hpay : a = F.PAY_CFG → s.modeRefused (bitsOf w 1 0) = false)
    (hv : s.valuesOk a r m w = true) (hadm : admissible s (s.stage a (mergeMask m w (s.pend a))) b a = true) (hcfg : s.cfgBusy = false) :
    s.writeWord rank a sel w = (0, s.stage a (mergeMask m w (s.pend a))) := by
  have hzero : ∀ c ∈ actingRegs, stagedMask c = 0 := by
    have : actingRegs.all (fun c => stagedMask c == 0) = true := by rfl
    exact fun c hcm => eq_of_beq (List.all_eq_true.mp this c hcm)
  have hne : ∀ c ∈ actingRegs, a ≠ c := by
    rintro c hcm rfl
    rw [hzero a hcm] at hst
    exact h0 (hst.trans (Nat.and_zero m))
  have hrow := List.all_eq_true.mp (rows_stagedApart b) r (row_of_regAt hr)
  simp only [RegRow.stagedApart, Bool.and_eq_true, decide_eq_true_eq] at hrow
  obtain ⟨⟨hrw, him⟩, hw1⟩ := hrow
  rw [stagedMask_of_regAt hr] at hst
  have hwr : s.writeRw a r m w = s.stage a (mergeMask m w (s.pend a)) := by
    rw [State.writeRw, land_eq_zero_of_subset hst him, hrw, ← hst, if_pos rfl, if_neg h0]
  have hcl (t : State) : t.writeW1c a r m w = t := by
    rw [State.writeW1c, if_neg (hne _ (by decide)), land_eq_zero_of_subset hst hw1, if_pos rfl]
  have htime : s.timeBusy a = false := by
    rw [State.timeBusy, decide_eq_false (by simp [hne F.RTC_SEC (by decide), hne F.RTC_SETD (by decide), hne F.RTC_SETT (by decide)]),
      Bool.false_and]
  have hact (t : State) : t.writeAction a m w = (0, t) := by
    unfold State.writeAction
    simp only [hne F.FT_CMD (by decide), hne F.RTC_SEC (by decide), hne F.RTC_SETD (by decide), hne F.RTC_SETT (by decide),
      hne F.RTC_CTRL (by decide), hne F.BILL_CMD (by decide), hne F.PAY_ACT (by decide), hne F.KEYS_CMD (by decide), hne F.SAFE_CMD (by decide),
      hpwr, if_false]
  have hmode : ¬(a = F.PAY_CFG ∧ Nat.land m 3 ≠ 0 ∧ s.modeRefused (bitsOf w 1 0) = true) :=
    fun h => Bool.false_ne_true ((hpay h.1).symm.trans h.2.2)
  rw [State.writeWord, hr]
  dsimp only
  rw [hm, if_neg h0, hv, hwr, hcl, hadm, if_neg (by decide), if_neg (by decide), if_neg hmode, hcfg, htime, if_neg (by simp),
    if_neg (hne F.RTC_SEC (by decide)), hact]
  change (0, State.writeShow _ b a) = _
  unfold State.writeShow
  rw [if_neg hame, if_neg (hne F.SAFE_TLATCH (by decide))]

end

/-- Settles O11: a write without a bit changes nothing, and one of Staged bits alone is staged. -/
theorem registerWritesRespectClassAndRight : Obligations.RegisterWritesRespectClassAndRight := by
  intro src a w s hc hs ha hv rank m
  have hrun : exec (.registerWrite src a w) s = .next (s.writeWord rank a allBits w).2 := by
    change execRegisterWrite src a w s = _
    rw [execRegisterWrite, if_pos ha, State.writeBy_eq hs hv]
  refine ⟨fun h => ⟨s, ?nothing, rfl⟩, fun b r i j hr hame hsch h0 hst hpay hpwr hvals hadm hcfg => ?staged⟩
  case nothing =>
    rw [hrun]
    rcases h with h | h
    · rw [State.writeWord_of_regAt_none h]
    · rw [State.writeWord_of_noBits h]
  case staged =>
    refine ⟨_, hrun.trans (congrArg _ (congrArg Prod.snd
      (State.writeWord_staged hr hame rfl h0 hst hpwr (fun h => absurd h hpay) hvals hadm hcfg))), ?_, State.stage_only hsch _⟩
    rw [State.pend_stage hc hsch, if_pos rfl]

end Sys2Proof.Machine
end

section
set_option Elab.async false
/-! PROOF. The commands that write registers with behaviour: the time and the countdown timer, billing, prepayment and the actuator, the
acknowledgements (R94, R278, R284, R289, R306, R327, R332, R451, R455, R466, R468, R487). -/

namespace Sys2Proof.Machine

/-- A command runs to a state given in another form. -/
theorem Runs.of_eq {c : Instr} {s u t : State} {p : State → Prop} (he : exec c s = .next u) (hu : u = t) (hp : p t) : Runs c s p :=
  ⟨t, he.trans (congrArg _ hu), hp⟩

/-- A merge under a mask changes no other field's bits. -/
theorem State.wr_mergeMask_regsBut {s : State} {f : Fld} {m : Nat} {w : Word} (hc : s.canonical = true)
    (hm : ∀ i < 32, m.testBit i = true → f.lo ≤ i ∧ i ≤ f.hi) : RegsBut s (s.wr f.addr (mergeMask m w (s.rd f.addr))) [f] := by
  intro a i hi
  by_cases ha : a = f.addr
  · subst ha
    have hout := hi f (List.mem_singleton_self f) rfl
    rw [State.rd_wr_self hc]
    by_cases hlt : i < 32
    · rw [getLsbD_mergeMask hlt, if_neg fun hb => by have := hm i hlt hb; omega]
    · rw [BitVec.getLsbD_of_ge _ _ (by omega), BitVec.getLsbD_of_ge _ _ (by omega)]
  · rw [State.rd_wr_ne ha]

/-! ### The action registers -/

theorem actionRow_setd : ∃ r, ActionRow F.RTC_SETD .rtc r allBits 0xFF0F1F :=
  ⟨_, ⟨_, _, rfl⟩, rfl, by decide, rfl, by decide, by decide, rfl, rfl, rfl, rfl, by decide, fun _ _ => rfl⟩

theorem actionRow_sett : ∃ r, ActionRow F.RTC_SETT .rtc r allBits 0x1F3F3F :=
  ⟨_, ⟨_, _, rfl⟩, rfl, by decide, rfl, by decide, by decide, rfl, rfl, rfl, rfl, by decide, fun _ _ => rfl⟩

theorem actionRow_billCmd : ∃ r, ActionRow F.BILL_CMD .bill r allBits 1 :=
  ⟨_, ⟨_, _, rfl⟩, rfl, by decide, rfl, by decide, by decide, rfl, rfl, rfl, rfl, by decide, fun _ _ => rfl⟩

theorem actionRow_payAct : ∃ r, ActionRow F.PAY_ACT .pay r allBits 3 :=
  ⟨_, ⟨_, _, rfl⟩, rfl, by decide, rfl, by decide, by decide, rfl, rfl, rfl, rfl, by decide, fun _ _ => rfl⟩

theorem actionRow_pwrCtrl : ∃ r, ActionRow F.PWR_CTRL .pwr r 1 1 :=
  ⟨_, ⟨_, _, rfl⟩, rfl, by decide, rfl, by decide, by decide, rfl, rfl, rfl, rfl, by decide, fun _ _ => rfl⟩

section
variable {s : State} {rank : Nat} {w : Word}

/-- The right to the time's registers. -/
theorem State.writeRank_time (hmay : (if s.untrusted then 2 else 3) ≤ rank) {a : Nat} (ha : a = F.RTC_SEC ∨ a = F.RTC_SETD ∨ a = F.RTC_SETT)
    (f : FieldRow) (hf : f.acc ≠ .ro) : s.writeRank .rtc a f ≤ rank := by
  unfold State.writeRank
  rw [if_neg hf]
  dsimp only
  rwa [if_pos ha]

theorem State.timeBusy_of_free (h : s.flag F.RTC_STAT_WBUSY = false) (a : Nat) : s.timeBusy a = false := by
  rw [State.timeBusy, h, Bool.and_false]

theorem State.timeBusy_of_busy {a : Nat} (h : s.flag F.RTC_STAT_WBUSY = true) (ha : a = F.RTC_SEC ∨ a = F.RTC_SETD ∨ a = F.RTC_SETT) :
    s.timeBusy a = true := by
  rw [State.timeBusy, h, decide_eq_true ha, Bool.and_true]

theorem State.timeBusy_of_ne {a : Nat} (ha : ¬(a = F.RTC_SEC ∨ a = F.RTC_SETD ∨ a = F.RTC_SETT)) : s.timeBusy a = false := by
  rw [State.timeBusy, decide_eq_false ha, Bool.false_and]

/-! ### The time (R278, R284) -/

/-- A write of the seconds starts a time write. -/
theorem State.writeWord_sec (hmay : (if s.untrusted then 2 else 3) ≤ rank) (hle : rank ≤ 4) (h : s.flag F.RTC_STAT_WBUSY = false) (w : Word) :
    (s.writeWord rank F.RTC_SEC allBits w).2 = s.startTimeWrite w.toNat := by
  have hrow : ∃ r i j, regAt F.RTC_SEC = some (.rtc, r, i, j) ∧ (∀ f ∈ r.fields, fixedEntry F.RTC_SEC f = false ∧ f.cls ≠ .locked)
      ∧ Nat.land allBits (r.mask (fun f => decide (f.acc ≠ .ro))) = allBits
      ∧ (∀ s : State, s.valuesOk F.RTC_SEC r allBits w = true) ∧ Nat.land allBits (State.cfgBits F.RTC_SEC r) = 0 :=
    ⟨_, _, _, rfl, by decide, rfl, fun _ => rfl, rfl⟩
  obtain ⟨r, i, j, hr, hf, hbits, hv, hcfg⟩ := hrow
  have hm : Nat.land allBits (s.writeMask rank F.RTC_SEC) = allBits := by
    rw [State.writeMask_of_right hr rfl hle hf (State.writeRank_time hmay (.inl rfl)), hbits]
  have hadm (t : State) : admissible s t .rtc F.RTC_SEC = true := rfl
  rw [State.writeWord, hr]
  dsimp only
  rw [hm, if_neg (by decide), hv, hadm, if_neg (by decide), if_neg (by decide), if_neg (fun hp => absurd hp.1 (by decide)), hcfg,
    State.timeBusy_of_free h, if_neg (by simp), if_pos rfl]
  rfl

/-- A write of a date holds it. -/
theorem State.writeWord_setd (hmay : (if s.untrusted then 2 else 3) ≤ rank) (hle : rank ≤ 4) (h : s.flag F.RTC_STAT_WBUSY = false) (w : Word) :
    (s.writeWord rank F.RTC_SETD allBits w).2
      = { s with rtc := { s.rtc with held := some (bitsOf w 23 16, bitsOf w 11 8, bitsOf w 4 0) } } := by
  obtain ⟨r, hrow⟩ := actionRow_setd
  rw [hrow.writeWord hle (State.writeRank_time hmay (.inr (.inl rfl))) (State.timeBusy_of_free h _)]
  change s.holdDate (word (Nat.land 0xFF0F1F w.toNat)) = _
  rw [State.holdDate_eq h, bitsOf_land w (by decide) (by decide), bitsOf_land w (by decide) (by decide), bitsOf_land w (by decide) (by decide)]

/-- The calendar time that a time of day makes with the date held, or with the current date. -/
def State.dayTime (s : State) (w : Word) : Nat × Bool :=
  let date := match s.rtc.held with
    | some x => x
    | none => ((secToCal s.sec).year, (secToCal s.sec).month, (secToCal s.sec).day)
  calToSec date.1 date.2.1 date.2.2 (bitsOf w 20 16) (bitsOf w 13 8) (bitsOf w 5 0)

theorem State.setTimeOfDay_eq (h : s.flag F.RTC_STAT_WBUSY = false) (w : Word) :
    s.setTimeOfDay w = (s.noteClamped (s.dayTime w).2).startTimeWrite (s.dayTime w).1 := by
  rw [State.setTimeOfDay, h]
  rfl

/-- A write of a time of day starts a time write. -/
theorem State.writeWord_sett (hmay : (if s.untrusted then 2 else 3) ≤ rank) (hle : rank ≤ 4) (h : s.flag F.RTC_STAT_WBUSY = false) (w : Word) :
    (s.writeWord rank F.RTC_SETT allBits w).2 = (s.noteClamped (s.dayTime w).2).startTimeWrite (s.dayTime w).1 := by
  obtain ⟨r, hrow⟩ := actionRow_sett
  rw [hrow.writeWord hle (State.writeRank_time hmay (.inr (.inr rfl))) (State.timeBusy_of_free h _)]
  change s.setTimeOfDay (word (Nat.land 0x1F3F3F w.toNat)) = _
  rw [State.setTimeOfDay_eq h, State.dayTime, State.dayTime, bitsOf_land w (by decide) (by decide), bitsOf_land w (by decide) (by decide),
    bitsOf_land w (by decide) (by decide)]

theorem State.startTimeWrite_eq (h : s.flag F.RTC_STAT_WBUSY = false) (v : Nat) :
    s.startTimeWrite v = { s.set1 F.RTC_STAT_WBUSY with rtc := { s.rtc with wr := some (v % 2 ^ 32, 2) } } := by
  rw [State.startTimeWrite, h]
  rfl

/-! ### The countdown timer (R289) -/

/-- A write of the countdown timer takes the count. -/
theorem State.writeWord_cdt (hrank : 2 ≤ rank) (hle : rank ≤ 4) (w : Word) :
    (s.writeWord rank F.RTC_CDT allBits w).2 = s.wr F.RTC_CDT (mergeMask 0xFFFFFF w (s.rd F.RTC_CDT)) := by
  have hrow : ∃ r i j, regAt F.RTC_CDT = some (.rtc, r, i, j) ∧ (∀ f ∈ r.fields, fixedEntry F.RTC_CDT f = false ∧ f.cls ≠ .locked)
      ∧ Nat.land allBits (r.mask (fun f => decide (f.acc ≠ .ro))) = 0xFFFFFF
      ∧ (∀ s : State, s.valuesOk F.RTC_CDT r 0xFFFFFF w = true) ∧ Nat.land 0xFFFFFF (State.cfgBits F.RTC_CDT r) = 0
      ∧ ∀ s : State, (s.writeRw F.RTC_CDT r 0xFFFFFF w).writeW1c F.RTC_CDT r 0xFFFFFF w = s.wr F.RTC_CDT (mergeMask 0xFFFFFF w (s.rd F.RTC_CDT)) :=
    ⟨_, _, _, rfl, by decide, rfl, fun _ => rfl, rfl, fun _ => rfl⟩
  obtain ⟨r, i, j, hr, hf, hbits, hv, hcfg, hwr⟩ := hrow
  have hright (f : FieldRow) (hacc : f.acc ≠ .ro) : s.writeRank .rtc F.RTC_CDT f ≤ rank := by
    unfold State.writeRank
    rw [if_neg hacc]
    exact hrank
  have hm : Nat.land allBits (s.writeMask rank F.RTC_CDT) = 0xFFFFFF := by rw [State.writeMask_of_right hr rfl hle hf hright, hbits]
  have hadm (t : State) : admissible s t .rtc F.RTC_CDT = true := rfl
  rw [State.writeWord, hr]
  dsimp only
  rw [hm, if_neg (by decide), hv, hwr, hadm, if_neg (by decide), if_neg (by decide), if_neg (fun hp => absurd hp.1 (by decide)), hcfg,
    State.timeBusy_of_ne (by decide), if_neg (by simp), if_neg (by decide)]
  rfl

/-! ### Billing, prepayment and the actuator (R94, R306, R327, R332, R468) -/

theorem State.writeRank_three {b : Block} {a : Nat} (hb : b = .bill ∨ b = .pay ∨ b = .pwr) (hrank : 3 ≤ rank) (f : FieldRow)
    (hf : f.acc ≠ .ro) : s.writeRank b a f ≤ rank := by
  unfold State.writeRank
  rw [if_neg hf]
  rcases hb with rfl | rfl | rfl
  · dsimp only
    split <;> omega
  · exact hrank
  · exact Nat.le_of_succ_le hrank

theorem State.writeWord_hibernate (hrank : 3 ≤ rank) (hle : rank ≤ 4) :
    (s.writeWord rank F.PWR_CTRL 1 1#32).2 = { s with pow := { s.pow with hibReq := true } } := by
  obtain ⟨r, hrow⟩ := actionRow_pwrCtrl
  rw [hrow.writeWord hle (State.writeRank_three (.inr (.inr rfl)) hrank) (State.timeBusy_of_ne (by decide))]
  rfl

theorem State.writeWord_close (hrank : 3 ≤ rank) (hle : rank ≤ 4) : (s.writeWord rank F.BILL_CMD allBits 1#32).2 = s.closeRequest := by
  obtain ⟨r, hrow⟩ := actionRow_billCmd
  rw [hrow.writeWord hle (State.writeRank_three (.inl rfl) hrank) (State.timeBusy_of_ne (by decide))]
  rfl

theorem State.writeWord_disconnect (hrank : 3 ≤ rank) (hle : rank ≤ 4) : (s.writeWord rank F.PAY_ACT allBits 1#32).2 = s.remoteClose := by
  obtain ⟨r, hrow⟩ := actionRow_payAct
  rw [hrow.writeWord hle (State.writeRank_three (.inr (.inl rfl)) hrank) (State.timeBusy_of_ne (by decide))]
  rfl

/-- A reconnection is refused, or made, as the actuator answers. -/
theorem State.writeWord_reconnect (hrank : 3 ≤ rank) (hle : rank ≤ 4) :
    (s.writeWord rank F.PAY_ACT allBits 2#32).2 = if s.remoteOpen.1 then s.remoteOpen.2 else s := by
  obtain ⟨r, hrow⟩ := actionRow_payAct
  rw [hrow.writeWord hle (State.writeRank_three (.inr (.inl rfl)) hrank) (State.timeBusy_of_ne (by decide))]
  change (if (match s.remoteOpen with | (ok, s1) => ((if ok then 0 else 6 : Nat), s1)).1 = 0 then
    (match s.remoteOpen with | (ok, s1) => ((if ok then 0 else 6 : Nat), s1)).2 else s) = _
  rcases s.remoteOpen with ⟨ok, t⟩
  cases ok <;> rfl

end

/-- Settles O12: each write is its action, and while a time write is on its way it leaves the state. -/
theorem timeAndTimerWrites : Obligations.TimeAndTimerWrites := by
  intro src w s hc hs rank may date
  have hle : rank ≤ 4 := roleRank_le _
  have hrun (a : Nat) (hv : viewOf a = (a, false)) : s.writeBy src a w = (s.writeWord rank a allBits w).2 := State.writeBy_eq hs hv src w
  have hput {t : State} (ht : t.canonical = true) {fs : List Fld} (h : RegsBut s t fs) (hf : F.RTC_STAT_WBUSY ∈ fs) :
      RegsBut s (t.set1 F.RTC_STAT_WBUSY) fs := h.put ht hf (by decide) (by decide)
  refine ⟨fun hmay hb => Runs.of_eq rfl ((hrun _ rfl).trans (State.writeWord_sec hmay hle hb w)) ?sec,
    fun hmay hb => Runs.of_eq rfl ((hrun _ rfl).trans (State.writeWord_setd hmay hle hb w)) rfl,
    fun hmay hb => Runs.of_eq rfl ((hrun _ rfl).trans (State.writeWord_sett hmay hle hb w)) ?sett,
    fun hb => ⟨Runs.of_eq rfl ((hrun _ rfl).trans (State.writeWord_of_timeBusy (State.timeBusy_of_busy hb (.inl rfl)))) rfl,
      Runs.of_eq rfl ((hrun _ rfl).trans (State.writeWord_of_timeBusy (State.timeBusy_of_busy hb (.inr (.inl rfl))))) rfl,
      Runs.of_eq rfl ((hrun _ rfl).trans (State.writeWord_of_timeBusy (State.timeBusy_of_busy hb (.inr (.inr rfl))))) rfl⟩,
    fun hr => Runs.of_eq rfl ((hrun _ rfl).trans (State.writeWord_cdt hr hle w)) ?cdt⟩
  case sec =>
    rw [State.startTimeWrite_eq hb, Nat.mod_eq_of_lt w.isLt]
    exact ⟨rfl, State.set1_flag hc, hput hc (RegsBut.refl s _) (by decide), rfl⟩
  case sett =>
    have hcn := State.noteClamped_canonical hc (s.dayTime w).2
    rw [State.startTimeWrite_eq ((State.noteClamped_busy hc _).trans hb)]
    refine ⟨?_, State.set1_flag hcn, hput hcn (State.noteClamped_regs hc _) (by decide)⟩
    have hn (b : Bool) : (s.noteClamped b).rtc = { s.rtc with held := none } := by cases b <;> rfl
    rw [hn]
    rfl
  case cdt =>
    refine ⟨?_, State.wr_mergeMask_regsBut (f := F.RTC_CDT_COUNT) hc (by decide), rfl⟩
    rw [State.get, show F.RTC_CDT_COUNT.addr = F.RTC_CDT from rfl, State.rd_wr_self hc]
    exact (bitsOf_mergeMask w _ (by decide) (by decide)).trans (congrArg (· % 2 ^ 24) (Nat.div_one _))

section
variable {s : State} {rank : Nat}

/-- The row of PAY_CFG with its MODE alone. -/
theorem row_payCfg : ∃ r i j, regAt F.PAY_CFG = some (.pay, r, i, j) ∧ (∀ f ∈ r.fields, fixedEntry F.PAY_CFG f = false ∧ f.cls ≠ .locked)
    ∧ Nat.land 3 (r.mask (fun f => decide (f.acc ≠ .ro))) = 3
    ∧ ∀ (s : State) (mode : BitVec 2), mode ≠ 3#2 → s.valuesOk F.PAY_CFG r 3 (word mode.toNat) = true := by
  refine ⟨_, _, _, rfl, by decide, rfl, fun s mode hm => ?_⟩
  obtain rfl | rfl | rfl : mode = 0#2 ∨ mode = 1#2 ∨ mode = 2#2 := by
    revert hm
    revert mode
    decide
  all_goals rfl

theorem State.land_writeMask_payCfg (hrank : 3 ≤ rank) (hle : rank ≤ 4) : Nat.land 3 (s.writeMask rank F.PAY_CFG) = 3 := by
  obtain ⟨r, i, j, hr, hf, hbits, -⟩ := row_payCfg
  rw [State.writeMask_of_right hr rfl hle hf (State.writeRank_three (.inr (.inl rfl)) hrank), hbits]

theorem bitsOf_mode (mode : BitVec 2) : bitsOf (word mode.toNat) 1 0 = mode.toNat := by
  revert mode
  decide

/-- A write of the mode stages it. -/
theorem State.writeWord_mode (hrank : 3 ≤ rank) (hle : rank ≤ 4) {mode : BitVec 2} (hm : mode ≠ 3#2)
    (hmode : s.modeRefused mode.toNat = false) (hcfg : s.cfgBusy = false) :
    (s.writeWord rank F.PAY_CFG 3 (word mode.toNat)).2 = s.stage F.PAY_CFG (mergeMask 3 (word mode.toNat) (s.pend F.PAY_CFG)) := by
  obtain ⟨r, i, j, hr, -, -, hv⟩ := row_payCfg
  exact congrArg Prod.snd (State.writeWord_staged hr (by decide) (State.land_writeMask_payCfg hrank hle) (by decide) rfl (by decide)
    (fun _ => by rwa [bitsOf_mode]) (hv s mode hm) rfl hcfg)

end

/-- Settles O13: each command is one register's action, or the staged mode. -/
theorem commandsToBillingAndPay : Obligations.CommandsToBillingAndPay := by
  intro src mode s hc hs hrank
  have hle := roleRank_le (s.roleOf src)
  have hrun {a : Nat} (w : Word) (hv : viewOf a = (a, false)) := State.writeBy_eq (a := a) hs hv src w
  refine ⟨?hibernate, Runs.of_eq rfl ((hrun _ rfl).trans (State.writeWord_close hrank hle)) ⟨State.set1_flag hc, ?close, rfl⟩,
    Runs.of_eq rfl ((hrun _ rfl).trans (State.writeWord_disconnect hrank hle)) ?disconnect, fun hb => ?blocked, fun hb hm => ?reconnect,
    fun hm hr hcfg => ?mode, fun hm hr => ?refused⟩
  case hibernate => exact Runs.of_eq rfl (if_pos hs) (State.writeWord_hibernate hrank hle)
  case close => exact (RegsBut.refl s _).put hc (by decide) (by decide) (by decide)
  case disconnect =>
    obtain ⟨hrem, hdue, hwant, hregs⟩ := State.remoteClose_effect hc
    exact ⟨hrem, by rw [State.closeDemand, hrem, Bool.or_true, Bool.true_or], hdue, hwant, rfl, hregs, rfl⟩
  case blocked =>
    refine Runs.of_eq rfl ((hrun _ rfl).trans (State.writeWord_reconnect hrank hle)) ?_
    rw [State.remoteOpen, if_pos hb]
    rfl
  case reconnect =>
    refine Runs.of_eq rfl ((hrun _ rfl).trans (State.writeWord_reconnect hrank hle)) ?_
    rw [State.remoteOpen_eq hc hb hm]
    obtain ⟨hrem, hheld, -, hregs⟩ := State.openRequest_effect hc
    exact ⟨hrem, hheld, rfl, rfl, hregs⟩
  case mode =>
    refine Runs.of_eq rfl ((if_pos hs).trans (State.writeWord_mode hrank hle hm hr hcfg)) ⟨?_, State.stage_only rfl _⟩
    rw [State.pget, show F.PAY_CFG_MODE.addr = F.PAY_CFG from rfl, State.pend_stage hc rfl, if_pos rfl]
    exact (bitsOf_mergeMask _ _ (by decide) (by decide)).trans (bitsOf_mode mode)
  case refused =>
    refine Runs.of_eq rfl ((if_pos hs).trans (State.writeWord_of_modeRefused ?_ (by rwa [bitsOf_mode]))) rfl
    rw [State.land_writeMask_payCfg hrank hle]
    decide

/-! ### Acknowledgements, the forced entry and the debug enables (R451, R455, R466, R487) -/

section
variable {s : State}

theorem State.noteAck_latched (hc : s.canonical = true) {code : Nat} (h : s.latches code = true) :
    (s.noteAck code).safe.needAck = true ∧ (s.noteAck code).flag F.SAFE_STAT_ACKREQ = true := by
  rw [State.noteAck, if_pos h]
  exact ⟨rfl, State.set1_flag hc⟩

/-- Whether a cause latches is the configuration's. -/
theorem Changes.latches {W : List Zone} {L : List Part} {t : State} (h : Changes W L s t) (code : Nat)
    (hW : ∀ z ∈ W, z.apart F.SAFE_CFG_LATCH = true := by decide) : t.latches code = s.latches code := by
  rw [State.latches, State.latches, h.flag _ hW]

/-- A cause that latches asks for an acknowledgement when it enters the safe state. -/
theorem State.enterSafe_latched (hc : s.canonical = true) {code : Nat} (h : s.latches code = true) :
    (s.enterSafe code).safe.needAck = true ∧ (s.enterSafe code).flag F.SAFE_STAT_ACKREQ = true := by
  unfold State.enterSafe
  split
  · have h2 : Changes [F.SAFE_STAT_CAUSE.zone, F.SAFE_STAT_EXITCNT.zone] [] s ((s.put F.SAFE_STAT_CAUSE code).clr F.SAFE_STAT_EXITCNT) :=
      ((Changes.refl hc).put).clr
    exact State.noteAck_latched h2.canonical ((h2.latches code).trans h)
  · extract_lets -merge -underBinder s1 s2 s3 src s4
    have h1 : Changes safeZones safeParts s s1 := (State.logTrouble_changes hc 0x80 code 0).mono
    have h2 : Changes safeZones safeParts s (s2.bump F.SAFE_CNT_ENTRIES 1) := (((h1.set1).put).clr).bump
    have h3 : Changes safeZones safeParts s s3 := h2.next (State.legal_changes h2.canonical 0x35 [byte code])
    have hs : Changes safeZones safeParts s { s3 with safe := { s3.safe with since := s3.rm.tick } } := h3.setSafe
    obtain ⟨hneed, hreq⟩ := State.noteAck_latched hs.canonical ((hs.latches code).trans h)
    have hz := State.zcRefuse_changes (State.noteAck_changes hs.canonical code).canonical 7
    have ht : Changes [F.SAFE_STAT_SSHELD.zone] [.jrn, .act] s4 (if s4.flag F.SAFE_CFG_SSCLOSE then s4.demandClose else s4) :=
      .ite (State.demandClose_changes hz.canonical) (.refl hz.canonical)
    exact ⟨(congrArg Safe.needAck (ht.safe.trans hz.safe)).trans hneed, (ht.flag _).trans ((hz.flag _).trans hreq)⟩

/-- A forced entry in test mode. -/
theorem State.forceSafe_spec (hc : s.canonical = true) (ht : s.flag F.CMD_MODE_TEST = true) :
    s.forceSafe.flag F.SAFE_STAT_SAFE = true ∧ s.forceSafe.get F.SAFE_STAT_CAUSE = 0x79 ∧ s.forceSafe.flag F.SAFE_STAT_ACKREQ = true
    ∧ s.forceSafe.safe.needAck = true ∧ s.forceSafe.flag ⟨F.SAFE_FAULT, 11, 11⟩ = true := by
  have hl {t : State} : t.latches 0x79 = true := by rw [State.latches, decide_eq_true rfl, Bool.or_true]
  have hn := State.noteFault_changes hc 0x79 0xFF 0 .atOnce
  obtain ⟨hsafe, hcause⟩ := State.detect_atOnce_shows hc (code := 0x79) (by decide) 0xFF 0
  obtain ⟨hneed, hreq⟩ := State.enterSafe_latched hn.canonical (code := 0x79) hl
  rw [State.forceSafe, if_pos ht]
  refine ⟨hsafe, hcause, ?_, ?_, State.detect_bit hc rfl 0xFF 0 .atOnce⟩
  · rwa [State.detect_atOnce]
  · rwa [State.detect_atOnce]

/-- The debug enable of a blank part is programmed. -/
theorem State.programDebug_blank (h : s.keys.cells.lcs = 0) : s.programDebug.keys.cells = { s.keys.cells with dbgB := true } := by
  rw [State.programDebug, if_pos h]
  rfl

/-- The debug enable of a returned part is programmed. -/
theorem State.programDebug_returned (h : s.keys.cells.lcs = 3) : s.programDebug.keys.cells = { s.keys.cells with dbgR := true } := by
  rw [State.programDebug, if_neg (by rw [h]; decide), if_pos h]
  rfl

theorem roleAtLeast_of_le {x m : Role} (h : roleRank m ≤ roleRank x) : roleAtLeast x m = true := decide_eq_true h

end

/-- Settles O14: each command needs its role, and then does the one thing that its rule says. -/
theorem acknowledgeForceAndDebug : Obligations.AcknowledgeForceAndDebug := by
  intro src s hc hs rank
  have hacks {m : Role} (h : roleRank m ≤ rank) : s.serviceOpen = true ∧ roleAtLeast (s.roleOf src) m = true := ⟨hs, roleAtLeast_of_le h⟩
  refine ⟨fun hr hn => Runs.of_eq rfl ((if_pos (hacks (m := .utility) hr)).trans (if_pos hn)) ?ack,
    fun hr ht => Runs.of_eq rfl (if_pos (hacks (m := .installer) hr)) (State.forceSafe_spec hc ht),
    fun hr hh => Runs.of_eq rfl ((if_pos (hacks (m := .utility) hr)).trans (if_pos hh)) rfl,
    fun hr h0 => Runs.of_eq rfl (if_pos (hacks (m := .manufacturer) hr)) (State.programDebug_blank h0),
    fun hr h3 => Runs.of_eq rfl (if_pos (hacks (m := .manufacturer) hr)) (State.programDebug_returned h3), fun h => Runs.of_eq rfl ?none rfl⟩
  case ack =>
    exact ⟨rfl, State.clr_flag (s := { s with safe := { s.safe with acked := true } }) hc,
      (RegsBut.of_regs rfl).put (t := { s with safe := { s.safe with acked := true } }) hc (by decide) (by decide) (by decide), rfl⟩
  case none =>
    rcases h with h | ⟨h0, h3⟩
    · exact if_neg fun hx => absurd (of_decide_eq_true hx.2) (Nat.not_le.mpr h)
    · have hp : s.programDebug = s := (if_neg h0).trans (if_neg h3)
      rw [hp, ite_self]

/-! ### Special days (R351) -/

section
variable {s : State} {i : Nat}

theorem special_not_sched : isSched (F.ALM_SPEC i) = false :=
  decide_eq_false fun h => absurd h.2 (Nat.not_lt.mpr (by simp only [F.FT_SCHED, F.ALM_SPEC]; omega))

/-- A special day disabled keeps its other bits. -/
theorem withBits_disabled (w : Word) : withBits w 31 31 0 = w &&& 0x7FFFFFFF#32 := by
  refine BitVec.eq_of_toNat_eq ?_
  have h : (w &&& 0x7FFFFFFF#32).toNat = w.toNat % 2 ^ 31 := Nat.and_two_pow_sub_one_eq_mod w.toNat 31
  have hw := w.isLt
  rw [h, withBits_toNat (by decide) (by decide)]
  omega

/-- Special days staged leave what else is pending. -/
theorem State.stage_special (hc : s.canonical = true) (w : Word) :
    (s.stage (F.ALM_SPEC i) w).pend (F.ALM_SPEC i) = w
    ∧ (∀ a, a ≠ F.ALM_SPEC i → (s.stage (F.ALM_SPEC i) w).pend a = s.pend a)
    ∧ s.stage (F.ALM_SPEC i) w = { s with shadow := (s.stage (F.ALM_SPEC i) w).shadow } := by
  refine ⟨?_, fun a ha => ?_, State.stage_only special_not_sched w⟩
  · rw [State.pend_stage hc special_not_sched, if_pos rfl]
  · rw [State.pend_stage hc special_not_sched, if_neg ha]

end

/-- Settles O46: the two methods of the catalogue's Special days table, by its reading of the entry. -/
theorem specialDaysAreStaged : Obligations.SpecialDaysAreStaged := by
  intro src data x i w s hc hs others right
  have hk : s.objectAt specialObis = some .special := rfl
  have hbusy (hcfg : s.cfgBusy = false) : s.objBusy .special = false := by rw [State.objBusy, hcfg, Bool.and_false]
  refine ⟨fun hr hx hw hcfg => Runs.of_eq rfl ((if_pos hs).trans (congrArg Prod.snd (State.invokeMethod_of_right hk (by decide) hr (hbusy hcfg)
      (s1 := s.stage (F.ALM_SPEC i) w) ?insert))) (State.stage_special hc w),
    fun hr hx hn hi hcfg => Runs.of_eq rfl ((if_pos hs).trans (congrArg Prod.snd (State.invokeMethod_of_right hk (by decide) hr (hbusy hcfg)
      (s1 := s.stage (F.ALM_SPEC i) (s.pend (F.ALM_SPEC i) &&& 0x7FFFFFFF#32)) ?delete))) (State.stage_special hc _),
    fun hr => ⟨Runs.of_eq rfl ((if_pos hs).trans (congrArg Prod.snd (State.invokeMethod_of_noRight hk (by decide) (Nat.not_le.mp hr)))) rfl,
      Runs.of_eq rfl ((if_pos hs).trans (congrArg Prod.snd (State.invokeMethod_of_noRight hk (by decide) (Nat.not_le.mp hr)))) rfl⟩⟩
  case insert =>
    rw [hx, State.method, if_pos rfl, State.specialInsert, hw]
  case delete =>
    rw [hx, State.method, if_neg (by decide), State.specialDelete, hn]
    dsimp only
    rw [if_pos hi, State.stageField, ← withBits_disabled]
    rfl

end Sys2Proof.Machine
end

section
set_option Elab.async false
/-! PROOF. The Safety Net's inputs and its exit (R76, R333, R466, R470, R478, R479). -/

namespace Sys2Proof.Machine

/-! ### A tamper input whose mode AON holds and no register shows -/

/-- AON samples TAMP3 as enabled, its level has differed twice, and SAFE_TAMP3 has MODE 0 and POL 1. -/
def tampModeStale : State :=
  { State.reset.put (F.SAFE_TAMP_POL 3) 1 with
    pow := { State.reset.pow with stage := .running }
    pins := { State.reset.pins with tamp := [.init, .init, .init, ⟨true, false, 2⟩], tampMode := [0, 0, 0, 1] } }

/-- The accepted level is the one that POL names, and the input is not shown active. -/
theorem tampModeStale_accepts : (tampModeStale.advance 0).flag (F.SAFE_TAMP_POL 3) = true
    ∧ (State.tampSample 3 (tampModeStale.advance 0) true).flag (F.SAFE_TAMP_ACTIVE 3) = false := by decide +kernel

/-- Refutes O16: AON samples an input by the mode it holds for it, while ACTIVE also asks for MODE in force (R75, R479). Where AON's mode
is 1 and SAFE_TAMP3.MODE is 0, as in `tampModeStale`, an accepted level equal to POL leaves ACTIVE at 0. -/
theorem not_tamperEventsLatch : ¬ Obligations.TamperEventsLatch := by
  unfold Obligations.TamperEventsLatch
  intro h
  obtain ⟨-, -, -, -, htamp⟩ := h 0 3 true tampModeStale (by decide +kernel)
  obtain ⟨t, hexec, -, hactive, -⟩ := htamp (by decide +kernel) (by decide +kernel) (by decide +kernel) (by decide +kernel)
    (by decide +kernel)
  obtain ⟨hpol, hoff⟩ := tampModeStale_accepts
  have ht : t = State.tampSample 3 (tampModeStale.advance 0) true := (Host.Outcome.next.inj hexec).symm
  have hpol' : (tampModeStale.advance 0).flag (F.SAFE_TAMP_POL (3 : Fin 4).val) = true := hpol
  rw [ht, hpol'] at hactive
  exact absurd (hoff.symm.trans hactive) (by decide)

/-! ### The exit from the safe state -/

section
variable {s : State}

theorem State.markRecov_changes (hc : s.canonical = true) (x : Nat) : Changes [] [.shot] s (s.markRecov x) := (Changes.refl hc).setShot

/-- The fields that the exit clears. -/
def State.exitFields (s : State) : State :=
  (((s.clr F.SAFE_STAT_SAFE).clr F.SAFE_STAT_RESTART).clr F.SAFE_STAT_ACKREQ).clr F.SAFE_STAT_EXITCNT

/-- No cause is left to acknowledge. -/
def State.endSafe (s : State) : State := { s.exitFields with safe := { s.exitFields.safe with needAck := false, acked := false } }

/-- The entry of the trouble log that the exit writes. -/
def State.logExit (s : State) : State := s.logTrouble 0x81 (b2n s.safe.needAck) ((s.rm.tick + 1 - s.safe.since) % 2 ^ 32)

theorem State.leaveSafe_eq : s.leaveSafe = ((s.logExit.endSafe.legal 0x36 [byte (s.get F.SAFE_STAT_CAUSE)]).markRecov 0).markRecov 1 := by
  have h : s.logTrouble 0x81 (b2n s.safe.needAck) ((s.rm.tick + 1 - s.safe.since) % 2 ^ 32) = s.logExit := rfl
  unfold State.leaveSafe
  rw [h]
  generalize s.logExit = u
  rfl

theorem State.endSafe_spec (hc : s.canonical = true) :
    Changes [F.SAFE_STAT_SAFE.zone, F.SAFE_STAT_RESTART.zone, F.SAFE_STAT_ACKREQ.zone, F.SAFE_STAT_EXITCNT.zone] [.safe] s s.endSafe
    ∧ s.endSafe.flag F.SAFE_STAT_SAFE = false ∧ s.endSafe.flag F.SAFE_STAT_ACKREQ = false
    ∧ s.endSafe.flag F.SAFE_STAT_RESTART = false ∧ s.endSafe.get F.SAFE_STAT_EXITCNT = 0 ∧ s.endSafe.safe.needAck = false := by
  have h1 : Changes [F.SAFE_STAT_SAFE.zone] [] s (s.clr F.SAFE_STAT_SAFE) := (Changes.refl hc).clr
  have h2 : Changes [F.SAFE_STAT_RESTART.zone] [] _ ((s.clr F.SAFE_STAT_SAFE).clr F.SAFE_STAT_RESTART) :=
    (Changes.refl h1.canonical).clr
  have h3 : Changes [F.SAFE_STAT_ACKREQ.zone] [] _ (((s.clr F.SAFE_STAT_SAFE).clr F.SAFE_STAT_RESTART).clr F.SAFE_STAT_ACKREQ) :=
    (Changes.refl h2.canonical).clr
  have h4 : Changes [F.SAFE_STAT_EXITCNT.zone] [] _ s.exitFields := (Changes.refl h3.canonical).clr
  have h5 : Changes [] [.safe] s.exitFields s.endSafe := (Changes.refl h4.canonical).setSafe
  refine ⟨((((h1.mono).next h2).next h3).next h4).next h5, ?_, ?_, ?_, (h5.get _).trans (State.clr_get h3.canonical), rfl⟩
  · exact (h5.flag _).trans <| (h4.flag _).trans ((h3.flag _).trans ((h2.flag _).trans (State.clr_flag hc)))
  · exact (h5.flag _).trans <| (h4.flag _).trans (State.clr_flag h2.canonical)
  · exact (h5.flag _).trans <| (h4.flag _).trans ((h3.flag _).trans (State.clr_flag h1.canonical))

/-- What follows the fields cleared: the legal event and the recovery ticks. -/
theorem State.leaveSafe_after (hc : s.canonical = true) : Changes legalZones (.shot :: legalParts) s.logExit.endSafe s.leaveSafe := by
  have h1 : Changes logZones logParts s s.logExit := State.logTrouble_changes hc _ _ _
  have h2 := State.legal_changes (State.endSafe_spec h1.canonical).1.canonical 0x36 [byte (s.get F.SAFE_STAT_CAUSE)]
  have h3 : Changes legalZones (.shot :: legalParts) s.logExit.endSafe _ := h2.mono.next (State.markRecov_changes h2.canonical 0)
  rw [State.leaveSafe_eq]
  exact h3.next (State.markRecov_changes h3.canonical 1)

end

/-- Settles O15: the exit clears its fields after the trouble-log entry, and the legal event and the recovery ticks that follow are
elsewhere. -/
theorem safeStateEnds : Obligations.SafeStateEnds := by
  unfold Obligations.SafeStateEnds
  intro s hc hrun hdone hready
  have hexec : exec .safeStateExit s = .next s.leaveSafe := by
    change Host.Outcome.next (if s.ticking = true ∧ s.rm.phaseDone = true ∧ s.exitReady = true then s.leaveSafe else s) = _
    rw [if_pos ⟨decide_eq_true hrun, hdone, hready⟩]
  have hlog : Changes logZones logParts s s.logExit := State.logTrouble_changes hc _ _ _
  obtain ⟨hend, hsafe, hreq, hrestart, hcnt, hneed⟩ := State.endSafe_spec hlog.canonical
  have hafter := State.leaveSafe_after hc
  have hall := ((hlog.mono (W := logZones ++ legalZones ++ [F.SAFE_STAT_SAFE.zone, F.SAFE_STAT_RESTART.zone, F.SAFE_STAT_ACKREQ.zone,
    F.SAFE_STAT_EXITCNT.zone]) (L := safeParts)).next hend).next hafter
  exact ⟨_, hexec, (hafter.flag _).trans hsafe, (hafter.flag _).trans hreq, (hafter.flag _).trans hrestart, (hafter.get _).trans hcnt,
    hall.get _, (congrArg Safe.needAck hafter.safe).trans hneed, hall.nvm, hall.blockKept .pay, hall.blockKept .bill⟩

end Sys2Proof.Machine
end

section
set_option Elab.async false
/-! PROOF. The transceiver (Machine/Radio.lean, Machine/Link.lean): what its operations may change, channel samples and sync words
(R367, R368, R373, R380), and what a frame received, an acknowledgement awaited or owed leaves beside what the statements say. -/

namespace Sys2Proof.Machine

/-! ### What the sender's operations may change -/

/-- What the sender's operations show in. -/
def senderZones : List Zone :=
  [F.RADIO_DUTY_USED.zone, F.RADIO_STAT_STATE.zone, F.CLK_STAT_XO24_OK.zone, F.CLK_STAT_PLL_LOCK.zone, F.LINK_STAT_QUEUED.zone,
   F.LINK_CNT1_FAILED.zone] ++ consumeZones 3

/-- The parts that the sender's operations change. -/
def senderParts : List Part := [.link, .pins, .free] ++ safeParts

section
variable {s : State}

theorem State.showRadio_changes (hc : s.canonical = true) (held : Bool) :
    Changes [F.RADIO_STAT_STATE.zone, F.CLK_STAT_XO24_OK.zone, F.CLK_STAT_PLL_LOCK.zone] [] s (s.showRadio held) := by
  unfold State.showRadio
  extract_lets v s1
  have h1 : Changes [F.RADIO_STAT_STATE.zone, F.CLK_STAT_XO24_OK.zone, F.CLK_STAT_PLL_LOCK.zone] [] s s1 := (Changes.refl hc).put
  exact .ite (h1.next (State.xo24Rest_changes h1.canonical)) h1

theorem State.showTx_changes (hc : s.canonical = true) (on : Bool) : Changes [] [.pins] s (s.showTx on) := (Changes.refl hc).setPins

theorem State.showDuty_changes (hc : s.canonical = true) : Changes [F.RADIO_DUTY_USED.zone] [] s s.showDuty := (Changes.refl hc).put

theorem State.showQueued_changes (hc : s.canonical = true) : Changes [F.LINK_STAT_QUEUED.zone] [] s s.showQueued := (Changes.refl hc).put

theorem State.nextTelegram_changes (hc : s.canonical = true) : Changes [] [.link, .free] s s.nextTelegram :=
  (Changes.refl hc).setFree.setLink

theorem State.dropHead_changes (hc : s.canonical = true) : Changes senderZones senderParts s s.dropHead := by
  unfold State.dropHead
  split
  · exact .refl hc
  · rename_i f t _
    extract_lets src s1 s2
    have h1 : Changes senderZones senderParts s s1 := (Changes.refl hc).setLink
    have hd := h1.next (State.consume_changes h1.canonical 3 (recordSlots 3 f.slot f.slots))
    have hq := hd.next (State.showQueued_changes hd.canonical)
    have h2 : Changes senderZones senderParts s s2 := hq.next (State.showRadio_changes hq.canonical false)
    exact .ite (h2.next (State.nextTelegram_changes h2.canonical)) h2

theorem State.planHead_changes (hc : s.canonical = true) : Changes senderZones senderParts s s.planHead := by
  unfold State.planHead
  split
  · exact .refl hc
  · refine .ite (.refl hc) ?_
    split
    · exact (Changes.refl hc).setLink
    · exact .refl hc
    · have h : Changes senderZones senderParts s (s.bump F.LINK_CNT1_FAILED 1) := (Changes.refl hc).bump
      exact h.next (State.dropHead_changes h.canonical)

theorem State.stopTx_changes (hc : s.canonical = true) : Changes senderZones senderParts s s.stopTx := by
  unfold State.stopTx
  split
  · extract_lets -merge -underBinder cut bins cutRun runs src s1
    have h0 : Changes senderZones senderParts s { s with link := { s.link with tx := .idle, bins := bins, onAir := runs } } := (Changes.refl hc).setLink
    have h1 : Changes senderZones senderParts s s1 := h0.next (State.showDuty_changes h0.canonical)
    have h2 := h1.next (State.showTx_changes h1.canonical false)
    have h3 := h2.next (State.planHead_changes h2.canonical)
    exact h3.next (State.showRadio_changes h3.canonical false)
  · exact .refl hc

/-- RADIO_STAT.STATE of a sender and a receiver. -/
def shownRadio (tx : TxState) (rx : RxState) (held : Bool) : Nat := match tx, rx with
  | .send _ _ _ _, _ => 3
  | .ackWait _ _, _ => 2
  | _, .receive => 2
  | _, .syncWait _ => 2
  | _, _ => if held then 4 else 0

/-- RADIO_STAT.STATE as the state's sender and receiver leave it. -/
def State.radioState (s : State) (held : Bool) : Nat := shownRadio s.link.tx s.link.rx held

theorem State.radioState_lt (held : Bool) : s.radioState held < 8 := by
  unfold State.radioState shownRadio
  split
  · decide
  · decide
  · decide
  · decide
  · split <;> decide

/-- A receiver that is awake shows unless a transmission does. -/
theorem shownRadio_receiving {tx : TxState} {rx : RxState} (htx : ∀ m a b c, tx ≠ .send m a b c) (hrx : rx ≠ .sleep) (held : Bool) :
    shownRadio tx rx held = 2 := by
  unfold shownRadio
  split
  · exact absurd rfl (htx _ _ _ _)
  · rfl
  · rfl
  · rfl
  · rename_i hreceive hsync
    cases rx with
    | sleep => exact absurd rfl hrx
    | syncWait x => exact absurd rfl (hsync x)
    | receive => exact absurd rfl hreceive

/-- What is shown, with the oscillator stopped where no work is left. -/
theorem State.showRadio_eq (held : Bool) : s.showRadio held =
    if 2 ≤ (s.put F.RADIO_STAT_STATE (s.radioState held)).get F.FT_PHASE_PHASE
    then (s.put F.RADIO_STAT_STATE (s.radioState held)).xo24Rest else s.put F.RADIO_STAT_STATE (s.radioState held) := rfl

theorem State.showRadio_get (hc : s.canonical = true) (held : Bool) :
    (s.showRadio held).get F.RADIO_STAT_STATE = s.radioState held := by
  have h1 : (s.put F.RADIO_STAT_STATE (s.radioState held)).canonical = true := State.put_canonical hc
  have hput := State.get_put (f := F.RADIO_STAT_STATE) hc (s.radioState_lt held)
  rw [State.showRadio_eq]
  split
  · exact ((State.xo24Rest_changes h1).get _).trans hput
  · exact hput

/-- While radio work is left the oscillator runs on. -/
theorem State.showRadio_of_work (hc : s.canonical = true) (held : Bool) (hw : s.radioWork = true) :
    s.showRadio held = s.put F.RADIO_STAT_STATE (s.radioState held) := by
  have h : Changes [F.RADIO_STAT_STATE.zone] [] s (s.put F.RADIO_STAT_STATE (s.radioState held)) := (Changes.refl hc).put
  have hw' : (s.put F.RADIO_STAT_STATE (s.radioState held)).radioWork = true := by
    rw [← hw]
    unfold State.radioWork State.radioRx State.radioOn
    rw [h.flag F.RADIO_CTRL_EN]
    rfl
  rw [State.showRadio_eq, State.xo24Rest, hw', Bool.or_true, if_pos rfl, ite_self]

end

/-! ### Channel samples and sync words -/

section
variable {s : State}

/-- The receiver in another state. -/
def State.withRx (s : State) (r : RxState) : State := { s with link := { s.link with rx := r } }

theorem State.withRx_changes (hc : s.canonical = true) (r : RxState) : Changes [] [.link] s (s.withRx r) := (Changes.refl hc).setLink

/-- The next sample instant. -/
def State.armSample (s : State) (t0 : Nat) : State :=
  { s with link := { s.link with sampleAt := some (t0 + csiCycles (s.get F.LINK_CFG_CSI)) } }

theorem State.armSample_changes (hc : s.canonical = true) (t0 : Nat) : Changes [] [.link] s (s.armSample t0) := (Changes.refl hc).setLink

/-- A receiver that is awake is radio work. -/
theorem State.radioWork_of_rx (hrx : s.radioRx = true) (hr : s.link.rx ≠ .sleep) : s.radioWork = true := by
  rw [State.radioWork, hrx, decide_eq_true hr]
  exact Bool.or_true _

/-- A receiver that wakes shows. -/
theorem State.showRadio_withRx (hc : s.canonical = true) {r : RxState} (hrx : s.radioRx = true) (hr : r ≠ .sleep)
    (htx : ∀ m a b c, s.link.tx ≠ .send m a b c) : (s.withRx r).showRadio false = (s.withRx r).put F.RADIO_STAT_STATE 2 := by
  rw [State.showRadio_of_work (State.withRx_changes hc r).canonical false (State.radioWork_of_rx hrx hr)]
  exact congrArg _ (shownRadio_receiving htx hr false)

/-- What a receiver that wakes shows, and what it leaves. -/
theorem State.showRadio_withRx_spec (hc : s.canonical = true) {r : RxState} (hrx : s.radioRx = true) (hr : r ≠ .sleep)
    (htx : ∀ m a b c, s.link.tx ≠ .send m a b c) : ((s.withRx r).showRadio false).link = { s.link with rx := r }
    ∧ ((s.withRx r).showRadio false).get F.RADIO_STAT_STATE = 2 ∧ RegsBut s ((s.withRx r).showRadio false) [F.RADIO_STAT_STATE] := by
  have h : Changes [F.RADIO_STAT_STATE.zone] [.link] s ((s.withRx r).put F.RADIO_STAT_STATE 2) :=
    ((State.withRx_changes hc r).mono).put
  rw [State.showRadio_withRx hc hrx hr htx]
  exact ⟨rfl, State.get_put (State.withRx_changes hc r).canonical (by decide), h.regsBut⟩

/-- A channel sample while the 9640 samples. -/
theorem execChannelSample_of_sampling {dt t0 : Nat} {preamble : Bool} (ht : s.link.sampleAt = some t0)
    (hs : (s.passTo dt t0).sampling = true) : exec (.channelSample dt preamble) s = .next
      (if preamble = true ∧ ((s.passTo dt t0).armSample t0).link.rx = .sleep then
        (((s.passTo dt t0).armSample t0).withRx (.syncWait (s.passTo dt t0).uptime)).showRadio false else (s.passTo dt t0).armSample t0) := by
  change execChannelSample dt preamble s = _
  unfold execChannelSample
  rw [ht]
  change (if (s.passTo dt t0).sampling = true then _ else _) = _
  rw [if_pos hs]
  rfl

/-- The limit of the wait for a sync word. -/
theorem execSyncWaitLimit_of_syncWait {dt t0 : Nat} (hr : s.link.rx = .syncWait t0) : exec (.syncWaitLimit dt) s = .next
    (((s.advance (min (max dt (t0 + millis 20 - s.uptime)) (t0 + millis 40 + csiCycles (s.get F.LINK_CFG_CSI) - s.uptime))).withRx
      .sleep).showRadio false) := by
  change execSyncWaitLimit dt s = _
  unfold execSyncWaitLimit
  rw [hr]
  rfl

/-- A sync word counts in a wait for one, and in the listening window of an acknowledgement. -/
def State.hearsSync (s : State) : Bool := match s.link.rx, s.link.tx with
  | .syncWait _, _ => true
  | .sleep, .ackWait m stop => decide (stop + usCycles 800 ≤ s.uptime + ackListen m ∧ s.uptime ≤ stop)
  | _, _ => false

theorem execSyncWord_eq (dt : Nat) : exec (.syncWord dt) s = .next (if (s.advance dt).radioRx = true ∧ (s.advance dt).hearsSync = true
    then ((s.advance dt).withRx .receive).showRadio false else s.advance dt) := rfl

end

/-- Settles O49: what wakes the receiver is radio work, so the oscillator runs on and RADIO_STAT.STATE alone is shown. -/
theorem samplesAndSyncWords : Obligations.SamplesAndSyncWords := by
  unfold Obligations.SamplesAndSyncWords
  intro dt t0 preamble s hc u next limit v
  have hu : u.canonical = true := (State.passTo_changes hc dt t0).canonical
  have hv : v.canonical = true := (State.advance_changes hc dt).canonical
  refine ⟨fun ht hs hp => Runs.of_eq (execChannelSample_of_sampling ht hs) (if_neg fun h => by simp [hp] at h) rfl,
    fun ht hs hp hr htx => Runs.of_eq (execChannelSample_of_sampling ht hs) (if_pos ⟨hp, hr⟩) ?wakes,
    fun hr htx => Runs.of_eq (execSyncWaitLimit_of_syncWait hr) rfl ?limit, fun hears hrx hsend => ?word⟩
  case wakes =>
    have ha := State.armSample_changes hu t0
    have hrx : (u.armSample t0).radioRx = true := by
      rw [State.sampling, Bool.and_eq_true, Bool.and_eq_true] at hs
      exact hs.1.1
    obtain ⟨hlink, hstate, hregs⟩ := State.showRadio_withRx_spec (r := .syncWait u.uptime) ha.canonical hrx nofun
      (fun _ _ _ _ h => TxState.noConfusion (htx.symm.trans h))
    have hnext := congrArg Link.sampleAt hlink
    exact ⟨congrArg Link.rx hlink, hstate, hnext, hregs⟩
  case limit =>
    let k := min (max dt (t0 + millis 20 - s.uptime)) (limit - s.uptime)
    have h1 : Changes timeZones timeParts s (s.advance k) := State.advance_changes hc k
    have h2 := State.withRx_changes h1.canonical .sleep
    have h3 := State.showRadio_changes h2.canonical false
    refine ⟨congrArg Link.rx h3.link, (State.showRadio_get h2.canonical false).trans ?_, ?_⟩
    · change shownRadio (s.advance k).link.tx .sleep false = 0
      rw [h1.link, htx]
      rfl
    · exact (h3.uptime.trans h2.uptime).trans (State.advance_uptime hc k)
  case word =>
    have hsync : v.hearsSync = true := by
      unfold State.hearsSync
      obtain ⟨x, hx⟩ | ⟨hsleep, m, stop, htx, hwin⟩ := hears
      · rw [hx]
      · rw [hsleep, htx]
        exact decide_eq_true hwin
    exact Runs.of_eq (execSyncWord_eq dt) (if_pos ⟨hrx, hsync⟩) (State.showRadio_withRx_spec hv hrx nofun hsend)

/-! ### What the statements leave out of reception, repetition and acknowledgement -/

/-- The part with ticks running and fields written. -/
def runningWith (l : List (Fld × Nat)) : State :=
  l.foldl (fun t p => t.put p.1 p.2) { State.reset with pow := { State.reset.pow with stage := .running } }

/-- The receiver is in a frame, in the Service phase, with XO24 running and no other radio work. -/
def lastReception : State :=
  let s := runningWith [(F.RADIO_CTRL_EN, 1), (F.LINK_CFG_EN, 1), (F.CLK_STAT_XO24_OK, 1), (F.FT_PHASE_PHASE, 2)]
  { s with link := { s.link with rx := .receive } }

/-- The frame received with no bytes, which fails its CRC. -/
def emptyFrame : RxFrame := ⟨[], 0⟩

theorem lastReception_stopsXo24 : ((lastReception.advance 0).rd F.CLK_STAT).getLsbD 1 = true
    ∧ ∃ t, exec (.frameReceived 0 emptyFrame) lastReception = .next t ∧ (t.rd F.CLK_STAT).getLsbD 1 = false :=
  ⟨by decide +kernel, _, rfl, by decide +kernel⟩

/-- Refutes O50: a frame that fails its CRC leaves no radio work, so XO24 stops (Table 3.11), and CLK_STAT is not among the registers
that the statement lets change. -/
theorem not_framesAreReceived : ¬ Obligations.FramesAreReceived := by
  unfold Obligations.FramesAreReceived
  intro h
  obtain ⟨hbad, -⟩ := h 0 0 emptyFrame ⟨0, false, false, 0, 0, 0, none, none, none, 0, 0, []⟩ [] [] [] lastReception lastReception
    (by decide +kernel)
  obtain ⟨t, ht, -, hregs⟩ := hbad (by decide +kernel) (by decide +kernel)
  obtain ⟨hon, v, hv, hoff⟩ := lastReception_stopsXo24
  obtain rfl : t = v := Host.Outcome.next.inj (ht.symm.trans hv)
  have hkept : (t.rd F.CLK_STAT).getLsbD 1 = ((lastReception.advance 0).rd F.CLK_STAT).getLsbD 1 := hregs F.CLK_STAT 1 (by decide)
  exact absurd (hoff.symm.trans (hkept.trans hon)) (by decide)

/-- A frame for an entry that listens at all times. -/
def unheardFrame : TxFrame := ⟨some 0, 0, [], none, none, 0, 0, 0, 0, 0, 0⟩

/-- The acknowledgement of a frame has not come; the RADIO task is in the schedule, the domain is off, and XO24 runs. -/
def unheardDomainOff : State :=
  let s := runningWith [(F.LINK_CFG_RETRIES, 3), (F.LINK_NB_A_VALID 0, 1), (F.LINK_NB_A_CSI 0, 7), (F.FT_SCHED_KIND 0, 3),
    (F.CLK_STAT_XO24_OK, 1), (F.FT_PHASE_PHASE, 2)]
  { s with link := { s.link with queue := [unheardFrame], tx := .ackWait .short 0 } }

theorem unheardDomainOff_stopsXo24 : ((unheardDomainOff.passTo 0 0).rd F.CLK_STAT).getLsbD 1 = true
    ∧ ∃ t, exec (.ackTimeout 0) unheardDomainOff = .next t ∧ (t.rd F.CLK_STAT).getLsbD 1 = false :=
  ⟨by decide +kernel, _, rfl, by decide +kernel⟩

/-- Refutes O52: the statement lets RADIO_CTRL.EN be 0 at the end of a listening window; then no radio work is left, and the repetition
that is planned stops XO24 (Table 3.11), which the statement does not let change. -/
theorem not_transmissionsEndOrRepeat : ¬ Obligations.TransmissionsEndOrRepeat := by
  unfold Obligations.TransmissionsEndOrRepeat
  intro h
  obtain ⟨-, -, -, -, hrepeat, -⟩ := h 0 0 0 0 0 .short unheardFrame [] unheardDomainOff (by decide +kernel)
  obtain ⟨t, ht, -, -, hregs⟩ := hrepeat (by decide +kernel) (by decide +kernel) rfl rfl (by decide +kernel) (by decide +kernel)
    (by decide +kernel) (by decide +kernel)
  obtain ⟨hon, v, hv, hoff⟩ := unheardDomainOff_stopsXo24
  obtain rfl : t = v := Host.Outcome.next.inj (ht.symm.trans hv)
  have hkept : (t.rd F.CLK_STAT).getLsbD 1 = ((unheardDomainOff.passTo 0 0).rd F.CLK_STAT).getLsbD 1 := hregs F.CLK_STAT 1 (by decide)
  exact absurd (hoff.symm.trans (hkept.trans hon)) (by decide)

/-- An acknowledgement owed at once to an entry whose slot holds no key. -/
def keylessAck : AckDue := ⟨0, 0, 0, 0⟩

/-- It is owed while RADIO_STAT.STATE is 1. -/
def keylessAckOwed : State :=
  let s := runningWith [(F.RADIO_STAT_STATE, 1)]
  { s with link := { s.link with ack := some keylessAck } }

/-- The state that the acknowledgement's key is looked for in. -/
def keylessAckTaken : State :=
  let s := keylessAckOwed.passTo 0 0
  { s with link := { s.link with ack := none } }

theorem keylessAckOwed_showsOff : keylessAckTaken.get F.RADIO_STAT_STATE = 1
    ∧ ∃ t, exec (.acknowledgement 0) keylessAckOwed = .next t ∧ t.get F.RADIO_STAT_STATE = 0 :=
  ⟨by decide +kernel, _, rfl, by decide +kernel⟩

/-- Refutes O53: an acknowledgement that is not sent for want of a key shows RADIO_STAT.STATE anew, so the state is not the one that the
key was looked for in where STATE was another. -/
theorem not_linkTimersFire : ¬ Obligations.LinkTimersFire := by
  unfold Obligations.LinkTimersFire
  intro h
  obtain ⟨-, hkeyless, -⟩ := h 0 0 keylessAck keylessAckOwed (by decide +kernel)
  obtain ⟨t, ht, hsame, -⟩ := hkeyless keylessAckTaken rfl rfl
  obtain ⟨hone, v, hv, hzero⟩ := keylessAckOwed_showsOff
  obtain rfl : t = v := Host.Outcome.next.inj (ht.symm.trans hv)
  rw [hsame] at hzero
  exact absurd (hzero.symm.trans hone) (by decide)

end Sys2Proof.Machine
end

section
set_option Elab.async false
/-! PROOF. Frames on their way out: planning, the start of a transmission and what goes on air (R364 to R366, R374 to R376, R385). -/

namespace Sys2Proof.Machine

/-! ### Planning -/

section
variable {s : State} {f : TxFrame} {q : List TxFrame} {n : Nat}

/-- A frame at the head of ring 3 whose time has come is planned by its method. -/
theorem State.planHead_of_go {m : Method} {start : Nat} (hq : s.link.queue = f :: q) (hb : f.notBefore ≤ s.uptime)
    (ht : s.taskEnabled 0 = true) (hp : s.planTx f = .go m start) :
    s.planHead = { s with link := { s.link with tx := .wait m (usCycles start) 0 } } := by
  unfold State.planHead
  rw [hq]
  change (if s.uptime < f.notBefore ∨ (!s.taskEnabled 0) = true then _ else _) = _
  rw [if_neg (by rw [ht]; rintro (h | h); exacts [absurd hb (Nat.not_le.mpr h), nomatch h]), hp]

theorem State.planTx_telegram (hk : f.kind = 8) : s.planTx f = .go .telegram (cyclesUs s.uptime) := by
  unfold State.planTx
  exact if_pos hk

theorem State.planTx_broadcast (hk : f.kind ≠ 8) (hn : f.nb = none) : s.planTx f = .go .short (cyclesUs s.uptime) := by
  unfold State.planTx
  rw [hn]
  exact if_neg hk

/-- A partner that listens at all times. -/
theorem State.planTx_listening (hk : f.kind ≠ 8) (hn : f.nb = some n) (hv : s.flag (F.LINK_NB_A_VALID n) = true)
    (hc : s.get (F.LINK_NB_A_CSI n) = 7) : s.planTx f = .go .short (cyclesUs s.uptime) := by
  unfold State.planTx
  rw [hn]
  refine (if_neg hk).trans ?_
  change (if s.flag (F.LINK_NB_A_VALID n) = false then _ else if s.get (F.LINK_NB_A_CSI n) = 7 then _ else _) = _
  rw [if_neg (by rw [hv]; nofun), if_pos hc]

/-- A partner that samples, whose phase is not known: a train where its copies are short enough. -/
theorem State.planTx_train (hk : f.kind ≠ 8) (hn : f.nb = some n) (hv : s.flag (F.LINK_NB_A_VALID n) = true)
    (hc : s.get (F.LINK_NB_A_CSI n) ≠ 7) (hp : s.flag (F.LINK_NB_B_PHASEOK n) = false)
    (ha : s.copyAir f ≤ 1000 * s.get F.LINK_CFG_TRAINMAX) (hw : (s.course f .train (cyclesUs s.uptime)).2.2.2 ≤ 19000) :
    s.planTx f = .go .train (cyclesUs s.uptime) := by
  have hrv : ¬(s.flag (F.LINK_NB_B_PHASEOK n) = true ∧ f.rdv < 2) := by simp [hp]
  have hvalid : ¬(s.flag (F.LINK_NB_A_VALID n) = false) := by simp [hv]
  unfold State.planTx
  rw [hn]
  generalize State.rendezvousFrom s = rendezvous
  generalize State.course s = course at hw ⊢
  refine (if_neg hk).trans ((if_neg hvalid).trans ((if_neg hc).trans ?_))
  rw [if_neg hrv, if_pos ha]
  change (match course f .train (cyclesUs s.uptime) with | (_, _, _, w) => _) = _
  generalize course f .train (cyclesUs s.uptime) = c at hw ⊢
  exact if_pos hw

/-- The idle sender plans the frame named. -/
theorem execFrameQueued_idle (hq : s.link.queue = f :: q) (ht : s.link.tx = .idle) : exec (.frameQueued f.slot) s = .next s.planHead := by
  change execFrameQueued f.slot s = _
  unfold execFrameQueued
  rw [hq, ht]
  exact congrArg _ (if_pos rfl)

end

/-! ### On air -/

theorem foldl_add_base (l : List Nat) (a : Nat) : l.foldl (· + ·) a = a + l.foldl (· + ·) 0 := by
  induction l generalizing a with
  | nil => rfl
  | cons b t ih =>
    rw [List.foldl_cons, List.foldl_cons, ih (a + b), ih (0 + b)]
    omega

theorem sumNat_cons (a : Nat) (l : List Nat) : sumNat (a :: l) = a + sumNat l := by
  rw [sumNat, List.foldl_cons, foldl_add_base, Nat.zero_add]
  rfl

/-- Airtime counts in the present bin. -/
theorem State.addAir_bins (s : State) (us : Nat) : sumNat (s.addAir us).link.bins = sumNat s.link.bins + us := by
  change sumNat (match s.link.bins with | [] => [us] | b :: t => (b + us) :: t) = _
  cases s.link.bins with
  | nil => exact (sumNat_cons us []).trans (Nat.add_comm _ _)
  | cons b t =>
    rw [sumNat_cons, sumNat_cons]
    omega

/-- What a transmission that begins leaves: `u` is the state at its start, `v` the one in which its frame `g` is numbered. -/
structure OnAir (u v t : State) (g : TxFrame) (key : List Nat) (m : Method) : Prop where
  tx : t.link.tx = .send m u.uptime (usCycles (v.course g m (cyclesUs u.uptime)).2.1) (v.course g m (cyclesUs u.uptime)).2.2.1
  queue : t.link.queue = g :: v.link.queue.drop 1
  txOn : t.pins.txOn = true
  paCtl : t.pins.paCtl = v.flag F.RADIO_CTRL_EXTPA
  state : t.get F.RADIO_STAT_STATE = 3
  count : t.get F.RADIO_CNT_TX = min (v.get F.RADIO_CNT_TX + 1) 65535
  bins : sumNat t.link.bins = sumNat v.link.bins + (v.course g m (cyclesUs u.uptime)).2.2.1
  air : t.link.air = v.airFrames g key m (v.course g m (cyclesUs u.uptime)).1 (v.course g m (cyclesUs u.uptime)).2.1
  kept : Changes [F.RADIO_DUTY_USED.zone, F.RADIO_CNT_TX.zone, F.RADIO_STAT_STATE.zone, F.CLK_STAT_XO24_OK.zone,
    F.CLK_STAT_PLL_LOCK.zone] [.link, .pins] v t

/-- The link of a transmission on air. -/
def State.airLink (v : State) (g : TxFrame) (key : List Nat) (m : Method) (k : List Nat × Nat × Nat × Nat) : State :=
  { v with link := { v.link with tx := .send m v.uptime (usCycles k.2.1) k.2.2.1, air := v.airFrames g key m k.1 k.2.1
                                 onAir := v.airRuns g m (cyclesUs v.uptime), queue := g :: v.link.queue.drop 1 } }

theorem State.beginTx_eq (v : State) (g : TxFrame) (key : List Nat) (m : Method) : v.beginTx g key m =
    ((((v.airLink g key m (v.course g m (cyclesUs v.uptime))).addAir (v.course g m (cyclesUs v.uptime)).2.2.1).bump F.RADIO_CNT_TX 1).showTx
      true).showRadio false := by
  unfold State.beginTx
  generalize State.course v g m = course
  change (match course (cyclesUs v.uptime) with | (_, _, _, _) => _) = _
  generalize course (cyclesUs v.uptime) = k
  obtain ⟨starts, stop, air, longest⟩ := k
  rfl

theorem State.beginTx_onAir {u v : State} (hc : v.canonical = true) (hu : v.uptime = u.uptime) (g : TxFrame) (key : List Nat)
    (m : Method) : OnAir u v (v.beginTx g key m) g key m := by
  rw [State.beginTx_eq]
  generalize hk : v.course g m (cyclesUs v.uptime) = k
  have hk' : v.course g m (cyclesUs u.uptime) = k := by rw [← hu, hk]
  have h1 : Changes [] [.link] v (v.airLink g key m k) := (Changes.refl hc).setLink
  have h2 : Changes [F.RADIO_DUTY_USED.zone] [.link] (v.airLink g key m k) ((v.airLink g key m k).addAir k.2.2.1) :=
    ((Changes.refl h1.canonical).setLink).put
  have h3 : Changes [F.RADIO_CNT_TX.zone] [] _ (((v.airLink g key m k).addAir k.2.2.1).bump F.RADIO_CNT_TX 1) :=
    (Changes.refl h2.canonical).bump
  have h4 := State.showTx_changes h3.canonical true
  have h5 := State.showRadio_changes h4.canonical false
  have hall : Changes [F.RADIO_DUTY_USED.zone, F.RADIO_CNT_TX.zone, F.RADIO_STAT_STATE.zone, F.CLK_STAT_XO24_OK.zone,
      F.CLK_STAT_PLL_LOCK.zone] [.link, .pins] v _ := ((((h1.mono).next h2).next h3).next h4).next h5
  refine ⟨?tx, ?queue, ?txOn, ?paCtl, ?state, ?count, ?bins, ?air, hall⟩
  case tx => rw [hk', ← hu]; exact congrArg Link.tx (h5.link.trans (h4.link.trans h3.link))
  case queue => exact congrArg Link.queue (h5.link.trans (h4.link.trans h3.link))
  case txOn => exact congrArg Pins.txOn h5.pins
  case paCtl =>
    have he := congrArg Pins.paCtl h5.pins
    exact he.trans ((h3.flag F.RADIO_CTRL_EXTPA).trans ((h2.flag _).trans (h1.flag _)))
  case state => exact (State.showRadio_get h4.canonical false).trans rfl
  case count =>
    rw [h5.get F.RADIO_CNT_TX, h4.get F.RADIO_CNT_TX, State.bump_get h2.canonical 1, h2.get F.RADIO_CNT_TX, h1.get F.RADIO_CNT_TX]
    rfl
  case bins => rw [hk', h5.link, h4.link, h3.link, State.addAir_bins]; rfl
  case air => rw [hk']; exact congrArg Link.air (h5.link.trans (h4.link.trans h3.link))

/-! ### The start of a transmission -/

section
variable {s u : State} {f : TxFrame} {q : List TxFrame} {m : Method} {start busy : Nat} {rssi : Int}

/-- A frame at the head of ring 3 that may go on air at its start. -/
structure MayStart (u : State) (f : TxFrame) (q : List TxFrame) (m : Method) (start : Nat) : Prop where
  queue : u.link.queue = f :: q
  on : u.radioOn = true
  task : u.taskEnabled 0 = true
  enabled : f.kind ≠ 8 → u.flag F.LINK_CFG_EN = true
  service : f.kind = 8 → 3 ≤ u.get F.FT_PHASE_PHASE
  bridge : u.bridging = false
  xo24 : u.ame.xoFail = false
  window : u.pins.window = false
  ack : u.link.ack = none
  rx : u.link.rx ≠ .receive
  inTime : ∀ pre, m = .rendezvous pre → u.uptime ≤ start
  fits : u.courseFits f m (cyclesUs u.uptime) (u.course f m (cyclesUs u.uptime)).2.2.1 (u.course f m (cyclesUs u.uptime)).2.2.2 = true
  duty : u.dutyOk (u.course f m (cyclesUs u.uptime)).2.2.1 = true

/-- A frame but a telegram is sent with its key, once it is numbered. -/
def State.sendFrame (u : State) (f : TxFrame) (m : Method) : State :=
  let (key, s1) := if u.txSec f then u.slotFor (u.txSlot f) 0 else (some [], u)
  match key with
  | none => s1
  | some k => match s1.numberFrame f with
    | none => s1.set1 F.LINK_STAT_RESWAIT
    | some (f1, s2) => s2.beginTx f1 k m

/-- A busy channel puts the frame off. -/
def State.putOff (u : State) (m : Method) (busy : Nat) : State :=
  let (d, s1) := u.draw 15001
  { s1 with link := { s1.link with tx := .wait m (s1.uptime + usCycles (1000 + d)) (busy + 1) } }

/-- The start of a frame that may go on air: it waits for a clear channel, then goes on air. -/
theorem MayStart.startTx_eq (h : MayStart u f q m start) : u.startTx m start busy rssi =
    if u.flag F.RADIO_CCA_EN ∧ u.getI F.RADIO_CCA_THR ≤ rssi then (if 7 ≤ busy then u.failAttempt m else u.putOff m busy)
    else if f.kind = 8 then u.beginTx f [] m else u.sendFrame f m := by
  obtain ⟨hq, hon, htask, hen, hserv, hbridge, hxo, hwin, hack, hrx, htime, hfits, hduty⟩ := h
  have hrun : ¬((!u.radioOn) = true ∨ (f.kind ≠ 8 ∧ (!u.flag F.LINK_CFG_EN) = true) ∨ (!u.taskEnabled 0) = true ∨ u.ame.xoFail = true) := by
    rw [hon, htask, hxo]
    rintro (h | ⟨hk, h⟩ | h | h)
    · exact nomatch h
    · rw [hen hk] at h
      exact nomatch h
    · exact nomatch h
    · exact nomatch h
  have hfree : ¬(u.bridging = true ∨ u.link.ack.isSome = true ∨ u.link.rx = .receive) := by
    rw [hbridge, hack]
    rintro (h | h | h)
    · exact nomatch h
    · exact nomatch h
    · exact hrx h
  unfold State.startTx State.sendFrame State.putOff
  rw [hq]
  generalize State.course u = course at hfits hduty ⊢
  generalize hk : course f m (cyclesUs u.uptime) = k at hfits hduty
  obtain ⟨starts, stop, air, longest⟩ := k
  extract_lets now late
  have hlate : ¬late = true := by
    dsimp only [late]
    cases m with
    | rendezvous pre => exact fun h => absurd (of_decide_eq_true h) (Nat.not_lt.mpr (htime pre rfl))
    | short | long | train | telegram => exact Bool.false_ne_true
  have hopen : ¬(u.pins.window = true ∨ (!u.courseFits f m now air longest) = true ∨ (f.kind = 8 ∧ u.get F.FT_PHASE_PHASE < 3)) := by
    rw [hwin]
    rintro (h | h | ⟨hk, h⟩)
    · exact nomatch h
    · rw [show u.courseFits f m now air longest = true from hfits] at h
      exact nomatch h
    · exact absurd (hserv hk) (Nat.not_le.mpr h)
  have hair : ¬(!u.dutyOk air) = true := by
    rw [show u.dutyOk air = true from hduty]
    exact Bool.false_ne_true
  change (match course f m (cyclesUs u.uptime) with | (_, _, _, _) => _) = _
  rw [hk]
  exact (if_neg hrun).trans ((if_neg hfree).trans ((if_neg hlate).trans ((if_neg hopen).trans (if_neg hair))))

end

/-! ### Keys and numbers -/

theorem State.get_lt (s : State) (f : Fld) : s.get f < 2 ^ (f.hi + 1 - f.lo) := Nat.mod_lt _ (Nat.two_pow_pos _)

section
variable {s : State}

/-- The bits that a key unwrapped on demand shows in. -/
def loadedZone : Zone := ⟨F.KEYS_SLOT 0, 4, 8, 1, 1⟩

/-- A key that is found in a slot changes its LOADED alone. -/
theorem State.slotKey_found {W : List Zone} (hc : s.canonical = true) {i : Nat} {key : List Nat} {x : State}
    (h : s.slotKey i = (some key, x)) (hW : ∃ z ∈ W, z.covers (F.KEYS_SLOT_LOADED i) = true := by decide) : Changes W [.keys] s x := by
  obtain rfl : (s.slotKey i).2 = x := congrArg Prod.snd h
  have hsome : (s.slotKey i).1.isSome = true := by rw [h]; rfl
  unfold State.slotKey at hsome ⊢
  split at hsome
  · exact nomatch hsome
  · rename_i hhold
    rw [if_neg hhold]
    split at hsome
    · exact .refl hc
    · extract_lets at hsome ⊢
      split at hsome
      · exact ((Changes.refl hc).setKeys).set1 hW
      · exact nomatch hsome
    · exact nomatch hsome

/-- A key that is found for a use changes LOADED alone. -/
theorem State.slotFor_found (hc : s.canonical = true) {i use : Nat} {key : List Nat} {x : State} (hi : i < 8)
    (h : s.slotFor i use = (some key, x)) : Changes [loadedZone] [.keys] s x := by
  unfold State.slotFor at h
  split at h
  · refine State.slotKey_found hc h ⟨_, List.mem_singleton_self _, ?_⟩
    simp only [Zone.covers_iff, Zone.has_iff, loadedZone, F.KEYS_SLOT_LOADED, F.KEYS_SLOT]
    omega
  · cases h

theorem State.txSlot_lt (s : State) (f : TxFrame) : s.txSlot f < 8 := by
  unfold State.txSlot
  split
  · exact s.get_lt _
  · exact s.get_lt _

/-- The registers of the frame counters. -/
def fcZone : Zone := ⟨F.LINK_FC 0, 4, 8, 31, 0⟩

theorem fc_covered {i : Nat} (hi : i < 8) : fcZone.covers (F.LINK_FC_FC i) = true := by
  simp only [Zone.covers_iff, Zone.has_iff, fcZone, F.LINK_FC_FC, F.LINK_FC]
  omega

theorem State.reserveFc_changes (hc : s.canonical = true) (i : Nat) : Changes [] [.jrn] s (s.reserveFc i) :=
  .ite (Changes.refl hc).setJrn (.refl hc)

/-- The counter of a slot below its end rises by one. -/
theorem State.takeFc_spec (hc : s.canonical = true) {i : Nat} (hi : i < 8) (hr : s.get (F.LINK_FC_FC i) < 0xFFFFFFFF) :
    (s.takeFc i).1 = s.get (F.LINK_FC_FC i) + 1 ∧ (s.takeFc i).2.get (F.LINK_FC_FC i) = s.get (F.LINK_FC_FC i) + 1
    ∧ Changes [fcZone, F.LINK_STAT_FCEXH.zone] [.jrn] s (s.takeFc i).2 := by
  have h1 : Changes [fcZone, F.LINK_STAT_FCEXH.zone] [.jrn] s (s.put (F.LINK_FC_FC i) (s.get (F.LINK_FC_FC i) + 1)) :=
    (Changes.refl hc).put ⟨_, List.mem_cons_self, fc_covered hi⟩
  have h2 := State.reserveFc_changes h1.canonical i
  have h3 : Changes [F.LINK_STAT_FCEXH.zone] [] _ (s.takeFc i).2 := .ite (Changes.refl h2.canonical).set1 (.refl h2.canonical)
  have hapart : ∀ z ∈ [F.LINK_STAT_FCEXH.zone], z.apart (F.LINK_FC_FC i) = true := by
    rw [List.forall_mem_singleton, Zone.apart, show F.LINK_STAT_FCEXH.zone.has (F.LINK_FC_FC i).addr = false from
      Bool.eq_false_iff.mpr fun h => by
        have h := Fld.zone_has.mp h
        simp only [F.LINK_FC_FC, F.LINK_FC, F.LINK_STAT_FCEXH, F.LINK_STAT] at h
        omega]
    rfl
  refine ⟨rfl, ?_, (h1.next h2).next h3⟩
  rw [h3.get _ hapart, h2.get _ nofun]
  exact State.get_put hc (show _ < 2 ^ 32 by omega)

theorem State.takeSeq_spec (hc : s.canonical = true) : s.takeSeq.1 = s.get F.LINK_TXSEQ_SEQ
    ∧ s.takeSeq.2.get F.LINK_TXSEQ_SEQ = (s.get F.LINK_TXSEQ_SEQ + 1) % 65536
    ∧ Changes [F.LINK_TXSEQ_SEQ.zone] [.jrn] s s.takeSeq.2 := by
  have h1 : Changes [F.LINK_TXSEQ_SEQ.zone] [.jrn] s (s.put F.LINK_TXSEQ_SEQ ((s.get F.LINK_TXSEQ_SEQ + 1) % 65536)) :=
    (Changes.refl hc).put
  have h2 : Changes [] [.jrn] _ s.takeSeq.2 := .ite (Changes.refl h1.canonical).setJrn (.refl h1.canonical)
  exact ⟨rfl, (h2.get _).trans (State.get_put hc (Nat.mod_lt _ (by decide))), h1.next h2⟩

/-- SEQ of a frame: a new one, or that of the first sending. -/
def State.seqFor (s : State) (f : TxFrame) : Nat × State := match f.seq with
  | some q => (q, s)
  | none => s.takeSeq

/-- The counter of a frame that is protected: a new one, or that of the first sending. -/
def State.fcFor (s : State) (f : TxFrame) (sec : Bool) (slot : Nat) : Option Nat × State :=
  if sec then (match f.fc with | some c => (some c, s) | none => (some (s.takeFc slot).1, (s.takeFc slot).2)) else (f.fc, s)

theorem State.numberFrame_eq (s : State) (f : TxFrame) : s.numberFrame f =
    if (f.seq = none ∧ !s.seqRoom) ∨ (s.txSec f ∧ f.fc = none ∧ !s.fcRoom (s.txSlot f)) then none
    else some ({ f with seq := some (s.seqFor f).1, fc := ((s.seqFor f).2.fcFor f (s.txSec f) (s.txSlot f)).1 },
      ((s.seqFor f).2.fcFor f (s.txSec f) (s.txSlot f)).2.clr F.LINK_STAT_RESWAIT) := rfl

/-- What numbering a frame shows in. -/
def numberZones : List Zone := [F.LINK_TXSEQ_SEQ.zone, fcZone, F.LINK_STAT_FCEXH.zone, F.LINK_STAT_RESWAIT.zone]

theorem fcZones_apart {i : Nat} (hi : i < 8) : ∀ z ∈ [F.LINK_TXSEQ_SEQ.zone, F.LINK_STAT_RESWAIT.zone], z.apart (F.LINK_FC_FC i) = true := by
  revert i
  decide

theorem fcSlot_apart {i : Nat} (hi : i < 8) : ∀ z ∈ [loadedZone], z.apart (F.LINK_FC_FC i) = true := by
  revert i
  decide

theorem fcAir_apart {i : Nat} (hi : i < 8) : ∀ z ∈ [F.RADIO_DUTY_USED.zone, F.RADIO_CNT_TX.zone, F.RADIO_STAT_STATE.zone,
    F.CLK_STAT_XO24_OK.zone, F.CLK_STAT_PLL_LOCK.zone], z.apart (F.LINK_FC_FC i) = true := by
  revert i
  decide

/-- A frame numbered takes the next SEQ and, where it is protected, the next counter. -/
theorem State.numberFrame_spec (hc : s.canonical = true) {f g : TxFrame} {v : State} (h : s.numberFrame f = some (g, v)) :
    Changes numberZones [.jrn] s v
    ∧ (f.seq = none → g.seq = some (s.get F.LINK_TXSEQ_SEQ) ∧ v.get F.LINK_TXSEQ_SEQ = (s.get F.LINK_TXSEQ_SEQ + 1) % 65536)
    ∧ (s.txSec f = true → f.fc = none → g.fc = some (s.get (F.LINK_FC_FC (s.txSlot f)) + 1)
      ∧ v.get (F.LINK_FC_FC (s.txSlot f)) = s.get (F.LINK_FC_FC (s.txSlot f)) + 1) := by
  have hi := s.txSlot_lt f
  rw [State.numberFrame_eq] at h
  split at h
  · exact nomatch h
  rename_i hroom
  obtain ⟨rfl, rfl⟩ := Prod.mk.inj (Option.some.inj h)
  have hroom' : s.txSec f = true → f.fc = none → s.get (F.LINK_FC_FC (s.txSlot f)) < 0xFFFFFFFF := fun hs hf => by
    by_contra hn
    refine hroom (.inr ⟨hs, hf, ?_⟩)
    rw [State.fcRoom, decide_eq_false fun hh => hn hh.2]
    rfl
  have hseq : Changes [F.LINK_TXSEQ_SEQ.zone] [.jrn] s (s.seqFor f).2 := by
    unfold State.seqFor
    split
    · exact .refl hc
    · exact (State.takeSeq_spec hc).2.2
  have hkeep : (s.seqFor f).2.get (F.LINK_FC_FC (s.txSlot f)) = s.get (F.LINK_FC_FC (s.txSlot f)) :=
    hseq.get _ fun z hz => fcZones_apart hi z (by simp_all)
  have hfc : Changes [fcZone, F.LINK_STAT_FCEXH.zone] [.jrn] (s.seqFor f).2 ((s.seqFor f).2.fcFor f (s.txSec f) (s.txSlot f)).2 := by
    unfold State.fcFor
    split
    · rename_i hsec
      cases hf : f.fc with
      | some c => exact .refl hseq.canonical
      | none => exact (State.takeFc_spec hseq.canonical hi (hkeep ▸ hroom' hsec hf)).2.2
    · exact .refl hseq.canonical
  have hclr : Changes [F.LINK_STAT_RESWAIT.zone] [] _
    (((s.seqFor f).2.fcFor f (s.txSec f) (s.txSlot f)).2.clr F.LINK_STAT_RESWAIT) := (Changes.refl hfc.canonical).clr
  refine ⟨((hseq.mono).next hfc).next hclr, fun hf => ⟨?seq, ?next⟩, fun hs hf => ⟨?fc, ?count⟩⟩
  case seq => rw [State.seqFor, hf]; rfl
  case next =>
    rw [hclr.get F.LINK_TXSEQ_SEQ, hfc.get F.LINK_TXSEQ_SEQ, State.seqFor, hf]
    exact (State.takeSeq_spec hc).2.1
  case fc =>
    change (State.fcFor _ f _ _).1 = _
    rw [State.fcFor, if_pos hs, hf]
    exact congrArg some ((State.takeFc_spec hseq.canonical hi (hkeep ▸ hroom' hs hf)).1.trans (congrArg (· + 1) hkeep))
  case count =>
    rw [hclr.get _ fun z hz => fcZones_apart hi z (by simp_all), State.fcFor, if_pos hs, hf]
    exact (State.takeFc_spec hseq.canonical hi (hkeep ▸ hroom' hs hf)).2.1.trans (congrArg (· + 1) hkeep)

end

/-! ### The statement -/

section
variable {s u : State} {f : TxFrame} {q : List TxFrame} {m : Method} {start busy dt : Nat} {rssi : Int} {c : Instr}

/-- The start of a transmission, after a first or a further measurement of the channel. -/
theorem exec_start (hc : c = .transmissionStart dt rssi ∨ (c = .clearChannelRetry dt rssi ∧ busy ≠ 0))
    (htx : s.link.tx = .wait m start busy) : exec c s = .next ((s.passTo dt start).startTx m start busy rssi) := by
  rcases hc with rfl | ⟨rfl, hb⟩
  · change execTransmissionStart dt rssi s = _
    unfold execTransmissionStart
    rw [htx]
  · change execClearChannelRetry dt rssi s = _
    unfold execClearChannelRetry
    rw [htx]
    exact if_neg hb

/-- The key of a frame, with the state in which it has been found. -/
theorem State.txKey_found (hc : u.canonical = true) {key : List Nat} {x : State}
    (h : (if u.txSec f then u.slotFor (u.txSlot f) 0 else (some [], u)) = (some key, x)) : Changes [loadedZone] [.keys] u x := by
  split at h
  · exact State.slotFor_found hc (u.txSlot_lt f) h
  · obtain ⟨-, rfl⟩ := Prod.mk.inj h
    exact .refl hc

theorem State.sendFrame_found {key : List Nat} {x v : State} {g : TxFrame}
    (h : (if u.txSec f then u.slotFor (u.txSlot f) 0 else (some [], u)) = (some key, x)) (hn : x.numberFrame f = some (g, v)) :
    u.sendFrame f m = v.beginTx g key m := by
  unfold State.sendFrame
  rw [h]
  change (match x.numberFrame f with | none => _ | some (f1, s2) => _) = _
  rw [hn]

/-- Finding a key leaves the frame's slot and protection. -/
theorem Changes.txSlot {x : State} (h : Changes [loadedZone] [.keys] u x) (f : TxFrame) : x.txSlot f = u.txSlot f := by
  have hapart (g : Fld) (hg : 1 < g.lo) : x.get g = u.get g := h.get g (by
    rw [List.forall_mem_singleton, Zone.apart]
    exact Bool.or_eq_true_iff.mpr (.inr (decide_eq_true hg)))
  unfold State.txSlot
  cases f.nb with
  | some n => exact hapart _ (show 1 < 24 by decide)
  | none => exact hapart _ (by decide)

end

/-- Settles O51: the planning by its cases, the start by the conditions of R364 to R366, and the numbers by those of the frame. -/
theorem framesArePlannedAndStarted : Obligations.FramesArePlannedAndStarted := by
  unfold Obligations.FramesArePlannedAndStarted
  intro dt start busy n rssi m f q s hc now planned queued toEntry u k starts onAir
  have hplan {x : Method} (h : queued) (hp : s.planTx f = .go x now) : Runs (.frameQueued f.slot) s fun t => planned t x := by
    obtain ⟨hq, htx, hb, htask⟩ := h
    exact Runs.of_eq (execFrameQueued_idle hq htx) (State.planHead_of_go hq hb htask hp) rfl
  have hu : Changes timeZones timeParts s u := State.passTo_changes hc dt start
  have hstart (h : starts) : s.link.tx = .wait m start busy ∧ MayStart u f q m start := by
    obtain ⟨htx, hq, hon, htask, hen, htel, hbridge, hxo, hwin, hack, hrx, htime, hfits, hduty⟩ := h
    exact ⟨htx, hq, hon, htask, hen, fun hk => (htel hk).2, hbridge, hxo, hwin, hack, hrx, htime, hfits, hduty⟩
  have hclear (h : u.flag F.RADIO_CCA_EN = true → rssi < u.getI F.RADIO_CCA_THR) :
      ¬(u.flag F.RADIO_CCA_EN = true ∧ u.getI F.RADIO_CCA_THR ≤ rssi) := fun ⟨he, hr⟩ => absurd (h he) (Int.not_lt.mpr hr)
  have hair {v : State} {g : TxFrame} {key : List Nat} (hq : u.link.queue = f :: q) (hv : Changes (loadedZone :: numberZones) [.keys, .jrn] u v) :
      onAir (v.beginTx g key m) v g := by
    have ht := State.beginTx_onAir (u := u) hv.canonical hv.uptime g key m
    refine ⟨ht.tx, ?_, ht.txOn, ht.paCtl.trans (hv.flag _), ht.state, ?_, ?_⟩
    · rw [ht.queue, hv.link, hq]
      rfl
    · rw [ht.count, hv.get F.RADIO_CNT_TX]
    · rw [ht.bins, hv.link]
  refine ⟨fun ⟨hq, hk, hn, hv⟩ hcsi => hplan hq (State.planTx_listening hk hn hv hcsi),
    fun hq hk hn => hplan hq (State.planTx_broadcast hk hn), fun hq hk => hplan hq (State.planTx_telegram hk),
    fun ⟨hq, hk, hn, hv⟩ hcsi hp ha hw => hplan hq (State.planTx_train hk hn hv hcsi hp ha hw),
    fun c hcmd hs => ⟨fun hcca hk => ?telegram, fun key x f1 v hcca hk hkey hnum => ?frame, fun hcca hr hbusy => ?busy⟩⟩
  all_goals obtain ⟨htx, hmay⟩ := hstart hs
  case telegram =>
    have htel : m = .telegram := by
      obtain ⟨-, -, -, -, -, htel, -⟩ := hs
      exact (htel hk).1
    refine Runs.of_eq (exec_start hcmd htx) (hmay.startTx_eq.trans ((if_neg (hclear hcca)).trans (if_pos hk)))
      ⟨hair hmay.queue (.refl hu.canonical), ?_⟩
    rw [(State.beginTx_onAir (u := u) hu.canonical rfl f [] m).air, htel]
    exact congrArg (fun x => [x]) (if_pos hk)
  case frame =>
    have hx := State.txKey_found hu.canonical hkey
    obtain ⟨hv, hseq, hfc⟩ := State.numberFrame_spec hx.canonical hnum
    have ht := State.beginTx_onAir (u := u) hv.canonical (hv.uptime.trans hx.uptime) f1 key m
    have hsec : x.txSec f = u.txSec f := by rw [State.txSec, State.txSec, hx.flag F.LINK_CFG_PLAIN]
    have hi := u.txSlot_lt f
    rw [hx.txSlot f, hsec] at hfc
    refine Runs.of_eq (exec_start hcmd htx) (hmay.startTx_eq.trans ((if_neg (hclear hcca)).trans
      ((if_neg hk).trans (State.sendFrame_found hkey hnum)))) ⟨hair hmay.queue ((hx.mono).next hv), fun hf => ?_, fun hs hf => ?_⟩
    · rw [ht.kept.get F.LINK_TXSEQ_SEQ, ← hx.get F.LINK_TXSEQ_SEQ]
      exact hseq hf
    · have hkept : x.get (F.LINK_FC_FC (u.txSlot f)) = u.get (F.LINK_FC_FC (u.txSlot f)) := hx.get _ (fcSlot_apart hi)
      rw [ht.kept.get _ (fcAir_apart hi), ← hkept]
      exact hfc hs hf
  case busy =>
    refine Runs.of_eq (exec_start hcmd htx) (hmay.startTx_eq.trans ((if_pos ⟨hcca, hr⟩).trans (if_neg (by omega)))) ?_
    exact ⟨⟨_, Nat.le_of_lt_succ (Nat.mod_lt _ (by decide)), rfl⟩, hmay.queue, rfl⟩

end Sys2Proof.Machine
end

section
set_option Elab.async false
/-! PROOF. The feedback of the supply actuator (Machine/Pay.lean; R76, R333, R470): what the close drive that a departure starts can
itself bring about. -/

namespace Sys2Proof.Machine

/-- A frame whose rendezvous have failed twice, in the first slot of ring 3. -/
def failingFrame : TxFrame := ⟨some 0, 0, [], none, none, ringBase 3, 1, 0, 2, 0, 0⟩

/-- The actuator departs from its closed end under a close demand. The frame on air has a partner that samples, the coming Acoustic
windows are longer than a train or a long preamble may pause for, and its slot holds an uncorrectable word. -/
def departureOnAir : State :=
  let s := runningWith [(F.PAY_VLV_EN, 1), (F.PAY_STAT_REMOTE, 1), (F.LINK_NB_A_VALID 0, 1), (F.FT_SCHED_KIND 0, 3),
    (F.FT_SCHED_KIND 1, 2), (F.FT_SCHED_EVERY 1, 1), (F.FT_SCHED_MULT_MIN 1, 31),
    (F.FT_SCHED_KIND 2, 2), (F.FT_SCHED_EVERY 2, 1), (F.FT_SCHED_MULT_MIN 2, 31)]
  { s with
    rm := { s.rm with nextAt := some 8192 }
    ecc := [(crsWord (slotAddr (ringBase 3)), true)]
    act := { s.act with confirmed := some true }
    pins := { s.pins with fbc := ⟨false, true, 2⟩ }
    link := { s.link with queue := [failingFrame], tx := .send .short 0 0 0 } }

/-- The close drive stops the transmission, the frame that cannot be planned again leaves its slot, and the word met there is a fault. -/
theorem departureOnAir_cause : ∃ t, exec (.feedbackChange 0 (false, false) []) departureOnAir = .next t
    ∧ t.get F.SAFE_STAT_CAUSE = 0x21 := ⟨_, rfl, by decide +kernel⟩

/-- Refutes O18: a departure from the closed end under a close demand starts a drive, which stops the transmission in progress (R364); a
frame that then fails its planning is discarded, and an uncorrectable word in its slot is a fault of its own (R53), whose code 0x21
replaces 0x52 in CAUSE. -/
theorem not_feedbackEndsOrFaults : ¬ Obligations.FeedbackEndsOrFaults := by
  unfold Obligations.FeedbackEndsOrFaults
  intro h
  obtain ⟨-, -, hdepart⟩ := h 0 false false ⟨true, 0, 1, true⟩ departureOnAir (by decide +kernel) (by decide +kernel) (by decide +kernel)
    (by decide +kernel) (by decide +kernel)
  obtain ⟨t, ht, -, hcause⟩ := hdepart (by decide +kernel) (by decide +kernel) (by decide +kernel) rfl rfl
  obtain ⟨v, hv, hother⟩ := departureOnAir_cause
  obtain rfl : t = v := Host.Outcome.next.inj (ht.symm.trans hv)
  exact absurd (hcause.symm.trans hother) (by decide)

end Sys2Proof.Machine
end

section
set_option Elab.async false
/-! PROOF. The start-up (Machine/Power.lean, R109, R429): its steps by name, and a root-key error that was shown before it. -/

namespace Sys2Proof.Machine

/-! ### What the last steps of a start-up may change -/

/-- The registers of the front end. -/
def ameZone : Zone := window (blockBase .ame) 0x8000

/-- A field of one of the front end's registers lies in their zone. -/
theorem ameZone_covers {f : Fld} (hb : 0x40100000 ≤ f.addr ∧ f.addr < 0x40108000) (hf : f.hi ≤ 31) : ameZone.covers f = true := by
  simp only [Zone.covers_iff, Zone.has_iff, ameZone, window, blockBase]
  omega

section
variable {W : List Zone} {L : List Part} {s0 s : State}

theorem State.wrAll_changes {l : List Word} {a : Nat} (h : Changes W L s0 s)
    (hz : ∀ i < l.length, ∃ z ∈ W, z.covers (wholeReg (a + 4 * i)) = true) : Changes W L s0 (s.wrAll a l) := by
  induction l generalizing s a with
  | nil => exact h
  | cons w l ih =>
    rw [List.length_cons] at hz
    have h0 := hz 0 (Nat.succ_pos _)
    refine ih (h.wr h0) fun i hi => ?_
    have hs := hz (i + 1) (Nat.succ_lt_succ hi)
    rwa [show a + 4 * (i + 1) = a + 4 + 4 * i by omega] at hs

end

section
variable {s : State}

theorem routine_length (c : Firing) (path : Nat) : (routine c path).length ≤ 16 := by
  unfold routine
  extract_lets swap waitf
  have hs : swap.length ≤ 1 := by
    dsimp only [swap]
    split <;> decide
  split <;> simp only [List.length_append, List.length_cons, List.length_nil] <;> omega

theorem State.buildUcode_changes (hc : s.canonical = true) : Changes [ameZone] [] s s.buildUcode := by
  have hword {b i : Nat} (hb : b ≤ 64) (hi : i < 16) : ∃ z ∈ [ameZone], z.covers (wholeReg (F.AME_UCODE b + 4 * i)) = true :=
    ⟨_, List.mem_singleton_self _, ameZone_covers (by simp only [wholeReg, F.AME_UCODE]; omega) (Nat.le_refl _)⟩
  unfold State.buildUcode
  extract_lets pad s1
  have hpad (c : Firing) (p : Nat) : (pad (routine c p)).length = 16 := by
    have := routine_length c p
    simp only [pad, List.length_append, List.length_replicate]
    omega
  have h1 : Changes [ameZone] [] s s1 := (Changes.refl hc).foldl fun t n hn ht =>
    State.wrAll_changes ht fun i hi => hword (by have := List.mem_range.mp (show n ∈ List.range 4 from hn); omega) (by rwa [hpad] at hi)
  exact State.wrAll_changes h1 fun i hi => hword (Nat.le_refl _) (Nat.lt_of_lt_of_le hi (routine_length _ _))

theorem State.buildDur_changes (hc : s.canonical = true) : Changes [ameZone] [] s s.buildDur :=
  (Changes.refl hc).foldl fun _ n hn ht => by
    have hn : n < 4 := List.mem_range.mp (show n ∈ List.range 4 from hn)
    exact ht.put ⟨_, List.mem_singleton_self _, ameZone_covers (by simp only [F.AME_P_DUR_DUR, F.AME_P_DUR]; omega) (Nat.le_of_ble_eq_true rfl)⟩

theorem State.buildPdur_changes (hc : s.canonical = true) : Changes [ameZone] [] s s.buildPdur :=
  (Changes.refl hc).foldl fun _ n hn ht => by
    have hn : n < 4 := List.mem_range.mp (show n ∈ List.range 4 from hn)
    exact ht.put ⟨_, List.mem_singleton_self _, ameZone_covers (by simp only [F.AME_P_DUR_PDUR, F.AME_P_DUR]; omega) (Nat.le_of_ble_eq_true rfl)⟩

theorem State.ameStart_changes (hc : s.canonical = true) : Changes [ameZone] [.ame] s s.ameStart := by
  unfold State.ameStart
  extract_lets s1 s2 src s3
  have hu := State.buildUcode_changes hc
  have hd := hu.next (State.buildDur_changes hu.canonical)
  have h1 : Changes [ameZone] [.ame] s s1 := (hd.next (State.buildPdur_changes hd.canonical)).mono
  have h2 : Changes [ameZone] [.ame] s s2 := h1.foldl fun _ n hn ht => by
    have hn : n < 4 := List.mem_range.mp (show n ∈ List.range 4 from hn)
    exact ht.put ⟨_, List.mem_singleton_self _, ameZone_covers (by simp only [F.AME_P_STAT_GAIN, F.AME_P_STAT]; omega) (Nat.le_of_ble_eq_true rfl)⟩
  have h3 : Changes [ameZone] [.ame] s s3 := h2.setAme
  exact .ite h3.setAme h3

theorem State.linkStart_changes (hc : s.canonical = true) : Changes [] [.jrn, .link] s s.linkStart := by
  unfold State.linkStart
  extract_lets s1 s2
  have h1 : Changes [] [.jrn, .link] s s1 := (Changes.refl hc).foldl fun t n _ ht =>
    .ite (ht.next (State.reserveFc_changes ht.canonical n)) ht
  have h2 : Changes [] [.jrn, .link] s s2 := .ite (.ite h1.setJrn h1) h1
  exact h2.setLink

theorem State.mapIntervals_changes (hc : s.canonical = true) (f : OpenInterval → OpenInterval) :
    Changes [] [.bill] s (s.mapIntervals f) :=
  (Changes.refl hc).setBill.setBill

/-! ### The start-up by its steps -/

/-- The start-up enters: no time but its first cycles has passed. -/
def State.bootEnter (s : State) (dt : Nat) : State :=
  let s0 := s.advance (min dt 16)
  { s0 with pow := { s0.pow with inStart := true, recovered := false, startSec := s0.sec, startLegal := [] } }

/-- The boot ROM up to its evaluation of the retained bytes. -/
def State.bootCheck (s : State) (found : BootIn) : Bool × State :=
  (((((s.logStart found.logOk).checkRoots found.rootsBad).checkRng found.rngBad).decideDebug).restartSafe).evaluate

/-- The boot ROM's choice of an image. -/
def State.bootChoose (s : State) (found : BootIn) : Bool × State := (s.bootCheck found).2.bootVerify s.pow.restart.isSome

/-- With a valid image the start-up runs to its end. -/
theorem State.bootRun_of_valid {dt : Nat} {found : BootIn} (h : ((s.bootEnter dt).bootChoose found).1 = true) :
    s.bootRun dt found = (true, ((((s.bootEnter dt).bootChoose found).2.startRest ((s.bootEnter dt).bootCheck found).1
      (s.bootEnter dt).lossDue).advance (dt - min dt 16)).clockStart) := by
  change (match (s.bootEnter dt).bootCheck found with | (r, s2) => match s2.bootVerify (s.bootEnter dt).pow.restart.isSome with
    | (ok, s3) => if (!ok) = true then (false, s3.clearLog)
      else (true, ((s3.startRest r (s.bootEnter dt).lossDue).advance (dt - min dt 16)).clockStart)) = _
  unfold State.bootChoose at h ⊢
  generalize (s.bootEnter dt).bootCheck found = e at h ⊢
  obtain ⟨r, s2⟩ := e
  change (match s2.bootVerify (s.bootEnter dt).pow.restart.isSome with
    | (ok, s3) => if (!ok) = true then (false, s3.clearLog)
      else (true, ((s3.startRest r (s.bootEnter dt).lossDue).advance (dt - min dt 16)).clockStart)) = _
  generalize s2.bootVerify (s.bootEnter dt).pow.restart.isSome = v at h ⊢
  obtain ⟨ok, s3⟩ := v
  obtain rfl : ok = true := h
  rfl

/-- The steps from the journal recovery to the images shown. -/
def State.startShown (s : State) (retFail skipSeal : Bool) : State :=
  let s1 := (s.journalRecover.keyRecover).configLoad
  let s2 := if s1.flag F.SAFE_STAT_SAFE ∧ s1.flag F.SAFE_CFG_LATCH then
      ({ s1 with safe := { s1.safe with needAck := true } }).set1 F.SAFE_STAT_ACKREQ else s1
  let s3 := (s2.tampStart).sealCompare skipSeal
  ((((s3.dispStart).dispRecover retFail).actuatorStart).resumeUpdate).showImages

theorem State.startShown_keeps {sI s : State} {retFail skipSeal : Bool} (hk : Keeps sI s) :
    Keeps sI (s.startShown retFail skipSeal) := by
  unfold State.startShown
  extract_lets s1 src s2 s3
  have h1 : Keeps sI s1 := State.configLoad_keeps (State.keyRecover_keeps (State.journalRecover_keeps hk))
  have h2 : Keeps sI s2 := Keeps.ite (State.set1_keeps (Keeps.mk h1 rfl rfl)) h1
  have h3 : Keeps sI s3 := State.sealCompare_keeps (State.tampStart_keeps h2)
  exact State.showImages_keeps (State.resumeUpdate_keeps
    (State.actuatorStart_keeps (State.dispRecover_keeps (State.dispStart_keeps h3))))

theorem State.clockStart_changes (hc : s.canonical = true) :
    Changes (F.CLK_STAT_XT32_OK.zone :: stopClockZones ++ detectZones) (.rtc :: safeParts) s s.clockStart := by
  have h : Changes (F.CLK_STAT_XT32_OK.zone :: stopClockZones ++ detectZones) (.rtc :: safeParts) s s.noteStop :=
    (State.noteStop_spec hc).1.mono
  exact .ite (Changes.refl hc).set1 (.ite (h.next (State.detect_changes h.canonical 0x10 0xFF 0 .atOnce)) (.refl hc))

/-- What follows the images shown. -/
theorem State.startRest_eq (retFail skipSeal : Bool) : s.startRest retFail skipSeal =
    (s.startShown retFail skipSeal).linkStart.ameStart.mapIntervals fun i =>
      { i with start := (s.startShown retFail skipSeal).linkStart.ameStart.get F.BILL_LASTD_SEC, power := true } := by
  unfold State.startRest
  extract_lets s1 src s2 s3 s4 s5 t
  have h : s4.resumeUpdate.showImages = s.startShown retFail skipSeal := by
    unfold State.startShown
    rfl
  rw [← h]

/-- The state once the images are shown. -/
def State.bootShown (s : State) (dt : Nat) (found : BootIn) : State :=
  ((s.bootEnter dt).bootChoose found).2.startShown ((s.bootEnter dt).bootCheck found).1 (s.bootEnter dt).lossDue

theorem State.bootShown_canonical (hc : s.canonical = true) (dt : Nat) (found : BootIn) : (s.bootShown dt found).canonical = true := by
  have hk : Keeps s (s.bootEnter dt) := Keeps.mk (State.advance_keeps (Keeps.refl _)) rfl rfl
  have hcheck : Keeps s ((s.bootEnter dt).bootCheck found).2 := State.evaluate_keeps
    (State.restartSafe_keeps (State.decideDebug_keeps (State.checkRng_keeps (State.checkRoots_keeps (State.logStart_keeps hk)))))
  exact (State.startShown_keeps (State.bootVerify_keeps hcheck)).2.1 hc

/-- The start-up has ended: ticks are to begin. -/
def State.bootReady (s : State) : State :=
  { s with pow := { s.pow with stage := .awaitTick }, rm := { s.rm with first := true, nextAt := none } }

theorem State.bootReady_changes (hc : s.canonical = true) : Changes [] [.pow, .rm] s s.bootReady := by
  have h : Changes [] [.pow, .rm] s { s with pow := { s.pow with stage := .awaitTick } } := (Changes.refl hc).setPow
  exact h.setRm

/-- What the steps after the images shown change. -/
def bootEndZones : List Zone := ameZone :: F.CLK_STAT_XT32_OK.zone :: stopClockZones ++ detectZones ++ timeZones

/-- With a valid image the start-up ends, and its last steps leave the keys and the life cycle. -/
theorem execStartUp_of_valid {dt : Nat} {found : BootIn} (hc : s.canonical = true) (hs : s.pow.stage = .startUp)
    (h : ((s.bootEnter dt).bootChoose found).1 = true) : ∃ t, exec (.startUp dt found) s = .next t
      ∧ Changes bootEndZones ([.rm, .bill, .ame, .link] ++ timeParts ++ safeParts) (s.bootShown dt found) t := by
  have hl := State.linkStart_changes (State.bootShown_canonical hc dt found)
  have ha := State.ameStart_changes hl.canonical
  have h1 : Changes bootEndZones ([.rm, .bill, .ame, .link] ++ timeParts ++ safeParts) (s.bootShown dt found) _ := hl.mono.next ha
  have h2 := h1.next (State.mapIntervals_changes h1.canonical fun i =>
    { i with start := (s.bootShown dt found).linkStart.ameStart.get F.BILL_LASTD_SEC, power := true })
  have h3 := h2.next (State.advance_changes h2.canonical (dt - min dt 16))
  have h4 := h3.next (State.clockStart_changes h3.canonical)
  refine ⟨_, ?_, h4.next (State.bootReady_changes h4.canonical)⟩
  change execStartUp dt found s = _
  unfold execStartUp
  rw [if_neg (fun hn => hn hs), State.bootRun_of_valid h, State.startRest_eq]
  rfl

end

/-! ### A root-key error that was shown before the start-up -/

/-- A start-up in which KEYS_STAT.ROOTERR reads 1, with no root key that fails. -/
def staleRootErr : State := { State.reset.put F.KEYS_STAT_ROOTERR 1 with pow := { State.reset.pow with stage := .startUp } }

/-- The boot finds nothing wrong. -/
def soundBoot : BootIn := ⟨true, [], false⟩

theorem staleRootErr_shown : ((staleRootErr.bootEnter 0).bootChoose soundBoot).1 = true
    ∧ (staleRootErr.bootShown 0 soundBoot).flag F.KEYS_STAT_ROOTERR = true := by decide +kernel

/-- Refutes O4: the boot ROM's check of the root keys sets KEYS_STAT.ROOTERR and never clears it, so a bit that reads 1 before the
start-up still does where no root key fails. -/
theorem not_startUpEndsReadyOrInRecovery : ¬ Obligations.StartUpEndsReadyOrInRecovery := by
  unfold Obligations.StartUpEndsReadyOrInRecovery
  intro h
  obtain ⟨-, hends⟩ := h 0 soundBoot staleRootErr (by decide +kernel) rfl rfl rfl
  obtain ⟨t, ht, -, -, -, hroot, -⟩ := hends (by decide +kernel) (by decide +kernel)
  obtain ⟨hok, hset⟩ := staleRootErr_shown
  obtain ⟨v, hv, hkept⟩ := execStartUp_of_valid (by decide +kernel) rfl hok
  obtain rfl : t = v := Host.Outcome.next.inj (ht.symm.trans hv)
  exact absurd (hroot.mp ((hkept.flag F.KEYS_STAT_ROOTERR).trans hset)) (by decide +kernel)

end Sys2Proof.Machine
end

section
set_option Elab.async false
/-! PROOF. Resets and the start gate (Machine/Power.lean, R71, R73, R93, R105 to R108). -/

namespace Sys2Proof.Machine

/-! ### The trouble log across a reset that abandons an update -/

/-- The number of the segment whose balance would stand where LOG_TSEQ does. -/
def segmentOfTseq : Nat := (F.LOG_TSEQ - F.DISP_BAL 0) / 4

/-- The watchdog's limit has passed during a bistable update that drives that segment. -/
def strayUpdate : State :=
  { State.reset with
    uptime := 32768
    pow := { State.reset.pow with stage := .running, wdtAt := some 0 }
    disp := { State.reset.disp with run := some ⟨0, 0, false, [], [⟨segmentOfTseq, [(5, 1)]⟩], 0, 0, false, 0, 0⟩ } }

theorem strayUpdate_charges : (strayUpdate.passTo 0 0).rd F.LOG_TSEQ = 0#32
    ∧ ∃ t, exec (.watchdogReset 0) strayUpdate = .next t ∧ t.rd F.LOG_TSEQ = 5#32 := ⟨by decide +kernel, _, rfl, by decide +kernel⟩

/-- Refutes O2: a reset abandons the bistable update that runs, whose phases so far count in the balances of its segments (R407, R425);
the statement bounds no segment number, and one that no panel has reaches LOG_TSEQ. -/
theorem not_watchdogAndCommandResetsKeepTheLog : ¬ Obligations.WatchdogAndCommandResetsKeepTheLog := by
  unfold Obligations.WatchdogAndCommandResetsKeepTheLog
  intro h
  obtain ⟨hwatchdog, -⟩ := h 0 0 strayUpdate (by decide +kernel)
  obtain ⟨t, ht, hkept, -⟩ := hwatchdog rfl (by decide +kernel)
  obtain ⟨-, -, -, htseq, -⟩ := hkept
  obtain ⟨hzero, v, hv, hfive⟩ := strayUpdate_charges
  obtain rfl : t = v := Host.Outcome.next.inj (ht.symm.trans hv)
  exact absurd (hfive.symm.trans (htseq.trans hzero)) (by decide)

/-! ### An update that is abandoned -/

/-- The retained bytes of the display's record, and those of the check. -/
def recordZone : Zone := window (F.RTC_RET 4) 16

/-- The registers from the display's on, as far as an update's segments reach. -/
def upperZone (n : Nat) : Zone := window 0x40500000 n

theorem window_has {b n a : Nat} : (window b n).has a = true ↔ b ≤ a ∧ a < b + n := by
  rw [Zone.has_iff]
  simp only [window]
  omega

theorem upperZone_apart {n : Nat} {g : Fld} (hg : g.addr < 0x40500000) : (upperZone n).apart g = true := by
  rw [Zone.apart, show (upperZone n).has g.addr = false from Bool.eq_false_iff.mpr fun h => by
    have := (window_has.mp h).1
    omega]
  rfl

section
variable {s : State}

theorem State.retPut_record (hc : s.canonical = true) {i : Nat} (hl : 16 ≤ i) (hi : i < 32) (v : Nat) :
    Changes [recordZone] [] s (s.retPut i v) := by
  refine (Changes.refl hc).put (f := ⟨F.RTC_RET (i / 4), 8 * (i % 4) + 7, 8 * (i % 4)⟩) ⟨_, List.mem_singleton_self _, ?_⟩
    (Fld.sane_iff.mpr ⟨by dsimp only; omega, by dsimp only; omega⟩)
  simp only [Zone.covers_iff, Zone.has_iff, recordZone, window, F.RTC_RET]
  omega

theorem State.retPutAll_record (hc : s.canonical = true) {i : Nat} {vs : List Nat} (hl : 16 ≤ i) (hi : i + vs.length ≤ 32) :
    Changes [recordZone] [] s (s.retPutAll i vs) := by
  induction vs generalizing s i with
  | nil => exact .refl hc
  | cons v vs ih =>
    rw [List.length_cons] at hi
    have h := State.retPut_record hc hl (by omega) v
    exact h.trans (ih h.canonical (by omega) (by omega))

/-- The display's record and the check that goes with it. -/
theorem State.retWrite_record (hc : s.canonical = true) {i : Nat} {vs : List Nat} (hl : 16 ≤ i) (hi : i + vs.length ≤ 32) :
    Changes [recordZone] [] s (s.retWrite i vs) := by
  have h1 := State.retPutAll_record hc hl hi
  have h2 := State.retPut_record (s := s.retPutAll i vs) h1.canonical (i := 0x1E) (by decide) (by decide)
    ((s.retPutAll i vs).retCheck % 256)
  exact h1.trans (h2.trans (State.retPut_record h2.canonical (by decide) (by decide) _))

theorem State.runRecord_changes (hc : s.canonical = true) (r : DispRun) (ms : Nat) : Changes [recordZone] [] s (s.runRecord r ms) :=
  State.retWrite_record hc (by decide) (by simp [bytesLE])

theorem State.runOff_changes (hc : s.canonical = true) : Changes [F.DISP_STAT_BUSY.zone, F.DISP_STAT_RUNREG.zone] [.disp] s s.runOff :=
  ((Changes.refl hc).setDisp).clr.clr

/-- The charges of an update's segments stand in the registers of their balances. -/
theorem State.charges_changes (hc : s.canonical = true) (l : List SegDrive) (g : SegDrive → List (Int × Nat)) :
    ∃ n, Changes [upperZone n] [] s (l.foldl (fun (t : State) d => t.chargeSeg d.seg (g d)) s) := by
  refine ⟨4 * (l.map SegDrive.seg).sum + 0x400, (Changes.refl hc).foldl fun t d hd ht => ht.putI ⟨_, List.mem_singleton_self _, ?_⟩ rfl⟩
  have hle : d.seg ≤ (l.map SegDrive.seg).sum := List.le_sum_of_mem (List.mem_map_of_mem hd)
  simp only [Zone.covers_iff, upperZone, window_has, F.DISP_BAL_BAL, F.DISP_BAL]
  exact ⟨⟨by omega, Nat.zero_le _⟩, show 15 ≤ 31 by decide⟩

/-- What an update that is abandoned shows in, its segments' balances `n` bytes on at most. -/
def abandonZones (n : Nat) : List Zone := [recordZone, upperZone n, F.DISP_STAT_BUSY.zone, F.DISP_STAT_RUNREG.zone]

theorem State.runShown_changes (hc : s.canonical = true) : ∃ n, Changes (abandonZones n) [.disp] s s.runShown := by
  unfold State.runShown
  split
  · exact ⟨0, .refl hc⟩
  · rename_i r _
    split
    · exact ⟨0, .refl hc⟩
    · split
      · exact ⟨0, .refl hc⟩
      · rename_i ms _
        obtain ⟨n, hn⟩ := State.charges_changes hc r.segs fun d => phasesDone ms d.phases
        refine ⟨n, Changes.next (hn.mono ?_ nofun) (State.runRecord_changes hn.canonical r ms) ?_ nofun⟩ <;> simp [abandonZones]

/-- An update that is abandoned changes the display, its record and its segments' balances. -/
theorem State.abandonRun_changes (hc : s.canonical = true) : ∃ n, Changes (abandonZones n) [.disp] s s.abandonRun := by
  have hoff {t : State} {n : Nat} (ht : Changes (abandonZones n) [.disp] s t) : Changes (abandonZones n) [.disp] s t.runOff :=
    ht.next (State.runOff_changes ht.canonical) (by simp [abandonZones]) (by simp)
  unfold State.abandonRun
  split
  · exact ⟨0, .refl hc⟩
  · split
    · have h := State.retWrite_record hc (i := 0x10) (vs := [0]) (by decide) (by decide)
      exact ⟨0, hoff (h.mono (by simp [abandonZones]) nofun)⟩
    · obtain ⟨n, hn⟩ := State.runShown_changes hc
      exact ⟨n, hoff hn⟩

/-- Below the display's registers it changes no register but those of its record. -/
theorem State.abandonRun_rd (hc : s.canonical = true) {a : Nat} (ha : a < 0x40500000) (hr : recordZone.has a = false) :
    s.abandonRun.rd a = s.rd a := by
  obtain ⟨n, hn⟩ := State.abandonRun_changes hc
  refine hn.zones.rd fun z hz => ?_
  simp only [abandonZones, List.mem_cons, List.not_mem_nil, or_false] at hz
  rcases hz with rfl | rfl | rfl | rfl
  · exact hr
  · exact Bool.eq_false_iff.mpr fun h => absurd (window_has.mp h).1 (Nat.not_le.mpr ha)
  · exact Bool.eq_false_iff.mpr fun h => by rw [Fld.zone_has.mp h] at ha; exact absurd ha (by decide)
  · exact Bool.eq_false_iff.mpr fun h => by rw [Fld.zone_has.mp h] at ha; exact absurd ha (by decide)

theorem State.abandonRun_same (hc : s.canonical = true) {p : Part} (hp : p ≠ .disp) : p.same s s.abandonRun := by
  obtain ⟨n, hn⟩ := State.abandonRun_changes hc
  exact hn.parts p (by simp [hp])

/-! ### A reset of CORE -/

/-- The registers that no reset of CORE changes, the trouble log's apart. -/
def keptAddrs : List Nat := [F.MGMT_DEVID_LO, F.MGMT_DEVID_HI, F.MGMT_SVN]

theorem State.resetWords_rd {a : Nat} (ha : a ∉ keptAddrs) : (s.resetWords false).rd a = (s.resetBlocks coreBlocks).rd a := by
  have hf (l : List (Nat × Word × Nat)) {t : State} (hl : ∀ c ∈ l, a ≠ c.1) :
      (l.foldl (fun (t : State) c => t.wr c.1 (mergeMask c.2.2 c.2.1 (t.rd c.1))) t).rd a = t.rd a := by
    induction l generalizing t with
    | nil => rfl
    | cons c l ih =>
      exact (ih fun d hd => hl d (List.mem_cons_of_mem c hd)).trans (State.rd_wr_ne (hl c List.mem_cons_self))
  refine hf _ fun c hc => ?_
  simp only [State.keptWords, Bool.false_eq_true, if_false, List.append_nil, List.mem_cons, List.not_mem_nil, or_false] at hc
  rintro rfl
  rcases hc with rfl | rfl | rfl
  · exact ha (by simp [keptAddrs])
  · exact ha (by simp [keptAddrs])
  · exact ha (by simp [keptAddrs])

/-- The blocks of CORE are reset, but what MGMT keeps. -/
theorem State.coreReset_reset {b : Block} (hb : b ∈ coreBlocks) (hm : b ≠ .mgmt) : BlockReset (s.coreReset false) b := by
  intro a ha
  have hk : a ∉ keptAddrs := by
    intro h
    have hmg : blockOfAddr a = some .mgmt := by
      simp only [keptAddrs, List.mem_cons, List.not_mem_nil, or_false] at h
      rcases h with rfl | rfl | rfl <;> decide
    exact hm (Option.some.inj (ha.symm.trans hmg))
  exact (State.resetWords_rd hk).trans (State.rd_resetBlocks_of_mem hb ha)

/-- The registers below the display's that no block of CORE has are kept, but the display's record. -/
theorem State.coreReset_rd (hc : s.canonical = true) {a : Nat} (hb : ∀ b ∈ coreBlocks, blockOfAddr a ≠ some b) (ha : a < 0x40500000)
    (hr : recordZone.has a = false) : (s.coreReset false).rd a = s.rd a := by
  have hk : a ∉ keptAddrs := by
    intro h
    simp only [keptAddrs, List.mem_cons, List.not_mem_nil, or_false] at h
    rcases h with rfl | rfl | rfl <;> exact absurd ha (by decide)
  exact (State.resetWords_rd hk).trans ((State.rd_resetBlocks_of_not_mem hb).trans (State.abandonRun_rd hc ha hr))

theorem State.coreReset_block (hc : s.canonical = true) {b : Block} (hb : b ∈ [Block.pwr, .clk, .ft]) :
    BlockKept s (s.coreReset false) b := by
  intro a ha
  have hw := blockOfAddr_window ha
  have hlow : a < 0x40028000 := by
    simp only [List.mem_cons, List.not_mem_nil, or_false] at hb
    rcases hb with rfl | rfl | rfl <;> simp only [blockBase] at hw <;> omega
  refine State.coreReset_rd hc (fun c hcore hac => ?_) (by omega) (Bool.eq_false_iff.mpr fun h => ?_)
  · obtain rfl := Option.some.inj (ha.symm.trans hac)
    revert hb hcore
    cases b <;> decide
  · have := (window_has.mp h).1
    simp only [F.RTC_RET] at this
    omega

/-! ### What a reset of power leaves -/

/-- The blocks of the domains that a reset of power clears. -/
def lostBlocks : List Block := [.sys, .ame, .shot, .mpa, .mpb, .sens, .bill, .alm, .radio, .link, .disp, .keys, .log, .cmd]

/-- The registers of the clock, and retained bytes, that it keeps. -/
def keptClock : List Nat := [F.RTC_SEC, F.RTC_FRAC, F.RTC_RET 0, F.RTC_RET 1, F.RTC_RET 2, F.RTC_RET 3]

/-- The memories and stores that a reset of power clears, and those that it keeps. -/
structure StoresLost (s t : State) : Prop where
  crs : t.crs = []
  tok : t.tok = []
  shadow : t.shadow = []
  slots : t.keys.slots = List.replicate 8 none
  nvm : t.nvm = s.nvm
  saved : t.saved = s.saved
  cells : t.keys.cells = s.keys.cells

/-- CORE, AFE, RF and DISP are lost, and what outlasts them is kept. -/
structure CoreLost (s t : State) : Prop extends StoresLost s t where
  blocks : ∀ b ∈ lostBlocks, BlockReset t b
  clock : ∀ a ∈ keptClock, t.rd a = s.rd a

theorem State.coreReset_lost (hc : s.canonical = true) : CoreLost s (s.coreReset false) where
  crs := rfl
  tok := rfl
  shadow := rfl
  slots := rfl
  nvm := State.abandonRun_same hc (p := .nvm) nofun
  saved := State.abandonRun_same hc (p := .saved) nofun
  cells := by
    have h : s.abandonRun.keys = s.keys := State.abandonRun_same hc (p := .keys) nofun
    exact (congrArg Keys.cells h :)
  blocks b hb := State.coreReset_reset (by revert hb; cases b <;> decide) (by revert hb; cases b <;> decide)
  clock a ha := by
    refine State.coreReset_rd hc ?_ ?_ ?_ <;> revert a <;> decide

/-- An operation of AON alone leaves what the reset has left. -/
theorem CoreLost.next {W : List Zone} {L : List Part} {t u : State} (h : CoreLost s t) (k : Changes W L t u)
    (hb : ∀ b ∈ lostBlocks, ∀ z ∈ W, z.clearOf b = true := by decide) (ha : ∀ a ∈ keptClock, ∀ z ∈ W, z.has a = false := by decide)
    (hp : ∀ p ∈ [Part.crs, .tok, .shadow, .keys, .nvm, .saved], p ∉ L := by decide) : CoreLost s u where
  crs := (k.crs (hp .crs (by decide))).trans h.crs
  tok := (k.tok (hp .tok (by decide))).trans h.tok
  shadow := (k.shadow (hp .shadow (by decide))).trans h.shadow
  slots := (congrArg Keys.slots (k.keys (hp .keys (by decide)))).trans h.slots
  nvm := (k.nvm (hp .nvm (by decide))).trans h.nvm
  saved := (k.saved (hp .saved (by decide))).trans h.saved
  cells := (congrArg Keys.cells (k.keys (hp .keys (by decide)))).trans h.cells
  blocks b hbl := k.blockReset (h.blocks b hbl) (hb b hbl)
  clock a hcl := (k.rd a (ha a hcl)).trans (h.clock a hcl)

theorem State.coreReset_canonical (hc : s.canonical = true) (log : Bool) : (s.coreReset log).canonical = true :=
  (State.coreReset_keeps (Keeps.refl s)).2.1 hc

theorem State.coreReset_uptime (hc : s.canonical = true) : (s.coreReset false).uptime = s.uptime :=
  State.abandonRun_same hc (p := .uptime) nofun

theorem State.coreReset_onBackup (hc : s.canonical = true) : (s.coreReset false).pow.onBackup = s.pow.onBackup := by
  have h : s.abandonRun.pow = s.pow := State.abandonRun_same hc (p := .pow) nofun
  exact (congrArg Power.onBackup h :)

/-- A reset of blocks changes their windows. -/
theorem State.resetBlocks_changes (hc : s.canonical = true) (bs : List Block) :
    Changes (bs.map fun b => window (blockBase b) 0x8000) [] s (s.resetBlocks bs) := by
  refine ⟨State.resetBlocks_canonical hc, fun a i hi => ?_, fun p _ => by cases p <;> exact rfl⟩
  by_cases hn : ∀ b ∈ bs, blockOfAddr a ≠ some b
  · rw [State.rd_resetBlocks_of_not_mem hn]
  · push Not at hn
    obtain ⟨b, hb, ha⟩ := hn
    have hz := hi _ (List.mem_map_of_mem hb)
    rw [Zone.holds, window_has.mpr (blockOfAddr_window ha), Bool.true_and, decide_eq_false_iff_not] at hz
    have h31 : ¬i ≤ 31 := fun h => hz ⟨Nat.zero_le _, h⟩
    rw [BitVec.getLsbD_of_ge _ _ (by omega), BitVec.getLsbD_of_ge _ _ (by omega)]

/-- The registers of AON at their reset values, with the source of the BKUP rail. -/
def State.aonRegs (s : State) : State := (s.resetBlocks [.pwr, .clk, .ft]).putB F.PWR_STATE_BKSRC s.pow.onBackup

/-- The zones of AON's registers. -/
def aonZones : List Zone := [window (blockBase .pwr) 0x8000, window (blockBase .clk) 0x8000, window (blockBase .ft) 0x8000]

theorem State.aonReset_spec (hc : s.canonical = true) : Changes aonZones [.pins] s s.aonReset
    ∧ (∀ a, blockOfAddr a = some .pwr → a ≠ F.PWR_STATE → s.aonReset.rd a = regReset a)
    ∧ BlockReset s.aonReset .clk ∧ BlockReset s.aonReset .ft ∧ s.aonReset.flag F.PWR_STATE_BKSRC = s.pow.onBackup
    ∧ s.aonReset.pins.pfwarnLow = false := by
  have h1 : Changes aonZones [.pins] s (s.resetBlocks [.pwr, .clk, .ft]) := (State.resetBlocks_changes hc _).mono
  have h2 : Changes [F.PWR_STATE_BKSRC.zone] [] (s.resetBlocks [.pwr, .clk, .ft]) s.aonRegs := (Changes.refl h1.canonical).putB
  have h3 : Changes [] [.pins] s.aonRegs s.aonReset := (Changes.refl h2.canonical).setPins
  have h23 : Changes [F.PWR_STATE_BKSRC.zone] [.pins] (s.resetBlocks [.pwr, .clk, .ft]) s.aonReset := (h2.mono).next h3
  refine ⟨(h1.trans (h2.cover)).next h3, fun a ha hne => ?_, ?_, ?_, (h3.flag _).trans (State.putB_flag h1.canonical _), rfl⟩
  · rw [h23.rd a fun z hz => Bool.eq_false_iff.mpr fun hh => by
      rw [List.mem_singleton.mp hz] at hh
      exact hne (Fld.zone_has.mp hh)]
    exact State.rd_resetBlocks_of_mem (by decide) ha
  · exact h23.blockReset fun a ha => State.rd_resetBlocks_of_mem (by decide) ha
  · exact h23.blockReset fun a ha => State.rd_resetBlocks_of_mem (by decide) ha

/-- The stage that follows a reset. -/
def State.atStage (s : State) (st : Stage) (met : Bool) : State := { s with pow := { s.pow with stage := st, gateMet := met } }

theorem State.atStage_changes (hc : s.canonical = true) (st : Stage) (met : Bool) : Changes [] [.pow] s (s.atStage st met) :=
  (Changes.refl hc).setPow

theorem State.brownOut_changes (hc : s.canonical = true) : Changes [F.PWR_RSTCAUSE_BOR.zone] [.pow] (s.coreReset false) s.brownOut := by
  have h : Changes [F.PWR_RSTCAUSE_BOR.zone] [.pow] (s.coreReset false) ((s.coreReset false).set1 F.PWR_RSTCAUSE_BOR) :=
    (Changes.refl (State.coreReset_canonical hc false)).set1
  exact h.setPow

theorem State.brownOut_flag (hc : s.canonical = true) : s.brownOut.flag F.PWR_RSTCAUSE_BOR = true := by
  have h := State.coreReset_canonical hc false
  have hp : Changes [] [.pow] ((s.coreReset false).set1 F.PWR_RSTCAUSE_BOR) s.brownOut := (Changes.refl (State.put_canonical h)).setPow
  exact (hp.flag _).trans (State.set1_flag h)

/-- CORE and AON reset, with EXTRST. -/
def State.extReset (s : State) : State := ((s.coreReset false).aonReset).set1 F.PWR_RSTCAUSE_EXTRST

theorem State.externalReset_eq (held : Nat) :
    s.externalReset held = ((s.extReset.atStage .gate s.gateAfterReset).advance held).toStart := rfl

end

/-- RESETN low for long enough resets, but in BACKUP and during an emergency commit. -/
theorem execResetnLow_resets {p : ResetPulse} {s : State} (hs : (s.advance p.dt).pow.stage ≠ .backup)
    (he : (s.advance p.dt).pow.stage ≠ .emergency) (hl : 2 ≤ p.lowUs) :
    exec (.resetnLow p) s = .next ((s.advance p.dt).externalReset (usCycles p.lowUs)) := by
  change execResetnLow p s = _
  unfold execResetnLow
  refine (if_neg (Nat.not_lt.mpr hl)).trans ?_
  generalize s.advance p.dt = t at hs he
  change (match t.pow.stage with | .backup => _ | .emergency => _ | _ => _) = _
  split
  · rename_i h
    exact absurd h hs
  · rename_i h
    exact absurd h he
  · rfl

/-- Settles O1: each reset of power is the reset of CORE, which clears and keeps what `CoreLost` says, with what it does to AON. -/
theorem resetsOfPowerClearTheirDomains : Obligations.ResetsOfPowerClearTheirDomains := by
  unfold Obligations.ResetsOfPowerClearTheirDomains
  intro p s hc dt lowUs s1 coreLost aonLost
  have h1 : s1.canonical = true := (State.advance_changes hc dt).canonical
  have hcore : (s1.coreReset false).canonical = true := State.coreReset_canonical h1 false
  have hlost {t : State} (h : CoreLost s1 t) : coreLost t := ⟨h.blocks, h.crs, h.tok, h.shadow, h.slots, h.nvm, h.saved, h.cells, h.clock⟩
  have hbrown := State.brownOut_changes h1
  obtain ⟨haon, hpwr, hclk, hft, hsrc, hpf⟩ := State.aonReset_spec hcore
  refine ⟨fun hs => ?brown, fun hs => ?backup, fun hs => ?aon, fun hs he hl => ?resetn, fun hs he hl => ?held, fun hl => ?short⟩
  case brown =>
    have hclock {b : Block} (hb : b ∈ [Block.pwr, .clk, .ft]) (hz : ∀ z ∈ [F.PWR_RSTCAUSE_BOR.zone], z.clearOf b = true) :
        BlockKept s1 s1.brownOut b := fun a ha => (hbrown.blockKept b hz a ha).trans (State.coreReset_block h1 hb a ha)
    exact Runs.of_eq (u := if s1.pow.stage = .backup then s1 else s1.brownOut) rfl (if_neg hs)
      ⟨hlost ((State.coreReset_lost h1).next hbrown), State.brownOut_flag h1, rfl, hclock (by decide) (by decide),
        hclock (by decide) (by decide)⟩
  case backup =>
    have ht : Changes [F.PWR_RSTCAUSE_BOR.zone] [.pow] (s1.coreReset false)
      { s1.brownOut with pow := { s1.brownOut.pow with stage := .backup, onBackup := true } } := hbrown.setPow
    refine ⟨_, ?_, hlost ((State.coreReset_lost h1).next ht), rfl⟩
    change execBackupEntry dt s = _
    unfold execBackupEntry
    exact if_neg hs
  case aon =>
    have ht := State.atStage_changes haon.canonical .gate false
    have hall := ((State.coreReset_lost h1).next haon).next ht
    refine ⟨_, ?_, hlost hall, ⟨fun a ha hne _ => (ht.rd a nofun).trans (hpwr a ha hne), ht.blockReset hclk, ht.blockReset hft,
      (congrArg Pins.pfwarnLow ht.pins).trans hpf⟩, rfl, (ht.rd _).trans (hpwr _ (by decide) (by decide)), ?_⟩
    · change execAonPowerOn dt s = _
      unfold execAonPowerOn
      exact if_pos hs
    · exact (ht.flag _).trans (hsrc.trans (State.coreReset_onBackup h1))
  case resetn =>
    have hext : Changes [F.PWR_RSTCAUSE_EXTRST.zone] [] (s1.coreReset false).aonReset s1.extReset := (Changes.refl haon.canonical).set1
    have hat := State.atStage_changes hext.canonical .gate s1.gateAfterReset
    have hcause : s1.extReset.rd F.PWR_RSTCAUSE = 3#32 := by
      refine (State.rd_wr_self haon.canonical).trans ?_
      rw [show (s1.coreReset false).aonReset.rd F.PWR_RSTCAUSE_EXTRST.addr = regReset F.PWR_RSTCAUSE from
        hpwr F.PWR_RSTCAUSE (by decide) (by decide)]
      decide
    have hkept (a : Nat) (hne : a ≠ F.PWR_RSTCAUSE) : (s1.extReset.atStage .gate s1.gateAfterReset).rd a = (s1.coreReset false).aonReset.rd a :=
      (hat.rd a nofun).trans (hext.rd a fun z hz => Bool.eq_false_iff.mpr fun hh => by
        rw [List.mem_singleton.mp hz] at hh
        exact hne (Fld.zone_has.mp hh))
    have hadv := State.advance_changes hat.canonical (usCycles lowUs)
    have hother {b : Block} (hb : blockOfAddr F.PWR_RSTCAUSE ≠ some b) (hr : BlockReset (s1.coreReset false).aonReset b) :
        BlockReset (s1.extReset.atStage .gate s1.gateAfterReset) b := fun a ha =>
      (hkept a (by rintro rfl; exact hb ha)).trans (hr a ha)
    refine ⟨_, execResetnLow_resets hs he hl, s1.extReset.atStage .gate s1.gateAfterReset,
      hlost ((((State.coreReset_lost h1).next haon).next hext).next hat), ⟨fun a ha hne hnc => (hkept a hnc).trans (hpwr a ha hne),
      hother (by decide) hclk, hother (by decide) hft, (congrArg Pins.pfwarnLow (hat.pins.trans hext.pins)).trans hpf⟩, (hat.rd _ nofun).trans hcause,
      hat.uptime.trans (hext.uptime.trans (haon.uptime.trans (State.coreReset_uptime h1))), rfl, rfl, ?_⟩
    · change (if ((s1.extReset.atStage .gate s1.gateAfterReset).advance (usCycles lowUs)).pow.gateMet = true then _ else _) = _
      rw [hadv.pow]
      rfl
  case held =>
    refine ⟨_, ?_, rfl⟩
    change execResetnLow p s = _
    unfold execResetnLow
    refine (if_neg (Nat.not_lt.mpr hl)).trans ?_
    change (match s1.pow.stage with | .backup => _ | .emergency => _ | _ => _) = _
    rw [he]
  case short =>
    refine ⟨_, ?_, rfl⟩
    change execResetnLow p s = _
    unfold execResetnLow
    exact if_pos hl

end Sys2Proof.Machine
end

section
set_option Elab.async false
/-! PROOF. The start gate, HIBERNATE and its end (Machine/Power.lean, R71, R90 to R94, R108). -/

namespace Sys2Proof.Machine

/-! ### The display, which a HIBERNATE entry keeps -/

section
variable {α : Type} [DecidableEq α] {d : Nat → α} {l : List (Nat × α)}

theorem swfAbove_lt {b : Nat} {c : Nat × α} (h : swfAbove d (some b) l = true) (hm : c ∈ l) : b < c.1 := by
  induction l generalizing b with
  | nil => exact absurd hm (by simp)
  | cons x l ih =>
    simp only [swfAbove, Bool.and_eq_true, decide_eq_true_eq] at h
    obtain ⟨⟨hb, -⟩, hl⟩ := h
    rcases List.mem_cons.mp hm with rfl | hm
    · exact hb
    · exact hb.trans (ih hl hm)

/-- A listed value of a canonical store is what its key reads as. -/
theorem sget_of_mem {lo : Option Nat} {c : Nat × α} (h : swfAbove d lo l = true) (hm : c ∈ l) : sget d l c.1 = c.2 := by
  induction l generalizing lo with
  | nil => exact absurd hm (by simp)
  | cons x l ih =>
    simp only [swfAbove, Bool.and_eq_true, decide_eq_true_eq] at h
    rcases List.mem_cons.mp hm with rfl | hm
    · exact if_pos rfl
    · exact (if_neg (Nat.ne_of_lt (swfAbove_lt h.2 hm))).trans (ih h.2 hm)

omit [DecidableEq α] in
theorem sget_of_not_mem {k : Nat} (h : ∀ c ∈ l, c.1 ≠ k) : sget d l k = d k := by
  induction l with
  | nil => rfl
  | cons x l ih => exact (if_neg (h x List.mem_cons_self)).trans (ih fun c hc => h c (List.mem_cons_of_mem x hc))

end

/-- The registers of the display, written back. -/
def writeDisp (l : List (Nat × Word)) (t : State) : State := l.foldl (fun (t : State) c => if inBlock .disp c.1 then t.wr c.1 c.2 else t) t

section
variable {s t : State}

theorem State.keepDisp_eq (t s : State) : t.keepDisp s = { writeDisp s.regs t with disp := s.disp } := rfl

/-- They lie in the display's window. -/
theorem writeDisp_changes (l : List (Nat × Word)) (hc : t.canonical = true) :
    Changes [window (blockBase .disp) 0x8000] [] t (writeDisp l t) :=
  (Changes.refl hc).foldl fun u c _ hu => by
    split
    · rename_i hb
      have hw := blockOfAddr_window (of_decide_eq_true hb)
      exact hu.wr ⟨_, List.mem_singleton_self _, Zone.covers_iff.mpr ⟨⟨window_has.mpr hw, Nat.zero_le _⟩, Nat.le_refl 31⟩⟩
    · exact hu

theorem writeDisp_rd {l : List (Nat × Word)} {g : Nat → Word} {a : Nat} (hc : t.canonical = true) (hl : ∀ c ∈ l, c.2 = g c.1) :
    (t.rd a = g a → (writeDisp l t).rd a = g a) ∧ (inBlock .disp a = true → (∃ c ∈ l, c.1 = a) → (writeDisp l t).rd a = g a) := by
  induction l generalizing t with
  | nil => exact ⟨id, fun _ h => absurd h (by simp)⟩
  | cons x l ih =>
    have hx := hl x List.mem_cons_self
    have htail (u : State) (hu : u.canonical = true) := ih hu fun c hm => hl c (List.mem_cons_of_mem x hm)
    have hstep : writeDisp (x :: l) t = writeDisp l (if inBlock .disp x.1 then t.wr x.1 x.2 else t) := rfl
    rw [hstep]
    split
    · have hw := (State.wr_keeps (a := x.1) (w := x.2) (Keeps.refl t)).2.1 hc
      have hself : (t.wr x.1 x.2).rd x.1 = g x.1 := (State.rd_wr_self hc).trans hx
      constructor
      · intro ht
        refine (htail _ hw).1 ?_
        by_cases hxa : a = x.1
        · rw [hxa, hself]
        · rw [State.rd_wr_ne hxa, ht]
      · rintro hb ⟨c, hm, rfl⟩
        rcases List.mem_cons.mp hm with rfl | hm
        · exact (htail _ hw).1 hself
        · exact (htail _ hw).2 hb ⟨c, hm, rfl⟩
    · rename_i hnb
      refine ⟨(htail t hc).1, ?_⟩
      rintro hb ⟨c, hm, rfl⟩
      rcases List.mem_cons.mp hm with rfl | hm
      · exact absurd hb hnb
      · exact (htail t hc).2 hb ⟨c, hm, rfl⟩

/-- The display's registers are those it had, where the state that takes them had reset them. -/
theorem State.keepDisp_spec (ht : t.canonical = true) (hs : s.canonical = true) (hr : BlockReset t .disp) :
    Changes [window (blockBase .disp) 0x8000] [.disp] t (t.keepDisp s) ∧ BlockKept s (t.keepDisp s) .disp := by
  have hw := writeDisp_changes s.regs ht
  have hd : Changes [] [.disp] (writeDisp s.regs t) (t.keepDisp s) := (Changes.refl hw.canonical).setDisp
  have hl : ∀ c ∈ s.regs, c.2 = s.rd c.1 := fun c hm => (sget_of_mem (storesCanonical_iff.mp hs).1 hm).symm
  refine ⟨hw.mono.next hd, fun a ha => (hd.rd a nofun).trans ?_⟩
  by_cases hm : ∃ c ∈ s.regs, c.1 = a
  · exact (writeDisp_rd ht hl).2 (decide_eq_true ha) hm
  · refine (writeDisp_rd ht hl).1 ((hr a ha).trans (sget_of_not_mem fun c hc h => hm ⟨c, hc, h⟩).symm)

/-! ### Into HIBERNATE -/

/-- The part with the transmitter off and a drive stopped. -/
def State.quiet (s : State) : State := s.stopTx.stopDrive

theorem State.stopDrive_changes (hc : s.canonical = true) :
    Changes [F.PWR_STATE_STATE.zone, F.PAY_ACT_STATE.zone] [.act, .jrn] s s.stopDrive := by
  unfold State.stopDrive
  have h0 : Changes [F.PWR_STATE_STATE.zone, F.PAY_ACT_STATE.zone] [.act, .jrn] s { s with act := { s.act with drive := none } } :=
    (Changes.refl hc).setAct
  have h1 : Changes [F.PWR_STATE_STATE.zone, F.PAY_ACT_STATE.zone] [.act, .jrn] s s.endDrive :=
    h0.next (State.settlePower_changes h0.canonical)
  have h2 : Changes [F.PWR_STATE_STATE.zone, F.PAY_ACT_STATE.zone] [.act, .jrn] s (s.endDrive.put F.PAY_ACT_STATE s.restAct).commitDue :=
    (h1.put).setJrn
  exact .ite (.ite h1 h2) (.refl hc)

theorem State.quiet_changes (hc : s.canonical = true) :
    Changes (F.PWR_STATE_STATE.zone :: F.PAY_ACT_STATE.zone :: senderZones) (.act :: .jrn :: senderParts) s s.quiet := by
  have h := State.stopTx_changes hc
  exact (h.mono).next (State.stopDrive_changes h.canonical)

/-- HIBERNATE, with everything but the display lost. -/
def State.hibernating (s : State) : State := (s.quiet.coreReset false).keepDisp s.quiet

theorem State.enterHibernate_eq (s : State) :
    s.enterHibernate = { s.hibernating with pow := { s.hibernating.pow with stage := .hibernate } } := rfl

/-- The end of the wait for supply. -/
def State.waitEnds (s : State) : State := s.hibernating.atStage .hibernate false

theorem State.waitEnds_eq (s : State) : { s.enterHibernate with pow := { s.enterHibernate.pow with gateMet := false } } = s.waitEnds := by
  rw [State.enterHibernate_eq]
  generalize ht : s.hibernating = t
  rw [State.waitEnds, ht]
  rfl

theorem State.coreReset_same (hc : s.canonical = true) : (s.coreReset false).nvm = s.nvm ∧ (s.coreReset false).saved = s.saved
    ∧ (s.coreReset false).uptime = s.uptime ∧ (s.coreReset false).rm.tick = s.rm.tick := by
  have hrm : s.abandonRun.rm = s.rm := State.abandonRun_same hc (p := .rm) nofun
  exact ⟨State.abandonRun_same hc (p := .nvm) nofun, State.abandonRun_same hc (p := .saved) nofun,
    State.abandonRun_same hc (p := .uptime) nofun, (congrArg Ringm.tick hrm :)⟩

theorem State.coreReset_off (s : State) : (s.coreReset false).pins.paCtl = false ∧ (s.coreReset false).pins.txOn = false
    ∧ (s.coreReset false).pow.wdtAt = none := ⟨rfl, rfl, rfl⟩

/-- What HIBERNATE keeps of `s`, and what it has lost. -/
theorem State.hibernating_spec (hc : s.canonical = true) :
    (s.hibernating.uptime = s.uptime ∧ s.hibernating.rm.tick = s.rm.tick ∧ s.hibernating.nvm = s.nvm ∧ s.hibernating.saved = s.saved
      ∧ s.hibernating.disp = s.disp)
    ∧ (s.hibernating.count = s.count ∧ BlockKept s s.hibernating .disp ∧ BlockKept s s.hibernating .ft)
    ∧ (∀ b ∈ [Block.ame, .shot, .bill, .link], BlockReset s.hibernating b)
    ∧ s.hibernating.crs = [] ∧ s.hibernating.shadow = [] ∧ s.hibernating.pins.paCtl = false ∧ s.hibernating.pins.txOn = false
    ∧ s.hibernating.pow.wdtAt = none ∧ s.hibernating.canonical = true := by
  have hq := State.quiet_changes hc
  have hcore := State.coreReset_canonical hq.canonical false
  obtain ⟨hnvm, hsaved, hup, htick⟩ := State.coreReset_same hq.canonical
  obtain ⟨hpa, htx, hwdt⟩ := State.coreReset_off s.quiet
  have hlost := State.coreReset_lost hq.canonical
  obtain ⟨hk, hdisp⟩ := State.keepDisp_spec hcore hq.canonical (State.coreReset_reset (by decide) nofun)
  have hclock (a : Nat) (ha : a ∈ [F.RTC_SEC, F.RTC_FRAC]) : s.hibernating.rd a = s.rd a := by
    refine (hk.rd a ?_).trans ((hlost.clock a ?_).trans (hq.rd a ?_)) <;> revert a <;> decide
  refine ⟨⟨hk.uptime.trans (hup.trans hq.uptime), (congrArg Ringm.tick hk.rm).trans (htick.trans (congrArg Ringm.tick hq.rm)),
    hk.nvm.trans (hnvm.trans hq.nvm), hk.saved.trans (hsaved.trans hq.saved), hq.disp⟩,
    ⟨?_, fun a ha => (hdisp a ha).trans (hq.blockKept .disp (by decide) a ha), fun a ha => ?_⟩,
    fun b hb => hk.blockReset (hlost.blocks b ?_) ?_, hk.crs.trans hlost.crs, hk.shadow.trans hlost.shadow,
    (congrArg Pins.paCtl hk.pins).trans hpa, (congrArg Pins.txOn hk.pins).trans htx, (congrArg Power.wdtAt hk.pow).trans hwdt, hk.canonical⟩
  · unfold State.count State.sec State.frac State.get
    rw [hclock F.RTC_SEC_SEC.addr (by decide), hclock F.RTC_FRAC_FRAC.addr (by decide)]
  · exact (hk.blockKept .ft (by decide) a ha).trans ((State.coreReset_block hq.canonical (by decide) a ha).trans
      (hq.blockKept .ft (by decide) a ha))
  · revert hb; cases b <;> decide
  · revert hb; cases b <;> decide

/-! ### Out of it -/

/-- A start-up begins at the met gate. -/
theorem State.toStart_of_met (h : s.pow.gateMet = true) : s.toStart.pow.stage = .startUp ∧ s.toStart.pow.gateMet = true
    ∧ s.toStart.pow.wdtAt = some (s.toStart.uptime + secs 2) ∧ s.toStart.pins.pfwarnLow = false := by
  refine ⟨if_pos h, h, rfl, ?_⟩
  change (s.pins.pfwarnLow && !s.pow.gateMet) = false
  rw [h, Bool.not_true, Bool.and_false]

/-- The reset that ends HIBERNATE. -/
def State.woken (s : State) : State := (s.coreReset false).set1 F.PWR_RSTCAUSE_HIBWAKE

theorem State.endHibernate_spec (hc : s.canonical = true) (h : s.pow.gateMet = true) :
    (s.endHibernate.pow.stage = .startUp ∧ s.endHibernate.pow.gateMet = true
      ∧ s.endHibernate.pow.wdtAt = some (s.endHibernate.uptime + secs 2))
    ∧ s.endHibernate.flag F.PWR_RSTCAUSE_HIBWAKE = true ∧ s.endHibernate.crs = [] ∧ s.endHibernate.shadow = []
    ∧ s.endHibernate.nvm = s.nvm ∧ s.endHibernate.uptime = s.uptime ∧ s.endHibernate.pins.pfwarnLow = false := by
  have hcore := State.coreReset_canonical hc false
  obtain ⟨hnvm, -, hup, -⟩ := State.coreReset_same hc
  have hw : Changes [F.PWR_RSTCAUSE_HIBWAKE.zone] [] (s.coreReset false) s.woken := (Changes.refl hcore).set1
  have hp : Changes [] [.pow, .pins] s.woken { s.woken with pow := s.endHibernate.pow } := (Changes.refl hw.canonical).setPow
  have hs : Changes [] [.pow, .pins] s.woken s.endHibernate := hp.setPins
  have hpow : s.abandonRun.pow = s.pow := State.abandonRun_same hc (p := .pow) nofun
  have hmet : s.woken.pow.gateMet = true := (congrArg Power.gateMet hpow :).trans h
  obtain ⟨hstage, hgate, hwdt, hpf⟩ := State.toStart_of_met hmet
  exact ⟨⟨hstage, hgate, hwdt⟩, (hs.flag _).trans (State.set1_flag hcore), rfl, rfl, hnvm, hup, hpf⟩

end

/-! ### The gate -/

/-- The gate met, and PFWARN released outside an emergency commit. -/
def State.supplied (s : State) : State :=
  { s with pow := { s.pow with gateMet := true }
           pins := { s.pins with pfwarnLow := s.pins.pfwarnLow && decide (s.pow.stage = .emergency) } }

/-- What START_GATE does once time has passed. -/
def State.gateOpens (s : State) : State := match s.pow.stage with
  | .gate => s.supplied.toStart
  | .hibernate => if s.pow.gateMet then s.supplied else s.supplied.endHibernate
  | .backup => s
  | _ => s.supplied

theorem execStartGate_eq (dt : Nat) (s : State) : exec (.startGate dt) s = .next (s.advance dt).gateOpens := by
  change execStartGate dt s = _
  unfold execStartGate State.gateOpens
  generalize s.advance dt = u
  change (match u.pow.stage with
    | .gate => Host.Outcome.next u.supplied.toStart
    | .hibernate => .next (if u.pow.gateMet then u.supplied else u.supplied.endHibernate)
    | .backup => .next u
    | _ => .next u.supplied) = _
  cases u.pow.stage <;> rfl

theorem execHibernateWake_eq (dt : Nat) (s : State) : exec (.hibernateWake dt) s = .next (if (s.advance dt).pow.stage = .hibernate
    ∧ (s.advance dt).pow.gateMet ∧ (s.advance dt).ret 7 ≠ 0 then (s.advance dt).endHibernate else s.advance dt) := rfl

theorem execPowerFailWaitExpiry_eq {dt t0 : Nat} {s : State} (hs : s.pow.stage = .pfWait) (he : s.pow.emEnd = some t0) :
    exec (.powerFailWaitExpiry dt) s = .next (s.passTo dt (t0 + secs 1)).waitEnds := by
  change execPowerFailWaitExpiry dt s = _
  unfold execPowerFailWaitExpiry
  rw [hs, he]
  exact congrArg Host.Outcome.next (State.waitEnds_eq _)

theorem execPowerFailWaitExpiry_of_not {dt : Nat} {s : State} (h : s.pow.stage ≠ .pfWait ∨ s.pow.emEnd = none) :
    exec (.powerFailWaitExpiry dt) s = .next (s.advance dt) := by
  change execPowerFailWaitExpiry dt s = _
  unfold execPowerFailWaitExpiry
  split
  · rename_i t0 hs he
    exact absurd h (by simp [hs, he])
  · rfl

theorem State.passTo_uptime {s : State} (hc : s.canonical = true) (dt t : Nat) : t ≤ (s.passTo dt t).uptime := by
  rw [State.passTo, State.advance_uptime hc]
  omega

/-- Settles O3: the gate, a wake and an expired wait each lead where Table 3.7 says. -/
theorem startGateAndHibernate : Obligations.StartGateAndHibernate := by
  unfold Obligations.StartGateAndHibernate
  intro dt s hc s1 starts woken
  have h1 := State.advance_changes hc dt
  have hpow : s1.pow = s.pow := h1.pow
  refine ⟨fun hs => ?gate, fun hs hm => ?restored, fun hs hm => ?noted, fun hs => ?backup, fun hs hm hw => ?wake, fun hn => ?waits,
    fun t0 hs he => ?expires, fun hn => ?notExpires⟩
  case gate =>
    have hg : s1.gateOpens = s1.supplied.toStart := by
      unfold State.gateOpens
      rw [hpow, hs]
    obtain ⟨hstage, hgate, hwdt, hpf⟩ := State.toStart_of_met (s := s1.supplied) rfl
    refine ⟨s1.supplied.toStart, (execStartGate_eq dt s).trans (congrArg Host.Outcome.next hg), ⟨hstage, hgate, hwdt⟩, hpf, rfl⟩
  case restored =>
    have hg : s1.gateOpens = s1.supplied.endHibernate := by
      unfold State.gateOpens
      rw [hpow, hs, hm]
      rfl
    have hsup : Changes [] [.pow, .pins] s1 { s1 with pow := { s1.pow with gateMet := true } } := (Changes.refl h1.canonical).setPow
    have hsup2 : Changes [] [.pow, .pins] s1 s1.supplied := hsup.setPins
    obtain ⟨hstart, hwake, hcrs, hsh, hnvm, hup, hpf⟩ := State.endHibernate_spec hsup2.canonical rfl
    exact ⟨_, (execStartGate_eq dt s).trans (congrArg Host.Outcome.next hg), ⟨hstart, hwake, hcrs, hsh, hnvm, hup⟩, hpf⟩
  case noted =>
    have hg : s1.gateOpens = s1.supplied := by
      unfold State.gateOpens
      rw [hpow]
      split
      · rename_i h
        exact absurd h fun h => hs (by simp [h])
      · rename_i h
        exact if_pos (hm.resolve_left fun hn => hn h)
      · rename_i h
        exact absurd h fun h => hs (by simp [h])
      · rfl
    refine ⟨s1.supplied, (execStartGate_eq dt s).trans (congrArg Host.Outcome.next hg), ?_, rfl⟩
    rw [← hpow]
    rfl
  case backup =>
    have hg : s1.gateOpens = s1 := by
      unfold State.gateOpens
      rw [hpow, hs]
    exact ⟨_, (execStartGate_eq dt s).trans (congrArg Host.Outcome.next hg), rfl⟩
  case wake =>
    obtain ⟨hstart, hwake, hcrs, hsh, hnvm, hup, -⟩ := State.endHibernate_spec h1.canonical ((congrArg Power.gateMet hpow).trans hm)
    have hcond : s1.pow.stage = .hibernate ∧ s1.pow.gateMet ∧ s1.ret 7 ≠ 0 := by
      rw [hpow]
      exact ⟨hs, hm, hw⟩
    exact ⟨_, (execHibernateWake_eq dt s).trans (congrArg Host.Outcome.next (if_pos hcond)), hstart, hwake, hcrs, hsh, hnvm, hup⟩
  case waits =>
    refine ⟨_, (execHibernateWake_eq dt s).trans (congrArg Host.Outcome.next (if_neg ?_)), rfl⟩
    change ¬(s1.pow.stage = _ ∧ s1.pow.gateMet = true ∧ s1.ret 7 ≠ 0)
    rw [hpow]
    rintro ⟨hs, hm, hw⟩
    exact hn.elim (fun h => h hs) fun h => h.elim (fun h => by simp [h] at hm) hw
  case expires =>
    have hp := State.passTo_changes hc dt (t0 + secs 1)
    have hle := State.passTo_uptime hc dt (t0 + secs 1)
    obtain ⟨⟨hup, htick, hnvm, hsaved, hdisp⟩, ⟨hcount, hkd, hkf⟩, hblocks, hcrs, hsh, hpa, htx, hwdt, hc'⟩ :=
      State.hibernating_spec hp.canonical
    generalize hu : s.passTo dt (t0 + secs 1) = u at *
    have hw : Changes [] [.pow] u.hibernating u.waitEnds := State.atStage_changes hc' _ _
    exact ⟨u.waitEnds, hu ▸ execPowerFailWaitExpiry_eq hs he, rfl, rfl, hwdt, hw.uptime.trans hup ▸ hle,
      ⟨hw.uptime.trans hup, hcount, (congrArg Ringm.tick hw.rm).trans htick, hw.nvm.trans hnvm, hw.saved.trans hsaved,
        hw.disp.trans hdisp, fun a ha => (hw.rd a nofun).trans (hkd a ha), fun a ha => (hw.rd a nofun).trans (hkf a ha)⟩,
      hw.crs.trans hcrs, hw.shadow.trans hsh, (congrArg Pins.paCtl hw.pins).trans hpa, (congrArg Pins.txOn hw.pins).trans htx,
      fun b hb a ha => (hw.rd a nofun).trans (hblocks b hb a ha)⟩
  case notExpires => exact ⟨_, execPowerFailWaitExpiry_of_not hn, rfl⟩

end Sys2Proof.Machine
end

section
set_option Elab.async false
/-! PROOF. The phases of a tick (Machine/Tick.lean; R21 to R45, R472). -/

namespace Sys2Proof.Machine

/-! ### The watchdog's service -/

/-- Diagnostics that find nothing. -/
def soundDiag : DiagIn := ⟨none, [], false, [], none, none, false, false, 0⟩

/-- Compute is due with a period of five ticks in the hidden copy, where none stands while Compute runs (R45). -/
def hiddenPeriod : State :=
  let s := runningWith [(F.FT_PHASE_PHASE, 1)]
  { s with rm := { s.rm with phaseDone := true }, ame := { s.ame with hidden := [(F.FT_PERIOD_N, 5)] } }

theorem hiddenPeriod_served : ∃ t, exec (.compute soundDiag) hiddenPeriod = .next t ∧ t.pow.wdtFrom = some 2560 :=
  ⟨_, rfl, by decide +kernel⟩

/-- Refutes O21: the statement leaves the hidden copy free, which Compute shows before it services the watchdog; one that holds
FT_PERIOD changes the window of the next service from the period in force before. -/
theorem not_computePublishes : ¬ Obligations.ComputePublishes := by
  unfold Obligations.ComputePublishes
  intro h
  obtain ⟨hsound, -⟩ := h soundDiag hiddenPeriod (by decide +kernel) (by decide +kernel)
  obtain ⟨t, ht, -, -, -, -, hfrom, -⟩ := hsound rfl
  obtain ⟨v, hv, hother⟩ := hiddenPeriod_served
  obtain rfl : t = v := Host.Outcome.next.inj (ht.symm.trans hv)
  have hper : hiddenPeriod.get F.FT_PERIOD_N = 8 := by decide +kernel
  have hup : hiddenPeriod.uptime = 0 := by decide +kernel
  rw [hper, hup] at hfrom
  exact absurd (hfrom.symm.trans hother) (by decide)

end Sys2Proof.Machine
end

section
set_option Elab.async false
/-! PROOF. The carriers' receivers, the optical sign-on and the timers of sessions (Machine/Carriers.lean, Machine/Command.lean; R77,
R117 to R124, R143, R144, R181, R339, R442). -/

namespace Sys2Proof.Machine

section
variable {s : State} {c : Carrier}

/-! ### The record of a carrier with a receiver -/

theorem State.car_setCar (hr : hasReceiver c = true) (x : CarrierSt) : (s.setCar c x).car c = x := by
  cases c with
  | tunnel n => exact absurd hr Bool.false_ne_true
  | uart | optical => rfl

theorem State.setCar_changes (hc : s.canonical = true) (hr : hasReceiver c = true) (x : CarrierSt) :
    Changes [] [.cmd] s (s.setCar c x) := by
  cases c with
  | tunnel n => exact absurd hr Bool.false_ne_true
  | uart =>
    have h : Changes [] [.cmd] s { s with cmd := { s.cmd with uart := x } } := (Changes.refl hc).setCmd
    exact h
  | optical =>
    have h : Changes [] [.cmd] s { s with cmd := { s.cmd with opt := x } } := (Changes.refl hc).setCmd
    exact h

/-- What a carrier's record shows beside its transmitter. -/
def CarrierSt.quiet (x : CarrierSt) : CarrierSt := { x with tx := [], txPhase := 0, old := [] }

theorem CarrierSt.quiet_drainAt (x : CarrierSt) (baud dt : Nat) : (x.drainAt baud dt).quiet = x.quiet := rfl

theorem CarrierSt.quiet_drainOld (l : List (Nat × Nat)) (x : CarrierSt) (baud dt : Nat) :
    (CarrierSt.drainOld l x baud dt).quiet = x.quiet := by
  induction l generalizing x dt with
  | nil => rfl
  | cons p l ih =>
    obtain ⟨n, b⟩ := p
    unfold CarrierSt.drainOld
    dsimp only
    split
    · rfl
    · exact ih _ _

/-- While time passes only a carrier's transmitter moves. -/
theorem State.car_advance (hc : s.canonical = true) (dt : Nat) : ((s.advance dt).car c).quiet = (s.car c).quiet := by
  have h : (s.clockEdges dt).cmd = s.cmd := (State.clockEdges_changes hc dt).cmd
  cases c with
  | tunnel n =>
    change (sget (fun _ => CarrierSt.init) (s.clockEdges dt).cmd.tun n.val).quiet = _
    rw [h]
    rfl
  | uart => exact (CarrierSt.quiet_drainOld _ _ _ _).trans (congrArg (fun x : Cmd => x.uart.quiet) h)
  | optical => exact (CarrierSt.quiet_drainOld _ _ _ _).trans (congrArg (fun x : Cmd => x.opt.quiet) h)

theorem State.keyBuf_advance (hc : s.canonical = true) (dt : Nat) : (s.advance dt).cmd.keyBuf = s.cmd.keyBuf := by
  have h : (s.clockEdges dt).cmd = s.cmd := (State.clockEdges_changes hc dt).cmd
  change (s.clockEdges dt).cmd.keyBuf = _
  rw [h]

/-! ### What expires -/

theorem State.showLocks_changes (hc : s.canonical = true) : Changes [F.CMD_AUTHFAIL_LOCK.zone] [] s s.showLocks := (Changes.refl hc).put

/-- The lock of a carrier that ends shows no more. -/
theorem State.endLock_spec (hc : s.canonical = true) (hr : hasReceiver c = true) :
    ((s.endLock c).car c).lockEnd = none ∧ (s.endLock c).uptime = s.uptime
      ∧ bit ((s.endLock c).get F.CMD_AUTHFAIL_LOCK) (carrierNum c) = false := by
  have h := State.setCar_changes hc hr { s.car c with lockEnd := none }
  have hl (a b : Bool) : ((s.setCar c { s.car c with lockEnd := none }).put F.CMD_AUTHFAIL_LOCK (b2n a + 2 * b2n b)).get F.CMD_AUTHFAIL_LOCK
      = b2n a + 2 * b2n b := State.get_put (f := F.CMD_AUTHFAIL_LOCK) h.canonical (by cases a <;> cases b <;> decide)
  cases c with
  | tunnel n => exact absurd hr Bool.false_ne_true
  | uart =>
    refine ⟨rfl, rfl, ?_⟩
    rw [State.endLock, State.showLocks, hl]
    change bit (b2n false + 2 * b2n s.cmd.opt.lockEnd.isSome) 0 = false
    cases s.cmd.opt.lockEnd.isSome <;> decide
  | optical =>
    refine ⟨rfl, rfl, ?_⟩
    rw [State.endLock, State.showLocks, hl]
    change bit (b2n s.cmd.uart.lockEnd.isSome + 2 * b2n false) 1 = false
    cases s.cmd.uart.lockEnd.isSome <;> decide

theorem execLoginLockExpiry_eq {dt t0 : Nat} (h : (s.car c).lockEnd = some t0) :
    exec (.loginLockExpiry dt c) s = .next ((s.passTo dt t0).endLock c) := by
  change execLoginLockExpiry dt c s = _
  unfold execLoginLockExpiry
  rw [h]

theorem execChallengeExpiry_eq {dt : Nat} {q : Challenge} (h : (s.car c).chal = some q) : exec (.challengeExpiry dt c) s =
    .next ((s.passTo dt (q.sent + secs 60)).setCar c { (s.passTo dt (q.sent + secs 60)).car c with chal := none }) := by
  change execChallengeExpiry dt c s = _
  unfold execChallengeExpiry
  rw [h]

theorem execKeyLoadBufferExpiry_eq {dt t : Nat} {b : List Byte}
    (h : s.cmd.keyBuf.find? (fun b => sameCarrier b.1 c) = some (c, b, t)) :
    exec (.keyLoadBufferExpiry dt c) s = .next ((s.passTo dt (t + secs 60)).dropKeyBuf c) := by
  change execKeyLoadBufferExpiry dt c s = _
  unfold execKeyLoadBufferExpiry
  rw [h]

/-- No piece for a carrier is left once its buffer is dropped. -/
theorem State.dropKeyBuf_none : ∀ b ∈ (s.dropKeyBuf c).cmd.keyBuf, b.1 ≠ c := by
  intro b hb
  have h := (List.mem_filter.mp hb).2
  simpa [sameCarrier] using h

theorem State.keyBufOf_dropKeyBuf : (s.dropKeyBuf c).keyBufOf c = [] := by
  unfold State.keyBufOf
  rw [List.find?_eq_none.mpr fun b hb => by simpa [sameCarrier] using State.dropKeyBuf_none b hb]

/-- The error that a carrier waits for is sent, and nothing more is owed. -/
def State.answerOwed (s : State) (c : Carrier) (r : Resp) (l : LineForm) : State :=
  ((s.bump F.CMD_LINES_ERRORS 1).setCar c { s.car c with held := none, after := [] }).emit c (r.packet c (s.car c).invoke l)

theorem State.release_error {d : Deferred} {l : LineForm} {r : Resp} (hr : hasReceiver c = true) (hh : (s.car c).held = some (d, l))
    (ha : (s.car c).after = []) (h0 : r.code ≠ 0) : s.release c r = s.answerOwed c r l := by
  have hcar (x y : CarrierSt) (u : State) : (u.setCar c x).setCar c y = u.setCar c y := by
    cases c with
    | tunnel n => exact absurd hr Bool.false_ne_true
    | uart | optical => rfl
  have hb : (s.bump F.CMD_LINES_ERRORS 1).car c = s.car c := by cases c <;> rfl
  unfold State.release
  dsimp only
  rw [hh]
  dsimp only
  rw [if_neg h0, hb, ha, State.flushAfter, State.car_setCar hr, hcar]
  rfl

theorem State.answerOwed_spec {l : LineForm} (hr : hasReceiver c = true) (r : Resp) :
    ((s.answerOwed c r l).car c).held = none ∧ ((s.answerOwed c r l).car c).tx = (s.car c).tx ++ r.bytes l
      ∧ (s.answerOwed c r l).ame = s.ame := by
  have h := State.emit_emitted ((s.bump F.CMD_LINES_ERRORS 1).setCar c { s.car c with held := none, after := [] }) c
    (r.packet c (s.car c).invoke l)
  have hcar := State.car_setCar (s := s.bump F.CMD_LINES_ERRORS 1) hr { s.car c with held := none, after := [] }
  have hsent := h.sent
  have hame := congrArg State.ame h.rest
  refine ⟨h.held.trans (by rw [hcar]), ?_⟩
  cases c with
  | tunnel n => exact absurd hr Bool.false_ne_true
  | uart | optical => exact ⟨hsent, hame⟩

theorem State.endLockout_spec (hc : s.canonical = true) : s.endLockout.flag F.PAY_STAT_LOCKOUT = false
    ∧ s.endLockout.get F.PAY_STAT_REJRUN = 0 ∧ Changes [F.PAY_STAT_LOCKOUT.zone, F.PAY_STAT_REJRUN.zone] [.jrn] s s.endLockout := by
  have h1 : Changes [F.PAY_STAT_LOCKOUT.zone] [] s (s.clr F.PAY_STAT_LOCKOUT) := (Changes.refl hc).clr
  have h2 : Changes [F.PAY_STAT_REJRUN.zone] [] (s.clr F.PAY_STAT_LOCKOUT) ((s.clr F.PAY_STAT_LOCKOUT).clr F.PAY_STAT_REJRUN) :=
    (Changes.refl h1.canonical).clr
  have h3 : Changes [] [.jrn] ((s.clr F.PAY_STAT_LOCKOUT).clr F.PAY_STAT_REJRUN) s.endLockout := (Changes.refl h2.canonical).setJrn
  exact ⟨(h3.flag _).trans ((h2.flag _).trans (State.clr_flag hc)), (h3.get _).trans (State.clr_get h1.canonical),
    ((h1.mono).next h2).next h3⟩

end

/-- Settles O41: each timer ends what it holds, once its time has passed. -/
theorem sessionTimersExpire : Obligations.SessionTimersExpire := by
  unfold Obligations.SessionTimersExpire
  intro dt t0 c l q p k s hc hr
  refine ⟨fun h => ?lock, fun h => ?challenge, fun h => ?buffer, fun ha hcar hran hw hopen hh haf => ?shot, fun hrun hl ht => ?token⟩
  case lock =>
    obtain ⟨hnone, hup, hbit⟩ := State.endLock_spec (State.passTo_changes hc dt t0).canonical hr
    exact ⟨_, execLoginLockExpiry_eq h, hnone, hup ▸ State.passTo_uptime hc dt t0, hbit⟩
  case challenge =>
    have hp := State.passTo_changes hc dt (q.sent + secs 60)
    have hs := State.setCar_changes hp.canonical hr { (s.passTo dt (q.sent + secs 60)).car c with chal := none }
    have hcar := State.car_setCar (s := s.passTo dt (q.sent + secs 60)) hr { (s.passTo dt (q.sent + secs 60)).car c with chal := none }
    have hrole := congrArg CarrierSt.role (State.car_advance (c := c) hc (max dt (q.sent + secs 60 - s.uptime)))
    exact ⟨_, execChallengeExpiry_eq h, by rw [hcar], hs.uptime ▸ State.passTo_uptime hc dt _,
      by rw [hcar]; exact hrole⟩
  case buffer =>
    exact ⟨_, execKeyLoadBufferExpiry_eq h, State.keyBufOf_dropKeyBuf, State.dropKeyBuf_none, State.passTo_uptime hc dt _⟩
  case shot =>
    have hexec : exec .shotRequestAbandon s = .next (s.dropShot 4) := by
      change Host.Outcome.next (match s.ame.aclReq with | some q => _ | none => s) = _
      rw [ha]
      exact congrArg Host.Outcome.next (if_pos ⟨hopen, hran, hw⟩)
    have hd : s.dropShot 4 = ({ s with ame := { s.ame with aclReq := none } } : State).release c (errResp 4) := by
      unfold State.dropShot
      rw [ha, ← hcar]
    have hq : Changes [] [.ame] s { s with ame := { s.ame with aclReq := none } } := (Changes.refl hc).setAme
    have hcarq : ({ s with ame := { s.ame with aclReq := none } } : State).car c = s.car c := by cases c <;> rfl
    rw [State.release_error hr (hcarq ▸ hh) (hcarq ▸ haf) (by decide)] at hd
    obtain ⟨hheld, htx, hame⟩ := State.answerOwed_spec (s := { s with ame := { s.ame with aclReq := none } }) (l := l) hr (errResp 4)
    exact ⟨_, hexec.trans (congrArg Host.Outcome.next hd), hame, hheld, htx.trans (by rw [hcarq])⟩
  case token =>
    have hexec : exec .tokenLockoutExpiry s = .next s.endLockout := by
      change Host.Outcome.next (if s.ticking then s.checkLockout else s) = _
      rw [State.ticking, hrun]
      refine congrArg Host.Outcome.next ?_
      change s.checkLockout = _
      unfold State.checkLockout
      rw [hl]
      exact if_pos ht
    obtain ⟨hflag, hrej, h⟩ := State.endLockout_spec hc
    exact ⟨_, hexec, hflag, hrej, rfl, rfl, h.regsBut⟩

end Sys2Proof.Machine
end

section
set_option Elab.async false
/-! PROOF. The optical sign-on, and a line in recovery mode (Machine/Carriers.lean; R77, R119 to R124, R499). -/

namespace Sys2Proof.Machine

section
variable {s : State} {c : Carrier}

/-! ### Whether the carriers are awake -/

/-- What CMD_STAT shows of the carriers. -/
def carrierZones : List Zone := [F.CMD_STAT_UARTAWAKE.zone, F.CMD_STAT_OPTSTATE.zone]

/-- The stage of the optical carrier, as CMD_STAT shows it. -/
def State.optStage (s : State) : Nat := if !s.cmd.opt.awake then 0 else if s.inSession then 2 else 1

theorem State.showCarriers_spec (hc : s.canonical = true) : Changes carrierZones [] s s.showCarriers
    ∧ s.showCarriers.flag F.CMD_STAT_UARTAWAKE = s.cmd.uart.awake ∧ s.showCarriers.get F.CMD_STAT_OPTSTATE = s.optStage := by
  have h1 : Changes [F.CMD_STAT_UARTAWAKE.zone] [] s (s.putB F.CMD_STAT_UARTAWAKE s.cmd.uart.awake) := (Changes.refl hc).putB
  have h2 : Changes [F.CMD_STAT_OPTSTATE.zone] [] (s.putB F.CMD_STAT_UARTAWAKE s.cmd.uart.awake) s.showCarriers := (Changes.refl h1.canonical).put
  have hlt : s.optStage < 4 := by
    unfold State.optStage
    split
    · decide
    · split <;> decide
  exact ⟨(h1.mono).next h2, (h2.flag _).trans (State.putB_flag hc _), State.get_put h1.canonical hlt⟩

/-- Shown, and the power state settled. -/
theorem State.showSettled_spec (hc : s.canonical = true) :
    Changes (F.PWR_STATE_STATE.zone :: carrierZones) [] s s.showCarriers.settlePower
    ∧ s.showCarriers.settlePower.flag F.CMD_STAT_UARTAWAKE = s.cmd.uart.awake
    ∧ s.showCarriers.settlePower.get F.CMD_STAT_OPTSTATE = s.optStage := by
  obtain ⟨h1, huart, hopt⟩ := State.showCarriers_spec hc
  have h2 := State.settlePower_changes h1.canonical
  exact ⟨(h1.mono).next h2, (h2.flag _).trans huart, (h2.get _).trans hopt⟩

theorem State.endSessionOn_changes (hc : s.canonical = true) (hr : hasReceiver c = true) : Changes [] [.cmd] s (s.endSessionOn c) := by
  have h1 := State.setCar_changes hc hr { s.car c with role := .publicRole, chal := none }
  have h2 : Changes [] [.cmd] s (s.endSessionOn c) := h1.setCmd
  exact h2

/-! ### The sign-on -/

theorem State.setSign_spec (hc : s.canonical = true) (x : SignOn) : Changes carrierZones [.cmd] s (s.setSign x)
    ∧ (s.setSign x).cmd = { s.cmd with sign := x }
    ∧ (s.setSign x).get F.CMD_STAT_OPTSTATE = ({ s with cmd := { s.cmd with sign := x } } : State).optStage := by
  have h1 : Changes [] [.cmd] s { s with cmd := { s.cmd with sign := x } } := (Changes.refl hc).setCmd
  obtain ⟨h2, -, hopt⟩ := State.showCarriers_spec h1.canonical
  exact ⟨(h1.mono).next h2, h2.cmd, hopt⟩

/-- A request has come: the carrier is awake. -/
def State.requestHeard (s : State) : State := s.setCar .optical { s.car .optical with awake := true, lastChar := s.uptime, rx := [] }

theorem execSignOnRequest_eq {dt : Nat} {address : Text} (h : (s.advance dt).listening .optical = true) :
    exec (.signOnRequest dt address) s = .next ((s.advance dt).requestHeard.showCarriers.settlePower.signRequest address) := if_pos h

theorem State.inSession_of_cmd {t : State} (h : t.cmd.sign = s.cmd.sign) : t.inSession = s.inSession := by
  unfold State.inSession
  rw [h]

/-- A request with no address, or the device's, is noted. -/
theorem State.signRequest_noted {address : Text} (hc : s.canonical = true) (hs : s.inSession = false)
    (ha : address = [] ∨ upper address = s.devidText) :
    (s.requestHeard.showCarriers.settlePower.signRequest address).cmd.sign = .requested s.uptime
    ∧ (s.requestHeard.showCarriers.settlePower.signRequest address).cmd.opt.awake = true
    ∧ (s.requestHeard.showCarriers.settlePower.signRequest address).get F.CMD_STAT_OPTSTATE = 1 := by
  have h1 : Changes [] [.cmd] s s.requestHeard := State.setCar_changes hc rfl _
  obtain ⟨h2, -, -⟩ := State.showSettled_spec h1.canonical
  have hcmd : s.requestHeard.showCarriers.settlePower.cmd = s.requestHeard.cmd := h2.cmd
  have hup : s.requestHeard.showCarriers.settlePower.uptime = s.uptime := h2.uptime.trans h1.uptime
  have hid : s.requestHeard.showCarriers.settlePower.devidText = s.devidText := by
    unfold State.devidText
    rw [h2.rd F.MGMT_DEVID_HI, h2.rd F.MGMT_DEVID_LO]
    rfl
  have hsession : s.requestHeard.showCarriers.settlePower.inSession = false :=
    (State.inSession_of_cmd (congrArg Cmd.sign hcmd)).trans hs
  obtain ⟨-, hsign, hopt⟩ := State.setSign_spec h2.canonical (.requested s.requestHeard.showCarriers.settlePower.uptime)
  have heq : s.requestHeard.showCarriers.settlePower.signRequest address =
      s.requestHeard.showCarriers.settlePower.setSign (.requested s.requestHeard.showCarriers.settlePower.uptime) := by
    unfold State.signRequest
    rw [hsession, hid]
    exact if_pos ha
  rw [heq]
  generalize s.requestHeard.showCarriers.settlePower = u at *
  refine ⟨by rw [hsign, hup], by rw [hsign, hcmd]; rfl, hopt.trans ?_⟩
  change (if !u.cmd.opt.awake then 0 else 1) = 1
  rw [hcmd]
  rfl

/-- The identification is sent. -/
def State.identified (s : State) : State :=
  (s.emit .optical s.identText).setSign (.identified (s.uptime + 32768 * 10 * s.identText.length / 300))

theorem execIdentification_eq {dt t0 : Nat} (h : s.cmd.sign = .requested t0) (ht : (s.passTo dt (t0 + millis 200)).ticking = true) :
    exec (.identification dt) s = .next (s.passTo dt (t0 + millis 200)).identified := by
  change execIdentification dt s = _
  unfold execIdentification
  rw [h]
  exact if_pos ht

theorem State.emit_changes (hc : s.canonical = true) (hr : hasReceiver c = true) (b : List Byte) :
    Changes [] [.cmd, .ringSeq] s (s.emit c b) := by
  obtain ⟨h, t, ht, he⟩ := State.emit_serial (s := s) (c := c) (b := b) (by rintro n rfl; exact absurd hr Bool.false_ne_true)
  rw [he]
  rcases ht with rfl | rfl
  · exact (State.setCar_changes hc hr _).mono
  · have hs : Changes [] [.cmd, .ringSeq] s (s.nextSeq 6).2 := State.nextSeq_changes (.refl hc) 6
    exact hs.next (State.setCar_changes hs.canonical hr _)

/-- What is sent changes nothing else of the sign-on. -/
theorem State.emit_optical (s : State) (b : List Byte) : (s.emit .optical b).cmd.sign = s.cmd.sign
    ∧ (s.emit .optical b).cmd.opt.role = s.cmd.opt.role ∧ (s.emit .optical b).cmd.opt.rx = s.cmd.opt.rx := by
  obtain ⟨h, t, ht, he⟩ := State.emit_serial (s := s) (c := .optical) (b := b) nofun
  rw [he]
  rcases ht with rfl | rfl <;> exact ⟨rfl, rfl, rfl⟩

theorem State.identified_spec (hc : s.canonical = true) : s.identified.cmd.opt.tx = s.cmd.opt.tx ++ s.identText
    ∧ s.identified.uptime = s.uptime
    ∧ s.identified.cmd.sign = .identified (s.uptime + 32768 * 10 * s.identText.length / 300) := by
  have h1 := State.emit_changes hc (c := .optical) rfl s.identText
  have hsent := (State.emit_emitted s .optical s.identText).sent
  obtain ⟨h2, hcmd, -⟩ := State.setSign_spec h1.canonical (.identified (s.uptime + 32768 * 10 * s.identText.length / 300))
  refine ⟨?_, h2.uptime.trans h1.uptime, ?_⟩
  · rw [State.identified, hcmd]
    exact hsent
  · rw [State.identified, hcmd]

/-- The session that an option select opens, before its OK. -/
def State.sessionOpened (s : State) (n : Nat) : State :=
  let s1 := (s.advance (millis 300)).endSessionOn .optical
  (s1.setCar .optical { s1.car .optical with rx := [], bad := false, lastCr := false, slash := false, brk := 0 }).setSign (.session n)

/-- The character that ends an option select has come. -/
def State.optionHeard (s : State) : State := s.setCar .optical { s.car .optical with lastChar := s.uptime }

theorem execOptionSelect_eq {dt t0 : Nat} {z mode : Char} (h : (s.advance dt).cmd.sign = .identified t0)
    (hl : (s.advance dt).listening .optical = true) :
    exec (.optionSelect dt z mode) s = .next ((s.advance dt).optionHeard.takeOption t0 z mode) := by
  change execOptionSelect dt z mode s = _
  unfold execOptionSelect
  generalize s.advance dt = u at *
  dsimp only
  rw [h]
  exact if_pos hl

theorem State.sessionOpened_spec (hc : s.canonical = true) (n : Nat) (ha : s.cmd.opt.awake = true) :
    Changes (timeZones ++ carrierZones) timeParts s (s.sessionOpened n)
    ∧ (s.sessionOpened n).uptime = s.uptime + millis 300 ∧ (s.sessionOpened n).cmd.sign = .session n
    ∧ (s.sessionOpened n).cmd.opt.role = .publicRole ∧ (s.sessionOpened n).cmd.opt.rx = []
    ∧ (s.sessionOpened n).get F.CMD_STAT_OPTSTATE = 2 := by
  have h1 := State.advance_changes hc (millis 300)
  have h2 := State.endSessionOn_changes h1.canonical (c := .optical) rfl
  have h3 := State.setCar_changes h2.canonical (c := .optical) rfl
    { ((s.advance (millis 300)).endSessionOn .optical).car .optical with rx := [], bad := false, lastCr := false, slash := false, brk := 0 }
  obtain ⟨h4, hcmd, hopt⟩ := State.setSign_spec h3.canonical (.session n)
  have hawake := congrArg CarrierSt.awake (State.car_advance (c := .optical) hc (millis 300))
  refine ⟨(((h1.mono (W := timeZones ++ carrierZones)).next h2).next h3).next h4,
    (h4.uptime.trans (h3.uptime.trans h2.uptime)).trans (State.advance_uptime hc _), ?_, ?_, ?_, hopt.trans ?_⟩
  · exact congrArg Cmd.sign hcmd
  · exact (congrArg (fun x : Cmd => x.opt.role) hcmd :)
  · exact (congrArg (fun x : Cmd => x.opt.rx) hcmd :)
  · change (if !(s.advance (millis 300)).cmd.opt.awake then 0 else 2) = 2
    rw [show (s.advance (millis 300)).cmd.opt.awake = true from hawake.trans ha]
    rfl

theorem execOptionSelectTimeout_eq {dt t0 : Nat} (h : s.cmd.sign = .identified t0) :
    exec (.optionSelectTimeout dt) s = .next ((s.passTo dt (t0 + millis 1500)).setSign .waiting) := by
  change execOptionSelectTimeout dt s = _
  unfold execOptionSelectTimeout
  rw [h]

theorem execBreakMessage_eq {dt : Nat} (hl : (s.advance dt).listening .optical = true) (hs : (s.advance dt).inSession = true) :
    exec (.breakMessage dt) s = .next (s.advance dt).endOptical := congrArg Host.Outcome.next (if_pos ⟨hl, hs⟩)

theorem State.endOptical_spec (hc : s.canonical = true) : s.endOptical.cmd.sign = .waiting ∧ s.endOptical.cmd.opt.role = .publicRole
    ∧ s.endOptical.cmd.opt.rx = [] ∧ s.endOptical.get F.CMD_STAT_OPTSTATE = if s.cmd.opt.awake then 1 else 0 := by
  have h2 := State.endSessionOn_changes hc (c := .optical) rfl
  have h3 := State.setCar_changes h2.canonical (c := .optical) rfl
    { (s.endSessionOn .optical).car .optical with rx := [], bad := false, lastCr := false, slash := false, brk := 0 }
  obtain ⟨-, hcmd, hopt⟩ := State.setSign_spec h3.canonical .waiting
  refine ⟨congrArg Cmd.sign hcmd, (congrArg (fun x : Cmd => x.opt.role) hcmd :), (congrArg (fun x : Cmd => x.opt.rx) hcmd :), hopt.trans ?_⟩
  change (if !s.cmd.opt.awake then 0 else 1) = _
  cases s.cmd.opt.awake <;> rfl

end

/-- Settles O40: each message of the sign-on leads to its next stage, and what is late or wrong to waiting. -/
theorem opticalSignOn : Obligations.OpticalSignOn := by
  unfold Obligations.OpticalSignOn
  intro dt t0 z mode address s hc s1 late offered
  have h1 := State.advance_changes hc dt
  refine ⟨fun hl hs ha => ?request, fun hs hrun => ?identify, fun hs hl ho haw => ?opens, fun hs hl ho => ?refuse, fun hs => ?late,
    fun hl hs => ?breaks⟩
  case request => exact ⟨_, execSignOnRequest_eq hl, State.signRequest_noted h1.canonical hs ha⟩
  case identify =>
    obtain ⟨htx, hup, hsign⟩ := State.identified_spec (State.passTo_changes hc dt (t0 + millis 200)).canonical
    exact ⟨_, execIdentification_eq hs (decide_eq_true hrun), htx, hup ▸ State.passTo_uptime hc dt _, hsign.trans (by rw [hup])⟩
  case opens =>
    have hh : Changes [] [.cmd] s1 s1.optionHeard := State.setCar_changes h1.canonical rfl _
    obtain ⟨h2, hup, hsign, hrole, hrx, hstate⟩ := State.sessionOpened_spec hh.canonical (z.toNat - 48) haw
    have he := State.emit_emitted (s1.optionHeard.sessionOpened (z.toNat - 48)) .optical (textBytes (txt "OK") ++ crlf)
    have hc3 := State.emit_changes h2.canonical (c := .optical) rfl (textBytes (txt "OK") ++ crlf)
    have htake : s1.optionHeard.takeOption t0 z mode =
        (s1.optionHeard.sessionOpened (z.toNat - 48)).emit .optical (textBytes (txt "OK") ++ crlf) := if_pos ho
    obtain ⟨hsign', hrole', hrx'⟩ := State.emit_optical (s1.optionHeard.sessionOpened (z.toNat - 48)) (textBytes (txt "OK") ++ crlf)
    exact ⟨_, (execOptionSelect_eq hs hl).trans (congrArg Host.Outcome.next htake), hsign'.trans hsign, hrole'.trans hrole,
      hc3.uptime.trans (hup.trans (congrArg (· + millis 300) hh.uptime)), (hc3.get _).trans hstate, hrx'.trans hrx,
      _, he.sent.trans (List.append_assoc _ _ _).symm⟩
  case refuse =>
    have hh : Changes [] [.cmd] s1 s1.optionHeard := State.setCar_changes h1.canonical rfl _
    obtain ⟨-, hcmd, -⟩ := State.setSign_spec hh.canonical .waiting
    have htake : s1.optionHeard.takeOption t0 z mode = s1.optionHeard.setSign .waiting := if_neg ho
    exact ⟨_, (execOptionSelect_eq hs hl).trans (congrArg Host.Outcome.next htake), congrArg Cmd.sign hcmd,
      (congrArg (fun x : Cmd => x.opt.role) hcmd :)⟩
  case late =>
    have hp := State.passTo_changes hc dt (t0 + millis 1500)
    obtain ⟨h2, hcmd, -⟩ := State.setSign_spec hp.canonical .waiting
    exact ⟨_, execOptionSelectTimeout_eq hs, congrArg Cmd.sign hcmd, h2.uptime ▸ State.passTo_uptime hc dt _⟩
  case breaks => exact ⟨_, execBreakMessage_eq hl hs, State.endOptical_spec h1.canonical⟩

/-! ### A line in recovery mode -/

/-- Recovery mode, with a line begun on the UART. -/
def rescueLine : State :=
  { State.reset with
    pow := { State.reset.pow with stage := .recovery }
    cmd := { State.reset.cmd with uart := { State.reset.cmd.uart with awake := true, rx := [0x41#8] } } }

theorem rescueLine_runs : ∃ t, exec (.characterReceived 0 .uart 0x0D#8) rescueLine = .next t ∧ t.cmd.uart.lines = [] :=
  ⟨_, rfl, by decide +kernel⟩

/-- Refutes O39: the statement lets the UART listen in recovery mode too, where a line runs at its terminator (R499) and so does not
stay queued. -/
theorem not_carriersWakeReceiveAndSleep : ¬ Obligations.CarriersWakeReceiveAndSleep := by
  unfold Obligations.CarriersWakeReceiveAndSleep
  intro h
  obtain ⟨-, -, -, -, -, -, hline⟩ := h 0 .uart 0x0D#8 0 rescueLine (by decide +kernel)
  obtain ⟨t, ht, hqueued, -⟩ := hline (by decide +kernel) (by decide +kernel) (by decide +kernel) rfl (by decide +kernel)
    (by decide +kernel) (by decide +kernel) (by decide +kernel)
  obtain ⟨v, hv, hnone⟩ := rescueLine_runs
  obtain rfl : t = v := Host.Outcome.next.inj (ht.symm.trans hv)
  exact absurd (hqueued.symm.trans hnone) (List.cons_ne_nil _ _)

end Sys2Proof.Machine
end

section
set_option Elab.async false
/-! PROOF. The update session's end and a trial's (Machine/Update.lean; R502, R506). -/

namespace Sys2Proof.Machine

section
variable {s : State}

/-- What the slots of queued update messages show in as they are freed. -/
theorem State.freeUpdates_changes (hc : s.canonical = true) : Changes (consumeZones 8) (.mgmt :: safeParts) s s.freeUpdates := by
  have h : Changes (consumeZones 8) (.mgmt :: safeParts) s (s.mgmt.queue.foldl (fun (t : State) m => t.consume 8 [m.2.2]) s) :=
    (Changes.refl hc).foldl fun t m _ ht => ht.next (State.consume_changes ht.canonical 8 [m.2.2]) (fun _ h => h)
  exact h.setMgmt

/-- The slots' owner keeps its own records. -/
theorem State.freeUpdates_mgmt (hc : s.canonical = true) : s.freeUpdates.mgmt = { s.mgmt with queue := [] } := by
  have h : Changes (consumeZones 8) safeParts s (s.mgmt.queue.foldl (fun (t : State) m => t.consume 8 [m.2.2]) s) :=
    (Changes.refl hc).foldl fun t m _ ht => ht.next (State.consume_changes ht.canonical 8 [m.2.2]) (fun _ h => h)
  exact congrArg (fun m : Mgmt => { m with queue := [] }) h.mgmt

/-- The session shown as ended. -/
def State.sessionClosed (s : State) (reason : Nat) : State :=
  ((s.freeUpdates.setSession none).put F.MGMT_UPDSTAT_STATE 0).put F.MGMT_UPDSTAT_REASON reason

theorem State.sessionClosed_spec (hc : s.canonical = true) {reason : Nat} (hlt : reason < 16) :
    (s.sessionClosed reason).canonical = true ∧ (s.sessionClosed reason).updState = 0
    ∧ (s.sessionClosed reason).get F.MGMT_UPDSTAT_REASON = reason ∧ (s.sessionClosed reason).jrn.hid.session = none
    ∧ (s.sessionClosed reason).get F.MGMT_UPDCNT_FAILED = s.get F.MGMT_UPDCNT_FAILED
    ∧ (s.sessionClosed reason).uptime = s.uptime ∧ (s.sessionClosed reason).mgmt = { s.mgmt with queue := [] } := by
  have h0 := State.freeUpdates_changes hc
  have h1 : Changes [] [.jrn] s.freeUpdates (s.freeUpdates.setSession none) := (Changes.refl h0.canonical).setJrn
  have h2 : Changes [F.MGMT_UPDSTAT_STATE.zone] [] (s.freeUpdates.setSession none)
      ((s.freeUpdates.setSession none).put F.MGMT_UPDSTAT_STATE 0) := (Changes.refl h1.canonical).put
  have h3 : Changes [F.MGMT_UPDSTAT_REASON.zone] [] _ (s.sessionClosed reason) := (Changes.refl h2.canonical).put
  exact ⟨h3.canonical, (h3.get _).trans (State.get_put h1.canonical (by decide)), State.get_put h2.canonical hlt, rfl,
    (h3.get _).trans ((h2.get _).trans ((h1.get _).trans (h0.get _))), h0.uptime, State.freeUpdates_mgmt hc⟩

/-- The failure is counted, and answered at the next message. -/
def State.sessionCounted (s : State) (reason : Nat) : State :=
  let s2 := if reason = 0 then s else s.bump F.MGMT_UPDCNT_FAILED 1
  let s3 := (s2.clr F.MGMT_UPDPROG_NEXT).clr F.MGMT_UPDLEN_LENGTH
  { s3 with mgmt := { s3.mgmt with failed := if reason = 0 then none else some reason, verify := false, hdr := none } }

theorem State.endSession_eq (s : State) (reason : Nat) : s.endSession reason = (s.sessionClosed reason).sessionCounted reason := rfl

theorem State.sessionCounted_spec (hc : s.canonical = true) {reason : Nat} (h0 : reason ≠ 0) :
    Changes [F.MGMT_UPDCNT_FAILED.zone, F.MGMT_UPDPROG_NEXT.zone, F.MGMT_UPDLEN_LENGTH.zone] [.mgmt] s (s.sessionCounted reason)
    ∧ (s.sessionCounted reason).get F.MGMT_UPDCNT_FAILED = min (s.get F.MGMT_UPDCNT_FAILED + 1) 65535
    ∧ (s.sessionCounted reason).mgmt = { s.mgmt with failed := some reason, verify := false, hdr := none } := by
  unfold State.sessionCounted
  extract_lets s2 s3
  have h2 : s2 = s.bump F.MGMT_UPDCNT_FAILED 1 := if_neg h0
  have h1 : Changes [F.MGMT_UPDCNT_FAILED.zone] [] s s2 := h2 ▸ (Changes.refl hc).bump
  have h3 : Changes [F.MGMT_UPDPROG_NEXT.zone, F.MGMT_UPDLEN_LENGTH.zone] [] s2 s3 := ((Changes.refl h1.canonical).clr).clr
  have hcount : s2.get F.MGMT_UPDCNT_FAILED = min (s.get F.MGMT_UPDCNT_FAILED + 1) 65535 := h2 ▸ State.bump_get hc 1
  have hall : Changes [F.MGMT_UPDCNT_FAILED.zone, F.MGMT_UPDPROG_NEXT.zone, F.MGMT_UPDLEN_LENGTH.zone] [.mgmt] s s3 :=
    (h1.mono).next h3
  refine ⟨hall.setMgmt, ((Changes.refl (W := []) (L := [.mgmt]) h3.canonical).setMgmt.get _).trans ((h3.get _).trans hcount), ?_⟩
  rw [if_neg h0]
  exact congrArg (fun m : Mgmt => { m with failed := some reason, verify := false, hdr := none }) (h3.mgmt.trans h1.mgmt)

/-- A session that has failed leaves its reason, its count and no record. -/
theorem State.endSession_spec (hc : s.canonical = true) {reason : Nat} (h0 : reason ≠ 0) (hlt : reason < 16) :
    (s.endSession reason).updState = 0 ∧ (s.endSession reason).get F.MGMT_UPDSTAT_REASON = reason
    ∧ (s.endSession reason).mgmt.failed = some reason ∧ (s.endSession reason).mgmt.queue = []
    ∧ (s.endSession reason).jrn.hid.session = none
    ∧ (s.endSession reason).get F.MGMT_UPDCNT_FAILED = min (s.get F.MGMT_UPDCNT_FAILED + 1) 65535
    ∧ (s.endSession reason).uptime = s.uptime ∧ (s.endSession reason).mgmt.images = s.mgmt.images := by
  obtain ⟨hcl, hstate, hreason, hsession, hfailed, hup, hmgmt⟩ := State.sessionClosed_spec hc hlt
  obtain ⟨h, hcount, hm⟩ := State.sessionCounted_spec hcl h0
  rw [State.endSession_eq, hm, hcount, hfailed, h.jrn, h.uptime, hmgmt]
  exact ⟨(h.get _).trans hstate, (h.get _).trans hreason, rfl, rfl, hsession, rfl, hup, rfl⟩

/-- A trial confirmed: the boot record shows no trial, and the counter of the application's versions has risen to that of the image. -/
theorem State.confirmTrial_spec (hc : s.canonical = true) {old : Nat} (ht : s.mgmt.trial = some old)
    (hsvn : ∀ i, s.activeImage = some i → i.svn < 128) :
    s.confirmTrial.mgmt = { s.mgmt with trial := none } ∧ s.confirmTrial.flag F.MGMT_BOOT_TRIAL = false
    ∧ s.confirmTrial.get F.MGMT_SVN_APP = max (s.get F.MGMT_SVN_APP) (match s.activeImage with | some i => i.svn | none => 0)
    ∧ s.confirmTrial.get F.MGMT_SVN_MET = s.get F.MGMT_SVN_MET := by
  generalize hv : (match s.activeImage with | some i => i.svn | none => 0) = v
  have hlt : max (s.get F.MGMT_SVN_APP) v < 128 := by
    refine Nat.max_lt.mpr ⟨State.get_lt s F.MGMT_SVN_APP, ?_⟩
    rw [← hv]
    cases hi : s.activeImage with
    | none => decide
    | some i => exact hsvn i hi
  have h1 : Changes [] [.mgmt] s { s with mgmt := { s.mgmt with trial := none } } := (Changes.refl hc).setMgmt
  have h2 : Changes [F.MGMT_BOOT_TRIAL.zone] [] { s with mgmt := { s.mgmt with trial := none } }
      (({ s with mgmt := { s.mgmt with trial := none } } : State).clr F.MGMT_BOOT_TRIAL) := (Changes.refl h1.canonical).clr
  have h3 : Changes [F.MGMT_SVN_APP.zone] [] _ ((({ s with mgmt := { s.mgmt with trial := none } } : State).clr F.MGMT_BOOT_TRIAL).put
      F.MGMT_SVN_APP (max (s.get F.MGMT_SVN_APP) v)) := (Changes.refl h2.canonical).put
  have heq : s.confirmTrial = ((({ s with mgmt := { s.mgmt with trial := none } } : State).clr F.MGMT_BOOT_TRIAL).put F.MGMT_SVN_APP
      (max (s.get F.MGMT_SVN_APP) v)).legal 0x51 (imageData (s.mgmt.images.getD (1 + old) none) s.activeImage) := by
    unfold State.confirmTrial
    rw [ht, ← hv] <;> cases s.activeImage <;> rfl
  have h4 := State.legal_changes h3.canonical 0x51 (imageData (s.mgmt.images.getD (1 + old) none) s.activeImage)
  rw [heq]
  exact ⟨h4.mgmt, (h4.flag _).trans ((h3.flag _).trans (State.clr_flag h1.canonical)), (h4.get _).trans (State.get_put h2.canonical hlt),
    (h4.get _).trans ((h3.get _).trans ((h2.get _).trans (h1.get _)))⟩

end

/-- Settles O48: a silent owner fails its session, and a trial that has run its ticks is confirmed. -/
theorem sessionTimeoutAndTrialConfirmation : Obligations.SessionTimeoutAndTrialConfirmation := by
  unfold Obligations.SessionTimeoutAndTrialConfirmation
  intro dt old s hc u
  refine ⟨fun hs => ?timeout, fun hrun hdone ht hsvn => ?confirmed⟩
  case timeout =>
    have hu := State.passTo_changes hc dt (s.mgmt.lastAt + secs (s.get F.MGMT_UPDCFG_TIMEOUT))
    obtain ⟨hstate, hreason, hfailed, hqueue, hsession, hcount, hup, himages⟩ :=
      State.endSession_spec hu.canonical (reason := 7) (by decide) (by decide)
    have hexec : exec (.updateSessionTimeout dt) s = .next (u.endSession 7) := if_neg hs
    exact ⟨_, hexec, hstate, hreason, hfailed, hqueue, hsession, hcount, hup ▸ State.passTo_uptime hc dt _,
      himages.trans (congrArg Mgmt.images hu.mgmt)⟩
  case confirmed =>
    obtain ⟨hmgmt, hflag, happ, hmet⟩ := State.confirmTrial_spec hc ht hsvn
    have hexec : exec .trialConfirmation s = .next s.confirmTrial := congrArg Host.Outcome.next (if_pos ⟨hrun, hdone⟩)
    exact ⟨_, hexec, hmgmt, hflag, happ, happ ▸ Nat.le_max_left _ _, hmet⟩

end Sys2Proof.Machine
end

section
set_option Elab.async false
/-! PROOF. The pages of the display and the keypad (Machine/Display.lean, Machine/Keypad.lean; R340, R341, R416). -/

namespace Sys2Proof.Machine

section
variable {s : State}

/-! ### Retained bytes, one by one -/

/-- A retained byte. -/
def retByte (i : Nat) : Fld := ⟨F.RTC_RET (i / 4), 8 * (i % 4) + 7, 8 * (i % 4)⟩

theorem State.ret_eq (s : State) (i : Nat) : s.ret i = s.get (retByte i) := rfl

/-- The check that goes with every write. -/
theorem State.retSeal_bytes (hc : s.canonical = true) : Changes [(retByte 0x1E).zone, (retByte 0x1F).zone] [] s s.retSeal := by
  have h1 : Changes [(retByte 0x1E).zone, (retByte 0x1F).zone] [] s (s.put (retByte 0x1E) (s.retCheck % 256)) := (Changes.refl hc).put
  exact h1.put (f := retByte 0x1F)

theorem State.retWrite_one (hc : s.canonical = true) (v : Nat) :
    Changes [(retByte 7).zone, (retByte 0x1E).zone, (retByte 0x1F).zone] [] s (s.retWrite 7 [v])
    ∧ (v < 256 → (s.retWrite 7 [v]).ret 7 = v) := by
  have h1 : Changes [(retByte 7).zone] [] s (s.put (retByte 7) v) := (Changes.refl hc).put
  have h2 : Changes [(retByte 0x1E).zone, (retByte 0x1F).zone] [] (s.put (retByte 7) v) (s.retWrite 7 [v]) :=
    State.retSeal_bytes h1.canonical
  exact ⟨(h1.mono).next h2, fun hv => (h2.get (retByte 7)).trans (State.get_put hc hv)⟩

/-! ### Pages -/

/-- The display task is made ready: nothing but the ages of tasks changes. -/
theorem State.ready_changes (hc : s.canonical = true) (n : Nat) : Changes [] [.rm] s (s.ready n) := by
  unfold State.ready
  split
  · exact (Changes.refl hc).setRm
  · exact .refl hc

theorem State.ready_same (s : State) (n : Nat) : (s.ready n).regs = s.regs ∧ (s.ready n).disp = s.disp ∧ (s.ready n).kpd = s.kpd := by
  unfold State.ready
  split <;> exact ⟨rfl, rfl, rfl⟩

theorem State.firstPage_lowest {n : Nat} (hn : n < 16) (h : s.flag (F.DISP_PAGE_EN n) = true)
    (hlow : ∀ k, k < n → s.flag (F.DISP_PAGE_EN k) = false) : s.firstPage (fun _ => true) = some n := by
  refine List.find?_range_eq_some.mpr ⟨by simp [h], List.mem_range.mpr hn, fun k hk => by simp [hlow k hk]⟩

theorem State.nextPage_enabled {n : Nat} (h : s.flag (F.DISP_PAGE_EN ((n + 1) % 16)) = true) : s.nextPage n = some ((n + 1) % 16) := by
  unfold State.nextPage
  rw [List.range_succ_eq_map, List.map_cons, Nat.add_zero]
  exact List.find?_cons_of_pos h

theorem execPageReturn_eq {dt : Nat} (hr : s.get F.DISP_NAV_RETURN ≠ 0) (hm : s.dispMode ≠ 0) : exec (.pageReturn dt) s =
    (let s1 := s.passTo dt (s.disp.keyAt + secs (s.get F.DISP_NAV_RETURN))
     let s2 := { s1 with disp := { s1.disp with keyAt := s1.uptime } }
     .next ((s2.goPage (s2.firstPage (fun _ => true))).ready 1)) := if_neg (not_or.mpr ⟨hr, hm⟩)

theorem execPageScroll_eq {dt : Nat} (hr : s.get F.DISP_NAV_SCROLL ≠ 0) (hm : s.dispMode ≠ 0) : exec (.pageScroll dt) s =
    (let s1 := s.passTo dt (s.disp.scrollAt + secs (s.get F.DISP_NAV_SCROLL))
     let s2 := { s1 with disp := { s1.disp with scrollAt := s1.uptime } }
     .next ((s2.goPage (s2.nextPage s2.disp.page)).ready 1)) := if_neg (not_or.mpr ⟨hr, hm⟩)

/-! ### Keys -/

/-- A key accepted, before it moves the pages. -/
def State.keyTaken (s : State) (key : Nat) : State :=
  { s with kpd := { s.kpd with queue := s.kpd.queue ++ [key], lastKey := s.uptime, down := some key } }

theorem execKeyAccepted_eq {dt : Nat} {key : Fin 16} (ha : (s.advance dt).coreAlive = true) (hs : (s.advance dt).kpd.scanning = true)
    (hd : (s.advance dt).kpd.down = none) (hq : (s.advance dt).kpd.queue.length < 16) :
    exec (.keyAccepted dt key) s = .next (((((s.advance dt).keyTaken key.val).navKey key.val).ready 5).ready 1) := by
  change execKeyAccepted dt key s = _
  unfold execKeyAccepted
  generalize s.advance dt = u at *
  refine (if_pos ⟨ha, hs, hd⟩).trans ?_
  rw [if_pos hq]
  rfl

theorem State.goPage_spec (s : State) (p : Option Nat) : (s.goPage p).regs = s.regs ∧ (s.goPage p).kpd = s.kpd
    ∧ (s.goPage p).disp = { s.disp with page := p.getD s.disp.page } := by cases p <;> exact ⟨rfl, rfl, rfl⟩

/-- A key starts the display's times anew, and D moves to the next page. -/
theorem State.navKey_spec (s : State) (key : Nat) : (s.navKey key).regs = s.regs ∧ (s.navKey key).kpd = s.kpd
    ∧ (s.navKey key).disp.keyAt = s.uptime ∧ (key ≠ 15 → key ≠ 3 → (s.navKey key).disp.page = s.disp.page)
    ∧ (key = 15 → (s.navKey key).disp.page = (s.nextPage s.disp.page).getD s.disp.page) := by
  unfold State.navKey
  extract_lets src s1
  obtain ⟨hregs, hkpd, hdisp⟩ := State.goPage_spec s1 (s1.nextPage s1.disp.page)
  obtain ⟨hregs3, hkpd3, hdisp3⟩ := State.goPage_spec s1 (s1.firstPage (fun n => decide (s1.get (F.DISP_PAGE_SRC n) = 15)))
  split
  · rename_i h
    refine ⟨hregs, hkpd, ?_, fun h15 => absurd h h15, fun _ => ?_⟩
    · rw [hdisp]
    · rw [hdisp]
      rfl
  · split
    · rename_i h15 h
      refine ⟨hregs3, hkpd3, ?_, fun _ h3 => absurd h h3, fun he => absurd he h15⟩
      rw [hdisp3]
    · rename_i h15 h3
      exact ⟨rfl, rfl, rfl, fun _ _ => rfl, fun he => absurd he h15⟩

theorem execKeypadWake_alive {dt : Nat} (ha : (s.advance dt).coreAlive = true) : exec (.keypadWake dt) s =
    .next { (s.advance dt).wakeCore with kpd := { (s.advance dt).kpd with scanning := true } } :=
  congrArg Host.Outcome.next (if_pos ha)

theorem execKeypadWake_hibernate {dt : Nat} (hs : (s.advance dt).pow.stage = .hibernate)
    (hw : (s.advance dt).flag F.PWR_CTRL_WAKE_KEY = true) : exec (.keypadWake dt) s =
    .next ((s.advance dt).retWrite 7 [Nat.lor ((s.advance dt).ret 7) 2]) := by
  have hdead : ¬(s.advance dt).coreAlive = true := by
    unfold State.coreAlive
    rw [hs]
    exact Bool.false_ne_true
  exact congrArg Host.Outcome.next ((if_neg hdead).trans (if_pos ⟨hs, hw⟩))

/-- The keypad's entry is discarded. -/
def State.entryForgotten (s : State) : State := { s with kpd := { s.kpd with entry := [] } }

theorem execEntryTimeout_eq {dt : Nat} (h : s.kpd.entry ≠ []) : exec (.entryTimeout dt) s =
    .next ((s.passTo dt (s.kpd.lastKey + secs 60)).entryForgotten.ready 1) := if_neg h

theorem State.wakeCore_onlyRegs (s : State) : s.wakeCore = { s with regs := s.wakeCore.regs } := by
  unfold State.wakeCore
  split <;> rfl

theorem bit_eq_testBit (v i : Nat) : bit v i = v.testBit i := by simp [bit, Nat.testBit_eq_decide_div_mod_eq]

end

/-- Settles O55: the pages follow their times and the keys, and the keypad takes one key at a time. -/
theorem pagesAndKeys : Obligations.PagesAndKeys := by
  unfold Obligations.PagesAndKeys
  intro dt n key s hc back on u takes
  have hu := State.advance_changes hc dt
  refine ⟨fun hr hm hn hen hlow => ?returns, fun hr hm hp hen => ?scrolls, fun ha => ?wakes, fun hs hw => ?latches,
    fun ⟨ha, hs, hd, hq⟩ => ?takes, fun hd => ?held, ?released, fun he => ?forgets⟩
  case returns =>
    have hfirst : ({ back with disp := { back.disp with keyAt := back.uptime } } : State).firstPage (fun _ => true) = some n :=
      State.firstPage_lowest hn hen hlow
    obtain ⟨hregs, hdisp, -⟩ := State.ready_same (({ back with disp := { back.disp with keyAt := back.uptime } } : State).goPage (some n)) 1
    refine ⟨_, execPageReturn_eq hr hm, ?_⟩
    dsimp only
    rw [hfirst]
    exact ⟨hdisp, hregs⟩
  case scrolls =>
    have hnext : ({ on with disp := { on.disp with scrollAt := on.uptime } } : State).nextPage on.disp.page = some ((on.disp.page + 1) % 16) :=
      State.nextPage_enabled hen
    obtain ⟨hregs, hdisp, -⟩ := State.ready_same
      (({ on with disp := { on.disp with scrollAt := on.uptime } } : State).goPage (some ((on.disp.page + 1) % 16))) 1
    refine ⟨_, execPageScroll_eq hr hm, ?_⟩
    dsimp only
    rw [hnext]
    exact ⟨hdisp, hregs⟩
  case wakes =>
    have hw := State.wakeCore_changes hu.canonical
    refine ⟨_, execKeypadWake_alive ha, ?_, hw.regsBut⟩
    exact congrArg (fun v : State => { v with kpd := { u.kpd with scanning := true } }) (State.wakeCore_onlyRegs u)
  case latches =>
    have hlt : Nat.lor (u.ret 7) 2 < 256 := Nat.or_lt_two_pow (n := 8) (State.get_lt u (retByte 7)) (by decide)
    obtain ⟨hch, hret⟩ := State.retWrite_one hu.canonical (Nat.lor (u.ret 7) 2)
    refine ⟨_, execKeypadWake_hibernate hs hw, ?_, hch.get (retByte 8)⟩
    change bit ((u.retWrite 7 [Nat.lor (u.ret 7) 2]).ret 7) 1 = true
    rw [hret hlt, bit_eq_testBit]
    exact (Nat.testBit_or _ _ _).trans (Bool.or_true _)
  case takes =>
    obtain ⟨hregs, hkpd, hat, hsame, hnext⟩ := State.navKey_spec (u.keyTaken key.val) key.val
    obtain ⟨hr5, hd5, hk5⟩ := State.ready_same ((u.keyTaken key.val).navKey key.val) 5
    obtain ⟨hr1, hd1, hk1⟩ := State.ready_same (((u.keyTaken key.val).navKey key.val).ready 5) 1
    refine ⟨_, execKeyAccepted_eq ha hs hd hq, hk1.trans (hk5.trans hkpd), ?_, hr1.trans (hr5.trans hregs), fun h15 h3 => ?_, fun h15 => ?_⟩
    · exact (congrArg Disp.keyAt (hd1.trans hd5)).trans hat
    · exact (congrArg Disp.page (hd1.trans hd5)).trans (hsame h15 h3)
    · exact (congrArg Disp.page (hd1.trans hd5)).trans (hnext h15)
  case held =>
    refine ⟨u, ?_, rfl⟩
    change execKeyAccepted dt key s = _
    exact if_neg fun h => hd h.2.2
  case released => exact ⟨_, rfl, rfl⟩
  case forgets =>
    have hp := State.passTo_changes hc dt (s.kpd.lastKey + secs 60)
    have hk : Changes [] [.kpd] (s.passTo dt (s.kpd.lastKey + secs 60)) (s.passTo dt (s.kpd.lastKey + secs 60)).entryForgotten :=
      (Changes.refl hp.canonical).setKpd
    have hr := State.ready_changes hk.canonical 1
    refine ⟨_, execEntryTimeout_eq he, ?_, ?_, ?_⟩
    · exact hr.kpd.trans (congrArg (fun k : Keypad => { k with entry := [] }) hp.kpd)
    · exact (State.passTo_uptime hc dt _).trans_eq (hr.uptime.trans hk.uptime).symm
    · unfold State.credit
      rw [hr.rd F.PAY_CREDIT_LO, hr.rd F.PAY_CREDIT_HI, hk.rd F.PAY_CREDIT_LO, hk.rd F.PAY_CREDIT_HI, hp.rd F.PAY_CREDIT_LO,
        hp.rd F.PAY_CREDIT_HI]

end Sys2Proof.Machine
end

section
set_option Elab.async false
/-! PROOF. The Carousel and its tokens: what a write leaves, and that faults and the passage of time write the trouble log's part alone
(Machine/Ops.lean, Machine/Clock.lean; R50 to R54, R481). -/

namespace Sys2Proof.Machine

/-! ### Bytes at consecutive addresses -/

section
variable {α : Type} [DecidableEq α] {d : Nat → α} {l : List (Nat × α)}

theorem sget_ssetAll_ne {k j : Nat} {vs : List α} (hj : j < k ∨ k + vs.length ≤ j) : sget d (ssetAll d l k vs) j = sget d l j := by
  induction vs generalizing l k with
  | nil => rfl
  | cons v vs ih =>
    rw [List.length_cons] at hj
    exact (ih (by omega)).trans (sget_sset_ne (by omega))

omit [DecidableEq α] in
theorem sgetAll_congr {m : List (Nat × α)} {k n : Nat} (h : ∀ j, k ≤ j → j < k + n → sget d m j = sget d l j) :
    sgetAll d m k n = sgetAll d l k n := by
  induction n generalizing k with
  | zero => rfl
  | succ n ih => exact congrArg₂ List.cons (h k (by omega) (by omega)) (ih fun j h1 h2 => h j (by omega) (by omega))

omit [DecidableEq α] in
theorem sgetAll_length {k n : Nat} : (sgetAll d l k n).length = n := by
  induction n generalizing k with
  | zero => rfl
  | succ n ih => exact congrArg (· + 1) ih

omit [DecidableEq α] in
theorem sgetAll_add {k m n : Nat} : sgetAll d l k (m + n) = sgetAll d l k m ++ sgetAll d l (k + m) n := by
  induction m generalizing k with
  | zero => rw [Nat.zero_add, Nat.add_zero]; rfl
  | succ m ih =>
    rw [Nat.add_right_comm]
    refine congrArg (sget d l k :: ·) (ih.trans ?_)
    rw [show k + 1 + m = k + (m + 1) by omega]
    rfl

/-- What has been written at consecutive keys reads back. -/
theorem sgetAll_ssetAll {k : Nat} {vs : List α} (h : swf d l = true) : sgetAll d (ssetAll d l k vs) k vs.length = vs := by
  induction vs generalizing l k with
  | nil => rfl
  | cons v vs ih =>
    have hfirst : sget d (ssetAll d (sset d l k v) (k + 1) vs) k = v := (sget_ssetAll_ne (.inl (Nat.lt_succ_self k))).trans (sget_sset_same h)
    exact congrArg₂ List.cons hfirst (ih (sset_swf h))

end

/-! ### The trouble log's part -/

/-- From `s` no byte and no token of the Carousel differs but the trouble log's. -/
structure LogOnly (s t : State) : Prop where
  bytes : ∀ a, a < 0x21016400 ∨ 0x2101A400 ≤ a → t.crsByte a = s.crsByte a
  tokens : ∀ i, i < 712 ∨ 840 ≤ i → t.token i = s.token i

section
variable {s t u : State} {W : List Zone} {L : List Part}

theorem LogOnly.refl (s : State) : LogOnly s s := ⟨fun _ _ => rfl, fun _ _ => rfl⟩

theorem LogOnly.trans (h : LogOnly s t) (k : LogOnly t u) : LogOnly s u :=
  ⟨fun a ha => (k.bytes a ha).trans (h.bytes a ha), fun i hi => (k.tokens i hi).trans (h.tokens i hi)⟩

theorem LogOnly.of_same (hc : t.crs = s.crs) (ht : t.tok = s.tok) : LogOnly s t :=
  ⟨fun a _ => by rw [State.crsByte, hc]; rfl, fun i _ => by rw [State.token, ht]; rfl⟩

/-- An operation that keeps the Carousel and its tokens. -/
theorem Changes.logOnly (h : Changes W L s t) (hp : ∀ p ∈ [Part.crs, .tok], p ∉ L := by decide) : LogOnly s t :=
  .of_same (h.crs (hp .crs (by decide))) (h.tok (hp .tok (by decide)))

theorem LogOnly.ite {c : Prop} [Decidable c] {s0 : State} (hs : LogOnly s0 s) (ht : LogOnly s0 t) : LogOnly s0 (if c then s else t) := by
  split
  · exact hs
  · exact ht

theorem LogOnly.foldl {α : Type} {f : State → α → State} {xs : List α} {s0 : State} (h : LogOnly s0 s)
    (hf : ∀ t, ∀ x ∈ xs, LogOnly s0 t → LogOnly s0 (f t x)) : LogOnly s0 (xs.foldl f s) := by
  induction xs generalizing s with
  | nil => exact h
  | cons x xs ih => exact ih (hf s x List.mem_cons_self h) fun t y hy => hf t y (List.mem_cons_of_mem x hy)

theorem LogOnly.crsBytes (h : LogOnly s t) {a n : Nat} (ha : a + n ≤ 0x21016400 ∨ 0x2101A400 ≤ a) : t.crsBytes a n = s.crsBytes a n :=
  sgetAll_congr fun j h1 h2 => h.bytes j (by omega)

/-! ### Tokens -/

theorem State.token_setToken_ne {i j v : Nat} (h : j ≠ i) : (s.setToken i v).token j = s.token j := sget_sset_ne h

theorem State.token_setToken (hc : s.canonical = true) {i v : Nat} : (s.setToken i v).token i = v := by
  obtain ⟨-, -, -, htok, -⟩ := storesCanonical_iff.mp hc
  exact sget_sset_same htok

theorem State.moveToken_tok (s : State) (r i v : Nat) : (s.moveToken r i v).tok = (s.setToken i v).tok := by
  unfold State.moveToken
  extract_lets f old s1 new
  split
  · rfl
  · split <;> rfl

theorem State.token_moveToken_ne {r i j v : Nat} (h : j ≠ i) : (s.moveToken r i v).token j = s.token j := by
  rw [State.token, State.moveToken_tok]
  exact State.token_setToken_ne h

theorem State.token_moveToken (hc : s.canonical = true) {r i v : Nat} : (s.moveToken r i v).token i = v := by
  rw [State.token, State.moveToken_tok]
  exact State.token_setToken hc

theorem State.moveToken_crs (s : State) (r i v : Nat) : (s.moveToken r i v).crs = s.crs := by
  unfold State.moveToken
  extract_lets f old s1 new
  split
  · rfl
  · split <;> rfl

/-! ### The operations that log -/

/-- A token moved in the trouble log's part. -/
theorem LogOnly.moveToken {s0 : State} (h : LogOnly s0 s) {r i v : Nat} (hi : 712 ≤ i ∧ i < 840) : LogOnly s0 (s.moveToken r i v) :=
  h.trans ⟨fun a _ => by rw [State.crsByte, State.moveToken_crs]; rfl, fun j hj => State.token_moveToken_ne (by omega)⟩

/-- Bytes written in it. -/
theorem LogOnly.crsWrite {s0 : State} (h : LogOnly s0 s) {a : Nat} {bs : List Byte} (ha : 0x21016400 ≤ a)
    (hl : a + bs.length ≤ 0x2101A400) : LogOnly s0 (s.crsWrite a bs) :=
  h.trans ⟨fun b hb => sget_ssetAll_ne (by omega), fun _ _ => rfl⟩

/-- Registers written. -/
theorem LogOnly.put {s0 : State} (h : LogOnly s0 s) (f : Fld) (v : Nat) : LogOnly s0 (s.put f v) := h.trans (.of_same rfl rfl)

theorem State.logTrouble_onlyLog (s : State) (code source data : Nat) : LogOnly s (s.logTrouble code source data) := by
  unfold State.logTrouble
  extract_lets -merge -underBinder n flags e slot s1 s2 s3
  have he : e.length = 16 := by
    simp only [e, bytesLE, List.length_append, List.length_cons, List.length_nil]
  have ha : 0x21016400 ≤ troubleAddr n ∧ troubleAddr n + e.length ≤ 0x2101A400 := by
    rw [he, troubleAddr]
    omega
  have hslot : 712 ≤ slot ∧ slot < 840 := by
    dsimp only [slot]
    omega
  have h1 : LogOnly s s1 := ((LogOnly.refl s).moveToken hslot).crsWrite ha.1 ha.2
  have h2 : LogOnly s s2 := h1.moveToken hslot
  have h3 : LogOnly s s3 := .ite (h2.put _ _) h2
  exact (h3.put _ _).put _ _

theorem State.showFault_onlyLog (s : State) (code source data : Nat) : LogOnly s (s.showFault code source data) := by
  have h := State.logTrouble_onlyLog s code source data
  unfold State.showFault
  cases faultBit code with
  | none => exact h
  | some b => exact h.put _ _

theorem State.noteFault_onlyLog (hc : s.canonical = true) (code source data : Nat) (r : Reaction) :
    LogOnly s (s.noteFault code source data r) :=
  (State.showFault_onlyLog s code source data).trans (State.noteFault_after hc code source data r).logOnly

theorem State.enterSafe_onlyLog (hc : s.canonical = true) (code : Nat) : LogOnly s (s.enterSafe code) := by
  unfold State.enterSafe
  split
  · have h : Changes safeZones [] s ((s.put F.SAFE_STAT_CAUSE code).clr F.SAFE_STAT_EXITCNT) := ((Changes.refl hc).put).clr
    exact h.logOnly.trans (State.noteAck_changes h.canonical code).logOnly
  · extract_lets -merge -underBinder s1 s2 s3 src s4
    have h1 := State.logTrouble_changes hc 0x80 code 0
    have h2 : Changes safeZones [] s1 (s2.bump F.SAFE_CNT_ENTRIES 1) :=
      (((Changes.refl h1.canonical).set1 (f := F.SAFE_STAT_SAFE)).put (f := F.SAFE_STAT_CAUSE)).clr.bump
    have h3 := State.legal_changes h2.canonical 0x35 [byte code]
    have hs : Changes [] [.safe] s3 { s3 with safe := { s3.safe with since := s3.rm.tick } } := (Changes.refl h3.canonical).setSafe
    have ha := State.noteAck_changes hs.canonical code
    have h4 := State.zcRefuse_changes ha.canonical 7
    have hlog : LogOnly s s4 := (State.logTrouble_onlyLog s 0x80 code 0).trans
      (h2.logOnly.trans (h3.logOnly.trans (hs.logOnly.trans (ha.logOnly.trans h4.logOnly))))
    exact .ite (hlog.trans (State.demandClose_changes h4.canonical).logOnly) hlog

theorem State.detect_onlyLog (hc : s.canonical = true) (code source data : Nat) (r : Reaction) :
    LogOnly s (s.detect code source data r) := by
  have hn (r : Reaction) := State.noteFault_onlyLog hc code source data r
  have he (r : Reaction) := (hn r).trans (State.enterSafe_onlyLog (State.noteFault_changes hc code source data r).canonical code)
  cases r with
  | atOnce => exact he .atOnce
  | second => exact .ite (he .second) (hn .second)
  | logOnly => exact hn .logOnly
  | exits => exact hn .exits

/-- A fault of each uncorrectable word, and the reset that it asks for. -/
theorem State.eccMeet_onlyLog (hc : s.canonical = true) (a n : Nat) : LogOnly s (s.eccMeet a n) := by
  unfold State.eccMeet
  extract_lets -merge -underBinder met corr src src2 s1
  have h0 : Changes eccZones [.ecc, .safe] s src := (Changes.refl hc).bump
  have h1 : Changes eccZones [.ecc, .safe] s s1 := (h0.setEcc (x := s.ecc.filter fun w => !inWords a n w.1)).setSafe
  have hfold (l : List (Nat × Bool)) {t : State} (ht : t.canonical = true) (hlog : LogOnly s t) :
      LogOnly s (l.foldl (fun (t : State) w =>
        ((t.set1 F.SYS_CRS_ECC_UNCORR).detect 0x21 0xFF (0x21000000 + 4 * w.1) .atOnce).safetyReset 0x21) t) := by
    induction l generalizing t with
    | nil => exact hlog
    | cons w l ih =>
      have hset : (t.set1 F.SYS_CRS_ECC_UNCORR).canonical = true := State.put_canonical ht
      have hd := State.detect_changes hset 0x21 0xFF (0x21000000 + 4 * w.1) .atOnce
      have hr := State.safetyReset_changes hd.canonical 0x21
      exact ih hr.canonical ((hlog.put _ _).trans ((State.detect_onlyLog hset _ _ _ _).trans hr.logOnly))
  exact .ite (.refl s) (hfold _ h1.canonical h1.logOnly)

/-! ### The passage of time -/

theorem State.cdtExpire_onlyLog (hc : s.canonical = true) : LogOnly s s.cdtExpire := by
  have h1 : Changes cdtZones [] s ((s.clr F.RTC_CDT_COUNT).set1 F.RTC_STAT_CDTEXP) := ((Changes.refl hc).clr).set1
  have h2 := State.wakeCore_changes h1.canonical
  exact .ite (h1.logOnly.trans (h2.logOnly.trans (State.logTrouble_onlyLog _ _ _ _)))
    (.ite (h1.logOnly.trans (State.retWrite_changes h1.canonical).logOnly) h1.logOnly)

theorem State.cdtEdges_onlyLog (hc : s.canonical = true) (e : Nat) : LogOnly s (s.cdtEdges e) := by
  have h1 : Changes [] [.rtc] s { s with rtc := { s.rtc with pre := (s.rtc.pre + e) % 128 } } := (Changes.refl hc).setRtc
  exact .ite h1.logOnly (.ite (h1.logOnly.trans (State.cdtExpire_onlyLog h1.canonical)) (h1.logOnly.put _ _))

theorem State.setCount_onlyLog (hc : s.canonical = true) (write : Bool) (c : Nat) : LogOnly s (s.setCount write c) := by
  have h1 : Changes timeZones [] s ((s.put F.RTC_SEC_SEC (c / 65536)).put F.RTC_FRAC_FRAC (c % 65536)) := ((Changes.refl hc).put).put
  exact .ite (h1.logOnly.trans (State.setOsf_changes (W := timeZones) h1.canonical (by decide) (by decide) (by decide)).logOnly) h1.logOnly

theorem State.edges_onlyLog (hc : s.canonical = true) (write : Bool) (e : Nat) : LogOnly s (s.edges write e) := by
  cases hx : s.rtc.xtRun with
  | true =>
    have h1 : Changes timeZones [.rtc] s (s.trimTo e) := ((Changes.refl hc).putI).setRtc
    rw [State.edges_of_xtRun hc hx]
    exact h1.logOnly.trans ((State.setCount_onlyLog h1.canonical _ _).trans
      (State.cdtEdges_onlyLog (State.setCount_changes h1.canonical write (s.count + s.gain e)).canonical e))
  | false =>
    rw [State.edges, hx, if_neg Bool.false_ne_true]
    exact .ite (State.setCount_onlyLog hc write _) (.refl s)

theorem State.applyTime_onlyLog (hc : s.canonical = true) (v : Nat) : LogOnly s (s.applyTime v) := by
  unfold State.applyTime
  extract_lets -merge -underBinder old oldFrac step was s1 s2 s3 rec1 src s4 s5
  have hs1 : Changes timeZones [.rtc, .jrn] s s1 := (((Changes.refl hc).put).clr).clr
  have hs2 : Changes timeZones [.rtc, .jrn] s s2 := ((hs1.putI).put).set1
  have hs3 : Changes timeZones [.rtc, .jrn] s s3 := .ite (((((hs2.set1).clr).clr).clr).clr) hs2
  have hs4 : Changes timeZones [.rtc, .jrn] s s4 := hs3.setRtc
  have hs5 : Changes timeZones [.rtc, .jrn] s s5 := hs4.next (State.linkShift_changes hs4.canonical _)
  split
  · exact hs5.logOnly
  · exact (Changes.setJrn hs5).logOnly

theorem State.writeEdges_onlyLog (hc : s.canonical = true) (e : Nat) : LogOnly s (s.writeEdges e) := by
  unfold State.writeEdges
  split
  · exact State.edges_onlyLog hc false e
  · rename_i v k _
    have h1 := State.edges_changes hc false (k - 1)
    have h2 := State.edges_changes h1.canonical true (min k 1)
    have h3 := State.applyTime_changes h2.canonical v
    have hr : Changes [] [.rtc] (s.edges false e) { s.edges false e with rtc := { (s.edges false e).rtc with wr := some (v, k - e) } } :=
      (Changes.refl (State.edges_changes hc false e).canonical).setRtc
    refine .ite (.refl s) (.ite ?_ ((State.edges_onlyLog hc false e).trans hr.logOnly))
    exact (State.edges_onlyLog hc false (k - 1)).trans ((State.edges_onlyLog h1.canonical true (min k 1)).trans
      ((State.applyTime_onlyLog h2.canonical v).trans (State.edges_onlyLog h3.canonical false (e - k))))

/-- While time passes the Carousel changes in the trouble log's part alone. -/
theorem State.advance_onlyLog (hc : s.canonical = true) (dt : Nat) : LogOnly s (s.advance dt) := by
  refine LogOnly.trans (t := s.clockEdges dt) ?_ (.of_same rfl rfl)
  have h1 := State.writeEdges_changes hc 1
  have h2 := State.latchCapture_changes h1.canonical
  exact .ite ((State.writeEdges_onlyLog hc 1).trans (h2.logOnly.trans (State.writeEdges_onlyLog h2.canonical (dt - 1))))
    (State.writeEdges_onlyLog hc dt)

theorem State.passTo_onlyLog (hc : s.canonical = true) (dt t : Nat) : LogOnly s (s.passTo dt t) := State.advance_onlyLog hc _

end

end Sys2Proof.Machine
end

section
set_option Elab.async false
/-! PROOF. Records of the Carousel: what a producer's way through the slots of its ring leaves (Machine/Ops.lean; R50 to R53). -/

namespace Sys2Proof.Machine

section
variable {s : State}

/-! ### Slots in their order -/

theorem slotsFrom_zero (slot : Nat) : slotsFrom slot 0 = [] := rfl

theorem slotsFrom_succ (slot n : Nat) : slotsFrom slot (n + 1) = slot :: slotsFrom (slot + 1) n := by
  simp only [slotsFrom, List.range_succ_eq_map, List.map_cons, List.map_map, Nat.add_zero]
  exact congrArg _ (List.map_congr_left fun k _ => by simp only [Function.comp, Nat.succ_eq_add_one]; omega)

theorem mem_slotsFrom {slot n i : Nat} : i ∈ slotsFrom slot n ↔ slot ≤ i ∧ i < slot + n := by
  simp only [slotsFrom, List.mem_map, List.mem_range]
  constructor
  · rintro ⟨k, hk, rfl⟩
    omega
  · rintro ⟨h1, h2⟩
    exact ⟨i - slot, by omega, by omega⟩

/-! ### Tokens moved -/

theorem State.moveAll_canonical (hc : s.canonical = true) (r : Nat) (slots : List Nat) (v : Nat) : (s.moveAll r slots v).canonical = true :=
  (State.moveAll_changes (W := [(F.SYS_RING_B_FILL r).zone]) (L := [.tok]) (.refl hc) r slots v
    ⟨_, List.mem_singleton_self _, Fld.zone_covers _⟩).canonical

theorem State.moveAll_crs (s : State) (r : Nat) (slots : List Nat) (v : Nat) : (s.moveAll r slots v).crs = s.crs := by
  induction slots generalizing s with
  | nil => rfl
  | cons i l ih => exact (ih (s.moveToken r i v)).trans (State.moveToken_crs s r i v)

theorem State.token_moveAll_of_not_mem {r v i : Nat} {slots : List Nat} (h : i ∉ slots) : (s.moveAll r slots v).token i = s.token i := by
  induction slots generalizing s with
  | nil => rfl
  | cons j l ih =>
    rw [List.mem_cons, not_or] at h
    exact (ih h.2).trans (State.token_moveToken_ne h.1)

theorem State.token_moveAll_of_mem {r v i : Nat} {slots : List Nat} (hc : s.canonical = true) (h : i ∈ slots) :
    (s.moveAll r slots v).token i = v := by
  induction slots generalizing s with
  | nil => exact absurd h (by simp)
  | cons j l ih =>
    have hj : (s.moveToken r j v).canonical = true := State.moveAll_canonical hc r [j] v
    by_cases hl : i ∈ l
    · exact ih hj hl
    · rcases List.mem_cons.mp h with rfl | h
      · exact (State.token_moveAll_of_not_mem hl).trans (State.token_moveToken hc)
      · exact absurd h hl

/-! ### Bytes written -/

theorem State.crsWrite_canonical (hc : s.canonical = true) (a : Nat) (bs : List Byte) : (s.crsWrite a bs).canonical = true :=
  (State.crsWrite_keeps (Keeps.refl s)).2.1 hc

theorem State.crsBytes_crsWrite (hc : s.canonical = true) {a : Nat} {bs : List Byte} : (s.crsWrite a bs).crsBytes a bs.length = bs :=
  sgetAll_ssetAll (storesCanonical_iff.mp hc).2.2.1

theorem State.crsByte_crsWrite_ne {a b : Nat} {bs : List Byte} (h : b < a ∨ a + bs.length ≤ b) : (s.crsWrite a bs).crsByte b = s.crsByte b :=
  sget_ssetAll_ne h

/-- Every slot of a run may be written by its ring's producer. -/
theorem State.mayWrite_of {r slot n i : Nat} (hb : ringBase r ≤ slot) (he : slot + n ≤ ringBase r + ringSlots r)
    (hi : slot ≤ i ∧ i < slot + n) (ht : s.token i = tokWriting) : s.mayWrite r i = true := by
  simp only [State.mayWrite, Bool.and_eq_true, decide_eq_true_eq]
  omega

/-- A run of slots of a ring that its producer holds takes the bytes, slot by slot. -/
theorem State.ringWrite_spec {r slot n : Nat} {bs : List Byte} (hc : s.canonical = true) (hb : ringBase r ≤ slot)
    (he : slot + n ≤ ringBase r + ringSlots r) (hl : bs.length = 128 * n) (ht : ∀ i, slot ≤ i → i < slot + n → s.token i = tokWriting) :
    Changes [] [.crs, .ecc] s (s.ringWrite r (slotsFrom slot n) bs)
    ∧ (s.ringWrite r (slotsFrom slot n) bs).crsBytes (slotAddr slot) (128 * n) = bs
    ∧ ∀ a, a < slotAddr slot ∨ slotAddr slot + 128 * n ≤ a → (s.ringWrite r (slotsFrom slot n) bs).crsByte a = s.crsByte a := by
  induction n generalizing s slot bs with
  | zero => exact ⟨.refl hc, (List.eq_nil_of_length_eq_zero hl).symm, fun _ _ => rfl⟩
  | succ n ih =>
    have hmay := State.mayWrite_of (s := s) (i := slot) hb he (by omega) (ht slot (by omega) (by omega))
    have hstep : s.ringWrite r (slotsFrom slot (n + 1)) bs =
        (s.crsWrite (slotAddr slot) (bs.take 128)).ringWrite r (slotsFrom (slot + 1) n) (bs.drop 128) := by
      rw [slotsFrom_succ, State.ringWrite, if_pos hmay]
    have htake : (bs.take 128).length = 128 := by rw [List.length_take]; omega
    have hw : Changes [] [.crs, .ecc] s (s.crsWrite (slotAddr slot) (bs.take 128)) := State.crsWrite_changes (.refl hc) _ _
    obtain ⟨hch, hbytes, hout⟩ := ih (s := s.crsWrite (slotAddr slot) (bs.take 128)) (slot := slot + 1) (bs := bs.drop 128) hw.canonical
      (by omega) (by omega) (by rw [List.length_drop]; omega) fun i h1 h2 => ht i (by omega) (by omega)
    have hnext : slotAddr (slot + 1) = slotAddr slot + 128 := by simp only [slotAddr]; omega
    rw [hnext] at hbytes hout
    rw [hstep]
    refine ⟨hw.trans hch, ?_, fun a ha => (hout a (by omega)).trans (State.crsByte_crsWrite_ne (by rw [htake]; omega))⟩
    have hfirst : ((s.crsWrite (slotAddr slot) (bs.take 128)).ringWrite r (slotsFrom (slot + 1) n) (bs.drop 128)).crsBytes (slotAddr slot) 128
        = bs.take 128 := by
      have hsame := State.crsBytes_crsWrite hc (a := slotAddr slot) (bs := bs.take 128)
      rw [htake] at hsame
      exact (sgetAll_congr fun j _ h2 => hout j (.inl h2)).trans hsame
    calc ((s.crsWrite (slotAddr slot) (bs.take 128)).ringWrite r (slotsFrom (slot + 1) n) (bs.drop 128)).crsBytes (slotAddr slot) (128 * (n + 1))
        = bs.take 128 ++ bs.drop 128 := by
          rw [State.crsBytes, show 128 * (n + 1) = 128 + 128 * n by omega, sgetAll_add]
          exact congrArg₂ (· ++ ·) hfirst hbytes
      _ = bs := List.take_append_drop 128 bs

/-- A record filled into a run of slots of its ring. -/
structure Filled (s t : State) (r slot n : Nat) (bs : List Byte) : Prop where
  changes : Changes [(F.SYS_RING_B_FILL r).zone] [.crs, .tok, .ecc] s t
  bytes : t.crsBytes (slotAddr slot) (128 * n) = bs
  outside : ∀ a, a < slotAddr slot ∨ slotAddr slot + 128 * n ≤ a → t.crsByte a = s.crsByte a
  token : ∀ i, slot ≤ i → i < slot + n → t.token i = tokPublished
  others : ∀ i, i < slot ∨ slot + n ≤ i → t.token i = s.token i

theorem State.fill_filled {r slot n : Nat} {bs : List Byte} (hc : s.canonical = true) (hb : ringBase r ≤ slot)
    (he : slot + n ≤ ringBase r + ringSlots r) (hl : bs.length = 128 * n) : Filled s (s.fill r (slotsFrom slot n) bs) r slot n bs := by
  have hz : ∃ z ∈ [(F.SYS_RING_B_FILL r).zone], z.covers (F.SYS_RING_B_FILL r) = true := ⟨_, List.mem_singleton_self _, Fld.zone_covers _⟩
  have h1 : Changes [(F.SYS_RING_B_FILL r).zone] [.crs, .tok, .ecc] s (s.moveAll r (slotsFrom slot n) tokWriting) :=
    State.moveAll_changes (.refl hc) r _ _ hz
  obtain ⟨h2, hbytes, hout⟩ := State.ringWrite_spec h1.canonical hb he hl fun i hi hi' =>
    State.token_moveAll_of_mem hc (mem_slotsFrom.mpr ⟨hi, hi'⟩)
  have h12 := h1.next h2 (by simp)
  have h3 := State.moveAll_changes h12 r (slotsFrom slot n) tokPublished hz
  have hcrs : (s.fill r (slotsFrom slot n) bs).crs = _ := State.moveAll_crs _ _ _ _
  refine ⟨h3, ?_, fun a ha => ?_, fun i hi hi' => State.token_moveAll_of_mem h12.canonical (mem_slotsFrom.mpr ⟨hi, hi'⟩), fun i hi => ?_⟩
  · rw [State.crsBytes, hcrs]
    exact hbytes
  · rw [State.crsByte, hcrs]
    refine (hout a ha).trans ?_
    rw [State.crsByte, State.moveAll_crs]
    rfl
  · have hnot : i ∉ slotsFrom slot n := fun h => by have := mem_slotsFrom.mp h; omega
    exact (State.token_moveAll_of_not_mem hnot).trans
      ((congrArg (fun l => sget (fun _ => 0) l i) h2.tok).trans (State.token_moveAll_of_not_mem hnot))

end

end Sys2Proof.Machine
end

section
set_option Elab.async false
/-! PROOF. The ends of display updates (Machine/Display.lean; R397, R402, R405, R407, R418, R423, R426). -/

namespace Sys2Proof.Machine

/-! ### CRC-32 and sixteen signed bits -/

theorem crc32Bit_lt {c : Nat} (h : c < 2 ^ 32) : crc32Bit c < 2 ^ 32 := by
  unfold crc32Bit
  split
  · exact Nat.xor_lt_two_pow (by omega) (by decide)
  · omega

theorem crc32Byte_lt {c : Nat} {b : Byte} (h : c < 2 ^ 32) : crc32Byte c b < 2 ^ 32 := by
  have hiter (n : Nat) {x : Nat} (hx : x < 2 ^ 32) : iter crc32Bit n x < 2 ^ 32 := by
    induction n generalizing x with
    | zero => exact hx
    | succ n ih => exact ih (crc32Bit_lt hx)
  exact hiter 8 (Nat.xor_lt_two_pow h (Nat.lt_trans b.isLt (by decide)))

theorem crc32_lt (l : List Byte) : crc32 l < 2 ^ 32 := by
  have hfold {c : Nat} (h : c < 2 ^ 32) : l.foldl crc32Byte c < 2 ^ 32 := by
    induction l generalizing c with
    | nil => exact h
    | cons b l ih => exact ih (crc32Byte_lt h)
  exact Nat.xor_lt_two_pow (hfold (by decide)) (by decide)

theorem toSigned_ofSigned_sixteen {v : Int} (h1 : -32768 ≤ v) (h2 : v < 32768) : toSigned 16 (ofSigned 16 v) = v := by
  unfold toSigned ofSigned
  simp only [Nat.reducePow, Nat.reduceSub]
  split <;> omega

theorem toSigned_sixteen_range (x : Nat) : -32768 ≤ toSigned 16 x ∧ toSigned 16 x < 32768 := by
  unfold toSigned
  simp only [Nat.reducePow, Nat.reduceSub]
  split <;> omega

theorem ofSigned_sixteen_lt (v : Int) : ofSigned 16 v < 2 ^ 16 :=
  (Int.toNat_lt_of_ne_zero (by decide)).mpr (Int.emod_lt_of_pos v (by decide))

section
variable {s : State}

/-! ### Frames -/

theorem bytesLE_length (n v : Nat) : (bytesLE n v).length = n := by
  induction n generalizing v with
  | zero => rfl
  | succ n ih => exact congrArg (· + 1) (ih _)

theorem State.crsBytes_append {a n m : Nat} {x y : List Byte} (h : s.crsBytes a (n + m) = x ++ y) (hx : x.length = n) :
    s.crsBytes a n = x ∧ s.crsBytes (a + n) m = y :=
  List.append_inj ((sgetAll_add (l := s.crs)).symm.trans h) (sgetAll_length.trans hx.symm)

theorem State.bodyAt_length (s : State) (a : Nat) : (s.bodyAt a).length = 1012 := sgetAll_length

theorem State.bodyAt_of_crs {t : State} (h : t.crs = s.crs) (a : Nat) : t.bodyAt a = s.bodyAt a := by
  rw [State.bodyAt, State.crsBytes, h]
  rfl

/-- Above the record that has been written, a body is as it was. -/
theorem Filled.bodyAt_above {t : State} {r slot n a : Nat} {bs : List Byte} (h : Filled s t r slot n bs)
    (ha : slotAddr slot + 128 * n ≤ a + 8) : t.bodyAt a = s.bodyAt a :=
  sgetAll_congr fun j h1 _ => h.outside j (.inr (Nat.le_trans ha h1))

/-- What a frame written in the Carousel shows in. -/
def frameZones : List Zone := [(F.SYS_RING_B_FILL 5).zone, F.DISP_FCRC_CRC.zone]

/-- A frame in force that has been written: its body, the next frame beside it, and its CRC. -/
structure InForce (s t : State) (body : List Byte) : Prop where
  changes : Changes frameZones [.crs, .tok, .ecc, .ringSeq] s t
  shown : t.bodyAt frameInForce = body
  next : t.bodyAt frameNext = s.bodyAt frameNext
  crc : t.get F.DISP_FCRC_CRC = crc32 body

theorem State.setInForce_inForce {body : List Byte} (hc : s.canonical = true) (hl : body.length = 1012) :
    InForce s (s.setInForce body) body := by
  have h0 : Changes [] [.ringSeq] s (s.header 5).2 := State.nextSeq_changes (.refl hc) 5
  have hh : (s.header 5).1.length = 8 := by
    change (bytesLE 6 _ ++ [_, _]).length = 8
    rw [List.length_append, bytesLE_length]
    rfl
  have hlen : ((s.header 5).1 ++ withCrc body).length = 128 * 8 := by
    rw [List.length_append, hh, withCrc, List.length_append, hl, bytesLE_length]
  have hf := State.fill_filled (r := 5) (slot := 672) (n := 8) h0.canonical (by decide) (by decide) hlen
  have hcrc : Changes [F.DISP_FCRC_CRC.zone] [] (s.publish 5 672 8 (withCrc body)) (s.setInForce body) :=
    (Changes.refl hf.changes.canonical).put
  have hlong : 128 * 8 = 8 + 1016 := rfl
  have hall := hf.bytes
  rw [hlong] at hall
  have hbody := State.crsBytes_append (n := 1012) (m := 4) (State.crsBytes_append hall hh).2 hl
  have hnext : slotAddr 672 + 128 * 8 ≤ frameNext + 8 := by decide
  have h0next : (s.header 5).2.bodyAt frameNext = s.bodyAt frameNext := State.bodyAt_of_crs h0.crs frameNext
  exact ⟨((h0.mono (W := frameZones) (L := [.crs, .tok, .ecc, .ringSeq])).next hf.changes).next hcrc,
    (State.bodyAt_of_crs hcrc.crs frameInForce).trans hbody.1, (State.bodyAt_of_crs hcrc.crs frameNext).trans ((hf.bodyAt_above hnext).trans h0next), State.get_put (f := F.DISP_FCRC_CRC) hf.changes.canonical (crc32_lt body)⟩

theorem LogOnly.bodyAt {t : State} (h : LogOnly s t) {a : Nat} (ha : Nat.ble (a + 8 + 1012) 0x21016400 = true) :
    t.bodyAt a = s.bodyAt a := h.crsBytes (.inl (Nat.le_of_ble_eq_true ha))

theorem applyTarget_length {now pm : List Byte} {l : List (Nat × Nat)} (h : now.length = 1012) (hp : pm.length = 2) :
    (applyTarget now pm l).length = 1012 := by
  have hfold {b : List Byte} : (l.foldl (fun b e => b.set (66 + e.1) (byte e.2)) b).length = b.length := by
    induction l generalizing b with
    | nil => rfl
    | cons e l ih => exact ih.trans List.length_set
  rw [applyTarget, List.length_append, hfold, List.length_drop, h, hp]

/-! ### The LCD -/

/-- The frame that is installed, once the errors of its words have been met. -/
def State.toInstall (s : State) : State := { s.eccMeet frameNext 1024 with disp := { s.disp with installDue := false } }

/-- The LCD latches the body of the next frame. -/
def State.latched (s : State) : State :=
  { s.setInForce (s.bodyAt frameNext) with disp := { s.disp with latch := ((s.bodyAt frameNext).drop 4).take 64 } }

theorem execInstall_eq {dt : Nat} (hi : s.disp.installDue = true) (hl : s.disp.lcd = true) (hw : s.pins.window = false)
    (hm : (s.passTo dt (s.lcdNextA s.uptime)).dispMode = 1) (hd : (s.passTo dt (s.lcdNextA s.uptime)).disp = s.disp)
    (hp : (s.passTo dt (s.lcdNextA s.uptime)).pins = s.pins) : exec (.install dt) s =
    .next (((s.passTo dt (s.lcdNextA s.uptime)).toInstall.latched.bump F.DISP_UPDCNT_UPDATES 1).clr F.DISP_STAT_UNKNOWN) := by
  have hpass : (if s.disp.installDue ∧ s.disp.lcd ∧ !s.pins.window then s.passTo dt (s.lcdNextA s.uptime) else s.advance dt)
      = s.passTo dt (s.lcdNextA s.uptime) := if_pos ⟨hi, hl, by rw [hw]; rfl⟩
  change execInstall dt s = _
  unfold execInstall
  rw [hpass]
  generalize s.passTo dt (s.lcdNextA s.uptime) = u at *
  exact if_pos ⟨by rw [hd]; exact hi, by rw [hd]; exact hl, hm, by rw [hp, hw]; rfl⟩

theorem State.install_spec (hc : s.canonical = true) {t : State}
    (ht : t = (s.toInstall.latched.bump F.DISP_UPDCNT_UPDATES 1).clr F.DISP_STAT_UNKNOWN) :
    t.disp = { s.disp with installDue := false, latch := ((s.bodyAt frameNext).drop 4).take 64 }
    ∧ t.bodyAt frameInForce = s.bodyAt frameNext ∧ t.bodyAt frameNext = s.bodyAt frameNext
    ∧ t.get F.DISP_FCRC_CRC = crc32 (s.bodyAt frameNext) ∧ t.get F.DISP_STAT_UNKNOWN = 0
    ∧ t.get F.DISP_UPDCNT_UPDATES = min (s.get F.DISP_UPDCNT_UPDATES + 1) 65535 := by
  have he := State.eccMeet_changes hc frameNext 1024
  have h1 : Changes [] [.disp] (s.eccMeet frameNext 1024) s.toInstall := (Changes.refl he.canonical).setDisp
  have hnext : s.toInstall.bodyAt frameNext = s.bodyAt frameNext := ((State.eccMeet_onlyLog hc _ _).trans h1.logOnly).bodyAt rfl
  have hf := State.setInForce_inForce h1.canonical (s.toInstall.bodyAt_length frameNext)
  have h2 : Changes [] [.disp] (s.toInstall.setInForce (s.toInstall.bodyAt frameNext)) s.toInstall.latched := (Changes.refl hf.changes.canonical).setDisp
  have h3 : Changes [F.DISP_UPDCNT_UPDATES.zone] [] s.toInstall.latched (s.toInstall.latched.bump F.DISP_UPDCNT_UPDATES 1) :=
    (Changes.refl h2.canonical).bump
  have h4 : Changes [F.DISP_STAT_UNKNOWN.zone] [] (s.toInstall.latched.bump F.DISP_UPDCNT_UPDATES 1) t := ht ▸ (Changes.refl h3.canonical).clr
  have hcrs : t.crs = (s.toInstall.setInForce (s.toInstall.bodyAt frameNext)).crs := h4.crs.trans (h3.crs.trans h2.crs)
  refine ⟨?_, ?_, ?_, ?_, ?_, ?_⟩
  · rw [h4.disp, h3.disp, ← hnext]
    rfl
  · rw [State.bodyAt_of_crs hcrs, hf.shown, hnext]
  · rw [State.bodyAt_of_crs hcrs, hf.next, hnext]
  · rw [h4.get F.DISP_FCRC_CRC, h3.get F.DISP_FCRC_CRC, h2.get F.DISP_FCRC_CRC, hf.crc, hnext]
  · rw [ht]
    exact State.clr_get h3.canonical
  · rw [h4.get F.DISP_UPDCNT_UPDATES, State.bump_get h2.canonical, h2.get F.DISP_UPDCNT_UPDATES, hf.changes.get F.DISP_UPDCNT_UPDATES,
      h1.get F.DISP_UPDCNT_UPDATES, he.get F.DISP_UPDCNT_UPDATES]
    rfl

/-! ### Bistable updates -/

/-- The balances of the 72 segments. -/
def balanceZone : Zone := window (F.DISP_BAL 0) 0x120

theorem balance_covered {k : Nat} (hk : k < 72) : balanceZone.covers (F.DISP_BAL_BAL k) = true := by
  simp only [Zone.covers_iff, Zone.has_iff, balanceZone, window, F.DISP_BAL_BAL, F.DISP_BAL]
  omega

/-- Zones below the balances leave them as they are. -/
theorem Changes.balance {W : List Zone} {L : List Part} {t : State} (h : Changes W L s t) (k : Nat)
    (hW : ∀ z ∈ W, z.stride = 1 ∧ z.base + z.count ≤ F.DISP_BAL 0 := by decide) : t.balance k = s.balance k := by
  refine h.getI _ fun z hz => ?_
  obtain ⟨h1, h2⟩ := hW z hz
  have hno : z.has (F.DISP_BAL k) = false := Bool.eq_false_iff.mpr fun hh => by
    rw [Zone.has_iff, h1, F.DISP_BAL] at hh
    rw [F.DISP_BAL] at h2
    omega
  rw [Zone.apart, show z.has (F.DISP_BAL_BAL k).addr = false from hno]
  rfl

theorem State.chargeAll_changes (hc : s.canonical = true) {l : List SegDrive} (hl : l.all (fun d => decide (d.seg < 72)) = true) :
    Changes [balanceZone] [] s (s.chargeAll l) :=
  (Changes.refl hc).foldl fun _ d hd ht =>
    ht.putI ⟨_, List.mem_singleton_self _, balance_covered (of_decide_eq_true (List.all_eq_true.mp hl d hd))⟩ rfl

theorem chargeSum_range (l : List (Int × Nat)) {b : Int} (h1 : -32768 ≤ b) (h2 : b < 32768) :
    -32768 ≤ l.foldl (fun (b : Int) p => clampInt (-32767) 32767 (b + p.1)) b
    ∧ l.foldl (fun (b : Int) p => clampInt (-32767) 32767 (b + p.1)) b < 32768 := by
  induction l generalizing b with
  | nil => exact ⟨h1, h2⟩
  | cons p l ih =>
    have hb : -32768 ≤ clampInt (-32767) 32767 (b + p.1) ∧ clampInt (-32767) 32767 (b + p.1) < 32768 := by
      unfold clampInt
      split
      · omega
      · split <;> omega
    exact ih hb.1 hb.2

theorem State.chargeSeg_balance (hc : s.canonical = true) (k : Nat) (l : List (Int × Nat)) :
    (s.chargeSeg k l).balance k = l.foldl (fun (b : Int) p => clampInt (-32767) 32767 (b + p.1)) (s.balance k) := by
  obtain ⟨h1, h2⟩ := toSigned_sixteen_range (s.get (F.DISP_BAL_BAL k))
  obtain ⟨h3, h4⟩ := chargeSum_range l h1 h2
  have hput := State.get_put (f := F.DISP_BAL_BAL k) hc (v := ofSigned 16 (l.foldl (fun (b : Int) p => clampInt (-32767) 32767 (b + p.1)) (s.balance k)))
    (ofSigned_sixteen_lt _)
  exact (congrArg (toSigned 16) hput).trans (toSigned_ofSigned_sixteen h3 h4)

/-- Every driven segment has its charge, and the record stands. -/
def State.charged (s : State) (r : DispRun) : State := (s.chargeAll r.segs).runRecord r (drivesMs r.segs)

/-- The drive of an update has ended. -/
def State.driven (s : State) (r : DispRun) : State :=
  { s.charged r with disp := { (s.charged r).disp with run := some { r with stop := max (s.charged r).uptime r.stop } } }

def drivenZones : List Zone := [balanceZone, recordZone]

theorem State.driven_changes (hc : s.canonical = true) {r : DispRun} (hl : r.segs.all (fun d => decide (d.seg < 72)) = true) :
    Changes drivenZones [.disp] s (s.driven r) ∧ Changes [recordZone] [.disp] (s.chargeAll r.segs) (s.driven r)
    ∧ (s.charged r).uptime = s.uptime := by
  have h1 := State.chargeAll_changes hc hl
  have h2 := State.runRecord_changes h1.canonical r (drivesMs r.segs)
  have h3 : Changes [recordZone] [.disp] (s.chargeAll r.segs) (s.driven r) := (h2.mono (L := [.disp])).setDisp
  exact ⟨h1.mono.next h3, h3, h2.uptime.trans h1.uptime⟩

theorem execBistableUpdateEnd_eq {dt : Nat} {r : DispRun} (hr : s.disp.run = some r) (hd : r.discharge = false)
    (hw : s.windowHolds r.stop = false) : exec (.bistableUpdateEnd dt) s = .next (if r.kind = 1
      then ((s.passTo dt r.stop).driven r).passTwo r
      else ((s.passTo dt r.stop).driven r).endRun { r with stop := ((s.passTo dt r.stop).charged r).uptime }) := by
  change execBistableUpdateEnd dt s = _
  unfold execBistableUpdateEnd
  rw [hr]
  dsimp only
  rw [if_neg (by rw [hd, hw]; decide)]
  generalize s.passTo dt r.stop = u
  rfl

theorem bit_of_bitsOf (w : Word) {k hi lo : Nat} (hk : lo + k ≤ hi) : bit (bitsOf w hi lo) k = decide (bitsOf w (lo + k) (lo + k) = 1) := by
  have hlt : k < hi + 1 - lo := by omega
  have hone : lo + k + 1 - (lo + k) = 1 := by omega
  rw [bit_eq_testBit, bitsOf, Nat.testBit_mod_two_pow, Nat.testBit_div_two_pow, bitsOf, hone]
  simp [hlt, Nat.testBit_eq_decide_div_mod_eq, Nat.add_comm]

/-- The frame in force has taken the bytes of an update. -/
def State.taken (s : State) (l : List (Nat × Nat)) : State :=
  s.setInForce (applyTarget (s.bodyAt frameInForce) ((s.bodyAt frameNext).take 2) l)

/-- The panel's state follows an update of one region. -/
def State.updated (s : State) (r : DispRun) : State :=
  ((s.taken r.target).put ⟨F.DISP_STAT, 8 + r.region, 8 + r.region⟩ 0).bump F.DISP_UPDCNT_UPDATES 1

theorem State.endRun_eq {r : DispRun} (hk : r.kind = 0) (hw : r.whole = false) (ht : r.target ≠ []) :
    s.endRun r = { s.updated r with disp := { (s.updated r).disp with run := some { r with discharge := true } } } := by
  unfold State.endRun
  have h3 : ¬ r.kind = 3 := by rw [hk]; decide
  have hwhole : ¬ r.whole = true := by rw [hw]; decide
  have h0 : r.kind = 0 ∨ r.kind = 3 := .inl hk
  simp only [if_neg ht, if_neg h3, if_neg hwhole, if_pos h0]
  rfl

theorem State.endRun_spec (hc : s.canonical = true) {r : DispRun} (hk : r.kind = 0) (hw : r.whole = false) (ht : r.target ≠ [])
    (hr : r.region < 8) : (s.endRun r).disp.run = some { r with discharge := true }
    ∧ (s.endRun r).bodyAt frameInForce = applyTarget (s.bodyAt frameInForce) ((s.bodyAt frameNext).take 2) r.target
    ∧ bit ((s.endRun r).get F.DISP_STAT_UNKNOWN) r.region = false
    ∧ (s.endRun r).get F.DISP_UPDCNT_UPDATES = min (s.get F.DISP_UPDCNT_UPDATES + 1) 65535
    ∧ ∀ k, (s.endRun r).balance k = s.balance k := by
  have hf : InForce s (s.taken r.target) _ := State.setInForce_inForce hc (applyTarget_length (s.bodyAt_length _)
    (by rw [List.length_take, State.bodyAt_length]; rfl))
  have hsane : Fld.sane ⟨F.DISP_STAT, 8 + r.region, 8 + r.region⟩ = true :=
    Fld.sane_iff.mpr ⟨Nat.le_refl _, show 8 + r.region < 32 by omega⟩
  have h1 : Changes [F.DISP_STAT_UNKNOWN.zone] [] (s.taken r.target) ((s.taken r.target).put ⟨F.DISP_STAT, 8 + r.region, 8 + r.region⟩ 0) := by
    refine (Changes.refl hf.changes.canonical).put ⟨_, List.mem_singleton_self _, Zone.covers_iff.mpr ⟨⟨Fld.zone_has.mpr rfl, ?_⟩, ?_⟩⟩ hsane
    · change 8 ≤ 8 + r.region
      omega
    · change 8 + r.region ≤ 15
      omega
  have hz := State.get_put (f := ⟨F.DISP_STAT, 8 + r.region, 8 + r.region⟩) (v := 0) hf.changes.canonical
    (Nat.two_pow_pos _) hsane
  generalize ht1 : (s.taken r.target).put ⟨F.DISP_STAT, 8 + r.region, 8 + r.region⟩ 0 = w at h1 hz
  have h2 : Changes [F.DISP_UPDCNT_UPDATES.zone] [] w (w.bump F.DISP_UPDCNT_UPDATES 1) := (Changes.refl h1.canonical).bump
  have h3 : Changes [] [.disp] (w.bump F.DISP_UPDCNT_UPDATES 1) (s.endRun r) := by
    rw [State.endRun_eq hk hw ht, State.updated, ht1]
    exact (Changes.refl h2.canonical).setDisp
  have hcrs : (s.endRun r).crs = (s.taken r.target).crs := h3.crs.trans (h2.crs.trans h1.crs)
  refine ⟨by rw [State.endRun_eq hk hw ht], (State.bodyAt_of_crs hcrs _).trans hf.shown, ?_, ?_, fun k => ?_⟩
  · rw [h3.get F.DISP_STAT_UNKNOWN, h2.get F.DISP_STAT_UNKNOWN]
    refine (bit_of_bitsOf _ (show 8 + r.region ≤ 15 by omega)).trans (decide_eq_false ?_)
    exact fun hone => Nat.zero_ne_one (hz.symm.trans hone)
  · rw [h3.get F.DISP_UPDCNT_UPDATES, State.bump_get h1.canonical, h1.get F.DISP_UPDCNT_UPDATES, hf.changes.get F.DISP_UPDCNT_UPDATES]
    rfl
  · exact (h3.balance k).trans ((h2.balance k).trans ((h1.balance k).trans (hf.changes.balance k)))

/-- What the second pass of a refresh drives. -/
def State.passTwoSegs (s : State) (r : DispRun) : List SegDrive :=
  (r.target.filter (fun e => decide (e.2 % 4 ≠ 0))).map (fun e =>
    (⟨e.1, if s.regionOf e.1 = 0 then s.pulse 0 (e.2 % 4) else s.curve (e.2 % 4)⟩ : SegDrive))

theorem State.passTwo_eq (r : DispRun) : s.passTwo r = s.startRun 2 r.region r.whole r.target (s.passTwoSegs r) r.sec := rfl

theorem State.startRun_spec (hc : s.canonical = true) (kind r : Nat) (whole : Bool) (target : List (Nat × Nat)) (segs : List SegDrive)
    (sec : Nat) : (∃ x, (s.startRun kind r whole target segs sec).disp.run = some x ∧ x.kind = kind ∧ x.region = r ∧ x.whole = whole
      ∧ x.target = target ∧ x.discharge = false) ∧ (s.startRun kind r whole target segs sec).flag F.DISP_STAT_BUSY = true := by
  refine ⟨⟨_, rfl, rfl, rfl, rfl, rfl, rfl⟩, ?_⟩
  unfold State.startRun
  extract_lets d src s1
  have h1 : Changes [] [.disp] s s1 := (Changes.refl hc).setDisp
  have h2 : Changes [F.DISP_STAT_RUNREG.zone] [] (s1.set1 F.DISP_STAT_BUSY) ((s1.set1 F.DISP_STAT_BUSY).put F.DISP_STAT_RUNREG r) :=
    (Changes.refl (State.put_canonical h1.canonical)).put
  exact (h2.flag _).trans (State.set1_flag h1.canonical)

/-! ### The discharge and the LCD's end -/

/-- The record's flag has cleared and the domain is off. -/
def State.discharged (s : State) : State := (s.retWrite 0x10 [0]).runOff

theorem execDischargeEnd_eq {dt : Nat} {r : DispRun} (hr : s.disp.run = some r) (hd : r.discharge = true) :
    exec (.dischargeEnd dt) s = .next (s.passTo dt (r.stop + millis 10)).discharged := by
  change execDischargeEnd dt s = _
  unfold execDischargeEnd
  rw [hr]
  exact if_pos hd

theorem State.discharged_spec (hc : s.canonical = true) : s.discharged.disp = { s.disp with run := none }
    ∧ s.discharged.flag F.DISP_STAT_BUSY = false ∧ s.discharged.get F.DISP_STAT_RUNREG = 0 ∧ s.discharged.ret 0x10 = 0
    ∧ s.discharged.uptime = s.uptime ∧ s.discharged.crs = s.crs := by
  have h1 := State.retWrite_record hc (i := 0x10) (vs := [0]) (by decide) (by decide)
  have hzero : (s.retWrite 0x10 [0]).ret 0x10 = 0 := by
    have hp : (s.put (retByte 0x10) 0).canonical = true := State.put_canonical hc
    exact ((State.retSeal_bytes hp).get (retByte 0x10)).trans (State.get_put hc (by decide))
  have h2 := State.runOff_changes h1.canonical
  have h3 : Changes [] [.disp] (s.retWrite 0x10 [0]) { s.retWrite 0x10 [0] with disp := { (s.retWrite 0x10 [0]).disp with run := none } } :=
    (Changes.refl h1.canonical).setDisp
  have hbusy := State.clr_flag (f := F.DISP_STAT_BUSY) h3.canonical
  have h4 : Changes [F.DISP_STAT_BUSY.zone] [] _ (({ s.retWrite 0x10 [0] with disp := { (s.retWrite 0x10 [0]).disp with run := none } } : State).clr
    F.DISP_STAT_BUSY) := (Changes.refl h3.canonical).clr
  have h5 : Changes [F.DISP_STAT_RUNREG.zone] [] _ s.discharged := (Changes.refl h4.canonical).clr
  exact ⟨rfl, (h5.flag _).trans hbusy, State.clr_get h4.canonical, (h2.get (retByte 0x10)).trans hzero, h2.uptime.trans h1.uptime, h2.crs.trans h1.crs⟩

theorem execLcdPowerOff_eq {dt : Nat} (hl : s.disp.lcd = true) (hm : s.dispMode ≠ 1) :
    exec (.lcdPowerOff dt) s = .next ((s.passTo dt (s.lcdNextA s.uptime)).advance (millis 5)).lcdOff := by
  change execLcdPowerOff dt s = _
  unfold execLcdPowerOff
  exact if_pos ⟨hl, by rw [decide_eq_true hm]; rfl⟩

end

theorem Changes.dispMode {W : List Zone} {L : List Part} {s t : State} (h : Changes W L s t)
    (h1 : ∀ z ∈ W, z.apart F.DISP_CTRL_EN = true := by decide) (h2 : ∀ z ∈ W, z.apart F.DISP_CTRL_MODE = true := by decide) :
    t.dispMode = s.dispMode := by
  rw [State.dispMode, State.dispMode, h.flag _ h1, h.get _ h2]

/-- Settles O54: an LCD install, the ends of a bistable update and of its discharge, and the LCD's switching off. -/
theorem displayUpdatesEnd : Obligations.DisplayUpdatesEnd := by
  unfold Obligations.DisplayUpdatesEnd
  intro dt r g s hc u e z driving
  have hu := State.passTo_changes hc dt (s.lcdNextA s.uptime)
  have he := State.passTo_changes hc dt r.stop
  have hz := State.passTo_changes hc dt (r.stop + millis 10)
  refine ⟨?install, ?ends, ?second, ?discharge, ?off⟩
  case install =>
    intro hi hl hm hw
    exact ⟨_, execInstall_eq hi hl hw (hu.dispMode.trans hm) hu.disp hu.pins, State.install_spec hu.canonical rfl⟩
  case ends =>
    intro ⟨hr, hd, hw, hl⟩ hk hwhole hreg ht
    obtain ⟨h1, hrec, hup⟩ := State.driven_changes he.canonical hl
    have hcrs := h1.crs
    obtain ⟨hrun, hbody, hunk, hupd, hbal⟩ := State.endRun_spec h1.canonical (r := { r with stop := (e.charged r).uptime }) hk hwhole ht hreg
    refine ⟨_, (execBistableUpdateEnd_eq hr hd hw).trans (congrArg _ (if_neg (by rw [hk]; decide))), ?_, ?_, hunk, ?_, fun hg => ?_⟩
    · rw [hrun, hup]
    · rw [hbody, State.bodyAt_of_crs hcrs, State.bodyAt_of_crs hcrs]
    · rw [hupd, h1.get F.DISP_UPDCNT_UPDATES]
    · rw [hbal, hrec.balance, hg]
      exact State.chargeSeg_balance he.canonical g.seg g.phases
  case second =>
    intro ⟨hr, hd, hw, hl⟩ hk
    have h1 := (State.driven_changes he.canonical hl).1
    obtain ⟨⟨x, hx, h2⟩, hbusy⟩ := State.startRun_spec h1.canonical 2 r.region r.whole r.target ((e.driven r).passTwoSegs r) r.sec
    exact ⟨_, (execBistableUpdateEnd_eq hr hd hw).trans (congrArg _ ((if_pos hk).trans (State.passTwo_eq r))), x, hx, h2.1, h2.2.1, h2.2.2.1, h2.2.2.2.1, h2.2.2.2.2, hbusy⟩
  case discharge =>
    intro hr hd
    obtain ⟨hdisp, hbusy, hrun, hret, hup, hcrs⟩ := State.discharged_spec hz.canonical
    refine ⟨_, execDischargeEnd_eq hr hd, hdisp, hbusy, hrun, hret, ?_, ?_⟩
    · rw [hup]
      exact State.passTo_uptime hc _ _
    · rw [State.bodyAt_of_crs hcrs]
      exact (State.passTo_onlyLog hc _ _).bodyAt rfl
  case off =>
    intro hl hm
    have h5 := State.advance_changes hu.canonical (millis 5)
    refine ⟨_, execLcdPowerOff_eq hl hm, ?_, rfl⟩
    rw [State.lcdOff, h5.disp, hu.disp]

end Sys2Proof.Machine
end

section
set_option Elab.async false
/-! PROOF. The front end's events and the shot sequencer's words (Machine/Sensors.lean, Machine/Acoustic.lean; R65, R157, R158, R182,
R185 to R187, R247, R476). -/

namespace Sys2Proof.Machine

section
variable {s : State} {dt : Nat}

/-! ### Conversion sequences -/

/-- The results of the running sequence wait for the next Capture, or are dropped. -/
def State.converted (s : State) (h : Option SensHeld) : State := { s with sens := { s.sens with running := none, held := h } }

theorem State.converted_changes (hc : s.canonical = true) (h : Option SensHeld) : Changes [] [.sens] s (s.converted h) :=
  (Changes.refl hc).setSens

/-- What a bridge result that is no good leaves in the log (R247). -/
def State.bridgeNoted (s : State) (b : Option (Nat × Option Int × Int)) : State := match b with
  | some (st, _, r) => if st = 0 then s else s.detect 0x45 0xFF (st * 2 ^ 30 + ofSigned 24 r) .logOnly
  | none => s

theorem State.bridgeNoted_changes (hc : s.canonical = true) (b : Option (Nat × Option Int × Int)) :
    Changes detectZones safeParts s (s.bridgeNoted b) := by
  match b with
  | none => exact .refl hc
  | some (st, _, r) => exact .ite (.refl hc) (State.detect_changes hc _ _ _ _)

/-- A sequence has ended: its results wait unless its reference test has failed. -/
def State.sequenced (s : State) (fails : Bool) (h : SensHeld) : State := (s.converted (if fails then none else some h)).bridgeNoted h.bridge

theorem execConversionSequenceEnd_eq {conv : ConvSeq} {inputs : List Nat} {bridge : Bool}
    (h : (s.advance dt).sens.running = some (inputs, bridge)) : exec (.conversionSequenceEnd dt conv) s =
    .next (if (decide (inputs ≠ []) && !refOk conv) = true
      then ((s.advance dt).sequenced (decide (inputs ≠ []) && !refOk conv) ((s.advance dt).convResults inputs bridge conv)).refFault conv
      else (s.advance dt).sequenced (decide (inputs ≠ []) && !refOk conv) ((s.advance dt).convResults inputs bridge conv)) := by
  change execConversionSequenceEnd dt conv s = _
  unfold execConversionSequenceEnd
  generalize s.advance dt = u at *
  dsimp only
  rw [h]
  dsimp only
  generalize u.convResults inputs bridge conv = r
  generalize (decide (inputs ≠ []) && !refOk conv) = fails
  obtain ⟨rtd, _ | ⟨st, p, q⟩⟩ := r <;> rfl

theorem State.sequenced_changes (hc : s.canonical = true) (fails : Bool) (h : SensHeld) :
    Changes detectZones (.sens :: safeParts) s (s.sequenced fails h)
    ∧ (s.sequenced fails h).sens = { s.sens with running := none, held := if fails then none else some h } := by
  have h1 := State.converted_changes hc (if fails then none else some h)
  have h2 := State.bridgeNoted_changes h1.canonical h.bridge
  exact ⟨(h1.mono).next h2, h2.sens⟩

theorem State.refFault_spec (hc : s.canonical = true) (c : ConvSeq) : Changes detectZones safeParts s (s.refFault c)
    ∧ (s.refFault c).flag F.SAFE_STAT_SAFE = true ∧ (s.refFault c).get F.SAFE_STAT_CAUSE = 0x44 := by
  unfold State.refFault
  split
  · exact ⟨State.detect_changes hc _ _ _ _, State.detect_atOnce_shows hc (by decide) _ _⟩
  · exact ⟨State.detect_changes hc _ _ _ _, State.detect_atOnce_shows hc (by decide) _ _⟩

/-! ### VTXB and SHOTTRIG -/

theorem execVtxbReady_eq (he : (s.advance dt).flag F.AME_CTRL_EN = true) : exec (.vtxbReady dt) s =
    .next { (s.advance dt).set1 F.AME_STAT_READY with ame := { (s.advance dt).ame with
      boost := (s.advance dt).shootsDue && decide ((s.advance dt).get F.FT_PHASE_PHASE ≤ 1)
      vtxb := (s.advance dt).driveMv * 97 / 100 } } := by
  change execVtxbReady dt s = _
  unfold execVtxbReady
  exact congrArg _ (if_pos he)

theorem execShottrigEdge_eq : exec (.shottrigEdge dt) s = .next (if (s.advance dt).coreAlive ∧ (s.advance dt).flag F.PWR_STATE_VIO_OK
    then { s.advance dt with ame := { (s.advance dt).ame with trigLatch := true } } else s.advance dt) := rfl

end

/-- Settles O29: VTXB shows READY, SHOTTRIG sets its latch, and the results of a sequence wait unless its reference test fails. -/
theorem frontEndEvents : Obligations.FrontEndEvents := by
  unfold Obligations.FrontEndEvents
  intro dt conv inputs bridge s hc s1
  have hu := State.advance_changes hc dt
  refine ⟨?ready, ?noSupply, ?edge, ?passes, ?fails⟩
  case ready =>
    intro he
    have hset : Changes [F.AME_STAT_READY.zone] [] s1 (s1.set1 F.AME_STAT_READY) := (Changes.refl hu.canonical).set1
    refine ⟨_, execVtxbReady_eq he, State.set1_flag hu.canonical, rfl, fun hd => ?_, hset.regsBut, rfl⟩
    change (s1.shootsDue && _) = false
    rw [hd, Bool.false_and]
  case noSupply =>
    intro hv
    exact ⟨_, execShottrigEdge_eq.trans (congrArg _ (if_neg fun h => Bool.false_ne_true (hv.symm.trans h.2))), rfl⟩
  case edge =>
    intro ha hv
    exact ⟨_, execShottrigEdge_eq.trans (congrArg _ (if_pos ⟨ha, hv⟩)), rfl⟩
  case passes =>
    intro hr hok
    have hpass : (decide (inputs ≠ []) && !refOk conv) = false := by
      rcases hok with rfl | hok
      · rfl
      · simp [refOk, hok]
    obtain ⟨h1, hsens⟩ := State.sequenced_changes hu.canonical false (s1.convResults inputs bridge conv)
    refine ⟨s1.sequenced false (s1.convResults inputs bridge conv), ?_, congrArg Sens.running hsens, congrArg Sens.held hsens, h1.blockKept .sens⟩
    rw [execConversionSequenceEnd_eq hr, hpass]
    rfl
  case fails =>
    intro hr hin hbad
    have hfail : (decide (inputs ≠ []) && !refOk conv) = true := by
      have : ¬ (conv.refRatioPpm.natAbs ≤ 1000 ∧ conv.refDirPpm.natAbs ≤ 500) := by omega
      simp [refOk, this, hin]
    obtain ⟨h1, hsens⟩ := State.sequenced_changes hu.canonical true (s1.convResults inputs bridge conv)
    obtain ⟨h2, hsafe, hcause⟩ := State.refFault_spec h1.canonical conv
    refine ⟨(s1.sequenced true (s1.convResults inputs bridge conv)).refFault conv, ?_, congrArg Sens.running (h2.sens.trans hsens),
      congrArg Sens.held (h2.sens.trans hsens), hsafe, hcause, (h1.next h2).blockKept .sens⟩
    rw [execConversionSequenceEnd_eq hr, hfail]
    rfl

end Sys2Proof.Machine
end

section
set_option Elab.async false
/-! PROOF. The words of the shot sequencer (Machine/Acoustic.lean; R185 to R187, Table 5.8). -/

namespace Sys2Proof.Machine

section
variable {s t : State} {r : ShotRun}

/-! ### The word that runs -/

/-- A word whose operation is the one asked for runs. -/
theorem State.ucode_runs {op : Nat} {f : ShotRun → Nat → Nat → State} (hr : s.ame.run = some r) (ho : bitsOf (s.wordAt r.pc) 31 28 = op)
    (hop : op < 7) : s.ucode op f = f r (bitsOf (s.wordAt r.pc) 27 24) (bitsOf (s.wordAt r.pc) 23 0) := by
  unfold State.ucode
  rw [hr]
  dsimp only
  rw [if_neg (by omega), if_pos ho]

/-- A reserved operation is a fault. -/
theorem State.ucode_reserved {op : Nat} {f : ShotRun → Nat → Nat → State} (hr : s.ame.run = some r)
    (ho : 7 ≤ bitsOf (s.wordAt r.pc) 31 28) : s.ucode op f = s.ucodeFault r := by
  unfold State.ucode
  rw [hr]
  exact if_pos ho

/-- A sequencer fault stops the shots and is shown. -/
theorem State.ucodeFault_spec (hc : s.canonical = true) (r : ShotRun) : (s.ucodeFault r).flag F.AME_STAT_UCODE = true
    ∧ (s.ucodeFault r).ame.run = none ∧ (s.ucodeFault r).ame.windowOn = false ∧ 0x42 ∈ (s.ucodeFault r).safe.now := by
  have h1 : Changes [F.AME_STAT_UCODE.zone] [] s (s.set1 F.AME_STAT_UCODE) := (Changes.refl hc).set1
  have h2 := State.stopShots_changes h1.canonical
  have h3 : Changes detectZones safeParts (s.set1 F.AME_STAT_UCODE).stopShots (s.ucodeFault r) := State.detect_changes h2.canonical _ _ _ _
  obtain ⟨hrun, hwin⟩ := State.stopShots_ame h1.canonical
  exact ⟨(h3.flag _).trans ((h2.flag _).trans (State.set1_flag hc)), (congrArg Ame.run h3.ame).trans hrun,
    (congrArg Ame.windowOn h3.ame).trans hwin, State.detect_now h2.canonical _ _ _ _⟩

/-! ### Firings -/

/-- Nothing but registers and the front end's own state differs. -/
def AmeOnly (s t : State) : Prop := t = { s with regs := t.regs, ame := t.ame }

theorem AmeOnly.trans {u : State} (h : AmeOnly s t) (k : AmeOnly t u) : AmeOnly s u := by
  refine Eq.trans k ?_
  rw [h]

theorem AmeOnly.ite {c : Prop} [Decidable c] {u : State} (h : AmeOnly s t) (k : AmeOnly s u) : AmeOnly s (if c then t else u) := by
  split
  · exact h
  · exact k

/-- VTXB at the instant of a firing is shown, and that it is low. -/
def State.vtxbShown (s : State) (mv : Nat) : State :=
  if decide (10 * mv < 9 * s.driveMv) then ({ s.put F.AME_VTXB_MV mv with ame := { s.ame with vtxb := mv } } : State).set1 F.AME_STAT_VTXB_LOW
  else { s.put F.AME_VTXB_MV mv with ame := { s.ame with vtxb := mv } }

theorem State.vtxbShown_spec (hc : s.canonical = true) {mv : Nat} (hmv : mv < 2 ^ 14) :
    Changes [F.AME_VTXB_MV.zone, F.AME_STAT_VTXB_LOW.zone] [.ame] s (s.vtxbShown mv) ∧ AmeOnly s (s.vtxbShown mv)
    ∧ (s.vtxbShown mv).get F.AME_VTXB_MV = mv ∧ (10 * mv < 9 * s.driveMv → (s.vtxbShown mv).flag F.AME_STAT_VTXB_LOW = true) := by
  have h1 : Changes [F.AME_VTXB_MV.zone, F.AME_STAT_VTXB_LOW.zone] [.ame] s
      { s.put F.AME_VTXB_MV mv with ame := { s.ame with vtxb := mv } } := ((Changes.refl hc).put).setAme
  have hget : (s.put F.AME_VTXB_MV mv).get F.AME_VTXB_MV = mv := State.get_put hc hmv
  refine ⟨.ite h1.set1 h1, .ite rfl rfl, ?_, fun hlow => ?_⟩
  · unfold State.vtxbShown
    split
    · have h2 : Changes [F.AME_STAT_VTXB_LOW.zone] [] ({ s.put F.AME_VTXB_MV mv with ame := { s.ame with vtxb := mv } } : State)
          (({ s.put F.AME_VTXB_MV mv with ame := { s.ame with vtxb := mv } } : State).set1 F.AME_STAT_VTXB_LOW) :=
        (Changes.refl h1.canonical).set1
      exact (h2.get _).trans hget
    · exact hget
  · rw [State.vtxbShown, if_pos (decide_eq_true hlow)]
    exact State.set1_flag h1.canonical

theorem State.countPol_spec (hc : s.canonical = true) (p : Planned) :
    Changes [(F.AME_P_STAT_POL p.path).zone] [.ame] s (s.countPol p) ∧ AmeOnly s (s.countPol p) := by
  have h1 : Changes [(F.AME_P_STAT_POL p.path).zone] [.ame] s
      ({ s with ame := { s.ame with pol := s.ame.pol.set p.path (s.ame.pol.getD p.path 0 + 1) } } : State) := (Changes.refl hc).setAme
  exact ⟨.ite (h1.put ⟨_, List.mem_singleton_self _, Fld.zone_covers _⟩) (.refl hc), .ite rfl rfl⟩

/-- What a firing leaves. -/
structure Fired (s t : State) (mv path : Nat) (r : ShotRun) : Prop where
  run : t.ame.run = some r
  shown : t.get F.AME_VTXB_MV = mv
  low : 10 * mv < 9 * s.driveMv → t.flag F.AME_STAT_VTXB_LOW = true
  regs : RegsBut s t [F.AME_VTXB_MV, F.AME_STAT_VTXB_LOW, F.AME_P_STAT_POL path]
  rest : AmeOnly s t

theorem apart_of_pol {path : Nat} {g : Fld} (h : g.addr < F.AME_P_STAT 0) : (F.AME_P_STAT_POL path).zone.apart g = true := by
  have hno : (F.AME_P_STAT_POL path).zone.has g.addr = false := Bool.eq_false_iff.mpr fun hh => by
    have := Fld.zone_has.mp hh
    simp only [F.AME_P_STAT_POL, F.AME_P_STAT] at this h
    omega
  rw [Zone.apart, hno]
  rfl

/-- A firing shows VTXB, and what follows it touches no more than the polarity of its path. -/
theorem Fired.of_vtxbShown (hc : s.canonical = true) {mv path : Nat} (hmv : mv < 2 ^ 14)
    (h : Changes [(F.AME_P_STAT_POL path).zone] [.ame] (s.vtxbShown mv) t) (ho : AmeOnly (s.vtxbShown mv) t) (r : ShotRun) :
    Fired s (t.setRun r) mv path r := by
  obtain ⟨h1, ho1, hget, hlow⟩ := State.vtxbShown_spec hc hmv
  have h2 : Changes [(F.AME_P_STAT_POL path).zone] [.ame] (s.vtxbShown mv) (t.setRun r) := h.setAme
  have hapart {g : Fld} (hg : g.addr < F.AME_P_STAT 0) : ∀ z ∈ [(F.AME_P_STAT_POL path).zone], z.apart g = true := fun z hz =>
    List.mem_singleton.mp hz ▸ apart_of_pol hg
  have h3 : Changes [F.AME_VTXB_MV.zone, F.AME_STAT_VTXB_LOW.zone, (F.AME_P_STAT_POL path).zone] [.ame] s (t.setRun r) :=
    (h1.mono (by simp)).next h2 (by simp)
  exact ⟨rfl, (h2.get _ (hapart (by decide))).trans hget, fun hl => (h2.flag _ (hapart (by decide))).trans (hlow hl),
    h3.regsBut (by simp), (ho1.trans ho).trans rfl⟩

/-- The shot after a firing at `at0`. -/
def ShotRun.firedAt (r : ShotRun) (mv drive at0 : Nat) : ShotRun :=
  { r with pc := r.pc + 1, time := at0, vtxbLow := r.vtxbLow || decide (10 * mv < 9 * drive) }

/-- The next edge of a firing's sample clock. -/
def Firing.edge (c : Firing) (time : Nat) : Nat := (time + c.per - 1) / c.per * c.per

theorem execUcodeFire_first {vtxb : Nat} (hr : s.ame.run = some r) (ho : bitsOf (s.wordAt r.pc) 31 28 = 3)
    (ha : bitsOf (s.wordAt r.pc) 27 24 = 0)
    (hf : (s.shotFiring r.plan.path).collides ((s.shotFiring r.plan.path).edge r.time) r.firedB = false) :
    exec (.ucodeFire vtxb) s = .next (((s.vtxbShown (satNat 14 vtxb)).countPol r.plan).setRun
      { r.firedAt (satNat 14 vtxb) s.driveMv ((s.shotFiring r.plan.path).edge r.time) with
        firedA := some ((s.shotFiring r.plan.path).edge r.time), vtxb := satNat 14 vtxb }) := by
  change execUcodeFire vtxb s = _
  unfold execUcodeFire
  rw [State.ucode_runs hr ho (by decide), ha]
  unfold Firing.edge at *
  simp only [if_true, hf, Bool.false_eq_true, if_false]
  rfl

theorem execUcodeFire_second {vtxb : Nat} (hr : s.ame.run = some r) (ho : bitsOf (s.wordAt r.pc) 31 28 = 3)
    (ha : bitsOf (s.wordAt r.pc) 27 24 ≠ 0)
    (hf : (s.shotFiring r.plan.path).collides ((s.shotFiring r.plan.path).edge r.time) r.firedA = false) :
    exec (.ucodeFire vtxb) s = .next ((s.vtxbShown (satNat 14 vtxb)).setRun
      { r.firedAt (satNat 14 vtxb) s.driveMv ((s.shotFiring r.plan.path).edge r.time) with
        firedB := some ((s.shotFiring r.plan.path).edge r.time), vtxbB := satNat 14 vtxb }) := by
  change execUcodeFire vtxb s = _
  unfold execUcodeFire
  rw [State.ucode_runs hr ho (by decide)]
  unfold Firing.edge at *
  simp only [if_neg ha, hf, Bool.false_eq_true, if_false]
  rfl

end

/-- Settles O26: each word of the sequencer does at the running shot what Table 5.8 says. -/
theorem sequencerWordsRun : Obligations.SequencerWordsRun := by
  unfold Obligations.SequencerWordsRun
  intro vtxb r s hc hr w op a b c runs fire goes low
  have hmv : satNat 14 vtxb < 2 ^ 14 := Nat.lt_of_le_of_lt (Nat.min_le_right _ _) (by decide)
  refine ⟨?wait, ?fireA, ?fireB, ?waitf, ?waite, ?swap, ?reserved⟩
  case wait =>
    intro ho
    exact ⟨_, congrArg Host.Outcome.next (State.ucode_runs hr ho (by decide)), rfl⟩
  case fireA =>
    intro ho ha hf
    have hpol := State.countPol_spec (State.vtxbShown_spec hc hmv).1.canonical r.plan
    obtain ⟨h1, h2, h3, h4, h5⟩ := Fired.of_vtxbShown hc hmv hpol.1 hpol.2 _
    exact ⟨_, execUcodeFire_first hr ho ha hf, h1, h2, h3, h4, h5⟩
  case fireB =>
    intro ho ha hf
    obtain ⟨h1, h2, h3, h4, h5⟩ := Fired.of_vtxbShown (path := r.plan.path) hc hmv (.refl (State.vtxbShown_spec hc hmv).1.canonical) rfl _
    exact ⟨_, execUcodeFire_second hr ho ha hf, h1, h2, h3, h4, h5⟩
  case waitf =>
    intro f ho hfired hle
    refine ⟨_, congrArg Host.Outcome.next (State.ucode_runs hr ho (by decide)), ?_⟩
    change (match (if a = 0 then r.firedA else r.firedB) with
      | none => s
      | some f => if f + b < r.time then s.ucodeFault r else s.setRun { r with pc := r.pc + 1, time := f + b }) = _
    rw [hfired]
    exact if_neg (by omega)
  case waite =>
    intro e ho he
    refine ⟨_, congrArg Host.Outcome.next (State.ucode_runs hr ho (by decide)), ?_⟩
    change (match r.eventTime c a with
      | none => s
      | some t => s.setRun { r with pc := r.pc + 1, time := max r.time t }) = _
    rw [he]
    rfl
  case swap =>
    intro ho
    exact ⟨_, congrArg Host.Outcome.next (State.ucode_runs hr ho (by decide)), rfl⟩
  case reserved =>
    intro ho
    exact ⟨_, congrArg Host.Outcome.next (State.ucode_reserved hr ho), State.ucodeFault_spec hc r⟩

end Sys2Proof.Machine
end

section
set_option Elab.async false
/-! PROOF. The SHOT block's rows of a Compute: empty pipe, hold and recovery (Machine/ShotTick.lean; R218, R219, R221, R222). -/

namespace Sys2Proof.Machine

/-! ### Fields of one register -/

theorem Fld.zone_apart {f g : Fld} (h : g.addr ≠ f.addr ∨ g.hi < f.lo ∨ f.hi < g.lo) : f.zone.apart g = true := by
  rw [Zone.apart, Bool.or_eq_true, Bool.or_eq_true, decide_eq_true_eq, decide_eq_true_eq, or_assoc]
  refine h.imp_left fun hne => ?_
  rw [Bool.not_eq_true', Bool.eq_false_iff]
  exact fun hh => hne (Fld.zone_has.mp hh)

section
variable {s t : State} {W : List Zone} {L : List Part} {s0 : State}

/-- A write of a field whose own zone is listed. -/
theorem Changes.putAt (h : Changes W L s0 s) {f : Fld} {v : Nat} (hf : f.zone ∈ W := by simp) (hl : f.sane = true := by rfl) :
    Changes W L s0 (s.put f v) := h.put ⟨_, hf, Fld.zone_covers f⟩ hl

/-! ### Held values -/

/-- The held values of paths are discarded. -/
def State.dropHeld (s : State) (l : List Nat) : State := l.foldl (fun (t : State) n => t.setPathSt n { t.pathSt n with held := none }) s

theorem State.dropHeld_shot (l : List Nat) : s.dropHeld l = { s with shot := (s.dropHeld l).shot } := by
  induction l generalizing s with
  | nil => rfl
  | cons n l ih => exact ih (s := s.setPathSt n { s.pathSt n with held := none })

theorem State.pathSt_drop (n k : Nat) : ((s.setPathSt n { s.pathSt n with held := none }).pathSt k).held =
    if k = n then none else (s.pathSt k).held := by
  unfold State.pathSt State.setPathSt
  simp only [List.getD_eq_getElem?_getD, List.getElem?_set]
  split
  · next h =>
    subst h
    rw [if_pos rfl]
    split <;> rfl
  · next h => rw [if_neg fun hh => h hh.symm]

theorem State.dropHeld_held {l : List Nat} {k : Nat} (h : k ∈ l ∨ (s.pathSt k).held = none) : ((s.dropHeld l).pathSt k).held = none := by
  induction l generalizing s with
  | nil => exact h.resolve_left List.not_mem_nil
  | cons n l ih =>
    refine ih (s := s.setPathSt n { s.pathSt n with held := none }) ?_
    rw [State.pathSt_drop]
    rcases h with h | h
    · rcases List.mem_cons.mp h with rfl | h
      · exact .inr (if_pos rfl)
      · exact .inl h
    · right
      split
      · rfl
      · exact h

/-! ### Empty pipe -/

theorem State.setEmpty_eq (x : Nat) : s.setEmpty x = (s.set1 (F.SHOT_MSTAT_EMPTY x)).dropHeld (s.mpPaths x) := rfl

/-- The count of a Compute that sets EMPTY. -/
theorem State.emptyCount_sets {x : Nat} (he : s.flag (F.SHOT_MSTAT_EMPTY x) = false) (hr : s.emptyRule x = some true)
    (hle : s.get (F.SHOT_RULE_EP_COUNT x) ≤ s.get (F.SHOT_MSTAT_EPCNT x) + 1) :
    s.emptyCount x = (s.put (F.SHOT_MSTAT_EPCNT x) (s.get (F.SHOT_MSTAT_EPCNT x) + 1)).setEmpty x := by
  unfold State.emptyCount
  rw [if_neg (by rw [he]; decide), hr]
  exact if_pos hle

theorem Changes.mpPaths {L : List Part} (h : Changes W L s t) (x : Nat) (h1 : ∀ z ∈ W, z.apart (F.MP_CFG_PATHS x) = true := by decide)
    (h2 : ∀ n ∈ [0, 1, 2, 3], ∀ z ∈ W, z.apart (F.AME_P_PORT_EN n) = true := by decide) : t.mpPaths x = s.mpPaths x :=
  List.filter_congr fun n hn => by rw [h.get _ h1, State.portOn, State.portOn, h.flag _ (h2 n hn)]

/-- A row of a Compute that is due and does what it stands for. -/
theorem next_of_due {c : Prop} [Decidable c] (h : c) (t : State) :
    (Host.Outcome.next (if c then t else s) : Host.Outcome State Fault Refusal) = .next t := congrArg _ (if_pos h)

/-! ### Tick values -/

/-- Fields written one after the other. -/
def State.putAll (s : State) (l : List (Fld × Nat)) : State := l.foldl (fun (t : State) x => t.put x.1 x.2) s

/-- Fields of registers that have no bit in common. -/
def apartFields (l : List (Fld × Nat)) : Prop := l.Pairwise (fun a b => b.1.zone.apart a.1 = true)

theorem State.putAll_changes {l : List (Fld × Nat)} (hc : s.canonical = true) (hl : ∀ x ∈ l, x.1.sane = true) :
    Changes (l.map fun x => x.1.zone) [] s (s.putAll l) :=
  (Changes.refl hc).foldl fun _ x hx ht => ht.putAt (List.mem_map_of_mem hx) (hl x hx)

theorem State.get_putAll {l : List (Fld × Nat)} (hc : s.canonical = true) (hl : ∀ x ∈ l, x.1.sane = true) (hp : apartFields l)
    {f : Fld} {v : Nat} (hm : (f, v) ∈ l) (hv : v < 2 ^ (f.hi + 1 - f.lo)) : (s.putAll l).get f = v := by
  induction l generalizing s with
  | nil => exact absurd hm List.not_mem_nil
  | cons x l ih =>
    have hx := hl x List.mem_cons_self
    have hl' : ∀ y ∈ l, y.1.sane = true := fun y hy => hl y (List.mem_cons_of_mem x hy)
    have h1 : (s.put x.1 x.2).canonical = true := State.put_canonical hc
    rcases List.mem_cons.mp hm with rfl | hm
    · refine ((State.putAll_changes h1 hl').get f fun z hz => ?_).trans (State.get_put hc hv hx)
      obtain ⟨y, hy, rfl⟩ := List.mem_map.mp hz
      exact (List.pairwise_cons.mp hp).1 y hy
    · exact ih h1 hl' (List.pairwise_cons.mp hp).2 hm

/-- What clears with EMPTY. -/
def clearedFields (x : Nat) : List (Fld × Nat) := [(F.SHOT_MSTAT_EMPTY x, 0), (F.SHOT_MSTAT_EPCNT x, 0), (F.SHOT_MSTAT_CLRCNT x, 0)]

theorem clearedFields_apart (mp : MeterPoint) : apartFields (clearedFields (mpNum mp)) := by
  unfold apartFields
  cases mp <;> decide

theorem clearedFields_sane (x : Nat) : ∀ y ∈ clearedFields x, y.1.sane = true := by
  simp [clearedFields, Fld.sane_iff, F.SHOT_MSTAT_EMPTY, F.SHOT_MSTAT_EPCNT, F.SHOT_MSTAT_CLRCNT]

/-- The count of a Compute that clears EMPTY. -/
theorem State.clearCount_clears {x : Nat} (he : s.flag (F.SHOT_MSTAT_EMPTY x) = true) (hle : 3 ≤ s.get (F.SHOT_MSTAT_CLRCNT x))
    (hp : s.mpPaths x ≠ []) (hk : ∀ k ∈ s.mpPaths x, s.kept k ≠ []) : s.clearCount x = (s.putAll (clearedFields x)).markRecov x := by
  have hall : (s.mpPaths x).all (fun n => decide (s.kept n ≠ [])) = true := List.all_eq_true.mpr fun k hk' => decide_eq_true (hk k hk')
  unfold State.clearCount
  rw [if_pos he]
  dsimp only
  rw [if_pos ⟨hp, hall⟩, if_pos (by omega)]
  rfl

/-- What a path that is unknown publishes. -/
def unknownFields (n : Nat) : List (Fld × Nat) := [(F.SHOT_P_TDT_DTOF n, 0), (F.SHOT_P_TUP_TOF n, 0), (F.SHOT_P_TDN_TOF n, 0),
  (F.SHOT_P_TSTAT_STATE n, 2), (F.SHOT_P_TSTAT_HELDCNT n, 0)]

theorem State.publishPath_unknown (n : Nat) : s.publishPath n 2 (0, 0, 0) 0 = s.putAll (unknownFields n) := rfl

theorem unknownFields_apart : ∀ n : Fin 4, apartFields (unknownFields n.val) := by
  unfold apartFields
  decide

theorem State.unknownPath_spec (hc : s.canonical = true) (n : Fin 4) :
    let t := s.publishPath n.val 2 (0, 0, 0) 0
    t.get (F.SHOT_P_TSTAT_STATE n.val) = 2 ∧ t.getI (F.SHOT_P_TDT_DTOF n.val) = 0 ∧ t.get (F.SHOT_P_TUP_TOF n.val) = 0
      ∧ t.get (F.SHOT_P_TDN_TOF n.val) = 0 ∧ t.get (F.SHOT_P_TSTAT_HELDCNT n.val) = 0
      ∧ OnlyRegs s t [wholeReg (F.SHOT_P_TDT n.val), wholeReg (F.SHOT_P_TUP n.val), wholeReg (F.SHOT_P_TDN n.val),
        F.SHOT_P_TSTAT_STATE n.val, F.SHOT_P_TSTAT_HELDCNT n.val] := by
  intro t
  have hl : ∀ x ∈ unknownFields n.val, x.1.sane = true := by simp [unknownFields, Fld.sane_iff, F.SHOT_P_TDT_DTOF, F.SHOT_P_TUP_TOF,
    F.SHOT_P_TDN_TOF, F.SHOT_P_TSTAT_STATE, F.SHOT_P_TSTAT_HELDCNT]
  have hget {f : Fld} {v : Nat} (hm : (f, v) ∈ unknownFields n.val) (hv : v < 2 ^ (f.hi + 1 - f.lo)) : t.get f = v :=
    State.get_putAll hc hl (unknownFields_apart n) hm hv
  have hdt : t.get (F.SHOT_P_TDT_DTOF n.val) = 0 := hget (by simp [unknownFields]) (Nat.two_pow_pos _)
  refine ⟨hget (by simp [unknownFields]) (show 2 < 2 ^ (25 + 1 - 24) by decide), ?_, hget (by simp [unknownFields]) (Nat.two_pow_pos _),
    hget (by simp [unknownFields]) (Nat.two_pow_pos _), hget (by simp [unknownFields]) (Nat.two_pow_pos _), ?_, rfl⟩
  · rw [State.getI, hdt]
    rfl
  · exact (State.putAll_changes hc hl).regsBut (by simp [unknownFields, wholeReg, F.SHOT_P_TDT_DTOF, F.SHOT_P_TUP_TOF, F.SHOT_P_TDN_TOF])

/-- A path that has been held for its ticks becomes unknown. -/
theorem State.holdPath_expired {n limit : Nat} {v : Int × Nat × Nat} (hh : (s.pathSt n).held = some v) (hle : limit ≤ (s.pathSt n).heldFor) :
    s.holdPath n limit = s.publishPath n 2 (0, 0, 0) 0 := by
  unfold State.holdPath
  dsimp only
  rw [hh]
  exact if_neg (by omega)

end

/-- Settles O30: empty pipe sets and clears, an expired hold publishes zero, and the last recovery tick ends the recovery. -/
theorem emptyPipeHoldAndRecovery : Obligations.EmptyPipeHoldAndRecovery := by
  unfold Obligations.EmptyPipeHoldAndRecovery
  intro mp n v s hc hdue x empty
  refine ⟨?sets, ?clears, ?expires, ?recovers⟩
  case sets =>
    intro _ he hr hle
    have h1 : Changes [(F.SHOT_MSTAT_EMPTY x).zone, (F.SHOT_MSTAT_EPCNT x).zone] [] s
        ((s.put (F.SHOT_MSTAT_EPCNT x) (s.get (F.SHOT_MSTAT_EPCNT x) + 1)).set1 (F.SHOT_MSTAT_EMPTY x)) := ((Changes.refl hc).putAt).putAt
    have hset : ((s.put (F.SHOT_MSTAT_EPCNT x) (s.get (F.SHOT_MSTAT_EPCNT x) + 1)).set1 (F.SHOT_MSTAT_EMPTY x)).flag (F.SHOT_MSTAT_EMPTY x) = true :=
      State.set1_flag (State.put_canonical hc)
    have hpaths : (s.put (F.SHOT_MSTAT_EPCNT x) (s.get (F.SHOT_MSTAT_EPCNT x) + 1)).mpPaths x = s.mpPaths x := by
      have h2 : Changes [(F.SHOT_MSTAT_EPCNT x).zone] [] s (s.put (F.SHOT_MSTAT_EPCNT x) (s.get (F.SHOT_MSTAT_EPCNT x) + 1)) :=
        (Changes.refl hc).putAt
      cases mp with
      | mpa => exact h2.mpPaths 0
      | mpb => exact h2.mpPaths 1
    generalize hu : (s.put (F.SHOT_MSTAT_EPCNT x) (s.get (F.SHOT_MSTAT_EPCNT x) + 1)).set1 (F.SHOT_MSTAT_EMPTY x) = u at h1 hset
    have heq : s.emptyCount x = u.dropHeld (s.mpPaths x) := by
      rw [State.emptyCount_sets he hr hle, State.setEmpty_eq, hpaths, hu]
    have hregs : (u.dropHeld (s.mpPaths x)).regs = u.regs := by rw [State.dropHeld_shot]
    have hflag : (s.emptyCount x).flag (F.SHOT_MSTAT_EMPTY x) = true := by
      rw [heq, State.flag, State.get, State.rd, hregs]
      exact hset
    refine ⟨u.dropHeld (s.mpPaths x), (next_of_due ⟨hdue, hflag⟩ _).trans (congrArg _ heq), heq ▸ hflag,
      fun k hk => State.dropHeld_held (.inl hk), ?_, ?_⟩
    · have h3 : Changes [(F.SHOT_MSTAT_EMPTY x).zone, (F.SHOT_MSTAT_EPCNT x).zone] [.shot] u (u.dropHeld (s.mpPaths x)) := by
        rw [State.dropHeld_shot]
        exact (Changes.refl h1.canonical).setShot
      exact ((h1.mono (by simp) (M := []) (L := [.shot])).trans h3).regsBut (by simp)
    · rw [State.dropHeld_shot, ← hu]
      rfl
  case clears =>
    intro _ he hle hp hk
    have heq := State.clearCount_clears he hle hp hk
    have hget {f : Fld} (hm : (f, 0) ∈ clearedFields x) : (s.putAll (clearedFields x)).get f = 0 :=
      State.get_putAll hc (clearedFields_sane x) (clearedFields_apart mp) hm (Nat.two_pow_pos _)
    have hflag : (s.putAll (clearedFields x)).flag (F.SHOT_MSTAT_EMPTY x) = false := decide_eq_false (by rw [hget (by simp [clearedFields])]; decide)
    have h1 := State.putAll_changes hc (clearedFields_sane x)
    have h2 : Changes [] [.shot] (s.putAll (clearedFields x)) ((s.putAll (clearedFields x)).markRecov x) :=
      (Changes.refl h1.canonical).setShot
    have hkeep (g : Fld) : ((s.putAll (clearedFields x)).markRecov x).get g = (s.putAll (clearedFields x)).get g := h2.get g (by simp)
    have hoff : ((s.putAll (clearedFields x)).markRecov x).flag (F.SHOT_MSTAT_EMPTY x) = false := (h2.flag _ (by simp)).trans hflag
    have hclear : (s.clearCount x).flag (F.SHOT_MSTAT_EMPTY x) = false := by rw [heq, hoff]
    refine ⟨(s.putAll (clearedFields x)).markRecov x, ?_, hoff, (hkeep _).trans (hget (by simp [clearedFields])),
      (hkeep _).trans (hget (by simp [clearedFields])), ?_, ?_⟩
    · exact (next_of_due ⟨hdue, he, Bool.not_eq_true' _ ▸ hclear⟩ _).trans (congrArg _ heq)
    · rw [State.markRecov, h1.shot]
    · exact ((h1.mono (hV := fun _ h => h) (M := []) (L := [.shot])).next h2 (by simp)).regsBut (by simp [clearedFields])
  case expires =>
    intro hm hh hon hpath hk he hle
    have hport : s.portOn n.val = true := ((Bool.and_eq_true _ _).mp hpath).2
    have hcond : s.computeDue ∧ s.portOn n.val ∧ s.kept n.val = [] ∧ !s.flag (F.SHOT_MSTAT_EMPTY x)
        ∧ s.get (F.SHOT_RULE_HOLD_TICKS x) ≤ (s.pathSt n.val).heldFor := ⟨hdue, hport, hk, Bool.not_eq_true' _ ▸ he, hle⟩
    refine ⟨s.publishPath n.val 2 (0, 0, 0) 0, ?_, State.unknownPath_spec hc n⟩
    change execHoldExpiry n s = _
    unfold execHoldExpiry
    dsimp only
    rw [hm, hh]
    dsimp only
    rw [if_pos hcond, State.holdPath_expired hh hle]
  case recovers =>
    intro hon hone hcount
    have heq : s.recovCompute x = { s.put (F.SHOT_MSTAT_RECOV x) (s.get (F.SHOT_MSTAT_RECOV x) - 1) with
        shot := { s.shot with recByCount := s.shot.recByCount.set x false } } := if_pos hcount
    have h1 : Changes [(F.SHOT_MSTAT_RECOV x).zone] [] s (s.put (F.SHOT_MSTAT_RECOV x) (s.get (F.SHOT_MSTAT_RECOV x) - 1)) :=
      (Changes.refl hc).putAt
    have hget := State.get_put (f := F.SHOT_MSTAT_RECOV x) hc (v := s.get (F.SHOT_MSTAT_RECOV x) - 1) (by rw [hone]; exact Nat.two_pow_pos _)
    refine ⟨_, (next_of_due ⟨hdue, hone⟩ _).trans (congrArg _ heq), ?_, h1.regsBut (by simp), rfl⟩
    exact hget.trans (by rw [hone])

end Sys2Proof.Machine
end

section
set_option Elab.async false
/-! PROOF. The deposit block of a path, and the hidden copy that its results show with (Machine/ShotRecord.lean; R45, R205, R206). -/

namespace Sys2Proof.Machine

section
variable {s : State}

/-! ### The hidden copy -/

/-- Writes of registers do not see the front end's state and the SHOT block's. -/
theorem State.putAll_with {a : Ame} {b : Shot} (l : List (Fld × Nat)) :
    ({ s with ame := a, shot := b } : State).putAll l = { s.putAll l with ame := a, shot := b } := by
  induction l generalizing s with
  | nil => rfl
  | cons x l ih => exact ih (s := s.put x.1 x.2)

theorem State.putAll_regs (l : List (Fld × Nat)) : s.putAll l = { s with regs := (s.putAll l).regs } := by
  induction l generalizing s with
  | nil => rfl
  | cons x l ih => exact ih (s := s.put x.1 x.2)

theorem State.putAll_append (l m : List (Fld × Nat)) : s.putAll (l ++ m) = (s.putAll l).putAll m := List.foldl_append

/-- The state once fields have joined the hidden copy and the SHOT block's state has been replaced. -/
def State.hiding (s : State) (h : List (Fld × Nat)) (b : Shot) : State :=
  { s with ame := { s.ame with hidden := h.reverse ++ s.ame.hidden }, shot := b }

/-- What the hidden copy takes shows after what it held. -/
theorem State.showHidden_hiding (h : List (Fld × Nat)) (b : Shot) :
    (s.hiding h b).showHidden = { s.showHidden.putAll h with shot := b } := by
  have hl : (s.hiding h b).showHidden =
      { (s.hiding h b).putAll (s.hiding h b).ame.hidden.reverse with ame := { (s.hiding h b).ame with hidden := [] } } := rfl
  have hs : s.showHidden = { s.putAll s.ame.hidden.reverse with
      ame := { s.ame with hidden := [] }
      shot := (s.putAll s.ame.hidden.reverse).shot } := rfl
  have hrev : (s.hiding h b).ame.hidden.reverse = s.ame.hidden.reverse ++ h := by
    change (h.reverse ++ s.ame.hidden).reverse = _
    rw [List.reverse_append, List.reverse_reverse]
  have hleft : (s.hiding h b).putAll (s.ame.hidden.reverse ++ h) =
      { (s.putAll s.ame.hidden.reverse).putAll h with
        ame := { s.ame with hidden := h.reverse ++ s.ame.hidden }
        shot := b } := (State.putAll_with _).trans (by rw [State.putAll_append])
  have hright : s.showHidden.putAll h = { (s.putAll s.ame.hidden.reverse).putAll h with
      ame := { s.ame with hidden := [] }
      shot := (s.putAll s.ame.hidden.reverse).shot } := (congrArg (fun t : State => t.putAll h) hs).trans (State.putAll_with h)
  rw [hl, hrev, hleft, hright]
  rfl

/-! ### The deposit block -/

/-- The mean that follows a full block. -/
def PathSt.nextM (p : PathSt) : Int := match p.depM with
  | none => roundDiv p.depSum p.depCount
  | some m => m + roundDiv (roundDiv p.depSum p.depCount - m) 8

/-- The path whose next block begins. -/
def PathSt.nextBlock (p : PathSt) : PathSt := { p with depSum := 0, depCount := 0, depM := some p.nextM }

/-- The ratio of a mean to its reference. -/
def depRatio (m : Int) (dref : Nat) : Nat := satNat 16 (roundDiv (m * 16384) dref).toNat

/-- What a closed block shows. -/
def depFields (n dref thr : Nat) (m : Int) : List (Fld × Nat) :=
  if dref = 0 then [(F.SHOT_P_DEP_RATIO n, 0), (F.SHOT_P_DEP_FLAG n, 0)]
  else if depRatio m dref < thr then [(F.SHOT_P_DEP_RATIO n, depRatio m dref), (F.SHOT_P_DEP_FLAG n, 1)]
  else if thr + 1024 ≤ depRatio m dref then [(F.SHOT_P_DEP_RATIO n, depRatio m dref), (F.SHOT_P_DEP_FLAG n, 0)]
  else [(F.SHOT_P_DEP_RATIO n, depRatio m dref)]

theorem depRatio_mod (m : Int) (dref : Nat) : depRatio m dref % 2 ^ (15 + 1 - 0) = depRatio m dref :=
  Nat.mod_eq_of_lt (Nat.lt_of_le_of_lt (Nat.min_le_right _ _) (by decide))

theorem State.depositShow_eq {n : Nat} {m : Int} (hm : (s.pathSt n).depM = some m) :
    s.depositShow n = s.hiding (depFields n (s.get (F.SHOT_P_DREF_DREF n)) (s.get (F.SHOT_P_LIM_DEPTHR n)) m) s.shot := by
  unfold State.depositShow depFields
  dsimp only
  rw [hm]
  dsimp only
  have hr := depRatio_mod m (s.get (F.SHOT_P_DREF_DREF n))
  unfold depRatio at *
  have hput (f : Fld) (hf : f = F.SHOT_P_DEP_RATIO n) : s.hput f (satNat 16 (roundDiv (m * 16384) (s.get (F.SHOT_P_DREF_DREF n))).toNat)
    = s.hiding [(F.SHOT_P_DEP_RATIO n, satNat 16 (roundDiv (m * 16384) (s.get (F.SHOT_P_DREF_DREF n))).toNat)] s.shot := by
    subst hf
    rw [State.hput]
    change ({ s with ame := { s.ame with hidden := (_, _ % 2 ^ (15 + 1 - 0)) :: s.ame.hidden } } : State) = _
    rw [hr]
    rfl
  rw [hput _ rfl]
  split
  · rfl
  · split
    · rfl
    · split <;> rfl

/-- A full block closes. -/
theorem State.depositBlock_eq {n : Nat} (h4 : s.shot.paths.length = 4) (hn : n < 4) (hfull : 4096 ≤ (s.pathSt n).depCount) :
    s.depositBlock n = s.hiding (depFields n (s.get (F.SHOT_P_DREF_DREF n)) (s.get (F.SHOT_P_LIM_DEPTHR n)) (s.pathSt n).nextM)
      { s.shot with paths := s.shot.paths.set n (s.pathSt n).nextBlock } := by
  have h1 : s.depositBlock n = (s.setPathSt n (s.pathSt n).nextBlock).depositShow n := if_pos hfull
  have h2 : ((s.setPathSt n (s.pathSt n).nextBlock).pathSt n).depM = some (s.pathSt n).nextM := by
    unfold State.pathSt State.setPathSt
    rw [List.getD_eq_getElem?_getD, List.getElem?_set_self (by omega)]
    rfl
  rw [h1, State.depositShow_eq h2]
  rfl

theorem State.pathSt_set {b : Shot} {n : Nat} {p : PathSt} (hn : n < b.paths.length) :
    ({ s with shot := { b with paths := b.paths.set n p } } : State).pathSt n = p := by
  unfold State.pathSt
  rw [List.getD_eq_getElem?_getD, List.getElem?_set_self hn]
  rfl

theorem depFields_sane (n dref thr : Nat) (m : Int) : ∀ x ∈ depFields n dref thr m, x.1.sane = true := by
  unfold depFields
  split
  · simp [Fld.sane_iff, F.SHOT_P_DEP_RATIO, F.SHOT_P_DEP_FLAG]
  · split
    · simp [Fld.sane_iff, F.SHOT_P_DEP_RATIO, F.SHOT_P_DEP_FLAG]
    · split <;> simp [Fld.sane_iff, F.SHOT_P_DEP_RATIO, F.SHOT_P_DEP_FLAG]

theorem depFields_apart (n dref thr : Nat) (m : Int) : apartFields (depFields n dref thr m) := by
  have h2 (a b : Nat) : apartFields [(F.SHOT_P_DEP_RATIO n, a), (F.SHOT_P_DEP_FLAG n, b)] :=
    List.pairwise_pair.mpr (Fld.zone_apart (.inr (.inl (show 15 < 31 by decide))))
  unfold depFields
  split
  · exact h2 _ _
  · split
    · exact h2 _ _
    · split
      · exact h2 _ _
      · exact List.pairwise_singleton _ _

theorem depFields_zones (n dref thr : Nat) (m : Int) : ∀ x ∈ depFields n dref thr m,
    x.1 = F.SHOT_P_DEP_RATIO n ∨ x.1 = F.SHOT_P_DEP_FLAG n := by
  unfold depFields
  split
  · simp
  · split
    · simp
    · split <;> simp

end

/-- Settles O31: a full block closes, its results show with the hidden copy, and the next block begins. -/
theorem depositBlockCloses : Obligations.DepositBlockCloses := by
  unfold Obligations.DepositBlockCloses
  intro n s hc hdue h4 u p mean m dref ratio thr hfull
  have hu : u.canonical = true := (State.showHidden_keeps (Keeps.refl s)).2.1 hc
  have hm : m = p.nextM := by
    unfold PathSt.nextM
    cases h : p.depM <;> simp only [m, mean, h]
  have hrun : exec (.depositBlock n) s = .next { u.putAll (depFields n.val dref thr m) with
      shot := { s.shot with paths := s.shot.paths.set n.val p.nextBlock } } := by
    rw [hm]
    refine (next_of_due (s := s) hdue _).trans (congrArg _ ?_)
    rw [State.depositBlock_eq h4 n.isLt hfull, State.showHidden_hiding]
  have h1 := State.putAll_changes hu (depFields_sane n.val dref thr m)
  have hget {f : Fld} {v : Nat} (hf : (f, v) ∈ depFields n.val dref thr m) (hv : v < 2 ^ (f.hi + 1 - f.lo)) :
      (u.putAll (depFields n.val dref thr m)).get f = v :=
    State.get_putAll hu (depFields_sane _ _ _ _) (depFields_apart _ _ _ _) hf hv
  have hratio : depRatio m dref < 2 ^ (15 + 1 - 0) := Nat.lt_of_le_of_lt (Nat.min_le_right _ _) (by decide)
  refine ⟨_, hrun, (State.pathSt_set (Nat.lt_of_lt_of_eq n.isLt h4.symm)).trans (by rw [hm]; rfl), fun hd => ⟨?_, fun hlt => ?_, fun hge => ?_⟩, fun hd => ⟨?_, ?_⟩, ?_, ?_⟩
  · refine hget (f := F.SHOT_P_DEP_RATIO n.val) (v := depRatio m dref) ?_ hratio
    rw [depFields, if_neg hd]
    split
    · simp
    · split <;> simp
  · replace hlt : depRatio m dref < thr := hlt
    refine decide_eq_true (hget (f := F.SHOT_P_DEP_FLAG n.val) (v := 1) ?_ (show 1 < 2 ^ (31 + 1 - 31) by decide))
    rw [depFields, if_neg hd, if_pos hlt]
    simp
  · replace hge : thr + 1024 ≤ depRatio m dref := hge
    refine decide_eq_false fun hone => ?_
    have hzero := hget (f := F.SHOT_P_DEP_FLAG n.val) (v := 0) (by
      rw [depFields, if_neg hd, if_neg (by omega), if_pos hge]
      simp) (Nat.two_pow_pos _)
    exact Nat.zero_ne_one (hzero.symm.trans hone)
  · refine hget ?_ (Nat.two_pow_pos _)
    rw [depFields, if_pos hd]
    simp
  · refine decide_eq_false fun hone => ?_
    have hzero := hget (f := F.SHOT_P_DEP_FLAG n.val) (v := 0) (by rw [depFields, if_pos hd]; simp) (Nat.two_pow_pos _)
    exact Nat.zero_ne_one (hzero.symm.trans hone)
  · refine ZonesBut.regsBut h1.zones fun z hz => ?_
    obtain ⟨x, hx, rfl⟩ := List.mem_map.mp hz
    exact ⟨x.1, by simpa using depFields_zones _ _ _ _ x hx, rfl⟩
  · have hregs : u.putAll (depFields n.val dref thr m) = { u with regs := (u.putAll (depFields n.val dref thr m)).regs } :=
      State.putAll_regs _
    rw [hregs]

end Sys2Proof.Machine
end

section
set_option Elab.async false
/-! PROOF. The ends of a zero calibration (Machine/ShotTick.lean; R224, R226, Table 6.8). -/

namespace Sys2Proof.Machine

section
variable {s t : State}

/-! ### Legal events and the journal's row -/

/-- The journal keeps the calibration's row, and a commit that is due. -/
structure RowKept (s t : State) : Prop where
  row : t.jrn.zcRow = s.jrn.zcRow
  due : s.jrn.due = true → t.jrn.due = true

theorem RowKept.refl (s : State) : RowKept s s := ⟨rfl, id⟩

theorem RowKept.trans {u : State} (h : RowKept s t) (k : RowKept t u) : RowKept s u := ⟨k.row.trans h.row, fun hd => k.due (h.due hd)⟩

theorem RowKept.of_jrn {j : Journal} (h : t.jrn = j) (hr : j.zcRow = s.jrn.zcRow) (hd : s.jrn.due = true → j.due = true) : RowKept s t :=
  ⟨h ▸ hr, fun hs => h ▸ hd hs⟩

theorem State.legalQueue_rowKept (hc : s.canonical = true) (e : LegalEntry) : RowKept s (s.legalQueue e) := by
  have hj (j : Journal) : ({ s with jrn := j } : State).legalShow.jrn = j :=
    (State.legalShow_changes (s := { s with jrn := j }) hc).jrn
  unfold State.legalQueue
  extract_lets j
  split
  · exact ⟨rfl, id⟩
  · split
    · exact .of_jrn (hj _) rfl fun _ => rfl
    · exact .of_jrn (hj _) rfl id

theorem State.legal_rowKept (hc : s.canonical = true) (code : Nat) (data : List Byte) : RowKept s (s.legal code data) := by
  unfold State.legal State.legalAt
  split
  · split
    · exact State.legalQueue_rowKept hc _
    · exact ⟨rfl, id⟩
  · exact State.legalQueue_rowKept hc _

/-! ### Refusals -/

/-- What a refusal shows. -/
def refusedFields (cause : Nat) : List (Fld × Nat) :=
  [(F.SHOT_ZCSTAT_STATE, 0), (F.SHOT_ZCSTAT_RESULT, 2), (F.SHOT_ZCSTAT_CAUSE, cause), (F.CMD_STAT_ZCBUSY, 0)]

/-- A calibration that has been refused with a cause of Table 6.8. -/
structure Refused (s t : State) (cause : Nat) : Prop where
  ended : t.shot.zc = none
  journal : t.jrn = s.jrn
  state : t.get F.SHOT_ZCSTAT_STATE = 0
  result : t.get F.SHOT_ZCSTAT_RESULT = 2
  cause : t.get F.SHOT_ZCSTAT_CAUSE = cause
  idle : t.flag F.CMD_STAT_ZCBUSY = false
  regs : RegsBut s t [F.SHOT_ZCSTAT_STATE, F.SHOT_ZCSTAT_RESULT, F.SHOT_ZCSTAT_CAUSE, F.CMD_STAT_ZCBUSY]

theorem State.zcRefuse_eq {z : ZcRun} (hz : s.shot.zc = some z) (cause : Nat) : s.zcRefuse cause =
    ({ s with shot := { s.shot with zc := none, zcOut := some (.error 6) } } : State).putAll (refusedFields cause) := by
  unfold State.zcRefuse
  rw [hz]
  rfl

theorem State.zcRefuse_refused (hc : s.canonical = true) {z : ZcRun} (hz : s.shot.zc = some z) {cause : Nat} (hlt : cause < 16) :
    Refused s (s.zcRefuse cause) cause := by
  rw [State.zcRefuse_eq hz]
  have h1 : Changes [] [.shot] s { s with shot := { s.shot with zc := none, zcOut := some (.error 6) } } := (Changes.refl hc).setShot
  generalize hu : ({ s with shot := { s.shot with zc := none, zcOut := some (.error 6) } } : State) = u at h1
  have hend : u.shot.zc = none := by rw [← hu]
  have hl : ∀ x ∈ refusedFields cause, x.1.sane = true := by
    simp [refusedFields, Fld.sane_iff, F.SHOT_ZCSTAT_STATE, F.SHOT_ZCSTAT_RESULT, F.SHOT_ZCSTAT_CAUSE, F.CMD_STAT_ZCBUSY]
  have hp : apartFields (refusedFields cause) := by
    simp only [apartFields, refusedFields, List.pairwise_cons, List.mem_cons, List.not_mem_nil, or_false, forall_eq_or_imp, forall_eq,
      false_imp_iff, implies_true, List.Pairwise.nil, and_true]
    decide
  have h2 := State.putAll_changes h1.canonical hl
  have hget {f : Fld} {v : Nat} (hm : (f, v) ∈ refusedFields cause) (hv : v < 2 ^ (f.hi + 1 - f.lo)) :
      (u.putAll (refusedFields cause)).get f = v := State.get_putAll h1.canonical hl hp hm hv
  exact {
    ended := (congrArg Shot.zc h2.shot).trans hend
    journal := h2.jrn.trans h1.jrn
    state := hget (by simp [refusedFields]) (by decide)
    result := hget (by simp [refusedFields]) (by decide)
    cause := hget (by simp [refusedFields]) hlt
    idle := decide_eq_false (by rw [hget (f := F.CMD_STAT_ZCBUSY) (v := 0) (by simp [refusedFields]) (by decide)]; decide)
    regs := ((h1.mono (L := [.shot]) (by simp)).next h2 (fun _ h => h) (by simp)).regsBut (by simp [refusedFields]) }

/-! ### Stored values -/

/-- What the values of a path are recorded with. -/
def zcRecord (mp : Nat) (v : Nat × Int × Int × Nat × Nat) (t : State) : State :=
  t.legal 0x30 ([byte mp, byte v.1] ++ bytesLE 4 (t.get (F.SHOT_P_ZOFF_ZOFF v.1)) ++ bytesLE 4 (ofSigned 32 v.2.1))

/-- The values that a calibration's shots give. -/
def ZcRun.values (z : ZcRun) : List (Nat × Int × Int × Nat × Nat) := z.paths.map (fun p => (p.1, zcValues p.2))

/-- The values of a calibration wait for their journal row. -/
def State.zcStored (s : State) (z : ZcRun) : State :=
  let s1 := { s with
    shot := { s.shot with zc := none }
    jrn := { s.jrn with zcRow := some ⟨z.mp, z.values, false⟩, due := true } }
  (s1.put F.SHOT_ZCSTAT_STATE 2).put F.BILL_JRNL_PEND (s1.get F.BILL_JRNL_PEND + 1)

theorem State.zcEnd_stores {z : ZcRun} (hz : s.shot.zc = some z)
    (hw : z.values.any (fun v => decide (s.get F.SHOT_ZCCFG_SPREAD < v.2.2.2.2)) = false)
    (hf : z.values.any (fun v => decide (256 * s.get F.SHOT_ZCMAX_MAXOFF < v.2.1.natAbs)) = false) :
    s.zcEnd = z.values.foldl (fun t v => zcRecord z.mp v t) (s.zcStored z) := by
  unfold State.zcEnd
  rw [hz]
  unfold ZcRun.values at *
  dsimp only
  rw [if_neg (by rw [hw]; decide), if_neg (by rw [hf]; decide)]
  rfl

theorem State.zcEnd_wide {z : ZcRun} (hz : s.shot.zc = some z)
    (hw : z.values.any (fun v => decide (s.get F.SHOT_ZCCFG_SPREAD < v.2.2.2.2)) = true) : s.zcEnd = s.zcRefuse 1 := by
  unfold State.zcEnd
  rw [hz]
  exact if_pos hw

theorem State.zcEnd_far {z : ZcRun} (hz : s.shot.zc = some z)
    (hw : z.values.any (fun v => decide (s.get F.SHOT_ZCCFG_SPREAD < v.2.2.2.2)) = false)
    (hf : z.values.any (fun v => decide (256 * s.get F.SHOT_ZCMAX_MAXOFF < v.2.1.natAbs)) = true) : s.zcEnd = s.zcRefuse 2 := by
  unfold State.zcEnd
  rw [hz]
  unfold ZcRun.values at *
  dsimp only
  rw [if_neg (by rw [hw]; decide), if_pos hf]

theorem State.zcRecords_spec (hc : s.canonical = true) (mp : Nat) (l : List (Nat × Int × Int × Nat × Nat)) :
    Changes legalZones legalParts s (l.foldl (fun t v => zcRecord mp v t) s) ∧ RowKept s (l.foldl (fun t v => zcRecord mp v t) s) := by
  induction l generalizing s with
  | nil => exact ⟨.refl hc, .refl s⟩
  | cons v l ih =>
    have h1 : Changes legalZones legalParts s (zcRecord mp v s) := State.legal_changes hc _ _
    obtain ⟨h2, hrow⟩ := ih h1.canonical
    exact ⟨h1.trans h2, (State.legal_rowKept hc _ _).trans hrow⟩

/-- What storing the values shows in. -/
def storedZones : List Zone := F.SHOT_ZCSTAT_STATE.zone :: F.BILL_JRNL_PEND.zone :: legalZones

theorem State.zcStored_spec (hc : s.canonical = true) (z : ZcRun) : Changes storedZones [.shot, .jrn] s (s.zcStored z)
    ∧ (s.zcStored z).get F.SHOT_ZCSTAT_STATE = 2 := by
  unfold State.zcStored
  extract_lets src srcJ s1
  have h0 : Changes storedZones [.shot, .jrn] s { s with shot := { s.shot with zc := none } } := (Changes.refl hc).setShot
  have h1 : Changes storedZones [.shot, .jrn] s s1 := h0.setJrn
  have h2 : Changes storedZones [.shot, .jrn] s (s1.put F.SHOT_ZCSTAT_STATE 2) := h1.put
  have h3 : Changes [F.BILL_JRNL_PEND.zone] [] (s1.put F.SHOT_ZCSTAT_STATE 2)
      ((s1.put F.SHOT_ZCSTAT_STATE 2).put F.BILL_JRNL_PEND (s1.get F.BILL_JRNL_PEND + 1)) := (Changes.refl h2.canonical).put
  exact ⟨h2.next h3, (h3.get _).trans (State.get_put h1.canonical (by decide))⟩

/-- A collection that ends or times out in a Compute. -/
theorem State.zcCompute_full {z : ZcRun} (hz : s.shot.zc = some z) (he : s.flag (F.SHOT_MSTAT_EMPTY z.mp) = false)
    (hf : s.zcFull = true) : s.zcCompute = s.zcEnd := by
  unfold State.zcCompute
  rw [hz]
  dsimp only
  rw [if_neg (by rw [he]; decide), if_pos hf]

theorem State.zcCompute_late {z : ZcRun} (hz : s.shot.zc = some z) (he : s.flag (F.SHOT_MSTAT_EMPTY z.mp) = false)
    (hl : s.zcLate = true) : s.zcCompute = s.zcRefuse 3 := by
  have hf : s.zcFull = false := by
    unfold State.zcFull State.zcLate at *
    rw [hz] at hl ⊢
    dsimp only at hl ⊢
    obtain ⟨p, hp, hshort⟩ := List.any_eq_true.mp (Bool.and_eq_true_iff.mp hl).2
    have hall : z.paths.all (fun p => decide (256 ≤ p.2.length)) = false := List.all_eq_false.mpr
      ⟨p, hp, by simpa using of_decide_eq_true hshort⟩
    rw [hall, Bool.and_false, Bool.false_and]
  unfold State.zcCompute
  rw [hz]
  dsimp only
  rw [if_neg (by rw [he]; decide), if_neg (by rw [hf]; decide), if_pos hl]

end

/-- Settles O32: a full calibration is stored or refused by a limit, and a late one is refused. -/
theorem zeroCalibrationEnds : Obligations.ZeroCalibrationEnds := by
  unfold Obligations.ZeroCalibrationEnds
  intro z s hc hdue hz he vals wide far refused
  have hwide : wide ↔ z.values.any (fun v => decide (s.get F.SHOT_ZCCFG_SPREAD < v.2.2.2.2)) = true := by
    simp only [List.any_eq_true, decide_eq_true_eq]
    rfl
  have hfar : far ↔ z.values.any (fun v => decide (256 * s.get F.SHOT_ZCMAX_MAXOFF < v.2.1.natAbs)) = true := by
    simp only [List.any_eq_true, decide_eq_true_eq]
    rfl
  have hend (hf : s.zcFull = true) : exec .zerocalCollectionEnd s = .next s.zcEnd :=
    (next_of_due ⟨hdue, hf⟩ _).trans (congrArg _ (State.zcCompute_full hz he hf))
  have hrefused {cause : Nat} (hlt : cause < 16) : refused (s.zcRefuse cause) cause := by
    obtain ⟨h1, h2, h3, h4, h5, h6, h7⟩ := State.zcRefuse_refused hc hz hlt
    exact ⟨h1, h2, h3, h4, h5, h6, h7⟩
  refine ⟨fun hf hw => ?_, fun hf hw hfa => ?_, fun hf hw hfa => ?_, fun hl => ?_⟩
  · exact ⟨_, (hend hf).trans (congrArg _ (State.zcEnd_wide hz (hwide.mp hw))), hrefused (by decide)⟩
  · exact ⟨_, (hend hf).trans (congrArg _ (State.zcEnd_far hz (Bool.eq_false_iff.mpr fun h => hw (hwide.mpr h)) (hfar.mp hfa))),
      hrefused (by decide)⟩
  · obtain ⟨h1, hstate⟩ := State.zcStored_spec hc z
    obtain ⟨h2, hrow, hdue2⟩ := State.zcRecords_spec h1.canonical z.mp z.values
    have h3 := (h1.mono (W := storedZones) (L := .shot :: legalParts)).next h2
    refine ⟨_, (hend hf).trans (congrArg _ (State.zcEnd_stores hz (Bool.eq_false_iff.mpr fun h => hw (hwide.mpr h))
      (Bool.eq_false_iff.mpr fun h => hfa (hfar.mpr h)))), congrArg Shot.zc h2.shot, hrow, hdue2 rfl, (h2.get _).trans hstate,
      h3.blockKept .mpa, h3.blockKept .ame⟩
  · exact ⟨_, (next_of_due ⟨hdue, hl⟩ _).trans (congrArg _ (State.zcCompute_late hz he hl)), hrefused (by decide)⟩

end Sys2Proof.Machine
end

section
set_option Elab.async false
/-! PROOF. The flow tampers and the plausibility rule (Machine/Meter.lean; R242, R243, R260). -/

namespace Sys2Proof.Machine

section
variable {s t : State}

/-! ### Tampers of a meter point -/

theorem State.raiseTamper_meter {src : Nat} (hs : 4 < src) : s.raiseTamper src =
    (((s.put ⟨F.SAFE_TLATCH, src, src⟩ 1).bump F.SAFE_TCNT_COUNT 1).logTrouble 0x60 src
      (((s.put ⟨F.SAFE_TLATCH, src, src⟩ 1).bump F.SAFE_TCNT_COUNT 1).rd F.SAFE_TLATCH).toNat).legal 0x10 [byte src] := by
  have h4 : ¬ src ≤ 4 := by omega
  have h5 : ¬ src < 4 := by omega
  unfold State.raiseTamper
  simp only [h4, h5, false_and, if_false]

/-- What a tamper of a meter point shows. -/
theorem State.raiseTamper_shows (hc : s.canonical = true) {src : Nat} (hs : 4 < src) (hlt : src < 32) :
    Changes tamperZones tamperParts s (s.raiseTamper src) ∧ (s.raiseTamper src).flag ⟨F.SAFE_TLATCH, src, src⟩ = true
    ∧ (s.raiseTamper src).get F.SAFE_TCNT_COUNT = min (s.get F.SAFE_TCNT_COUNT + 1) 65535 := by
  refine ⟨State.raiseTamper_changes hc hlt, ?_⟩
  have hsane : Fld.sane ⟨F.SAFE_TLATCH, src, src⟩ = true := Fld.sane_iff.mpr ⟨Nat.le_refl _, hlt⟩
  have h1 : Changes [(Fld.zone ⟨F.SAFE_TLATCH, src, src⟩)] [] s (s.put ⟨F.SAFE_TLATCH, src, src⟩ 1) := (Changes.refl hc).putAt (hl := hsane)
  have hbit := State.set1_flag (f := ⟨F.SAFE_TLATCH, src, src⟩) hc hsane
  have h2 : Changes [F.SAFE_TCNT_COUNT.zone] [] _ ((s.put ⟨F.SAFE_TLATCH, src, src⟩ 1).bump F.SAFE_TCNT_COUNT 1) := (Changes.refl h1.canonical).bump
  have hcnt := State.bump_get (f := F.SAFE_TCNT_COUNT) h1.canonical 1
  rw [State.raiseTamper_meter hs]
  generalize (s.put ⟨F.SAFE_TLATCH, src, src⟩ 1).bump F.SAFE_TCNT_COUNT 1 = u at h2 hcnt
  have h3 := State.logTrouble_changes h2.canonical 0x60 src (u.rd F.SAFE_TLATCH).toNat
  have h4 : Changes (logZones ++ legalZones) (logParts ++ legalParts) u _ :=
    (h3.mono).next (State.legal_changes h3.canonical 0x10 [byte src])
  have hapart {W : List Zone} (hW : ∀ z ∈ W, z.has F.SAFE_TLATCH = false) : ∀ z ∈ W, z.apart ⟨F.SAFE_TLATCH, src, src⟩ = true := fun z hz => by
    rw [Zone.apart, hW z hz]
    rfl
  refine ⟨(h4.flag _ (hapart (by decide))).trans ((h2.flag _ (hapart (by decide))).trans hbit), (h4.get _).trans (hcnt.trans ?_)⟩
  rw [h1.get F.SAFE_TCNT_COUNT fun z hz => List.mem_singleton.mp hz ▸ Fld.zone_apart (.inl (show F.SAFE_TCNT ≠ F.SAFE_TLATCH by decide))]
  rfl

/-! ### Runs of Measured ticks -/

theorem TamperRun.tick_raises {r : TamperRun} (hc : r.count = 7) (ha : r.armed = true) : r.tick true = (⟨0, false⟩, true, false) := by
  obtain ⟨count, armed⟩ := r
  subst hc ha
  rfl

theorem TamperRun.tick_ends {r : TamperRun} (hc : r.count = 7) (ha : r.armed = false) : r.tick false = (⟨0, true⟩, false, true) := by
  obtain ⟨count, armed⟩ := r
  subst hc ha
  rfl

theorem State.reverseTick_raises {x : Nat} (hc : (s.mp x).rev.count = 7) (ha : (s.mp x).rev.armed = true) :
    s.reverseTick x true = ((s.setMp x { s.mp x with rev := ⟨0, false⟩ }).set1 (F.MP_STAT_REVTAMP x)).raiseTamper (5 + x) := by
  unfold State.reverseTick
  rw [TamperRun.tick_raises hc ha]
  rfl

theorem State.reverseTick_ends {x : Nat} (hc : (s.mp x).rev.count = 7) (ha : (s.mp x).rev.armed = false) :
    s.reverseTick x false = (s.setMp x { s.mp x with rev := ⟨0, true⟩ }).tamperEnd (5 + x) := by
  unfold State.reverseTick
  rw [TamperRun.tick_ends hc ha]
  rfl

theorem State.signTick_raises {x : Nat} (hc : (s.mp x).sgn.count = 7) (ha : (s.mp x).sgn.armed = true) :
    s.signTick x true = ((s.setMp x { s.mp x with sgn := ⟨0, false⟩ }).set1 (F.MP_STAT_SIGNTAMP x)).raiseTamper (7 + x) := by
  unfold State.signTick
  rw [TamperRun.tick_raises hc ha]
  rfl

theorem State.mp_setMp {x : Nat} {m : MpSt} (hx : x < s.mps.length) : (s.setMp x m).mp x = m := by
  unfold State.mp State.setMp
  rw [List.getD_eq_getElem?_getD, List.getElem?_set_self hx]
  rfl

/-- A meter point's flow tamper is raised: its bit, its latch and its count. -/
theorem State.meterTamper_shows (hc : s.canonical = true) (mp : MeterPoint) (m : MpSt) {f : Fld} {src : Nat}
    (hf : f = F.MP_STAT_REVTAMP (mpNum mp) ∧ src = 5 + mpNum mp ∨ f = F.MP_STAT_SIGNTAMP (mpNum mp) ∧ src = 7 + mpNum mp)
    (ht : t = ((s.setMp (mpNum mp) m).set1 f).raiseTamper src) :
    t.flag f = true ∧ t.flag ⟨F.SAFE_TLATCH, src, src⟩ = true ∧ t.get F.SAFE_TCNT_COUNT = min (s.get F.SAFE_TCNT_COUNT + 1) 65535
    ∧ BlockKept s t .bill ∧ BlockKept s t .shot := by
  have hcases : f.zone ∈ [(F.MP_STAT_REVTAMP 0).zone, (F.MP_STAT_REVTAMP 1).zone, (F.MP_STAT_SIGNTAMP 0).zone, (F.MP_STAT_SIGNTAMP 1).zone]
      ∧ f.sane = true ∧ 4 < src ∧ src < 32 ∧ ∀ z ∈ tamperZones, z.apart f = true := by
    rcases hf with ⟨rfl, rfl⟩ | ⟨rfl, rfl⟩ <;> cases mp <;> decide
  obtain ⟨hz, hsane, hsrc, hlt, hap⟩ := hcases
  have h1 : Changes [] [.mps] s (s.setMp (mpNum mp) m) := (Changes.refl hc).setMps
  have h2 : Changes [(F.MP_STAT_REVTAMP 0).zone, (F.MP_STAT_REVTAMP 1).zone, (F.MP_STAT_SIGNTAMP 0).zone, (F.MP_STAT_SIGNTAMP 1).zone] [.mps] s
      ((s.setMp (mpNum mp) m).set1 f) := (h1.mono).set1 ⟨_, hz, Fld.zone_covers f⟩ hsane
  obtain ⟨h3, hlatch, hcnt⟩ := State.raiseTamper_shows h2.canonical hsrc hlt
  have h4 := (h2.mono (W := (F.MP_STAT_REVTAMP 0).zone :: (F.MP_STAT_REVTAMP 1).zone :: (F.MP_STAT_SIGNTAMP 0).zone
    :: (F.MP_STAT_SIGNTAMP 1).zone :: tamperZones) (L := .mps :: tamperParts)).next h3
  subst ht
  exact ⟨(h3.flag f hap).trans (State.set1_flag h1.canonical hsane), hlatch, hcnt.trans (by rw [h2.get F.SAFE_TCNT_COUNT]),
    h4.blockKept .bill, h4.blockKept .shot⟩

/-! ### What the temperature work of a tick leaves -/

/-- What the temperatures and properties of a meter point are written in. -/
def measuredZones (x : Nat) : List Zone := [(F.MP_TF_T x).zone, (F.MP_TR_T x).zone, (F.MP_STAT_TINVALID x).zone, (F.MP_STAT_OUTRANGE x).zone,
  (F.MP_STAT_PINVALID x).zone, (F.MP_STAT_SUBST x).zone, (F.MP_PRESS_P x).zone, (F.MP_TAC_T x).zone]

/-- The fields that the acoustic temperature and its check rest on. -/
def heardFields (x : Nat) : List Fld := [F.MP_CFG_MEDIUM x, F.MP_CFG_POS x, F.MP_CFG_SENS1 x, F.MP_CFG_SENS2 x, F.MP_WPRESS_P x,
  F.MP_STAT_PLAUSCNT x, F.SENS_CTRL_EN, F.SENS_CTRL_TSEN]
  ++ (List.range 6).map F.SENS_TSTAT_STATE ++ (List.range 6).map F.SENS_TVAL_T

theorem heard_medium (x : Nat) : F.MP_CFG_MEDIUM x ∈ heardFields x := by simp [heardFields]

theorem heard_pressure (x : Nat) : F.MP_WPRESS_P x ∈ heardFields x := by simp [heardFields]

theorem heard_count (x : Nat) : F.MP_STAT_PLAUSCNT x ∈ heardFields x := by simp [heardFields]

theorem measuredZones_apart (mp : MeterPoint) : ∀ z ∈ measuredZones (mpNum mp), ∀ g ∈ heardFields (mpNum mp), z.apart g = true := by
  cases mp <;> decide

/-- The temperature work of a tick has left what the acoustic temperature rests on. -/
structure Heard (mp : MeterPoint) (s t : State) : Prop where
  changes : Changes (measuredZones (mpNum mp)) [.mps] s t
  sum : (t.mp (mpNum mp)).cSum = (s.mp (mpNum mp)).cSum
  count : (t.mp (mpNum mp)).cN = (s.mp (mpNum mp)).cN

variable {mp : MeterPoint}

theorem Heard.trans {u : State} (h : Heard mp s t) (k : Heard mp t u) : Heard mp s u :=
  ⟨h.changes.trans k.changes, k.sum.trans h.sum, k.count.trans h.count⟩

theorem Heard.of_same (hc : Changes (measuredZones (mpNum mp)) [.mps] s t) (hm : t.mps = s.mps) : Heard mp s t :=
  ⟨hc, by rw [State.mp, State.mp, hm], by rw [State.mp, State.mp, hm]⟩

theorem State.setMp_heard (hc : s.canonical = true) {m : MpSt} (h1 : m.cSum = (s.mp (mpNum mp)).cSum) (h2 : m.cN = (s.mp (mpNum mp)).cN) :
    Heard mp s (s.setMp (mpNum mp) m) := by
  refine ⟨(Changes.refl hc).setMps, ?_, ?_⟩
  all_goals
    by_cases hx : mpNum mp < s.mps.length
    · rw [State.mp_setMp hx]
      assumption
    · rw [State.setMp, List.set_eq_of_length_le (by omega)]

theorem Heard.get (h : Heard mp s t) {g : Fld} (hg : g ∈ heardFields (mpNum mp)) : t.get g = s.get g :=
  h.changes.get g fun z hz => measuredZones_apart mp z hz g hg

theorem Heard.flag (h : Heard mp s t) {g : Fld} (hg : g ∈ heardFields (mpNum mp)) : t.flag g = s.flag g := by
  rw [State.flag, State.flag, h.get hg]

theorem Heard.sensor (h : Heard mp s t) (i : Nat) : t.sensor i = s.sensor i := by
  unfold State.sensor
  by_cases hi : i ≤ 5
  · have hr : i ∈ List.range 6 := List.mem_range.mpr (by omega)
    have h1 : F.SENS_TSTAT_STATE i ∈ heardFields (mpNum mp) :=
      List.mem_append_left _ (List.mem_append_right _ (List.mem_map_of_mem hr))
    have h2 : F.SENS_TVAL_T i ∈ heardFields (mpNum mp) := List.mem_append_right _ (List.mem_map_of_mem hr)
    rw [h.flag (g := F.SENS_CTRL_EN) (by simp [heardFields]), h.get (g := F.SENS_CTRL_TSEN) (by simp [heardFields]), h.get h1,
      State.getI_of_get (h.get h2)]
  · rw [if_neg (fun hh => hi hh.1), if_neg (fun hh => hi hh.1)]

theorem Heard.isGas (h : Heard mp s t) : t.isGas (mpNum mp) = s.isGas (mpNum mp) := by
  rw [State.isGas, State.isGas, h.get (by simp [heardFields])]

theorem Heard.tVol (h : Heard mp s t) : t.tVol (mpNum mp) = s.tVol (mpNum mp) := by
  rw [State.tVol, State.tVol, State.inMedium, State.inMedium, h.isGas, h.flag (by simp [heardFields]), State.tFlow, State.tFlow, State.tRet,
    State.tRet, h.sensor, h.sensor, h.get (g := F.MP_CFG_SENS1 _) (by simp [heardFields]), h.get (g := F.MP_CFG_SENS2 _) (by simp [heardFields]),
    h.get (g := F.MP_CFG_MEDIUM _) (by simp [heardFields])]

/-- With a valid temperature the acoustic temperature is the same before and after. -/
theorem Heard.acousticT (h : Heard mp s t) {tv : Int} (hv : s.tVol (mpNum mp) = some tv) :
    (t.acousticT (mpNum mp)).1 = (s.acousticT (mpNum mp)).1 := by
  have hused : t.tVolUsed (mpNum mp) = s.tVolUsed (mpNum mp) := by
    unfold State.tVolUsed
    rw [h.tVol, hv]
  have hmean : (t.mp (mpNum mp)).cMean = (s.mp (mpNum mp)).cMean := by rw [MpSt.cMean, MpSt.cMean, h.sum, h.count]
  unfold State.acousticT State.drawLevel
  rw [h.get (g := F.MP_CFG_MEDIUM _) (by simp [heardFields]), h.get (g := F.MP_WPRESS_P _) (by simp [heardFields]), hused, hmean,
    h.changes.freeLevel]
  dsimp only
  split <;> rfl

theorem State.noteTv_heard (hc : s.canonical = true) : Heard mp s (s.noteTv (mpNum mp)) := by
  unfold State.noteTv
  split
  · exact State.setMp_heard hc rfl rfl
  · exact .of_same (.refl hc) rfl

theorem State.evalProps_heard (hc : s.canonical = true) : Heard mp s (s.evalProps (mpNum mp)) := by
  unfold State.evalProps
  extract_lets -merge -underBinder m p tv old h props src s1
  have h1 : Heard mp s s1 := State.setMp_heard hc rfl rfl
  split
  · exact h1.trans (.of_same ((Changes.refl h1.changes.canonical).putAt (by simp [measuredZones])) rfl)
  · exact h1

theorem State.refreshProps_heard (hc : s.canonical = true) : Heard mp s (s.refreshProps (mpNum mp)) := by
  have h0 : Heard mp s s := .of_same (.refl hc) rfl
  unfold State.refreshProps
  dsimp only
  split
  · exact h0
  · split
    · exact State.evalProps_heard hc
    · exact h0

/-- A temperature that is known is shown. -/
def State.putTemp (s : State) (f : Fld) (v : Option Int) : State := match v with
  | some v => s.putI f v
  | none => s

/-- The temperatures of a tick and their flags. -/
def State.tempsShown (s : State) (x : Nat) : State :=
  (((s.putTemp (F.MP_TF_T x) (s.tFlow x)).putTemp (F.MP_TR_T x) (s.tRet x)).putB (F.MP_STAT_TINVALID x) (s.tempFlags x).1).putB
    (F.MP_STAT_OUTRANGE x) (s.tempFlags x).2

theorem State.tempStat_eq (x : Nat) : s.tempStat x = if s.isGas x
    then ((s.tempsShown x).putB (F.MP_STAT_PINVALID x) (s.gasTick x).pInvalid).putB (F.MP_STAT_SUBST x) (s.gasTick x).disturbed
    else s.tempsShown x := by
  unfold State.tempStat State.tempsShown State.putTemp
  cases s.tFlow x <;> cases s.tRet x <;> rfl

theorem State.putTemp_keeps {W : List Zone} {L : List Part} {s0 : State} (h : Changes W L s0 s ∧ s.mps = s0.mps) {f : Fld} (v : Option Int)
    (hf : f.zone ∈ W) (hl : f.sane = true) : Changes W L s0 (s.putTemp f v) ∧ (s.putTemp f v).mps = s0.mps := by
  cases v with
  | none => exact h
  | some v => exact ⟨h.1.putI ⟨_, hf, Fld.zone_covers f⟩ hl, h.2⟩

theorem State.tempStat_heard (hc : s.canonical = true) : Heard mp s (s.tempStat (mpNum mp)) := by
  have h0 : Changes (measuredZones (mpNum mp)) [.mps] s s ∧ s.mps = s.mps := ⟨.refl hc, rfl⟩
  have h1 := State.putTemp_keeps h0 (f := F.MP_TF_T (mpNum mp)) (s.tFlow (mpNum mp)) (by simp [measuredZones]) rfl
  obtain ⟨h2, hm⟩ := State.putTemp_keeps h1 (f := F.MP_TR_T (mpNum mp)) (s.tRet (mpNum mp)) (by simp [measuredZones]) rfl
  have h3 : Changes (measuredZones (mpNum mp)) [.mps] s (s.tempsShown (mpNum mp)) :=
    (h2.putAt (by simp [measuredZones])).putAt (by simp [measuredZones])
  rw [State.tempStat_eq]
  split
  · exact .of_same ((h3.putAt (by simp [measuredZones])).putAt (by simp [measuredZones])) hm
  · exact .of_same h3 hm

/-! ### The plausibility rule -/

/-- The eighth disagreeing sample. -/
theorem State.plausCount_eighth (hc : s.canonical = true) (mp : MeterPoint) {tac tv : Int} (h7 : s.get (F.MP_STAT_PLAUSCNT (mpNum mp)) = 7)
    (hd : 2 * 65536 < (tac - tv).natAbs) (ht : t = s.plausCount (mpNum mp) tac tv) :
    t.get (F.MP_STAT_PLAUSCNT (mpNum mp)) = 8 ∧ t.flag (F.MP_STAT_PLAUSFLT (mpNum mp)) = true ∧ t.flag F.SAFE_STAT_SAFE = true
    ∧ t.get F.SAFE_STAT_CAUSE = 0x47 := by
  have heq : t = ((s.put (F.MP_STAT_PLAUSCNT (mpNum mp)) 8).set1 (F.MP_STAT_PLAUSFLT (mpNum mp))).detect 0x47 (mpNum mp)
      (ofSigned 32 (tac - tv)) .atOnce := by
    rw [ht, State.plausCount, if_neg (by omega), h7]
    rfl
  have h1 : Changes [(F.MP_STAT_PLAUSCNT (mpNum mp)).zone] [] s (s.put (F.MP_STAT_PLAUSCNT (mpNum mp)) 8) := (Changes.refl hc).putAt
  have h2 : Changes [(F.MP_STAT_PLAUSFLT (mpNum mp)).zone] [] _
      ((s.put (F.MP_STAT_PLAUSCNT (mpNum mp)) 8).set1 (F.MP_STAT_PLAUSFLT (mpNum mp))) := (Changes.refl h1.canonical).putAt
  have h3 := State.detect_changes h2.canonical 0x47 (mpNum mp) (ofSigned 32 (tac - tv)) .atOnce
  obtain ⟨hsafe, hcause⟩ := State.detect_atOnce_shows h2.canonical (code := 0x47) (by decide) (mpNum mp) (ofSigned 32 (tac - tv))
  have hap : (∀ z ∈ detectZones, z.apart (F.MP_STAT_PLAUSCNT (mpNum mp)) = true)
      ∧ (∀ z ∈ detectZones, z.apart (F.MP_STAT_PLAUSFLT (mpNum mp)) = true)
      ∧ (∀ z ∈ [(F.MP_STAT_PLAUSFLT (mpNum mp)).zone], z.apart (F.MP_STAT_PLAUSCNT (mpNum mp)) = true) := by
    cases mp <;> decide
  have hput := State.get_put (f := F.MP_STAT_PLAUSCNT (mpNum mp)) (v := 8) hc (show 8 < 2 ^ (19 + 1 - 16) by decide)
  rw [heq]
  exact ⟨(h3.get _ hap.1).trans ((h2.get _ hap.2.2).trans hput), (h3.flag _ hap.2.1).trans (State.set1_flag h1.canonical), hsafe, hcause⟩

/-- A sample that agrees clears the count. -/
theorem State.plausCount_agrees (hc : s.canonical = true) (mp : MeterPoint) {tac tv : Int} (hd : (tac - tv).natAbs ≤ 2 * 65536) :
    (s.plausCount (mpNum mp) tac tv).get (F.MP_STAT_PLAUSCNT (mpNum mp)) = 0 := by
  rw [State.plausCount, if_pos hd]
  exact State.clr_get hc

/-- The acoustic temperature of a sample, shown. -/
def State.tacShown (s : State) (x : Nat) : State := (s.acousticT x).2.putI (F.MP_TAC_T x) (s.acousticT x).1

/-- The sample work of a meter point that is no gas and whose temperature is valid. -/
theorem State.sampleWork_eq {x : Nat} (hn : s.sens.newT = true) (h0 : (s.mp x).cN ≠ 0) (hg : s.isGas x = false) {tv : Int}
    (hv : (s.tacShown x).tVol x = some tv)
    (hf : soundFlat ((s.tacShown x).get (F.MP_CFG_MEDIUM x)) ((s.tacShown x).get (F.MP_WPRESS_P x)) tv = false) :
    ∃ m, s.sampleWork x = ((s.tacShown x).plausCount x (s.acousticT x).1 tv).setMp x m := by
  have hnew : s.newSample x = (s.tacShown x).plausCount x (s.acousticT x).1 tv := by
    unfold State.newSample
    dsimp only
    rw [if_neg h0, if_neg (by rw [hg]; decide)]
    unfold State.putAcoustic State.plausSample
    change (match (s.tacShown x).tVol x with
      | none => s.tacShown x
      | some tv => if soundFlat ((s.tacShown x).get (F.MP_CFG_MEDIUM x)) ((s.tacShown x).get (F.MP_WPRESS_P x)) tv then s.tacShown x
        else (s.tacShown x).plausCount x (s.acousticT x).1 tv) = _
    rw [hv]
    exact if_neg (by rw [hf]; decide)
  refine ⟨{ (s.newSample x).mp x with cSum := 0, cN := 0 }, ?_⟩
  unfold State.sampleWork
  rw [if_pos hn, hnew]

theorem State.acousticT_state (x : Nat) : ∃ n, (s.acousticT x).2 = { s with freeLevel := n } := by
  unfold State.acousticT
  dsimp only
  split
  · exact ⟨s.freeLevel, rfl⟩
  · exact ⟨s.freeLevel + 1, rfl⟩

theorem State.tacShown_spec (hc : s.canonical = true) : (s.tacShown (mpNum mp)).canonical = true
    ∧ (s.tacShown (mpNum mp)).tVol (mpNum mp) = s.tVol (mpNum mp)
    ∧ ∀ g ∈ heardFields (mpNum mp), (s.tacShown (mpNum mp)).get g = s.get g := by
  obtain ⟨n, hn⟩ := State.acousticT_state (s := s) (mpNum mp)
  have h1 : Changes [] [.freeLevel] s { s with freeLevel := n } := (Changes.refl hc).setFreeLevel
  have h2 : Changes (measuredZones (mpNum mp)) [.mps] ({ s with freeLevel := n } : State) (s.tacShown (mpNum mp)) := by
    rw [State.tacShown, hn]
    exact (Changes.refl h1.canonical).putAt (by simp [measuredZones])
  have hm : (s.tacShown (mpNum mp)).mps = s.mps := by
    rw [State.tacShown, hn]
    rfl
  have h3 : Heard mp ({ s with freeLevel := n } : State) (s.tacShown (mpNum mp)) := .of_same h2 hm
  exact ⟨h2.canonical, h3.tVol, fun g hg => h3.get hg⟩

end

/-- Settles O33: the eighth Measured tick raises or ends a flow tamper, and the eighth disagreeing sample is a fault. -/
theorem flowTampersAndPlausibility : Obligations.FlowTampersAndPlausibility := by
  unfold Obligations.FlowTampersAndPlausibility
  intro mp f tv s hc x m s1
  have hreverse (hf : s.dueFlow x = some f) (h7 : m.rev.count = 7) (ha : s.reverseCond x f = m.rev.armed) :
      exec (.reverseFlowTamper mp) s = .next (s.reverseTick x (s.reverseCond x f)) := by
    change execReverseFlowTamper mp s = _
    unfold execReverseFlowTamper
    dsimp only
    rw [hf]
    exact next_of_due ⟨h7, ha⟩ _
  refine ⟨?raises, ?ends, ?sign, ?fault⟩
  case raises =>
    intro hf h7 ha hcond
    have hrun := hreverse hf h7 (hcond.trans ha.symm)
    rw [hcond, State.reverseTick_raises h7 ha] at hrun
    exact ⟨_, hrun, State.meterTamper_shows hc mp _ (.inl ⟨rfl, rfl⟩) rfl⟩
  case ends =>
    intro hf h7 ha hcond
    have hrun := hreverse hf h7 (hcond.trans ha.symm)
    rw [hcond, State.reverseTick_ends h7 ha] at hrun
    have h1 : Changes [] [.mps] s (s.setMp x { m with rev := ⟨0, true⟩ }) := (Changes.refl hc).setMps
    have h2 : Changes legalZones legalParts _ ((s.setMp x { m with rev := ⟨0, true⟩ }).tamperEnd (5 + x)) := State.tamperEnd_changes h1.canonical _
    have h3 := (h1.mono (W := legalZones) (L := .mps :: legalParts)).next h2
    refine ⟨_, hrun, h3.blockKept .safe, h3.blockKept .mpa, h3.blockKept .mpb, fun hl => ?_⟩
    have hx : x < s.mps.length := by
      rw [hl]
      cases mp <;> decide
    rw [State.mp, h2.mps]
    exact congrArg MpSt.rev (State.mp_setMp hx)
  case sign =>
    intro hf h2 h7 ha hcond
    have hrun : exec (.pathSignTamper mp) s = .next (s.signTick x (signCond f)) := by
      change execPathSignTamper mp s = _
      unfold execPathSignTamper
      dsimp only
      rw [hf]
      exact next_of_due ⟨h2, h7, hcond.trans ha.symm⟩ _
    rw [hcond, State.signTick_raises h7 ha] at hrun
    obtain ⟨h1, h2, -, h3, h4⟩ := State.meterTamper_shows hc mp { m with sgn := ⟨0, false⟩ } (.inr ⟨rfl, rfl⟩) rfl
    exact ⟨_, hrun, h1, h2, h3, h4⟩
  case fault =>
    intro hdue hon hcfg hnew h7 h0 hgas hv hflat
    have hs1 : Heard mp s s1 := (State.tempStat_heard hc).trans (State.refreshProps_heard (State.tempStat_heard hc).changes.canonical)
    have hn := State.noteTv_heard (mp := mp) hc
    have hp := hn.trans (State.refreshProps_heard hn.changes.canonical)
    have hw := hp.trans (State.tempStat_heard hp.changes.canonical)
    generalize hu : (s.propTick x).tempStat x = u
    replace hw : Heard mp s u := hu ▸ hw
    have hvs : s.tVol x = some tv := hs1.tVol.symm.trans hv
    have hvu : u.tVol x = some tv := hw.tVol.trans hvs
    have htac : (u.acousticT x).1 = (s1.acousticT x).1 := (hw.acousticT hvs).trans (hs1.acousticT hvs).symm
    obtain ⟨hct, hvt, hgett⟩ := State.tacShown_spec (mp := mp) hw.changes.canonical
    have h7t : (u.tacShown x).get (F.MP_STAT_PLAUSCNT x) = 7 := (hgett _ (heard_count x)).trans ((hw.get (heard_count x)).trans h7)
    have hmed : (u.tacShown x).get (F.MP_CFG_MEDIUM x) = s1.get (F.MP_CFG_MEDIUM x) :=
      (hgett _ (heard_medium x)).trans ((hw.get (heard_medium x)).trans (hs1.get (heard_medium x)).symm)
    have hpress : (u.tacShown x).get (F.MP_WPRESS_P x) = s1.get (F.MP_WPRESS_P x) :=
      (hgett _ (heard_pressure x)).trans ((hw.get (heard_pressure x)).trans (hs1.get (heard_pressure x)).symm)
    obtain ⟨m', hwork⟩ := State.sampleWork_eq (s := u) (x := x) (tv := tv) (by rw [hw.changes.sens]; exact hnew)
      (fun hh => h0 (hs1.count.trans (hw.count.symm.trans hh))) (hw.isGas.trans (hs1.isGas.symm.trans hgas)) (hvt.trans hvu)
      (by rw [hmed, hpress]; exact hflat)
    have hrun : exec (.sensorPlausibilityFault mp) s =
        .next (if (u.sampleWork x).get (F.MP_STAT_PLAUSCNT x) = 8 then u.sampleWork x else s) := by
      rw [← hu]
      exact if_pos ⟨hdue, hon, Bool.not_eq_true' _ ▸ hcfg, hnew, h7⟩
    rw [htac] at hwork
    generalize hcount : (u.tacShown x).plausCount x (s1.acousticT x).1 tv = w at hwork
    have hset (g : Fld) : (u.sampleWork x).get g = w.get g := by
      rw [hwork]
      rfl
    by_cases hd : 2 * 65536 < ((s1.acousticT x).1 - tv).natAbs
    · obtain ⟨h8, hflt, hsafe, hcause⟩ := State.plausCount_eighth hct mp h7t hd hcount.symm
      refine ⟨_, hrun.trans (congrArg _ (if_pos ((hset _).trans h8))), fun _ => ?_, fun hle => absurd hd (by omega)⟩
      exact ⟨(hset _).trans h8, by rw [State.flag, hset]; exact hflt, by rw [State.flag, hset]; exact hsafe, (hset _).trans hcause⟩
    · have hzero := State.plausCount_agrees hct mp (tac := (s1.acousticT x).1) (tv := tv) (by omega)
      have hno : ¬ (u.sampleWork x).get (F.MP_STAT_PLAUSCNT x) = 8 := by
        rw [hset, ← hcount]
        exact fun hh => absurd (hzero.symm.trans hh) (by decide)
      exact ⟨_, hrun.trans (congrArg _ (if_neg hno)), fun hgt => absurd hgt hd, fun _ => rfl⟩

end Sys2Proof.Machine
end

section
set_option Elab.async false
/-! PROOF. The Acoustic window's opening and the end of a save (Machine/Acoustic.lean, Machine/Journal.lean; R26, R30 to R34, R138,
R178, R179). -/

namespace Sys2Proof.Machine

section
variable {s t : State}

/-! ### The end of a save -/

/-- The save is in force. -/
def State.savedNow (s : State) : State :=
  { s with saved := some (s.cmd.saveImage, s.cmd.saveSched, s.cmd.saveTick)
           cmd := { s.cmd with saveRows := 0, saveReply := true, saveImage := [], saveSched := [] } }

/-- What a save that is in force shows. -/
def savedFields (tick : Nat) : List (Fld × Nat) := [(F.CMD_SAVED_TICK, tick % 2 ^ 32), (F.CMD_STAT_SAVEPEND, 0)]

theorem State.saveEnd_cases : s.saveEnd = s.savedNow.putAll (savedFields s.cmd.saveTick)
    ∨ ∃ n v d, s.saveEnd = ({ s.savedNow.putAll (savedFields s.cmd.saveTick) with free := n } : State).legal v d := by
  unfold State.saveEnd
  extract_lets c old src s1 s2
  split
  · exact .inr ⟨_, _, _, rfl⟩
  · exact .inl rfl

theorem savedFields_sane (n : Nat) : ∀ x ∈ savedFields n, x.1.sane = true := by
  simp [savedFields, Fld.sane_iff, F.CMD_SAVED_TICK, F.CMD_STAT_SAVEPEND]

theorem savedFields_apart (n : Nat) : apartFields (savedFields n) := 
  List.pairwise_pair.mpr (Fld.zone_apart (.inl (show F.CMD_SAVED_TICK.addr ≠ F.CMD_STAT_SAVEPEND.addr by decide)))

theorem State.savedNow_changes (hc : s.canonical = true) : Changes [] [.saved, .cmd] s s.savedNow := by
  have h0 : Changes [] [.saved, .cmd] s { s with saved := some (s.cmd.saveImage, s.cmd.saveSched, s.cmd.saveTick) } := (Changes.refl hc).setSaved
  exact h0.setCmd

theorem State.saveEnd_changes (hc : s.canonical = true) : Changes [F.CMD_SAVED_TICK.zone, F.CMD_STAT_SAVEPEND.zone] [.saved, .cmd] s
      (s.savedNow.putAll (savedFields s.cmd.saveTick))
    ∧ Changes legalZones (.free :: legalParts) (s.savedNow.putAll (savedFields s.cmd.saveTick)) s.saveEnd := by
  have h1 := State.savedNow_changes hc
  have h2 : Changes [F.CMD_SAVED_TICK.zone, F.CMD_STAT_SAVEPEND.zone] [] s.savedNow (s.savedNow.putAll (savedFields s.cmd.saveTick)) :=
    State.putAll_changes h1.canonical (savedFields_sane _)
  refine ⟨(h1.mono (L := [.saved, .cmd])).next h2, ?_⟩
  rcases State.saveEnd_cases (s := s) with h | ⟨n, v, d, h⟩
  · rw [h]
    exact .refl h2.canonical
  · rw [h]
    generalize s.savedNow.putAll (savedFields s.cmd.saveTick) = u at h2
    have h3 : Changes legalZones (.free :: legalParts) u { u with free := n } := (Changes.refl h2.canonical).setFree
    exact h3.next (State.legal_changes h3.canonical v d)

end

/-- Settles O25: with its header row the save is in force, and nothing else is changed by it. -/
theorem saveCompletes : Obligations.SaveCompletes := by
  unfold Obligations.SaveCompletes
  intro s hc hdue hrows hend
  obtain ⟨h1, h2⟩ := State.saveEnd_changes hc
  have hcond : s.persistPhase ∧ s.saving ∧ !s.persistRows.saving :=
    ⟨hdue, decide_eq_true hrows, by rw [State.saving, hend]; rfl⟩
  have hregs := State.putAll_regs (s := s.savedNow) (savedFields s.cmd.saveTick)
  have hsaved : (s.savedNow.putAll (savedFields s.cmd.saveTick)).saved = some (s.cmd.saveImage, s.cmd.saveSched, s.cmd.saveTick) := by
    rw [hregs]
    rfl
  have hcmd : (s.savedNow.putAll (savedFields s.cmd.saveTick)).cmd = s.savedNow.cmd := by rw [hregs]
  have hget {f : Fld} {v : Nat} (hm : (f, v) ∈ savedFields s.cmd.saveTick) (hv : v < 2 ^ (f.hi + 1 - f.lo)) :
      (s.savedNow.putAll (savedFields s.cmd.saveTick)).get f = v :=
    State.get_putAll (State.savedNow_changes hc).canonical (savedFields_sane _) (savedFields_apart _) hm hv
  have h3 := (h1.mono (W := F.CMD_SAVED_TICK.zone :: F.CMD_STAT_SAVEPEND.zone :: legalZones) (L := .saved :: .cmd :: .free :: legalParts)).next h2
  refine ⟨_, next_of_due hcond _, h2.saved.trans hsaved, congrArg Cmd.saveRows (h2.cmd.trans hcmd), congrArg Cmd.saveReply (h2.cmd.trans hcmd),
    (h2.flag _).trans ?_, (h2.get _).trans (hget (by simp [savedFields]) (Nat.mod_lt _ (by decide))), h3.blockKept .ame, h3.blockKept .bill, h3.shadow⟩
  exact decide_eq_false (by rw [hget (f := F.CMD_STAT_SAVEPEND) (v := 0) (by simp [savedFields]) (by decide)]; decide)

end Sys2Proof.Machine
end

section
set_option Elab.async false
/-! PROOF. The Acoustic window opens or ends at once (Machine/Acoustic.lean; R26, R30 to R34, R178, R179). -/

namespace Sys2Proof.Machine

section
variable {s t : State}

/-! ### The plan -/

/-- The bits that mark a disabled path's entries. -/
def skippedZone : Zone := ⟨F.AME_P_STAT 0, 0x40, 4, 10, 10⟩

theorem mem_entries_path {e : Entry} (h : e ∈ s.entries) : e.path < 4 := by
  have hm : e ∈ s.schedWords.map entryOf := (List.takeWhile_sublist _).mem h
  obtain ⟨w, -, rfl⟩ := List.mem_map.mp hm
  exact Nat.mod_lt _ (by decide)

theorem skipped_covered {n : Nat} (hn : n < 4) : skippedZone.covers (F.AME_P_STAT_SKIPPED n) = true := by
  simp only [Zone.covers_iff, Zone.has_iff, skippedZone, F.AME_P_STAT_SKIPPED, F.AME_P_STAT]
  omega

theorem State.markSkipped_changes (hc : s.canonical = true) : Changes [skippedZone] [] s s.markSkipped :=
  (Changes.refl hc).foldl fun _ _ he ht =>
    .ite ht (ht.set1 ⟨_, List.mem_singleton_self _, skipped_covered (mem_entries_path (List.mem_filter.mp he).1)⟩)

/-- The phase has begun, and its plan is made with the room given. -/
def State.windowPlan (s : State) (room : WindowRoom) : List Planned × Bool :=
  (s.put F.FT_PHASE_PHASE 1).markSkipped.planWindow room.budget room.reps

/-- The phase has begun, and what the plan has dropped is shown. -/
def State.windowPlanned (s : State) (room : WindowRoom) : State :=
  if (s.windowPlan room).2 then (s.put F.FT_PHASE_PHASE 1).markSkipped.set1 F.FT_STAT_DROPX else (s.put F.FT_PHASE_PHASE 1).markSkipped

/-- What planning the window shows in. -/
def planZones : List Zone := [F.FT_PHASE_PHASE.zone, skippedZone, F.FT_STAT_DROPX.zone]

theorem State.windowPlanned_spec (hc : s.canonical = true) (room : WindowRoom) : Changes planZones [] s (s.windowPlanned room)
    ∧ (s.windowPlanned room).get F.FT_PHASE_PHASE = 1 := by
  have h1 : Changes [F.FT_PHASE_PHASE.zone] [] s (s.put F.FT_PHASE_PHASE 1) := (Changes.refl hc).put
  have h2 := State.markSkipped_changes h1.canonical
  have h3 : Changes [skippedZone, F.FT_STAT_DROPX.zone] [] (s.put F.FT_PHASE_PHASE 1) (s.windowPlanned room) :=
    .ite (h2.mono.set1) h2.mono
  exact ⟨(h1.mono (W := planZones)).next h3, (h3.get _).trans (State.get_put hc (by decide))⟩

/-! ### A window that ends at once -/

theorem Changes.radioWork {W : List Zone} {L : List Part} (h : Changes W L s t) (hz : ∀ z ∈ W, z.apart F.RADIO_CTRL_EN = true := by decide)
    (hp : ∀ p ∈ [Part.pow, .link], p ∉ L := by decide) : t.radioWork = s.radioWork := by
  unfold State.radioWork State.radioRx State.radioOn
  rw [h.flag _ hz, h.pow (hp .pow (by decide)), h.link (hp .link (by decide))]

/-- What a window that has ended leaves. -/
structure WindowEnded (s t : State) : Prop where
  phase : t.get F.FT_PHASE_PHASE = s.get F.FT_PHASE_PHASE
  done : t.rm.phaseDone = true
  marker : t.pins.window = false
  closed : t.ame.windowOn = false
  plan : t.ame.plan = []
  clocks : s.radioWork = false → t.flag F.CLK_STAT_XO24_OK = false ∧ t.flag F.CLK_STAT_PLL_LOCK = false

theorem State.endWindow_ended (hc : s.canonical = true) : WindowEnded s s.endWindow := by
  obtain ⟨h1, hame, hrm, hpin⟩ := State.windowClosed_spec hc
  have h2 := State.endWindow_after hc
  refine ⟨(State.endWindow_changes hc).get _, (congrArg Ringm.phaseDone (h2.rm.trans hrm)), (congrArg Pins.window h2.pins).trans hpin,
    congrArg Ame.windowOn (h2.ame.trans hame), congrArg Ame.plan (h2.ame.trans hame), fun hw => ?_⟩
  have hrest : s.windowClosed.xo24Rest = s.windowClosed.xo24Off := by
    refine if_neg ?_
    rw [h1.radioWork, hw, hame]
    exact Bool.false_ne_true
  have hoff : Changes [F.CLK_STAT_XO24_OK.zone] [] s.windowClosed (s.windowClosed.clr F.CLK_STAT_XO24_OK) := (Changes.refl h1.canonical).clr
  have hlock : Changes [F.CLK_STAT_PLL_LOCK.zone] [] (s.windowClosed.clr F.CLK_STAT_XO24_OK) s.windowClosed.xo24Off :=
    (Changes.refl hoff.canonical).clr
  have h3 : Changes [] [.sens] s.windowClosed.xo24Off s.windowClosed.xo24Off.startConv := (Changes.refl hlock.canonical).setSens
  have h4 : Changes [F.PWR_STATE_STATE.zone] [.sens] s.windowClosed.xo24Off s.endWindow := by
    rw [State.endWindow_eq, hrest]
    exact (h3.mono).next (State.enterPower_changes h3.canonical pwrRun)
  exact ⟨(h4.flag _).trans ((hlock.flag _).trans (State.clr_flag h1.canonical)), (h4.flag _).trans (State.clr_flag hoff.canonical)⟩

/-! ### A window that opens -/

/-- The window is open. -/
def State.opened (s : State) (plan : List Planned) : State :=
  { s with ame := { s.ame with plan := plan, windowOn := true, index := 0, len := 0 }
           pins := { s.pins with window := true }
           rm := { s.rm with phaseDone := false } }

/-- The row's three outcomes. -/
theorem execAcousticWindow_eq {room : WindowRoom} {d : Int} (h : s.ticking ∧ s.get F.FT_PHASE_PHASE = 0 ∧ s.rm.phaseDone) :
    exec (.acousticWindow room d) s = .next (
      if (s.windowPlan room).1 = [] then (s.windowPlanned room).endWindow
      else if (s.windowPlanned room).ame.xoFail ∨ (s.windowPlanned room).ame.pllFail then (s.windowPlanned room).endWindow
      else if (s.windowPlanned room).flag F.AME_STAT_READY = false then ((s.windowPlanned room).set1 F.AME_STAT_VTXB_NR).endWindow
      else ((((s.windowPlanned room).opened (s.windowPlan room).1).crossCheck d).pauseTx).enterPower pwrDoze) := by
  change execAcousticWindow room d s = _
  unfold execAcousticWindow
  rw [if_pos h]
  change (if (s.windowPlan room).1 = [] then _ else _) = _
  split
  · rfl
  · change (if (s.windowPlanned room).ame.xoFail ∨ (s.windowPlanned room).ame.pllFail then _ else _) = _
    split
    · rfl
    · change (if (s.windowPlanned room).flag F.AME_STAT_READY = false then _ else _) = _
      split <;> rfl

theorem toSigned_satSigned_sixteen (d : Int) : toSigned 16 (ofSigned 16 (satSigned 16 d)) = satSigned 16 d := by
  have hr : -32768 ≤ satSigned 16 d ∧ satSigned 16 d < 32768 := by
    unfold satSigned clampInt
    simp only [Nat.reduceSub, Nat.reducePow]
    split
    · omega
    · split <;> omega
  exact toSigned_ofSigned_sixteen hr.1 hr.2

/-- What the measured disagreement of the clocks shows in. -/
def crossZones : List Zone := F.CLK_XO24ERR_ERR.zone :: F.CLK_MON_CROSS.zone :: detectZones

/-- The clocks have been compared: the measured value, and the fault over its limit. -/
structure Compared (s t : State) (d : Int) : Prop where
  changes : Changes crossZones (.ame :: safeParts) s t
  shown : t.getI F.CLK_XO24ERR_ERR = satSigned 16 d
  plan : t.ame.plan = s.ame.plan
  opened : t.ame.windowOn = s.ame.windowOn
  index : t.ame.index = s.ame.index
  tooFar : 3200 < d.natAbs → t.flag F.CLK_MON_CROSS = true ∧ t.ame.cross = true ∧ 0x11 ∈ t.safe.now

theorem State.crossCheck_compared (hc : s.canonical = true) (d : Int) : Compared s (s.crossCheck d) d := by
  have h1 : Changes [F.CLK_XO24ERR_ERR.zone] [] s (s.putI F.CLK_XO24ERR_ERR (satSigned 16 d)) := (Changes.refl hc).putI
  have hshown : (s.putI F.CLK_XO24ERR_ERR (satSigned 16 d)).getI F.CLK_XO24ERR_ERR = satSigned 16 d :=
    (congrArg (toSigned 16) (State.get_put (f := F.CLK_XO24ERR_ERR) hc (ofSigned_sixteen_lt _))).trans (toSigned_satSigned_sixteen d)
  unfold State.crossCheck
  generalize s.putI F.CLK_XO24ERR_ERR (satSigned 16 d) = u at h1 hshown
  dsimp only
  split
  · have h2 : Changes [F.CLK_MON_CROSS.zone] [] u (u.set1 F.CLK_MON_CROSS) := (Changes.refl h1.canonical).set1
    have h3 := State.detect_changes h2.canonical 0x11 0xFF (u.rd F.CLK_XO24ERR).toNat .second
    have hnow := State.detect_now h2.canonical 0x11 0xFF (u.rd F.CLK_XO24ERR).toNat .second
    have hame := h3.ame.trans (h2.ame.trans h1.ame)
    have h5 : Changes [] [.ame] ((u.set1 F.CLK_MON_CROSS).detect 0x11 0xFF (u.rd F.CLK_XO24ERR).toNat .second)
        { (u.set1 F.CLK_MON_CROSS).detect 0x11 0xFF (u.rd F.CLK_XO24ERR).toNat .second with
          ame := { ((u.set1 F.CLK_MON_CROSS).detect 0x11 0xFF (u.rd F.CLK_XO24ERR).toNat .second).ame with cross := true } } :=
      (Changes.refl h3.canonical).setAme
    generalize (u.set1 F.CLK_MON_CROSS).detect 0x11 0xFF (u.rd F.CLK_XO24ERR).toNat .second = w at h3 hnow hame h5
    have hu : Changes crossZones (.ame :: safeParts) s (u.set1 F.CLK_MON_CROSS) := (h1.mono).next h2
    exact {
      changes := (hu.next h3).next h5
      shown := (h5.getI _).trans ((h3.getI _).trans ((h2.getI _).trans hshown))
      plan := (congrArg Ame.plan hame : w.ame.plan = s.ame.plan)
      opened := (congrArg Ame.windowOn hame : w.ame.windowOn = s.ame.windowOn)
      index := (congrArg Ame.index hame : w.ame.index = s.ame.index)
      tooFar := fun _ => ⟨(h5.flag _).trans ((h3.flag _).trans (State.set1_flag h1.canonical)), rfl, hnow⟩ }
  · next hle =>
    exact {
      changes := h1.mono
      shown := hshown
      plan := congrArg Ame.plan h1.ame
      opened := congrArg Ame.windowOn h1.ame
      index := congrArg Ame.index h1.ame
      tooFar := fun hlt => absurd hlt hle }

theorem State.stretchTx_changes (hc : s.canonical = true) (start more : Nat) : Changes [] [.link] s (s.stretchTx start more) := by
  unfold State.stretchTx
  split
  · exact (Changes.refl hc).setLink
  · exact .refl hc

theorem State.pauseTx_spec (hc : s.canonical = true) : Changes [] [.pins, .link] s s.pauseTx ∧ s.pauseTx.pins.window = s.pins.window
    ∧ (s.sending = true → s.pauseTx.pins.txOn = false ∧ s.pauseTx.pins.paCtl = false) := by
  have h1 := State.showTx_changes hc false
  have h2 (a b : Nat) := State.stretchTx_changes h1.canonical a b
  unfold State.pauseTx
  split
  · exact ⟨(h1.mono).next (h2 _ _), (congrArg Pins.window (h2 _ _).pins : _ = (s.showTx false).pins.window), fun _ => ⟨congrArg Pins.txOn (h2 _ _).pins,
      congrArg Pins.paCtl (h2 _ _).pins⟩⟩
  · next hno => exact ⟨.refl hc, rfl, fun h => absurd h hno⟩

end

/-- Settles O20: a window with shots opens when VTXB is ready, and any other has ended at once. -/
theorem acousticWindowOpensOrEnds : Obligations.AcousticWindowOpensOrEnds := by
  unfold Obligations.AcousticWindowOpensOrEnds
  intro room d s hc hrun h0 hdone s1 plan ended
  obtain ⟨hp, hphase⟩ := State.windowPlanned_spec hc room
  have heq := execAcousticWindow_eq (d := d) (room := room) (s := s) ⟨decide_eq_true hrun, h0, hdone⟩
  have hend {u t : State} (hu : WindowEnded u t) (hph : u.get F.FT_PHASE_PHASE = 1) (hw : u.radioWork = s.radioWork) : ended t :=
    ⟨hu.phase.trans hph, hu.done, hu.marker, hu.closed, hu.plan, fun hr => hu.clocks (hw.trans hr)⟩
  have hready : (s.windowPlanned room).flag F.AME_STAT_READY = s.flag F.AME_STAT_READY := hp.flag _
  refine ⟨?none, ?notReady, ?opens⟩
  case none =>
    intro hno
    refine ⟨(s.windowPlanned room).endWindow, ?_, hend (State.endWindow_ended hp.canonical) hphase hp.radioWork⟩
    rw [heq]
    split
    · rfl
    · next hplan =>
      rw [if_pos]
      rw [hp.ame]
      exact hno.resolve_left hplan
  case notReady =>
    intro hplan hx hpll hr
    replace hplan : (s.windowPlan room).1 ≠ [] := hplan
    have h1 : Changes [F.AME_STAT_VTXB_NR.zone] [] (s.windowPlanned room) ((s.windowPlanned room).set1 F.AME_STAT_VTXB_NR) :=
      (Changes.refl hp.canonical).set1
    refine ⟨((s.windowPlanned room).set1 F.AME_STAT_VTXB_NR).endWindow, ?_,
      hend (State.endWindow_ended h1.canonical) ((h1.get _).trans hphase) (h1.radioWork.trans hp.radioWork),
      ((State.endWindow_changes h1.canonical).flag _).trans (State.set1_flag hp.canonical)⟩
    rw [heq, if_neg hplan, hp.ame, hx, hpll, hready, hr]
    rfl
  case opens =>
    intro hplan hx hpll hr
    replace hplan : (s.windowPlan room).1 ≠ [] := hplan
    have h1 : Changes [] [.ame, .pins, .rm] (s.windowPlanned room) ((s.windowPlanned room).opened plan) := by
      have ha : Changes [] [.ame, .pins, .rm] (s.windowPlanned room)
        { s.windowPlanned room with ame := ((s.windowPlanned room).opened plan).ame } := (Changes.refl hp.canonical).setAme
      have hb : Changes [] [.ame, .pins, .rm] (s.windowPlanned room) { s.windowPlanned room with
        ame := ((s.windowPlanned room).opened plan).ame, pins := ((s.windowPlanned room).opened plan).pins } := ha.setPins
      exact hb.setRm
    have h2 := State.crossCheck_compared h1.canonical d
    obtain ⟨h3, hwin, hoff⟩ := State.pauseTx_spec h2.changes.canonical
    have h4 := State.enterPower_changes h3.canonical pwrDoze
    have h34 := (h3.mono (W := [F.PWR_STATE_STATE.zone]) (L := [.pins, .link])).next h4
    have hsend : (((s.windowPlanned room).opened plan).crossCheck d).sending = s.sending := by
      rw [State.sending, State.sending, h2.changes.link, h1.link, hp.link]
    refine ⟨_, ?_, fun hs => ?_, (h34.get _).trans ((h2.changes.get _).trans ((h1.get _).trans hphase)),
      congrArg Ringm.phaseDone (h34.rm.trans h2.changes.rm), ?_, (congrArg Ame.windowOn h34.ame).trans h2.opened,
      (congrArg Ame.plan h34.ame).trans h2.plan, (congrArg Ame.index h34.ame).trans h2.index, (h34.getI _).trans h2.shown, fun hlt => ?_⟩
    · rw [heq, if_neg hplan, hp.ame, hx, hpll, hready, hr]
      rfl
    · rw [h4.pins]
      exact hoff (hsend.trans hs)
    · rw [h4.pins, hwin, h2.changes.pins]
      rfl
    · obtain ⟨ha, hb, hn⟩ := h2.tooFar hlt
      exact ⟨(h34.flag _).trans ha, (congrArg Ame.cross h34.ame).trans hb, h34.safe ▸ hn⟩

end Sys2Proof.Machine
end

section
set_option Elab.async false
/-! PROOF. A Persist phase that writes its commit whole (Machine/Journal.lean, Machine/Tick.lean; R324, R325, R485). -/

namespace Sys2Proof.Machine

section
variable {s t : State}

/-! ### Legal entries in the store -/

theorem State.writeLegal_changes (hc : s.canonical = true) (n : Nat) (l : List LegalEntry) : Changes [] [.nvm] s (s.writeLegal n l) := by
  induction l generalizing s n with
  | nil => exact .refl hc
  | cons e l ih =>
    have h1 : Changes [] [.nvm] s (s.nvmWrite (legalAddr n) e.bytes) := State.nvmWrite_changes (.refl hc) _ _
    exact h1.trans (ih h1.canonical (n + 1))

theorem LegalEntry.bytes_length {e : LegalEntry} (h : e.data.length = 10) : e.bytes.length = 16 := by
  rw [LegalEntry.bytes, List.length_append, List.length_append, bytesLE_length, h]
  rfl

/-- The store's entries are 16 bytes each, and 512 of them in a row do not meet. -/
theorem legalAddr_apart {m n : Nat} (h : m % 512 ≠ n % 512) : legalAddr m + 16 ≤ legalAddr n ∨ legalAddr n + 16 ≤ legalAddr m := by
  unfold legalAddr
  omega

theorem State.nvmBytes_writeLegal_ne {n a : Nat} {l : List LegalEntry} (hl : ∀ e ∈ l, e.data.length = 10)
    (ha : ∀ k, k < l.length → (n + k) % 512 ≠ a % 512) :
    (s.writeLegal n l).nvmBytes (legalAddr a) 16 = s.nvmBytes (legalAddr a) 16 := by
  induction l generalizing s n with
  | nil => rfl
  | cons e l ih =>
    refine (ih (s := s.nvmWrite (legalAddr n) e.bytes) (n := n + 1) (fun e he => hl e (List.mem_cons_of_mem _ he)) fun k hk => ?_).trans ?_
    · rw [show n + 1 + k = n + (k + 1) by omega]
      exact ha (k + 1) (Nat.succ_lt_succ hk)
    · have h0 := legalAddr_apart (m := n) (n := a) (ha 0 (Nat.zero_lt_succ _))
      refine sgetAll_congr fun j h1 h2 => sget_ssetAll_ne ?_
      rw [LegalEntry.bytes_length (hl e List.mem_cons_self)]
      omega

/-- Each entry stands at its number. -/
theorem State.nvmBytes_writeLegal (hc : s.canonical = true) {n k : Nat} {e : LegalEntry} {l : List LegalEntry}
    (hl : ∀ e ∈ l, e.data.length = 10) (hlen : l.length ≤ 512) (hk : l[k]? = some e) :
    (s.writeLegal n l).nvmBytes (legalAddr (n + k)) 16 = e.bytes := by
  induction l generalizing s n k with
  | nil => simp at hk
  | cons e' l ih =>
    have h1 : Changes [] [.nvm] s (s.nvmWrite (legalAddr n) e'.bytes) := State.nvmWrite_changes (.refl hc) _ _
    have hl' : ∀ e ∈ l, e.data.length = 10 := fun e he => hl e (List.mem_cons_of_mem _ he)
    rw [List.length_cons] at hlen
    cases k with
    | zero =>
      obtain rfl : e' = e := Option.some.inj hk
      have hb := LegalEntry.bytes_length (hl e' List.mem_cons_self)
      refine (State.nvmBytes_writeLegal_ne (s := s.nvmWrite (legalAddr n) e'.bytes) (n := n + 1) hl' fun j hj => by omega).trans ?_
      obtain ⟨-, -, -, -, -, hnvm, -⟩ := storesCanonical_iff.mp hc
      have := sgetAll_ssetAll (d := byteDefault) (k := legalAddr n) (vs := e'.bytes) hnvm
      rwa [hb] at this
    | succ k =>
      rw [show n + (k + 1) = n + 1 + k by omega]
      exact ih (s := s.nvmWrite (legalAddr n) e'.bytes) h1.canonical hl' (by omega) hk

/-! ### The commit -/

/-- The rows of the open commit have been written. -/
def State.headAt (s : State) (h : Nat) : State := { s.put F.BILL_JRNL_HEAD h with jrn := { s.jrn with head := h } }

/-- The legal entries of a commit stand in the log, and both sequence numbers advance. -/
def State.logged (s : State) (l : List LegalEntry) : State :=
  ((s.writeLegal (s.get F.LOG_LSEQ_SEQ) l).put F.LOG_LSEQ_SEQ (s.get F.LOG_LSEQ_SEQ + l.length)).put F.BILL_JSEQ_SEQ
    (s.get F.BILL_JSEQ_SEQ + 1)

/-- The image of a commit with the sequence numbers that it closes with. -/
def State.closedImage (s : State) (i : JImage) : JImage := (i.setReg F.LOG_LSEQ (s.rd F.LOG_LSEQ)).setReg F.BILL_JSEQ (s.rd F.BILL_JSEQ)

/-- The journal of a closed commit. -/
def State.closedJournal (s : State) (i : JImage) : Journal :=
  { s.jrn with image := s.closedImage i, openC := none, emOpen := false, since := 0
               zcRow := s.jrn.zcRow.map (fun z => { z with committed := z.committed || (s.closedImage i).holds z }) }

theorem State.commitClose_eq (i : JImage) (l : List LegalEntry) :
    s.commitClose i l = ((({ s.logged l with jrn := (s.logged l).closedJournal i } : State).clr F.BILL_JRNL_OPEN)).legalShow := rfl

theorem State.commitRows_all {n k : Nat} {i : JImage} {l : List LegalEntry} (h : s.jrn.openC = some (k, i, l)) (hk : k ≤ n) :
    s.commitRows n = (n - k, (s.headAt ((s.jrn.head + k) % 512)).commitClose i l) := by
  unfold State.commitRows
  rw [h]
  dsimp only
  rw [Nat.min_eq_right hk, if_pos rfl]
  rfl

/-- What logging shows in. -/
def loggedZones : List Zone := [F.LOG_LSEQ_SEQ.zone, F.BILL_JSEQ_SEQ.zone]

structure Logged (s t : State) (l : List LegalEntry) : Prop where
  changes : Changes loggedZones [.nvm] s t
  legal : t.get F.LOG_LSEQ_SEQ = (s.get F.LOG_LSEQ_SEQ + l.length) % 2 ^ 32
  commits : t.get F.BILL_JSEQ_SEQ = (s.get F.BILL_JSEQ_SEQ + 1) % 2 ^ 32
  entries : ∀ k e, l[k]? = some e → t.nvmBytes (legalAddr (s.get F.LOG_LSEQ_SEQ + k)) 16 = e.bytes

theorem State.logged_logged (hc : s.canonical = true) {l : List LegalEntry} (hl : ∀ e ∈ l, e.data.length = 10) (hlen : l.length ≤ 512) :
    Logged s (s.logged l) l := by
  have h1 := State.writeLegal_changes hc (s.get F.LOG_LSEQ_SEQ) l
  have hstored {k : Nat} {e : LegalEntry} (hk : l[k]? = some e) := State.nvmBytes_writeLegal (n := s.get F.LOG_LSEQ_SEQ) hc hl hlen hk
  unfold State.logged
  generalize s.writeLegal (s.get F.LOG_LSEQ_SEQ) l = u at h1 hstored
  have h2 : Changes [F.LOG_LSEQ_SEQ.zone] [] u (u.put F.LOG_LSEQ_SEQ (s.get F.LOG_LSEQ_SEQ + l.length)) := (Changes.refl h1.canonical).put
  have hlseq := State.get_put_mod (f := F.LOG_LSEQ_SEQ) (v := s.get F.LOG_LSEQ_SEQ + l.length) h1.canonical (by decide) (by decide)
  generalize u.put F.LOG_LSEQ_SEQ (s.get F.LOG_LSEQ_SEQ + l.length) = v at h2 hlseq
  have h3 : Changes [F.BILL_JSEQ_SEQ.zone] [] v (v.put F.BILL_JSEQ_SEQ (s.get F.BILL_JSEQ_SEQ + 1)) := (Changes.refl h2.canonical).put
  have h12 : Changes loggedZones [.nvm] s v := (h1.mono).next h2
  refine ⟨h12.next h3, (h3.get _).trans hlseq, State.get_put_mod h2.canonical (by decide) (by decide), fun k e hk => ?_⟩
  rw [State.nvmBytes, h3.nvm, h2.nvm]
  exact hstored hk

/-- What a commit that opens and closes in one phase shows in. -/
def commitZones : List Zone := [F.BILL_JRNL_PEND.zone, F.BILL_JRNL_OPEN.zone, F.BILL_JRNL_HEAD.zone] ++ loggedZones ++ legalZones

/-- A commit that opens and closes in one phase. -/
structure Committed (s t : State) : Prop where
  changes : Changes commitZones [.jrn, .nvm] s t
  legal : t.get F.LOG_LSEQ_SEQ = (s.get F.LOG_LSEQ_SEQ + s.jrn.lq.length) % 2 ^ 32
  commits : t.get F.BILL_JSEQ_SEQ = (s.get F.BILL_JSEQ_SEQ + 1) % 2 ^ 32
  entries : ∀ k e, s.jrn.lq[k]? = some e → t.nvmBytes (legalAddr (s.get F.LOG_LSEQ_SEQ + k)) 16 = e.bytes
  pend : t.get F.BILL_JRNL_PEND = 0
  queue : t.jrn.lq = []
  closed : t.jrn.openC = none
  since : t.jrn.since = 0
  due : t.jrn.due = false
  tick : t.jrn.image.tick = s.commitImage.tick
  snaps : t.jrn.snapRows = s.jrn.snapRows

/-- The journal of an open commit. -/
def State.openJournal (s : State) : Journal :=
  { s.jrn with openC := some (s.get F.BILL_JRNL_PEND + (s.jrn.lq.length + 3) / 4 + 1, s.commitImage, s.jrn.lq), lq := [], due := false }

theorem State.commitOpen_eq : s.commitOpen =
    (({ s with jrn := s.openJournal } : State).put F.BILL_JRNL_PEND 0).set1 F.BILL_JRNL_OPEN := rfl

theorem State.commitOpen_spec (hc : s.canonical = true) :
    Changes [F.BILL_JRNL_PEND.zone, F.BILL_JRNL_OPEN.zone] [.jrn] s s.commitOpen ∧ s.commitOpen.get F.BILL_JRNL_PEND = 0
    ∧ s.commitOpen.jrn = s.openJournal := by
  have h1 : Changes [F.BILL_JRNL_PEND.zone, F.BILL_JRNL_OPEN.zone] [.jrn] s { s with jrn := s.openJournal } := (Changes.refl hc).setJrn
  rw [State.commitOpen_eq]
  generalize hu : ({ s with jrn := s.openJournal } : State) = u at h1
  have h2 : Changes [F.BILL_JRNL_PEND.zone] [] u (u.put F.BILL_JRNL_PEND 0) := (Changes.refl h1.canonical).put
  have h3 : Changes [F.BILL_JRNL_OPEN.zone] [] (u.put F.BILL_JRNL_PEND 0) ((u.put F.BILL_JRNL_PEND 0).set1 F.BILL_JRNL_OPEN) :=
    (Changes.refl h2.canonical).set1
  exact ⟨(h1.next h2).next h3, (h3.get _).trans (State.get_put h1.canonical (by decide)), by rw [h3.jrn, h2.jrn, ← hu]⟩

theorem State.commitClose_committed (hc : s.canonical = true) (hl : ∀ e ∈ s.jrn.lq, e.data.length = 10) (hlen : s.jrn.lq.length ≤ 512) (h : Nat) :
    Committed s ((s.commitOpen.headAt h).commitClose s.commitImage s.jrn.lq) := by
  obtain ⟨h1, hpend, hj⟩ := State.commitOpen_spec hc
  have h2 : Changes [F.BILL_JRNL_HEAD.zone] [] s.commitOpen (s.commitOpen.put F.BILL_JRNL_HEAD h) := (Changes.refl h1.canonical).put
  have h3 : Changes [F.BILL_JRNL_HEAD.zone] [.jrn] s.commitOpen (s.commitOpen.headAt h) := (h2.mono (L := [.jrn])).setJrn
  have hj3 : (s.commitOpen.headAt h).jrn = { s.openJournal with head := h } := by rw [State.headAt, hj]
  rw [State.commitClose_eq]
  generalize s.commitOpen.headAt h = u at h3 hj3
  have h4 := State.logged_logged h3.canonical hl hlen
  have hj4 := h4.changes.jrn.trans hj3
  generalize u.logged s.jrn.lq = v at h4 hj4
  have h5 : Changes [] [.jrn] v { v with jrn := v.closedJournal s.commitImage } := (Changes.refl h4.changes.canonical).setJrn
  have hj5 : (v.closedJournal s.commitImage).lq = [] ∧ (v.closedJournal s.commitImage).due = false
      ∧ (v.closedJournal s.commitImage).snapRows = s.jrn.snapRows := by
    rw [State.closedJournal, hj4]
    exact ⟨rfl, rfl, rfl⟩
  generalize hw : ({ v with jrn := v.closedJournal s.commitImage } : State) = w at h5
  have hjw : w.jrn = v.closedJournal s.commitImage := by rw [← hw]
  have h6 : Changes [F.BILL_JRNL_OPEN.zone] [] w (w.clr F.BILL_JRNL_OPEN) := (Changes.refl h5.canonical).clr
  have h7 := State.legalShow_changes h6.canonical
  have hjt : (w.clr F.BILL_JRNL_OPEN).legalShow.jrn = v.closedJournal s.commitImage := h7.jrn.trans (h6.jrn.trans hjw)
  have h57 : Changes (F.BILL_JRNL_OPEN.zone :: legalZones) [.jrn] v (w.clr F.BILL_JRNL_OPEN).legalShow := ((h5.mono).next h6).next h7
  have h13 : Changes commitZones [.jrn, .nvm] s u := (h1.mono).next h3
  exact {
    changes := (h13.next h4.changes).next h57
    legal := (h57.get _).trans (h4.legal.trans (by rw [h3.get F.LOG_LSEQ_SEQ, h1.get F.LOG_LSEQ_SEQ]))
    commits := (h57.get _).trans (h4.commits.trans (by rw [h3.get F.BILL_JSEQ_SEQ, h1.get F.BILL_JSEQ_SEQ]))
    entries := fun k e hk => by
      have he := h4.entries k e hk
      rw [h3.get F.LOG_LSEQ_SEQ, h1.get F.LOG_LSEQ_SEQ] at he
      rw [State.nvmBytes, h57.nvm]
      exact he
    pend := (h57.get _).trans ((h4.changes.get _).trans ((h3.get _).trans hpend))
    queue := hjt ▸ hj5.1
    closed := hjt ▸ rfl
    since := hjt ▸ rfl
    due := hjt ▸ hj5.2.1
    tick := hjt ▸ rfl
    snaps := hjt ▸ hj5.2.2 }

/-! ### The phase -/

/-- A commit that is due and whose rows fit is written whole. -/
theorem State.commitRun_whole {f n : Nat} (hopen : s.jrn.openC = none) (hdue : s.commitIsDue = true)
    (hn : s.get F.BILL_JRNL_PEND + (s.jrn.lq.length + 3) / 4 + 1 ≤ n) (hc : s.canonical = true)
    (hl : ∀ e ∈ s.jrn.lq, e.data.length = 10) (hlen : s.jrn.lq.length ≤ 512) :
    ∃ m h, State.commitRun (f + 1) n s = (m, (s.commitOpen.headAt h).commitClose s.commitImage s.jrn.lq) := by
  obtain ⟨-, -, hj⟩ := State.commitOpen_spec hc
  have ho : s.commitOpen.jrn.openC = some (s.get F.BILL_JRNL_PEND + (s.jrn.lq.length + 3) / 4 + 1, s.commitImage, s.jrn.lq) := by
    rw [hj]
    rfl
  have hclose := State.commitClose_committed hc hl hlen ((s.commitOpen.jrn.head + (s.get F.BILL_JRNL_PEND + (s.jrn.lq.length + 3) / 4 + 1)) % 512)
  refine ⟨n - (s.get F.BILL_JRNL_PEND + (s.jrn.lq.length + 3) / 4 + 1),
    (s.commitOpen.jrn.head + (s.get F.BILL_JRNL_PEND + (s.jrn.lq.length + 3) / 4 + 1)) % 512, ?_⟩
  unfold State.commitRun
  extract_lets s1
  have h1 : s1 = s.commitOpen := if_pos ⟨by rw [hopen]; rfl, hdue⟩
  rw [h1, if_neg (by rw [ho]; exact Bool.false_ne_true), State.commitRows_all ho hn]
  dsimp only
  rw [if_neg (by rw [hclose.due]; exact fun h => Bool.false_ne_true h.2)]

theorem State.commitImage_tick : s.commitImage.tick = s.rm.tick := by
  unfold State.commitImage
  cases s.jrn.zcRow with
  | none => rfl
  | some z =>
    have hfold (l : List (Nat × Int × Int × Nat × Nat)) (u : State) : (l.foldl (fun t (v : Nat × Int × Int × Nat × Nat) =>
        let t1 := ((t.putI (F.SHOT_P_ZOFF_ZOFF v.1) v.2.1).putI (F.SHOT_P_DELTA_DELTA v.1) v.2.2.1).put
          (F.SHOT_P_DREF_DREF v.1) v.2.2.2.1
        let t2 := (t1.put (F.SHOT_P_ZSPR_SPREAD v.1) v.2.2.2.2).clr (F.AME_P_STAT_ZSTALE v.1)
        { t2 with jrn := { t2.jrn with hid := { t2.jrn.hid with zdelta := t2.jrn.hid.zdelta.set v.1 v.2.2.1 } } }) u).rm = u.rm := by
      induction l generalizing u with
      | nil => rfl
      | cons v l ih => exact ih _
    exact congrArg Ringm.tick (hfold z.paths _)

/-- With nothing but the commit to write, the phase is the commit. -/
theorem State.persistRows_commit (hc : s.canonical = true) (hdue : s.jrn.due = true) (hopen : s.jrn.openC = none)
    (hsnaps : s.jrn.snapRows = []) (hkey : s.keys.commit = none) (hwipe : s.keys.wipe = none) (hsave : s.cmd.saveRows = 0)
    (hhib : s.pow.hibReq = false) (hl : ∀ e ∈ s.jrn.lq, e.data.length = 10) (hpend : s.get F.BILL_JRNL_PEND ≠ 0)
    (hn : s.get F.BILL_JRNL_PEND + (s.jrn.lq.length + 3) / 4 + 1 ≤ 4) : Committed s s.persistRows := by
  have hlen : s.jrn.lq.length ≤ 512 := by omega
  have hc1 : s.commitIsDue = true := by simp [State.commitIsDue, hdue]
  obtain ⟨m, h, hrun⟩ := State.commitRun_whole (f := 1) hopen hc1 hn hc hl hlen
  have hclose := State.commitClose_committed hc hl hlen h
  suffices s.persistRows = (s.commitOpen.headAt h).commitClose s.commitImage s.jrn.lq from this ▸ hclose
  unfold State.persistRows
  extract_lets s1 hib
  have h1 : s1 = s := if_neg hpend
  have h2 : hib = false := by rw [show hib = s1.pow.hibReq from rfl, h1, hhib]
  rw [h1, h2]
  simp only [Bool.false_eq_true, if_false]
  rw [hrun]
  generalize (s.commitOpen.headAt h).commitClose s.commitImage s.jrn.lq = u at hclose
  have h3 : State.snapPersist 4 (min m 4) u = (min m 4, u) := by
    unfold State.snapPersist
    rw [hclose.snaps, hsnaps]
  have h4 : u.keyPersist (min m 4) = (min m 4, u) := by
    unfold State.keyPersist
    rw [hclose.changes.keys, hkey, hwipe]
  dsimp only
  rw [h3]
  dsimp only
  rw [h4]
  exact if_pos (.inl (by rw [hclose.changes.cmd, hsave]))

/-- The end of a phase that asks for nothing more. -/
theorem State.endPersist_quiet (ha : s.mgmt.activate = false) (hs : s.pow.safetyReq = none) (hr : s.pow.resetReq = none)
    (hh : s.pow.hibReq = false) (hc : s.canonical = true) : s.endPersist.endTick = s.endPhases := by
  have h1 := State.endPhases_changes hc
  have hact : s.activatePersist = s := if_pos (by rw [ha]; rfl)
  have he : s.endPersist = s.endPhases := by
    unfold State.endPersist
    extract_lets s1 src s2 s3
    have h2 : s2 = s := (if_neg (by rw [ha]; exact fun h => Bool.false_ne_true h.1)).trans hact
    have h3 : s3 = s.endPhases := congrArg State.endPhases h2
    rw [h3]
    split
    next c hreq => exact absurd (hreq.symm.trans (h1.pow ▸ hs)) (by simp)
    next => exact if_neg (by rw [h1.pow, hh]; exact Bool.false_ne_true)
  rw [he]
  exact if_neg (by rw [State.resetAtEnd, State.commandResetDue, h1.pow, hr]; simp)

end

/-- Settles O24: the phase opens the commit, writes its rows and closes it, and the tick ends. -/
theorem persistWritesTheCommit : Obligations.PersistWritesTheCommit := by
  unfold Obligations.PersistWritesTheCommit
  intro s hc hphase hdue hopen hsnaps hkey hwipe hsave hact hsafety hreset hhib hl hpend hn
  have h := State.persistRows_commit hc hdue hopen hsnaps hkey hwipe hsave hhib hl hpend hn
  have hwork : s.persistDue = true := by simp [State.persistDue, State.commitIsDue, hdue]
  have hrun : exec .persist s = .next s.persistRows.endPhases := by
    show Host.Outcome.next (if s.persistPhase then (if s.persistDue then s.persistRows else s).endPersist.endTick else s) = _
    rw [if_pos hphase, if_pos hwork, State.endPersist_quiet (by rw [h.changes.mgmt, hact]) (by rw [h.changes.pow, hsafety])
      (by rw [h.changes.pow, hreset]) (by rw [h.changes.pow, hhib]) h.changes.canonical]
  have htick := h.tick.trans State.commitImage_tick
  generalize s.persistRows = u at h htick hrun
  have hp : Changes [F.FT_PHASE_PHASE.zone] [] u (u.put F.FT_PHASE_PHASE 5) := (Changes.refl h.changes.canonical).put
  have hr : Changes [F.PWR_STATE_STATE.zone] [] (u.put F.FT_PHASE_PHASE 5) u.endPhases := State.restPower_changes hp.canonical
  have he := State.endPhases_changes h.changes.canonical
  refine ⟨_, hrun, (hr.get _).trans (State.get_put h.changes.canonical (by decide)), ?_, ?_, ?_, ?_, (he.get _).trans h.pend,
    (he.get _).trans h.commits, (he.get _).trans h.legal, ?_, fun k e hk => ?_, he.crs.trans h.changes.crs⟩
  · rw [he.jrn, h.queue]
  · rw [he.jrn, h.closed]
  · rw [he.jrn, h.since]
  · rw [he.jrn, h.due]
  · rw [he.jrn, htick]
  · rw [State.nvmBytes, he.nvm]
    exact h.entries k e hk

end Sys2Proof.Machine
end

section
set_option Elab.async false
/-! PROOF. The boundaries and the tariff switch that a Compute finds (Machine/Billing.lean, Machine/Tick.lean; R301 to R306, R310,
R316). -/

namespace Sys2Proof.Machine

section
variable {s t : State}

/-! ### Demand intervals -/

/-- The demand registers of a meter point. -/
def demandWindow (x : Nat) : Zone := window (F.BILL_MD x 0) 0x40

/-- What closing one quantity of an interval writes. -/
def demandZones (x q : Nat) : List Zone := [(F.BILL_LD_DEM x q).zone, (F.BILL_MD_MD x q).zone, (F.BILL_MDT_SEC x q).zone]

/-- The demand of a closed interval in one quantity, and its maximum where it is one. -/
def State.closeQty (b x : Nat) (elig : Bool) (dem : Nat → Nat) (t : State) (q : Nat) : State :=
  let t1 := t.put (F.BILL_LD_DEM x q) (dem q)
  if elig ∧ t.get (F.BILL_MD_MD x q) < dem q then (t1.put (F.BILL_MD_MD x q) (dem q)).put (F.BILL_MDT_SEC x q) b else t1

theorem maximum_apart : ∀ x : Fin 2, ∀ q : Fin 3,
    ∀ z ∈ [(F.BILL_MD_MD x.val q.val).zone, (F.BILL_MDT_SEC x.val q.val).zone], z.apart (F.BILL_LD_DEM x.val q.val) = true := by decide

theorem State.closeQty_spec (hc : s.canonical = true) (b : Nat) (x : Fin 2) (elig : Bool) {dem : Nat → Nat} (q : Fin 3) (hd : dem q.val < 2 ^ 32) :
    Changes (demandZones x.val q.val) [] s (State.closeQty b x.val elig dem s q.val)
    ∧ (State.closeQty b x.val elig dem s q.val).get (F.BILL_LD_DEM x.val q.val) = dem q.val := by
  unfold State.closeQty
  extract_lets t1
  have h1 : Changes (demandZones x.val q.val) [] s t1 := (Changes.refl hc).putAt (by simp [demandZones])
  have hq : t1.get (F.BILL_LD_DEM x.val q.val) = dem q.val := State.get_put hc hd
  split
  · have h2 : Changes [(F.BILL_MD_MD x.val q.val).zone, (F.BILL_MDT_SEC x.val q.val).zone] [] t1
        (t1.put (F.BILL_MD_MD x.val q.val) (dem q.val)) := (Changes.refl h1.canonical).putAt
    have h3 : Changes [(F.BILL_MD_MD x.val q.val).zone, (F.BILL_MDT_SEC x.val q.val).zone] [] t1
        ((t1.put (F.BILL_MD_MD x.val q.val) (dem q.val)).put (F.BILL_MDT_SEC x.val q.val) b) := h2.putAt
    exact ⟨h1.next h3 (by simp [demandZones]), (h3.get _ (maximum_apart x q)).trans hq⟩
  · exact ⟨h1, hq⟩

theorem demandZones_widen : ∀ x : Fin 2, ∀ q : Fin 3, ∀ v ∈ demandZones x.val q.val, ∃ z ∈ [demandWindow x.val], z.widens v = true := by decide

theorem demandZones_apart : ∀ x : Fin 2, ∀ q r : Fin 3, q ≠ r → ∀ z ∈ demandZones x.val q.val, z.apart (F.BILL_LD_DEM x.val r.val) = true := by
  decide

theorem demandOf_lt (q acc len : Nat) : demandOf q acc len < 2 ^ 32 := Nat.lt_of_le_of_lt (Nat.min_le_right _ _) (by decide)

/-- The demands of a closed interval. -/
theorem State.closeQtys_spec (hc : s.canonical = true) (b : Nat) (x : Fin 2) (elig : Bool) {dem : Nat → Nat} (hd : ∀ q, dem q < 2 ^ 32) :
    Changes [demandWindow x.val] [] s ([0, 1, 2].foldl (State.closeQty b x.val elig dem) s)
    ∧ ∀ q : Fin 3, ([0, 1, 2].foldl (State.closeQty b x.val elig dem) s).get (F.BILL_LD_DEM x.val q.val) = dem q.val := by
  obtain ⟨h0, g0⟩ := State.closeQty_spec hc b x elig 0 (hd _)
  obtain ⟨h1, g1⟩ := State.closeQty_spec h0.canonical b x elig 1 (hd _)
  obtain ⟨h2, g2⟩ := State.closeQty_spec h1.canonical b x elig 2 (hd _)
  refine ⟨((h0.cover (demandZones_widen x 0)).trans (h1.cover (demandZones_widen x 1))).trans (h2.cover (demandZones_widen x 2)), fun q => ?_⟩
  match q with
  | 0 => exact (h2.get _ (demandZones_apart x 2 0 (by decide))).trans ((h1.get _ (demandZones_apart x 1 0 (by decide))).trans g0)
  | 1 => exact (h2.get _ (demandZones_apart x 2 1 (by decide))).trans g1
  | 2 => exact g2

/-- What closing an interval writes besides its demands. -/
def endZones (x : Nat) : List Zone := [(F.BILL_LSTART_SEC x).zone, (F.BILL_LEND_SEC x).zone, (wholeReg (F.BILL_LFLG x)).zone]

theorem endZones_widen : ∀ x : Fin 2, ∀ v ∈ endZones x.val, ∃ z ∈ [demandWindow x.val], z.widens v = true := by decide

theorem endZones_apart : ∀ x : Fin 2, ∀ q : Fin 3, ∀ z ∈ endZones x.val, z.apart (F.BILL_LD_DEM x.val q.val) = true := by decide

theorem endZones_flags_apart : ∀ x : Fin 2, (wholeReg (F.BILL_LFLG x.val)).zone.apart (F.BILL_LSTART_SEC x.val) = true
    ∧ (wholeReg (F.BILL_LFLG x.val)).zone.apart (F.BILL_LEND_SEC x.val) = true
    ∧ (F.BILL_LEND_SEC x.val).zone.apart (F.BILL_LSTART_SEC x.val) = true := by decide

/-- The start, the end and the flags of a closed interval. -/
def State.closeTail (s : State) (x start stop : Nat) (flags : Word) : State :=
  ((s.put (F.BILL_LSTART_SEC x) start).put (F.BILL_LEND_SEC x) stop).wr (F.BILL_LFLG x) flags

theorem State.closeTail_spec (hc : s.canonical = true) (x : Fin 2) (start stop : Nat) (flags : Word) :
    Changes (endZones x.val) [] s (s.closeTail x.val start stop flags)
    ∧ (s.closeTail x.val start stop flags).get (F.BILL_LSTART_SEC x.val) = start % 2 ^ 32
    ∧ (s.closeTail x.val start stop flags).get (F.BILL_LEND_SEC x.val) = stop % 2 ^ 32 := by
  obtain ⟨a1, a2, a3⟩ := endZones_flags_apart x
  have h1 : Changes [(F.BILL_LSTART_SEC x.val).zone] [] s (s.put (F.BILL_LSTART_SEC x.val) start) := (Changes.refl hc).putAt
  have g1 := State.get_put_mod (f := F.BILL_LSTART_SEC x.val) (v := start) hc (show 0 ≤ 31 by decide) (show 31 < 32 by decide)
  unfold State.closeTail
  generalize s.put (F.BILL_LSTART_SEC x.val) start = u at h1 g1
  have h2 : Changes [(F.BILL_LEND_SEC x.val).zone] [] u (u.put (F.BILL_LEND_SEC x.val) stop) := (Changes.refl h1.canonical).putAt
  have g2 := State.get_put_mod (f := F.BILL_LEND_SEC x.val) (v := stop) h1.canonical (show 0 ≤ 31 by decide) (show 31 < 32 by decide)
  generalize u.put (F.BILL_LEND_SEC x.val) stop = v at h2 g2
  have h3 : Changes [(wholeReg (F.BILL_LFLG x.val)).zone] [] v (v.wr (F.BILL_LFLG x.val) flags) :=
    (Changes.refl h2.canonical).wr ⟨_, List.mem_singleton_self _, Fld.zone_covers _⟩
  refine ⟨(h1.mono (by simp [endZones])).next (h2.mono (by simp [endZones]) (L := [])) (fun _ h => h) |>.next h3 (by simp [endZones]), ?_, ?_⟩
  · exact (h3.get _ (List.forall_mem_singleton.mpr a1)).trans ((h2.get _ (List.forall_mem_singleton.mpr a3)).trans g1)
  · exact (h3.get _ (List.forall_mem_singleton.mpr a2)).trans g2

theorem State.setInterval_changes (hc : s.canonical = true) (x : Nat) (i : OpenInterval) : Changes [] [.bill] s (s.setInterval x i) := by
  unfold State.setInterval
  exact .ite (Changes.refl hc).setBill (Changes.refl hc).setBill

theorem State.closeOne_eq (b start x : Nat) : ∃ elig flags, s.closeOne b start x =
    (([0, 1, 2].foldl (State.closeQty b x elig fun q => demandOf q ((s.interval x).acc.getD q 0) s.demandLen) s).closeTail x
      (s.interval x).start b flags).setInterval x (freshInterval start) := ⟨_, _, rfl⟩

/-- An interval that has closed. -/
structure IntervalClosed (s t : State) (b start : Nat) (x : Fin 2) : Prop where
  changes : Changes [demandWindow x.val] [.bill] s t
  stop : t.get (F.BILL_LEND_SEC x.val) = b % 2 ^ 32
  begun : t.get (F.BILL_LSTART_SEC x.val) = (s.interval x.val).start % 2 ^ 32
  demand : ∀ q : Fin 3, t.get (F.BILL_LD_DEM x.val q.val) = demandOf q.val ((s.interval x.val).acc.getD q.val 0) s.demandLen
  bill : t.bill = (s.setInterval x.val (freshInterval start)).bill

theorem State.closeOne_closed (hc : s.canonical = true) (b start : Nat) (x : Fin 2) : IntervalClosed s (s.closeOne b start x.val) b start x := by
  obtain ⟨elig, flags, he⟩ := State.closeOne_eq (s := s) b start x.val
  obtain ⟨h1, g1⟩ := State.closeQtys_spec hc b x elig (dem := fun q => demandOf q ((s.interval x.val).acc.getD q 0) s.demandLen)
    fun q => demandOf_lt q _ _
  rw [he]
  generalize [0, 1, 2].foldl _ s = u at h1 g1
  obtain ⟨h2, g2, g3⟩ := State.closeTail_spec h1.canonical x (s.interval x.val).start b flags
  generalize u.closeTail x.val _ b flags = v at h2 g2 g3
  have h3 := State.setInterval_changes h2.canonical x.val (freshInterval start)
  have hbill : v.bill = s.bill := h2.bill.trans h1.bill
  have hkeep (g : Fld) : (v.setInterval x.val (freshInterval start)).get g = v.get g := h3.get g (by simp)
  have h12 : Changes [demandWindow x.val] [] s v := h1.trans (h2.cover (endZones_widen x))
  refine ⟨(h12.mono (fun _ h => h)).next h3 (by simp), (hkeep _).trans g3, (hkeep _).trans g2,
    fun q => (hkeep _).trans ((h2.get _ (endZones_apart x q)).trans (g1 q)), ?_⟩
  unfold State.setInterval
  rw [hbill]
  split <;> rfl

/-- The demand registers of both meter points. -/
def demandWindows : List Zone := [demandWindow 0, demandWindow 1]

/-- Both open intervals close and the next ones open. -/
structure IntervalsClosed (s t : State) (b start : Nat) : Prop where
  changes : Changes demandWindows [.bill, .jrn] s t
  stop : ∀ x : Fin 2, t.get (F.BILL_LEND_SEC x.val) = b % 2 ^ 32
  begun : ∀ x : Fin 2, t.get (F.BILL_LSTART_SEC x.val) = (s.interval x.val).start % 2 ^ 32
  demand : ∀ x : Fin 2, ∀ q : Fin 3, t.get (F.BILL_LD_DEM x.val q.val) = demandOf q.val ((s.interval x.val).acc.getD q.val 0) s.demandLen
  bill : t.bill = { s.bill with intA := freshInterval start, intB := freshInterval start }
  jrn : t.jrn = { s.jrn with due := true }

theorem State.demandLen_congr (h : t.get F.BILL_CFG_DEMLEN = s.get F.BILL_CFG_DEMLEN) : t.demandLen = s.demandLen := by
  unfold State.demandLen
  rw [h]

theorem State.closeInterval_closed (hc : s.canonical = true) (b start : Nat) : IntervalsClosed s (s.closeInterval b start) b start := by
  have h0 := State.closeOne_closed hc b start 0
  unfold State.closeInterval
  change IntervalsClosed s (((s.closeOne b start (0 : Fin 2).val).closeOne b start (1 : Fin 2).val).commitDue) b start
  generalize s.closeOne b start (0 : Fin 2).val = u at h0
  have h1 := State.closeOne_closed h0.changes.canonical b start 1
  have hint : u.interval 1 = s.interval 1 := by
    rw [State.interval, h0.bill]
    rfl
  have hlen : u.demandLen = s.demandLen := State.demandLen_congr (h0.changes.get _)
  generalize u.closeOne b start (1 : Fin 2).val = v at h1
  have h2 : Changes [] [.jrn] v v.commitDue := (Changes.refl h1.changes.canonical).setJrn
  have hbill : v.bill = { s.bill with intA := freshInterval start, intB := freshInterval start } := by
    rw [h1.bill]
    change { u.bill with intB := freshInterval start } = _
    rw [h0.bill]
    rfl
  exact {
    changes := ((h0.changes.mono).next h1.changes).next h2
    stop := fun x => match x with
      | 0 => (h2.get _).trans ((h1.changes.get (F.BILL_LEND_SEC 0)).trans h0.stop)
      | 1 => (h2.get _).trans h1.stop
    begun := fun x => match x with
      | 0 => (h2.get _).trans ((h1.changes.get (F.BILL_LSTART_SEC 0)).trans h0.begun)
      | 1 => (h2.get _).trans (hint ▸ h1.begun)
    demand := fun x q => match x with
      | 0 => (h2.get _ (by simp)).trans ((h1.changes.get _ (by revert q; decide)).trans (h0.demand q))
      | 1 => (h2.get _ (by simp)).trans ((h1.demand q).trans (by rw [hlen]; exact hint ▸ rfl))
    bill := h2.bill.trans hbill
    jrn := by
      have : v.jrn = s.jrn := h1.changes.jrn.trans h0.changes.jrn
      rw [State.commitDue, this] }

/-- The registers of a meter point stand before its demand registers. -/
theorem State.reg96_congr {W : List Zone} {L : List Part} (h : Changes W L s t) {x : Fin 2} {n : Fin 54}
    (hW : ∀ z ∈ W, ∀ a, 0x40300400 ≤ a → a < 0x40300C00 → z.has a = false) : t.reg96 x.val n.val = s.reg96 x.val n.val := by
  have hrd (w : Fin 3) : t.rd (F.BILL_REG x.val n.val w.val) = s.rd (F.BILL_REG x.val n.val w.val) :=
    h.rd _ fun z hz => hW z hz _ (by unfold F.BILL_REG; omega) (by unfold F.BILL_REG; omega)
  have h0 : t.rd (F.BILL_REG x.val n.val 0) = s.rd (F.BILL_REG x.val n.val 0) := hrd 0
  have h1 : t.rd (F.BILL_REG x.val n.val 1) = s.rd (F.BILL_REG x.val n.val 1) := hrd 1
  have h2 : t.rd (F.BILL_REG x.val n.val 2) = s.rd (F.BILL_REG x.val n.val 2) := hrd 2
  unfold State.reg96
  rw [h0, h1, h2]

/-- A zone that lies outside the registers of both meter points. -/
theorem Zone.not_has_regs {z : Zone} (h : z.stride = 1 ∧ (z.base + z.count ≤ 0x40300400 ∨ 0x40300C00 ≤ z.base)) {a : Nat}
    (h1 : 0x40300400 ≤ a) (h2 : a < 0x40300C00) : z.has a = false := by
  obtain ⟨hs, hb⟩ := h
  refine Bool.eq_false_iff.mpr fun hh => ?_
  rw [Zone.has_iff, hs, Nat.div_one] at hh
  omega

/-! ### Billing periods -/

/-- The maximum demands of both meter points, cleared. -/
def maximaFields : List (Fld × Nat) := [0, 1].flatMap fun x => [0, 1, 2].flatMap fun q => [(F.BILL_MD_MD x q, 0), (F.BILL_MDT_SEC x q, 0)]

theorem maximaFields_sane : ∀ x ∈ maximaFields, x.1.sane = true := by decide

theorem maximaFields_apart : apartFields maximaFields := by
  unfold apartFields
  decide

theorem mem_maximaFields (x : Fin 2) (q : Fin 3) : (F.BILL_MD_MD x.val q.val, 0) ∈ maximaFields ∧ (F.BILL_MDT_SEC x.val q.val, 0) ∈ maximaFields := by
  revert x q
  decide

/-- A period that closes with its snapshots. -/
def State.periodTaken (s : State) (b flags : Nat) : State :=
  ((({ s with jrn := { s.jrn with hid := { s.jrn.hid with period := s.jrn.hid.period + 1 } } } : State).put F.BILL_STAT_PERIODS
    ((s.jrn.hid.period + 1) % 65536)).takeSnapshot b flags 0).takeSnapshot b flags 1

/-- The journal of a closed period. -/
def Journal.periodEnded (j : Journal) (b : Nat) : Journal := { j with hid := { j.hid with prevEnd := b }, due := true }

theorem State.putAll_maxima : s.putAll maximaFields = [0, 1].foldl (fun (t : State) x => [0, 1, 2].foldl (fun (u : State) d =>
    (u.clr (F.BILL_MD_MD x d)).clr (F.BILL_MDT_SEC x d)) t) s := rfl

theorem State.closePeriod_eq (b flags : Nat) : s.closePeriod b flags true =
    { (s.periodTaken b flags).putAll maximaFields with jrn := ((s.periodTaken b flags).putAll maximaFields).jrn.periodEnded b } := by
  unfold State.closePeriod
  extract_lets src srcx2 s1 s2 s3 s4 srcx3 srcx4
  have h3 : s3 = s.periodTaken b flags := if_pos rfl
  have h4 : s4 = (s.periodTaken b flags).putAll maximaFields := by rw [State.putAll_maxima, ← h3]
  change { s4 with jrn := s4.jrn.periodEnded b } = _
  rw [h4]

structure PeriodTaken (s t : State) : Prop where
  changes : Changes [F.BILL_STAT_PERIODS.zone] [.jrn] s t
  periods : t.get F.BILL_STAT_PERIODS = (s.jrn.hid.period + 1) % 65536
  period : t.jrn.hid.period = s.jrn.hid.period + 1
  snaps : t.jrn.snapRows.length = s.jrn.snapRows.length + 2

theorem State.periodTaken_taken (hc : s.canonical = true) (b flags : Nat) : PeriodTaken s (s.periodTaken b flags) := by
  have h1 : Changes [F.BILL_STAT_PERIODS.zone] [.jrn] s
      { s with jrn := { s.jrn with hid := { s.jrn.hid with period := s.jrn.hid.period + 1 } } } := (Changes.refl hc).setJrn
  unfold State.periodTaken
  generalize hu : ({ s with jrn := { s.jrn with hid := { s.jrn.hid with period := s.jrn.hid.period + 1 } } } : State) = u at h1
  have hj : u.jrn.hid.period = s.jrn.hid.period + 1 ∧ u.jrn.snapRows = s.jrn.snapRows := by
    rw [← hu]
    exact ⟨rfl, rfl⟩
  have h2 : Changes [F.BILL_STAT_PERIODS.zone] [.jrn] u (u.put F.BILL_STAT_PERIODS ((s.jrn.hid.period + 1) % 65536)) :=
    (Changes.refl h1.canonical).put
  have hp : (u.put F.BILL_STAT_PERIODS ((s.jrn.hid.period + 1) % 65536)).get F.BILL_STAT_PERIODS = (s.jrn.hid.period + 1) % 65536 :=
    State.get_put h1.canonical (Nat.mod_lt _ (by decide))
  have hj2 : (u.put F.BILL_STAT_PERIODS ((s.jrn.hid.period + 1) % 65536)).jrn = u.jrn := rfl
  generalize u.put F.BILL_STAT_PERIODS ((s.jrn.hid.period + 1) % 65536) = v at h2 hp hj2
  have h3 : Changes [] [.jrn] v (v.takeSnapshot b flags 0) := (Changes.refl h2.canonical).setJrn
  have h4 : Changes [] [.jrn] (v.takeSnapshot b flags 0) ((v.takeSnapshot b flags 0).takeSnapshot b flags 1) :=
    (Changes.refl h3.canonical).setJrn
  refine ⟨((h1.trans h2).next h3).next h4, (h4.get _).trans ((h3.get _).trans hp), ?_, ?_⟩
  · exact (congrArg (·.hid.period) hj2).trans hj.1
  · simp only [State.takeSnapshot, List.length_append, List.length_singleton]
    rw [hj2, hj.2]

/-- A period boundary has fired. -/
structure PeriodFired (s t : State) (b : Nat) : Prop where
  changes : Changes [F.BILL_STAT_PERIODS.zone, F.BILL_LASTP_SEC.zone, window 0x40300C00 0x200] [.jrn] s t
  last : t.get F.BILL_LASTP_SEC = b % 2 ^ 32
  periods : t.get F.BILL_STAT_PERIODS = (s.jrn.hid.period + 1) % 65536
  maxima : ∀ x : Fin 2, ∀ q : Fin 3, t.get (F.BILL_MD_MD x.val q.val) = 0 ∧ t.get (F.BILL_MDT_SEC x.val q.val) = 0
  period : t.jrn.hid.period = s.jrn.hid.period + 1
  prevEnd : t.jrn.hid.prevEnd = b
  due : t.jrn.due = true
  snaps : t.jrn.snapRows.length = s.jrn.snapRows.length + 2

theorem State.firePeriod_fired (hc : s.canonical = true) (b flags : Nat) : PeriodFired s (s.firePeriod b flags true) b := by
  have h1 := State.periodTaken_taken hc b flags
  unfold State.firePeriod
  rw [State.closePeriod_eq]
  generalize s.periodTaken b flags = u at h1
  have h2 := State.putAll_changes h1.changes.canonical maximaFields_sane
  have hget {f : Fld} (hm : (f, 0) ∈ maximaFields) : (u.putAll maximaFields).get f = 0 :=
    State.get_putAll h1.changes.canonical maximaFields_sane maximaFields_apart hm (Nat.two_pow_pos _)
  have hj2 : (u.putAll maximaFields).jrn = u.jrn := h2.jrn
  generalize u.putAll maximaFields = v at h2 hget hj2
  have h3 : Changes [] [.jrn] v { v with jrn := v.jrn.periodEnded b } := (Changes.refl h2.canonical).setJrn
  have hjw : ({ v with jrn := v.jrn.periodEnded b } : State).jrn = u.jrn.periodEnded b := congrArg (·.periodEnded b) hj2
  generalize ({ v with jrn := v.jrn.periodEnded b } : State) = w at h3 hjw
  have h4 : Changes [F.BILL_LASTP_SEC.zone] [] w (w.put F.BILL_LASTP_SEC b) := (Changes.refl h3.canonical).put
  have hjt : (w.put F.BILL_LASTP_SEC b).jrn = u.jrn.periodEnded b := h4.jrn.trans hjw
  have h24 : Changes [F.BILL_STAT_PERIODS.zone, F.BILL_LASTP_SEC.zone, window 0x40300C00 0x200] [.jrn] u (w.put F.BILL_LASTP_SEC b) :=
    ((h2.cover).next h3).next h4
  exact {
    changes := (h1.changes.mono).trans h24
    last := State.get_put_mod h3.canonical (by decide) (by decide)
    periods := (h4.get _).trans ((h3.get _).trans ((h2.get _).trans h1.periods))
    maxima := fun x q => by
      obtain ⟨hm, hs⟩ := mem_maximaFields x q
      refine ⟨(h4.get _ ?_).trans ((h3.get _ (by simp)).trans (hget hm)), (h4.get _ ?_).trans ((h3.get _ (by simp)).trans (hget hs))⟩
        <;> (revert x q; decide)
    period := hjt ▸ h1.period
    prevEnd := hjt ▸ rfl
    due := hjt ▸ rfl
    snaps := hjt ▸ h1.snaps }

theorem State.lt_nextDemand (n : Nat) : n < s.nextDemand n := by
  have hpos : 0 < s.demandLen := by
    unfold State.demandLen
    split <;> decide
  exact Nat.lt_mul_of_div_lt (Nat.lt_succ_self _) hpos

theorem State.lt_nextPeriod {n : Nat} (h : n < 2 ^ 40) : n < s.nextPeriod n := by
  unfold State.nextPeriod
  cases hf : (s.periodsFrom (monthIndex n) 14).find? fun b => decide (n < b) with
  | none => exact h
  | some b => exact of_decide_eq_true (List.find?_some (p := fun b => decide (n < b)) hf)

theorem State.nextDemand_congr (h : t.get F.BILL_CFG_DEMLEN = s.get F.BILL_CFG_DEMLEN) (n : Nat) : t.nextDemand n = s.nextDemand n := by
  unfold State.nextDemand
  rw [State.demandLen_congr h]

/-- A period boundary alone fires where it comes before the demand boundary. -/
theorem State.fireUpTo_period (hc : s.canonical = true) {p flags n : Nat} (hp : s.nextPeriod (s.get F.BILL_LASTP_SEC) = p)
    (hd : p < s.nextDemand (s.get F.BILL_LASTD_SEC)) (hlt : p < 2 ^ 32) : s.fireUpTo p flags (n + 2) = s.firePeriod p flags true := by
  have h := State.firePeriod_fired hc p flags
  have hd' : p < (s.firePeriod p flags true).nextDemand ((s.firePeriod p flags true).get F.BILL_LASTD_SEC) := by
    rw [State.nextDemand_congr (h.changes.get _), h.changes.get F.BILL_LASTD_SEC]
    exact hd
  have hp' : p < (s.firePeriod p flags true).nextPeriod ((s.firePeriod p flags true).get F.BILL_LASTP_SEC) := by
    rw [h.last, Nat.mod_eq_of_lt hlt]
    exact State.lt_nextPeriod (Nat.lt_trans hlt (by decide))
  rw [State.fireUpTo, if_neg fun hh => absurd hh.1 (Nat.not_le.mpr hd), hp, if_pos (Nat.le_refl p), State.fireUpTo, if_neg fun hh => absurd hh.1 (Nat.not_le.mpr hd'), if_neg (Nat.not_le.mpr hp')]

/-- No boundary fires before the first one. -/
theorem State.fireUpTo_none {now flags n : Nat} (hd : now < s.nextDemand (s.get F.BILL_LASTD_SEC))
    (hp : now < s.nextPeriod (s.get F.BILL_LASTP_SEC)) : s.fireUpTo now flags n = s := by
  cases n with
  | zero => rfl
  | succ n =>
    rw [State.fireUpTo, if_neg fun hh => absurd hh.1 (Nat.not_le.mpr hd), if_neg (Nat.not_le.mpr hp)]

theorem State.boundariesDue_noCatch (h : s.boundariesDue = true) : s.bill.catchUp = false ∧ s.bill.catchUntr = false := by
  simp only [State.boundariesDue, Bool.and_eq_true, Bool.not_eq_true'] at h
  exact ⟨h.1.2, h.2⟩

/-! ### The tariff -/

/-- What a tariff switch shows in. -/
def tariffZones : List Zone := [F.BILL_STAT_TARIFF.zone, (wholeReg F.BILL_LASTT).zone, (wholeReg F.ALM_STAT).zone, F.BILL_SWCNT_SWITCHES.zone]

structure TariffSwitched (s t : State) (now : Nat) : Prop where
  changes : Changes tariffZones [.jrn] s t
  tariff : t.get F.BILL_STAT_TARIFF = (s.almanac now).1
  since : t.get F.BILL_LASTT_SEC = now % 2 ^ 32
  choice : t.rd F.ALM_STAT = word (s.almanac now).2
  switches : t.get F.BILL_SWCNT_SWITCHES = min (s.get F.BILL_SWCNT_SWITCHES + 1) 65535
  due : t.jrn.due = true
  same : t = { s with regs := t.regs, jrn := t.jrn }

theorem State.almanac_lt (n : Nat) : (s.almanac n).1 < 2 ^ 3 := State.get_lt s _

theorem State.tariffStep_switched (hc : s.canonical = true) {now : Nat} (hk : (s.almanac now).1 ≠ s.get F.BILL_STAT_TARIFF) :
    TariffSwitched s (s.tariffStep now) now := by
  have hlt := State.almanac_lt (s := s) now
  have he : s.tariffStep now = ((((s.wr F.ALM_STAT (word (s.almanac now).2)).put F.BILL_STAT_TARIFF (s.almanac now).1).put
      F.BILL_LASTT_SEC now).bump F.BILL_SWCNT_SWITCHES 1).commitDue := by
    unfold State.tariffStep
    exact if_neg hk
  rw [he]
  generalize hkn : (s.almanac now).1 = k at hlt
  have h1 : Changes tariffZones [.jrn] s (s.wr F.ALM_STAT (word (s.almanac now).2)) := (Changes.refl hc).wr
  have g1 : (s.wr F.ALM_STAT (word (s.almanac now).2)).rd F.ALM_STAT = word (s.almanac now).2 := State.rd_wr_self hc
  have e1 : s.wr F.ALM_STAT (word (s.almanac now).2) = { s with regs := (s.wr F.ALM_STAT (word (s.almanac now).2)).regs } := rfl
  have c1 : (s.wr F.ALM_STAT (word (s.almanac now).2)).get F.BILL_SWCNT_SWITCHES = s.get F.BILL_SWCNT_SWITCHES :=
    Changes.get (W := [(wholeReg F.ALM_STAT).zone]) (L := []) ((Changes.refl hc).wr) _
  generalize s.wr F.ALM_STAT (word (s.almanac now).2) = u at h1 g1 e1 c1
  have h2 : Changes [F.BILL_STAT_TARIFF.zone] [] u (u.put F.BILL_STAT_TARIFF k) := (Changes.refl h1.canonical).put
  have g2 : (u.put F.BILL_STAT_TARIFF k).get F.BILL_STAT_TARIFF = k := State.get_put h1.canonical hlt
  have e2 : u.put F.BILL_STAT_TARIFF k = { u with regs := (u.put F.BILL_STAT_TARIFF k).regs } := rfl
  generalize u.put F.BILL_STAT_TARIFF k = v at h2 g2 e2
  have h3 : Changes [F.BILL_LASTT_SEC.zone] [] v (v.put F.BILL_LASTT_SEC now) := (Changes.refl h2.canonical).put
  have g3 := State.get_put_mod (f := F.BILL_LASTT_SEC) (v := now) h2.canonical (by decide) (by decide)
  have e3 : v.put F.BILL_LASTT_SEC now = { v with regs := (v.put F.BILL_LASTT_SEC now).regs } := rfl
  generalize v.put F.BILL_LASTT_SEC now = w at h3 g3 e3
  have h4 : Changes [F.BILL_SWCNT_SWITCHES.zone] [] w (w.bump F.BILL_SWCNT_SWITCHES 1) := (Changes.refl h3.canonical).bump
  have g4 := State.bump_get (f := F.BILL_SWCNT_SWITCHES) h3.canonical 1
  have e4 : w.bump F.BILL_SWCNT_SWITCHES 1 = { w with regs := (w.bump F.BILL_SWCNT_SWITCHES 1).regs } := rfl
  generalize w.bump F.BILL_SWCNT_SWITCHES 1 = x at h4 g4 e4
  have h5 : Changes [] [.jrn] x x.commitDue := (Changes.refl h4.canonical).setJrn
  exact {
    changes := (((h1.next h2).next h3).next h4).next h5
    tariff := (h5.get _).trans ((h4.get _).trans ((h3.get _).trans (g2.trans hkn.symm)))
    since := (h5.get _).trans ((h4.get _).trans g3)
    choice := (h5.rd _).trans ((h4.rd _).trans ((h3.rd _).trans ((h2.rd _).trans g1)))
    switches := (h5.get _).trans (g4.trans (by rw [h3.get F.BILL_SWCNT_SWITCHES, h2.get F.BILL_SWCNT_SWITCHES, c1]; rfl))
    due := rfl
    same := by
      rw [State.commitDue, e4, e3, e2, e1] }

end

/-- Settles O22: each boundary that is due fires by itself, and with none due the tariff of the start time comes into force. -/
theorem billingBoundariesFire : Obligations.BillingBoundariesFire := by
  unfold Obligations.BillingBoundariesFire
  intro s hc hdue now d p
  have hregs (x : Fin 2) (n : Fin 54) {t : State} {W : List Zone} {L : List Part} (h : Changes W L s t)
      (hW : ∀ z ∈ W, z.stride = 1 ∧ (z.base + z.count ≤ 0x40300400 ∨ 0x40300C00 ≤ z.base)) : t.reg96 x.val n.val = s.reg96 x.val n.val :=
    State.reg96_congr h fun z hz a h1 h2 => Zone.not_has_regs (hW z hz) h1 h2
  refine ⟨fun hd hdp hlt => ?_, fun hp hpd hlt => ?_, fun hd hp hclose hk hlt => ?_⟩
  · have h := State.closeInterval_closed hc d d
    have h1 : Changes [F.BILL_LASTD_SEC.zone] [] (s.closeInterval d d) (s.fireDemand d) := (Changes.refl h.changes.canonical).put
    have h2 : Changes (F.BILL_LASTD_SEC.zone :: demandWindows) [.bill, .jrn] s (s.fireDemand d) := (h.changes.mono).next h1
    have hbill : (s.fireDemand d).bill = { s.bill with intA := freshInterval d, intB := freshInterval d } := h1.bill.trans h.bill
    refine ⟨s.fireDemand d, next_of_due ⟨hdue, hd, hdp⟩ _, State.get_put h.changes.canonical hlt,
      congrArg Journal.due (h1.jrn.trans h.jrn), congrArg Bill.intA hbill, congrArg Bill.intB hbill, fun x => ⟨?_, ?_, fun q => ?_⟩,
      fun x n => hregs x n h2 (by decide), h2.blockKept .pay, h2.blockKept .alm⟩
    · exact (h1.get _ (by revert x; decide)).trans ((h.stop x).trans (Nat.mod_eq_of_lt hlt))
    · exact (h1.get _ (by revert x; decide)).trans (h.begun x)
    · exact (h1.get _ (by revert x q; decide)).trans (h.demand x q)
  · have h := State.firePeriod_fired hc p 0
    refine ⟨s.firePeriod p 0 true, (next_of_due ⟨hdue, hp⟩ _).trans (congrArg _ (State.fireUpTo_period (n := 398) hc rfl hpd hlt)),
      h.last.trans (Nat.mod_eq_of_lt hlt), h.due, h.period, h.periods, h.prevEnd, h.snaps, h.maxima,
      fun x n => hregs x n h.changes (by decide), h.changes.blockKept .pay, h.changes.bill⟩
  · have h := State.tariffStep_switched hc hk
    have hb : s.boundaries now = s := by
      obtain ⟨hcatch, huntr⟩ := State.boundariesDue_noCatch hdue
      unfold State.boundaries
      rw [hcatch, huntr]
      simp only [Bool.false_eq_true, or_self, if_false]
      rw [State.fireUpTo_none hd hp]
      simp only [hclose, Bool.false_eq_true, if_false]
    exact ⟨s.tariffStep now, (next_of_due ⟨hdue, hk⟩ _).trans (congrArg (fun u => Host.Outcome.next (u.tariffStep now)) hb), h.tariff,
      h.since.trans (Nat.mod_eq_of_lt hlt), h.choice, h.switches, h.due, h.same, h.changes.regsBut⟩

end Sys2Proof.Machine
end

section
set_option Elab.async false
/-! PROOF. A power-fail warning, the emergency commit and what follows (Machine/Power.lean, Machine/Journal.lean; R71, R72, R100 to
R104). -/

namespace Sys2Proof.Machine

section
variable {s t u : State}

/-! ### What an operation leaves of the supply -/

/-- The supply as it was, but for what a legal event or a safety reset leaves for the start-up. -/
structure SupplyKept (s t : State) : Prop where
  pow : t.pow = { s.pow with startLegal := t.pow.startLegal, safetyReq := t.pow.safetyReq }
  pfwarn : t.pins.pfwarnLow = s.pins.pfwarnLow

theorem SupplyKept.refl : SupplyKept s s := ⟨rfl, rfl⟩

theorem SupplyKept.trans (h : SupplyKept s t) (k : SupplyKept t u) : SupplyKept s u := by
  refine ⟨?_, k.pfwarn.trans h.pfwarn⟩
  rw [k.pow, h.pow]

theorem SupplyKept.gateMet (h : SupplyKept s t) : t.pow.gateMet = s.pow.gateMet := by rw [h.pow]

theorem SupplyKept.ite {c : Prop} [Decidable c] (hs : SupplyKept u s) (ht : SupplyKept u t) : SupplyKept u (if c then s else t) := by
  split <;> assumption

/-- An operation that changes neither the supply nor the pins. -/
theorem Changes.supply {W : List Zone} {L : List Part} (h : Changes W L s t) (hp : Part.pow ∉ L := by decide)
    (hq : Part.pins ∉ L := by decide) : SupplyKept s t := ⟨by rw [h.pow hp], congrArg Pins.pfwarnLow (h.pins hq)⟩

theorem SupplyKept.next {W : List Zone} {L : List Part} (h : SupplyKept s t) (k : Changes W L t u) (hp : Part.pow ∉ L := by decide)
    (hq : Part.pins ∉ L := by decide) : SupplyKept s u := h.trans (k.supply hp hq)

/-- An operation repeated. -/
theorem SupplyKept.foldl {α : Type} {W : List Zone} {L : List Part} {f : State → α → State} {l : List α} (hc : s.canonical = true)
    (hf : ∀ t : State, ∀ x, t.canonical = true → Changes W L t (f t x) ∧ SupplyKept t (f t x)) : SupplyKept s (l.foldl f s) := by
  induction l generalizing s with
  | nil => exact .refl
  | cons x l ih =>
    obtain ⟨h1, h2⟩ := hf s x hc
    exact h2.trans (ih h1.canonical)

theorem State.legalAt_supply (hc : s.canonical = true) (sec code : Nat) (data : List Byte) : SupplyKept s (s.legalAt sec code data) := by
  have hq (e : LegalEntry) := (State.legalQueue_changes hc e).supply
  exact .ite (.ite (hq _) ⟨rfl, rfl⟩) (hq _)

theorem State.legal_supply (hc : s.canonical = true) (code : Nat) (data : List Byte) : SupplyKept s (s.legal code data) :=
  State.legalAt_supply hc _ _ _

theorem State.enterSafe_supply (hc : s.canonical = true) (code : Nat) : SupplyKept s (s.enterSafe code) := by
  unfold State.enterSafe
  split
  · have h : Changes safeZones safeParts s ((s.put F.SAFE_STAT_CAUSE code).clr F.SAFE_STAT_EXITCNT) := ((Changes.refl hc).put).clr
    exact SupplyKept.trans (t := (s.put F.SAFE_STAT_CAUSE code).clr F.SAFE_STAT_EXITCNT) ⟨rfl, rfl⟩ (State.noteAck_changes h.canonical code).supply
  · extract_lets -merge -underBinder s1 s2 s3 src s4
    have h1 := State.logTrouble_changes hc 0x80 code 0
    have h2 : Changes safeZones [] s1 (s2.bump F.SAFE_CNT_ENTRIES 1) :=
      (((Changes.refl h1.canonical).set1 (f := F.SAFE_STAT_SAFE)).put (f := F.SAFE_STAT_CAUSE)).clr.bump
    have h3 := State.legal_changes h2.canonical 0x35 [byte code]
    have hs : Changes [] [.safe] s3 { s3 with safe := { s3.safe with since := s3.rm.tick } } := (Changes.refl h3.canonical).setSafe
    have ha := State.noteAck_changes hs.canonical code
    have hz := State.zcRefuse_changes ha.canonical 7
    have h4 : SupplyKept s s4 :=
      ((((h1.supply.next h2).trans (State.legal_supply h2.canonical _ _)).next hs).next ha).next hz
    exact .ite (h4.next (State.demandClose_changes hz.canonical)) h4

theorem State.detect_supply (hc : s.canonical = true) (code source data : Nat) (r : Reaction) : SupplyKept s (s.detect code source data r) := by
  have hn (r : Reaction) := State.noteFault_changes hc code source data r
  have he (r : Reaction) : SupplyKept s ((s.noteFault code source data r).enterSafe code) :=
    (hn r).supply.trans (State.enterSafe_supply (hn r).canonical code)
  cases r with
  | atOnce => exact he .atOnce
  | second => exact .ite (he .second) (hn .second).supply
  | logOnly => exact (hn .logOnly).supply
  | exits => exact (hn .exits).supply

theorem State.eccMeet_supply (hc : s.canonical = true) (a n : Nat) : SupplyKept s (s.eccMeet a n) := by
  unfold State.eccMeet
  extract_lets -merge -underBinder met corr src src2 s1
  have h0 : Changes eccZones safeParts s src := (Changes.refl hc).bump
  have h1 : Changes eccZones safeParts s s1 := (h0.setEcc (x := s.ecc.filter fun w => !inWords a n w.1)).setSafe
  refine .ite .refl (SupplyKept.trans (t := s1) ⟨rfl, rfl⟩ (SupplyKept.foldl (W := eccZones) (L := safeParts) h1.canonical fun t w ht => ?_))
  have h2 : Changes eccZones [] t (t.set1 F.SYS_CRS_ECC_UNCORR) := (Changes.refl ht).set1
  have h3 := State.detect_changes h2.canonical 0x21 0xFF (0x21000000 + 4 * w.1) .atOnce
  exact ⟨((h2.mono (L := safeParts)).next h3).next (State.safetyReset_changes h3.canonical 0x21),
    (h2.supply.trans (State.detect_supply h2.canonical _ _ _ _)).trans ⟨rfl, rfl⟩⟩

theorem State.consume_supply (hc : s.canonical = true) (r : Nat) (slots : List Nat) : SupplyKept s (s.consume r slots) := by
  have h1 := State.moveAll_changes (W := consumeZones r) (L := [.tok]) (.refl hc) r slots tokReading (consumeZones_fill r)
  have h2 : SupplyKept (s.moveAll r slots tokReading) (slots.foldl (fun (t : State) i => t.eccMeet (slotAddr i) 128) (s.moveAll r slots tokReading)) :=
    SupplyKept.foldl (W := eccZones) (L := safeParts) h1.canonical fun t i ht => ⟨State.eccMeet_changes ht _ _, State.eccMeet_supply ht _ _⟩
  have hm := (State.eccMeets_changes h1.canonical slots 128).canonical
  exact (h1.supply.trans h2).next (State.moveAll_changes (W := consumeZones r) (L := [.tok]) (.refl hm) r slots tokFree (consumeZones_fill r))

theorem State.freeRecs_supply (hc : s.canonical = true) (recs : List Nat) : SupplyKept s (s.freeRecs recs) := by
  unfold State.freeRecs
  extract_lets t
  have h : SupplyKept s t := SupplyKept.foldl (W := freeZones) (L := safeParts) hc fun u i hu => by
    refine ⟨State.freeRec_changes hu i, ?_⟩
    have h1 := State.consume_changes hu 0 (capSlots i)
    have h2 := State.moveAll_changes (W := freeZones) (L := [.tok]) (.refl hu) 0 (capSlots i) tokFree
    exact .ite ((State.consume_supply hu 0 _).trans (State.consume_supply h1.canonical 10 _))
      (State.moveToken_changes h2 10 (descSlot i) tokFree).supply
  exact h.trans ⟨rfl, rfl⟩

theorem State.discardShot_supply (hc : s.canonical = true) : SupplyKept s s.discardShot := by
  unfold State.discardShot
  split
  · exact .refl
  · rename_i r _
    have h1 := State.freeRecs_supply hc r.recs
    refine h1.trans (SupplyKept.trans (t := if _ then _ else _) ?_ ⟨rfl, rfl⟩)
    exact .ite ⟨rfl, rfl⟩ ⟨rfl, rfl⟩

theorem State.windowClosed_supply (hc : s.canonical = true) : SupplyKept s s.windowClosed := by
  have hd (u : State) (hu : u.canonical = true) : u.dispWindow.pins = u.pins := (State.dispWindow_changes hu).pins
  have hpow : s.windowClosed.pow = s.pow := (State.windowClosed_spec hc).1.pow
  refine ⟨by rw [hpow], ?_⟩
  unfold State.windowClosed
  extract_lets -merge -underBinder src src2 src3 s1 s2
  have h1 : (s1.put F.AME_WIN_SHOTS (satNat 8 s.ame.index)).canonical = true := State.put_canonical (s := s1) hc
  have h2 : s2.pins.pfwarnLow = s.pins.pfwarnLow := by
    dsimp only [s2]
    split
    · exact (congrArg (·.pfwarnLow) (hd ((s1.put F.AME_WIN_SHOTS (satNat 8 s.ame.index)).put F.AME_WIN_LEN (satNat 16 s.ame.len))
        (State.put_canonical h1))).trans rfl
    · rfl
  split <;> exact h2

theorem State.stopShots_supply (hc : s.canonical = true) : SupplyKept s s.stopShots := by
  have h1 := State.discardShot_supply hc
  have hd := (State.discardShot_changes hc).canonical
  exact .ite ((h1.trans (State.windowClosed_supply hd)).next (State.endWindow_after hd)) h1

theorem State.dropHead_supply (hc : s.canonical = true) : SupplyKept s s.dropHead := by
  unfold State.dropHead
  split
  · exact .refl
  · rename_i f t _
    extract_lets src s1 s2
    have h1 : Changes [] [.link] s s1 := (Changes.refl hc).setLink
    have hd := State.consume_changes h1.canonical 3 (recordSlots 3 f.slot f.slots)
    have hq := State.showQueued_changes hd.canonical
    have hr := State.showRadio_changes hq.canonical false
    have h2 : SupplyKept s s2 := ((h1.supply.trans (State.consume_supply h1.canonical 3 _)).next hq).next hr
    exact .ite (h2.next (State.nextTelegram_changes hr.canonical)) h2

theorem State.planHead_supply (hc : s.canonical = true) : SupplyKept s s.planHead := by
  unfold State.planHead
  split
  · exact .refl
  · refine .ite .refl ?_
    split
    · exact ⟨rfl, rfl⟩
    · exact .refl
    · have h : Changes senderZones senderParts s (s.bump F.LINK_CNT1_FAILED 1) := (Changes.refl hc).bump
      exact SupplyKept.trans (t := s.bump F.LINK_CNT1_FAILED 1) ⟨rfl, rfl⟩ (State.dropHead_supply h.canonical)

theorem State.stopTx_supply (hc : s.canonical = true) : SupplyKept s s.stopTx := by
  unfold State.stopTx
  split
  · extract_lets -merge -underBinder cut bins cutRun runs src s1
    have h0 : Changes [] [.link] s { s with link := { s.link with tx := .idle, bins := bins, onAir := runs } } := (Changes.refl hc).setLink
    have h1 := State.showDuty_changes h0.canonical
    have h2 := State.showTx_changes h1.canonical false
    have h3 := State.planHead_changes h2.canonical
    have hs : SupplyKept s (s1.showTx false) := (h0.supply.next h1).trans ⟨rfl, rfl⟩
    exact (hs.trans (State.planHead_supply h2.canonical)).next (State.showRadio_changes h3.canonical false)
  · exact .refl

/-! ### The closures that an emergency commit carries -/

/-- What the closures show in. -/
def closureZones : List Zone := demandWindows ++ window (blockBase .bill) 0x8000 :: (wholeReg F.ALM_STAT).zone :: legalZones

/-- The parts that the closures change. -/
def closureParts : List Part := [.bill, .jrn, .pow]

theorem State.fireDemand_changes (hc : s.canonical = true) (b : Nat) : Changes closureZones [.bill, .jrn] s (s.fireDemand b) := by
  have h : Changes closureZones [.bill, .jrn] s (s.closeInterval b b) := (State.closeInterval_closed hc b b).changes.mono
  exact h.put

theorem State.firePeriod_changes (hc : s.canonical = true) (b flags : Nat) (keep : Bool) :
    Changes closureZones [.bill, .jrn] s (s.firePeriod b flags keep) := by
  unfold State.firePeriod State.closePeriod
  extract_lets src srcx2 s1 s2 s3 s4 srcx3 srcx4
  have h1 : Changes closureZones [.bill, .jrn] s s1 := (Changes.refl hc).setJrn
  have h2 : Changes closureZones [.bill, .jrn] s s2 := h1.put
  have h3 : Changes closureZones [.bill, .jrn] s s3 := .ite (h2.setJrn.setJrn) h2
  have hm : Changes closureZones [] s3 (s3.putAll maximaFields) := (State.putAll_changes h3.canonical maximaFields_sane).cover
  have h4 : Changes closureZones [.bill, .jrn] s s4 := h3.next (State.putAll_maxima ▸ hm)
  have h5 : Changes closureZones [.bill, .jrn] s { s4 with jrn := { s4.jrn with hid := { s4.jrn.hid with prevEnd := b } } } := h4.setJrn
  have h6 : Changes closureZones [.bill, .jrn] s ({ s4 with jrn := { s4.jrn with hid := { s4.jrn.hid with prevEnd := b } } } : State).commitDue :=
    h5.setJrn
  exact h6.put

theorem State.fireUpTo_changes (hc : s.canonical = true) (t flags n : Nat) : Changes closureZones [.bill, .jrn] s (s.fireUpTo t flags n) := by
  induction n generalizing s with
  | zero => exact .refl hc
  | succ n ih =>
    unfold State.fireUpTo
    extract_lets d p
    have h1 := State.fireDemand_changes hc d
    have h2 := State.firePeriod_changes hc p flags true
    exact .ite (h1.trans (ih h1.canonical)) (.ite (h2.trans (ih h2.canonical)) (.refl hc))

theorem State.splitInterval_changes (hc : s.canonical = true) (old frac new : Nat) :
    Changes closureZones [.bill, .jrn] s (s.splitInterval old frac new) := by
  unfold State.splitInterval
  extract_lets -merge -underBinder s1 s2 len s3
  have hm : Changes closureZones [.bill, .jrn] s _ := (State.mapIntervals_changes hc fun i => { i with short := true }).mono
  have h1 : Changes closureZones [.bill, .jrn] s s1 := hm.trans (State.closeInterval_closed hm.canonical old new).changes.mono
  have h2 : Changes closureZones [.bill, .jrn] s s2 := h1.next (State.mapIntervals_changes h1.canonical _)
  have h3 : Changes closureZones [.bill, .jrn] s s3 := h2.foldl fun u x _ hu => hu.trans (State.firePeriod_changes hu.canonical _ _ _)
  have h4 : Changes closureZones [.bill, .jrn] s (s3.mapIntervals fun i => { i with skipped := new / len - s.firstDemand old frac }) :=
    h3.next (State.mapIntervals_changes h3.canonical _)
  exact .ite h4.put h2

theorem State.handleStep_changes (hc : s.canonical = true) : Changes closureZones closureParts s s.handleStep ∧ SupplyKept s s.handleStep := by
  unfold State.handleStep
  split
  · exact ⟨.refl hc, .refl⟩
  · rename_i r rest _
    extract_lets -merge -underBinder l total new src s0 s1 srcx2 s1x2 s2
    have h0 : Changes [] [.bill] s s0 := (Changes.refl hc).setBill
    have h1 := State.legalAt_changes h0.canonical new 0x21 (bytesLE 4 r.old)
    have hd : Changes [] [.jrn] (s0.legalAt new 0x21 (bytesLE 4 r.old)) (s0.legalAt new 0x21 (bytesLE 4 r.old)).commitDue :=
      (Changes.refl h1.canonical).setJrn
    have hm := State.mapIntervals_changes hd.canonical fun i => { i with untr := true }
    have hb : Changes [] [.bill] s1 { s1 with bill := { s1.bill with catchUntr := true } } := (Changes.refl hm.canonical).setBill
    have hf := State.fireUpTo_changes h0.canonical r.old 0 400
    have hsync : Changes closureZones [] s1x2 (s1x2.bump F.BILL_ADJCNT_SYNCS 1) := (Changes.refl hf.canonical).bump
    have hl := State.legalAt_changes hf.canonical new 0x20 (bytesLE 4 r.old ++ bytesLE 2 r.oldFrac)
    have hs : Changes closureZones [] (s1x2.legalAt new 0x20 (bytesLE 4 r.old ++ bytesLE 2 r.oldFrac)) (s2.bump F.BILL_ADJCNT_STEPS 1) :=
      ((Changes.refl hl.canonical).set1).bump
    have hj : Changes [] [.jrn] (s2.bump F.BILL_ADJCNT_STEPS 1) (s2.bump F.BILL_ADJCNT_STEPS 1).commitDue := (Changes.refl hs.canonical).setJrn
    have hsplit := State.splitInterval_changes hj.canonical r.old r.oldFrac new
    refine ⟨.ite ?_ (.ite ?_ ?_), .ite ?_ (.ite ?_ ?_)⟩
    · exact ((((h0.mono).next h1).next hd).next hm).next hb
    · exact (((h0.mono).next hf).next hsync)
    · exact ((((h0.mono).next hf).next hl).next hs).next hj |>.next hsplit
    · exact (((h0.supply.trans (State.legalAt_supply h0.canonical _ _ _)).next hd).next hm).next hb
    · exact (h0.supply.next hf).next hsync
    · exact ((((h0.supply.next hf).trans (State.legalAt_supply hf.canonical _ _ _)).next hs).next hj).next hsplit

/-- A closure that is due before the tariff is judged. -/
theorem State.tariffStep_changes (hc : s.canonical = true) (now : Nat) : Changes closureZones [.jrn] s (s.tariffStep now) := by
  have h1 : Changes closureZones [.jrn] s (s.wr F.ALM_STAT (word (s.almanac now).2)) := (Changes.refl hc).wr
  unfold State.tariffStep
  exact .ite h1 (((h1.put).put).bump).setJrn

theorem State.emergencyClosures_changes (hc : s.canonical = true) :
    Changes closureZones (.rtc :: closureParts) s s.emergencyClosures ∧ SupplyKept s s.emergencyClosures := by
  unfold State.emergencyClosures
  extract_lets -merge -underBinder src src2 s0 s1
  have h0 : Changes [] [.bill, .rtc] s s0 := by
    have h : Changes [] [.bill, .rtc] s { s with bill := { s.bill with steps := s.bill.steps ++ s.rtc.steps } } := (Changes.refl hc).setBill
    exact h.setRtc
  obtain ⟨h1, k1⟩ := State.handleStep_changes h0.canonical
  have h2 := State.fireUpTo_changes h1.canonical s1.sec 0 400
  have h3 := State.tariffStep_changes h2.canonical s1.sec
  have hs : Changes closureZones (.rtc :: closureParts) s s1 := (h0.mono).next h1
  have ks : SupplyKept s s1 := h0.supply.trans k1
  exact ⟨.ite (.refl hc) (.ite hs ((hs.next h2).next h3)), .ite .refl (.ite ks ((ks.next h2).next h3))⟩

/-! ### The tick that a warning abandons -/

theorem State.lostTick_changes (hc : s.canonical = true) (x : Nat) : Changes [] [.shot] s (s.lostTick x) := by
  unfold State.lostTick
  extract_lets lim s1
  have h1 : Changes [] [.shot] s s1 := .ite (.refl hc) ((Changes.refl hc).foldl fun u n _ hu => .ite hu.setShot hu)
  exact .ite (h1.trans (State.markRecov_changes h1.canonical x)) h1

/-- The transmitter, the shots and a drive stopped. -/
def State.halted (s : State) : State := s.stopTx.stopShots.stopDrive

/-- What halting shows in. -/
def haltZones : List Zone := F.PAY_ACT_STATE.zone :: stopZones ++ senderZones

/-- The parts that halting changes. -/
def haltParts : List Part := stopParts ++ senderParts

structure Halted (s t : State) : Prop where
  changes : Changes haltZones haltParts s t
  supply : SupplyKept s t
  drive : t.act.drive = none

theorem State.halted_halted (hc : s.canonical = true) : Halted s s.halted := by
  have h1 := State.stopTx_changes hc
  have h2 := State.stopShots_changes h1.canonical
  have h3 := State.stopDrive_changes h2.canonical
  refine ⟨((h1.mono).next h2).next h3, ((State.stopTx_supply hc).trans (State.stopShots_supply h1.canonical)).next h3, ?_⟩
  unfold State.halted
  generalize s.stopTx.stopShots = u at h2
  unfold State.stopDrive
  split
  · have h0 : Changes [] [.act] u { u with act := { u.act with drive := none } } := (Changes.refl h2.canonical).setAct
    have he : u.endDrive.act.drive = none := congrArg Act.drive (State.settlePower_changes h0.canonical).act
    unfold State.setAct
    split <;> exact he
  · rename_i hd
    simpa using hd

/-- The tick's work given up: no shot, conversion or reception goes on, and nothing transmits. -/
def State.tickGone (s : State) : State :=
  { s with ame := { s.ame with windowOn := false, plan := [], run := none, done := [], discarded := [], hidden := [], boost := false }
           sens := { s.sens with running := none }
           pins := { s.pins with window := false, paCtl := false, txOn := false }
           link := { s.link with rx := .sleep, ack := none }
           rm := { s.rm with phaseDone := true } }

/-- The shots of a tick that is lost in a phase before its Compute. -/
def State.shotsLost (s : State) (phase : Nat) : State := if phase ≤ 1 then (s.lostTick 0).lostTick 1 else s

theorem State.abandonTick_eq : s.abandonTick =
    ((((s.halted.shotsLost (s.get F.FT_PHASE_PHASE)).tickGone.put F.FT_PHASE_PHASE 5).abandonRun).lcdOff).zcRefuse 8 := rfl

/-- A tick that a warning has ended. -/
structure TickAbandoned (s t : State) : Prop where
  canonical : t.canonical = true
  supply : SupplyKept s t
  pins : t.pins.window = false ∧ t.pins.paCtl = false ∧ t.pins.txOn = false
  run : t.ame.run = none
  boost : t.ame.boost = false
  drive : t.act.drive = none
  phase : t.get F.FT_PHASE_PHASE = 5
  pfstat : t.rd F.PWR_PFSTAT = s.rd F.PWR_PFSTAT

theorem State.abandonTick_abandoned (hc : s.canonical = true) : TickAbandoned s s.abandonTick := by
  rw [State.abandonTick_eq]
  have h1 := State.halted_halted hc
  generalize s.halted = u at h1
  have h2 : Changes [] [.shot] u (u.shotsLost (s.get F.FT_PHASE_PHASE)) := by
    have h0 := State.lostTick_changes h1.changes.canonical 0
    exact .ite (h0.trans (State.lostTick_changes h0.canonical 1)) (.refl h1.changes.canonical)
  generalize u.shotsLost (s.get F.FT_PHASE_PHASE) = v at h2
  have h3 : Changes [] [.ame, .sens, .pins, .link, .rm] v v.tickGone :=
    Changes.of_keeps h2.canonical (Keeps.mk (Keeps.refl v) rfl rfl) rfl fun p hp => by
      cases p <;> first | exact rfl | exact absurd (by decide) hp
  have hpins : v.tickGone.pins.window = false ∧ v.tickGone.pins.paCtl = false ∧ v.tickGone.pins.txOn = false := ⟨rfl, rfl, rfl⟩
  have hame : v.tickGone.ame.run = none ∧ v.tickGone.ame.boost = false := ⟨rfl, rfl⟩
  have k3 : SupplyKept v v.tickGone := ⟨rfl, rfl⟩
  generalize v.tickGone = w at h3 hpins hame k3
  have h4 : Changes [F.FT_PHASE_PHASE.zone] [] w (w.put F.FT_PHASE_PHASE 5) := (Changes.refl h3.canonical).put
  have hphase : (w.put F.FT_PHASE_PHASE 5).get F.FT_PHASE_PHASE = 5 := State.get_put h3.canonical (by decide)
  generalize w.put F.FT_PHASE_PHASE 5 = x at h4 hphase
  obtain ⟨n, h5⟩ := State.abandonRun_changes h4.canonical
  have hlow {a : Nat} (ha : a < 0x40500000) (hr : recordZone.has a = false) : x.abandonRun.rd a = x.rd a := State.abandonRun_rd h4.canonical ha hr
  have hphase5 : x.abandonRun.get F.FT_PHASE_PHASE = 5 := by
    rw [State.get, hlow (by decide) (by decide)]
    exact hphase
  have hpf5 : x.abandonRun.rd F.PWR_PFSTAT = x.rd F.PWR_PFSTAT := hlow (by decide) (by decide)
  generalize x.abandonRun = y at h5 hphase5 hpf5
  have h6 : Changes [] [.disp] y y.lcdOff := (Changes.refl h5.canonical).setDisp
  have h7 := State.zcRefuse_changes h6.canonical 8
  have hx7 : (y.lcdOff.zcRefuse 8).pins = w.pins := h7.pins.trans (h6.pins.trans (h5.pins.trans h4.pins))
  have ha7 : (y.lcdOff.zcRefuse 8).ame = w.ame := h7.ame.trans (h6.ame.trans (h5.ame.trans h4.ame))
  have hd7 : (y.lcdOff.zcRefuse 8).act = u.act :=
    h7.act.trans (h6.act.trans (h5.act.trans (h4.act.trans (h3.act.trans h2.act))))
  exact {
    canonical := h7.canonical
    supply := ((((((h1.supply.next h2).trans k3).next h4).next h5).next h6).next h7)
    pins := hx7 ▸ hpins
    run := ha7 ▸ hame.1
    boost := ha7 ▸ hame.2
    drive := hd7 ▸ h1.drive
    phase := (h7.get _).trans ((h6.get _).trans hphase5)
    pfstat := (h7.rd _).trans ((h6.rd _).trans (hpf5.trans ((h4.rd _).trans ((h3.rd _).trans ((h2.rd _).trans (h1.changes.rd _)))))) }

/-! ### The warning -/

/-- The emergency commit as it opens, after the closures. -/
def State.emergencyOpen (s : State) : State :=
  { s with
    jrn := { s.jrn with
      openC := some (s.load, s.commitImage, (match s.jrn.openC with | some (_, _, l) => l | none => []) ++ s.jrn.lq)
      lq := []
      due := false
      emOpen := true }
    pow := { s.pow with
      stage := .emergency
      emRows := s.load
      emEnd := some (s.uptime + (32768 * (1000 + 1500 * s.load) + 999999) / 1000000) } }

theorem State.emergencyBegin_eq : s.emergencyBegin true = (s.emergencyClosures.emergencyOpen.put F.BILL_JRNL_PEND 0).set1 F.BILL_JRNL_OPEN := by
  unfold State.emergencyBegin
  rw [if_pos rfl]
  rfl

/-- A warning that has begun the emergency commit. -/
structure EmergencyBegun (s t : State) : Prop where
  changes : Changes closureZones (.rtc :: closureParts) s t
  pow : t.pow = { s.pow with startLegal := t.pow.startLegal, safetyReq := t.pow.safetyReq, stage := .emergency, emRows := t.pow.emRows
                             emEnd := some (t.uptime + (32768 * (1000 + 1500 * t.pow.emRows) + 999999) / 1000000) }
  queue : t.jrn.lq = []
  begun : t.jrn.emOpen = true
  pend : t.get F.BILL_JRNL_PEND = 0

theorem State.emergencyBegin_begun (hc : s.canonical = true) : EmergencyBegun s (s.emergencyBegin true) := by
  rw [State.emergencyBegin_eq]
  obtain ⟨h1, k1⟩ := State.emergencyClosures_changes hc
  generalize s.emergencyClosures = u at h1 k1
  have h2 : Changes [] [.jrn, .pow] u u.emergencyOpen := by
    have h : Changes [] [.jrn, .pow] u { u with jrn := u.emergencyOpen.jrn } := (Changes.refl h1.canonical).setJrn
    exact h.setPow
  have hpow : u.emergencyOpen.pow = { s.pow with
      startLegal := u.pow.startLegal, safetyReq := u.pow.safetyReq, stage := .emergency, emRows := u.load
      emEnd := some (u.uptime + (32768 * (1000 + 1500 * u.load) + 999999) / 1000000) } := by
    rw [State.emergencyOpen, k1.pow]
  have hjrn : u.emergencyOpen.jrn.lq = [] ∧ u.emergencyOpen.jrn.emOpen = true := ⟨rfl, rfl⟩
  have hrows : u.emergencyOpen.pow.emRows = u.load ∧ u.emergencyOpen.uptime = u.uptime := ⟨rfl, rfl⟩
  generalize u.emergencyOpen = v at h2 hpow hjrn hrows
  have h3 : Changes [F.BILL_JRNL_PEND.zone] [] v (v.put F.BILL_JRNL_PEND 0) := (Changes.refl h2.canonical).put
  have hpend : (v.put F.BILL_JRNL_PEND 0).get F.BILL_JRNL_PEND = 0 := State.get_put h2.canonical (by decide)
  generalize v.put F.BILL_JRNL_PEND 0 = w at h3 hpend
  have h4 : Changes [F.BILL_JRNL_OPEN.zone] [] w (w.set1 F.BILL_JRNL_OPEN) := (Changes.refl h3.canonical).set1
  have h34 : Changes closureZones [] v (w.set1 F.BILL_JRNL_OPEN) := (h3.cover).trans h4.cover
  have hx : (w.set1 F.BILL_JRNL_OPEN).pow = v.pow := h34.pow
  exact {
    changes := (h1.next h2).next h34
    pow := by
      rw [hx, h34.uptime, hrows.2, hpow]
    queue := h34.jrn ▸ hjrn.1
    begun := h34.jrn ▸ hjrn.2
    pend := (h4.get _).trans hpend }

/-- The gate after a warning: one of VBAT means that it is not met. -/
def State.gated (s : State) (ext : Bool) : State := { s with pow := { s.pow with gateMet := s.pow.gateMet && ext } }

/-- The part after a warning while ticks run: it is in the emergency commit, and the watchdog is suspended. -/
def State.warned (s : State) (ext : Bool) (mv : Nat) : State :=
  let s1 := ((s.countWarning ext mv).abandonTick.emergencyBegin true).enterPower pwrRun
  { s1 with pow := { s1.pow with wdtAt := none, wdtFrom := none } }

theorem execPowerFailWarning_warns {external : Option Nat} {dt mv : Nat} (he : ∀ n, external = some n → 2 ≤ n)
    (hstage : (s.advance dt).pow.stage ∈ [Stage.running, .awaitTick]) (hp : (s.advance dt).pow = s.pow) :
    exec (.powerFailWarning dt external mv) s = .next (((s.advance dt).gated external.isSome).warned external.isSome mv) := by
  have hs : s.pow.stage = .running ∨ s.pow.stage = .awaitTick := by simpa [hp] using hstage
  have hwarn : ((s.advance dt).gated external.isSome).warn external.isSome mv
      = ((s.advance dt).gated external.isSome).warned external.isSome mv := by
    have hg : ((s.advance dt).gated external.isSome).pow.stage = s.pow.stage := (congrArg Power.stage hp :)
    unfold State.warn
    rw [hg]
    rcases hs with h | h <;> rw [h] <;> rfl
  have hnot : ¬(s.pow.stage = .startUp) := by rcases hs with h | h <;> rw [h] <;> nofun
  change execPowerFailWarning dt external mv s = _
  unfold execPowerFailWarning
  extract_lets ext gate
  split
  · exact absurd (he 0 rfl) (by decide)
  · exact absurd (he 1 rfl) (by decide)
  · rw [if_neg hnot]
    exact congrArg Host.Outcome.next hwarn

/-- A warning as it is counted. -/
structure WarningCounted (s t : State) (ext : Bool) : Prop where
  changes : Changes ([F.PWR_PFSTAT_COUNT.zone, F.PWR_PFSTAT_EXT.zone] ++ logZones) (.pins :: logParts) s t
  count : t.get F.PWR_PFSTAT_COUNT = min (s.get F.PWR_PFSTAT_COUNT + 1) 65535
  external : t.flag F.PWR_PFSTAT_EXT = ext
  pfwarn : t.pins.pfwarnLow = true

theorem State.countWarning_counted (hc : s.canonical = true) (ext : Bool) (mv : Nat) : WarningCounted s (s.countWarning ext mv) ext := by
  have h1 : Changes [F.PWR_PFSTAT_COUNT.zone] [] s (s.bump F.PWR_PFSTAT_COUNT 1) := (Changes.refl hc).bump
  have g1 := State.bump_get (f := F.PWR_PFSTAT_COUNT) hc 1
  unfold State.countWarning State.noteWarning
  extract_lets s1
  have h2 : Changes [F.PWR_PFSTAT_EXT.zone] [] (s.bump F.PWR_PFSTAT_COUNT 1) s1 := (Changes.refl h1.canonical).putB
  have g2 : s1.flag F.PWR_PFSTAT_EXT = ext := State.putB_flag h1.canonical ext
  have h3 : Changes [] [.pins] s1 { s1 with pins := { s1.pins with pfwarnLow := true } } := (Changes.refl h2.canonical).setPins
  have h4 := State.logTrouble_changes h3.canonical 0x78 (b2n ext) mv
  exact {
    changes := (((h1.mono).next h2).next h3).next h4
    count := (h4.get _).trans ((h3.get _).trans ((h2.get _).trans g1))
    external := (h4.flag _).trans ((h3.flag _).trans g2)
    pfwarn := congrArg Pins.pfwarnLow h4.pins }

/-- What a warning while ticks run leaves. -/
theorem State.warned_spec (hc : s.canonical = true) (ext : Bool) (mv : Nat) :
    let t := s.warned ext mv
    t.pow.stage = .emergency ∧ t.pins.pfwarnLow = true ∧ t.pins.window = false ∧ t.pins.paCtl = false ∧ t.pins.txOn = false
    ∧ t.ame.run = none ∧ t.pow.wdtAt = none ∧ t.jrn.lq = [] ∧ t.jrn.emOpen = true ∧ t.get F.BILL_JRNL_PEND = 0
    ∧ t.pow.gateMet = s.pow.gateMet ∧ t.act.drive = none ∧ t.ame.boost = false ∧ t.get F.FT_PHASE_PHASE = 5
    ∧ t.get F.PWR_PFSTAT_COUNT = min (s.get F.PWR_PFSTAT_COUNT + 1) 65535 ∧ t.flag F.PWR_PFSTAT_EXT = ext
    ∧ t.pow.emEnd = some (t.uptime + (32768 * (1000 + 1500 * t.pow.emRows) + 999999) / 1000000) := by
  have h1 := State.countWarning_counted hc ext mv
  unfold State.warned
  generalize s.countWarning ext mv = u at h1
  have h2 := State.abandonTick_abandoned h1.changes.canonical
  generalize u.abandonTick = v at h2
  have h3 := State.emergencyBegin_begun h2.canonical
  generalize v.emergencyBegin true = w at h3
  have h4 := State.enterPower_changes h3.changes.canonical pwrRun
  generalize w.enterPower pwrRun = x at h4
  intro t
  have h5 : Changes [] [.pow] x t := (Changes.refl h4.canonical).setPow
  have h35 : Changes (F.PWR_STATE_STATE.zone :: closureZones) (.rtc :: closureParts) v t := ((h3.changes.mono).next h4).next h5
  have hpow : t.pow = { w.pow with wdtAt := none, wdtFrom := none } := congrArg (fun p : Power => { p with wdtAt := none, wdtFrom := none }) h4.pow
  have hpins : t.pins = v.pins := h35.pins
  obtain ⟨hwin, hpa, htx⟩ := h2.pins
  have hget (f : Fld) (ha : f.addr = F.PWR_PFSTAT) (hv : ∀ z ∈ F.PWR_STATE_STATE.zone :: closureZones, z.apart f = true) : t.get f = u.get f := by
    rw [h35.get f hv, State.get, State.get, ha, h2.pfstat]
  refine ⟨?_, ?_, hpins ▸ hwin, hpins ▸ hpa, hpins ▸ htx, h35.ame ▸ h2.run, by rw [hpow], ?_, ?_, ?_, ?_, h35.act ▸ h2.drive,
    h35.ame ▸ h2.boost, (h35.get _).trans h2.phase, (hget _ rfl (by decide)).trans h1.count, ?_, ?_⟩
  · rw [hpow, h3.pow]
  · rw [hpins, h2.supply.pfwarn, h1.pfwarn]
  · rw [h5.jrn, h4.jrn, h3.queue]
  · rw [h5.jrn, h4.jrn, h3.begun]
  · exact (h5.get _).trans ((h4.get _).trans h3.pend)
  · rw [hpow, h3.pow]
    exact h2.supply.gateMet.trans (congrArg Power.gateMet h1.changes.pow)
  · rw [State.flag, hget _ rfl (by decide)]
    exact h1.external
  · rw [hpow, h5.uptime, h4.uptime]
    exact (congrArg Power.emEnd h3.pow)

/-! ### The end of the commit -/

/-- What closing a commit shows in. -/
def closeZones : List Zone := F.BILL_JRNL_HEAD.zone :: F.BILL_JRNL_OPEN.zone :: loggedZones ++ legalZones

theorem State.commitClose_changes (hc : s.canonical = true) (i : JImage) (l : List LegalEntry) :
    Changes closeZones [.jrn, .nvm] s (s.commitClose i l) := by
  rw [State.commitClose_eq]
  have h1 : Changes closeZones [.jrn, .nvm] s (s.writeLegal (s.get F.LOG_LSEQ_SEQ) l) := (State.writeLegal_changes hc _ l).mono
  have h2 : Changes closeZones [.jrn, .nvm] s (s.logged l) := (h1.put).put
  generalize s.logged l = u at h2
  have h3 : Changes closeZones [.jrn, .nvm] s { u with jrn := u.closedJournal i } := h2.setJrn
  generalize ({ u with jrn := u.closedJournal i } : State) = v at h3
  have h4 : Changes closeZones [.jrn, .nvm] s (v.clr F.BILL_JRNL_OPEN) := h3.clr
  exact h4.next (State.legalShow_changes h4.canonical)

theorem State.commitRows_changes (hc : s.canonical = true) (n : Nat) :
    Changes closeZones [.jrn, .nvm] s (s.commitRows n).2 := by
  unfold State.commitRows
  split
  · exact .refl hc
  · rename_i k i l _
    extract_lets m h src src2 s1
    have h1 : Changes closeZones [.jrn, .nvm] s s1 := by
      have hp : Changes closeZones [.jrn, .nvm] s (s.put F.BILL_JRNL_HEAD h) :=
        (Changes.refl hc).put
      exact hp.setJrn
    split
    · exact h1.trans (State.commitClose_changes h1.canonical i l)
    · exact h1.setJrn

/-- What the end of an emergency commit shows in. -/
def emergencyZones : List Zone := F.PWR_PFSTAT_LAST_ROWS.zone :: F.PWR_STATE_STATE.zone :: closeZones

/-- The commit has closed, and the wait for supply is spent in SLEEP. -/
def State.emergencyClosed (s : State) : State := s.emergencyEnd.enterPower pwrSleep

theorem State.emergencyClosed_changes (hc : s.canonical = true) : Changes emergencyZones [.jrn, .nvm] s s.emergencyClosed := by
  have h1 : Changes emergencyZones [.jrn, .nvm] s s.emergencyEnd := by
    unfold State.emergencyEnd
    split
    · exact .refl hc
    · rename_i k _ _ _
      have h : Changes emergencyZones [.jrn, .nvm] s (s.commitRows k).2 := (State.commitRows_changes hc k).mono
      exact h.put
  exact h1.next (State.enterPower_changes h1.canonical pwrSleep)

/-- The wait for supply after an emergency commit; PFWARN is held low as long as `low` says. -/
def State.waitSupply (s : State) (low : Bool) : State :=
  { s with pow := { s.pow with
             stage := .pfWait
             emEnd := some s.uptime
             extLow := none }
           pins := { s.pins with pfwarnLow := low } }

theorem execEmergencyCommitEnd_waits {dt mv t0 : Nat} (hstage : s.pow.stage = .emergency) (hend : s.pow.emEnd = some t0)
    (hext : (s.passTo dt t0).emergencyClosed.pow.extLow = none) : exec (.emergencyCommitEnd dt mv) s =
      .next ((s.passTo dt t0).emergencyClosed.waitSupply (decide (mv < (s.passTo dt t0).emergencyClosed.warnMv))) := by
  change execEmergencyCommitEnd dt mv s = _
  unfold execEmergencyCommitEnd
  rw [hstage, hend]
  change Host.Outcome.next (match (s.passTo dt t0).emergencyClosed.pow.extLow with | some r => _ | none => _) = _
  rw [hext]
  rfl

/-! ### Ticks resume -/

/-- Supply is back: ticks resume at the next boundary. -/
def State.resumed (s : State) : State :=
  { s with pins := { s.pins with pfwarnLow := false }
           pow := { s.pow with
             gateMet := true
             stage := .resuming
             wdtAt := some (s.uptime + 1536 * s.get F.FT_PERIOD_N) }
           rm := { s.rm with nextAt := s.nextGrid } }

theorem execTicksResume_resumes {dt : Nat} (hstage : (s.advance dt).pow.stage = .pfWait)
    (hstart : ((s.advance dt).pow.inStart && !(s.advance dt).pow.recovered) = false) :
    exec (.ticksResume dt) s = .next (s.advance dt).resumed := by
  change execTicksResume dt s = _
  unfold execTicksResume
  generalize s.advance dt = u at hstage hstart
  rw [if_pos hstage]
  have hnot : ¬(u.pow.inStart ∧ !u.pow.recovered) := by
    rw [← Bool.and_eq_true, hstart]
    exact Bool.false_ne_true
  exact if_neg hnot

end

/-- Settles O6: the warning stops what runs and opens the commit; its end begins the wait, and supply back resumes the ticks. -/
theorem powerFailWarningToResumedTicks : Obligations.PowerFailWarningToResumedTicks := by
  unfold Obligations.PowerFailWarningToResumedTicks
  intro dt mv t0 external s hc s1
  have ha : Changes timeZones timeParts s s1 := State.advance_changes hc dt
  refine ⟨fun hstage he => ?_, fun n hn hlt => ?_, fun hstage hend hext => ?_, fun hstage hstart => ?_⟩
  · have hg : Changes [] [.pow] s1 (s1.gated external.isSome) := (Changes.refl ha.canonical).setPow
    obtain ⟨h1, h2, h3, h4, h5, h6, h7, h8, h9, h10, hmet, h12, h13, h14, hcount, h16, h17⟩ :=
      State.warned_spec hg.canonical external.isSome mv
    refine ⟨_, execPowerFailWarning_warns he hstage ha.pow, h1, h2, h3, h4, h5, h6, h7, h8, h9, h10, fun hnone => ?_, h12, h13, h14,
      hcount.trans (by rw [hg.get F.PWR_PFSTAT_COUNT]), h16, h17⟩
    rw [hmet, hnone]
    exact Bool.and_false _
  · subst hn
    match n, hlt with
    | 0, _ => exact ⟨s1, rfl, rfl⟩
    | 1, _ => exact ⟨s1, rfl, rfl⟩
  · have hp : Changes timeZones timeParts s (s.passTo dt t0) := State.advance_changes hc _
    have h1 := State.emergencyClosed_changes hp.canonical
    have hx : (s.passTo dt t0).emergencyClosed.pow.extLow = none := by rw [h1.pow, hp.pow, hext]
    refine ⟨_, execEmergencyCommitEnd_waits hstage hend hx, rfl, rfl, ?_⟩
    exact decide_eq_true_iff
  · exact ⟨s1.resumed, execTicksResume_resumes hstage hstart, rfl, rfl, rfl, rfl, rfl, rfl⟩

end Sys2Proof.Machine
end

section
set_option Elab.async false
/-! PROOF. Captures and correlations (Machine/Acoustic.lean; R53, R54, R173 to R177, R191, R193, R194). -/

namespace Sys2Proof.Machine

section
variable {s t : State}

/-! ### The samples of a capture record -/

theorem sample14_range (x : Int) : -32768 ≤ sample14 x ∧ sample14 x < 32768 := by
  unfold sample14 clampInt
  split
  · omega
  · split <;> omega

theorem chainSamples_length (n : Nat) (l : List Int) : (chainSamples n l).length = n := by
  unfold chainSamples
  extract_lets m
  have hm : m.length ≤ n := by
    simp only [m, List.length_map, List.length_take]
    omega
  simp only [List.length_append, List.length_replicate]
  omega

theorem chainSamples_range {n : Nat} {l : List Int} {x : Int} (h : x ∈ chainSamples n l) : -32768 ≤ x ∧ x < 32768 := by
  unfold chainSamples at h
  rcases List.mem_append.mp h with h | h
  · obtain ⟨y, -, rfl⟩ := List.mem_map.mp h
    exact sample14_range y
  · obtain ⟨-, rfl⟩ := List.mem_replicate.mp h
    decide

/-- The bytes of samples. -/
def sampleBytes (l : List Int) : List Byte := l.flatMap fun x => bytesLE 2 (ofSigned 16 x)

theorem sampleBytes_length (l : List Int) : (sampleBytes l).length = 2 * l.length := by
  induction l with
  | nil => rfl
  | cons x l ih =>
    rw [sampleBytes, List.flatMap_cons, List.length_append, bytesLE_length, List.length_cons]
    change 2 + (sampleBytes l).length = _
    omega

theorem captureBytes_length {l : List Int} (h : l.length ≤ 1024) : (captureBytes l).length = 128 * 16 := by
  change (sampleBytes l ++ zeros (2 * (1024 - l.length))).length = _
  rw [List.length_append, sampleBytes_length, zeros, List.length_replicate]
  omega

theorem byte_toNat {n : Nat} (h : n < 256) : (byte n).toNat = n := by
  rw [byte, BitVec.toNat_ofNat]
  omega

/-- Samples are read as they were written. -/
theorem samplePairs_sampleBytes {l : List Int} (h : ∀ x ∈ l, -32768 ≤ x ∧ x < 32768) : samplePairs (sampleBytes l) = l := by
  induction l with
  | nil => rfl
  | cons x l ih =>
    obtain ⟨hl, hh⟩ := h x List.mem_cons_self
    have hlt := ofSigned_sixteen_lt x
    have hx : (byte (ofSigned 16 x % 256)).toNat + 256 * (byte (ofSigned 16 x / 256 % 256)).toNat = ofSigned 16 x := by
      rw [byte_toNat (Nat.mod_lt _ (by decide)), byte_toNat (Nat.mod_lt _ (by decide))]
      omega
    change toSigned 16 ((byte (ofSigned 16 x % 256)).toNat + 256 * (byte (ofSigned 16 x / 256 % 256)).toNat) :: samplePairs (sampleBytes l) = _
    rw [hx, toSigned_ofSigned_sixteen hl hh, ih fun y hy => h y (List.mem_cons_of_mem _ hy)]

theorem sgetAll_take {α : Type} {d : Nat → α} {l : List (Nat × α)} {a m n : Nat} (h : m ≤ n) : sgetAll d l a m = (sgetAll d l a n).take m := by
  obtain ⟨k, rfl⟩ := Nat.exists_eq_add_of_le h
  rw [sgetAll_add, List.take_left' sgetAll_length]

/-- The samples of a record that holds them. -/
theorem State.captureSamples_of_bytes {i n : Nat} {l : List Int} (hn : n ≤ 1024)
    (h : s.crsBytes (slotAddr (16 * i)) (128 * 16) = captureBytes (chainSamples n l)) : s.captureSamples i n = chainSamples n l := by
  have hlen := chainSamples_length n l
  have hb : s.crsBytes (slotAddr (16 * i)) (2 * n) = sampleBytes (chainSamples n l) := by
    rw [State.crsBytes, sgetAll_take (n := 128 * 16) (by omega)]
    change (s.crsBytes (slotAddr (16 * i)) (128 * 16)).take (2 * n) = _
    rw [h]
    exact List.take_left' ((sampleBytes_length _).trans (congrArg (2 * ·) hlen))
  rw [State.captureSamples, hb]
  exact samplePairs_sampleBytes fun x hx => chainSamples_range hx

/-! ### Publishing a capture -/

/-- What publishing a capture shows in. -/
def captureZonesOf : List Zone := [(F.SYS_RING_B_FILL 0).zone, (F.SYS_RING_B_FILL 10).zone, F.SYS_CRS_ERR_COUNT.zone]

/-- A capture record published: its slots, its bytes, and nothing of the other records. -/
structure CapturePublished (s t : State) (i : Nat) (bs : List Byte) : Prop where
  changes : Changes captureZonesOf [.crs, .tok, .ecc, .ringSeq, .ame] s t
  run : t.ame = { s.ame with desc := t.ame.desc }
  token : ∀ k ∈ capSlots i, t.token k = tokPublished
  others : ∀ k, k < 128 → k ∉ capSlots i → t.token k = s.token k
  bytes : t.crsBytes (slotAddr (16 * i)) (128 * 16) = bs
  outside : ∀ a, a < slotAddr 128 → a < slotAddr (16 * i) ∨ slotAddr (16 * i) + 128 * 16 ≤ a → t.crsByte a = s.crsByte a

theorem mem_capSlots {i k : Nat} : k ∈ capSlots i ↔ 16 * i ≤ k ∧ k < 16 * i + 16 := mem_slotsFrom

/-- A write of one slot reaches its bytes alone. -/
theorem State.ringWrite_one (hc : s.canonical = true) (r i : Nat) (bs : List Byte) :
    Changes [F.SYS_CRS_ERR_COUNT.zone] [.crs, .ecc] s (s.ringWrite r [i] bs)
    ∧ ∀ a, a < slotAddr i → (s.ringWrite r [i] bs).crsByte a = s.crsByte a := by
  change Changes _ _ s (if s.mayWrite r i then s.crsWrite (slotAddr i) (bs.take 128) else s.bump F.SYS_CRS_ERR_COUNT 1)
    ∧ ∀ a, a < slotAddr i → (if s.mayWrite r i then s.crsWrite (slotAddr i) (bs.take 128) else s.bump F.SYS_CRS_ERR_COUNT 1).crsByte a = s.crsByte a
  refine ⟨.ite (State.crsWrite_changes (.refl hc) _ _) (Changes.refl hc).bump, fun a ha => ?_⟩
  split
  · exact State.crsByte_crsWrite_ne (.inl ha)
  · rfl

/-- The records of a capture before its tokens. -/
def State.captureWritten (s : State) (i : Nat) (bs : List Byte) : State :=
  ((s.header 10).2.ringWrite 0 (capSlots i) bs).ringWrite 10 [descSlot i] (s.header 10).1

/-- A descriptor beside its record. -/
def State.described (s : State) (i : Nat) (d : Desc) : State :=
  { s with ame := { s.ame with desc := (i, d) :: s.ame.desc.filter (fun x => decide (x.1 ≠ i)) } }

theorem State.publishCapture_eq (i : Nat) (l : List Int) (d : Desc) : s.publishCapture i l d =
    (((s.captureWritten i (captureBytes l)).described i d).moveAll 0 (capSlots i) tokPublished).moveToken 10 (descSlot i) tokPublished := rfl

theorem State.publishCapture_published (hc : s.canonical = true) (i : Fin 8) {l : List Int} (hl : l.length ≤ 1024)
    (hw : ∀ k ∈ capSlots i.val, s.token k = tokWriting) (d : Desc) : CapturePublished s (s.publishCapture i.val l d) i.val (captureBytes l) := by
  rw [State.publishCapture_eq]
  unfold State.captureWritten
  have h0 : Changes captureZonesOf [.ringSeq] s (s.header 10).2 := State.nextSeq_changes (.refl hc) 10
  have ht0 : ∀ k, (s.header 10).2.token k = s.token k := fun _ => rfl
  generalize s.header 10 = hd at h0 ht0
  obtain ⟨bs, s0⟩ := hd
  dsimp only at h0 ht0 ⊢
  obtain ⟨h1, hbytes, hout⟩ := State.ringWrite_spec (r := 0) (slot := 16 * i.val) (n := 16) h0.canonical (Nat.zero_le _)
    (by have : ringBase 0 + ringSlots 0 = 128 := rfl
        omega) (captureBytes_length hl) fun k h1 h2 => (ht0 k).trans (hw k (mem_capSlots.mpr ⟨h1, h2⟩))
  change Changes [] [.crs, .ecc] s0 (s0.ringWrite 0 (capSlots i.val) _) at h1
  change (s0.ringWrite 0 (capSlots i.val) _).crsBytes _ _ = _ at hbytes
  change ∀ a, _ → (s0.ringWrite 0 (capSlots i.val) _).crsByte a = _ at hout
  generalize s0.ringWrite 0 (capSlots i.val) (captureBytes l) = s1 at h1 hbytes hout
  obtain ⟨h2, hout2⟩ := State.ringWrite_one h1.canonical 10 (descSlot i.val) bs
  generalize s1.ringWrite 10 [descSlot i.val] bs = s2 at h2 hout2
  have h3 : Changes [] [.ame] s2 (s2.described i.val d) := (Changes.refl h2.canonical).setAme
  have hame : (s2.described i.val d).ame = { s2.ame with desc := (s2.described i.val d).ame.desc } := rfl
  generalize s2.described i.val d = s3 at h3 hame
  have h4 : Changes captureZonesOf [.tok] s3 (s3.moveAll 0 (capSlots i.val) tokPublished) := State.moveAll_changes (.refl h3.canonical) 0 _ _
  have hp {k : Nat} (hk : k ∈ capSlots i.val) : (s3.moveAll 0 (capSlots i.val) tokPublished).token k = tokPublished :=
    State.token_moveAll_of_mem h3.canonical hk
  have hq {k : Nat} (hk : k ∉ capSlots i.val) : (s3.moveAll 0 (capSlots i.val) tokPublished).token k = s3.token k :=
    State.token_moveAll_of_not_mem hk
  generalize s3.moveAll 0 (capSlots i.val) tokPublished = s4 at h4 hp hq
  have h5 : Changes captureZonesOf [.tok] s4 (s4.moveToken 10 (descSlot i.val) tokPublished) := State.moveToken_changes (.refl h4.canonical) 10 _ _
  have hd {k : Nat} (hk : k < 128) : k ≠ descSlot i.val := by
    unfold descSlot
    omega
  have hcrs : (s4.moveToken 10 (descSlot i.val) tokPublished).crs = s2.crs := h5.crs.trans (h4.crs.trans h3.crs)
  have htok : s3.tok = s.tok := h3.tok.trans (h2.tok.trans (h1.tok.trans h0.tok))
  have hlow {a : Nat} (ha : a < slotAddr 128) : s2.crsByte a = s1.crsByte a := hout2 a (by
    unfold slotAddr descSlot at *
    omega)
  exact {
    changes := (((((h0.mono).next h1).next h2).next h3).next h4).next h5
    run := by rw [h5.ame, h4.ame, hame, h2.ame, h1.ame, h0.ame]
    token := fun k hk => (State.token_moveToken_ne (hd (by have := mem_capSlots.mp hk; omega))).trans (hp hk)
    others := fun k hk hn => (State.token_moveToken_ne (hd hk)).trans ((hq hn).trans (by rw [State.token, htok]; rfl))
    bytes := by
      refine Eq.trans (sgetAll_congr fun j h1 h2 => ?_) hbytes
      rw [hcrs]
      exact hlow (by unfold slotAddr at *; omega)
    outside := fun a ha hx => by
      rw [State.crsByte, hcrs]
      exact (hlow ha).trans ((hout a hx).trans (by rw [State.crsByte, h0.crs]; rfl)) }

/-- Both records of a capture published. -/
structure PairPublished (s t : State) (i j n : Nat) (x y : List Int) : Prop where
  changes : Changes captureZonesOf [.crs, .tok, .ecc, .ringSeq, .ame] s t
  run : t.ame = { s.ame with desc := t.ame.desc }
  first : t.token (16 * i) = tokPublished
  second : t.token (16 * j) = tokPublished
  samples : t.captureSamples i n = chainSamples n x
  samples' : t.captureSamples j n = chainSamples n y

theorem State.publishPair_published (hc : s.canonical = true) {i j : Fin 8} (hij : i ≠ j) {n : Nat} (hn : n ≤ 1024)
    (hw : ∀ k ∈ capSlots i.val ++ capSlots j.val, s.token k = tokWriting) (x y : List Int) (d : Desc) :
    PairPublished s ((s.publishCapture i.val (chainSamples n x) d).publishCapture j.val (chainSamples n y) d) i.val j.val n x y := by
  have hlen (l : List Int) : (chainSamples n l).length ≤ 1024 := (chainSamples_length n l).trans_le hn
  have hne : i.val ≠ j.val := fun h => hij (Fin.ext h)
  have h1 := State.publishCapture_published hc i (hlen x) (fun k hk => hw k (List.mem_append_left _ hk)) d
  have hapart {k : Nat} (hi : k ∈ capSlots i.val) : k ∉ capSlots j.val := fun hj => by
    have := mem_capSlots.mp hi
    have := mem_capSlots.mp hj
    omega
  have hw2 : ∀ k ∈ capSlots j.val, (s.publishCapture i.val (chainSamples n x) d).token k = tokWriting := fun k hk =>
    (h1.others k (by have := mem_capSlots.mp hk; omega) fun hi => hapart hi hk).trans (hw k (List.mem_append_right _ hk))
  generalize s.publishCapture i.val (chainSamples n x) d = u at h1 hw2
  have h2 := State.publishCapture_published h1.changes.canonical j (hlen y) hw2 d
  have hfirst (k : Fin 8) : 16 * k.val ∈ capSlots k.val := mem_capSlots.mpr ⟨Nat.le_refl _, by omega⟩
  exact {
    changes := h1.changes.trans h2.changes
    run := by rw [h2.run, h1.run]
    first := (h2.others _ (by omega) (hapart (hfirst i))).trans (h1.token _ (hfirst i))
    second := h2.token _ (hfirst j)
    samples := State.captureSamples_of_bytes hn (Eq.trans (sgetAll_congr fun a ha hb => h2.outside a (by unfold slotAddr at *; omega)
      (by unfold slotAddr at *; omega)) h1.bytes)
    samples' := State.captureSamples_of_bytes hn h2.bytes }

/-! ### The end of a capture -/

/-- Clipping as it shows. -/
def State.clipShown (s : State) (path : Nat) (clip : Bool) : State :=
  if clip then
    let t := s.set1 F.AME_STAT_CLIP
    if path < 4 then t.set1 (F.AME_P_STAT_CLIP path) else t
  else s

theorem State.clipShown_changes (hc : s.canonical = true) (path : Nat) (clip : Bool) :
    Changes [F.AME_STAT_CLIP.zone, (F.AME_P_STAT_CLIP path).zone] [] s (s.clipShown path clip) := by
  have h1 : Changes [F.AME_STAT_CLIP.zone, (F.AME_P_STAT_CLIP path).zone] [] s (s.set1 F.AME_STAT_CLIP) := (Changes.refl hc).putAt
  exact .ite (.ite h1.putAt h1) (.refl hc)

theorem State.nextGain_changes (hc : s.canonical = true) (r : ShotRun) (c : Firing) :
    Changes [(F.AME_P_STAT_GAIN r.plan.path).zone] [] s (s.nextGain r c) := by
  unfold State.nextGain
  exact .ite (Changes.refl hc).putAt (.refl hc)

theorem State.firing_ginit_lt (s : State) (n : Nat) : (firingOf s.rd n).ginit < 2 ^ 5 := s.get_lt (F.AME_P_RX_GINIT n)

/-- Without AGC the next gain is the initial one. -/
theorem State.nextGain_fixed (hc : s.canonical = true) {r : ShotRun} {c : Firing} (hp : r.plan.path < 4) (ho : r.plan.origin ≠ 3)
    (ha : c.agc = false) (hg : c.ginit < 2 ^ 5) : (s.nextGain r c).get (F.AME_P_STAT_GAIN r.plan.path) = c.ginit := by
  unfold State.nextGain
  rw [if_pos ⟨hp, ho⟩]
  simp only [ha, Bool.false_eq_true, if_false, Int.toNat_natCast]
  exact State.get_put hc hg

/-- What the samples of a capture add to its shot. -/
def ShotRun.heard (r : ShotRun) (all : List Int) : ShotRun :=
  { r with clip := r.clip || all.any (fun x => decide (x = 8191 ∨ x = -8192)), peak := (all.map Int.natAbs).foldl max r.peak }

/-- The descriptor of a capture. -/
def ShotRun.desc (r : ShotRun) (c : Firing) (all : List Int) : Desc :=
  ⟨r.plan.path, c, r.capA, r.pol, r.swapped, r.gain, all.any (fun x => decide (x = 8191 ∨ x = -8192)),
   if r.capA then r.vtxbB else r.vtxb, r.plan.origin⟩

/-- The two records of a capture published, and its clipping shown. -/
def State.captured (s : State) (r : ShotRun) (i j : Nat) (x0 x1 : List Int) : State :=
  let c := s.shotFiring r.plan.path
  let y0 := chainSamples c.caplen x0
  let y1 := chainSamples c.caplen x1
  ((s.publishCapture i y0 (r.desc c (y0 ++ y1))).publishCapture j y1 (r.desc c (y0 ++ y1))).clipShown r.plan.path
    ((y0 ++ y1).any (fun x => decide (x = 8191 ∨ x = -8192)))

/-- The samples of both chains. -/
def State.chains (s : State) (r : ShotRun) (x0 x1 : List Int) : List Int :=
  chainSamples (s.shotFiring r.plan.path).caplen x0 ++ chainSamples (s.shotFiring r.plan.path).caplen x1

theorem execCaptureEnd_first {r : ShotRun} {f : Nat} (hr : s.ame.run = some r) (ha : r.capA = false) (hf : r.firedA = some f) (x0 x1 : List Int) :
    exec (.captureEnd x0 x1) s = .next ((s.captured r (r.recs.getD 0 0) (r.recs.getD 1 0) x0 x1).setRun
      { r.heard (s.chains r x0 x1) with capA := true }) := by
  change execCaptureEnd x0 x1 s = _
  unfold execCaptureEnd
  rw [hr]
  dsimp only
  have hnot : ¬(r.capA = true) := by rw [ha]; exact Bool.false_ne_true
  simp only [if_neg hnot, hf, Option.isNone_some, Bool.false_eq_true, if_false, State.captured, State.chains, ShotRun.heard, ShotRun.desc,
    State.clipShown, Nat.zero_add]

theorem execCaptureEnd_second {r : ShotRun} {f : Nat} (hr : s.ame.run = some r) (ha : r.capA = true) (hb : r.capB = false)
    (hf : r.firedB = some f) (x0 x1 : List Int) :
    exec (.captureEnd x0 x1) s = .next (((s.captured r (r.recs.getD 2 0) (r.recs.getD 3 0) x0 x1).nextGain
      (r.heard (s.chains r x0 x1)) (s.shotFiring r.plan.path)).setRun { r.heard (s.chains r x0 x1) with capB := true }) := by
  change execCaptureEnd x0 x1 s = _
  unfold execCaptureEnd
  rw [hr]
  dsimp only
  have hidle : ¬((r.capB || r.firedB.isNone) = true) := by
    rw [hb, hf]
    exact Bool.false_ne_true
  simp only [if_pos ha, if_neg hidle, State.captured, State.chains, ShotRun.heard, ShotRun.desc,
    State.clipShown, Nat.reduceAdd]

/-- A pair of records stands as published. -/
structure RecordsPublished (t : State) (i j n : Nat) (x y : List Int) : Prop where
  tokens : t.token (16 * i) = tokPublished ∧ t.token (16 * j) = tokPublished
  samples : t.captureSamples i n = chainSamples n x ∧ t.captureSamples j n = chainSamples n y

theorem RecordsPublished.congr {i j n : Nat} {x y : List Int} (h : RecordsPublished s i j n x y) (hcrs : t.crs = s.crs)
    (htok : t.tok = s.tok) : RecordsPublished t i j n x y := by
  have ht (k : Nat) : t.token k = s.token k := by
    rw [State.token, htok]
    rfl
  have hs (k : Nat) : t.captureSamples k n = s.captureSamples k n := by
    rw [State.captureSamples, State.crsBytes, hcrs]
    rfl
  exact ⟨⟨(ht _).trans h.tokens.1, (ht _).trans h.tokens.2⟩, (hs _).trans h.samples.1, (hs _).trans h.samples.2⟩

theorem State.captured_published (hc : s.canonical = true) {i j : Fin 8} (hij : i ≠ j) {r : ShotRun}
    (hn : (s.shotFiring r.plan.path).caplen ≤ 1024) (hw : ∀ k ∈ capSlots i.val ++ capSlots j.val, s.token k = tokWriting)
    (x0 x1 : List Int) :
    (s.captured r i.val j.val x0 x1).canonical = true
    ∧ RecordsPublished (s.captured r i.val j.val x0 x1) i.val j.val (s.shotFiring r.plan.path).caplen x0 x1 := by
  unfold State.captured
  extract_lets c y0 y1
  have h1 := State.publishPair_published hc hij hn hw x0 x1 (r.desc c (y0 ++ y1))
  change PairPublished s ((s.publishCapture i.val y0 (r.desc c (y0 ++ y1))).publishCapture j.val y1 (r.desc c (y0 ++ y1))) _ _ _ _ _ at h1
  generalize (s.publishCapture i.val y0 (r.desc c (y0 ++ y1))).publishCapture j.val y1 (r.desc c (y0 ++ y1)) = u at h1
  have h2 := State.clipShown_changes h1.changes.canonical r.plan.path ((y0 ++ y1).any fun x => decide (x = 8191 ∨ x = -8192))
  exact ⟨h2.canonical, RecordsPublished.congr ⟨⟨h1.first, h1.second⟩, h1.samples, h1.samples'⟩ h2.crs h2.tok⟩

/-! ### Capture records freed -/

theorem State.token_consume (hc : s.canonical = true) {r k : Nat} {slots : List Nat} (hk : k < 712) :
    (s.consume r slots).token k = if k ∈ slots then tokFree else s.token k := by
  have h1 := State.moveAll_canonical hc r slots tokReading
  have h2 := State.eccMeets_changes h1 slots 128
  have hf (l : List Nat) {u : State} (hu : u.canonical = true) : LogOnly u (l.foldl (fun (t : State) i => t.eccMeet (slotAddr i) 128) u) := by
    induction l generalizing u with
    | nil => exact .refl u
    | cons i l ih => exact (State.eccMeet_onlyLog hu _ _).trans (ih (State.eccMeet_changes hu _ _).canonical)
  have hlog := (hf slots h1).tokens k (.inl hk)
  unfold State.consume
  split
  · rename_i hm
    exact State.token_moveAll_of_mem h2.canonical hm
  · rename_i hm
    exact (State.token_moveAll_of_not_mem hm).trans (hlog.trans (State.token_moveAll_of_not_mem hm))

/-- Freeing a record frees its slots and leaves the other records'. -/
theorem State.token_freeRec (hc : s.canonical = true) {i k : Nat} (hk : k < 128) :
    (if s.token (descSlot i) = tokPublished then (s.consume 0 (capSlots i)).consume 10 [descSlot i]
      else (s.moveAll 0 (capSlots i) tokFree).moveToken 10 (descSlot i) tokFree).token k
      = if k ∈ capSlots i then tokFree else s.token k := by
  have hd : k ≠ descSlot i := by
    unfold descSlot
    omega
  split
  · rw [State.token_consume (State.consume_changes hc 0 _).canonical (by omega), if_neg (by simpa using hd),
      State.token_consume hc (by omega)]
  · rw [State.token_moveToken_ne hd]
    split
    · rename_i hm
      exact State.token_moveAll_of_mem hc hm
    · rename_i hm
      exact State.token_moveAll_of_not_mem hm

theorem State.token_freeRecs (hc : s.canonical = true) {recs : List Nat} {k : Nat} (hk : k < 128)
    (h : s.token k = tokFree ∨ ∃ i ∈ recs, k ∈ capSlots i) : (s.freeRecs recs).token k = tokFree := by
  change (recs.foldl (fun (t : State) i => if t.token (descSlot i) = tokPublished then (t.consume 0 (capSlots i)).consume 10 [descSlot i]
      else (t.moveAll 0 (capSlots i) tokFree).moveToken 10 (descSlot i) tokFree) s).token k = tokFree
  induction recs generalizing s with
  | nil => exact h.elim id fun ⟨_, hm, _⟩ => absurd hm List.not_mem_nil
  | cons i l ih =>
    refine ih (State.freeRec_changes hc i).canonical ?_
    rw [State.token_freeRec hc hk]
    by_cases hm : k ∈ capSlots i
    · exact .inl (if_pos hm)
    · rw [if_neg hm]
      refine h.imp_right ?_
      rintro ⟨j, hj, hkj⟩
      rcases List.mem_cons.mp hj with rfl | hj
      · exact absurd hkj hm
      · exact ⟨j, hj, hkj⟩

/-- Freeing records leaves the front end but for their descriptors. -/
theorem State.freeRecs_ame (hc : s.canonical = true) (recs : List Nat) :
    (s.freeRecs recs).ame = { s.ame with desc := (s.freeRecs recs).ame.desc } := by
  have h : Changes freeZones safeParts s (recs.foldl (fun (t : State) i =>
      if t.token (descSlot i) = tokPublished then (t.consume 0 (capSlots i)).consume 10 [descSlot i]
      else (t.moveAll 0 (capSlots i) tokFree).moveToken 10 (descSlot i) tokFree) s) :=
    (Changes.refl hc).foldl fun _ i _ hu => hu.next (State.freeRec_changes hu.canonical i)
  unfold State.freeRecs
  rw [← h.ame]

/-! ### A shot discarded -/

/-- The running shot has been discarded. -/
structure Discarded (s t : State) (r : ShotRun) : Prop where
  changes : Changes discardZones freeParts s t
  count : t.get F.AME_DISC_COUNT = min (s.get F.AME_DISC_COUNT + 1) 65535
  tokens : ∀ i ∈ r.recs, ∀ k ∈ capSlots i, k < 128 → t.token k = tokFree
  ame : t.ame = { s.ame with run := none, discarded := t.ame.discarded, len := t.ame.len, desc := t.ame.desc }

theorem gain_disc_apart (n : Nat) (hn : n < 4) : (F.AME_P_STAT_GAIN n).zone.apart F.AME_DISC_COUNT = true :=
  Fld.zone_apart (.inl (by
    simp only [F.AME_P_STAT_GAIN, F.AME_P_STAT, F.AME_DISC_COUNT, F.AME_DISC]
    omega))

theorem State.discardShot_discarded (hc : s.canonical = true) {r : ShotRun} (hr : s.ame.run = some r) : Discarded s s.discardShot r := by
  have hd := State.discardShot_changes hc
  have h1 := State.freeRecs_changes hc r.recs
  have ha := State.freeRecs_ame hc r.recs
  have ht (i : Nat) (hi : i ∈ r.recs) (k : Nat) (hk : k ∈ capSlots i) (hlt : k < 128) : (s.freeRecs r.recs).token k = tokFree :=
    State.token_freeRecs hc hlt (.inr ⟨i, hi, hk⟩)
  have hbump := State.bump_get (f := F.AME_DISC_COUNT) h1.canonical 1
  have h2 : Changes [F.AME_DISC_COUNT.zone] [] (s.freeRecs r.recs) ((s.freeRecs r.recs).bump F.AME_DISC_COUNT 1) := (Changes.refl h1.canonical).bump
  have hk := h1.get F.AME_DISC_COUNT
  unfold State.discardShot at hd ⊢
  rw [hr] at hd ⊢
  dsimp only at hd ⊢
  generalize s.freeRecs r.recs = u at *
  generalize u.bump F.AME_DISC_COUNT 1 = v at *
  have h3 : Changes [(F.AME_P_STAT_GAIN r.plan.path).zone] []  v
      (if r.capB ∧ r.plan.path < 4 ∧ r.plan.origin ≠ 3 then v.put (F.AME_P_STAT_GAIN r.plan.path) r.gain else v) :=
    .ite (Changes.refl h2.canonical).putAt (.refl h2.canonical)
  have hcount : (if r.capB ∧ r.plan.path < 4 ∧ r.plan.origin ≠ 3 then v.put (F.AME_P_STAT_GAIN r.plan.path) r.gain else v).get F.AME_DISC_COUNT
      = v.get F.AME_DISC_COUNT := by
    split
    · rename_i hp
      exact Changes.get (W := [(F.AME_P_STAT_GAIN r.plan.path).zone]) (L := []) (Changes.refl h2.canonical).putAt _
        (List.forall_mem_singleton.mpr (gain_disc_apart _ hp.2.1))
    · rfl
  generalize (if r.capB ∧ r.plan.path < 4 ∧ r.plan.origin ≠ 3 then v.put (F.AME_P_STAT_GAIN r.plan.path) r.gain else v) = w at *
  have hame : w.ame = u.ame := h3.ame.trans h2.ame
  refine ⟨hd, hcount.trans (hbump.trans (by rw [hk]; rfl)), fun i hi k hm hlt => ?_, ?_⟩
  · have htok : w.tok = u.tok := h3.tok.trans h2.tok
    rw [State.token, htok]
    exact ht i hi k hm hlt
  · rw [hame, ha]

/-- The window has gone on to its next shot, or ended. -/
structure ShotPassed (s t : State) : Prop where
  changes : Changes windowZones windowParts s t
  ame : t.ame = { s.ame with run := none, plan := s.ame.plan.drop 1, windowOn := t.ame.windowOn, boost := t.ame.boost }
  last : s.ame.plan.drop 1 = [] → t.pins.window = false ∧ t.rm.phaseDone = true
  more : s.ame.plan.drop 1 ≠ [] → t.ame.windowOn = s.ame.windowOn

theorem State.nextShot_passed (hc : s.canonical = true) : ShotPassed s s.nextShot := by
  have h0 : Changes windowZones windowParts s { s with ame := { s.ame with run := none, plan := s.ame.plan.drop 1 } } := (Changes.refl hc).setAme
  unfold State.nextShot
  extract_lets src s1
  split
  · rename_i hp
    have h1 := State.endWindow_changes (s := s1) h0.canonical
    have ha := State.endWindow_ame (s := s1) h0.canonical
    have he := State.windowClosed_spec (s := s1) h0.canonical
    have hx := State.endWindow_after (s := s1) h0.canonical
    have hp' : s.ame.plan.drop 1 = [] := hp
    refine ⟨h0.trans h1, ?_, fun _ => ⟨?_, ?_⟩, fun hne => absurd hp hne⟩
    · rw [ha, hp']
    · rw [hx.pins, he.2.2.2]
    · rw [hx.rm, he.2.2.1]
  · rename_i hp
    exact ⟨h0, rfl, fun h => absurd h hp, fun _ => rfl⟩

/-! ### The end of a correlation -/

/-- The correlator has met the words of both records. -/
def State.pairMet (s : State) (i j : Nat) : State := (s.captureMeet i).captureMeet j

theorem State.captureMeet_changes (hc : s.canonical = true) (i : Nat) : Changes eccZones safeParts s (s.captureMeet i) := by
  have h := State.eccMeet_changes hc (slotAddr (16 * i)) 2048
  exact h.trans (State.eccMeet_changes h.canonical _ _)

theorem State.pairMet_changes (hc : s.canonical = true) (i j : Nat) : Changes eccZones safeParts s (s.pairMet i j) := by
  have h := State.captureMeet_changes hc i
  exact h.trans (State.captureMeet_changes h.canonical j)

theorem execCorrelationEnd_bad {r : ShotRun} (hr : s.ame.run = some r) (ha : r.capA = true) (hb : r.corrA = false)
    (hbad : s.captureBad (r.recs.getD 0 0) = true ∨ s.captureBad (r.recs.getD 1 0) = true) :
    exec .correlationEnd s = .next (s.pairMet (r.recs.getD 0 0) (r.recs.getD 1 0)).discardShot.nextShot := by
  change execCorrelationEnd s = _
  unfold execCorrelationEnd
  rw [hr]
  have hnot : ¬(r.corrA = true) := by rw [hb]; exact Bool.false_ne_true
  simp only [if_neg hnot, ha, Bool.not_true, Bool.false_eq_true, if_false, Nat.zero_add, if_pos hbad]
  rfl

/-- What the correlation of a pair of records adds to its shot. -/
def State.correlated (s : State) (i j : Nat) : List (List (Int × Int)) :=
  let d := s.descOf i
  let x0 := s.captureSamples i d.cfg.caplen
  let x1 := s.captureSamples j d.cfg.caplen
  let crossed := d.second && d.swapped
  [d.cfg.correlation d.second d.pol (if crossed then x1 else x0), d.cfg.correlation d.second d.pol (if crossed then x0 else x1)]

theorem execCorrelationEnd_first {r : ShotRun} (hr : s.ame.run = some r) (ha : r.capA = true) (hb : r.corrA = false)
    (h0 : s.captureBad (r.recs.getD 0 0) = false) (h1 : s.captureBad (r.recs.getD 1 0) = false) :
    exec .correlationEnd s = .next (((s.pairMet (r.recs.getD 0 0) (r.recs.getD 1 0)).freeRecs [r.recs.getD 0 0, r.recs.getD 1 0]).setRun
      { r with corr := r.corr ++ s.correlated (r.recs.getD 0 0) (r.recs.getD 1 0), corrA := true }) := by
  change execCorrelationEnd s = _
  unfold execCorrelationEnd
  rw [hr]
  have hnot : ¬(r.corrA = true) := by rw [hb]; exact Bool.false_ne_true
  simp only [if_neg hnot, ha, Bool.not_true, Bool.false_eq_true, if_false, Nat.zero_add, h0, h1, or_self]
  rfl

theorem execCorrelationEnd_second {r : ShotRun} (hr : s.ame.run = some r) (hB : r.capB = true) (ha : r.corrA = true) (hb : r.corrB = false)
    (h0 : s.captureBad (r.recs.getD 2 0) = false) (h1 : s.captureBad (r.recs.getD 3 0) = false) :
    exec .correlationEnd s = .next (((s.pairMet (r.recs.getD 2 0) (r.recs.getD 3 0)).freeRecs [r.recs.getD 2 0, r.recs.getD 3 0]).setRun
      { r with corr := r.corr ++ s.correlated (r.recs.getD 2 0) (r.recs.getD 3 0), recs := [], corrB := true }) := by
  change execCorrelationEnd s = _
  unfold execCorrelationEnd
  rw [hr]
  have hidle : ¬((r.corrB || !r.capB) = true) := by
    rw [hb, hB]
    exact Bool.false_ne_true
  simp only [if_pos ha, if_neg hidle, Nat.reduceAdd, h0, h1, Bool.false_eq_true, or_self, if_false]
  rfl

/-- Both records of a pair are free once they have been correlated. -/
theorem State.pairFreed (hc : s.canonical = true) (i j : Fin 8) :
    ((s.pairMet i.val j.val).freeRecs [i.val, j.val]).token (16 * i.val) = tokFree
    ∧ ((s.pairMet i.val j.val).freeRecs [i.val, j.val]).token (16 * j.val) = tokFree := by
  have h := State.pairMet_changes hc i.val j.val
  have hfirst (k : Fin 8) : 16 * k.val ∈ capSlots k.val := mem_capSlots.mpr ⟨Nat.le_refl _, by omega⟩
  exact ⟨State.token_freeRecs h.canonical (by omega) (.inr ⟨i.val, by simp, hfirst i⟩),
    State.token_freeRecs h.canonical (by omega) (.inr ⟨j.val, by simp, hfirst j⟩)⟩

/-- An error in a record of a running shot discards it, and frees the records. -/
theorem State.pairMet_discards (hc : s.canonical = true) {r : ShotRun} (hr : s.ame.run = some r) (i j : Fin 8)
    (hi : i.val ∈ r.recs) (hj : j.val ∈ r.recs) :
    let t := (s.pairMet i.val j.val).discardShot.nextShot
    t.ame.run = none ∧ t.get F.AME_DISC_COUNT = min (s.get F.AME_DISC_COUNT + 1) 65535
    ∧ (t.token (16 * i.val) = tokFree ∧ t.token (16 * j.val) = tokFree) ∧ t.ame.done = s.ame.done ∧ t.ame.plan = s.ame.plan.drop 1 := by
  have h1 := State.pairMet_changes hc i.val j.val
  have h2 := State.discardShot_discarded h1.canonical (h1.ame ▸ hr : (s.pairMet i.val j.val).ame.run = some r)
  have h3 := State.nextShot_passed h2.changes.canonical
  have hame := h3.ame.trans (congrArg (fun a : Ame => { a with
    run := none, plan := a.plan.drop 1
    windowOn := (s.pairMet i.val j.val).discardShot.nextShot.ame.windowOn
    boost := (s.pairMet i.val j.val).discardShot.nextShot.ame.boost }) h2.ame)
  have htok (k : Fin 8) (hk : k.val ∈ r.recs) : (s.pairMet i.val j.val).discardShot.nextShot.token (16 * k.val) = tokFree := by
    rw [State.token, h3.changes.tok]
    exact h2.tokens k.val hk _ (mem_capSlots.mpr ⟨Nat.le_refl _, by omega⟩) (by omega)
  refine ⟨by rw [hame], (h3.changes.get _).trans (h2.count.trans (by rw [h1.get F.AME_DISC_COUNT])), ⟨htok i hi, htok j hj⟩, ?_, ?_⟩
  · rw [hame, h1.ame]
  · rw [hame, h1.ame]

end

/-- Settles O28: the records of a capture stand published with their samples, and the correlator's end frees them. -/
theorem capturesAndCorrelations : Obligations.CapturesAndCorrelations := by
  unfold Obligations.CapturesAndCorrelations
  intro x0 x1 i0 i1 i2 i3 r s hc hr hrecs h01 h23 n hn published free writing
  have g0 : r.recs.getD 0 0 = i0.val := by rw [hrecs]; rfl
  have g1 : r.recs.getD 1 0 = i1.val := by rw [hrecs]; rfl
  have g2 : r.recs.getD 2 0 = i2.val := by rw [hrecs]; rfl
  have g3 : r.recs.getD 3 0 = i3.val := by rw [hrecs]; rfl
  have hpub {t : State} {a b : Nat} (h : RecordsPublished t a b n x0 x1) : published t a b :=
    ⟨h.tokens.1, h.tokens.2, h.samples.1, h.samples.2⟩
  refine ⟨fun f hf ha hw => ?_, fun f hf ha hb hw => ?_, fun ha hb hbad => ?_, fun ha hb hok0 hok1 => ?_, fun hB ha hb hok2 hok3 => ?_⟩
  · obtain ⟨-, h⟩ := State.captured_published hc h01 hn hw x0 x1
    refine ⟨_, execCaptureEnd_first hr ha hf x0 x1, ?_, _, rfl, rfl, rfl, rfl, rfl⟩
    rw [g0, g1]
    exact hpub (h.congr rfl rfl)
  · obtain ⟨hcan, h⟩ := State.captured_published hc h23 hn hw x0 x1
    refine ⟨_, execCaptureEnd_second hr ha hb hf x0 x1, ?_, fun hp ho hagc => ?_, _, rfl, rfl, rfl⟩
    · rw [g2, g3]
      have hg := State.nextGain_changes hcan (r.heard (s.chains r x0 x1)) (s.shotFiring r.plan.path)
      exact hpub (h.congr hg.crs hg.tok)
    · rw [g2, g3]
      have hfire : s.shotFiring r.plan.path = firingOf s.rd r.plan.path := if_neg (by omega)
      exact State.nextGain_fixed (r := r.heard (s.chains r x0 x1)) hcan hp ho hagc (hfire ▸ s.firing_ginit_lt _)
  · rw [← g0, ← g1] at hbad
    refine ⟨_, execCorrelationEnd_bad hr ha hb hbad, ?_⟩
    rw [g0, g1]
    obtain ⟨h1, h2, h3, h4, h5⟩ := State.pairMet_discards hc hr i0 i1 (by simp [hrecs]) (by simp [hrecs])
    exact ⟨h1, h2, h3, h4, h5⟩
  · refine ⟨_, execCorrelationEnd_first hr ha hb (g0 ▸ hok0) (g1 ▸ hok1), ?_, _, rfl, rfl, List.length_append, rfl⟩
    have h := State.pairFreed hc i0 i1
    rw [g0, g1]
    generalize (s.pairMet i0.val i1.val).freeRecs [i0.val, i1.val] = u at h
    exact h
  · refine ⟨_, execCorrelationEnd_second hr hB ha hb (g2 ▸ hok2) (g3 ▸ hok3), ?_, _, rfl, rfl, List.length_append, rfl⟩
    have h := State.pairFreed hc i2 i3
    rw [g2, g3]
    generalize (s.pairMet i2.val i3.val).freeRecs [i2.val, i3.val] = u at h
    exact h

end Sys2Proof.Machine
end

section
set_option Elab.async false
/-! PROOF. Shots that start and end (Machine/Acoustic.lean, Machine/ShotRecord.lean; R45, R174, R186, R191 and R200 to R214). -/

namespace Sys2Proof.Machine

section
variable {s t u : State}

/-! ### What joins the hidden copy -/

/-- Only the hidden copy and the SHOT block's own state differ. -/
structure HiddenOnly (s t : State) : Prop where
  changes : Changes [] [.ame, .shot] s t
  ame : t.ame = { s.ame with hidden := t.ame.hidden }

theorem HiddenOnly.refl (hc : s.canonical = true) : HiddenOnly s s := ⟨.refl hc, rfl⟩

theorem HiddenOnly.trans (h : HiddenOnly s t) (k : HiddenOnly t u) : HiddenOnly s u :=
  ⟨h.changes.trans k.changes, by rw [k.ame, h.ame]⟩

theorem HiddenOnly.ite {c : Prop} [Decidable c] (hs : HiddenOnly u s) (ht : HiddenOnly u t) : HiddenOnly u (if c then s else t) := by
  split <;> assumption

theorem HiddenOnly.hput (h : HiddenOnly s t) (f : Fld) (v : Nat) : HiddenOnly s (t.hput f v) :=
  h.trans ⟨(Changes.refl h.changes.canonical).setAme, rfl⟩

theorem HiddenOnly.shot (h : HiddenOnly s t) (x : Shot) : HiddenOnly s { t with shot := x } :=
  h.trans ⟨(Changes.refl h.changes.canonical).setShot, rfl⟩

theorem State.depositShow_hidden (hc : s.canonical = true) (n : Nat) : HiddenOnly s (s.depositShow n) := by
  have h0 := HiddenOnly.refl hc
  unfold State.depositShow
  split
  · exact h0
  · extract_lets dref r s1 thr
    have h1 : HiddenOnly s s1 := h0.hput _ _
    exact .ite ((h0.hput _ _).hput _ _) (.ite (h1.hput _ _) (.ite (h1.hput _ _) h1))

theorem State.depositBlock_hidden (hc : s.canonical = true) (n : Nat) : HiddenOnly s (s.depositBlock n) := by
  unfold State.depositBlock
  extract_lets p mean m
  have h1 : HiddenOnly s (s.setPathSt n { p with depSum := 0, depCount := 0, depM := some m }) := (HiddenOnly.refl hc).shot _
  exact .ite (h1.trans (State.depositShow_hidden h1.changes.canonical n)) (.refl hc)

theorem State.depositAdd_hidden (hc : s.canonical = true) (n an : Nat) : HiddenOnly s (s.depositAdd n an) :=
  (State.depositBlock_hidden hc n).shot _

theorem State.zcCollect_hidden (hc : s.canonical = true) (n : Nat) (raw ab : Int) (an : Nat) : HiddenOnly s (s.zcCollect n raw ab an) := by
  have h0 := HiddenOnly.refl hc
  unfold State.zcCollect
  split
  · exact h0
  · split
    · exact h0
    · exact (h0.shot _).hput _ _

/-! ### The record of a shot -/

theorem State.ringWrite_changes (hc : s.canonical = true) (r : Nat) (slots : List Nat) (bs : List Byte) :
    Changes [F.SYS_CRS_ERR_COUNT.zone] [.crs, .ecc] s (s.ringWrite r slots bs) := by
  induction slots generalizing s bs with
  | nil => exact .refl hc
  | cons i l ih =>
    have h1 : Changes [F.SYS_CRS_ERR_COUNT.zone] [.crs, .ecc] s
        (if s.mayWrite r i then s.crsWrite (slotAddr i) (bs.take 128) else s.bump F.SYS_CRS_ERR_COUNT 1) :=
      .ite (State.crsWrite_changes (.refl hc) _ _) (Changes.refl hc).bump
    exact h1.trans (ih h1.canonical _)

/-- What publishing a record shows in. -/
def publishZones (r : Nat) : List Zone := [(F.SYS_RING_B_FILL r).zone, F.SYS_CRS_ERR_COUNT.zone]

/-- The parts that publishing a record changes. -/
def publishParts : List Part := [.crs, .tok, .ecc, .ringSeq]

theorem State.publish_changes (hc : s.canonical = true) (r slot n : Nat) (body : List Byte) :
    Changes (publishZones r) publishParts s (s.publish r slot n body) := by
  have hz : ∃ z ∈ publishZones r, z.covers (F.SYS_RING_B_FILL r) = true := ⟨_, List.mem_cons_self, Fld.zone_covers _⟩
  have h0 : Changes (publishZones r) publishParts s (s.header r).2 := State.nextSeq_changes (.refl hc) r
  change Changes _ _ s ((s.header r).2.fill r (slotsFrom slot n) ((s.header r).1 ++ body))
  have h1 := State.moveAll_changes h0 r (slotsFrom slot n) tokWriting hz
  have h2 := State.ringWrite_changes h1.canonical r (slotsFrom slot n) ((s.header r).1 ++ body)
  exact State.moveAll_changes (h1.next h2 (by simp [publishZones])) r _ _ hz


/-- What the record of a shot shows in. -/
def shotZones : List Zone := (F.SYS_RING_B_HEAD 1).zone :: publishZones 1

theorem State.publishShot_spec (hc : s.canonical = true) (body : List Byte) : Changes shotZones publishParts s (s.publishShot body)
    ∧ (s.publishShot body).get (F.SYS_RING_B_HEAD 1) = (s.get (F.SYS_RING_B_HEAD 1) + 1) % 128 := by
  have h1 := State.publish_changes hc 1 (128 + s.get (F.SYS_RING_B_HEAD 1)) 1 body
  have h2 : Changes shotZones publishParts s (s.publish 1 (128 + s.get (F.SYS_RING_B_HEAD 1)) 1 body) := h1.mono
  exact ⟨h2.put, State.get_put h1.canonical (Nat.lt_trans (Nat.mod_lt _ (by decide)) (by decide))⟩

theorem State.fit32_changes (hc : s.canonical = true) (v : Int) : Changes [] [.freeLevel] s (s.fit32 v).2 := by
  unfold State.fit32
  split
  · exact .refl hc
  · exact (Changes.refl hc).setFreeLevel

/-- A shot classified and recorded. -/
structure ShotFinished (s t : State) (r : ShotRun) : Prop where
  changes : Changes shotZones (.freeLevel :: .ame :: .shot :: publishParts) s t
  done : ∃ o, t.ame.done = s.ame.done ++ [o] ∧ o.path = r.plan.path ∧ o.origin = r.plan.origin ∧ o.asym = r.asym
  ame : t.ame = { s.ame with done := t.ame.done, hidden := t.ame.hidden }
  head : t.get (F.SYS_RING_B_HEAD 1) = (s.get (F.SYS_RING_B_HEAD 1) + 1) % 128

/-- What follows the record joins the hidden copy. -/
theorem ShotFinished.hides {r : ShotRun} (h : ShotFinished s t r) (k : HiddenOnly t u) : ShotFinished s u r where
  changes := h.changes.next k.changes
  done := by
    have hd : u.ame.done = t.ame.done := by rw [k.ame]
    rw [hd]
    exact h.done
  ame := by rw [k.ame, h.ame]
  head := (k.changes.get _).trans h.head

/-- The record published and its outcome kept. -/
theorem State.recorded_finished (hc : s.canonical = true) {r : ShotRun} (v w : Int) (body : List Byte) (o : ShotOut)
    (ho : o.path = r.plan.path ∧ o.origin = r.plan.origin ∧ o.asym = r.asym) :
    let s2 := ((s.fit32 v).2.fit32 w).2.publishShot body
    ShotFinished s { s2 with ame := { s2.ame with done := s2.ame.done ++ [o] } } r := by
  have h0 := State.fit32_changes hc v
  have h1 := h0.trans (State.fit32_changes h0.canonical w)
  generalize ((s.fit32 v).2.fit32 w).2 = s1 at h1
  obtain ⟨h2, hh⟩ := State.publishShot_spec h1.canonical body
  generalize s1.publishShot body = s2 at h2 hh
  have h3 : Changes [] [.ame] s2 { s2 with ame := { s2.ame with done := s2.ame.done ++ [o] } } := (Changes.refl h2.canonical).setAme
  have hs : s2.ame = s.ame := h2.ame.trans h1.ame
  exact {
    changes := ((h1.mono).next h2).next h3
    done := ⟨o, congrArg (fun a : Ame => a.done ++ [o]) hs, ho⟩
    ame := by rw [hs]
    head := (h3.get _).trans (hh.trans (by rw [h1.get (F.SYS_RING_B_HEAD 1)])) }

theorem State.finishShot_finished (hc : s.canonical = true) (r : ShotRun) : ShotFinished s (s.finishShot r) r := by
  unfold State.finishShot
  extract_lets -merge -underBinder path lb c lim cu cd du dd a b p au ad bu bd v ta tb
  have h3 (body : List Byte) (o : ShotOut) (ho : o.path = r.plan.path ∧ o.origin = r.plan.origin ∧ o.asym = r.asym) :=
    State.recorded_finished (r := r) hc (ta.1 - ta.2) (tb.1 - tb.2) body o ho
  split
  rename_i da s0 hda
  rw [hda] at h3
  dsimp only at h3
  split
  rename_i db s1 hdb
  rw [hdb] at h3
  extract_lets -merge -underBinder zstale recov id flags s2 out src s3 an s4 dl
  have hs3 : ShotFinished s s3 r := h3 _ out ⟨rfl, rfl, rfl⟩
  have h0 := HiddenOnly.refl hs3.changes.canonical
  have hadd := State.depositAdd_hidden hs3.changes.canonical path an
  have hs4 : HiddenOnly s3 s4 := hadd.trans (State.zcCollect_hidden hadd.changes.canonical path v.raw (da - db) an)
  refine hs3.hides (.ite (.ite ?_ ?_) (.ite (.ite ?_ hs4) h0))
  · exact ((h0.hput _ _).hput _ _).hput _ _
  · exact ((h0.hput _ _).hput _ _).hput _ _
  · exact hs4.hput _ _

/-- END at the running shot. -/
theorem execUcodeEnd_ends {r : ShotRun} (hr : s.ame.run = some r) (ho : bitsOf (s.wordAt r.pc) 31 28 = 0) :
    exec .ucodeEnd s = .next ({ s.finishShot r with ame := { (s.finishShot r).ame with
      len := (s.finishShot r).ame.len + (s.shotFiring r.plan.path).dur } } : State).nextShot :=
  congrArg Host.Outcome.next (State.ucode_runs hr ho (by decide))

/-! ### A shot that starts -/

/-- A capture record taken with its descriptor. -/
def State.takeRec (s : State) (i : Nat) : State := (s.moveAll 0 (capSlots i) tokWriting).moveToken 10 (descSlot i) tokWriting

/-- The heads of both rings behind the last record taken. -/
def State.headsAt (s : State) (n : Nat) : State := (s.put (F.SYS_RING_B_HEAD 0) (16 * n)).put (F.SYS_RING_B_HEAD 10) n

/-- A loopback shot counted. -/
def State.loopCounted (s : State) (lb : Bool) : State := if lb then s.put F.AME_LB_COUNT (s.get F.AME_LB_COUNT + 1) else s

/-- The run of a shot that starts with the records taken. -/
def State.newRun (s : State) (p : Planned) (recs : List Nat) : ShotRun :=
  { plan := p, pc := routineBase p.path + 1, time := 0, recs := recs, firedA := none, firedB := none, capA := false
    capB := false, corrA := false, corrB := false, swapped := false
    gain := if decide (p.path = 15) = true then 8 else (s.loopCounted (decide (p.path = 15))).get (F.AME_P_STAT_GAIN p.path)
    pol := !decide (p.path = 15) && (s.loopCounted (decide (p.path = 15))).flag (F.AME_P_STAT_POL p.path)
    asym := decide (p.path = 15) && decide (s.get F.AME_LB_COUNT % 2 = 1) && s.flag F.AME_LB_ASYMALT
    vtxb := 0, vtxbB := 0, vtxbLow := false, clip := false, peak := 0, corr := [] }

/-- The run of the shot has begun. -/
def State.runBegun (s : State) (r : ShotRun) : State := { s with ame := { s.ame with run := some r, index := s.ame.index + 1 } }

/-- The next planned shot has four records. -/
def State.selected (s : State) (p : Planned) (recs : List Nat) (d : Nat) : State :=
  let s2 := (recs.foldl State.takeRec s).headsAt ((d + 1) % 8)
  ((s2.loopCounted (decide (p.path = 15))).runBegun (s2.newRun p recs)).noteTest p

theorem execUcodeSelp_selects {p : Planned} {rest : List Planned} {a b c d : Nat} {more : List Nat} (hw : s.ame.windowOn = true)
    (hr : s.ame.run = none) (hp : s.ame.plan = p :: rest) (ho : bitsOf (s.wordAt (routineBase p.path)) 31 28 = 1)
    (hf : s.freeCaptures = a :: b :: c :: d :: more) : exec .ucodeSelp s = .next (s.selected p [a, b, c, d] d) := by
  change execUcodeSelp s = _
  unfold execUcodeSelp
  rw [hw, hr, hp]
  dsimp only
  rw [if_neg (not_not.mpr ho), hf]
  rfl

/-- What taking capture records shows in. -/
def takeZones : List Zone :=
  [(F.SYS_RING_B_FILL 0).zone, (F.SYS_RING_B_FILL 10).zone, (F.SYS_RING_B_HEAD 0).zone, (F.SYS_RING_B_HEAD 10).zone]

theorem takeZones_apart {g : Fld} (hg : 0x40100000 ≤ g.addr) : ∀ z ∈ takeZones, z.apart g = true := by
  simp only [takeZones, List.forall_mem_cons]
  refine ⟨?_, ?_, ?_, ?_, nofun⟩ <;> refine Fld.zone_apart (.inl (Nat.ne_of_gt (Nat.lt_of_lt_of_le ?_ hg))) <;> decide

theorem State.takeRec_changes (hc : s.canonical = true) (i : Nat) : Changes takeZones [.tok] s (s.takeRec i) := by
  have h : Changes takeZones [.tok] s (s.moveAll 0 (capSlots i) tokWriting) := State.moveAll_changes (.refl hc) 0 _ _
  exact State.moveToken_changes h 10 _ _

theorem State.token_takeRec (hc : s.canonical = true) {i k : Nat} (h : s.token k = tokWriting ∨ k ∈ capSlots i ∨ k = descSlot i) :
    (s.takeRec i).token k = tokWriting := by
  have hm := State.moveAll_canonical hc 0 (capSlots i) tokWriting
  unfold State.takeRec
  by_cases hd : k = descSlot i
  · rw [hd]
    exact State.token_moveToken hm
  · rw [State.token_moveToken_ne hd]
    by_cases hk : k ∈ capSlots i
    · exact State.token_moveAll_of_mem hc hk
    · rw [State.token_moveAll_of_not_mem hk]
      exact h.elim id fun h => absurd h (by simp [hk, hd])

theorem State.takeRecs_spec (hc : s.canonical = true) (recs : List Nat) : Changes takeZones [.tok] s (recs.foldl State.takeRec s)
    ∧ ∀ k, (s.token k = tokWriting ∨ ∃ i ∈ recs, k ∈ capSlots i ∨ k = descSlot i) → (recs.foldl State.takeRec s).token k = tokWriting := by
  induction recs generalizing s with
  | nil => exact ⟨.refl hc, fun k h => h.elim id fun ⟨_, hm, _⟩ => absurd hm List.not_mem_nil⟩
  | cons i l ih =>
    have h1 := State.takeRec_changes hc i
    have htok {k : Nat} (h : s.token k = tokWriting ∨ k ∈ capSlots i ∨ k = descSlot i) := State.token_takeRec hc h
    rw [List.foldl_cons]
    generalize s.takeRec i = u at h1 htok
    obtain ⟨h2, hl⟩ := ih h1.canonical
    refine ⟨h1.trans h2, fun k h => hl k ?_⟩
    rcases h with h | ⟨j, hj, hk⟩
    · exact .inl (htok (.inl h))
    · rcases List.mem_cons.mp hj with rfl | hj
      · exact .inl (htok (.inr hk))
      · exact .inr ⟨j, hj, hk⟩

/-- Counting a test shot changes its requests alone. -/
theorem State.noteTest_eq (s : State) (p : Planned) :
    ∃ q l, s.noteTest p = { s with ame := { s.ame with aclReq := q, trigReq := l } } := by
  unfold State.noteTest
  split
  · exact ⟨s.ame.aclReq, s.ame.trigReq, rfl⟩
  · split
    · split
      · exact ⟨s.ame.aclReq, s.ame.trigReq, rfl⟩
      · exact ⟨_, s.ame.trigReq, rfl⟩
    · exact ⟨s.ame.aclReq, _, rfl⟩

/-- What a selected shot leaves. -/
theorem State.selected_spec (hc : s.canonical = true) {p : Planned} (recs : List Nat) (d : Nat) :
    Changes (F.AME_LB_COUNT.zone :: takeZones) [.tok, .ame] s (s.selected p recs d)
    ∧ (s.selected p recs d).ame.index = s.ame.index + 1
    ∧ (∀ i ∈ recs, (s.selected p recs d).token (16 * i) = tokWriting ∧ (s.selected p recs d).token (2040 + i) = tokWriting)
    ∧ (∃ r, (s.selected p recs d).ame.run = some r ∧ r.plan = p ∧ r.pc = routineBase p.path + 1 ∧ r.time = 0 ∧ r.recs = recs
      ∧ r.gain = (if p.path = 15 then 8 else s.get (F.AME_P_STAT_GAIN p.path)) ∧ r.firedA = none ∧ r.corr = [])
    ∧ (s.selected p recs d).get (F.SYS_RING_B_HEAD 10) = (d + 1) % 8 := by
  obtain ⟨h1, htok⟩ := State.takeRecs_spec hc recs
  unfold State.selected
  extract_lets s2
  have h2 : Changes takeZones [.tok] (recs.foldl State.takeRec s) s2 := ((Changes.refl h1.canonical).put).put
  have ht2 : s2.tok = (recs.foldl State.takeRec s).tok := rfl
  have ha2 : s2.ame = s.ame := h1.ame
  have hhead : s2.get (F.SYS_RING_B_HEAD 10) = (d + 1) % 8 :=
    State.get_put (State.put_canonical h1.canonical) (Nat.lt_trans (Nat.mod_lt _ (by decide)) (by decide))
  have hgain : (s2.newRun p recs).gain = if p.path = 15 then 8 else s.get (F.AME_P_STAT_GAIN p.path) := by
    by_cases h15 : p.path = 15
    · rw [if_pos h15]
      exact if_pos (decide_eq_true h15)
    · rw [if_neg h15]
      refine (if_neg (by simpa using h15)).trans ?_
      rw [decide_eq_false h15]
      exact (h1.trans h2).get _ (takeZones_apart (by simp only [F.AME_P_STAT_GAIN, F.AME_P_STAT]; omega))
  have h3 : Changes [F.AME_LB_COUNT.zone] [] s2 (s2.loopCounted (decide (p.path = 15))) := .ite (Changes.refl h2.canonical).put (.refl h2.canonical)
  generalize s2.loopCounted (decide (p.path = 15)) = s3 at h3
  have hrun : (s2.newRun p recs).plan = p ∧ (s2.newRun p recs).pc = routineBase p.path + 1 ∧ (s2.newRun p recs).time = 0
      ∧ (s2.newRun p recs).recs = recs ∧ (s2.newRun p recs).firedA = none ∧ (s2.newRun p recs).corr = [] := ⟨rfl, rfl, rfl, rfl, rfl, rfl⟩
  generalize s2.newRun p recs = run at hgain hrun
  have h4 : Changes [] [.ame] s3 (s3.runBegun run) := (Changes.refl h3.canonical).setAme
  obtain ⟨q, l, e5⟩ := State.noteTest_eq (s3.runBegun run) p
  have h5 : Changes [] [.ame] (s3.runBegun run) ((s3.runBegun run).noteTest p) := by
    rw [e5]
    exact (Changes.refl h4.canonical).setAme
  have hindex : ((s3.runBegun run).noteTest p).ame.index = s.ame.index + 1 ∧ ((s3.runBegun run).noteTest p).ame.run = some run := by
    rw [e5]
    exact ⟨congrArg (·.index + 1) (h3.ame.trans ha2), rfl⟩
  generalize (s3.runBegun run).noteTest p = t at h5 hindex
  have h25 : Changes [F.AME_LB_COUNT.zone] [.ame] s2 t := ((h3.mono).next h4).next h5
  have htk (k : Nat) : t.token k = (recs.foldl State.takeRec s).token k := by
    rw [State.token, h25.tok, ht2]
    rfl
  obtain ⟨r1, r2, r3, r4, r5, r6⟩ := hrun
  refine ⟨((h1.trans h2).mono).next h25, hindex.1, fun i hi => ⟨(htk _).trans (htok _ (.inr ⟨i, hi, .inl ?_⟩)),
    (htk _).trans (htok _ (.inr ⟨i, hi, .inr rfl⟩))⟩, ⟨run, hindex.2, r1, r2, r3, r4, hgain, r5, r6⟩, (h25.get _).trans hhead⟩
  exact mem_capSlots.mpr ⟨Nat.le_refl _, by omega⟩

/-! ### A shot without records -/

/-- A planned shot that finds too few records. -/
def State.captureFull (s : State) (p : Planned) : State :=
  let s1 := ((s.set1 F.AME_STAT_CAPFULL).bump F.AME_DISC_COUNT 1).detect 0x43 p.path 0 .second
  let asym := decide (p.path = 15 ∧ s.get F.AME_LB_COUNT % 2 = 1) && s.flag F.AME_LB_ASYMALT
  ({ s1 with ame := { s1.ame with discarded := s1.ame.discarded ++ [(p, asym)] } }).noteTest p

theorem execUcodeSelp_full {p : Planned} {rest : List Planned} (hw : s.ame.windowOn = true)
    (hr : s.ame.run = none) (hp : s.ame.plan = p :: rest) (ho : bitsOf (s.wordAt (routineBase p.path)) 31 28 = 1)
    (hf : s.freeCaptures.length < 4) : exec .ucodeSelp s = .next (s.captureFull p).nextShot := by
  change execUcodeSelp s = _
  unfold execUcodeSelp
  rw [hw, hr, hp]
  dsimp only
  rw [if_neg (not_not.mpr ho)]
  split
  · rename_i h
    rw [h] at hf
    simp only [List.length_cons] at hf
    omega
  · rfl

theorem State.captureFull_spec (hc : s.canonical = true) (p : Planned) :
    (s.captureFull p).canonical = true ∧ (s.captureFull p).flag F.AME_STAT_CAPFULL = true ∧ 0x43 ∈ (s.captureFull p).safe.now
    ∧ (s.captureFull p).get F.AME_DISC_COUNT = min (s.get F.AME_DISC_COUNT + 1) 65535 ∧ (s.captureFull p).ame.plan = s.ame.plan := by
  unfold State.captureFull
  extract_lets s1 asym
  have h1 : Changes [F.AME_STAT_CAPFULL.zone] [] s (s.set1 F.AME_STAT_CAPFULL) := (Changes.refl hc).set1
  have g1 : (s.set1 F.AME_STAT_CAPFULL).flag F.AME_STAT_CAPFULL = true := State.set1_flag hc
  have h2 : Changes [F.AME_DISC_COUNT.zone] [] (s.set1 F.AME_STAT_CAPFULL) ((s.set1 F.AME_STAT_CAPFULL).bump F.AME_DISC_COUNT 1) :=
    (Changes.refl h1.canonical).bump
  have g2 := State.bump_get (f := F.AME_DISC_COUNT) h1.canonical 1
  have h3 : Changes detectZones safeParts _ s1 := State.detect_changes h2.canonical 0x43 p.path 0 .second
  have g3 : 0x43 ∈ s1.safe.now := State.detect_now h2.canonical 0x43 p.path 0 .second
  have h4 : Changes [] [.ame] s1 { s1 with ame := { s1.ame with discarded := s1.ame.discarded ++ [(p, asym)] } } :=
    (Changes.refl h3.canonical).setAme
  obtain ⟨q, l, e5⟩ := State.noteTest_eq { s1 with ame := { s1.ame with discarded := s1.ame.discarded ++ [(p, asym)] } } p
  have h5 : Changes [] [.ame] s1 (({ s1 with ame := { s1.ame with discarded := s1.ame.discarded ++ [(p, asym)] } } : State).noteTest p) := by
    rw [e5]
    exact h4.setAme
  have hp : (({ s1 with ame := { s1.ame with discarded := s1.ame.discarded ++ [(p, asym)] } } : State).noteTest p).ame.plan = s1.ame.plan := by
    rw [e5]
  refine ⟨h5.canonical, (h5.flag _).trans ((h3.flag _).trans ((h2.flag _).trans g1)), ?_, (h5.get _).trans ((h3.get _).trans (g2.trans ?_)), ?_⟩
  · rw [h5.safe]
    exact g3
  · rw [h1.get F.AME_DISC_COUNT]
    rfl
  · exact hp.trans (congrArg (·.plan) (h3.ame.trans (h2.ame.trans h1.ame)))

end

/-- Settles O27: a shot starts with four records taken, fires nothing without them, and is recorded at its end. -/
theorem shotsStartAndEnd : Obligations.ShotsStartAndEnd := by
  unfold Obligations.ShotsStartAndEnd
  intro s hc
  refine ⟨fun p rest hw hr hp _ ho => ⟨fun a b c d more hf => ?_, fun hf => ?_⟩, fun r hr ho _ => ?_⟩
  · obtain ⟨h, hindex, htok, hrun, hhead⟩ := State.selected_spec hc (p := p) [a, b, c, d] d
    exact ⟨_, execUcodeSelp_selects hw hr hp ho hf, hindex, htok, hrun, hhead, h.nvm, h.blockKept .shot⟩
  · obtain ⟨h0, hfull, hnow, hcount, hplan⟩ := State.captureFull_spec hc p
    have h := State.nextShot_passed h0
    have hame := h.ame
    refine ⟨_, execUcodeSelp_full hw hr hp ho hf, (h.changes.flag _).trans hfull, by rw [hame], ?_, (h.changes.get _).trans hcount, ?_⟩
    · rw [h.changes.safe]
      exact hnow
    · rw [hame, hplan, hp]
      rfl
  · have h1 := State.finishShot_finished hc r
    have hrun := execUcodeEnd_ends hr ho
    generalize s.finishShot r = u at h1 hrun
    have h2 : Changes [] [.ame] u { u with ame := { u.ame with len := u.ame.len + (s.shotFiring r.plan.path).dur } } :=
      (Changes.refl h1.changes.canonical).setAme
    have hplan : u.ame.plan = s.ame.plan ∧ u.ame.windowOn = s.ame.windowOn ∧ u.ame.len = s.ame.len := by
      rw [h1.ame]
      exact ⟨rfl, rfl, rfl⟩
    obtain ⟨hp, hon, hlen⟩ := hplan
    have h := State.nextShot_passed h2.canonical
    have hame := h.ame
    obtain ⟨o, hdone, ho1, ho2, ho3⟩ := h1.done
    have hall : Changes (shotZones ++ windowZones) ([.freeLevel, .shot] ++ publishParts ++ windowParts) s _ :=
      ((h1.changes.mono).next h2).next h.changes
    refine ⟨_, hrun, by rw [hame], by rw [hame, ← hp], ⟨o, by rw [hame, ← hdone], ho1, ho2, ho3⟩,
      (h.changes.get _).trans ((h2.get _).trans h1.head), fun hl => h.last (by rw [← hl, ← hp]), fun hm => ⟨?_, ?_⟩, hall.nvm⟩
    · exact (h.more (by rw [← hp] at hm; exact hm)).trans hon
    · rw [hame]
      exact congrArg (· + (s.shotFiring r.plan.path).dur) hlen

end Sys2Proof.Machine
end

section
set_option Elab.async false
/-! PROOF. A line's command, its response and what stands between them (Machine/Carriers.lean, Machine/Command.lean; R127 to R131, R150). -/

namespace Sys2Proof.Machine

section
variable {s t u v : State} {c : Carrier} {l : LineForm}

/-! ### The record of any carrier -/

theorem State.setCar_canonical (hc : s.canonical = true) (x : CarrierSt) : (s.setCar c x).canonical = true := by
  obtain ⟨-, h, -⟩ := State.setCar_keeps (c := c) (x := x) (Keeps.refl s)
  exact h hc

theorem State.setCar_car (hc : s.canonical = true) (x : CarrierSt) : (s.setCar c x).car c = x := by
  cases c with
  | uart | optical => rfl
  | tunnel n =>
    obtain ⟨-, -, -, -, -, -, htun⟩ := storesCanonical_iff.mp hc
    exact sget_sset_same htun

/-- A carrier's record is replaced: the registers stay, and all but the carriers. -/
theorem State.setCar_rest (x : CarrierSt) :
    (s.setCar c x).regs = s.regs ∧ s.setCar c x = { s with cmd := (s.setCar c x).cmd } := by
  cases c <;> exact ⟨rfl, rfl⟩

/-! ### The state in which a command has run -/

/-- From `s` a line has been counted and its command has run on its carrier, and no response has been handed out. -/
structure Ran (s u : State) (c : Carrier) : Prop where
  canonical : u.canonical = true
  tx : (u.car c).tx = (s.car c).tx
  held : (u.car c).held = none
  outbox : u.link.outbox = s.link.outbox
  lines : u.get F.CMD_LINES_LINES = min (s.get F.CMD_LINES_LINES + 1) 65535
  errors : u.get F.CMD_LINES_ERRORS = s.get F.CMD_LINES_ERRORS

theorem State.onLine_canonical (hc : s.canonical = true) (keep : Bool) : (s.onLine c keep).canonical = true := by
  have h := (Changes.refl (W := [F.CMD_LINES_LINES.zone]) (L := []) (State.enterLine_canonical (c := c) hc)).bump (n := 1)
    (f := F.CMD_LINES_LINES)
  cases keep <;> exact h.canonical

theorem State.onLine_tx (hc : s.canonical = true) (keep : Bool) : ((s.onLine c keep).car c).tx = (s.car c).tx := by
  obtain ⟨r, hr⟩ := State.car_enterLine (c := c) hc
  have he : ((s.onLine c keep).car c).tx = ((s.enterLine c).car c).tx := by cases keep <;> cases c <;> rfl
  rw [he, hr]

theorem Ran.of_onLine (hc : s.canonical = true) (hl : s.lineRuns c l = true) (keep : Bool) : Ran s (s.onLine c keep) c := by
  obtain ⟨-, -, hheld, -⟩ := State.lineRuns_iff.mp hl
  obtain ⟨hlines, herr⟩ := State.onLine_count (c := c) hc keep
  exact ⟨State.onLine_canonical hc keep, State.onLine_tx hc keep, (State.onLine_held hc keep).trans hheld,
    by cases keep <;> cases c <;> rfl, hlines, herr⟩

/-- What leaves the carriers, the link and CMD_LINES. -/
theorem Ran.next {W : List Zone} {L : List Part} (h : Ran s u c) (k : Changes W L u v)
    (hl : ∀ z ∈ W, z.apart F.CMD_LINES_LINES = true := by decide) (he : ∀ z ∈ W, z.apart F.CMD_LINES_ERRORS = true := by decide)
    (hp : Part.cmd ∉ L := by decide) (hk : Part.link ∉ L := by decide) : Ran s v c := by
  have hcar : v.car c = u.car c := by
    have := k.cmd hp
    cases c <;> simp [State.car, this]
  exact ⟨k.canonical, by rw [hcar, h.tx], by rw [hcar, h.held], by rw [k.link hk, h.outbox],
    (k.get _ hl).trans h.lines, (k.get _ he).trans h.errors⟩

/-- The carrier's record is replaced but for its transmitter. -/
theorem Ran.setCar (h : Ran s u c) {x : CarrierSt} (ht : x.tx = (u.car c).tx) (hx : x.held = none) : Ran s (u.setCar c x) c := by
  obtain ⟨hr, he⟩ := State.setCar_rest (s := u) (c := c) x
  refine ⟨State.setCar_canonical h.canonical x, ?_, ?_, ?_, (State.get_of_regs hr _).trans h.lines, (State.get_of_regs hr _).trans h.errors⟩
  · rw [State.setCar_car h.canonical, ht, h.tx]
  · rw [State.setCar_car h.canonical, hx]
  · rw [he]
    exact h.outbox

/-! ### The response -/

/-- The response to a line is handed out: it stands last, an error is counted, and what else has changed is the carrier. -/
structure Sent (s t : State) (c : Carrier) (l : LineForm) (r : Resp) : Prop where
  sent : SentLast s t c (r.packet c 0#8 l)
  held : (t.car c).held = none
  errors : t.get F.CMD_LINES_ERRORS = min (s.get F.CMD_LINES_ERRORS + b2n (decide (r.code ≠ 0))) 65535
  only : OnlyLineAnd s t [F.CMD_LINES_ERRORS]

/-- One more error is counted. -/
theorem State.countError_changes (hc : s.canonical = true) :
    Changes [F.CMD_LINES_ERRORS.zone] [] s (s.bump F.CMD_LINES_ERRORS 1) := (Changes.refl hc).bump

/-- A field that lies apart from those that may change. -/
theorem RegsBut.get {fs : List Fld} (h : RegsBut s t fs) (g : Fld)
    (hg : ∀ f ∈ fs, f.addr = g.addr → f.hi < g.lo ∨ g.hi < f.lo := by decide) : t.get g = s.get g := by
  refine bitsOf_congr fun i hl hh => h g.addr i fun f hf ha => ?_
  have := hg f hf ha
  omega

theorem State.send_sent (hc : s.canonical = true) (hh : (s.car c).held = none) (r : Resp) : Sent s (s.send c 0#8 l r) c l r := by
  by_cases hr : r.code = 0
  · have he : s.send c 0#8 l r = s.emit c (r.packet c 0#8 l) := by simp [State.send, hr, State.owes, hh]
    obtain ⟨hsent, hheld, hregs, hseq, hrest⟩ := State.emit_emitted s c (r.packet c 0#8 l)
    rw [he]
    refine ⟨hsent, hheld.trans hh, ?_, .of_regs hregs, hseq, hrest⟩
    rw [State.get_of_regs hregs, hr]
    exact (Nat.min_eq_left (Nat.le_of_lt_succ (Nat.mod_lt _ (by decide)))).symm
  · have hcar : (s.bump F.CMD_LINES_ERRORS 1).car c = s.car c := by cases c <;> rfl
    have he : s.send c 0#8 l r = (s.bump F.CMD_LINES_ERRORS 1).emit c (r.packet c 0#8 l) := by
      simp [State.send, hr, State.owes, hcar, hh]
    obtain ⟨hsent, hheld, hregs, hseq, hrest⟩ := State.emit_emitted (s.bump F.CMD_LINES_ERRORS 1) c (r.packet c 0#8 l)
    rw [he]
    refine ⟨?_, (hheld.trans (congrArg _ hcar)).trans hh, ?_, (State.countError_changes hc).regsBut.trans (.of_regs hregs), fun q hq => hseq q hq, hrest⟩
    · cases c <;> exact hsent
    · rw [State.get_of_regs hregs, State.bump_get hc]
      simp only [b2n, ne_eq, hr, not_false_eq_true, decide_true, if_true]
      rfl

/-- A response that neither waits nor is owed later. -/
def Resp.plain : Resp → Bool
  | .defer _ => false
  | .later _ => false
  | _ => true

theorem State.conclude_sent (hc : s.canonical = true) (hh : (s.car c).held = none) {r : Resp} (hr : r.plain = true) :
    Sent s (s.conclude c 0#8 l r) c l r := by
  cases r with
  | defer d => exact absurd hr Bool.false_ne_true
  | later w => exact absurd hr Bool.false_ne_true
  | ok w => exact State.send_sent hc hh _
  | err k w => exact State.send_sent hc hh _
  | data w => exact State.send_sent hc hh _

theorem SentLast.responded {r : Resp} (h : SentLast s t c (r.packet c 0#8 l)) (hh : (t.car c).held = none)
    (he : t.get F.CMD_LINES_ERRORS = min (s.get F.CMD_LINES_ERRORS + b2n (decide (r.code ≠ 0))) 65535) : Responded s t c l r := by
  refine ⟨?_, hh, he⟩
  cases c <;> exact h

theorem Sent.responded {r : Resp} (h : Sent s t c l r) : Responded s t c l r := h.sent.responded h.held h.errors

/-- What is sent after a command has run answers its line. -/
theorem Sent.answered {r : Resp} (h : Sent u t c l r) (k : Ran s u c) : Answered s t c l r := by
  have hlines : t.get F.CMD_LINES_LINES = u.get F.CMD_LINES_LINES := by
    obtain ⟨hr, -, -⟩ := h.only
    exact hr.get _
  refine ⟨SentLast.responded ?_ h.held (by rw [h.errors, k.errors]), hlines.trans k.lines⟩
  have hs := h.sent
  have htx := k.tx
  have hout := k.outbox
  cases c with
  | tunnel n => exact (show t.link.outbox = _ from hs).trans (by rw [hout])
  | uart | optical => exact (show _ = _ from hs).trans (by rw [htx])

/-! ### A line that runs at once -/

/-- A line that runs at once concludes with what its command gives on top of the state that the line enters. -/
theorem State.row_runs (hc : s.canonical = true) (hl : s.lineRuns c l = true) (o : Op) :
    s.row c l o = (o.run (s.onLine c o.keep)).2.conclude c 0#8 l (o.run (s.onLine c o.keep)).1 := by
  obtain ⟨htick, hline, hheld, hcrc⟩ := State.lineRuns_iff.mp hl
  have hline1 : (s.enterLine c).lineOk c = true := by cases c <;> exact hline
  have hcrc0 : (s.enterLine c).reqCrc c = s.reqCrc c := by cases c <;> rfl
  have hheld1 : (s.onLine c o.keep).isHeld c = false := by rw [State.isHeld, State.onLine_held hc, hheld]
  have hstage : (s.onLine c o.keep).pow.stage ≠ .recovery := by
    have he : (s.onLine c o.keep).pow = s.pow := by cases o.keep <;> cases c <;> rfl
    rw [he, of_decide_eq_true htick]
    decide
  obtain ⟨keep, boot, f⟩ := o
  have hcrc1 (t : State) (ht : t.reqCrc c = s.reqCrc c) : ¬ (t.reqCrc c = true ∧ l.crc = false) := by
    rw [ht]
    rcases hcrc with h | h <;> simp [h]
  cases keep with
  | false =>
    have ho : ((s.enterLine c).dropKeyBuf c).bump F.CMD_LINES_LINES 1 = s.onLine c false := rfl
    have hd : ((s.enterLine c).dropKeyBuf c).reqCrc c = s.reqCrc c := by cases c <;> rfl
    simp [State.row, State.runOp, State.answer, hline1, hcrc1 _ hd, ho, hheld1, hstage]
  | true =>
    have ho : (s.enterLine c).bump F.CMD_LINES_LINES 1 = s.onLine c true := rfl
    simp [State.row, State.runOp, State.answer, hline1, hcrc1 _ hcrc0, ho, hheld1, hstage]

/-- Its response answers the line, and beside it nothing has changed since its command ran. -/
theorem State.row_answered {o : Op} {r : Resp} (hc : s.canonical = true) (hl : s.lineRuns c l = true)
    (ho : o.run (s.onLine c o.keep) = (r, u)) (hr : r.plain = true) (hk : Ran s u c) :
    Answered s (s.row c l o) c l r ∧ OnlyLineAnd u (s.row c l o) [F.CMD_LINES_ERRORS] := by
  have h := State.conclude_sent (l := l) hk.canonical hk.held hr
  rw [State.row_runs hc hl, ho]
  exact ⟨h.answered hk, h.only⟩

/-- The same where its command changes nothing itself. -/
theorem State.row_answered_only {o : Op} {r : Resp} (hc : s.canonical = true) (hl : s.lineRuns c l = true)
    (ho : o.run (s.onLine c o.keep) = (r, s.onLine c o.keep)) (hr : r.plain = true) :
    Answered s (s.row c l o) c l r ∧ OnlyLine s (s.row c l o) := by
  obtain ⟨ha, h⟩ := State.row_answered hc hl ho hr (.of_onLine hc hl _)
  obtain ⟨hregs, hseq, hrest⟩ := h
  exact ⟨ha, (State.onLine_onlyLine hc _).trans ⟨hregs.mono (by decide), hseq, hrest⟩⟩

/-- Its deferred response holds the carrier, and beside that nothing has changed since its command ran. -/
theorem State.row_deferring {o : Op} {d : Deferred} (hc : s.canonical = true) (hl : s.lineRuns c l = true)
    (ho : o.run (s.onLine c o.keep) = (.defer d, u)) (hk : Ran s u c) :
    Deferring s (s.row c l o) c l d ∧ (s.row c l o).regs = u.regs
      ∧ s.row c l o = { u with cmd := (s.row c l o).cmd } ∧ (s.row c l o).cmd.keyBuf = u.cmd.keyBuf := by
  rw [State.row_runs hc hl, ho]
  obtain ⟨hr, he⟩ := State.setCar_rest (s := u) (c := c) { u.car c with held := some (d, l), invoke := 0#8 }
  have hcar := State.setCar_car (c := c) hk.canonical { u.car c with held := some (d, l), invoke := 0#8 }
  refine ⟨⟨congrArg _ hcar, (congrArg _ hcar).trans hk.tx, ?_, (State.get_of_regs hr _).trans hk.lines⟩, hr, he, ?_⟩
  · exact (congrArg (fun t : State => t.link.outbox) he).trans hk.outbox
  · cases c <;> rfl

end

end Sys2Proof.Machine
end

section
set_option Elab.async false
/-! PROOF. Lines that are refused, and commands without right (Machine/Carriers.lean, Machine/Command.lean; R129, R131, R142 to R145). -/

namespace Sys2Proof.Machine

section
variable {s t u : State} {c : Carrier} {l : LineForm}

/-! ### A line that is not executed -/

/-- The state in which a line enters whose CRC is missing. -/
def State.lineEntered (s : State) (c : Carrier) : State := (s.enterLine c).dropKeyBuf c

theorem State.lineEntered_spec (hc : s.canonical = true) : (s.lineEntered c).canonical = true
    ∧ ((s.lineEntered c).car c).tx = (s.car c).tx ∧ ((s.lineEntered c).car c).held = (s.car c).held
    ∧ (s.lineEntered c).regs = s.regs ∧ s.lineEntered c = { s with cmd := (s.lineEntered c).cmd } := by
  obtain ⟨r, hr⟩ := State.car_enterLine (c := c) hc
  have he : (s.lineEntered c).car c = (s.enterLine c).car c := by cases c <;> rfl
  exact ⟨State.enterLine_canonical (c := c) hc, by rw [he, hr], by rw [he, hr], by cases c <;> rfl, by cases c <;> rfl⟩

theorem State.status_noCrc (hline : s.lineOk c = true) (hq : s.reqCrc c = true) (hl : l.crc = false) :
    s.row c l (opStatus c) = (s.lineEntered c).send c 0#8 l (errResp 5) := by
  have hline1 : (s.enterLine c).lineOk c = true := by cases c <;> exact hline
  have hq1 : ((s.enterLine c).dropKeyBuf c).reqCrc c = true := by cases c <;> exact hq
  simp [State.row, State.runOp, State.answer, opStatus, hline1, hq1, hl, State.lineEntered]

/-- A line without the CRC that its carrier requires is answered E05 and not counted. -/
theorem runs_status_noCrc (hc : s.canonical = true) (hline : s.lineOk c = true) (ho : s.owes c = false) (hq : s.reqCrc c = true)
    (hl : l.crc = false) : Runs (.status c l) s fun t => Responded s t c l (errResp 5)
      ∧ t.get F.CMD_LINES_LINES = s.get F.CMD_LINES_LINES ∧ OnlyLine s t := by
  obtain ⟨hcan, htx, hheld, hregs, hrest⟩ := State.lineEntered_spec (c := c) hc
  have hh : (s.car c).held = none := by simpa [State.owes] using ho
  have h := State.send_sent (l := l) hcan (hheld.trans hh) (errResp 5)
  refine ⟨_, rfl, ?_⟩
  rw [State.status_noCrc hline hq hl]
  obtain ⟨hr, hseq, hr2⟩ := h.only
  refine ⟨SentLast.responded ?_ h.held ?_, (hr.get _).trans (State.get_of_regs hregs _), ?_⟩
  · have hs := h.sent
    cases c with
    | tunnel n => exact (show _ = _ from hs).trans (by rw [hrest])
    | uart | optical => exact (show _ = _ from hs).trans (by rw [htx])
  · rw [h.errors, State.get_of_regs hregs]
  · refine OnlyLineAnd.trans (t := s.lineEntered c) ⟨.of_regs hregs, fun _ _ => ?_, ?_⟩ ⟨hr.mono (by decide), hseq, hr2⟩
    · rw [hrest]
    · rw [hrest]

theorem State.status_behind {d : Deferred} {k : LineForm} (hc : s.canonical = true) (hline : s.lineOk c = true)
    (hh : (s.car c).held = some (d, k)) (hd : d ≠ .token) (hq : s.reqCrc c = false) :
    s.row c l (opStatus c) = (s.onLine c false).send c 0#8 l (errResp 4) := by
  have hline1 : (s.enterLine c).lineOk c = true := by cases c <;> exact hline
  have hq1 : ((s.enterLine c).dropKeyBuf c).reqCrc c = false := by cases c <;> exact hq
  have hheld1 : (s.onLine c false).isHeld c = true := by rw [State.isHeld, State.onLine_held hc, hh]; simpa using hd
  have ho : ((s.enterLine c).dropKeyBuf c).bump F.CMD_LINES_LINES 1 = s.onLine c false := rfl
  simp [State.row, State.runOp, State.answer, opStatus, hline1, hq1, ho, hheld1]

/-- A response that waits behind the one owed. -/
def CarrierSt.behind (x : CarrierSt) (b : List Byte) : CarrierSt := { x with after := x.after ++ [b] }

/-- On top of the state that a line enters, an error behind the response that is owed. -/
def State.errorBehind (s : State) (c : Carrier) (b : List Byte) : State :=
  (s.bump F.CMD_LINES_ERRORS 1).setCar c ((s.car c).behind b)

theorem State.errorBehind_only (hc : s.canonical = true) (b : List Byte) : OnlyLineAnd s (s.errorBehind c b) [F.CMD_LINES_ERRORS] := by
  obtain ⟨hregs, hrest⟩ := State.setCar_rest (s := s.bump F.CMD_LINES_ERRORS 1) (c := c) ((s.car c).behind b)
  refine ⟨(State.countError_changes hc).regsBut.trans (.of_regs hregs), fun _ _ => ?_, ?_⟩
  · cases c <;> rfl
  · cases c <;> rfl

theorem State.send_behind {r : Resp} (ho : s.owes c = true) (hr : r.code ≠ 0) :
    s.send c 0#8 l r = s.errorBehind c (r.packet c 0#8 l) := by
  have hcar : (s.bump F.CMD_LINES_ERRORS 1).car c = s.car c := by cases c <;> rfl
  have howes : (s.bump F.CMD_LINES_ERRORS 1).owes c = true := by rw [State.owes, hcar]; exact ho
  simp [State.send, hr, howes, hcar, State.errorBehind, CarrierSt.behind]

/-- A line that comes while a response is owed is answered E04 behind it. -/
theorem runs_status_behind {d : Deferred} {k : LineForm} (hc : s.canonical = true) (hline : s.lineOk c = true)
    (hh : (s.car c).held = some (d, k)) (hd : d ≠ .token) (hq : s.reqCrc c = false) :
    Runs (.status c l) s fun t => (t.car c).held = some (d, k) ∧ (t.car c).tx = (s.car c).tx
      ∧ (t.car c).after = (s.car c).after ++ [(errResp 4).packet c 0#8 l] ∧ OnlyLine s t := by
  have hc1 := State.onLine_canonical (c := c) hc false
  have hheld : ((s.onLine c false).car c).held = some (d, k) := (State.onLine_held hc false).trans hh
  have hafter : ((s.onLine c false).car c).after = (s.car c).after := by
    obtain ⟨r, hr⟩ := State.car_enterLine (c := c) hc
    have he : ((s.onLine c false).car c).after = ((s.enterLine c).car c).after := by cases c <;> rfl
    rw [he, hr]
  have hset : ((s.onLine c false).errorBehind c ((errResp 4).packet c 0#8 l)).car c
      = ((s.onLine c false).car c).behind ((errResp 4).packet c 0#8 l) :=
    State.setCar_car (State.countError_changes hc1).canonical _
  refine ⟨_, rfl, ?_⟩
  rw [State.status_behind hc hline hh hd hq, State.send_behind (by simp [State.owes, hheld]) (by decide)]
  obtain ⟨hr, hseq, hrest⟩ := State.errorBehind_only (c := c) hc1 ((errResp 4).packet c 0#8 l)
  refine ⟨?_, ?_, ?_, (State.onLine_onlyLine hc false).trans ⟨hr.mono (by decide), hseq, hrest⟩⟩
  · rw [hset]
    exact hheld
  · rw [hset]
    exact State.onLine_tx hc false
  · rw [hset, ← hafter]
    rfl

/-! ### A command without right -/

/-- A command that completes with OK and without effect. -/
theorem State.row_noEffect {o : Op} (hc : s.canonical = true) (hl : s.lineRuns c l = true)
    (ho : o.run (s.onLine c o.keep) = (okResp, s.onLine c o.keep)) :
    Answered s (s.row c l o) c l okResp ∧ OnlyLine s (s.row c l o) := State.row_answered_only hc hl ho rfl

end

/-- Settles O35: a line refused by its form or behind a response that is owed, and commands of a session below Installer. -/
theorem linesRefusedOrWithoutRight : Obligations.LinesRefusedOrWithoutRight := by
  intro c l s hc _ hline
  refine ⟨?noCrc, ?behind, ?noRight⟩
  case noCrc => exact fun ho hq hl => runs_status_noCrc hc hline ho hq hl
  case behind => exact fun d k hh hd hq => runs_status_behind hc hline hh hd hq
  case noRight =>
    intro hl hr path count mp
    refine ⟨⟨_, rfl, State.row_noEffect hc hl ?_⟩, ⟨_, rfl, State.row_noEffect hc hl ?_⟩, ⟨_, rfl, State.row_noEffect hc hl ?_⟩,
      ⟨_, rfl, State.row_noEffect hc hl ?_⟩, ⟨_, rfl, State.row_noEffect hc hl ?_⟩, ⟨_, rfl, State.row_noEffect hc hl ?_⟩,
      ⟨_, rfl, State.row_noEffect hc hl ?_⟩⟩
    · exact if_pos (.inl hr)
    · exact if_pos (.inl hr)
    · exact if_pos hr
    · exact if_pos hr
    · exact if_pos hr
    · exact if_pos hr
    · exact if_pos hr

end Sys2Proof.Machine
end

section
set_option Elab.async false
/-! PROOF. Sessions that log in and out (Machine/Command.lean; R142 to R145). -/

namespace Sys2Proof.Machine

section
variable {s t u v : State} {c : Carrier} {l : LineForm}

/-! ### What a response leaves of the carrier -/

/-- Beside what it is to send a carrier's record is the same, and so are the buffers of KEY LOAD. -/
structure SessionKept (s t : State) (c : Carrier) : Prop where
  role : (t.car c).role = (s.car c).role
  fails : (t.car c).fails = (s.car c).fails
  lockEnd : (t.car c).lockEnd = (s.car c).lockEnd
  chal : (t.car c).chal = (s.car c).chal
  keyBuf : t.cmd.keyBuf = s.cmd.keyBuf

theorem SessionKept.of_car (h : t.car c = s.car c) (hk : t.cmd.keyBuf = s.cmd.keyBuf) : SessionKept s t c :=
  ⟨by rw [h], by rw [h], by rw [h], by rw [h], hk⟩

theorem SessionKept.trans (h : SessionKept s t c) (k : SessionKept t u c) : SessionKept s u c :=
  ⟨k.role.trans h.role, k.fails.trans h.fails, k.lockEnd.trans h.lockEnd, k.chal.trans h.chal, k.keyBuf.trans h.keyBuf⟩

theorem State.emit_session (s : State) (c : Carrier) (b : List Byte) : SessionKept s (s.emit c b) c := by
  cases hcar : c with
  | tunnel n => exact ⟨rfl, rfl, rfl, rfl, rfl⟩
  | uart | optical =>
    obtain ⟨h, t, ht, he⟩ := State.emit_serial (s := s) (c := c) (b := b) (by simp [hcar])
    rw [hcar] at he
    rw [he]
    rcases ht with rfl | rfl <;> exact ⟨rfl, rfl, rfl, rfl, rfl⟩

theorem State.send_session (hh : (s.car c).held = none) (r : Resp) : SessionKept s (s.send c 0#8 l r) c := by
  have hb : SessionKept s (s.bump F.CMD_LINES_ERRORS 1) c := .of_car (by cases c <;> rfl) rfl
  have hcar : (s.bump F.CMD_LINES_ERRORS 1).car c = s.car c := by cases c <;> rfl
  unfold State.send
  by_cases hr : r.code = 0
  · simp only [hr, if_true, State.owes, hh, Option.isSome_none, Bool.false_eq_true, if_false]
    exact State.emit_session s c _
  · simp only [hr, if_false, State.owes, hcar, hh, Option.isSome_none, Bool.false_eq_true]
    exact hb.trans (State.emit_session _ c _)

theorem State.row_session {o : Op} {r : Resp} (hc : s.canonical = true) (hl : s.lineRuns c l = true)
    (ho : o.run (s.onLine c o.keep) = (r, u)) (hr : r.plain = true) (hk : Ran s u c) : SessionKept u (s.row c l o) c := by
  rw [State.row_runs hc hl, ho]
  cases r with
  | defer d => exact absurd hr Bool.false_ne_true
  | later w => exact absurd hr Bool.false_ne_true
  | ok w => exact State.send_session hk.held _
  | err k w => exact State.send_session hk.held _
  | data w => exact State.send_session hk.held _

/-- Beside the registers of CMD_LINES, only carriers have changed when a command that changes its session alone is answered. -/
theorem State.row_onlyLine {o : Op} {r : Resp} (hc : s.canonical = true) (hl : s.lineRuns c l = true)
    (ho : o.run (s.onLine c o.keep) = (r, u)) (hr : r.plain = true) (hk : Ran s u c)
    (hu : u = { s.onLine c o.keep with cmd := u.cmd }) : OnlyLine s (s.row c l o) := by
  obtain ⟨-, hregs, hseq, hrest⟩ := State.row_answered hc hl ho hr hk
  refine ((State.onLine_onlyLine hc o.keep).trans (t := s.onLine c o.keep) (u := u) ⟨.of_regs ?_, fun _ _ => ?_, ?_⟩).trans
    ⟨hregs.mono (by decide), hseq, hrest⟩
  · rw [hu]
  · rw [hu]
  · rw [hu]

/-- A line that a carrier with a receiver delivers leaves its session as it is, but for the KEY LOAD buffer. -/
theorem State.onLine_car (hr : hasReceiver c = true) (keep : Bool) : (s.onLine c keep).car c = s.car c := by
  cases c with
  | tunnel n => exact absurd hr Bool.false_ne_true
  | uart | optical => cases keep <;> rfl

theorem State.onLine_parts (keep : Bool) :
    (s.onLine c keep).keys = s.keys ∧ (s.onLine c keep).uptime = s.uptime ∧ (s.onLine c keep).free = s.free := by
  cases keep <;> cases c <;> exact ⟨rfl, rfl, rfl⟩

/-! ### Passwords -/

/-- LOGIN is locked on the carrier. -/
def State.LoginLocked (s : State) (c : Carrier) : Prop := ∃ t0, (s.car c).lockEnd = some t0 ∧ s.uptime < t0

theorem State.aclLogin_locked {r : Role} {secret : Option Text} (hk : s.LoginLocked c) : s.aclLogin c r secret = (okResp, s) := by
  obtain ⟨t0, h0, hlt⟩ := hk
  simp [State.aclLogin, h0, hlt]

theorem State.aclLogin_noReceiver {r : Role} {secret : Option Text} (hr : hasReceiver c = false) :
    s.aclLogin c r secret = (okResp, s) := by
  simp [State.aclLogin, hr]

theorem State.lockEnd_of_open (hk : ¬ s.LoginLocked c) : (s.car c).lockEnd = none ∨ ∃ t0, (s.car c).lockEnd = some t0 ∧ ¬ s.uptime < t0 := by
  cases h : (s.car c).lockEnd with
  | none => exact .inl rfl
  | some t0 => exact .inr ⟨t0, rfl, fun hlt => hk ⟨t0, h, hlt⟩⟩

/-- A LOGIN with a password on a carrier whose LOGIN is not locked. -/
theorem State.aclLogin_password {r : Role} {pw : Text} (hr : hasReceiver c = true) (hk : ¬ s.LoginLocked c)
    (hs : r = .reader ∨ r = .installer) : s.aclLogin c r (some pw) = (okResp, s.loginPassword c r (some pw)) := by
  rcases State.lockEnd_of_open hk with h | ⟨t0, h, hlt⟩
  · rcases hs with rfl | rfl <;> simp [State.aclLogin, hr, h]
  · rcases hs with rfl | rfl <;> simp [State.aclLogin, hr, h, hlt]

/-- The carrier waits for the response to a challenge. -/
def State.challenged (s : State) (c : Carrier) (r : Role) (v : Nat) : State :=
  s.setCar c { s.car c with chal := some ⟨r, v, s.uptime⟩ }

/-- A LOGIN without a secret gives a challenge, the next free value. -/
theorem State.aclLogin_challenge {r : Role} (hr : hasReceiver c = true) (hk : ¬ s.LoginLocked c)
    (hs : r = .utility ∨ r = .manufacturer) (hf : s.keys.rngOff = false) : s.aclLogin c r none
      = (.ok (hexN 16 (s.draw (2 ^ 64)).1), (s.draw (2 ^ 64)).2.challenged c r (s.draw (2 ^ 64)).1) := by
  rcases State.lockEnd_of_open hk with h | ⟨t0, h, hlt⟩
  · rcases hs with rfl | rfl <;> simp [State.aclLogin, hr, h, hf, State.challenged]
  · rcases hs with rfl | rfl <;> simp [State.aclLogin, hr, h, hlt, hf, State.challenged]

theorem State.loginPassword_right {r : Role} {pw : Text} {d : List Byte} (hd : s.keys.pw.getD (roleRank r - 1) none = some d)
    (hp : passwordOk pw = true ∧ passwordDigest pw = d) : s.loginPassword c r (some pw) = s.loginOk c r := by
  simp only [State.loginPassword, hd, hp, and_self, if_true]

theorem State.loginPassword_wrong {r : Role} {pw : Text} {d : List Byte} (hd : s.keys.pw.getD (roleRank r - 1) none = some d)
    (hp : ¬ (passwordOk pw = true ∧ passwordDigest pw = d)) : s.loginPassword c r (some pw) = s.loginFail c := by
  simp only [State.loginPassword, hd, hp, if_false]

/-! ### Attempts that fail -/

/-- The registers that may differ once a line is answered, beside CMD_LINES those that its command changed. -/
theorem State.row_regsBut {o : Op} {r : Resp} {fs : List Fld} (hc : s.canonical = true) (hl : s.lineRuns c l = true)
    (ho : o.run (s.onLine c o.keep) = (r, u)) (hr : r.plain = true) (hk : Ran s u c) (hu : RegsBut (s.onLine c o.keep) u fs) :
    RegsBut s (s.row c l o) (wholeReg F.CMD_LINES :: fs) := by
  obtain ⟨-, hregs, -, -⟩ := State.row_answered hc hl ho hr hk
  obtain ⟨hon, -, -⟩ := State.onLine_onlyLine (c := c) hc o.keep
  refine ((hon.mono fun f hf => ⟨f, by simp_all⟩).trans (hu.mono fun f hf => ⟨f, by simp_all⟩)).trans
    (hregs.mono fun f hf => ⟨wholeReg F.CMD_LINES, by simp, ?_⟩)
  rw [List.mem_singleton.mp hf]
  decide

/-- A failed attempt before the fifth in a row. -/
theorem State.loginFail_few (hx : (s.car c).fails < 4) :
    s.loginFail c = (s.bump F.CMD_AUTHFAIL_COUNT 1).setCar c { s.car c with fails := (s.car c).fails + 1 } := by
  have hcar : (s.bump F.CMD_AUTHFAIL_COUNT 1).car c = s.car c := by cases c <;> rfl
  simp only [State.loginFail, hcar]
  exact if_pos (by omega)

/-- The record of a carrier whose LOGIN the fifth failed attempt in a row locks at a time. -/
def CarrierSt.lockedAt (x : CarrierSt) (now : Nat) : CarrierSt := { x with fails := 0, lockEnd := some (now + secs 600) }

/-- The state that the fifth failed attempt in a row leaves, before the log has it. -/
def State.loginLock (s : State) (c : Carrier) : State :=
  ((s.bump F.CMD_AUTHFAIL_COUNT 1).setCar c ((s.car c).lockedAt s.uptime)).showLocks

theorem State.loginFail_fifth (hx : 4 ≤ (s.car c).fails) : s.loginFail c = (s.loginLock c).logTrouble 0x73 (carrierNum c) 0 := by
  have hcar : (s.bump F.CMD_AUTHFAIL_COUNT 1).car c = s.car c := by cases c <;> rfl
  simp only [State.loginFail, hcar]
  exact if_neg (by omega)

theorem State.countFail_changes (hc : s.canonical = true) :
    Changes [F.CMD_AUTHFAIL_COUNT.zone] [] s (s.bump F.CMD_AUTHFAIL_COUNT 1) := (Changes.refl hc).bump

/-- One entry more is numbered in the trouble log. -/
theorem State.logTrouble_number (hc : s.canonical = true) (code source data : Nat) :
    (s.logTrouble code source data).get F.LOG_TSEQ_SEQ = (s.get F.LOG_TSEQ_SEQ + 1) % 2 ^ 32 := by
  unfold State.logTrouble
  extract_lets -merge -underBinder n flags e slot s1 s2 s3
  have h1 : Changes logZones logParts s s1 := State.crsWrite_changes (State.moveToken_changes (.refl hc) _ _ _) _ _
  have h2 : Changes logZones logParts s s2 := State.moveToken_changes h1 _ _ _
  have h3 : Changes logZones logParts s s3 := .ite h2.bump h2
  have h4 : Changes [(F.SYS_RING_B_HEAD 7).zone] [] (s3.put F.LOG_TSEQ_SEQ (n + 1))
      ((s3.put F.LOG_TSEQ_SEQ (n + 1)).put (F.SYS_RING_B_HEAD 7) ((n + 1) / 8 % 128)) :=
    (Changes.refl (h3.put (f := F.LOG_TSEQ_SEQ)).canonical).put
  rw [h4.get F.LOG_TSEQ_SEQ, State.get_put_mod h3.canonical (by decide) (by decide)]
  rfl

theorem Changes.car {W : List Zone} {L : List Part} (h : Changes W L s t) (hp : Part.cmd ∉ L := by decide) : t.car c = s.car c := by
  have hcmd := h.cmd hp
  cases c <;> simp [State.car, hcmd]

/-- A failed attempt before the fifth in a row is counted, on the carrier and in CMD_AUTHFAIL. -/
theorem State.loginFail_counted (hc : s.canonical = true) (hx : (s.car c).fails < 4) :
    ((s.loginFail c).car c) = { s.car c with fails := (s.car c).fails + 1 } ∧ RegsBut s (s.loginFail c) [F.CMD_AUTHFAIL_COUNT]
      ∧ (s.loginFail c).get F.CMD_AUTHFAIL_COUNT = min (s.get F.CMD_AUTHFAIL_COUNT + 1) 65535
      ∧ (Ran u s c → Ran u (s.loginFail c) c) := by
  have hb := State.countFail_changes hc
  rw [State.loginFail_few hx]
  obtain ⟨hregs, -⟩ := State.setCar_rest (s := s.bump F.CMD_AUTHFAIL_COUNT 1) (c := c) { s.car c with fails := (s.car c).fails + 1 }
  refine ⟨State.setCar_car hb.canonical _, hb.regsBut.trans (.of_regs hregs), ?_, fun h => (h.next hb).setCar ?_ h.held⟩
  · rw [State.get_of_regs hregs]
    exact State.bump_get hc 1
  · rw [hb.car]

/-- The fifth locks LOGIN on the carrier, and the trouble log has it. -/
theorem State.loginFail_locks (hc : s.canonical = true) (hx : 4 ≤ (s.car c).fails) :
    ((s.loginFail c).car c) = (s.car c).lockedAt s.uptime
      ∧ (s.loginFail c).get F.LOG_TSEQ_SEQ = (s.get F.LOG_TSEQ_SEQ + 1) % 2 ^ 32 ∧ (Ran u s c → Ran u (s.loginFail c) c) := by
  have hb := State.countFail_changes hc
  have hs := State.setCar_canonical (c := c) hb.canonical ((s.car c).lockedAt s.uptime)
  have hshow := State.showLocks_changes hs
  have hlog := State.logTrouble_changes hshow.canonical 0x73 (carrierNum c) 0
  obtain ⟨hregs, -⟩ := State.setCar_rest (s := s.bump F.CMD_AUTHFAIL_COUNT 1) (c := c) ((s.car c).lockedAt s.uptime)
  rw [State.loginFail_fifth hx]
  refine ⟨?_, ?_, fun h => ?_⟩
  · exact hlog.car.trans (hshow.car.trans (State.setCar_car hb.canonical _))
  · refine (State.logTrouble_number hshow.canonical _ _ _).trans ?_
    exact congrArg (fun n => (n + 1) % 2 ^ 32) ((hshow.get F.LOG_TSEQ_SEQ).trans ((State.get_of_regs hregs _).trans (hb.get _)))
  · have hk := (h.next hb).setCar (x := (s.car c).lockedAt s.uptime) (by rw [hb.car, CarrierSt.lockedAt]) h.held
    exact (hk.next hshow).next hlog

/-! ### Challenges, LOGOUT and passwords -/

theorem State.draw_changes (hc : s.canonical = true) (n : Nat) : Changes [] [.free] s (s.draw n).2 := by
  have h : Changes [] [.free] s { s with free := s.free + 1 } := (Changes.refl hc).setFree
  exact h

theorem State.setPasswords_changes (hc : s.canonical = true) (x : Keys) : Changes [] [.keys] s { s with keys := x } :=
  (Changes.refl hc).setKeys

/-- LOGOUT ends the session and drops its KEY LOAD buffer. -/
theorem State.endSessionOn_spec (hc : s.canonical = true) :
    (s.endSessionOn c).car c = { s.car c with role := .publicRole, chal := none }
      ∧ (∀ b ∈ (s.endSessionOn c).cmd.keyBuf, b.1 ≠ c) ∧ s.endSessionOn c = { s with cmd := (s.endSessionOn c).cmd }
      ∧ (Ran u s c → Ran u (s.endSessionOn c) c) := by
  have hset := State.setCar_car (c := c) hc { s.car c with role := .publicRole, chal := none }
  have hcar : (s.endSessionOn c).car c = (s.setCar c { s.car c with role := .publicRole, chal := none }).car c := by cases c <;> rfl
  refine ⟨hcar.trans hset, fun b hb => ?_, by cases c <;> rfl, fun h => ?_⟩
  · have hn := (List.mem_filter.mp hb).2
    simpa [sameCarrier] using hn
  · obtain ⟨hcan, htx, hheld, hout, hlines, herr⟩ := h.setCar (x := { s.car c with role := .publicRole, chal := none }) rfl h.held
    exact ⟨hcan, (congrArg CarrierSt.tx hcar).trans htx, (congrArg CarrierSt.held hcar).trans hheld, hout, hlines, herr⟩

end

/-- Settles O37: what LOGIN with and without a password, LOGOUT and KEY PASSWORD leave of the session, and that each is answered. -/
theorem sessionsLogInAndOut : Obligations.SessionsLogInAndOut := by
  intro c l r pw d s hc hl x locked secret right
  have hc1 := State.onLine_canonical (c := c) hc false
  obtain ⟨hkeys, hup, -⟩ := State.onLine_parts (s := s) (c := c) false
  have hran := Ran.of_onLine hc hl false
  have hcar (hr : hasReceiver c = true) : (s.onLine c false).car c = x := State.onLine_car hr false
  have hlock (hr : hasReceiver c = true) : (s.onLine c false).LoginLocked c ↔ locked := by
    simp only [State.LoginLocked, hcar hr, hup, locked]
  have hpass (hr : hasReceiver c = true) (hk : ¬ locked) (hs : secret) := State.aclLogin_password (pw := pw) hr (mt (hlock hr).mp hk) hs
  refine ⟨?right, ?wrong, ?fifth, ?lockedOut, ?challenge, ?logout, ?tunnel, ?password⟩
  case right =>
    intro hr hk hs hd hp
    rw [← hkeys] at hd
    have ho := hpass hr hk hs
    rw [State.loginPassword_right hd hp] at ho
    have hu : Ran s ((s.onLine c false).loginOk c r) c := hran.setCar rfl hran.held
    obtain ⟨ha, -⟩ := State.row_answered hc hl (o := opLogin c r (some pw)) ho rfl hu
    have hk := State.row_session hc hl (o := opLogin c r (some pw)) ho rfl hu
    have hset : ((s.onLine c false).loginOk c r).car c = _ := State.setCar_car hc1 _
    refine ⟨_, rfl, ha, State.row_onlyLine hc hl (o := opLogin c r (some pw)) ho rfl hu (State.setCar_rest _).2, ?_, ?_, ?_⟩
    · rw [hk.role, hset]
    · rw [hk.fails, hset]
    · rw [hk.chal, hset]
  case wrong =>
    intro hr hk hs hd hp hx
    rw [← hkeys] at hd
    rw [← hcar hr] at hx ⊢
    have ho := hpass hr hk hs
    rw [State.loginPassword_wrong hd hp] at ho
    obtain ⟨hset, hregs, hcount, hnext⟩ := State.loginFail_counted (u := s) hc1 hx
    have hu := hnext hran
    obtain ⟨ha, hr1, -, -⟩ := State.row_answered hc hl (o := opLogin c r (some pw)) ho rfl hu
    obtain ⟨hon, -, -⟩ := State.onLine_onlyLine (c := c) hc false
    have hk := State.row_session hc hl (o := opLogin c r (some pw)) ho rfl hu
    refine ⟨_, rfl, ha, ?_, ?_, ?_, State.row_regsBut hc hl (o := opLogin c r (some pw)) ho rfl hu hregs⟩
    · rw [hk.role, hset]
    · rw [hk.fails, hset]
    · rw [← hon.get F.CMD_AUTHFAIL_COUNT]
      exact (hr1.get _).trans hcount
  case fifth =>
    intro hr hk hs hd hp hx
    rw [← hkeys] at hd
    rw [← hcar hr] at hx ⊢
    have ho := hpass hr hk hs
    rw [State.loginPassword_wrong hd hp] at ho
    obtain ⟨hset, hnumber, hnext⟩ := State.loginFail_locks (u := s) hc1 hx
    have hu := hnext hran
    obtain ⟨ha, hr1, -, -⟩ := State.row_answered hc hl (o := opLogin c r (some pw)) ho rfl hu
    obtain ⟨hon, -, -⟩ := State.onLine_onlyLine (c := c) hc false
    have hk := State.row_session hc hl (o := opLogin c r (some pw)) ho rfl hu
    refine ⟨_, rfl, ha, ?_, ?_, ?_, ?_⟩
    · rw [hk.role, hset]
      rfl
    · rw [hk.fails, hset]
      rfl
    · rw [hk.lockEnd, hset, CarrierSt.lockedAt, hup]
    · rw [← hon.get F.LOG_TSEQ_SEQ]
      exact (hr1.get _).trans hnumber
  case lockedOut =>
    intro hr hk
    have ho := State.aclLogin_locked (r := r) (secret := some pw) ((hlock hr).mpr hk)
    obtain ⟨ha, honly⟩ := State.row_answered_only hc hl (o := opLogin c r (some pw)) ho rfl
    have hs := State.row_session hc hl (o := opLogin c r (some pw)) ho rfl hran
    exact ⟨_, rfl, ha, honly, by rw [hs.role, hcar hr]⟩
  case challenge =>
    intro hr hk hs hf
    rw [← hkeys] at hf
    have ho := State.aclLogin_challenge hr (mt (hlock hr).mp hk) hs hf
    have hd := State.draw_changes hc1 (2 ^ 64)
    have hv : ((s.onLine c false).draw (2 ^ 64)).1 < 2 ^ 64 := Nat.mod_lt _ (by decide)
    generalize (s.onLine c false).draw (2 ^ 64) = p at ho hd hv
    obtain ⟨v, w⟩ := p
    have hu : Ran s (w.challenged c r v) c := (hran.next hd).setCar rfl (hran.next hd).held
    have hset : (w.challenged c r v).car c = { w.car c with chal := some ⟨r, v, w.uptime⟩ } := State.setCar_car hd.canonical _
    obtain ⟨hregs, -⟩ := State.setCar_rest (s := w) (c := c) { w.car c with chal := some ⟨r, v, w.uptime⟩ }
    obtain ⟨ha, -⟩ := State.row_answered hc hl (o := opLogin c r none) ho rfl hu
    have hk := State.row_session hc hl (o := opLogin c r none) ho rfl hu
    refine ⟨_, rfl, ⟨v, hv, ?_, ha⟩, ?_, State.row_regsBut hc hl (o := opLogin c r none) ho rfl hu
      (fs := []) (hd.regsBut.trans (.of_regs hregs))⟩
    · rw [hk.chal, hset, ← hup, hd.uptime]
    · have hw : w.car c = (s.onLine c false).car c := hd.car
      rw [hk.role, hset, ← hcar hr, ← hw]
  case logout =>
    intro hr
    have ho : (s.onLine c false).aclLogout c = (okResp, (s.onLine c false).endSessionOn c) := by simp [State.aclLogout, hr]
    obtain ⟨hset, hbuf, hrest, hnext⟩ := State.endSessionOn_spec (c := c) (u := s) hc1
    have hu := hnext hran
    obtain ⟨ha, -⟩ := State.row_answered hc hl (o := opLogout c) ho rfl hu
    have hk := State.row_session hc hl (o := opLogout c) ho rfl hu
    refine ⟨_, rfl, ha, State.row_onlyLine hc hl (o := opLogout c) ho rfl hu hrest, ?_, ?_, ?_⟩
    · rw [hk.role, hset]
    · rw [hk.chal, hset]
    · rw [hk.keyBuf]
      exact hbuf
  case tunnel =>
    intro hr
    have ho : (s.onLine c false).aclLogout c = (okResp, s.onLine c false) := by simp [State.aclLogout, hr]
    exact ⟨⟨_, rfl, State.row_answered_only hc hl (o := opLogin c r (some pw)) (State.aclLogin_noReceiver hr) rfl⟩,
      ⟨_, rfl, State.row_answered_only hc hl (o := opLogout c) ho rfl⟩⟩
  case password =>
    intro hs hrank hp
    have ho : (s.onLine c false).aclKeyPassword c r pw = (okResp, { s.onLine c false with
        keys := { (s.onLine c false).keys with
          pw := (s.onLine c false).keys.pw.set (roleRank r - 1) (some (passwordDigest pw)) } }) := by
      have hrole : ¬ ((r ≠ .reader ∧ r ≠ .installer) ∨ (!passwordOk pw) = true) := by
        rcases hs with rfl | rfl <;> simp [hp]
      exact (if_neg (Nat.not_lt.mpr hrank)).trans (if_neg hrole)
    have hd := State.setPasswords_changes hc1 { (s.onLine c false).keys with
          pw := (s.onLine c false).keys.pw.set (roleRank r - 1) (some (passwordDigest pw)) }
    have hu := hran.next hd
    obtain ⟨ha, -, -, hrest⟩ := State.row_answered hc hl (o := opKeyPassword c r pw) ho rfl hu
    refine ⟨_, rfl, ha, ?_, State.row_regsBut hc hl (o := opKeyPassword c r pw) ho rfl hu (fs := []) hd.regsBut⟩
    have hk := congrArg State.keys hrest
    rw [← hkeys]
    exact hk

end Sys2Proof.Machine
end

section
set_option Elab.async false
/-! PROOF. What the reading commands answer (Machine/Access.lean, Machine/Command.lean; R79, R132, R136, R140, R141, R146, R484, R486). -/

namespace Sys2Proof.Machine

section
variable {s t u : State} {c : Carrier} {l : LineForm} {a rank : Nat}

/-! ### Registers as a role reads them -/

/-- The ball's level shows in the registers of the general-purpose balls alone. -/
theorem State.senseGpio_other (ha : ∀ n : Fin 12, a ≠ F.MGMT_GPIO n.val) : s.senseGpio a = s := by
  unfold State.senseGpio
  extract_lets n
  refine if_neg fun ⟨hlo, hn, h4⟩ => ha ⟨n, hn⟩ ?_
  simp only [F.MGMT_GPIO, n] at *
  omega

/-- A read of a register that is not a ball's: the value in force, and the latch of FT_TICK_HI. -/
theorem State.readReg_view (ha : ∀ n : Fin 12, a ≠ F.MGMT_GPIO n.val) :
    s.readReg rank a false = (Nat.land (s.regView a).toNat (readMask rank a),
      if a = F.FT_TICK_LO ∧ 1 ≤ rank then s.put F.FT_TICK_HI_TICK (s.rm.tick / 2 ^ 32) else s) := by
  simp [State.readReg, State.senseGpio_other ha]

theorem State.readWord_of_reg {b : Block} {r : RegRow} {i j : Nat} (hv : viewOf a = (a, false)) (hr : regAt a = some (b, r, i, j)) :
    s.readWord rank a false = (some (s.readReg rank a false).1, (s.readReg rank a false).2) := by
  simp [State.readWord, hv, hr]

/-- GET of a register by its address. -/
theorem State.aclGet_reg {b : Block} {r : RegRow} {i j : Nat} (h4 : a % 4 = 0) (hv : viewOf a = (a, false))
    (hr : regAt a = some (b, r, i, j)) :
    s.aclGet rank (.addr a) false false none = (.ok (hexText 8 (s.readReg rank a false).1), (s.readReg rank a false).2) := by
  simp [State.aclGet, State.getAddr, h4, State.readWord_of_reg hv hr]

/-- What a register read leaves: FT_TICK_LO latches FT_TICK_HI. -/
def State.tickLatched (s : State) (rank a : Nat) : State :=
  if a = F.FT_TICK_LO ∧ 1 ≤ rank then s.put F.FT_TICK_HI_TICK (s.rm.tick / 2 ^ 32) else s

theorem State.tickLatched_changes (hc : s.canonical = true) (rank a : Nat) :
    Changes [F.FT_TICK_HI_TICK.zone] [] s (s.tickLatched rank a) := .ite (Changes.refl hc).put (.refl hc)

theorem State.tickLatched_rest (rank a : Nat) : s.tickLatched rank a = { s with regs := (s.tickLatched rank a).regs } := by
  unfold State.tickLatched
  split <;> rfl

theorem State.tickLatched_other (ha : a ≠ F.FT_TICK_LO) : s.tickLatched rank a = s := if_neg fun h => ha h.1

/-- SHOW of a register that is not a ball's. -/
theorem State.aclShow_reg {n : Text} {r : RegRow} (hn : named n = some (.reg a)) (hr : rowOf a = some r)
    (ha : ∀ n : Fin 12, a ≠ F.MGMT_GPIO n.val) : s.aclShow rank (.name n)
      = (.data (r.fields.map (fun f => txt f.name ++ [' '] ++ f.text (Nat.land (s.regView a).toNat (readMask rank a)))),
        s.tickLatched rank a) := by
  simp [State.aclShow, hn, hr, State.readReg_view ha, State.tickLatched]

theorem State.aclGet_unknown {n : Text} {pend raw : Bool} (hn : named n = none) :
    s.aclGet rank (.name n) pend raw none = (errResp 2, s) := by simp [State.aclGet, hn]

/-! ### The registers of the general-purpose balls -/

/-- A ball's level is in IN alone. -/
theorem State.senseGpio_changes (hc : s.canonical = true) (n : Nat) :
    Changes [(F.MGMT_GPIO_IN n).zone] [.free] s (s.senseGpio (F.MGMT_GPIO n)) := by
  have hn : (F.MGMT_GPIO n - F.MGMT_GPIO 0) / 4 = n := by simp only [F.MGMT_GPIO]; omega
  have hd : Changes [(F.MGMT_GPIO_IN n).zone] [.free] s (s.draw 2).2 := (State.draw_changes hc 2).mono (by simp)
  unfold State.senseGpio
  simp only [hn]
  exact .ite (.ite (hd.put (f := F.MGMT_GPIO_IN n) ⟨_, List.mem_singleton_self _, Fld.zone_covers _⟩)
    ((Changes.refl hc).clr (f := F.MGMT_GPIO_IN n) ⟨_, List.mem_singleton_self _, Fld.zone_covers _⟩)) (.refl hc)

/-- What tells a ball's register from those whose value a request sees otherwise. -/
def plainReg (a : Nat) : Bool := decide (a ≠ F.FT_PHASE ∧ a ≠ F.PWR_STATE ∧ a ≠ F.SYS_RING_B 6 ∧ a ≠ F.RADIO_STAT
  ∧ ¬ (F.RTC_RET 4 ≤ a ∧ a ≤ F.RTC_RET 7 ∨ F.DISP_BAL 0 ≤ a ∧ a ≤ F.DISP_BAL 71) ∧ a ≠ F.FT_TICK_LO)

theorem State.regView_plain (ha : plainReg a = true) : s.regView a = s.rd a := by
  simp only [plainReg, decide_eq_true_eq] at ha
  obtain ⟨h1, h2, h3, h4, h5, -⟩ := ha
  simp only [State.regView, h1, h2, h3, h4, h5, if_false]

theorem gpio_reg : ∀ n : Fin 12, plainReg (F.MGMT_GPIO n.val) = true ∧ F.MGMT_GPIO n.val % 4 = 0
    ∧ viewOf (F.MGMT_GPIO n.val) = (F.MGMT_GPIO n.val, false) ∧ (regAt (F.MGMT_GPIO n.val)).isSome = true
    ∧ (F.MGMT_GPIO_IN n.val).zone.apart F.CMD_LINES_LINES = true ∧ (F.MGMT_GPIO_IN n.val).zone.apart F.CMD_LINES_ERRORS = true
    ∧ ∀ f ∈ [F.CMD_LINES_ERRORS], f.addr ≠ F.MGMT_GPIO n.val := by
  decide +kernel

/-- GET of a ball's register shows its level. -/
theorem State.aclGet_gpio (n : Fin 12) : s.aclGet rank (.addr (F.MGMT_GPIO n.val)) false false none
    = (.ok (hexText 8 (Nat.land ((s.senseGpio (F.MGMT_GPIO n.val)).rd (F.MGMT_GPIO n.val)).toNat
        (readMask rank (F.MGMT_GPIO n.val)))), s.senseGpio (F.MGMT_GPIO n.val)) := by
  obtain ⟨hp, h4, hv, hr, -⟩ := gpio_reg n
  obtain ⟨x, hx⟩ := Option.isSome_iff_exists.mp hr
  have hlo : F.MGMT_GPIO n.val ≠ F.FT_TICK_LO := by
    simp only [plainReg, decide_eq_true_eq] at hp
    exact hp.2.2.2.2.2
  obtain ⟨b, r, i, j⟩ := x
  rw [State.aclGet_reg h4 hv hx]
  simp [State.readReg, State.regView_plain hp, hlo]

/-! ### The logs -/

theorem State.eccMeet_none (he : s.ecc = []) (a n : Nat) : s.eccMeet a n = s := by simp [State.eccMeet, he]

/-- The reads of the entries meet the errors of their words. -/
def State.logRead (s : State) (l : List Nat) : State := l.foldl (fun (t : State) k => t.eccMeet (troubleAddr k) 16) s

theorem State.logRead_changes (hc : s.canonical = true) (l : List Nat) : Changes eccZones safeParts s (s.logRead l) :=
  (Changes.refl hc).foldl fun _ k _ ht => ht.next (State.eccMeet_changes ht.canonical (troubleAddr k) 16)

theorem State.logRead_none (he : s.ecc = []) (l : List Nat) : s.logRead l = s := by
  induction l with
  | nil => rfl
  | cons k l ih => rwa [State.logRead, List.foldl_cons, State.eccMeet_none he]

theorem State.aclLog_trouble {first count : Option Nat} (hr : 2 ≤ s.rankOn c) (h1 : 1 ≤ count.getD 16) (h64 : count.getD 16 ≤ 64)
    (ht : s.taskEnabled 3 = true) : s.aclLog c false first count
      = (.data ((logNumbers (s.get F.LOG_TSEQ_SEQ) 1024 first (count.getD 16)).map s.troubleLine),
        s.logRead (logNumbers (s.get F.LOG_TSEQ_SEQ) 1024 first (count.getD 16))) := by
  have hn : ¬ (count.getD 16 = 0 ∨ 64 < count.getD 16) := by omega
  simp [State.aclLog, State.logRead, Nat.not_lt.mpr hr, hn, ht]

theorem State.aclLog_legal {first count : Option Nat} (hr : 1 ≤ s.rankOn c) (h1 : 1 ≤ count.getD 16) (h64 : count.getD 16 ≤ 64)
    (ht : s.taskEnabled 3 = true) : s.aclLog c true first count
      = (.data ((logNumbers (s.get F.LOG_LSEQ_SEQ) 512 first (count.getD 16)).map s.legalLine), s) := by
  have hn : ¬ (count.getD 16 = 0 ∨ 64 < count.getD 16) := by omega
  simp [State.aclLog, Nat.not_lt.mpr hr, hn, ht]

/-- A register that holds none of the fields that may change. -/
theorem RegsBut.rd {fs : List Fld} (h : RegsBut s t fs) {a : Nat} (ha : ∀ f ∈ fs, f.addr ≠ a := by decide) : t.rd a = s.rd a :=
  BitVec.eq_of_getLsbD_eq fun i _ => h a i fun f hf hfa => absurd hfa (ha f hf)

theorem FT_SCHED_ne_CMD_LINES {i : Nat} (hi : i < 64) : ∀ f ∈ [wholeReg F.CMD_LINES], f.addr ≠ F.FT_SCHED i := by
  intro f hf
  rw [List.mem_singleton.mp hf]
  simp only [wholeReg, F.CMD_LINES, F.FT_SCHED]
  omega

/-- The schedule in force is that of the state before the line. -/
theorem State.onLine_sched (hc : s.canonical = true) {i : Nat} (hi : i < 64) :
    (s.onLine c false).rd (F.FT_SCHED i) = s.rd (F.FT_SCHED i) := by
  obtain ⟨hr, -, -⟩ := State.onLine_onlyLine (c := c) hc false
  exact hr.rd (FT_SCHED_ne_CMD_LINES hi)

theorem State.onLine_taskEnabled (hc : s.canonical = true) (n : Nat) : (s.onLine c false).taskEnabled n = s.taskEnabled n := by
  have h : (s.onLine c false).schedWords = s.schedWords :=
    List.map_congr_left fun i hi => State.onLine_sched hc (List.mem_range.mp hi)
  rw [State.taskEnabled, State.taskEnabled, State.entries, State.entries, h]

/-- What the reading commands show of the memories is that of the state before the line. -/
theorem State.onLine_shown : (s.onLine c false).troubleLine = s.troubleLine ∧ (s.onLine c false).legalLine = s.legalLine
    ∧ (s.onLine c false).ecc = s.ecc ∧ (s.onLine c false).schedShadow = s.schedShadow := by
  cases c <;> exact ⟨rfl, rfl, rfl, rfl⟩

/-- SCHEDULE SHOW answers the table of the state before the line. -/
theorem State.aclScheduleShow_onLine (hc : s.canonical = true) {pend : Bool} (hr : 1 ≤ (s.onLine c false).rankOn c) :
    (s.onLine c false).aclScheduleShow c pend = (.data ((upToEnd ((List.range 64).map
      (fun i => (F.FT_SCHED i, (if pend then s.schedShadow i else s.rd (F.FT_SCHED i)).toNat)))).map wordLine), s.onLine c false) := by
  obtain ⟨-, -, -, hsh⟩ := State.onLine_shown (s := s) (c := c)
  have hl : (List.range 64).map (fun i => (F.FT_SCHED i,
        (if pend then (s.onLine c false).schedShadow i else (s.onLine c false).rd (F.FT_SCHED i)).toNat))
      = (List.range 64).map (fun i => (F.FT_SCHED i, (if pend then s.schedShadow i else s.rd (F.FT_SCHED i)).toNat)) :=
    List.map_congr_left fun i hi => by rw [hsh, State.onLine_sched hc (List.mem_range.mp hi)]
  unfold State.aclScheduleShow
  rw [if_neg (Nat.not_lt.mpr hr), hl]

end

/-- Settles O34: each reading command answers the value of its rule on the state that its line enters; beside the line itself only
the latch of FT_TICK_HI, a ball's IN and the errors met in ring 7 can differ. -/
theorem readingCommandsAnswer : Obligations.ReadingCommandsAnswer := by
  intro c l s hc hl s1 rank
  have hran := Ran.of_onLine hc hl false
  have hc1 : s1.canonical = true := hran.canonical
  obtain ⟨hon, -, -⟩ := State.onLine_onlyLine (c := c) hc false
  obtain ⟨htrouble, hlegal, hecc, -⟩ := State.onLine_shown (s := s) (c := c)
  refine ⟨?get, ?gpio, ?unknown, ?showReg, ?trouble, ?legal, ?status, ?help, ?schedule⟩
  case get =>
    intro a b r i j raw h4 hv hr hraw ha
    have ho := State.aclGet_reg (s := s1) (rank := rank) h4 hv hr
    rw [State.readReg_view ha] at ho
    have hlatch := State.tickLatched_changes hc1 rank a
    obtain ⟨hans, hregs, hseq, hrest⟩ := State.row_answered hc hl (o := opGet c (.addr a) false false none) ho rfl (hran.next hlatch)
    obtain ⟨hon, honSeq, honRest⟩ := State.onLine_onlyLine (c := c) hc false
    subst hraw
    refine ⟨_, rfl, hans, OnlyLineAnd.trans (t := s1) ⟨hon.mono (by decide), honSeq, honRest⟩
      (OnlyLineAnd.trans (t := s1.tickLatched rank a) ⟨(hlatch.regsBut (fs := [F.FT_TICK_HI_TICK])).mono (by decide), fun _ _ => ?_, ?_⟩
        ⟨hregs.mono (by decide), hseq, hrest⟩)⟩
    · rw [State.tickLatched_rest]
    · rw [State.tickLatched_rest]
  case gpio =>
    intro n
    obtain ⟨-, -, -, -, hlines, herr, hne⟩ := gpio_reg n
    have ho := State.aclGet_gpio (s := s1) (rank := rank) n
    have hsense := State.senseGpio_changes hc1 n.val
    have hu := hran.next hsense (by simpa using hlines) (by simpa using herr)
    obtain ⟨hans, hregs, -, -⟩ := State.row_answered hc hl (o := opGet c (.addr (F.MGMT_GPIO n.val)) false false none) ho rfl hu
    refine ⟨_, rfl, ?_, State.row_regsBut hc hl (o := opGet c (.addr (F.MGMT_GPIO n.val)) false false none) ho rfl hu
      (hsense.regsBut (by simp))⟩
    rw [hregs.rd hne]
    exact hans
  case unknown =>
    intro n pend raw hn
    exact ⟨_, rfl, State.row_answered_only hc hl (o := opGet c (.name n) pend raw none) (State.aclGet_unknown hn) rfl⟩
  case showReg =>
    intro n a r hn hr hlo ha
    have ho := State.aclShow_reg (s := s1) (rank := rank) hn hr ha
    rw [State.tickLatched_other hlo] at ho
    exact ⟨_, rfl, State.row_answered_only hc hl (o := opShow c (.name n)) ho rfl⟩
  case trouble =>
    intro first count hr h1 h64 ht
    rw [← State.onLine_taskEnabled hc] at ht
    have ho := State.aclLog_trouble (first := first) hr h1 h64 ht
    rw [htrouble, hon.get F.LOG_TSEQ_SEQ] at ho
    have hu := hran.next (State.logRead_changes hc1 (logNumbers (s.get F.LOG_TSEQ_SEQ) 1024 first (count.getD 16)))
    refine ⟨_, rfl, (State.row_answered hc hl (o := opLog c false first count) ho rfl hu).1, fun he => ?_⟩
    rw [State.logRead_none (hecc.trans he)] at ho
    exact (State.row_answered_only hc hl (o := opLog c false first count) ho rfl).2
  case legal =>
    intro first count hr h1 h64 ht
    rw [← State.onLine_taskEnabled hc] at ht
    have ho := State.aclLog_legal (first := first) hr h1 h64 ht
    rw [hlegal, hon.get F.LOG_LSEQ_SEQ] at ho
    exact ⟨_, rfl, State.row_answered_only hc hl (o := opLog c true first count) ho rfl⟩
  case status => exact ⟨_, rfl, State.row_answered_only hc hl (o := opStatus c) rfl rfl⟩
  case help => exact ⟨_, rfl, State.row_answered_only hc hl (o := opHelp none) rfl rfl⟩
  case schedule =>
    intro pend hr
    exact ⟨_, rfl, State.row_answered_only hc hl (o := opScheduleShow c pend) (State.aclScheduleShow_onLine hc hr) rfl⟩

end Sys2Proof.Machine
end

section
set_option Elab.async false
/-! PROOF. The cost that SCHEDULE COMMIT admits by (Machine/Ringmaster.lean, Machine/Command.lean; R30, R139). -/

namespace Sys2Proof.Machine

/-- The word of SENS_CTRL with the sensor block enabled and its six temperature inputs. -/
def sensingWord : Word := word (2 ^ 16 + 63)

/-- An Installer's session on the UART in the Service window, with the sensor block off but pending, and a shadow table of the CMD task
alone with a slice of 1 ms. -/
def sensingPending : State :=
  let s := runningWith [(F.CMD_UART_EN, 1), (F.FT_PHASE_PHASE, 2)]
  { s with
    shadow := [(F.SENS_CTRL, some sensingWord)]
    rm := { s.rm with phaseDone := true, schedShadow := [(0, 0x6423#32)] }
    cmd := { s.cmd with uart := { s.cmd.uart with role := .installer } } }

/-- The form of a line without a tag and without a CRC suffix. -/
def untagged : LineForm := ⟨[], false⟩

theorem sensingPending_cost : costOf sensingPending.pend (entriesOf (tableWords sensingPending.rm.schedShadow)) = 1220
    ∧ ∃ t, exec (.scheduleCommit .uart untagged) sensingPending = .next t ∧ t.get F.FT_ADMIT_COST = 800 :=
  ⟨by decide +kernel, _, rfl, by decide +kernel⟩

/-- Refutes O36: the statement takes the cost of a submitted table from the pending SENS_CTRL, while R30, and the model, take it from the
sensor block in force; here the block is off in force and would be the larger cost once its pending word is. -/
theorem not_changingCommandsAct : ¬ Obligations.ChangingCommandsAct := by
  unfold Obligations.ChangingCommandsAct
  intro h
  obtain ⟨-, -, -, -, -, hcommit, -⟩ := h .uart untagged sensingPending (by decide +kernel) (by decide +kernel) (by decide +kernel)
  obtain ⟨t, ht, -, -, hcost, -⟩ := hcommit (by decide +kernel) (by decide +kernel) (by decide +kernel)
  obtain ⟨hpending, v, hv, hforce⟩ := sensingPending_cost
  obtain rfl : t = v := Host.Outcome.next.inj (ht.symm.trans hv)
  exact absurd (hforce.symm.trans (hcost.trans hpending)) (by decide)

end Sys2Proof.Machine
end

section
set_option Elab.async false
/-! PROOF. Lines in link messages (Machine/Carriers.lean, Machine/Command.lean; R122, R358, R359). -/

namespace Sys2Proof.Machine

section
variable {s t u : State} {n : Fin 32} {sec : Bool} {inv : Byte} {form : LineForm} {line : List Byte}

/-! ### The form and the command of a line -/

/-- A line whose form is in order has the CRC suffix that its carrier requires. -/
theorem State.parseForm_crc {c : Carrier} {x : Text} {w : List Text} (h : s.parseForm c x = (0, form, w)) :
    ¬ (s.reqCrc c = true ∧ form.crc = false) := by
  unfold State.parseForm at h
  extract_lets bare at h
  split at h
  · cases h
  · cases h
  · rename_i body crc heq
    extract_lets form0 at h
    by_cases hq : s.reqCrc c = true ∧ crc = false
    · rw [if_pos hq] at h
      cases h
    · rw [if_neg hq] at h
      have hcrc : crc = form.crc := by
        split at h
        · split at h
          · cases h
          · exact congrArg (fun p => p.2.1.crc) h
        · exact congrArg (fun p => p.2.1.crc) h
      rwa [← hcrc]

theorem opOf_status (c : Carrier) (l : LineForm) : opOf c l [txt "STATUS"] = opStatus c := by
  have hu : upper (txt "STATUS") = txt "STATUS" := by decide
  have h1 : txt "STATUS" ≠ txt "CAPTURE" := by decide
  have h2 : txt "STATUS" ≠ txt "LOGOUT" := by decide
  have h3 : txt "STATUS" ≠ txt "COMMIT" := by decide
  have h4 : txt "STATUS" ≠ txt "RESET" := by decide
  simp only [opOf, bareOp, hu, h1, h2, h3, h4, if_false, if_true]

theorem opOf_reset (c : Carrier) (l : LineForm) : opOf c l [txt "RESET"] = opReset c := by
  have hu : upper (txt "RESET") = txt "RESET" := by decide
  have h1 : txt "RESET" ≠ txt "CAPTURE" := by decide
  have h2 : txt "RESET" ≠ txt "LOGOUT" := by decide
  have h3 : txt "RESET" ≠ txt "COMMIT" := by decide
  simp only [opOf, bareOp, hu, h1, h2, h3, if_false, if_true]

/-! ### A line of the tunnel -/

/-- The state in which the command of a tunnelled line runs. -/
def State.tunnelled (s : State) (n : Fin 32) (sec : Bool) : State :=
  ((s.enterTunnel n.val sec).dropKeyBuf (.tunnel n)).bump F.CMD_LINES_LINES 1

theorem State.enterTunnel_spec (hc : s.canonical = true) : (s.enterTunnel n.val sec).canonical = true
    ∧ ((s.enterTunnel n.val sec).car (.tunnel n)).role = s.linkRole n.val sec
    ∧ ((s.enterTunnel n.val sec).car (.tunnel n)).held = (s.car (.tunnel n)).held := by
  have he : s.enterTunnel n.val sec
      = s.setCar (.tunnel n) { s.car (.tunnel n) with role := s.linkRole n.val sec } := by
    simp only [State.enterTunnel, Fin.ofNat_val_eq_self]
  have hset := State.setCar_car (c := .tunnel n) hc { s.car (.tunnel n) with role := s.linkRole n.val sec }
  rw [he]
  exact ⟨State.setCar_canonical hc _, by rw [hset], by rw [hset]⟩

/-- The line is counted, and beside it the carriers alone have changed. -/
theorem State.tunnelled_spec (hc : s.canonical = true) : (s.tunnelled n sec).canonical = true
    ∧ ((s.tunnelled n sec).car (.tunnel n)).role = s.linkRole n.val sec
    ∧ ((s.tunnelled n sec).car (.tunnel n)).held = (s.car (.tunnel n)).held ∧ OnlyLine s (s.tunnelled n sec) := by
  obtain ⟨hcan, hrole, hheld⟩ := State.enterTunnel_spec (n := n) (sec := sec) hc
  have hcan1 : ((s.enterTunnel n.val sec).dropKeyBuf (.tunnel n)).canonical = true := hcan
  have h := (Changes.refl (W := [F.CMD_LINES_LINES.zone]) (L := []) hcan1).bump (f := F.CMD_LINES_LINES) (n := 1)
  exact ⟨h.canonical, hrole, hheld, (h.regsBut (fs := [F.CMD_LINES_LINES])).mono (by decide), fun _ _ => rfl, rfl⟩

/-- A response is handed to the link in a message. -/
theorem State.conclude_tunnel {r : Resp} (hh : (s.car (.tunnel n)).held = none) (hr : r.plain = true) (h0 : r.code = 0) :
    s.conclude (.tunnel n) inv form r = s.linkSend n.val ([0x84#8, inv, byte r.code] ++ r.bytes form) := by
  have hs : s.send (.tunnel n) inv form r = s.linkSend n.val ([0x84#8, inv, byte r.code] ++ r.bytes form) := by
    simp [State.send, h0, State.owes, hh, Resp.packet, State.emit]
  cases r with
  | defer d => exact absurd hr Bool.false_ne_true
  | later w => exact absurd hr Bool.false_ne_true
  | ok w => exact hs
  | err k w => exact hs
  | data w => exact hs

/-- A well-formed line of the tunnel runs its command, whose response is handed to the link. -/
theorem State.tunnelLine_runs {w : List Text} {r : Resp} (hc : s.canonical = true) (hline : s.lineOk (.tunnel n) = true)
    (htick : s.ticking = true) (hown : s.owes (.tunnel n) = false) (hne : line ≠ []) (hlen : line.length ≤ 255)
    (hb : line.all lineByte = true) (hp : (s.enterTunnel n.val sec).parseForm (.tunnel n) (bytesText line) = (0, form, w))
    (hkeep : (opOf (.tunnel n) form w).keep = false) (ho : (opOf (.tunnel n) form w).run (s.tunnelled n sec) = (r, u))
    (hu : (u.car (.tunnel n)).held = ((s.tunnelled n sec).car (.tunnel n)).held) (hr : r.plain = true) (h0 : r.code = 0) :
    s.tunnelLine n sec inv 0 line = u.linkSend n.val ([0x84#8, inv, byte r.code] ++ r.bytes form) := by
  obtain ⟨-, -, hheld, -⟩ := State.tunnelled_spec (n := n) (sec := sec) hc
  have hnone : (s.car (.tunnel n)).held = none := by simpa [State.owes] using hown
  have hh : ((s.tunnelled n sec).car (.tunnel n)).held = none := hheld.trans hnone
  have hline1 : (s.enterTunnel n.val sec).lineOk (.tunnel n) = true := hline
  have hcrc : ¬ (((s.enterTunnel n.val sec).dropKeyBuf (.tunnel n)).reqCrc (.tunnel n) = true ∧ form.crc = false) :=
    State.parseForm_crc hp
  have hisHeld : (s.tunnelled n sec).isHeld (.tunnel n) = false := by rw [State.isHeld, hh]
  have hstage : (s.tunnelled n sec).pow.stage ≠ .recovery := by
    have he : (s.tunnelled n sec).pow = s.pow := rfl
    rw [he, of_decide_eq_true htick]
    decide
  have ht : ((s.enterTunnel n.val sec).dropKeyBuf (.tunnel n)).bump F.CMD_LINES_LINES 1 = s.tunnelled n sec := rfl
  rw [State.tunnelLine, if_neg hne, if_pos ⟨hlen, hb⟩]
  simp only [State.runText, hline1, hp, State.runOp, State.answer, hkeep, Bool.not_true, Bool.false_eq_true, if_false, ne_eq,
    not_true_eq_false, Nat.zero_ne_one, OfNat.zero_ne_ofNat, hcrc, ht, hisHeld, hstage, false_and, ho]
  exact State.conclude_tunnel (hu.trans hh) hr h0

/-- A line that is too long is answered E01 in a message. -/
theorem State.tunnelLine_long (hc : s.canonical = true) (hline : s.lineOk (.tunnel n) = true) (hown : s.owes (.tunnel n) = false)
    (hlen : 255 < line.length) : OnlyLine s (s.tunnelLine n sec inv 0 line)
      ∧ ∃ f, (s.tunnelLine n sec inv 0 line).link.outbox = s.link.outbox ++ [(n.val, [0x84#8, inv, 1#8] ++ (errResp 1).bytes f)] := by
  obtain ⟨hcan, -, hheld⟩ := State.enterTunnel_spec (n := n) (sec := sec) hc
  have hcan1 : ((s.enterTunnel n.val sec).dropKeyBuf (.tunnel n)).canonical = true := hcan
  have hnone : (s.car (.tunnel n)).held = none := by simpa [State.owes] using hown
  have hh : (((s.enterTunnel n.val sec).dropKeyBuf (.tunnel n)).car (.tunnel n)).held = none := hheld.trans hnone
  have hline1 : (s.enterTunnel n.val sec).lineOk (.tunnel n) = true := hline
  have hne : line ≠ [] := by
    rintro rfl
    exact absurd hlen (by decide)
  obtain ⟨f, hf⟩ : ∃ f, s.tunnelLine n sec inv 0 line
      = ((s.enterTunnel n.val sec).dropKeyBuf (.tunnel n)).send (.tunnel n) inv f (errResp 1) := by
    rw [State.tunnelLine, if_neg hne, if_neg (by omega)]
    simp only [State.runText, hline1, Bool.not_true, Bool.false_eq_true, if_false, if_true]
    exact ⟨_, rfl⟩
  have ht : s.tunnelLine n sec inv 0 line = (((s.enterTunnel n.val sec).dropKeyBuf (.tunnel n)).bump F.CMD_LINES_ERRORS 1).linkSend n.val
      ([0x84#8, inv, 1#8] ++ (errResp 1).bytes f) := by
    have howes : (((s.enterTunnel n.val sec).dropKeyBuf (.tunnel n)).bump F.CMD_LINES_ERRORS 1).owes (.tunnel n) = false := by
      have hh1 : ((((s.enterTunnel n.val sec).dropKeyBuf (.tunnel n)).bump F.CMD_LINES_ERRORS 1).car (.tunnel n)).held = none := hh
      rw [State.owes, hh1]
      rfl
    rw [hf]
    simp [State.send, errResp, Resp.code, howes, Resp.packet, State.emit]
    rfl
  rw [ht]
  refine ⟨⟨?_, fun _ _ => rfl, rfl⟩, f, rfl⟩
  exact ((State.countError_changes hcan1).regsBut (fs := [F.CMD_LINES_ERRORS])).mono (by decide)

/-- A message on top of the state in which a tunnelled line's command ran. -/
theorem State.tunnelled_only (hc : s.canonical = true) (b : List Byte) :
    OnlyLine s ((s.tunnelled n sec).linkSend n.val b) := by
  obtain ⟨-, -, -, hregs, hseq, hrest⟩ := State.tunnelled_spec (n := n) (sec := sec) hc
  exact ⟨hregs, hseq, rfl⟩

end

/-- Settles O42: STATUS and RESET run with the role of the link's key and are answered in a message. -/
theorem tunnelledLines : Obligations.TunnelledLines := by
  intro n sec inv line form s hc hline htick hown s1 asked answered
  obtain ⟨-, hrole, -, -⟩ := State.tunnelled_spec (n := n) (sec := sec) hc
  have hrank : (s.tunnelled n sec).rankOn (.tunnel n) = roleRank (s.linkRole n.val sec) := congrArg roleRank hrole
  refine ⟨?status, ?noRight, ?reset, ?empty, ?long⟩
  case status =>
    rintro ⟨hne, hlen, hb, hp⟩
    have ho : (opOf (.tunnel n) form [txt "STATUS"]).run (s.tunnelled n sec)
        = (.data ((s1.bump F.CMD_LINES_LINES 1).statusLines (s.linkRole n.val sec)), s.tunnelled n sec) := by
      rw [opOf_status, ← hrole]
      rfl
    have ht := State.tunnelLine_runs (inv := inv) hc hline htick hown hne hlen hb hp (by rw [opOf_status]; rfl) ho rfl rfl rfl
    refine ⟨_, congrArg Host.Outcome.next ht, rfl, State.tunnelled_only hc _⟩
  case noRight =>
    rintro ⟨hne, hlen, hb, hp⟩ hr
    have ho : (opOf (.tunnel n) form [txt "RESET"]).run (s.tunnelled n sec) = (okResp, s.tunnelled n sec) := by
      rw [opOf_reset]
      exact if_pos (hrank ▸ hr)
    have ht := State.tunnelLine_runs (inv := inv) hc hline htick hown hne hlen hb hp (by rw [opOf_reset]; rfl) ho rfl rfl rfl
    exact ⟨_, congrArg Host.Outcome.next ht, rfl, State.tunnelled_only hc _⟩
  case reset =>
    rintro ⟨hne, hlen, hb, hp⟩ hr
    have ho : (opOf (.tunnel n) form [txt "RESET"]).run (s.tunnelled n sec) = (okResp, { s.tunnelled n sec with
        pow := { (s.tunnelled n sec).pow with resetReq := some s.uptime } }) := by
      rw [opOf_reset]
      exact if_neg (hrank ▸ Nat.not_lt.mpr hr)
    have ht := State.tunnelLine_runs (inv := inv) hc hline htick hown hne hlen hb hp (by rw [opOf_reset]; rfl) ho rfl rfl rfl
    exact ⟨_, congrArg Host.Outcome.next ht, rfl, rfl⟩
  case empty =>
    intro he
    exact ⟨s, congrArg Host.Outcome.next (if_pos he), rfl⟩
  case long =>
    intro hlen
    exact ⟨_, rfl, State.tunnelLine_long hc hline hown hlen⟩

end Sys2Proof.Machine
end

section
set_option Elab.async false
/-! PROOF. Key messages and their checks (Machine/Keys.lean; R439 to R441, R443, R445). -/

namespace Sys2Proof.Machine

section
variable {s t u v : State} {f : KeyFields} {r : KeyRun}

/-! ### The fields of a copy -/

theorem natLE_bytesLE (n v : Nat) : natLE (bytesLE n v) = v % 256 ^ n := by
  induction n generalizing v with
  | zero => simp [bytesLE, natLE, Nat.mod_one]
  | succ n ih =>
    have hb : (byte (v % 256)).toNat = v % 256 := by
      simp [byte]
    rw [bytesLE, natLE, ih, hb, Nat.pow_succ, Nat.mul_comm (256 ^ n), Nat.mod_mul]

/-- The header of a copy before its CRC, in the order of its fields. -/
theorem buildCopy_eq (seq counter epoch lcs state tslot kind : Nat) (payload : List Byte) : ∃ rest,
    buildCopy seq counter epoch lcs state tslot kind payload
      = bytesLE 4 seq ++ (bytesLE 4 counter ++ (bytesLE 4 epoch ++ ([byte lcs, byte state, byte tslot, byte kind] ++ rest))) := by
  simp only [buildCopy, List.append_assoc]
  exact ⟨_, rfl⟩

theorem copyCounter_buildCopy (seq counter epoch lcs state tslot kind : Nat) (payload : List Byte) (h : counter < 2 ^ 32) :
    copyCounter (buildCopy seq counter epoch lcs state tslot kind payload) = counter := by
  obtain ⟨rest, he⟩ := buildCopy_eq seq counter epoch lcs state tslot kind payload
  rw [he, copyCounter, copyField, List.drop_left' (bytesLE_length 4 seq), List.take_left' (bytesLE_length 4 counter), natLE_bytesLE]
  exact Nat.mod_eq_of_lt h

/-- A byte of the header behind the three words. -/
theorem copyField_buildCopy (seq counter epoch lcs state tslot kind : Nat) (payload : List Byte) {k : Nat} (hk : k < 4) :
    copyField (buildCopy seq counter epoch lcs state tslot kind payload) (12 + k) 1
      = ([byte lcs, byte state, byte tslot, byte kind].getD k 0#8).toNat := by
  obtain ⟨rest, he⟩ := buildCopy_eq seq counter epoch lcs state tslot kind payload
  have hd : (buildCopy seq counter epoch lcs state tslot kind payload).drop 12 = [byte lcs, byte state, byte tslot, byte kind] ++ rest := by
    rw [he, ← List.append_assoc, ← List.append_assoc]
    exact List.drop_left' (by simp [bytesLE_length])
  rw [copyField, ← List.drop_drop, hd]
  match k, hk with
  | 0, _ | 1, _ | 2, _ | 3, _ => simp [natLE]

theorem bytesNat_lt (l : List Nat) (h : ∀ b ∈ l, b < 256) : bytesNat l < 256 ^ l.length := by
  induction l using List.reverseRecOn with
  | nil => decide
  | append_singleton l b ih =>
    have hl := ih fun x hx => h x (by simp [hx])
    have hb := h b (by simp)
    have he : bytesNat (l ++ [b]) = bytesNat l * 256 + b := by simp [bytesNat]
    rw [he, List.length_append, List.length_singleton, Nat.pow_succ]
    omega

theorem nats_lt (l : List Byte) : ∀ b ∈ nats l, b < 256 := by
  intro b hb
  obtain ⟨x, -, rfl⟩ := List.mem_map.mp hb
  exact x.isLt

/-- The number of a word cut out of the bytes. -/
theorem bytesNat_cut_lt (l : List Byte) (k : Nat) : bytesNat (((nats l).drop k).take 4) < 2 ^ 32 := by
  have h := bytesNat_lt (((nats l).drop k).take 4) fun b hb => nats_lt l b (List.mem_of_mem_drop (List.mem_of_mem_take hb))
  exact Nat.lt_of_lt_of_le h (Nat.pow_le_pow_right (n := 256) (by decide) (List.length_take_le 4 _))

/-- The fields that every message's layout takes from the same bytes. -/
theorem parseKey_fields {b : List Nat} (h : parseKey b = some f) : f.kind = b.getD 0 0 ∧ f.counter = bytesNat ((b.drop 10).take 4) := by
  unfold parseKey at h
  extract_lets kind fl keyp wlen plen alen head total at h
  split at h
  · cases h
  · split at h
    · cases h
      exact ⟨rfl, rfl⟩
    · cases h

/-! ### The checks of a message -/

/-- A message that its sender hands on: what is answered over the link. -/
def State.keyAnswered (s : State) (src : Source) (kind : Nat) (x : Option Nat) : State := match src, x with
  | .link nb _, some e => s.linkSend nb.val [byte (kind + 0x80), 8#8, byte e]
  | _, _ => s

theorem State.keyFrom_eq {m : KeyMsg} {kind : Nat} (ho : s.serviceOpen = true) (hb : s.keyBusy = false)
    (hk : (m.bytes.getD 0 0#8).toNat = kind) (h15 : kind < 0x15) :
    s.keyFrom m kind = (s.keyMessage m.src none m.bytes).2.keyAnswered m.src kind (s.keyMessage m.src none m.bytes).1 := by
  obtain ⟨src, bytes⟩ := m
  subst hk
  have hg : ¬ (s.serviceOpen = false ∨ (bytes.getD 0 0#8).toNat ≠ (bytes.getD 0 0#8).toNat) := by simp [ho]
  unfold State.keyFrom
  rw [if_neg hg]
  cases src with
  | carrier c => simp only [hb, Bool.false_eq_true, if_false, State.keyAnswered]
  | link nb sec =>
    simp only [State.keyFromLink, Nat.not_le.mpr h15, hb, Bool.false_eq_true, if_false]
    rcases s.keyMessage (.link nb sec) none bytes with ⟨_ | e, u⟩ <;> rfl

/-- What KEYS_LAST shows while a message is checked. -/
def State.messageTaken (s : State) (kind : Nat) : State := (s.put F.KEYS_LAST_KIND kind).clr F.KEYS_LAST_SLOT

/-- The same with its slot. -/
def State.messageSlotTaken (s : State) (kind target : Nat) : State := (s.messageTaken kind).put F.KEYS_LAST_SLOT target

theorem State.messageTaken_changes (hc : s.canonical = true) (kind : Nat) :
    Changes [F.KEYS_LAST_KIND.zone, F.KEYS_LAST_SLOT.zone] [] s (s.messageTaken kind) := ((Changes.refl hc).put).clr

theorem State.messageSlotTaken_changes (hc : s.canonical = true) (kind target : Nat) :
    Changes [F.KEYS_LAST_KIND.zone, F.KEYS_LAST_SLOT.zone] [] s (s.messageSlotTaken kind target) := (State.messageTaken_changes hc kind).put

section
variable {m : KeyMsg} {src : Source} {line : Option (Carrier × LineForm)} {bytes : List Byte}

/-- A message that fails FORMAT. -/
theorem State.keyMessage_malformed (hp : parseKey (nats bytes) = none) :
    s.keyMessage src line bytes = (some 1, (s.messageTaken (bytes.getD 0 0#8).toNat).keyReject 1) := by
  simp [State.keyMessage, hp, State.messageTaken]

/-- The verification of a message's signature has begun. -/
def State.verifying (s : State) (run : KeyRun) : State := { s.set1 F.KEYS_STAT_BUSY with keys := { s.keys with run := some run } }

/-- A message with a signature that passes the checks before AUTH. -/
theorem State.keyMessage_signed (hp : parseKey (nats bytes) = some f) (hd : f.devid = s.devid)
    (hs : (s.messageSlotTaken (bytes.getD 0 0#8).toNat f.target).keyStateOk f = true)
    (hm : (s.messageSlotTaken (bytes.getD 0 0#8).toNat f.target).methodOk f = true) (he : f.ecdsa = true)
    (ha : (s.messageSlotTaken (bytes.getD 0 0#8).toNat f.target).authPub ≠ none) :
    s.keyMessage src line bytes
      = (none, (s.messageSlotTaken (bytes.getD 0 0#8).toNat f.target).verifying ⟨src, line, bytes, s.rm.tick, none⟩) := by
  simp only [State.messageSlotTaken, State.messageTaken] at hs hm ha ⊢
  unfold State.keyMessage
  generalize (bytes.getD 0 0#8).toNat = kind at hs hm ha ⊢
  simp [hp, hd, hs, hm, he, ha, State.verifying]

/-- A message with a MAC that passes every check. -/
theorem State.keyMessage_maced {key : List Nat} {k : Option (List Nat)} (hp : parseKey (nats bytes) = some f) (hd : f.devid = s.devid)
    (hs : (s.messageSlotTaken (bytes.getD 0 0#8).toNat f.target).keyStateOk f = true)
    (hm : (s.messageSlotTaken (bytes.getD 0 0#8).toNat f.target).methodOk f = true) (he : f.ecdsa = false)
    (hk : (s.messageSlotTaken (bytes.getD 0 0#8).toNat f.target).macKey f = (some key, u)) (ha : cmac key f.signed = f.auth)
    (hn : u.get F.KEYS_CTR_COUNTER < f.counter) (hu : usageOk f = true) (hw : u.carriedKey f = (some k, v))
    (hf : v.flag F.KEYS_STAT_FAULT = false) :
    s.keyMessage src line bytes = (none, v.startCommit ⟨src, line, bytes, s.rm.tick, none⟩ f k) := by
  simp only [State.messageSlotTaken, State.messageTaken] at hs hm hk ⊢
  unfold State.keyMessage
  generalize (bytes.getD 0 0#8).toNat = kind at hs hm hk ⊢
  simp [State.keyChecks2, hp, hd, hs, hm, he, hk, ha, hu, hw, hf, Nat.not_le.mpr hn]

end

/-- A MAC key that is found changes slot 0's LOADED alone. -/
theorem State.macKey_found (hc : s.canonical = true) {key : List Nat} (h : s.macKey f = (some key, u)) :
    Changes [(F.KEYS_SLOT_LOADED 0).zone] [.keys] s u := by
  unfold State.macKey at h
  split at h
  · cases congrArg Prod.snd h
    exact .refl hc
  · rcases hk : s.slotKey 0 with ⟨_ | k, w⟩
    · rw [hk] at h
      cases h
    · rw [hk] at h
      cases h
      exact State.slotKey_found hc hk

/-- A key that unwraps, or that the message does not carry, changes no more. -/
theorem State.carriedKey_found (hc : s.canonical = true) {k : Option (List Nat)} (h : s.carriedKey f = (some k, u)) :
    Changes [(F.KEYS_SLOT_LOADED 0).zone] [.keys] s u := by
  unfold State.carriedKey at h
  split at h
  · cases congrArg Prod.snd h
    exact .refl hc
  · split at h
    · cases congrArg Prod.snd h
      exact .refl hc
    · rcases hk : s.slotKey 0 with ⟨_ | j, w⟩
      · rw [hk] at h
        cases h
      · rw [hk] at h
        cases congrArg Prod.snd h
        exact State.slotKey_found hc hk

theorem State.startCommit_changes (hc : s.canonical = true) (k : Option (List Nat)) :
    Changes [F.KEYS_STAT_COMMIT.zone] [.keys] s (s.startCommit r f k) := by
  unfold State.startCommit
  extract_lets
  exact ((Changes.refl hc).put).setKeys

/-- The commit that applies a message, in the state in which it begins. -/
theorem State.startCommit_spec (hc : s.canonical = true) (hk : f.kind < 256) (hn : f.counter < 2 ^ 32) (k : Option (List Nat)) :
    (s.startCommit r f k).get F.KEYS_STAT_COMMIT = 1
      ∧ ∃ c, (s.startCommit r f k).keys.commit = some c ∧ c.run = r ∧ c.rows = 0 ∧ c.committed = false
        ∧ copyCounter c.bytes = f.counter ∧ copyState c.bytes = 1 ∧ copyKind c.bytes = f.kind := by
  unfold State.startCommit
  extract_lets old oldCopy copy seq trans epoch lcs pub kept entry slots tslot bytes c
  refine ⟨State.get_put (f := F.KEYS_STAT_COMMIT) hc (by decide), c, rfl, rfl, rfl, rfl, copyCounter_buildCopy _ _ _ _ _ _ _ _ hn, ?_, ?_⟩
  · exact copyField_buildCopy _ _ _ _ _ _ _ _ (k := 1) (by decide)
  · refine (copyField_buildCopy _ _ _ _ _ _ _ _ (k := 3) (by decide)).trans ?_
    simp [byte, Nat.mod_eq_of_lt hk]

/-- What the registers show of a rejected message. -/
def rejectZones : List Zone := [F.KEYS_LAST_RESULT.zone, F.KEYS_LAST_KIND.zone, F.KEYS_LAST_SLOT.zone, F.KEYS_CNT_REJECTED.zone]

/-- A message that fails FORMAT is rejected with RESULT 1 and counted. -/
theorem State.messageRejected_spec (hc : s.canonical = true) {kind : Nat} (hk : kind < 256) :
    ((s.messageTaken kind).keyReject 1).get F.KEYS_LAST_RESULT = 1 ∧ ((s.messageTaken kind).keyReject 1).get F.KEYS_LAST_KIND = kind
      ∧ ((s.messageTaken kind).keyReject 1).get F.KEYS_CNT_REJECTED = min (s.get F.KEYS_CNT_REJECTED + 1) 65535
      ∧ Changes rejectZones [] s ((s.messageTaken kind).keyReject 1) := by
  have h1 := State.messageTaken_changes hc kind
  have h2 : Changes [F.KEYS_LAST_RESULT.zone] [] (s.messageTaken kind) ((s.messageTaken kind).put F.KEYS_LAST_RESULT 1) :=
    (Changes.refl h1.canonical).put
  have h3 : Changes [F.KEYS_CNT_REJECTED.zone] [] ((s.messageTaken kind).put F.KEYS_LAST_RESULT 1) ((s.messageTaken kind).keyReject 1) :=
    (Changes.refl h2.canonical).bump
  have h0 : Changes [F.KEYS_LAST_SLOT.zone] [] (s.put F.KEYS_LAST_KIND kind) (s.messageTaken kind) :=
    (Changes.refl (State.put_canonical hc)).clr
  have hput : Changes [F.KEYS_LAST_KIND.zone] [] s (s.put F.KEYS_LAST_KIND kind) := (Changes.refl hc).put
  refine ⟨?_, ?_, ?_, ((h1.mono).next h2).next h3⟩
  · rw [h3.get F.KEYS_LAST_RESULT]
    exact State.get_put h1.canonical (by decide)
  · rw [h3.get F.KEYS_LAST_KIND, h2.get F.KEYS_LAST_KIND, h0.get F.KEYS_LAST_KIND]
    exact State.get_put (f := F.KEYS_LAST_KIND) hc hk
  · rw [State.keyReject, State.bump_get h2.canonical, h2.get F.KEYS_CNT_REJECTED, h1.get F.KEYS_CNT_REJECTED]
    rfl

theorem State.keyAnswered_rest (src : Source) (kind : Nat) (x : Option Nat) :
    (s.keyAnswered src kind x).regs = s.regs ∧ (s.keyAnswered src kind x).keys = s.keys := by
  unfold State.keyAnswered
  split <;> exact ⟨rfl, rfl⟩

theorem State.keyAnswered_none (src : Source) (kind : Nat) : s.keyAnswered src kind none = s := by cases src <;> rfl

/-- The verification of a signature has begun: BUSY, and the message is kept. -/
theorem State.verifying_spec (hc : s.canonical = true) (run : KeyRun) : (s.verifying run).flag F.KEYS_STAT_BUSY = true
    ∧ Changes [F.KEYS_STAT_BUSY.zone] [.keys] s (s.verifying run) := by
  have h : Changes [F.KEYS_STAT_BUSY.zone] [.keys] s (s.verifying run) := ((Changes.refl hc).set1 (f := F.KEYS_STAT_BUSY)).setKeys
  exact ⟨State.set1_flag (f := F.KEYS_STAT_BUSY) hc, h⟩

/-- The rows of key messages, each with its kind. -/
def keyRows (m : KeyMsg) : List (Nat × Instr) :=
  [(0x10, .keyUpdate m), (0x11, .lifeCycleTransition m), (0x12, .authorityChange m), (0x13, .tamperAcknowledgement m)]

theorem keyRows_exec {m : KeyMsg} {p : Nat × Instr} {kind : Nat} (hp : p ∈ keyRows m) (hk : kind = p.1) :
    exec p.2 s = .next (s.keyFrom m kind) ∧ kind < 0x15 := by
  subst hk
  simp only [keyRows, List.mem_cons, List.not_mem_nil, or_false] at hp
  rcases hp with rfl | rfl | rfl | rfl <;> exact ⟨rfl, by dsimp only; omega⟩

end

/-- Settles O43: a malformed message is rejected, a signed one begins its verification and one with a MAC the commit that applies it. -/
theorem keyMessagesAreChecked : Obligations.KeyMessagesAreChecked := by
  intro m f s hc ho hb kind s1 checked
  have hs1 : Changes [F.KEYS_LAST_KIND.zone, F.KEYS_LAST_SLOT.zone] [] s s1 := State.messageSlotTaken_changes hc kind f.target
  have hk256 : kind < 256 := BitVec.isLt _
  refine ⟨fun p hp hkind => ⟨?malformed, ?signed⟩, fun p hp key k s2 s3 hkind => ?maced⟩
  case malformed =>
    intro hn
    obtain ⟨hrun, h15⟩ := keyRows_exec (s := s) hp hkind
    obtain ⟨hresult, hkindReg, hcount, hch⟩ := State.messageRejected_spec hc hk256
    have ht := State.keyFrom_eq ho hb (kind := kind) rfl h15
    rw [State.keyMessage_malformed hn] at ht
    obtain ⟨hregs, hkeys⟩ := State.keyAnswered_rest (s := (s.messageTaken kind).keyReject 1) m.src kind (some 1)
    refine ⟨_, hrun.trans (congrArg Host.Outcome.next ht), ?_, ?_, ?_, ?_, ?_, ?_⟩
    · exact (State.get_of_regs hregs _).trans hresult
    · exact (State.get_of_regs hregs _).trans hkindReg
    · exact (State.get_of_regs hregs _).trans hcount
    · exact (hch.regsBut (by decide)).trans (.of_regs hregs)
    · exact hkeys.trans hch.keys
    · unfold State.keyAnswered
      cases m.src with
      | link nb sec => exact congrArg (fun x : Link => x.outbox ++ [(nb.val, [byte (kind + 0x80), 8#8, byte 1])]) hch.link
      | carrier c => exact (congrArg Link.outbox hch.link).trans (List.append_nil _).symm
  case signed =>
    rintro ⟨hparse, hdev, hstate, hmethod⟩ he ha
    obtain ⟨hrun, h15⟩ := keyRows_exec (s := s) hp hkind
    have ht := State.keyFrom_eq ho hb (kind := kind) rfl h15
    rw [State.keyMessage_signed hparse hdev hstate hmethod he ha, State.keyAnswered_none] at ht
    obtain ⟨hbusy, hv⟩ := State.verifying_spec hs1.canonical ⟨m.src, none, m.bytes, s.rm.tick, none⟩
    have hall : Changes [F.KEYS_LAST_KIND.zone, F.KEYS_LAST_SLOT.zone, F.KEYS_STAT_BUSY.zone] [.keys] s
        (s1.verifying ⟨m.src, none, m.bytes, s.rm.tick, none⟩) := (hs1.mono).next hv
    exact ⟨_, hrun.trans (congrArg Host.Outcome.next ht), hbusy, rfl, hall.link, hall.nvm, hall.regsBut⟩
  case maced =>
    rintro ⟨hparse, hdev, hstate, hmethod⟩ he hmac hauth hnew huse hcarried hfault
    obtain ⟨hrun, h15⟩ := keyRows_exec (s := s) (List.mem_of_mem_take (i := 2) (l := keyRows m) hp) hkind
    have ht := State.keyFrom_eq ho hb (kind := kind) rfl h15
    rw [State.keyMessage_maced hparse hdev hstate hmethod he hmac hauth hnew huse hcarried hfault, State.keyAnswered_none] at ht
    obtain ⟨hfkind, hcounter⟩ := parseKey_fields hparse
    have hkf : f.kind = kind := hfkind.trans (List.getD_map m.bytes 0#8 BitVec.toNat)
    have hlt : f.counter < 2 ^ 32 := by
      rw [hcounter]
      exact bytesNat_cut_lt m.bytes 10
    have h2 := State.macKey_found hs1.canonical hmac
    have h3 := State.carriedKey_found h2.canonical hcarried
    have h4 := State.startCommit_changes (r := ⟨m.src, none, m.bytes, s.rm.tick, none⟩) (f := f) h3.canonical k
    have hall : Changes [F.KEYS_LAST_KIND.zone, F.KEYS_LAST_SLOT.zone, (F.KEYS_SLOT_LOADED 0).zone, F.KEYS_STAT_COMMIT.zone] [.keys] s
        (s3.startCommit ⟨m.src, none, m.bytes, s.rm.tick, none⟩ f k) := (((hs1.mono).next h2).next h3).next h4
    obtain ⟨hcommit, c, hsome, hcrun, hrows, hdone, hctr, hst, hkd⟩ :=
      State.startCommit_spec (r := ⟨m.src, none, m.bytes, s.rm.tick, none⟩) h3.canonical (hkf ▸ hk256) hlt k
    exact ⟨_, hrun.trans (congrArg Host.Outcome.next ht), hcommit,
      ⟨c, hsome, by rw [hcrun], hrows, hdone, hctr, hst, hkd.trans hkf⟩, hall.nvm, hall.link, hall.get _, hall.regsBut⟩

end Sys2Proof.Machine
end

section
set_option Elab.async false
/-! PROOF. KEY LOAD and TOKEN (Machine/Pay.lean, Machine/Keys.lean, Machine/Command.lean; R336 to R339, R442). -/

namespace Sys2Proof.Machine

section
variable {s t u v : State} {c : Carrier} {l : LineForm}

/-! ### A key message whose answer is deferred -/

/-- What a key message shows that its verification or its commit has begun for. -/
def begunZones : List Zone := [F.KEYS_LAST_KIND.zone, F.KEYS_LAST_SLOT.zone, (F.KEYS_SLOT_LOADED 0).zone, F.KEYS_STAT_COMMIT.zone, F.KEYS_STAT_BUSY.zone]

theorem State.keyChecks2_begun {run : KeyRun} {m : KeyFields} (hc : s.canonical = true) (h : s.keyChecks2 run m = (none, v)) :
    Changes begunZones [.keys] s v := by
  unfold State.keyChecks2 at h
  split at h
  · cases h
  · split at h
    · cases h
    · rcases hw : s.carriedKey m with ⟨_ | k, w⟩
      · rw [hw] at h
        cases h
      · rw [hw] at h
        have hch := State.carriedKey_found hc hw
        dsimp only at h
        split at h
        · cases h
        · cases congrArg Prod.snd h
          exact hch.mono.next (State.startCommit_changes hch.canonical k)

theorem State.keyMessage_begun {src : Source} {line : Option (Carrier × LineForm)} {bytes : List Byte} (hc : s.canonical = true)
    (h : s.keyMessage src line bytes = (none, v)) : Changes begunZones [.keys] s v := by
  unfold State.keyMessage at h
  have h0 (target : Nat) := State.messageSlotTaken_changes hc (bytes.getD 0 0#8).toNat target
  dsimp only at h
  split at h
  · cases h
  · rename_i m _
    have h1 : Changes begunZones [.keys] s (s.messageSlotTaken (bytes.getD 0 0#8).toNat m.target) := (h0 m.target).mono
    split at h
    · cases h
    · split at h
      · cases h
      · split at h
        · cases h
        · split at h
          · split at h
            · cases h
            · cases congrArg Prod.snd h
              exact h1.next (State.verifying_spec h1.canonical _).2
          · rcases hk : (s.messageSlotTaken (bytes.getD 0 0#8).toNat m.target).macKey m with ⟨_ | key, w⟩
            · simp only [State.messageSlotTaken, State.messageTaken] at hk
              rw [hk] at h
              cases h
            · have hch := State.macKey_found h1.canonical hk
              simp only [State.messageSlotTaken, State.messageTaken] at hk
              rw [hk] at h
              dsimp only at h
              split at h
              · exact (h1.next hch).trans (State.keyChecks2_begun hch.canonical h)
              · cases h

/-! ### KEY LOAD -/

theorem State.aclKeyLoad_piece {piece hex : Text} {b : List Byte} (ht : tokens piece [] = [hex, ['+']]) (hne : hex ≠ [])
    (hlen : hex.length ≤ 192) (hb : readHex hex = some b) (hall : (s.keyBufOf c ++ b).length ≤ 256) :
    s.aclKeyLoad c l piece = (okResp, s.setKeyBuf c (s.keyBufOf c ++ b)) := by
  have hg : ¬ (192 < hex.length ∨ hex = []) := by simp [hne, hlen]
  rw [List.length_append] at hall
  simp [State.aclKeyLoad, ht, hg, hb, Nat.not_lt.mpr hall]

theorem State.aclKeyLoad_last {piece hex : Text} {b : List Byte} (ht : tokens piece [] = [hex]) (hne : hex ≠ [])
    (hlen : hex.length ≤ 192) (hb : readHex hex = some b) (hall : (s.keyBufOf c ++ b).length ≤ 256) (hbusy : s.keyBusy = false)
    (hm : (s.dropKeyBuf c).keyMessage (.carrier c) (some (c, l)) (s.keyBufOf c ++ b) = (none, v)) :
    s.aclKeyLoad c l piece = (.defer .keyLoad, v) := by
  have hg : ¬ (192 < hex.length ∨ hex = []) := by simp [hne, hlen]
  rw [List.length_append] at hall
  simp [State.aclKeyLoad, ht, hg, hb, Nat.not_lt.mpr hall, hbusy, hm]

theorem State.keyBufOf_setKeyBuf (b : List Byte) : (s.setKeyBuf c b).keyBufOf c = b := by
  have hd : (s.cmd.keyBuf.filter (fun b => !sameCarrier b.1 c)).find? (fun b => sameCarrier b.1 c) = none := by simp
  have h : (s.setKeyBuf c b).cmd.keyBuf.find? (fun b => sameCarrier b.1 c) = some (c, b, s.uptime) := by
    simp only [State.setKeyBuf, State.dropKeyBuf, List.find?_append, hd]
    simp [sameCarrier]
  have hlt : (s.setKeyBuf c b).uptime < s.uptime + secs 60 := by
    change s.uptime < s.uptime + secs 60
    exact Nat.lt_add_of_pos_right (by decide)
  simp only [State.keyBufOf, h, if_pos hlt]

theorem State.keyBufOf_of_cmd (h : t.cmd.keyBuf = s.cmd.keyBuf) (hu : t.uptime = s.uptime) : t.keyBufOf c = s.keyBufOf c := by
  rw [State.keyBufOf, State.keyBufOf, h, hu]

/-- Replacing the KEY LOAD buffer is a change of the carriers alone. -/
theorem Ran.setKeyBuf (h : Ran s u c) (b : List Byte) : Ran s (u.setKeyBuf c b) c := by
  obtain ⟨hcan, htx, hheld, hout, hlines, herr⟩ := h
  have hcar : (u.setKeyBuf c b).car c = u.car c := by cases c <;> rfl
  exact ⟨hcan, by rw [hcar, htx], by rw [hcar, hheld], hout, hlines, herr⟩

theorem Ran.dropKeyBuf (h : Ran s u c) : Ran s (u.dropKeyBuf c) c := by
  obtain ⟨hcan, htx, hheld, hout, hlines, herr⟩ := h
  have hcar : (u.dropKeyBuf c).car c = u.car c := by cases c <;> rfl
  exact ⟨hcan, by rw [hcar, htx], by rw [hcar, hheld], hout, hlines, herr⟩

/-! ### Credit -/

theorem toSigned_ofSigned_sixtyfour {x : Int} (h1 : -(2 ^ 63) ≤ x) (h2 : x < 2 ^ 63) : toSigned 64 (ofSigned 64 x) = x := by
  unfold toSigned ofSigned
  norm_num
  omega

theorem toSigned_sixtyfour_lower (x : Nat) : -(2 ^ 63) ≤ toSigned 64 x := by
  unfold toSigned
  split <;> omega

theorem ofSigned_sixtyfour_lt (x : Int) : ofSigned 64 x < 2 ^ 64 := by
  unfold ofSigned
  omega

/-- The credit is what its two words hold. -/
theorem State.credit_of_rd (hl : t.rd F.PAY_CREDIT_LO = s.rd F.PAY_CREDIT_LO) (hh : t.rd F.PAY_CREDIT_HI = s.rd F.PAY_CREDIT_HI) :
    t.credit = s.credit := by
  rw [State.credit, State.credit, hl, hh]

theorem Changes.credit {W : List Zone} {L : List Part} (h : Changes W L s t) (hl : ∀ z ∈ W, z.has F.PAY_CREDIT_LO = false := by decide)
    (hh : ∀ z ∈ W, z.has F.PAY_CREDIT_HI = false := by decide) : t.credit = s.credit := State.credit_of_rd (h.rd _ hl) (h.rd _ hh)

/-- The credit that is set is read back. -/
theorem State.setCredit_spec (hc : s.canonical = true) {x : Int} (h1 : -(2 ^ 63) ≤ x) (h2 : x < 2 ^ 63) : (s.setCredit x).credit = x := by
  have hcl := State.wr_canonical (a := F.PAY_CREDIT_LO) (w := word (ofSigned 64 x % 2 ^ 32)) hc
  have hch := State.wr_canonical (a := F.PAY_CREDIT_HI) (w := word (ofSigned 64 x / 2 ^ 32)) hcl
  have hp : Changes [F.PAY_STAT_ECAVAIL.zone] []
      ((s.wr F.PAY_CREDIT_LO (word (ofSigned 64 x % 2 ^ 32))).wr F.PAY_CREDIT_HI (word (ofSigned 64 x / 2 ^ 32))) (s.setCredit x) :=
    (Changes.refl hch).putB
  have hlt := ofSigned_sixtyfour_lt x
  rw [hp.credit, State.credit, State.rd_wr_self hcl, State.rd_wr_ne (by decide), State.rd_wr_self hc]
  refine Eq.trans (congrArg (toSigned 64) ?_) (toSigned_ofSigned_sixtyfour h1 h2)
  simp only [word, BitVec.toNat_ofNat]
  omega

/-! ### The evaluation of a token -/

/-- PAY_TKLAST shows a result. -/
theorem State.tokenLast_spec (hc : s.canonical = true) {result : Nat} (hr : result < 16) (cls id : Option Nat) :
    (s.tokenLast result cls id).get F.PAY_TKLAST_RESULT = result ∧ Changes [(wholeReg F.PAY_TKLAST).zone] [] s (s.tokenLast result cls id) := by
  refine ⟨?_, (Changes.refl hc).wr⟩
  have hcls : cls.getD 0 % 16 < 16 := Nat.mod_lt _ (by decide)
  have hid : id.getD 0 % 2 ^ 22 < 2 ^ 22 := Nat.mod_lt _ (by decide)
  have hw : (s.tokenLast result cls id).rd F.PAY_TKLAST = word (2 ^ 28 * result + 2 ^ 22 * (cls.getD 0 % 16) + id.getD 0 % 2 ^ 22) :=
    State.rd_wr_self hc
  change bitsOf ((s.tokenLast result cls id).rd F.PAY_TKLAST) 31 28 = result
  rw [hw, bitsOf, word, BitVec.toNat_ofNat]
  omega

/-- What the checks on a decrypted token can give. -/
theorem State.tokenResult_le (p : Nat) : (s.tokenResult p).1 ≤ 9 := by
  unfold State.tokenResult
  extract_lets cls id amount h
  repeat' split
  all_goals dsimp only; omega

/-- A CLASS 0 token that passes every check: its identifier, and the room for its amount. -/
theorem State.tokenResult_passed {p id : Nat} (h : s.tokenResult p = (0, some 0, some id)) :
    id < 2 ^ 22 ∧ s.credit + (65536 * (p / 65536 % 2 ^ 24) : Nat) ≤ 65536 * 1000000000 := by
  unfold State.tokenResult at h
  extract_lets cls id' amount hw at h
  split at h
  · cases h
  · split at h
    · cases h
    · split at h
      · cases h
      · split at h
        · cases h
        · split at h
          · cases h
          · split at h
            · cases h
            · rename_i hroom
              have hcls : cls = 0 := Option.some.inj (congrArg (fun x => x.2.1) h)
              have hid : id' = id := Option.some.inj (congrArg (fun x => x.2.2) h)
              exact ⟨hid ▸ Nat.mod_lt _ (by decide), not_lt.mp fun hlt => hroom ⟨hcls, hlt⟩⟩

/-- A rejection is counted, and a commit is due. -/
def State.rejectCounted (s : State) : State := (s.bump F.PAY_TKCNT_REJECTED 1).commitDue

/-- One more rejection in a row, at most five. -/
def State.rejectedAgain (s : State) : State := s.put F.PAY_STAT_REJRUN (min (s.get F.PAY_STAT_REJRUN + 1) 5)

/-- The evaluation of tokens is locked for 600 s. -/
def State.tokensLocked (s : State) : State :=
  { s.set1 F.PAY_STAT_LOCKOUT with jrn := { s.jrn with hid := { s.jrn.hid with lockEnd := some (s.sec + 600) } } }

theorem State.tokenReject_eq : s.tokenReject = if s.rejectCounted.get F.PAY_STAT_REJRUN + 1 < 5 then s.rejectCounted.rejectedAgain
    else s.rejectCounted.rejectedAgain.tokensLocked := rfl

theorem State.rejectCounted_spec (hc : s.canonical = true) :
    s.rejectCounted.get F.PAY_TKCNT_REJECTED = min (s.get F.PAY_TKCNT_REJECTED + 1) 65535 ∧ s.rejectCounted.jrn.due = true
      ∧ Changes [F.PAY_TKCNT_REJECTED.zone] [.jrn] s s.rejectCounted := by
  have h0 : Changes [F.PAY_TKCNT_REJECTED.zone] [.jrn] s (s.bump F.PAY_TKCNT_REJECTED 1) := (Changes.refl hc).bump
  have h1 : Changes [F.PAY_TKCNT_REJECTED.zone] [.jrn] s s.rejectCounted := h0.setJrn
  exact ⟨State.bump_get (f := F.PAY_TKCNT_REJECTED) hc 1, rfl, h1⟩

theorem State.rejectedAgain_spec (hc : s.canonical = true) :
    s.rejectedAgain.get F.PAY_STAT_REJRUN = min (s.get F.PAY_STAT_REJRUN + 1) 5
      ∧ Changes [F.PAY_STAT_REJRUN.zone] [] s s.rejectedAgain :=
  ⟨State.get_put (f := F.PAY_STAT_REJRUN) hc (Nat.lt_of_le_of_lt (Nat.min_le_right _ 5) (by decide)), (Changes.refl hc).put⟩

theorem State.tokensLocked_spec (hc : s.canonical = true) : s.tokensLocked.flag F.PAY_STAT_LOCKOUT = true
    ∧ s.tokensLocked.jrn.hid.lockEnd = some (s.get F.RTC_SEC_SEC + 600) ∧ s.tokensLocked.jrn.due = s.jrn.due
    ∧ Changes [F.PAY_STAT_LOCKOUT.zone] [.jrn] s s.tokensLocked := by
  have h0 : Changes [F.PAY_STAT_LOCKOUT.zone] [.jrn] s (s.set1 F.PAY_STAT_LOCKOUT) := (Changes.refl hc).set1
  exact ⟨State.set1_flag (f := F.PAY_STAT_LOCKOUT) hc, rfl, rfl, h0.setJrn⟩

/-- What a counted rejection shows in. -/
def rejectionZones : List Zone := [F.PAY_TKCNT_REJECTED.zone, F.PAY_STAT_REJRUN.zone, F.PAY_STAT_LOCKOUT.zone]

/-- A counted rejection; the fifth in a row locks the evaluation. -/
theorem State.tokenReject_spec (hc : s.canonical = true) :
    s.tokenReject.get F.PAY_TKCNT_REJECTED = min (s.get F.PAY_TKCNT_REJECTED + 1) 65535
      ∧ s.tokenReject.get F.PAY_STAT_REJRUN = min (s.get F.PAY_STAT_REJRUN + 1) 5 ∧ s.tokenReject.jrn.due = true
      ∧ Changes rejectionZones [.jrn] s s.tokenReject
      ∧ (4 ≤ s.get F.PAY_STAT_REJRUN → s.tokenReject.flag F.PAY_STAT_LOCKOUT = true
        ∧ s.tokenReject.jrn.hid.lockEnd = some (s.get F.RTC_SEC_SEC + 600)) := by
  obtain ⟨hcount, hdue, h1⟩ := State.rejectCounted_spec hc
  obtain ⟨hrun, h2⟩ := State.rejectedAgain_spec h1.canonical
  obtain ⟨hlock, hend, hdue3, h3⟩ := State.tokensLocked_spec h2.canonical
  have h12 : Changes rejectionZones [.jrn] s s.rejectCounted.rejectedAgain := h1.mono.next h2
  rw [h1.get F.PAY_STAT_REJRUN] at hrun
  rw [h2.get F.RTC_SEC_SEC, h1.get F.RTC_SEC_SEC] at hend
  rw [← h2.get F.PAY_TKCNT_REJECTED] at hcount
  rw [← h2.jrn] at hdue
  rw [State.tokenReject_eq, h1.get F.PAY_STAT_REJRUN]
  split
  · rename_i h5
    exact ⟨hcount, hrun, hdue, h12, fun h4 => absurd h5 (by omega)⟩
  · exact ⟨(h3.get _).trans hcount, (h3.get _).trans hrun, hdue3.trans hdue, h12.next h3, fun _ => ⟨hlock, hend⟩⟩

/-- The high-water mark with an identifier accepted. -/
theorem State.acceptId_spec (hc : s.canonical = true) {id : Nat} (hid : id < 2 ^ 22) :
    (s.acceptId id).get F.PAY_TKHWM_HWM = max (s.get F.PAY_TKHWM_HWM) id
      ∧ Changes [F.PAY_TKHWM_HWM.zone, (wholeReg F.PAY_TKMAP_LO).zone, (wholeReg F.PAY_TKMAP_HI).zone] [] s (s.acceptId id) := by
  have hm (x : Nat) : Changes [(wholeReg F.PAY_TKMAP_LO).zone, (wholeReg F.PAY_TKMAP_HI).zone] [] s (s.setTokenMap x) :=
    ((Changes.refl hc).wr).wr
  unfold State.acceptId
  extract_lets h
  split
  · rename_i hlt
    refine ⟨(State.get_put (f := F.PAY_TKHWM_HWM) (hm _).canonical hid).trans (Nat.max_eq_right (Nat.le_of_lt hlt)).symm, ?_⟩
    exact ((hm _).mono).put
  · rename_i hge
    exact ⟨((hm _).get F.PAY_TKHWM_HWM).trans (Nat.max_eq_left (Nat.le_of_not_lt hge)).symm, (hm _).mono⟩

theorem State.unitOfCredit_changes (hc : s.canonical = true) : Changes [F.PAY_STAT_CMODE.zone] [] s s.unitOfCredit := by
  unfold State.unitOfCredit
  extract_lets m
  exact .ite (Changes.refl hc).put (.refl hc)

/-- What a token that passes every check shows in beside its credit. -/
def acceptZones : List Zone := [(wholeReg F.PAY_TKLAST).zone, (wholeReg F.PAY_CREDIT_LO).zone, (wholeReg F.PAY_CREDIT_HI).zone,
  F.PAY_STAT_ECAVAIL.zone, F.PAY_TKHWM_HWM.zone, (wholeReg F.PAY_TKMAP_LO).zone, (wholeReg F.PAY_TKMAP_HI).zone,
  F.PAY_TKCNT_ACCEPTED.zone, F.PAY_STAT_REJRUN.zone, F.PAY_STAT_CMODE.zone]

/-- The credit of a token added. -/
def State.credited (s : State) (amount id : Nat) : State :=
  (s.tokenLast 0 (some 0) (some id)).setCredit ((s.tokenLast 0 (some 0) (some id)).credit + (65536 * amount : Nat))

/-- Its identifier accepted, and the run of rejections ended. -/
def State.tokenAccepted (s : State) (amount id : Nat) : State :=
  (((s.credited amount id).acceptId id).bump F.PAY_TKCNT_ACCEPTED 1).clr F.PAY_STAT_REJRUN

theorem State.applyToken_passed (p id : Nat) : s.applyToken p (0, some 0, some id)
    = (0, (s.tokenAccepted (p / 65536 % 2 ^ 24) id).unitOfCredit.commitDue) := rfl

/-- What the credit of a token shows in. -/
def creditZones : List Zone := [(wholeReg F.PAY_TKLAST).zone, (wholeReg F.PAY_CREDIT_LO).zone, (wholeReg F.PAY_CREDIT_HI).zone, F.PAY_STAT_ECAVAIL.zone]

theorem State.credited_spec (hc : s.canonical = true) {amount : Nat} (id : Nat)
    (hroom : s.credit + (65536 * amount : Nat) ≤ 65536 * 1000000000) :
    (s.credited amount id).credit = s.credit + (65536 * amount : Nat) ∧ (s.credited amount id).get F.PAY_TKLAST_RESULT = 0
      ∧ Changes creditZones [] s (s.credited amount id) := by
  have hlow : -(2 ^ 63) ≤ s.credit := toSigned_sixtyfour_lower _
  obtain ⟨hlast, hl⟩ := State.tokenLast_spec hc (result := 0) (by decide) (some 0) (some id)
  have h2 (x : Int) : Changes [(wholeReg F.PAY_CREDIT_LO).zone, (wholeReg F.PAY_CREDIT_HI).zone, F.PAY_STAT_ECAVAIL.zone] []
      (s.tokenLast 0 (some 0) (some id)) ((s.tokenLast 0 (some 0) (some id)).setCredit x) := (((Changes.refl hl.canonical).wr).wr).putB
  unfold State.credited
  rw [hl.credit]
  exact ⟨State.setCredit_spec hl.canonical (by omega) (by omega), ((h2 _).get _).trans hlast, hl.mono.next (h2 _)⟩

/-- A token that passes every check adds its credit, and its identifier is accepted. -/
theorem State.tokenAccepted_spec (hc : s.canonical = true) {amount id : Nat} (hid : id < 2 ^ 22)
    (hroom : s.credit + (65536 * amount : Nat) ≤ 65536 * 1000000000) :
    (s.tokenAccepted amount id).credit = s.credit + (65536 * amount : Nat)
      ∧ (s.tokenAccepted amount id).get F.PAY_TKLAST_RESULT = 0 ∧ (s.tokenAccepted amount id).get F.PAY_STAT_REJRUN = 0
      ∧ (s.tokenAccepted amount id).get F.PAY_TKCNT_ACCEPTED = min (s.get F.PAY_TKCNT_ACCEPTED + 1) 65535
      ∧ (s.tokenAccepted amount id).get F.PAY_TKHWM_HWM = max (s.get F.PAY_TKHWM_HWM) id
      ∧ Changes acceptZones [] s (s.tokenAccepted amount id) := by
  obtain ⟨hcredit, hlast, h1⟩ := State.credited_spec hc id hroom
  obtain ⟨hhwm, h2⟩ := State.acceptId_spec h1.canonical hid
  have h3 : Changes [F.PAY_TKCNT_ACCEPTED.zone] [] ((s.credited amount id).acceptId id)
      (((s.credited amount id).acceptId id).bump F.PAY_TKCNT_ACCEPTED 1) := (Changes.refl h2.canonical).bump
  have h4 : Changes [F.PAY_STAT_REJRUN.zone] [] (((s.credited amount id).acceptId id).bump F.PAY_TKCNT_ACCEPTED 1)
      (s.tokenAccepted amount id) := (Changes.refl h3.canonical).clr
  refine ⟨?_, ?_, State.clr_get h3.canonical, ?_, ?_, ((h1.mono.next h2).next h3).next h4⟩
  · rw [h4.credit, h3.credit, h2.credit, hcredit]
  · rw [h4.get F.PAY_TKLAST_RESULT, h3.get F.PAY_TKLAST_RESULT, h2.get F.PAY_TKLAST_RESULT, hlast]
  · rw [h4.get F.PAY_TKCNT_ACCEPTED, State.bump_get h2.canonical, h2.get F.PAY_TKCNT_ACCEPTED, h1.get F.PAY_TKCNT_ACCEPTED]
    rfl
  · rw [h4.get F.PAY_TKHWM_HWM, h3.get F.PAY_TKHWM_HWM, hhwm, h1.get F.PAY_TKHWM_HWM]

/-- The unit of the credit follows, and a commit is due. -/
theorem State.unitDue_changes (hc : s.canonical = true) : Changes [F.PAY_STAT_CMODE.zone] [.jrn] s s.unitOfCredit.commitDue := by
  have h : Changes [F.PAY_STAT_CMODE.zone] [.jrn] s s.unitOfCredit := (State.unitOfCredit_changes hc).mono
  exact h.setJrn

/-! ### TOKEN -/

theorem RegsBut.flag {fs : List Fld} (h : RegsBut s t fs) (g : Fld)
    (hg : ∀ f ∈ fs, f.addr = g.addr → f.hi < g.lo ∨ g.hi < f.lo := by decide) : t.flag g = s.flag g := by
  rw [State.flag, State.flag, h.get g hg]

/-- What answering a line leaves beside the carriers and the link. -/
theorem OnlyLineAnd.rest {fs : List Fld} (h : OnlyLineAnd s t fs) : t.uptime = s.uptime ∧ t.jrn = s.jrn ∧ t.keys = s.keys := by
  obtain ⟨-, -, h⟩ := h
  have hu := congrArg State.uptime h
  have hj := congrArg State.jrn h
  have hk := congrArg State.keys h
  exact ⟨hu, hj, hk⟩

/-- Without a lock no check of it changes anything. -/
theorem State.checkLockout_none (h : s.jrn.hid.lockEnd = none) : s.checkLockout = s := by simp [State.checkLockout, h]

theorem State.aclToken_off {digits : Text} {d : List Nat} (hd : readDecimals digits = some d) (hn : d.length = 20)
    (hl : s.jrn.hid.lockEnd = none) (hm : s.get F.PAY_CFG_MODE = 0) : s.aclToken digits = (errResp 6, s.tokenLast 10 none none) := by
  simp [State.aclToken, State.evalToken, State.checkLockout_none hl, hd, hn, hm]

/-- The evaluation with the vending key. -/
theorem State.evalToken_keyed {d key : List Nat} (hn : d.length = 20) (hl : s.jrn.hid.lockEnd = none) (hm : s.get F.PAY_CFG_MODE ≠ 0)
    (hf : s.flag F.PAY_STAT_LOCKOUT = false) (hk : s.slotFor (s.get F.PAY_TKCFG_SLOT) 2 = (some key, u)) :
    s.evalToken d = u.applyToken (digitsNat (ff1Dec key u.devid d)) (u.tokenResult (digitsNat (ff1Dec key u.devid d))) := by
  simp [State.evalToken, State.checkLockout_none hl, hm, hf, hk, State.keyedToken, hn]

/-- A token that fails a check is rejected. -/
theorem State.applyToken_failed {p : Nat} {x : Nat × Option Nat × Option Nat} (hx : 4 ≤ x.1) :
    s.applyToken p x = (x.1, (s.tokenLast x.1 x.2.1 x.2.2).tokenReject) := by
  have h0 : x.1 ≠ 0 := by omega
  simp [State.applyToken, h0]

theorem State.aclToken_of_eval {digits : Text} {d : List Nat} {e : Nat} (hd : readDecimals digits = some d) (hn : d.length = 20)
    (he : s.evalToken d = (e, v)) (h0 : e ≠ 0) (h10 : e ≠ 10) : s.aclToken digits = (errResp 7, v) := by
  simp [State.aclToken, hd, hn, he]

theorem State.aclToken_good {digits : Text} {d : List Nat} (hd : readDecimals digits = some d) (hn : d.length = 20)
    (he : s.evalToken d = (0, v)) : s.aclToken digits = (.later (fixedText v.credit 16), v) := by
  simp [State.aclToken, hd, hn, he]

/-- A response that the next Service window hands out holds the carrier. -/
def CarrierSt.awaiting (x : CarrierSt) (l : LineForm) (b : List Byte) : CarrierSt :=
  { x with held := some (.token, l), invoke := 0#8, after := [b] }

theorem State.row_later {o : Op} {w : Text} (hc : s.canonical = true) (hl : s.lineRuns c l = true)
    (ho : o.run (s.onLine c o.keep) = (.later w, u)) (hk : Ran s u c) :
    ((s.row c l o).car c).held = some (.token, l) ∧ ((s.row c l o).car c).after = [(Resp.later w).packet c 0#8 l]
      ∧ (s.row c l o).regs = u.regs ∧ (s.row c l o).jrn = u.jrn := by
  have ht : s.row c l o = u.setCar c ((u.car c).awaiting l ((Resp.later w).packet c 0#8 l)) := by
    rw [State.row_runs hc hl, ho]
    simp [State.conclude, State.owes, hk.held, CarrierSt.awaiting]
  have hset := State.setCar_car (c := c) hk.canonical ((u.car c).awaiting l ((Resp.later w).packet c 0#8 l))
  rw [ht]
  exact ⟨by rw [hset, CarrierSt.awaiting], by rw [hset, CarrierSt.awaiting], by cases c <;> rfl, by cases c <;> rfl⟩

end

/-- Settles O38: a piece of KEY LOAD joins the buffer and the whole message is handed on; a token adds its credit or is counted as
rejected. -/
theorem keyLoadAndToken : Obligations.KeyLoadAndToken := by
  intro c l digits d key s hc hl s1 s2 u p asked keyed
  have hran1 : Ran s s1 c := Ran.of_onLine hc hl true
  have hran2 : Ran s s2 c := Ran.of_onLine hc hl false
  obtain ⟨hon1, -, -⟩ := State.onLine_onlyLine (c := c) hc true
  obtain ⟨hon2, -, -⟩ := State.onLine_onlyLine (c := c) hc false
  have hbuf : s1.keyBufOf c = s.keyBufOf c := State.keyBufOf_of_cmd (by cases c <;> rfl) (by cases c <;> rfl)
  have hjrn : s2.jrn = s.jrn := by cases c <;> rfl
  have hcredit : s2.credit = s.credit := State.credit_of_rd hon2.rd hon2.rd
  have hslot : s2.get F.PAY_TKCFG_SLOT < 8 := s2.get_lt _
  have hfound (hk : (s2.slotFor (s2.get F.PAY_TKCFG_SLOT) 2).1 = some key) :
      s2.slotFor (s2.get F.PAY_TKCFG_SLOT) 2 = (some key, u) := Prod.ext hk rfl
  have heval (hk : keyed) : s2.evalToken d = u.applyToken p (u.tokenResult p) := by
    obtain ⟨⟨-, hn⟩, hlock, hm, hf, hkey⟩ := hk
    exact State.evalToken_keyed hn (hjrn ▸ hlock) (by rwa [hon2.get F.PAY_CFG_MODE])
      ((hon2.flag F.PAY_STAT_LOCKOUT).trans hf) (hfound hkey)
  refine ⟨?piece, ?whole, ?off, ?failed, ?passed⟩
  case piece =>
    intro piece hex b ht hne hlen hb hall
    rw [← hbuf] at hall ⊢
    have ho := State.aclKeyLoad_piece (l := l) ht hne hlen hb hall
    have hu := hran1.setKeyBuf (s1.keyBufOf c ++ b)
    obtain ⟨ha, honly⟩ := State.row_answered hc hl (o := opKeyLoad c l piece) ho rfl hu
    obtain ⟨hup, -⟩ := honly.rest
    have hs := State.row_session hc hl (o := opKeyLoad c l piece) ho rfl hu
    refine ⟨_, rfl, ha, ?_, State.row_onlyLine hc hl (o := opKeyLoad c l piece) ho rfl hu rfl⟩
    exact (State.keyBufOf_of_cmd hs.keyBuf hup).trans (State.keyBufOf_setKeyBuf _)
  case whole =>
    intro piece hex b v ht hne hlen hb hall hbusy hm
    rw [← hbuf] at hall hm
    have hbusy1 : s1.keyBusy = false := by
      have hk : s1.keys = s.keys := by cases c <;> rfl
      rw [← hbusy, State.keyBusy, State.keyBusy, hon1.flag F.KEYS_STAT_BUSY, hk, hon1.get F.KEYS_STAT_COMMIT]
    have ho := State.aclKeyLoad_last (l := l) ht hne hlen hb hall hbusy1 hm
    have hd := hran1.dropKeyBuf
    have hch := State.keyMessage_begun hd.canonical hm
    obtain ⟨hdef, hregs, hrest, hkb⟩ := State.row_deferring hc hl (o := opKeyLoad c l piece) ho (hd.next hch)
    have hkeys := congrArg State.keys hrest
    have hup := congrArg State.uptime hrest
    refine ⟨_, rfl, hdef, hkeys, ?_⟩
    have hbuf0 : v.keyBufOf c = [] :=
      (State.keyBufOf_of_cmd (congrArg Cmd.keyBuf hch.cmd) hch.uptime).trans State.keyBufOf_dropKeyBuf
    exact (State.keyBufOf_of_cmd hkb hup).trans hbuf0
  case off =>
    rintro ⟨hd, hn⟩ hlock hm
    have ho := State.aclToken_off hd hn (hjrn ▸ hlock) ((hon2.get F.PAY_CFG_MODE).trans hm)
    obtain ⟨hlast, hch⟩ := State.tokenLast_spec hran2.canonical (result := 10) (by decide) none none
    obtain ⟨ha, honly⟩ := State.row_answered hc hl (o := opToken digits) ho rfl (hran2.next hch)
    obtain ⟨-, hj, -⟩ := honly.rest
    obtain ⟨hregs, -, -⟩ := honly
    refine ⟨_, rfl, ha, (hregs.get _).trans hlast, ?_, ?_⟩
    · rw [State.credit_of_rd hregs.rd hregs.rd, hch.credit, hcredit]
    · exact hj.trans (hch.jrn.trans hjrn)
  case failed =>
    intro hk h4
    have he := heval hk
    obtain ⟨⟨hd, hn⟩, -, -, -, hkey⟩ := hk
    have hfail := u.tokenResult_le p
    rw [State.applyToken_failed h4] at he
    have ho := State.aclToken_of_eval hd hn he (by omega) (by omega)
    have h1 := State.slotFor_found hran2.canonical hslot (hfound hkey)
    obtain ⟨hlast, h2⟩ := State.tokenLast_spec h1.canonical (result := (u.tokenResult p).1) (by omega) (u.tokenResult p).2.1 (u.tokenResult p).2.2
    obtain ⟨hcount, hrun, hdue, h3, hlock⟩ := State.tokenReject_spec h2.canonical
    obtain ⟨ha, honly⟩ := State.row_answered hc hl (o := opToken digits) ho rfl (((hran2.next h1).next h2).next h3)
    obtain ⟨-, hj, -⟩ := honly.rest
    obtain ⟨hregs, -, -⟩ := honly
    have hf (f : Fld) (ha : ∀ z ∈ [loadedZone], z.apart f = true) (hb : ∀ z ∈ [(wholeReg F.PAY_TKLAST).zone], z.apart f = true)
        (hc : ∀ g ∈ [wholeReg F.CMD_LINES], g.addr = f.addr → g.hi < f.lo ∨ f.hi < g.lo) :
        (u.tokenLast (u.tokenResult p).1 (u.tokenResult p).2.1 (u.tokenResult p).2.2).get f = s.get f := by
      rw [h2.get f hb, h1.get f ha, hon2.get f hc]
    rw [hf F.PAY_TKCNT_REJECTED (by decide) (by decide) (by decide)] at hcount
    rw [hf F.PAY_STAT_REJRUN (by decide) (by decide) (by decide)] at hrun hlock
    rw [hf F.RTC_SEC_SEC (by decide) (by decide) (by decide)] at hlock
    refine ⟨_, rfl, ha, (hregs.get _).trans ((h3.get _).trans hlast), ?_, ?_, (hregs.get _).trans hcount, (hregs.get _).trans hrun, fun h5 => ⟨?_, ?_⟩⟩
    · rw [State.credit_of_rd hregs.rd hregs.rd, h3.credit, h2.credit, h1.credit, hcredit]
    · exact (congrArg Journal.due hj).trans hdue
    · exact (hregs.flag F.PAY_STAT_LOCKOUT).trans (hlock h5).1
    · exact (congrArg (fun j : Journal => j.hid.lockEnd) hj).trans (hlock h5).2
  case passed =>
    intro id hk hres
    have he := heval hk
    obtain ⟨⟨hd, hn⟩, -, -, -, hkey⟩ := hk
    rw [hres, State.applyToken_passed] at he
    have ho := State.aclToken_good hd hn he
    obtain ⟨hid, hroom⟩ := State.tokenResult_passed hres
    have h1 := State.slotFor_found hran2.canonical hslot (hfound hkey)
    obtain ⟨hcr, hlast, hrun, hcount, hhwm, h2⟩ := State.tokenAccepted_spec h1.canonical hid hroom
    have h3 := State.unitDue_changes h2.canonical
    obtain ⟨hheld, hafter, hregs, hj⟩ := State.row_later hc hl (o := opToken digits) ho (((hran2.next h1).next h2).next h3)
    have hr : RegsBut (u.tokenAccepted (p / 65536 % 2 ^ 24) id).unitOfCredit.commitDue (s.row c l (opToken digits)) [] := .of_regs hregs
    have hcredit1 : (s.row c l (opToken digits)).credit = (u.tokenAccepted (p / 65536 % 2 ^ 24) id).unitOfCredit.commitDue.credit :=
      State.credit_of_rd hr.rd hr.rd
    rw [← hcredit1] at hafter
    refine ⟨_, rfl, ?_, hheld, hafter, (hr.get _).trans ((h3.get _).trans hlast), (hr.get _).trans ((h3.get _).trans hrun),
      congrArg Journal.due hj, (hr.get _).trans ((h3.get _).trans ?_), (hr.get _).trans ((h3.get _).trans ?_)⟩
    · rw [hcredit1, h3.credit, hcr, h1.credit, hcredit]
      push_cast
      rfl
    · rw [hcount, h1.get F.PAY_TKCNT_ACCEPTED, hon2.get F.PAY_TKCNT_ACCEPTED]
    · rw [hhwm, h1.get F.PAY_TKHWM_HWM, hon2.get F.PAY_TKHWM_HWM]

end Sys2Proof.Machine
end

section
set_option Elab.async false
/-! PROOF. What the operations of a Capture, and of a Service window, leave as it was: the answer owed for a saved configuration,
and the tick with what a Capture takes into force. One lemma per operation, in the order of the model's files. -/

namespace Sys2Proof.Machine

/-- How much of the state `Held` speaks of: the answer owed for a saved configuration; the tick in force with its time writes and
the seal; or these, the configuration that waits for a Capture and the shots of the window. -/
inductive Scope
  | reply
  | tick
  | all
  deriving DecidableEq

/-- From `s0` the state `t` has been reached with the parts of the scope as they were. -/
structure Held (k : Scope) (s0 t : State) : Prop where
  reply : k = .reply → t.cmd.saveReply = s0.cmd.saveReply
  tick : k ≠ .reply → t.rm.tick = s0.rm.tick
  startTime : k ≠ .reply → t.rm.startTime = s0.rm.startTime
  steps : k ≠ .reply → t.rtc.steps = s0.rtc.steps
  sealForce : k ≠ .reply → t.pins.sealForce = s0.pins.sealForce
  sealPend : k ≠ .reply → t.pins.sealPend = s0.pins.sealPend
  shadow : k = .all → t.shadow = s0.shadow
  schedPend : k = .all → t.rm.schedPend = s0.rm.schedPend
  run : k = .all → t.ame.run = s0.ame.run
  done : k = .all → t.ame.done = s0.ame.done

section
variable {k : Scope} {s0 s t u : State}

/-- The same of a state that comes second in a pair. -/
def HeldP {α : Type} (k : Scope) (s0 : State) (p : α × State) : Prop := Held k s0 p.2

/-- The same of a state that comes third in a triple. -/
def HeldPP {α β : Type} (k : Scope) (s0 : State) (p : α × β × State) : Prop := Held k s0 p.2.2

/-- The same of a state that comes first in a pair. -/
def HeldF {α : Type} (k : Scope) (s0 : State) (p : State × α) : Prop := Held k s0 p.1

/-- The same of a state that may be absent. -/
def HeldOpt (k : Scope) (s0 : State) (o : Option State) : Prop := ∀ t, o = some t → Held k s0 t

theorem Held.refl : Held k s s := by
  constructor <;> intro <;> rfl

theorem Held.trans (h : Held k s t) (i : Held k t u) : Held k s u where
  reply c := (i.reply c).trans (h.reply c)
  tick c := (i.tick c).trans (h.tick c)
  startTime c := (i.startTime c).trans (h.startTime c)
  steps c := (i.steps c).trans (h.steps c)
  sealForce c := (i.sealForce c).trans (h.sealForce c)
  sealPend c := (i.sealPend c).trans (h.sealPend c)
  shadow c := (i.shadow c).trans (h.shadow c)
  schedPend c := (i.schedPend c).trans (h.schedPend c)
  run c := (i.run c).trans (h.run c)
  done c := (i.done c).trans (h.done c)

/-- The fields that the scope `.tick` names. -/
def tickFields (rm : Ringm) (rtc : Rtc) (pins : Pins) : Nat × (Nat × Nat) × List TimeStep × Bool × Option Bool :=
  (rm.tick, rm.startTime, rtc.steps, pins.sealForce, pins.sealPend)

/-- The fields that the scopes name, but for the shadows. -/
def heldFields (cmd : Cmd) (rm : Ringm) (rtc : Rtc) (pins : Pins) (ame : Ame) :=
  (cmd.saveReply, tickFields rm rtc pins, rm.schedPend, ame.run, ame.done)

/-- An update of fields that `Held` does not speak of. -/
theorem Held.same (h : Held k s0 t)
    {regs saved crs tok ringSeq nvm ecc scrub uptime free freeLevel pow jrn bill act kpd shot sens mps safe keys link disp mgmt}
    {rtc rm cmd ame pins} (e : heldFields cmd rm rtc pins ame = heldFields t.cmd t.rm t.rtc t.pins t.ame) :
    Held k s0 ⟨
      t.pending, regs, t.shadow, saved, crs, tok, ringSeq, nvm, ecc, scrub, uptime, free, freeLevel, rtc, pow, rm, cmd, jrn,
      bill, act, kpd, ame, shot, sens, mps, safe, keys, link, disp, mgmt, pins⟩ := by
  simp only [heldFields, tickFields, Prod.mk.injEq] at e
  obtain ⟨hc, ⟨ht, hs, hr, hf, hp⟩, hq, ha, hd⟩ := e
  exact h.trans ⟨fun _ => hc, fun _ => ht, fun _ => hs, fun _ => hr, fun _ => hf, fun _ => hp, fun _ => rfl, fun _ => hq,
    fun _ => ha, fun _ => hd⟩

/-- An update of fields other than the answer owed. -/
theorem Held.reply_same (h : Held .reply s0 t)
    {regs shadow saved crs tok ringSeq nvm ecc scrub uptime free freeLevel rtc pow rm jrn bill act kpd ame shot sens mps safe
    keys link disp mgmt pins}
    {cmd : Cmd} (e : cmd.saveReply = t.cmd.saveReply) :
    Held .reply s0 ⟨
      t.pending, regs, shadow, saved, crs, tok, ringSeq, nvm, ecc, scrub, uptime, free, freeLevel, rtc, pow, rm, cmd, jrn, bill,
      act, kpd, ame, shot, sens, mps, safe, keys, link, disp, mgmt, pins⟩ :=
  h.trans (by constructor <;> simp [e])

/-- An update of fields other than the tick in force, its time writes and the seal. -/
theorem Held.tick_same (h : Held .tick s0 t)
    {regs shadow saved crs tok ringSeq nvm ecc scrub uptime free freeLevel pow cmd jrn bill act kpd ame shot sens mps safe keys
    link disp mgmt}
    {rtc rm pins} (e : tickFields rm rtc pins = tickFields t.rm t.rtc t.pins) :
    Held .tick s0 ⟨
      t.pending, regs, shadow, saved, crs, tok, ringSeq, nvm, ecc, scrub, uptime, free, freeLevel, rtc, pow, rm, cmd, jrn, bill,
      act, kpd, ame, shot, sens, mps, safe, keys, link, disp, mgmt, pins⟩ := by
  simp only [tickFields, Prod.mk.injEq] at e
  obtain ⟨ht, hs, hr, hf, hp⟩ := e
  exact h.trans (by constructor <;> simp [*])

theorem Held.ite {c : Prop} [Decidable c] (hs : Held k u s) (ht : Held k u t) : Held k u (if c then s else t) := by
  split <;> assumption

theorem HeldP.out {α : Type} {p : α × State} (h : HeldP k s0 p) : Held k s0 p.2 := h

theorem HeldPP.out {α β : Type} {p : α × β × State} (h : HeldPP k s0 p) : HeldP k s0 p.2 := h

theorem HeldP.pair {α : Type} {a : α} (h : Held k s0 t) : HeldP k s0 (a, t) := h

theorem HeldF.pair {α : Type} {a : α} (h : Held k s0 t) : HeldF k s0 (t, a) := h

theorem HeldPP.pair {α β : Type} {a : α} {p : β × State} (h : HeldP k s0 p) : HeldPP k s0 (a, p) := h

theorem HeldP.of_eq {α : Type} {p : α × State} {a : α} (e : p = (a, t)) (h : HeldP k s0 p) : Held k s0 t := by
  subst e
  exact h

theorem HeldF.of_eq {α : Type} {p : State × α} {a : α} (e : p = (t, a)) (h : HeldF k s0 p) : Held k s0 t := by
  subst e
  exact h

theorem HeldP.ite {α : Type} {a b : α × State} {c : Prop} [Decidable c] (ha : HeldP k s0 a) (hb : HeldP k s0 b) :
    HeldP k s0 (if c then a else b) := by split <;> assumption

theorem HeldPP.ite {α β : Type} {a b : α × β × State} {c : Prop} [Decidable c] (ha : HeldPP k s0 a) (hb : HeldPP k s0 b) :
    HeldPP k s0 (if c then a else b) := by split <;> assumption

theorem HeldF.ite {α : Type} {a b : State × α} {c : Prop} [Decidable c] (ha : HeldF k s0 a) (hb : HeldF k s0 b) :
    HeldF k s0 (if c then a else b) := by split <;> assumption

theorem HeldOpt.none : HeldOpt k s0 none := by
  intro t h
  cases h

theorem HeldOpt.some (h : Held k s0 t) : HeldOpt k s0 (some t) := by
  intro u hu
  cases hu
  exact h

theorem HeldOpt.ite {a b : Option State} {c : Prop} [Decidable c] (ha : HeldOpt k s0 a) (hb : HeldOpt k s0 b) :
    HeldOpt k s0 (if c then a else b) := by split <;> assumption

theorem Held.foldl {α : Type} {f : State → α → State} {l : List α} (ha : Held k s0 s)
    (hf : ∀ t x, Held k s0 t → Held k s0 (f t x)) : Held k s0 (l.foldl f s) := by
  induction l generalizing s with
  | nil => exact ha
  | cons x l ih => exact ih (hf s x ha)

theorem HeldPP.foldl {α β γ : Type} {f : β × γ × State → α → β × γ × State} {l : List α}
    {a : β × γ × State} (ha : HeldPP k s0 a) (hf : ∀ t x, HeldPP k s0 t → HeldPP k s0 (f t x)) : HeldPP k s0 (l.foldl f a) := by
  induction l generalizing a with
  | nil => exact ha
  | cons x l ih => exact ih (hf a x ha)

/-! ### Registers and stores -/

theorem Held.wr {a : Nat} {w : Word} (hk : Held k s0 s) : Held k s0 (s.wr a w) := hk.same (by rfl)

theorem Held.put {f : Fld} {v : Nat} (hk : Held k s0 s) : Held k s0 (s.put f v) := hk.same (by rfl)

theorem Held.putI {f : Fld} {v : Int} (hk : Held k s0 s) : Held k s0 (s.putI f v) := hk.same (by rfl)

theorem Held.putB {f : Fld} {b : Bool} (hk : Held k s0 s) : Held k s0 (s.putB f b) := hk.same (by rfl)

theorem Held.set1 {f : Fld} (hk : Held k s0 s) : Held k s0 (s.set1 f) := hk.same (by rfl)

theorem Held.clr {f : Fld} (hk : Held k s0 s) : Held k s0 (s.clr f) := hk.same (by rfl)

theorem Held.bump {f : Fld} {n : Nat} (hk : Held k s0 s) : Held k s0 (s.bump f n) := hk.same (by rfl)

theorem Held.crsWrite {a : Nat} {b : List Byte} (hk : Held k s0 s) : Held k s0 (s.crsWrite a b) := hk.same (by rfl)

theorem Held.setToken {i v : Nat} (hk : Held k s0 s) : Held k s0 (s.setToken i v) := hk.same (by rfl)

theorem Held.nextSeq {r : Nat} (hk : Held k s0 s) : HeldP k s0 (s.nextSeq r) := hk.same (by rfl)

/-! ### The operations of Machine/Ops.lean -/

theorem Held.draw {n : ℕ} (hk : Held k s0 s) : HeldP k s0 (s.draw n) := by
  unfold State.draw
  exact HeldP.pair (hk.same (by rfl))

theorem Held.drawLevel {n : ℕ} (hk : Held k s0 s) : HeldP k s0 (s.drawLevel n) := by
  unfold State.drawLevel
  exact HeldP.pair (hk.same (by rfl))

theorem Held.fitS {n : ℕ} {v : ℤ} (hk : Held k s0 s) : HeldP k s0 (s.fitS n v) := by
  unfold State.fitS
  refine HeldP.ite ?_ ?_
  · exact HeldP.pair hk
  · split
    · rename_i x s1 heq
      have hs1 : Held k s0 s1 := HeldP.of_eq heq hk.drawLevel
      exact HeldP.pair hs1

theorem Held.moveToken {r slot v : ℕ} (hk : Held k s0 s) : Held k s0 (s.moveToken r slot v) := by
  unfold State.moveToken
  exact Held.ite hk.setToken (Held.ite hk.setToken.put hk.setToken.put)

theorem Held.moveAll {r : ℕ} {slots : List ℕ} {v : ℕ} (hk : Held k s0 s) : Held k s0 (s.moveAll r slots v) := by
  unfold State.moveAll
  exact Held.foldl hk (fun _ _ ht => ht.moveToken)

theorem Held.retPut {i v : ℕ} (hk : Held k s0 s) : Held k s0 (s.retPut i v) := by
  unfold State.retPut
  exact hk.wr

theorem Held.retPutAll {i : Nat} {l : List Nat} (h : Held k s0 s) : Held k s0 (s.retPutAll i l) := by
  induction l generalizing s i with
  | nil => exact h
  | cons v l ih => exact ih h.retPut

theorem Held.retSeal (hk : Held k s0 s) : Held k s0 s.retSeal := by
  unfold State.retSeal
  exact hk.retPut.retPut

theorem Held.retWrite {i : ℕ} {vs : List ℕ} (hk : Held k s0 s) : Held k s0 (s.retWrite i vs) := by
  unfold State.retWrite
  exact hk.retPutAll.retSeal

theorem Held.logTrouble {code source data : ℕ} (hk : Held k s0 s) : Held k s0 (s.logTrouble code source data) := by
  unfold State.logTrouble
  exact (Held.ite hk.moveToken.crsWrite.moveToken.bump hk.moveToken.crsWrite.moveToken).put.put

theorem Held.legalShow (hk : Held k s0 s) : Held k s0 s.legalShow := by
  unfold State.legalShow
  exact Held.ite hk.put hk.put.retWrite

theorem Held.legalQueue {e : LegalEntry} (hk : Held k s0 s) : Held k s0 (s.legalQueue e) := by
  unfold State.legalQueue
  exact Held.ite hk.bump (Held.ite (hk.same (by rfl)).legalShow (hk.same (by rfl)).legalShow)

theorem Held.legalAt {sec code : ℕ} {data : List Byte} (hk : Held k s0 s) : Held k s0 (s.legalAt sec code data) := by
  unfold State.legalAt
  exact Held.ite (Held.ite hk.legalQueue (hk.same (by rfl))) hk.legalQueue

theorem Held.legal {code : ℕ} {data : List Byte} (hk : Held k s0 s) : Held k s0 (s.legal code data) := by
  unfold State.legal
  exact hk.legalAt

theorem Held.legalRelease {n : Nat} (h : Held k s0 s) : Held k s0 (State.legalRelease n s) := by
  induction n generalizing s with
  | zero => exact h
  | succ n ih =>
    unfold State.legalRelease
    split
    · exact h
    · exact Held.ite (ih (h.same (by rfl)).legalShow) h

theorem Held.commitDue (hk : Held k s0 s) : Held k s0 s.commitDue := by
  unfold State.commitDue
  exact hk.same (by rfl)

theorem Held.demandClose (hk : Held k s0 s) : Held k s0 s.demandClose := by
  unfold State.demandClose
  exact (Held.ite hk hk.set1.commitDue).same (by rfl)

theorem Held.zcRefuse {cause : ℕ} (hk : Held k s0 s) : Held k s0 (s.zcRefuse cause) := by
  unfold State.zcRefuse
  split
  · exact hk
  · exact (hk.same (by rfl)).put.put.put.clr

theorem Held.noteAck {code : ℕ} (hk : Held k s0 s) : Held k s0 (s.noteAck code) := by
  unfold State.noteAck
  exact Held.ite (hk.same (by rfl)).set1 hk

theorem Held.enterSafe {code : ℕ} (hk : Held k s0 s) : Held k s0 (s.enterSafe code) := by
  unfold State.enterSafe
  refine Held.ite ?_ ?_
  · exact hk.put.clr.noteAck
  · extract_lets -merge -underBinder s1 s2 s3 src s4
    have hs1 : Held k s0 s1 := hk.logTrouble
    have hs2 : Held k s0 s2 := hs1.set1.put.clr
    have hs3 : Held k s0 s3 := hs2.bump.legal
    have hs4 : Held k s0 s4 := (hs3.same (by rfl)).noteAck.zcRefuse
    exact Held.ite hs4.demandClose hs4

theorem Held.detect {code source data : ℕ} {r : Reaction} (hk : Held k s0 s) : Held k s0 (s.detect code source data r) := by
  unfold State.detect
  extract_lets -merge -underBinder s1 s2 s3 src s4 s5
  have hs1 : Held k s0 s1 := hk.logTrouble
  have hs2 : Held k s0 s2 := by
    dsimp -zeta only [s2]
    split
    · exact hs1.put
    · exact hs1
  have hs3 : Held k s0 s3 := hs2.bump
  have hs4 : Held k s0 s4 := hs3.same (by rfl)
  have hs5 : Held k s0 s5 := Held.ite hs4.clr hs4
  split
  · exact hs5.enterSafe
  · exact Held.ite hs5.enterSafe hs5
  · exact hs5
  · exact hs5

theorem Held.safetyReset {code : ℕ} (hk : Held k s0 s) : Held k s0 (s.safetyReset code) := by
  unfold State.safetyReset
  exact hk.same (by rfl)

theorem Held.eccMeet {a n : ℕ} (hk : Held k s0 s) : Held k s0 (s.eccMeet a n) := by
  unfold State.eccMeet
  exact Held.ite hk (Held.foldl (hk.bump.same (by rfl)) (fun _ _ ht => ht.set1.detect.safetyReset))

theorem Held.consume {r : ℕ} {slots : List ℕ} (hk : Held k s0 s) : Held k s0 (s.consume r slots) := by
  unfold State.consume
  exact (Held.foldl hk.moveAll (fun _ _ ht => ht.eccMeet)).moveAll

theorem Held.keyAbort (hk : Held k s0 s) : Held k s0 s.keyAbort := by
  unfold State.keyAbort
  extract_lets -merge -underBinder q hit
  have hhit : ∀ r s, Held k s0 s → Held k s0 (hit r s) := by
    intro r s hs
    dsimp -zeta only [hit]
    exact hs.set1.put.bump.clr.same (by rfl)
  split
  · exact hhit _ _ (hk.same (by rfl))
  · exact Held.ite ((hhit _ _ (hk.same (by rfl))).clr) hk
  · exact hk

theorem Held.tamperRecord {mask : ℕ} {hold : Bool} (hk : Held k s0 s) : Held k s0 (s.tamperRecord mask hold) := by
  unfold State.tamperRecord
  exact hk.retPut.retWrite

theorem Held.showHold (hk : Held k s0 s) : Held k s0 s.showHold := by
  unfold State.showHold
  exact Held.ite (hk.set1.set1.same (by rfl)) hk

theorem Held.raiseTamper {src : ℕ} (hk : Held k s0 s) : Held k s0 (s.raiseTamper src) := by
  unfold State.raiseTamper
  extract_lets -merge -underBinder s1 s2 s3 s4 s5 s6
  have hs1 : Held k s0 s1 := hk.put
  have hs2 : Held k s0 s2 := hs1.bump
  have hs3 : Held k s0 s3 := hs2.logTrouble
  have hs4 : Held k s0 s4 := hs3.legal
  have hs5 : Held k s0 s5 := Held.ite hs4.tamperRecord.keyAbort hs4
  have hs6 : Held k s0 s6 := Held.ite hs5.showHold hs5
  exact Held.ite hs6.set1.demandClose hs6

theorem Held.tamperEnd {src : ℕ} (hk : Held k s0 s) : Held k s0 (s.tamperEnd src) := by
  unfold State.tamperEnd
  exact hk.legal

theorem Held.enterPower {v : ℕ} (hk : Held k s0 s) : Held k s0 (s.enterPower v) := by
  unfold State.enterPower
  exact hk.put

theorem Held.restPower (hk : Held k s0 s) : Held k s0 s.restPower := by
  unfold State.restPower
  exact hk.enterPower

theorem Held.settlePower (hk : Held k s0 s) : Held k s0 s.settlePower := by
  unfold State.settlePower
  exact Held.ite hk.restPower hk

/-! ### The operations of Machine/Clock.lean -/

theorem Held.setCar {c : Carrier} {x : CarrierSt} (hk : Held k s0 s) : Held k s0 (s.setCar c x) := by
  unfold State.setCar
  split <;> exact hk.same (by rfl)

theorem Held.linkUntrust (hk : Held k s0 s) : Held k s0 s.linkUntrust := by
  unfold State.linkUntrust
  exact Held.foldl hk (fun _ _ hs => hs.clr.clr)

theorem Held.setOsf {cause : Fld} (hk : Held k s0 s) : Held k s0 (s.setOsf cause) := by
  unfold State.setOsf
  exact hk.set1.set1.linkUntrust

/-! ### The operations of Machine/Lcd.lean -/

theorem Held.lcdBegin (hk : Held k s0 s) : Held k s0 s.lcdBegin := by
  unfold State.lcdBegin
  exact hk.same (by rfl)

theorem Held.lcdDefer {t0 t1 : ℕ} (hk : Held k s0 s) : Held k s0 (s.lcdDefer t0 t1) := by
  unfold State.lcdDefer
  exact hk.same (by rfl)

theorem Held.runHold {t0 t1 : ℕ} (hk : Held k s0 s) : Held k s0 (s.runHold t0 t1) := by
  unfold State.runHold
  split
  · exact hk
  · exact Held.ite hk (hk.same (by rfl))

/-! ### The operations of Machine/Schedule.lean -/

theorem Held.schedInstall {t : List (ℕ × Word)} (hk : Held k s0 s) : Held k s0 (s.schedInstall t) := by
  unfold State.schedInstall
  exact Held.foldl hk (fun _ _ hs => hs.wr)

theorem Held.ready {task : ℕ} (hk : Held k s0 s) : Held k s0 (s.ready task) := by
  unfold State.ready
  split
  · exact hk.same (by rfl)
  · exact hk

/-! ### The operations of Machine/ShotRecord.lean -/

theorem Held.setPathSt {n : ℕ} {p : PathSt} (hk : Held k s0 s) : Held k s0 (s.setPathSt n p) := by
  unfold State.setPathSt
  exact hk.same (by rfl)

/-! ### The operations of Machine/Sensors.lean -/

theorem Held.startConv (hk : Held k s0 s) : Held k s0 s.startConv := by
  unfold State.startConv
  split
  · exact hk.same (by rfl)

theorem Held.sampleInput {x : ℕ × ℕ × Option ℤ × ℕ} (hk : Held k s0 s) : Held k s0 (s.sampleInput x) := by
  unfold State.sampleInput
  dsimp -zeta only
  extract_lets -merge -underBinder was s2
  have hs2 : Held k s0 s2 := (HeldP.out (by
    split
    · exact hk.fitS
    · exact HeldP.pair hk)).putI.put.put
  exact Held.ite hs2.raiseTamper (Held.ite hs2.tamperEnd hs2)

theorem Held.sampleBridge {x : ℕ × Option ℤ × ℤ} (hk : Held k s0 s) : Held k s0 (s.sampleBridge x) := by
  unfold State.sampleBridge
  dsimp -zeta only
  exact (HeldP.out (by
    split
    · exact hk.fitS
    · exact HeldP.pair hk)).putI.put.putI.put

theorem Held.sensDisabled (hk : Held k s0 s) : Held k s0 s.sensDisabled := by
  unfold State.sensDisabled
  exact Held.ite (Held.foldl hk (fun _ _ ht => Held.ite ht ht.put)) ((Held.foldl hk (fun _ _ ht => Held.ite ht ht.put)).put)

theorem Held.sensCapture (hk : Held k s0 s) : Held k s0 s.sensCapture := by
  unfold State.sensCapture
  extract_lets -merge -underBinder h s1 s2
  have hs1 : Held k s0 s1 := hk.same (by rfl)
  have hs2 : Held k s0 s2 := by
    dsimp -zeta only [s2]
    clear_value h
    split
    · exact hs1
    · extract_lets -merge -underBinder t src srcx2 t1
      have ht : Held k s0 t := Held.foldl hs1 (fun _ _ hs => hs.sampleInput)
      have hsrc : Held k s0 src := ht.put
      have ht1 : Held k s0 t1 := Held.ite ht (hsrc.same (by rfl))
      split
      · exact ht1
      · exact ht1.sampleBridge
  exact hs2.sensDisabled

/-! ### The operations of Machine/Acoustic.lean -/

theorem Held.wrAll {a : Nat} {l : List Word} (h : Held k s0 s) : Held k s0 (s.wrAll a l) := by
  induction l generalizing s a with
  | nil => exact h
  | cons v l ih => exact ih h.wr

theorem Held.buildUcode (hk : Held k s0 s) : Held k s0 s.buildUcode := by
  unfold State.buildUcode
  extract_lets -merge -underBinder pad s1
  have hs1 : Held k s0 s1 := Held.foldl hk (fun _ _ ht => ht.wrAll)
  exact hs1.wrAll

theorem Held.buildDur (hk : Held k s0 s) : Held k s0 s.buildDur := by
  unfold State.buildDur
  exact Held.foldl hk (fun _ _ ht => ht.put)

theorem Held.buildPdur (hk : Held k s0 s) : Held k s0 s.buildPdur := by
  unfold State.buildPdur
  exact Held.foldl hk (fun _ _ ht => ht.put)

theorem Held.showPol {n : ℕ} (hk : Held k s0 s) : Held k s0 (s.showPol n) := by
  unfold State.showPol
  exact hk.put

theorem Held.goStale {n : ℕ} (hk : Held k s0 s) : Held k s0 (s.goStale n) := by
  unfold State.goStale
  exact (hk.set1.put.same (by rfl)).putI.setPathSt

theorem Held.startBoost (hk : Held k s0 s) : Held k s0 s.startBoost := by
  unfold State.startBoost
  exact hk.same (by rfl)

theorem Held.boostCapture (hk : Held k s0 s) : Held k s0 s.boostCapture := by
  unfold State.boostCapture
  refine Held.ite ?_ ?_
  · exact hk.startBoost.same (by rfl)
  · extract_lets -merge -underBinder src srcx2 s1
    have hsrc : Held k s0 src := hk.clr
    have hs1 : Held k s0 s1 := hsrc.same (by rfl)
    split
    · exact hs1.same (by rfl)
    · refine Held.ite ?_ ?_
      · exact hs1
      · split
        · rename_i v s2 heq
          have hs2 : Held k s0 s2 := HeldP.of_eq heq hs1.draw
          exact hs2.same (by rfl)

theorem Held.ameCapture {changed : Bool} (hk : Held k s0 s) : HeldF k s0 (s.ameCapture changed) := by
  unfold State.ameCapture
  extract_lets -merge -underBinder key stale s1 src s2 s3 s4
  have hs1 : Held k s0 s1 := Held.foldl hk (fun _ _ hs => hs.goStale)
  have hs2 : Held k s0 s2 := hs1.same (by rfl)
  have hs3 : Held k s0 s3 := Held.ite hs2.buildUcode.buildDur.buildPdur hs2
  have hs4 : Held k s0 s4 := Held.foldl hs3 (fun _ _ ht => (Held.ite ht ht.put).showPol)
  exact HeldF.pair hs4.boostCapture

theorem Held.consumeTrig (hk : Held k s0 s) : Held k s0 s.consumeTrig := by
  unfold State.consumeTrig
  exact Held.ite (Held.ite ((hk.same (by rfl)).same (by rfl)).bump (hk.same (by rfl)).bump) hk

theorem Held.showTx {on : Bool} (hk : Held k s0 s) : Held k s0 (s.showTx on) := by
  unfold State.showTx
  exact hk.same (by rfl)

theorem Held.xo24Off (hk : Held k s0 s) : Held k s0 s.xo24Off := by
  unfold State.xo24Off
  exact hk.clr.clr

theorem Held.xo24Rest (hk : Held k s0 s) : Held k s0 s.xo24Rest := by
  unfold State.xo24Rest
  exact Held.ite hk hk.xo24Off

theorem Held.dispWindow (hk : Held k s0 s) : Held k s0 s.dispWindow := by
  unfold State.dispWindow
  exact Held.ite hk.runHold.lcdDefer hk.runHold

theorem Held.freeRecs {recs : List ℕ} (hk : Held k s0 s) : Held k s0 (s.freeRecs recs) := by
  unfold State.freeRecs
  exact (Held.foldl hk (fun _ _ ht => Held.ite ht.consume.consume ht.moveAll.moveToken)).same (by rfl)

/-! ### The operations of Machine/ShotTick.lean -/

theorem Held.markRecov {x : ℕ} (hk : Held k s0 s) : Held k s0 (s.markRecov x) := by
  unfold State.markRecov
  exact hk.same (by rfl)

theorem Held.recovCapture {x : ℕ} {now : Bool} (hk : Held k s0 s) : Held k s0 (s.recovCapture x now) := by
  unfold State.recovCapture
  exact (Held.ite hk.put hk).same (by rfl)

theorem Held.zcCapture (hk : Held k s0 s) : Held k s0 s.zcCapture := by
  unfold State.zcCapture
  split
  · exact hk
  · exact hk.same (by rfl)

theorem Held.zcInForce (hk : Held k s0 s) : HeldF k s0 s.zcInForce := by
  unfold State.zcInForce
  split
  · exact HeldF.ite (HeldF.pair ((Held.foldl hk (fun _ _ ht => ht.putI.putI.put.put.clr.same (by rfl))).put.put.put.same
        (by rfl))) (HeldF.pair hk)
  · exact HeldF.pair hk

/-! ### The operations of Machine/Meter.lean -/

theorem Held.setMp {x : ℕ} {m : MpSt} (hk : Held k s0 s) : Held k s0 (s.setMp x m) := by
  unfold State.setMp
  exact hk.same (by rfl)

theorem Held.emitPulses {x : ℕ} (hk : Held k s0 s) : Held k s0 (s.emitPulses x) := by
  unfold State.emitPulses
  exact hk.setMp

theorem Held.clearTac {x : ℕ} (hk : Held k s0 s) : Held k s0 (s.clearTac x) := by
  unfold State.clearTac
  exact Held.ite hk.clr hk

theorem Held.mpCapture {x : ℕ} (hk : Held k s0 s) : Held k s0 (s.mpCapture x) := by
  unfold State.mpCapture
  exact Held.ite hk.emitPulses.clearTac.putB hk.emitPulses.clearTac

/-! ### The operations of Machine/SafetyNet.lean -/

theorem Held.condCapture {sf2 : Bool} {f : Fld} (hk : Held k s0 s) : Held k s0 (s.condCapture sf2 f) := by
  unfold State.condCapture
  exact Held.ite hk.putB.logTrouble hk.putB

theorem Held.conditions (hk : Held k s0 s) : Held k s0 s.conditions := by
  unfold State.conditions
  exact hk.condCapture.condCapture

theorem Held.refreshClose (hk : Held k s0 s) : Held k s0 s.refreshClose := by
  unfold State.refreshClose
  exact Held.ite hk.putB.demandClose hk.putB

theorem Held.leaveSafe (hk : Held k s0 s) : Held k s0 s.leaveSafe := by
  unfold State.leaveSafe
  exact (hk.logTrouble.clr.clr.clr.clr.same (by rfl)).legal.markRecov.markRecov

theorem Held.safeCapture (hk : Held k s0 s) : Held k s0 s.safeCapture := by
  unfold State.safeCapture
  exact (Held.ite hk.leaveSafe (Held.ite hk.put hk)).same (by rfl)

theorem Held.crcCapture (hk : Held k s0 s) : Held k s0 s.crcCapture := by
  unfold State.crcCapture
  exact hk.wr

theorem Held.setTampIn {n : ℕ} {x : Sampler} (hk : Held k s0 s) : Held k s0 (s.setTampIn n x) := by
  unfold State.setTampIn
  exact hk.same (by rfl)

theorem Held.showTamp {n : ℕ} (hk : Held k s0 s) : Held k s0 (s.showTamp n) := by
  unfold State.showTamp
  exact hk.putB.putB

theorem Held.tampSense {n : ℕ} (hk : Held k s0 s) : Held k s0 (s.tampSense n) := by
  unfold State.tampSense
  exact (Held.ite hk.setTampIn hk).same (by rfl)

theorem Held.tampArm {n : ℕ} (hk : Held k s0 s) : Held k s0 (s.tampArm n) := by
  unfold State.tampArm
  exact Held.ite hk.tampSense.showTamp.raiseTamper hk.tampSense.showTamp

/-! ### The operations of Machine/Keys.lean -/

theorem Held.showSlot {i : ℕ} {e : List Byte} (hk : Held k s0 s) : Held k s0 (s.showSlot i e) := by
  unfold State.showSlot
  exact Held.ite hk.put.put.put.put hk.wr

theorem Held.showRecord {c : List Byte} (hk : Held k s0 s) : Held k s0 (s.showRecord c) := by
  unfold State.showRecord
  extract_lets -merge -underBinder w s1 pub
  have hs1 : Held k s0 s1 := Held.foldl hk (fun _ _ ht => ht.wr)
  exact Held.foldl hs1 (fun _ _ ht => ht.wr)

theorem Held.zeroise (hk : Held k s0 s) : Held k s0 s.zeroise := by
  unfold State.zeroise
  exact (Held.foldl hk (fun _ _ ht => ht.clr)).same (by rfl)

theorem Held.owe {r : KeyRun} {code reason : ℕ} (hk : Held k s0 s) : Held k s0 (s.owe r code reason) := by
  unfold State.owe
  exact hk.same (by rfl)

theorem Held.linkSend {nb : ℕ} {payload : List Byte} (hk : Held k s0 s) : Held k s0 (s.linkSend nb payload) := by
  unfold State.linkSend
  exact hk.same (by rfl)

theorem Held.resetLinkSlot {i : ℕ} (hk : Held k s0 s) : Held k s0 (s.resetLinkSlot i) := by
  unfold State.resetLinkSlot
  exact Held.foldl (hk.wr.same (by rfl)) (fun _ _ ht => Held.ite ht.wr.clr ht)

theorem Held.transitionEffects {lcs : ℕ} (hk : Held k s0 s) : Held k s0 (s.transitionEffects lcs) := by
  unfold State.transitionEffects
  exact Held.ite ((Held.foldl hk (fun _ _ hs => hs.resetLinkSlot)).same (by rfl)) (Held.foldl hk (fun _ _ hs => hs.resetLinkSlot))

theorem Held.dropRoles (hk : Held k s0 s) : Held k s0 s.dropRoles := by
  unfold State.dropRoles
  exact Held.foldl hk (fun _ _ ht => ht.setCar)

theorem Held.keyCapture (hk : Held k s0 s) : Held k s0 s.keyCapture := by
  unfold State.keyCapture
  split
  · exact hk
  · refine Held.ite ?_ ?_
    · exact hk
    · extract_lets -merge -underBinder b old src s1 s2 s3 s4 s5 s6 s7 srcx2
      have hs1 : Held k s0 s1 := hk.same (by rfl)
      have hs2 : Held k s0 s2 := hs1.put.put.bump
      have hs3 : Held k s0 s3 := hs2.showRecord
      have hs4 : Held k s0 s4 := by
        dsimp -zeta only [s4]
        split
        · exact (hs3.showSlot.same (by rfl)).resetLinkSlot
        · exact hs3
      have hs5 : Held k s0 s5 := by
        dsimp -zeta only [s5]
        split
        · exact hs4
        · exact (Held.foldl hs4.zeroise (fun _ _ hv => hv.showSlot)).transitionEffects.dropRoles.legal
      have hs6 : Held k s0 s6 := hs5.legal
      have hs7 : Held k s0 s7 := hs6.owe
      exact Held.ite (hs7.same (by rfl)) hs7

theorem Held.holdCapture (hk : Held k s0 s) : Held k s0 s.holdCapture := by
  unfold State.holdCapture
  split
  · exact hk
  · exact (hk.retWrite.same (by rfl)).clr.clr.legal

/-! ### The operations of Machine/Link.lean -/

theorem Held.nextTelegram (hk : Held k s0 s) : Held k s0 s.nextTelegram := by
  unfold State.nextTelegram
  extract_lets -merge -underBinder i
  split
  · rename_i d s1 heq
    have hs1 : Held k s0 s1 := HeldP.of_eq heq hk.draw
    exact hs1.same (by rfl)

theorem Held.nbChange {old : State} {n : ℕ} (hk : Held k s0 s) : Held k s0 (s.nbChange old n) := by
  unfold State.nbChange
  exact Held.ite hk hk.clr.clr.clr.wr.wr.wr

theorem Held.armSampling (hk : Held k s0 s) : Held k s0 s.armSampling := by
  unfold State.armSampling
  split
  · rename_i d s1 heq
    have hs1 : Held k s0 s1 := HeldP.of_eq heq hk.draw
    exact hs1.same (by rfl)

theorem Held.linkTimers {old : State} (hk : Held k s0 s) : Held k s0 (s.linkTimers old) := by
  unfold State.linkTimers
  extract_lets -merge -underBinder src s1 srcx2 srcx3 s2 srcx4
  have hs1 : Held k s0 s1 := Held.ite (hk.same (by rfl)) (Held.ite hk.armSampling hk)
  have hs2 : Held k s0 s2 := Held.ite (hs1.same (by rfl)) (Held.ite (hs1.same (by rfl)) hs1)
  exact Held.ite (hs2.same (by rfl)) (Held.ite hs2.nextTelegram hs2)

theorem Held.linkCapture {old : State} (hk : Held k s0 s) : Held k s0 (s.linkCapture old) := by
  unfold State.linkCapture
  exact (Held.putB (by
    split
    · exact (Held.foldl hk (fun _ _ ht => ht.nbChange)).put.same (by rfl)
    · exact Held.foldl hk (fun _ _ ht => ht.nbChange))).linkTimers

/-! ### The operations of Machine/Pay.lean -/

theorem Held.unitOfCredit (hk : Held k s0 s) : Held k s0 s.unitOfCredit := by
  unfold State.unitOfCredit
  exact Held.ite hk.put hk

theorem Held.endLockout (hk : Held k s0 s) : Held k s0 s.endLockout := by
  unfold State.endLockout
  exact (hk.clr.clr.same (by rfl)).commitDue

theorem Held.checkLockout (hk : Held k s0 s) : Held k s0 s.checkLockout := by
  unfold State.checkLockout
  split
  · exact hk
  · exact Held.ite hk.endLockout hk

theorem Held.resumeLockout (hk : Held k s0 s) : Held k s0 s.resumeLockout := by
  unfold State.resumeLockout
  split
  · exact hk
  · exact Held.ite (hk.same (by rfl)) hk.checkLockout

theorem Held.setAct {v : ℕ} (hk : Held k s0 s) : Held k s0 (s.setAct v) := by
  unfold State.setAct
  exact Held.ite hk hk.put.commitDue

theorem Held.endDrive (hk : Held k s0 s) : Held k s0 s.endDrive := by
  unfold State.endDrive
  exact (hk.same (by rfl)).settlePower

theorem Held.stopDrive (hk : Held k s0 s) : Held k s0 s.stopDrive := by
  unfold State.stopDrive
  exact Held.ite hk.endDrive.setAct hk

theorem Held.driveCapture (hk : Held k s0 s) : Held k s0 s.driveCapture := by
  unfold State.driveCapture
  exact Held.ite hk hk.stopDrive

/-! ### The operations of Machine/Display.lean -/

theorem Held.goPage {p : Option ℕ} (hk : Held k s0 s) : Held k s0 (s.goPage p) := by
  unfold State.goPage
  split
  · exact hk
  · exact hk.same (by rfl)

theorem Held.relight (hk : Held k s0 s) : Held k s0 s.relight := by
  unfold State.relight
  exact (hk.same (by rfl)).lcdBegin

theorem Held.dispStop (hk : Held k s0 s) : Held k s0 s.dispStop := by
  unfold State.dispStop
  exact hk.clr.same (by rfl)

theorem Held.dispBegin {fresh : Bool} (hk : Held k s0 s) : Held k s0 (s.dispBegin fresh) := by
  unfold State.dispBegin
  exact (hk.goPage.same (by rfl)).lcdBegin.ready

theorem Held.dispCapture {old : State} {die16 : ℤ} (hk : Held k s0 s) : Held k s0 (s.dispCapture old die16) := by
  unfold State.dispCapture
  exact Held.ite (Held.ite (hk.same (by rfl)).relight (hk.same (by rfl))) (Held.ite (hk.same (by rfl)).dispStop (hk.same
      (by rfl)).dispBegin)

/-! ### The operations of Machine/Update.lean -/

theorem Held.setSession {x : Option (ℕ × ℕ × ℕ × ℕ)} (hk : Held k s0 s) : Held k s0 (s.setSession x) := by
  unfold State.setSession
  exact hk.same (by rfl)

theorem Held.freeUpdates (hk : Held k s0 s) : Held k s0 s.freeUpdates := by
  unfold State.freeUpdates
  exact (Held.foldl hk (fun _ _ ht => ht.consume)).same (by rfl)

theorem Held.endSession {reason : ℕ} (hk : Held k s0 s) : Held k s0 (s.endSession reason) := by
  unfold State.endSession
  extract_lets -merge -underBinder s1 s2 s3 src
  have hs1 : Held k s0 s1 := hk.freeUpdates.setSession.put.put
  have hs2 : Held k s0 s2 := Held.ite hs1 hs1.bump
  have hs3 : Held k s0 s3 := hs2.clr.clr
  exact hs3.same (by rfl)

theorem Held.sealEndsUpdate (hk : Held k s0 s) : Held k s0 s.sealEndsUpdate := by
  unfold State.sealEndsUpdate
  exact Held.ite (hk.same (by rfl)).endSession hk

/-! ### The operations of Machine/Power.lean -/

theorem Held.retentionRecord (hk : Held k s0 s) : Held k s0 s.retentionRecord := by
  unfold State.retentionRecord
  exact Held.ite (hk.legal.retSeal.same (by rfl)).tamperRecord.showHold (hk.legal.retSeal.same (by rfl))

theorem Held.sealStore (hk : Held k s0 s) : Held k s0 s.sealStore := by
  unfold State.sealStore
  exact Held.ite hk hk.retWrite

theorem Held.noteStop (hk : Held k s0 s) : Held k s0 s.noteStop := by
  unfold State.noteStop
  exact hk.setOsf.set1.clr.clr.same (by rfl)

/-! ### The operations of Machine/Carriers.lean -/

theorem Held.lineMark (hk : Held k s0 s) : HeldP k s0 s.lineMark := by
  unfold State.lineMark
  split
  · rename_i q s1 heq
    have hs1 : Held k s0 s1 := HeldP.of_eq heq hk.nextSeq
    exact HeldP.pair hs1

theorem Held.emit {c : Carrier} {b : List Byte} (hk : Held k s0 s) : Held k s0 (s.emit c b) := by
  unfold State.emit
  dsimp -zeta only
  split
  · exact hk.linkSend
  · exact (HeldP.ite hk.lineMark (HeldP.pair hk)).out.setCar

theorem Held.baudCapture {old : State} (hk : Held k s0 s) : Held k s0 (s.baudCapture old) := by
  unfold State.baudCapture
  exact Held.ite hk (Held.ite hk hk.setCar)

theorem Held.flushAfter {c : Carrier} (hk : Held k s0 s) : Held k s0 (s.flushAfter c) := by
  unfold State.flushAfter
  exact Held.foldl hk.setCar (fun _ _ ht => ht.emit)

theorem Held.release {c : Carrier} {r : Resp} (hk : Held k s0 s) : Held k s0 (s.release c r) := by
  unfold State.release
  extract_lets -merge -underBinder x
  split
  · exact hk
  · exact (Held.ite hk hk.bump).setCar.flushAfter

/-! ### The operations of Machine/Command.lean -/

theorem Held.dropShot {code : ℕ} (hk : Held k s0 s) : Held k s0 (s.dropShot code) := by
  unfold State.dropShot
  split
  · exact hk
  · exact (hk.same (by rfl)).release

/-! ### The operations of Machine/Tick.lean -/

theorem Held.overrun (hk : Held k s0 s) : Held k s0 s.overrun := by
  unfold State.overrun
  exact hk.set1.bump.detect.setMp.setMp.markRecov.markRecov

theorem Held.measureEnv {env : CaptureEnv} (hk : Held k s0 s) : Held k s0 (s.measureEnv env) := by
  unfold State.measureEnv
  exact hk.putB.put.put.putI

theorem Held.gasChange {old : State} {x : ℕ} (hk : Held k s0 s) : Held k s0 (s.gasChange old x) := by
  unfold State.gasChange
  exact Held.ite hk hk.legal

theorem Held.tampCapture {old : State} {n : ℕ} (hk : Held k s0 s) : Held k s0 (s.tampCapture old n) := by
  unfold State.tampCapture
  exact Held.ite hk (Held.ite hk.tampSense.showTamp hk.tampArm)

theorem Held.pathCapture {n : ℕ} (hk : Held k s0 s) : Held k s0 (s.pathCapture n) := by
  unfold State.pathCapture
  exact hk.setPathSt

theorem Held.clockCapture {env : CaptureEnv} (hk : Held k s0 s) : Held k s0 (s.clockCapture env) := by
  unfold State.clockCapture
  extract_lets -merge -underBinder s1 s2 src
  have hs1 : Held k s0 s1 := Held.ite hk hk.noteStop.detect
  have hs2 : Held k s0 s2 := hs1.set1.detect
  exact Held.ite hs1 (Held.ite hs1.set1.set1 (hs2.same (by rfl)))

theorem Held.payCapture (hk : Held k s0 s) : Held k s0 s.payCapture := by
  unfold State.payCapture
  exact Held.ite hk.unitOfCredit.resumeLockout hk.unitOfCredit.checkLockout

theorem Held.promoCapture {old : State} (hk : Held k s0 s) : Held k s0 (s.promoCapture old) := by
  unfold State.promoCapture
  exact Held.ite hk.set1 hk

theorem Held.upset {l : List (ℕ × Bool)} (hk : Held k s0 s) : Held k s0 (s.upset l) := by
  unfold State.upset
  exact Held.foldl hk (fun _ _ ht => ht.same (by rfl))

end
end Sys2Proof.Machine
end

section
set_option Elab.async false
/-! PROOF. The boundary of a tick (Machine/Tick.lean; R21 to R25, R38, R40, R68, R72, R110). -/

namespace Sys2Proof.Machine

section
variable {k : Scope} {s0 s t u : State} {env : CaptureEnv} {closing : Bool}

/-! ### The overrun check and the safe state leave the tick as it was -/

theorem Held.endWindow (hk : Held .tick s0 s) : Held .tick s0 s.endWindow := by
  unfold State.endWindow
  extract_lets -merge -underBinder src srcx2 srcx3 s1 s2 s3
  have hs1 : Held .tick s0 s1 := hk.tick_same (by rfl)
  have hs2 : Held .tick s0 s2 := Held.ite hs1.put.put.dispWindow hs1
  have hs3 : Held .tick s0 s3 := Held.ite hs2.showTx hs2
  exact hs3.xo24Rest.startConv.enterPower

theorem Held.discardShot (hk : Held .tick s0 s) : Held .tick s0 s.discardShot := by
  unfold State.discardShot
  split
  · exact hk
  · exact (Held.ite hk.freeRecs.bump.put hk.freeRecs.bump).tick_same (by rfl)

theorem Held.stopShots (hk : Held .tick s0 s) : Held .tick s0 s.stopShots := by
  unfold State.stopShots
  exact Held.ite hk.discardShot.endWindow hk.discardShot

theorem Held.overrunCheck (hk : Held .tick s0 s) : Held .tick s0 s.overrunCheck := by
  unfold State.overrunCheck
  exact Held.ite hk.overrun.stopShots hk

/-- What an overrun and the end of the safe state show in. -/
def lateZones : List Zone :=
  F.FT_STAT_OVERRUN.zone :: F.FT_OVRCNT_COUNT.zone :: F.SAFE_STAT_RESTART.zone :: (stopZones ++ detectZones)

/-- The parts that they change. -/
def lateParts : List Part := .mps :: stopParts

theorem State.setMp_changes (hc : s.canonical = true) (x : Nat) (m : MpSt) : Changes [] [.mps] s (s.setMp x m) := (Changes.refl
    hc).setMps

theorem State.overrun_changes (hc : s.canonical = true) : Changes lateZones lateParts s s.overrun := by
  unfold State.overrun
  extract_lets s1 s2 m s3
  have h1 : Changes lateZones lateParts s s1 := ((Changes.refl hc).set1).bump
  have h2 : Changes lateZones lateParts s s2 := h1.next (State.detect_changes h1.canonical _ _ _ _)
  have h3 : Changes lateZones lateParts s s3 := h2.next (State.setMp_changes h2.canonical _ _)
  have h4 := h3.next (State.setMp_changes h3.canonical 1 { s3.mp 1 with overran := true })
  have h5 := h4.next (State.markRecov_changes h4.canonical 0)
  exact h5.next (State.markRecov_changes h5.canonical 1)

theorem State.overrunCheck_changes (hc : s.canonical = true) : Changes lateZones lateParts s s.overrunCheck := by
  have h := State.overrun_changes hc
  exact .ite (h.next (State.stopShots_changes h.canonical)) (.refl hc)

theorem State.leaveSafe_changes (hc : s.canonical = true) : Changes lateZones lateParts s s.leaveSafe := by
  have h1 : Changes lateZones lateParts s s.logExit := (State.logTrouble_changes hc _ _ _).mono
  have h2 := h1.next (State.endSafe_spec h1.canonical).1
  exact h2.next (State.leaveSafe_after hc)

theorem State.safeCapture_changes (hc : s.canonical = true) : Changes lateZones lateParts s s.safeCapture :=
  Changes.setSafe (.ite (State.leaveSafe_changes hc) (.ite ((Changes.refl hc).put) (.refl hc)))

theorem State.upset_changes (hc : s.canonical = true) (l : List (Nat × Bool)) : Changes lateZones (.ecc :: lateParts) s (s.upset l) :=
  (Changes.refl hc).foldl fun _ _ _ h => h.setEcc

/-! ### The stages of a Capture -/

/-- A Capture up to the latching of the tick. -/
def State.captureLatched (s : State) (env : CaptureEnv) : State := (s.upset env.upsets).safeCapture.latchTick

/-- Whether the seal closes at this Capture. -/
def State.sealCloses (s : State) : Bool := s.pins.sealForce && decide (s.pins.sealPend = some false)

/-- Pending configuration taken into force, and what is measured. -/
def State.captureForced (s : State) (env : CaptureEnv) : State := ((s.intoForce s.sealCloses).baudCapture s).measureEnv env

/-- From the seal to the front end: `s1` as the tick was latched. -/
def State.captureShots (s s1 : State) : State :=
  let s2 := (s.sealCapture s1.sealCloses).driveCapture
  let s3 := if s2.lossDue then s2.retentionRecord.sealStore else s2
  let s4 := (s3.gasChange s1 0).gasChange s1 1
  (((s4.mpCapture 0).mpCapture 1).sensCapture).shotCapture s1

/-- From the keys to the legal entries held. -/
def State.captureRest (s s1 : State) (env : CaptureEnv) : State :=
  let s7 := [0, 1, 2, 3].foldl (fun (t : State) n => t.tampCapture s1 n) s.keyCapture.holdCapture
  let s8 := ((s7.clockCapture env).refreshClose).conditions
  let s9 := ((s8.linkCapture s1).payCapture).dispCapture s1 env.dieTemp
  State.legalRelease 64 ((s9.promoCapture s1).saveFix.crcCapture)

/-- A Capture up to the phase shown. -/
def State.captureDone (s : State) (env : CaptureEnv) : State :=
  let s1 := s.captureLatched env
  ((s1.captureForced env).captureShots s1).captureRest s1 env

/-- The phase shown, and the tick under way. -/
def State.tickRuns (s : State) : State :=
  { (s.put F.FT_PHASE_PHASE 0).enterPower pwrRun with
      rm := { s.rm with phaseDone := true, first := false }
      pow := { s.pow with stage := .running, inStart := false, emEnd := none } }

theorem State.capturePhase_eq (s : State) (env : CaptureEnv) : s.capturePhase env = (s.captureDone env).tickRuns := rfl

/-! ### The tick latched -/

/-- The next tick's number and start time, with no time write left for it. -/
def State.ticked (s : State) : State :=
  { s with rm := { s.rm with tick := (s.rm.tick + 1) % 2 ^ 48, startTime := (s.sec, s.frac) }, rtc := { s.rtc with steps := [] } }

/-- What the latching of a tick leaves in the state but for registers. -/
def State.latchBegun (s : State) : State :=
  { s.ticked with rm := { s.ticked.rm with untr := s.untrusted }
                  bill := { s.bill with steps := s.bill.steps ++ s.rtc.steps }
                  jrn := { s.jrn with since := s.jrn.since + (if s.rm.first then 0 else s.get F.FT_PERIOD_N) } }

theorem State.latchTick_eq (s : State) : s.latchTick =
    (((s.latchBegun.put F.RTC_TICKSEC_SEC s.sec).put F.RTC_TICKFRAC_FRAC s.frac).put F.FT_TICK_LO_TICK ((s.rm.tick + 1) % 2 ^
        48 % 2 ^ 32)).retWrite
      0 ((bytesLE 6 ((s.rm.tick + 1) % 2 ^ 48)).map BitVec.toNat) := rfl

theorem State.latchTick_held : Held .tick s.ticked s.latchTick := by
  have h : Held .tick s.ticked s.latchBegun := Held.refl.tick_same rfl
  rw [State.latchTick_eq]
  exact h.put.put.put.retWrite

/-- What the latching of a tick shows. -/
def latchZones : List Zone := [F.RTC_TICKSEC_SEC.zone, F.RTC_TICKFRAC_FRAC.zone, F.FT_TICK_LO_TICK.zone, retZone]

theorem State.latchTick_hold (hc : s.canonical = true) : s.latchTick.flag F.FT_CTRL_HOLD = s.flag F.FT_CTRL_HOLD := by
  have hb : s.latchBegun.canonical = true := hc
  have h : Changes latchZones [] s.latchBegun (((s.latchBegun.put F.RTC_TICKSEC_SEC s.sec).put F.RTC_TICKFRAC_FRAC s.frac).put
      F.FT_TICK_LO_TICK ((s.rm.tick + 1) % 2 ^ 48 % 2 ^ 32)) := (((Changes.refl hb).put).put).put
  have hr := h.next (State.retWrite_changes (i := 0) (vs := (bytesLE 6 ((s.rm.tick + 1) % 2 ^ 48)).map BitVec.toNat) h.canonical)
  rw [State.latchTick_eq]
  exact hr.flag F.FT_CTRL_HOLD

/-- The tick latched: its number and start time, with no time write left, the seal and HOLD as they were. -/
structure Latched (s t : State) : Prop where
  tick : t.rm.tick = (s.rm.tick + 1) % 2 ^ 48
  startTime : t.rm.startTime = (s.sec, s.frac)
  steps : t.rtc.steps = []
  sealForce : t.pins.sealForce = s.pins.sealForce
  sealPend : t.pins.sealPend = s.pins.sealPend
  hold : t.flag F.FT_CTRL_HOLD = s.flag F.FT_CTRL_HOLD

theorem State.latchTick_latched (hc : s.canonical = true) : Latched s s.latchTick :=
  have h := State.latchTick_held (s := s)
  ⟨h.tick (by simp), h.startTime (by simp), h.steps (by simp), h.sealForce (by simp), h.sealPend (by simp), State.latchTick_hold hc⟩

/-- A tick latched after what leaves the time, HOLD and the tick before it as they were. -/
theorem Latched.after (h : Latched t u) (k : Held .tick s t)
    (hs : t.sec = s.sec) (hf : t.frac = s.frac) (hh : t.flag F.FT_CTRL_HOLD = s.flag F.FT_CTRL_HOLD) : Latched s u where
  tick := by rw [h.tick, k.tick (by simp)]
  startTime := by rw [h.startTime, hs, hf]
  steps := h.steps
  sealForce := h.sealForce.trans (k.sealForce (by simp))
  sealPend := h.sealPend.trans (k.sealPend (by simp))
  hold := h.hold.trans hh

theorem State.captureLatched_latched (hc : s.canonical = true) : Latched s (s.overrunCheck.captureLatched env) := by
  have h1 : Changes lateZones (.ecc :: lateParts) s s.overrunCheck := (State.overrunCheck_changes hc).mono
  have h2 := h1.trans (State.upset_changes h1.canonical env.upsets)
  have h3 := h2.next (State.safeCapture_changes h2.canonical)
  exact (State.latchTick_latched h3.canonical).after (Held.refl.overrunCheck.upset.safeCapture) (h3.get F.RTC_SEC_SEC)
    (h3.get F.RTC_FRAC_FRAC) (h3.flag F.FT_CTRL_HOLD)

/-! ### Pending configuration comes into force -/

theorem Held.discardSealed (hk : Held .tick s0 s) : Held .tick s0 s.discardSealed := by
  unfold State.discardSealed
  exact Held.ite (Held.legal (hk.tick_same (by rfl))) hk

theorem Held.copyShadows (hk : Held .tick s0 s) : Held .tick s0 s.copyShadows := by
  unfold State.copyShadows
  refine Held.tick_same (Held.foldl hk ?_) (by rfl)
  intro t c ht
  split
  · exact ht.wr
  · exact ht

theorem Held.installSched (hk : Held .tick s0 s) : Held .tick s0 s.installSched := by
  unfold State.installSched
  split
  · exact hk
  · exact hk.schedInstall.clr.tick_same (by rfl)

theorem Held.intoForce (hk : Held .tick s0 s) : Held .tick s0 (s.intoForce closing) := by
  unfold State.intoForce
  exact Held.ite (Held.ite hk.discardSealed hk) (Held.ite hk.copyShadows.installSched hk.copyShadows.installSched.set1)

theorem State.installSched_shadow : s.installSched.shadow = s.shadow := by
  unfold State.installSched
  split
  · rfl
  · rename_i t _
    have h : Held .all s ((s.schedInstall t).clr F.FT_ADMIT_PENDING) := Held.refl.schedInstall.clr
    have hs := h.shadow rfl
    generalize (s.schedInstall t).clr F.FT_ADMIT_PENDING = u at hs
    exact hs

theorem State.installSched_schedPend : s.installSched.rm.schedPend = none := by
  unfold State.installSched
  split
  · assumption
  · rfl

theorem State.intoForce_none_pending (hh : s.flag F.FT_CTRL_HOLD = false) :
    (s.intoForce closing).shadow = [] ∧ (s.intoForce closing).rm.schedPend = none := by
  have h : s.copyShadows.installSched.shadow = [] ∧ s.copyShadows.installSched.rm.schedPend = none :=
    ⟨State.installSched_shadow, State.installSched_schedPend⟩
  unfold State.intoForce
  rw [hh]
  extract_lets s1
  simp only [Bool.false_eq_true, if_false]
  split <;> exact h

theorem State.captureForced_held : Held .tick s (s.captureForced env) := Held.refl.intoForce.baudCapture.measureEnv

theorem State.captureForced_none_pending (hh : s.flag F.FT_CTRL_HOLD = false) :
    (s.captureForced env).shadow = [] ∧ (s.captureForced env).rm.schedPend = none := by
  have h : Held .all (s.intoForce s.sealCloses) (s.captureForced env) := Held.refl.baudCapture.measureEnv
  obtain ⟨hs, hp⟩ := State.intoForce_none_pending (closing := s.sealCloses) hh
  exact ⟨(h.shadow rfl).trans hs, (h.schedPend rfl).trans hp⟩

/-! ### The seal, the front end and what follows -/

/-- The seal that waits for the Capture is in force. -/
def State.sealTaken (s : State) : State :=
  { s with pins := { s.pins with sealForce := s.pins.sealPend.getD s.pins.sealForce, sealPend := none } }

theorem State.sealCapture_held : Held .all s.sealTaken (s.sealCapture closing) := by
  unfold State.sealCapture
  split
  · rename_i h
    have e : s.sealTaken = s := by
      unfold State.sealTaken
      rw [h, Option.getD_none, ← h]
    rw [e]
    exact .refl
  · rename_i v h
    have e : s.sealTaken = { s with pins := { s.pins with sealForce := v, sealPend := none } } := by
      unfold State.sealTaken
      rw [h, Option.getD_some]
    rw [e]
    exact Held.ite Held.refl.sealEndsUpdate.clr.dropShot.zcRefuse .refl

/-- No shot runs, and none has been done. -/
def State.shotsCleared (s : State) : State := { s with ame := { s.ame with run := none, done := [] } }

theorem Held.cleared (h : Held k s t) : Held k s.shotsCleared t.shotsCleared :=
  ⟨h.reply, h.tick, h.startTime, h.steps, h.sealForce, h.sealPend, h.shadow, h.schedPend, fun _ => rfl, fun _ => rfl⟩

theorem Held.shotCapture {old : State} (hk : Held k s0 s) : Held k s0.shotsCleared (s.shotCapture old) := by
  unfold State.shotCapture
  split
  · rename_i s1 zcMp heq
    have hs1 : Held k s0 s1 := HeldF.of_eq heq hk.zcInForce
    extract_lets -merge -underBinder changed
    split
    · rename_i s2 stale heq
      have hs2 : Held k s0 s2 := HeldF.of_eq heq hs1.ameCapture
      extract_lets -merge -underBinder s3 now s4 req src srcx2
      have hs3 : Held k s0 s3 := (Held.foldl hs2 (fun _ _ hs => hs.pathCapture)).consumeTrig
      have hs4 : Held k s0 s4 := hs3.recovCapture.recovCapture.zcCapture
      exact hs4.cleared.same (by rfl)

theorem State.captureShots_held {s1 : State} : Held .all s.sealTaken.shotsCleared (s.captureShots s1) := by
  unfold State.captureShots
  extract_lets s2 s3 s4
  have hs2 : Held .all s.sealTaken s2 := State.sealCapture_held.driveCapture
  have hs3 : Held .all s.sealTaken s3 := Held.ite hs2.retentionRecord.sealStore hs2
  have hs4 : Held .all s.sealTaken s4 := hs3.gasChange.gasChange
  exact hs4.mpCapture.mpCapture.sensCapture.shotCapture

/-- A saved configuration that changes nothing owes its answer at once: the scopes but `.reply` are kept. -/
theorem Held.saveFix (hk : Held .all s0 s) : Held .all s0 s.saveFix := by
  have h {t : State} (e : t = { s with cmd := t.cmd }) : Held .all s0 t := by
    rw [e]
    exact hk.trans (by constructor <;> simp)
  unfold State.saveFix
  exact Held.ite (Held.ite (Held.clr (h rfl)) (h rfl)) hk

theorem State.captureRest_held {s1 : State} : Held .all s (s.captureRest s1 env) := by
  unfold State.captureRest
  extract_lets s7 s8 s9
  have hs7 : Held .all s s7 := Held.foldl Held.refl.keyCapture.holdCapture (fun _ _ ht => ht.tampCapture)
  have hs8 : Held .all s s8 := hs7.clockCapture.refreshClose.conditions
  have hs9 : Held .all s s9 := hs8.linkCapture.payCapture.dispCapture
  exact hs9.promoCapture.saveFix.crcCapture.legalRelease

/-! ### The whole Capture -/

theorem State.captureLatched_keeps {sI : State} (hk : Keeps sI s) : Keeps sI (s.captureLatched env) :=
  State.latchTick_keeps (State.safeCapture_keeps (State.upset_keeps hk))

theorem State.captureForced_keeps {sI : State} (hk : Keeps sI s) : Keeps sI (s.captureForced env) :=
  State.measureEnv_keeps (State.baudCapture_keeps (State.intoForce_keeps hk))

theorem State.captureShots_keeps {sI s1 : State} (hk : Keeps sI s) : Keeps sI (s.captureShots s1) := by
  unfold State.captureShots
  extract_lets s2 s3 s4
  have hs2 : Keeps sI s2 := State.driveCapture_keeps (State.sealCapture_keeps hk)
  have hs3 : Keeps sI s3 := Keeps.ite (State.sealStore_keeps (State.retentionRecord_keeps hs2)) hs2
  have hs4 : Keeps sI s4 := State.gasChange_keeps (State.gasChange_keeps hs3)
  exact State.shotCapture_keeps (State.sensCapture_keeps (State.mpCapture_keeps (State.mpCapture_keeps hs4)))

theorem State.captureRest_keeps {sI s1 : State} (hk : Keeps sI s) : Keeps sI (s.captureRest s1 env) := by
  unfold State.captureRest
  extract_lets s7 s8 s9
  have hs7 : Keeps sI s7 := Keeps.foldl (State.holdCapture_keeps (State.keyCapture_keeps hk)) (fun _ _ ht =>
      State.tampCapture_keeps ht)
  have hs8 : Keeps sI s8 := State.conditions_keeps (State.refreshClose_keeps (State.clockCapture_keeps hs7))
  have hs9 : Keeps sI s9 := State.dispCapture_keeps (State.payCapture_keeps (State.linkCapture_keeps hs8))
  exact State.legalRelease_keeps (State.crcCapture_keeps (State.saveFix_keeps (State.promoCapture_keeps hs9)))

theorem State.captureDone_canonical (hc : s.canonical = true) : (s.captureDone env).canonical = true :=
  (State.captureRest_keeps (State.captureShots_keeps (State.captureForced_keeps (State.captureLatched_keeps (Keeps.refl s))))).2.1 hc

theorem State.captureDone_held : Held .all ((s.captureLatched env).captureForced env).sealTaken.shotsCleared (s.captureDone env) :=
  State.captureShots_held.trans State.captureRest_held

/-- What a tick begins with: its number and start time, with no time write left, the seal in force and no shot. -/
structure Begun (s t : State) : Prop where
  tick : t.rm.tick = (s.rm.tick + 1) % 2 ^ 48
  startTime : t.rm.startTime = (s.sec, s.frac)
  steps : t.rtc.steps = []
  sealForce : t.pins.sealForce = s.pins.sealPend.getD s.pins.sealForce
  sealPend : t.pins.sealPend = none
  done : t.ame.done = []
  run : t.ame.run = none
  pending : s.flag F.FT_CTRL_HOLD = false → t.shadow = [] ∧ t.rm.schedPend = none

/-- From the tick latched by way of its configuration to the seal in force and the shots cleared. -/
theorem Latched.begun {v : State} (h : Latched s t) (k : Held .tick t u) (i : Held .all u.sealTaken.shotsCleared v)
    (hp : t.flag F.FT_CTRL_HOLD = false → u.shadow = [] ∧ u.rm.schedPend = none) : Begun s v where
  tick := (i.tick (by simp)).trans ((k.tick (by simp)).trans h.tick)
  startTime := (i.startTime (by simp)).trans ((k.startTime (by simp)).trans h.startTime)
  steps := (i.steps (by simp)).trans ((k.steps (by simp)).trans h.steps)
  sealForce := by
    have hs : v.pins.sealForce = u.pins.sealPend.getD u.pins.sealForce := i.sealForce (by simp)
    rw [hs, k.sealPend (by simp), k.sealForce (by simp), h.sealPend, h.sealForce]
  sealPend := i.sealPend (by simp)
  done := i.done rfl
  run := i.run rfl
  pending hh :=
    have ⟨hs, hq⟩ := hp (h.hold.trans hh)
    ⟨(i.shadow rfl).trans hs, (i.schedPend rfl).trans hq⟩

theorem State.captureDone_begun (hc : s.canonical = true) : Begun s (s.overrunCheck.captureDone env) :=
  (State.captureLatched_latched hc).begun State.captureForced_held State.captureDone_held State.captureForced_none_pending

theorem State.tickRuns_phase (hc : s.canonical = true) : s.tickRuns.get F.FT_PHASE_PHASE = 0 :=
  ((State.enterPower_changes (State.put_canonical hc) pwrRun).get F.FT_PHASE_PHASE).trans (State.get_put hc (by decide))

theorem Begun.tickRuns (h : Begun s t) : Begun s t.tickRuns :=
  ⟨h.tick, h.startTime, h.steps, h.sealForce, h.sealPend, h.done, h.run, h.pending⟩

end

/-! ### The command -/

/-- The state at the boundary. -/
def State.atBoundary (dt : Nat) (s : State) : State := match s.rm.nextAt with
  | some t => s.advance (t - s.uptime)
  | none => s.advance dt

/-- The time of the boundary: on the grid, or after a start-up the first. -/
def State.boundaryTime (dt : Nat) (s : State) : Nat := match s.rm.nextAt with
  | some t => t
  | none => (s.atBoundary dt).uptime

theorem State.atBoundary_canonical {dt : Nat} {s : State} (hc : s.canonical = true) : (s.atBoundary dt).canonical = true := by
  unfold State.atBoundary
  split <;> exact (State.advance_keeps (Keeps.refl s)).2.1 hc

/-- The tick that begins at the boundary `base`, with its next boundary. -/
def State.tickBegun (s : State) (env : CaptureEnv) (base : Nat) : State :=
  let u := (s.overrunCheck.captureDone env).tickRuns
  { u with rm := { u.rm with nextAt := some (base + 1024 * u.get F.FT_PERIOD_N) } }

/-- No tick runs yet. -/
def State.noTick (s : State) : State := { s with rm := { s.rm with nextAt := none } }

theorem exec_tickBoundary {dt : Nat} {env : CaptureEnv} {s : State} (hs : s.pow.stage ∈ [Stage.running, .awaitTick, .resuming]) :
    exec (.tickBoundary dt env) s =
      if !(s.atBoundary dt).rtc.started then .next (s.atBoundary dt).noTick
      else .next ((s.atBoundary dt).tickBegun env (s.boundaryTime dt)) := by
  change execTickBoundary dt env s = _
  unfold execTickBoundary
  simp only [List.mem_cons, List.not_mem_nil, or_false] at hs
  rcases hs with hs | hs | hs <;> rw [hs] <;> rfl

/-- Settles O19: a Capture is latching the tick, bringing configuration into force, and work that leaves both as they are. -/
theorem tickBoundaryCaptures : Obligations.TickBoundaryCaptures := by
  intro dt env s hc hs s1 base waits
  have hexec := exec_tickBoundary (dt := dt) (env := env) hs
  have h1 : s.atBoundary dt = s1 := rfl
  have h2 : s.boundaryTime dt = base := rfl
  rw [h1, h2] at hexec
  have hc1 : s1.canonical = true := State.atBoundary_canonical (dt := dt) hc
  refine ⟨fun hw => ⟨_, hexec.trans (if_pos (by rw [hw]; rfl)), rfl⟩, fun hw => ⟨_, hexec.trans (if_neg ?_), ?_⟩⟩
  · simpa [waits] using hw
  have hb := (State.captureDone_begun (env := env) hc1).tickRuns
  have hp := State.tickRuns_phase (State.captureDone_canonical (env := env) (State.overrunCheck_changes hc1).canonical)
  unfold State.tickBegun
  generalize s1.overrunCheck.captureDone env = u at hb hp
  exact ⟨rfl, rfl, hb.tick, hb.startTime, rfl, rfl, hp, rfl, hb.steps, hb.sealForce, hb.sealPend, hb.done, hb.run, hb.pending⟩

end Sys2Proof.Machine
end

section
set_option Elab.async false
/-! PROOF. What the operations of a Service window leave as it was: the answer owed for a saved configuration. One lemma per
operation of the model's modules below the command language, in the order of the model's files. -/

namespace Sys2Proof.Machine

section
variable {s0 s t : State}

/-! ### The operations of Machine/Ops.lean -/

theorem Held.header {r : ℕ} (hk : Held .reply s0 s) : HeldP .reply s0 (s.header r) := by
  unfold State.header
  split
  · rename_i q s1 heq
    have hs1 : Held .reply s0 s1 := HeldP.of_eq heq hk.nextSeq
    exact HeldP.pair hs1

theorem Held.ringWrite {r : Nat} {slots : List Nat} {bs : List Byte} (h : Held .reply s0 s) :
    Held .reply s0 (s.ringWrite r slots bs) := by
  induction slots generalizing s bs with
  | nil => exact h
  | cons slot t ih =>
    unfold State.ringWrite
    exact ih (Held.ite h.crsWrite h.bump)

theorem Held.fill {r : ℕ} {slots : List ℕ} {bs : List Byte} (hk : Held .reply s0 s) : Held .reply s0 (s.fill r slots bs) := by
  unfold State.fill
  exact hk.moveAll.ringWrite.moveAll

theorem Held.publish {r slot n : ℕ} {body : List Byte} (hk : Held .reply s0 s) : Held .reply s0 (s.publish r slot n body) := by
  unfold State.publish
  split
  · rename_i h s1 heq
    have hs1 : Held .reply s0 s1 := HeldP.of_eq heq hk.header
    exact hs1.fill

theorem Held.wakeCore (hk : Held .reply s0 s) : Held .reply s0 s.wakeCore := by
  unfold State.wakeCore
  exact Held.ite hk.enterPower hk

theorem Held.endPhases (hk : Held .reply s0 s) : Held .reply s0 s.endPhases := by
  unfold State.endPhases
  exact hk.put.restPower

/-! ### The operations of Machine/Clock.lean -/

theorem Held.linkShift {d : ℤ} (hk : Held .reply s0 s) : Held .reply s0 (s.linkShift d) := by
  unfold State.linkShift
  exact Held.foldl hk (fun _ _ hs => Held.ite hs.put.put hs)

theorem Held.setCount {write : Bool} {t : ℕ} (hk : Held .reply s0 s) : Held .reply s0 (s.setCount write t) := by
  unfold State.setCount
  exact Held.ite hk.put.put.setOsf hk.put.put

theorem Held.cdtExpire (hk : Held .reply s0 s) : Held .reply s0 s.cdtExpire := by
  unfold State.cdtExpire
  exact Held.ite hk.clr.set1.wakeCore.logTrouble (Held.ite hk.clr.set1.retWrite hk.clr.set1)

theorem Held.cdtEdges {e : ℕ} (hk : Held .reply s0 s) : Held .reply s0 (s.cdtEdges e) := by
  unfold State.cdtEdges
  exact Held.ite (hk.reply_same (by rfl)) (Held.ite (hk.reply_same (by rfl)).cdtExpire (hk.reply_same (by rfl)).put)

theorem Held.edges {write : Bool} {e : ℕ} (hk : Held .reply s0 s) : Held .reply s0 (s.edges write e) := by
  unfold State.edges
  refine Held.ite ?_ ?_
  · split
    · exact (hk.putI.reply_same (by rfl)).setCount.cdtEdges
  · exact Held.ite hk.setCount hk

theorem Held.applyTime {v : ℕ} (hk : Held .reply s0 s) : Held .reply s0 (s.applyTime v) := by
  unfold State.applyTime
  extract_lets -merge -underBinder old oldFrac step was s1 s2 s3 rec1 src s4 s5
  have hs1 : Held .reply s0 s1 := hk.put.clr.clr
  have hs2 : Held .reply s0 s2 := hs1.putI.put.set1
  have hs3 : Held .reply s0 s3 := Held.ite hs2.set1.clr.clr.clr.clr hs2
  have hs4 : Held .reply s0 s4 := hs3.reply_same (by rfl)
  have hs5 : Held .reply s0 s5 := hs4.linkShift
  split
  · exact hs5
  · exact hs5.reply_same (by rfl)

theorem Held.startTimeWrite {v : ℕ} (hk : Held .reply s0 s) : Held .reply s0 (s.startTimeWrite v) := by
  unfold State.startTimeWrite
  exact Held.ite hk (hk.set1.reply_same (by rfl))

theorem Held.holdDate {w : Word} (hk : Held .reply s0 s) : Held .reply s0 (s.holdDate w) := by
  unfold State.holdDate
  exact Held.ite hk (hk.reply_same (by rfl))

theorem Held.setTimeOfDay {w : Word} (hk : Held .reply s0 s) : Held .reply s0 (s.setTimeOfDay w) := by
  unfold State.setTimeOfDay
  dsimp -zeta only
  exact Held.ite hk (((Held.ite hk.set1 hk).reply_same (by rfl)).startTimeWrite)

theorem Held.writeEdges {e : ℕ} (hk : Held .reply s0 s) : Held .reply s0 (s.writeEdges e) := by
  unfold State.writeEdges
  split
  · exact hk.edges
  · exact Held.ite hk (Held.ite hk.edges.edges.applyTime.edges (hk.edges.reply_same (by rfl)))

theorem Held.latchCapture (hk : Held .reply s0 s) : Held .reply s0 s.latchCapture := by
  unfold State.latchCapture
  exact hk.put.put.wr.wr.clr

theorem Held.clockEdges {e : ℕ} (hk : Held .reply s0 s) : Held .reply s0 (s.clockEdges e) := by
  unfold State.clockEdges
  exact Held.ite hk.writeEdges.latchCapture.writeEdges hk.writeEdges

theorem Held.drainTx {dt : ℕ} (hk : Held .reply s0 s) : Held .reply s0 (s.drainTx dt) := by
  unfold State.drainTx
  exact hk.reply_same (by rfl)

theorem Held.advance {dt : ℕ} (hk : Held .reply s0 s) : Held .reply s0 (s.advance dt) := by
  unfold State.advance
  exact hk.clockEdges.drainTx.reply_same (by rfl)

theorem Held.capture (hk : Held .reply s0 s) : Held .reply s0 s.capture := by
  unfold State.capture
  exact hk.advance.latchCapture

theorem Held.startCapture (hk : Held .reply s0 s) : Held .reply s0 s.startCapture := by
  unfold State.startCapture
  exact hk.set1

/-! ### The operations of Machine/Schedule.lean -/

theorem Held.stage {a : Nat} {w : Word} (h : Held .reply s0 s) : Held .reply s0 (s.stage a w) := by
  unfold State.stage
  split
  · exact h.reply_same (by rfl)
  · exact h.reply_same (by rfl)

theorem Held.stageField {f : Fld} {v : ℕ} (hk : Held .reply s0 s) : Held .reply s0 (s.stageField f v) := by
  unfold State.stageField
  exact hk.stage

theorem Held.schedCommit (hk : Held .reply s0 s) : Held .reply s0 s.schedCommit := by
  unfold State.schedCommit
  exact Held.ite (Held.ite (hk.put.put.set1.reply_same (by rfl)) hk.put.put) hk.put

theorem Held.schedDiscard (hk : Held .reply s0 s) : Held .reply s0 s.schedDiscard := by
  unfold State.schedDiscard
  exact hk.reply_same (by rfl)

/-! ### The operations of Machine/ShotTick.lean -/

theorem Held.zcStart {x : ℕ} (hk : Held .reply s0 s) : Held .reply s0 (s.zcStart x) := by
  unfold State.zcStart
  exact Held.ite (hk.put.put.set1.reply_same (by rfl)).put (hk.put.put.set1.reply_same (by rfl)).put.zcRefuse

/-! ### The operations of Machine/SafetyNet.lean -/

theorem Held.ackSafe (hk : Held .reply s0 s) : Held .reply s0 s.ackSafe := by
  unfold State.ackSafe
  exact Held.ite (hk.reply_same (by rfl)).clr hk

theorem Held.forceSafe (hk : Held .reply s0 s) : Held .reply s0 s.forceSafe := by
  unfold State.forceSafe
  exact Held.ite hk.detect hk

/-! ### The operations of Machine/Keys.lean -/

theorem Held.showCells (hk : Held .reply s0 s) : Held .reply s0 s.showCells := by
  unfold State.showCells
  exact hk.put.put.putB.putB

theorem Held.keyFault (hk : Held .reply s0 s) : Held .reply s0 s.keyFault := by
  unfold State.keyFault
  exact hk.logTrouble

theorem Held.slotKey {i : ℕ} (hk : Held .reply s0 s) : HeldP .reply s0 (s.slotKey i) := by
  unfold State.slotKey
  refine HeldP.ite ?_ ?_
  · exact HeldP.pair hk
  · split
    · exact HeldP.pair hk
    · extract_lets -merge -underBinder e blob
      split
      · exact HeldP.pair (hk.reply_same (by rfl)).set1
      · exact HeldP.pair hk.set1.keyFault
    · exact HeldP.pair hk

theorem Held.slotFor {i use : ℕ} (hk : Held .reply s0 s) : HeldP .reply s0 (s.slotFor i use) := by
  unfold State.slotFor
  exact HeldP.ite hk.slotKey (HeldP.pair hk)

theorem Held.macKey {m : KeyFields} (hk : Held .reply s0 s) : HeldP .reply s0 (s.macKey m) := by
  unfold State.macKey
  refine HeldP.ite ?_ ?_
  · exact HeldP.pair hk
  · split
    · rename_i k s1 heq
      have hs1 : Held .reply s0 s1 := HeldP.of_eq heq hk.slotKey
      exact HeldP.pair hs1

theorem Held.carriedKey {m : KeyFields} (hk : Held .reply s0 s) : HeldP .reply s0 (s.carriedKey m) := by
  unfold State.carriedKey
  refine HeldP.ite ?_ ?_
  · exact HeldP.pair hk
  · refine HeldP.ite ?_ ?_
    · exact HeldP.pair hk
    · split
      · rename_i u s1 heq
        have hs1 : Held .reply s0 s1 := HeldP.of_eq heq hk.slotKey
        split <;> exact HeldP.pair hs1

theorem Held.keyReject {result : ℕ} (hk : Held .reply s0 s) : Held .reply s0 (s.keyReject result) := by
  unfold State.keyReject
  exact hk.put.bump

theorem Held.startCommit {r : KeyRun} {m : KeyFields} {key : Option (List ℕ)} (hk : Held .reply s0 s) :
    Held .reply s0 (s.startCommit r m key) := by
  unfold State.startCommit
  extract_lets -merge -underBinder old oldCopy copy seq trans epoch lcs pub kept entry slots tslot bytes c src srcx2
  have hsrc : Held .reply s0 src := hk.put
  exact hsrc.reply_same (by rfl)

theorem Held.keyChecks2 {r : KeyRun} {m : KeyFields} (hk : Held .reply s0 s) : HeldP .reply s0 (s.keyChecks2 r m) := by
  unfold State.keyChecks2
  refine HeldP.ite ?_ ?_
  · exact HeldP.pair hk.keyReject
  · refine HeldP.ite ?_ ?_
    · exact HeldP.pair hk.keyReject
    · split
      · rename_i k s1 heq
        have hs1 : Held .reply s0 s1 := HeldP.of_eq heq hk.carriedKey
        split
        · exact HeldP.pair hs1.keyReject
        · exact HeldP.ite (HeldP.pair hs1.keyReject) (HeldP.pair hs1.startCommit)

theorem Held.keyMessage {src : Source} {line : Option (Carrier × LineForm)} {bytes : List Byte} (hk : Held .reply s0 s) :
    HeldP .reply s0 (s.keyMessage src line bytes) := by
  unfold State.keyMessage
  extract_lets -merge -underBinder z
  have hz : Held .reply s0 z := hk.put.clr
  split
  · exact HeldP.pair hz.keyReject
  · extract_lets -merge -underBinder s1 run src srcx2
    have hs1 : Held .reply s0 s1 := hz.put
    have hsrc : Held .reply s0 src := hs1.set1
    refine HeldP.ite ?_ ?_
    · exact HeldP.pair hs1.keyReject
    · refine HeldP.ite ?_ ?_
      · exact HeldP.pair hs1.keyReject
      · refine HeldP.ite ?_ ?_
        · exact HeldP.pair hs1.keyReject
        · refine HeldP.ite ?_ ?_
          · exact HeldP.ite (HeldP.pair hs1.keyReject) (HeldP.pair (hsrc.reply_same (by rfl)))
          · split
            · rename_i k s2 heq
              have hs2 : Held .reply s0 s2 := HeldP.of_eq heq hs1.macKey
              split
              · exact HeldP.pair hs2.keyReject
              · exact HeldP.ite hs2.keyChecks2 (HeldP.pair hs2.keyReject)

theorem Held.keyService (hk : Held .reply s0 s) : Held .reply s0 s.keyService := by
  unfold State.keyService
  split
  · exact hk
  · split
    · exact hk
    · refine Held.ite ?_ ?_
      · exact hk
      · extract_lets -merge -underBinder src s1
        have hs1 : Held .reply s0 s1 := hk.reply_same (by rfl)
        refine Held.ite ?_ ?_
        · exact hs1.keyReject.owe
        · split
          · exact hs1
          · split
            · rename_i e s2 heq
              have hs2 : Held .reply s0 s2 := HeldP.of_eq heq hs1.keyChecks2
              exact hs2.owe
            · rename_i s2 heq
              have hs2 : Held .reply s0 s2 := HeldP.of_eq heq hs1.keyChecks2
              exact hs2

theorem Held.keyFromLink {nb : Fin 32} {sec : Bool} {bytes : List Byte} (hk : Held .reply s0 s) :
    Held .reply s0 (s.keyFromLink nb sec bytes) := by
  unfold State.keyFromLink
  extract_lets -merge -underBinder kind
  refine Held.ite ?_ ?_
  · exact hk
  · refine Held.ite ?_ ?_
    · exact hk.linkSend
    · split
      · rename_i e s1 heq
        have hs1 : Held .reply s0 s1 := HeldP.of_eq heq hk.keyMessage
        exact hs1.linkSend
      · rename_i s1 heq
        have hs1 : Held .reply s0 s1 := HeldP.of_eq heq hk.keyMessage
        exact hs1

theorem Held.holdAckWrite (hk : Held .reply s0 s) : Held .reply s0 s.holdAckWrite := by
  unfold State.holdAckWrite
  exact Held.ite (hk.reply_same (by rfl)) hk

theorem Held.programDebug (hk : Held .reply s0 s) : Held .reply s0 s.programDebug := by
  unfold State.programDebug
  exact Held.ite (hk.reply_same (by rfl)).showCells (Held.ite (hk.reply_same (by rfl)).showCells hk)

/-! ### The operations of Machine/Radio.lean -/

theorem Held.showRadio {held : Bool} (hk : Held .reply s0 s) : Held .reply s0 (s.showRadio held) := by
  unfold State.showRadio
  exact Held.ite hk.put.xo24Rest hk.put

theorem Held.showQueued (hk : Held .reply s0 s) : Held .reply s0 s.showQueued := by
  unfold State.showQueued
  exact hk.put

theorem Held.enqueue {r n : ℕ} {body : List Byte} (hk : Held .reply s0 s) : HeldP .reply s0 (s.enqueue r n body) := by
  unfold State.enqueue
  split
  · rename_i h s1 heq
    have hs1 : Held .reply s0 s1 := HeldP.of_eq heq hk.header
    exact HeldP.pair hs1.fill.put

theorem Held.dequeue {r slot n : ℕ} (hk : Held .reply s0 s) : Held .reply s0 (s.dequeue r slot n) := by
  unfold State.dequeue
  exact hk.consume

/-! ### The operations of Machine/Link.lean -/

theorem Held.dropHead (hk : Held .reply s0 s) : Held .reply s0 s.dropHead := by
  unfold State.dropHead
  split
  · exact hk
  · exact Held.ite (hk.reply_same (by rfl)).dequeue.showQueued.showRadio.nextTelegram (hk.reply_same
        (by rfl)).dequeue.showQueued.showRadio

theorem Held.planHead (hk : Held .reply s0 s) : Held .reply s0 s.planHead := by
  unfold State.planHead
  split
  · exact hk
  · refine Held.ite ?_ ?_
    · exact hk
    · split
      · exact hk.reply_same (by rfl)
      · exact hk
      · exact hk.bump.dropHead

theorem Held.queueTx {nb : Option ℕ} {kind : ℕ} {payload : List Byte} (hk : Held .reply s0 s) :
    HeldOpt .reply s0 (s.queueTx nb kind payload) := by
  unfold State.queueTx
  extract_lets -merge -underBinder f n
  refine HeldOpt.ite ?_ ?_
  · split
    · rename_i slot s1 heq
      have hs1 : Held .reply s0 s1 := HeldP.of_eq heq hk.enqueue
      exact HeldOpt.some (hs1.reply_same (by rfl)).showQueued
  · exact HeldOpt.none

theorem Held.frameOut {n : Nat} (h : Held .reply s0 s) : Held .reply s0 (State.frameOut n s) := by
  induction n generalizing s with
  | zero => exact h
  | succ n ih =>
    unfold State.frameOut
    split
    · exact h
    · split
      · exact h
      · rename_i s1 heq
        exact ih ((h.queueTx s1 heq).reply_same (by rfl))

theorem Held.radioTask (hk : Held .reply s0 s) : Held .reply s0 s.radioTask := by
  unfold State.radioTask
  exact Held.ite hk (Held.ite hk.frameOut.planHead hk.frameOut)

/-! ### The operations of Machine/Billing.lean -/

theorem Held.closeRequest (hk : Held .reply s0 s) : Held .reply s0 s.closeRequest := by
  unfold State.closeRequest
  exact hk.set1

/-! ### The operations of Machine/Pay.lean -/

theorem Held.setCredit {c : ℤ} (hk : Held .reply s0 s) : Held .reply s0 (s.setCredit c) := by
  unfold State.setCredit
  exact hk.wr.wr.putB

theorem Held.wantOpen (hk : Held .reply s0 s) : Held .reply s0 s.wantOpen := by
  unfold State.wantOpen
  exact hk.reply_same (by rfl)

theorem Held.wantClose (hk : Held .reply s0 s) : Held .reply s0 s.wantClose := by
  unfold State.wantClose
  exact hk.reply_same (by rfl)

theorem Held.setPay {v : ℕ} (hk : Held .reply s0 s) : Held .reply s0 (s.setPay v) := by
  unfold State.setPay
  exact Held.ite hk (Held.ite hk.put.commitDue.wantClose hk.put.commitDue)

theorem Held.creditReturns (hk : Held .reply s0 s) : Held .reply s0 s.creditReturns := by
  unfold State.creditReturns
  exact Held.ite hk.setPay hk.setPay.wantOpen

theorem Held.tokenLast {result : ℕ} {cls id : Option ℕ} (hk : Held .reply s0 s) : Held .reply s0 (s.tokenLast result cls id) := by
  unfold State.tokenLast
  exact hk.wr

theorem Held.tokenReject (hk : Held .reply s0 s) : Held .reply s0 s.tokenReject := by
  unfold State.tokenReject
  exact Held.ite hk.bump.commitDue.put (hk.bump.commitDue.put.set1.reply_same (by rfl))

theorem Held.setTokenMap {m : ℕ} (hk : Held .reply s0 s) : Held .reply s0 (s.setTokenMap m) := by
  unfold State.setTokenMap
  exact hk.wr.wr

theorem Held.acceptId {id : ℕ} (hk : Held .reply s0 s) : Held .reply s0 (s.acceptId id) := by
  unfold State.acceptId
  exact Held.ite hk.setTokenMap.put hk.setTokenMap

theorem Held.applyToken {p : ℕ} {t : ℕ × Option ℕ × Option ℕ} (hk : Held .reply s0 s) : HeldP .reply s0 (s.applyToken p t) := by
  unfold State.applyToken
  exact HeldP.ite (HeldP.pair hk.tokenLast.tokenReject) (HeldP.pair hk.tokenLast.setCredit.acceptId.bump.clr.unitOfCredit.commitDue)

theorem HeldP.keyedToken {digits : List ℕ} {x : Option (List ℕ) × State} (hk : HeldP .reply s0 x) :
    HeldP .reply s0 (State.keyedToken digits x) := by
  unfold State.keyedToken
  split
  · exact HeldP.pair hk.out.tokenLast
  · exact HeldP.ite (HeldP.pair hk.out.tokenLast) hk.out.applyToken

theorem Held.evalToken {digits : List ℕ} (hk : Held .reply s0 s) : HeldP .reply s0 (s.evalToken digits) := by
  unfold State.evalToken
  exact HeldP.ite (HeldP.pair hk.checkLockout.tokenLast) (HeldP.ite (HeldP.pair hk.checkLockout.tokenLast)
      hk.checkLockout.slotFor.keyedToken)

theorem Held.endHeld (hk : Held .reply s0 s) : Held .reply s0 s.endHeld := by
  unfold State.endHeld
  exact Held.ite hk.clr.commitDue hk

theorem Held.remoteClose (hk : Held .reply s0 s) : Held .reply s0 s.remoteClose := by
  unfold State.remoteClose
  exact hk.set1.commitDue.wantClose

theorem Held.remoteOpen (hk : Held .reply s0 s) : HeldP .reply s0 s.remoteOpen := by
  unfold State.remoteOpen
  refine HeldP.ite ?_ ?_
  · exact HeldP.pair hk
  · extract_lets -merge -underBinder s1
    have hs1 : Held .reply s0 s1 := hk.endHeld.clr.commitDue
    exact HeldP.ite (HeldP.pair hs1.wantOpen) (HeldP.ite (HeldP.pair hs1) (HeldP.pair hs1.creditReturns))

theorem Held.keypadOpen (hk : Held .reply s0 s) : Held .reply s0 s.keypadOpen := by
  unfold State.keypadOpen
  exact Held.ite (Held.ite hk hk.endHeld.wantOpen) (Held.ite hk.wantOpen hk)

/-! ### The operations of Machine/Display.lean -/

theorem Held.publishFrame {body : List Byte} (hk : Held .reply s0 s) : Held .reply s0 (s.publishFrame body) := by
  unfold State.publishFrame
  exact hk.publish

theorem Held.startRun {kind r : ℕ} {whole : Bool} {target : List (ℕ × ℕ)} {segs : List SegDrive} {sec : ℕ} (hk : Held .reply s0 s) :
    Held .reply s0 (s.startRun kind r whole target segs sec) := by
  unfold State.startRun
  exact (hk.reply_same (by rfl)).set1.put

theorem Held.request {r : ℕ} (hk : Held .reply s0 s) : Held .reply s0 (s.request r) := by
  unfold State.request
  exact hk.put

theorem Held.unrequest {r : ℕ} (hk : Held .reply s0 s) : Held .reply s0 (s.unrequest r) := by
  unfold State.unrequest
  exact hk.put

theorem Held.balanceRequests (hk : Held .reply s0 s) : Held .reply s0 s.balanceRequests := by
  unfold State.balanceRequests
  exact Held.foldl hk (fun _ _ ht => Held.ite (ht.request.reply_same (by rfl)) ht)

theorem Held.serveRegion {body : List Byte} {r : ℕ} (hk : Held .reply s0 s) : HeldP .reply s0 (s.serveRegion body r) := by
  unfold State.serveRegion
  exact HeldP.ite (HeldP.pair ((hk.unrequest.reply_same (by rfl)).startRun.reply_same (by rfl))) (HeldP.ite (HeldP.pair
      (hk.unrequest.reply_same (by rfl)).startRun) (HeldP.pair hk.unrequest))

theorem Held.serve {body : List Byte} {l : List Nat} (h : Held .reply s0 s) : Held .reply s0 (s.serve body l) := by
  induction l generalizing s with
  | nil => exact h
  | cons r l ih =>
    exact Held.ite (Held.ite h.serveRegion (ih h.serveRegion)) (ih h)

theorem Held.dispTask (hk : Held .reply s0 s) : Held .reply s0 s.dispTask := by
  unfold State.dispTask
  extract_lets -merge -underBinder page z body now
  have hz : Held .reply s0 z := hk.put.eccMeet
  split
  · exact Held.ite hz (hz.publishFrame.reply_same (by rfl))
  · extract_lets -merge -underBinder s1 s2
    have hs1 : Held .reply s0 s1 := Held.ite hz hz.publishFrame
    have hs2 : Held .reply s0 s2 := Held.foldl hs1 (fun _ _ ht => Held.ite ht.request ht)
    split
    · exact hs2
    · exact hs2.serve
  · exact hz

/-! ### The operations of Machine/Keypad.lean -/

theorem Held.setEntry {l : List ℕ} (hk : Held .reply s0 s) : Held .reply s0 (s.setEntry l) := by
  unfold State.setEntry
  exact hk.reply_same (by rfl)

theorem Held.keySubmit (hk : Held .reply s0 s) : Held .reply s0 s.keySubmit := by
  unfold State.keySubmit
  exact Held.ite (hk.reply_same (by rfl)).keypadOpen (Held.ite hk.evalToken.out.setEntry hk)

theorem Held.takeKey {key : ℕ} (hk : Held .reply s0 s) : Held .reply s0 (s.takeKey key) := by
  unfold State.takeKey
  extract_lets -merge -underBinder e
  split
  · exact Held.ite hk.setEntry hk.setEntry
  · exact Held.ite hk.keySubmit (Held.ite hk.setEntry (Held.ite hk.setEntry (Held.ite (hk.reply_same (by rfl)) hk.setEntry)))

theorem Held.keypadTask (hk : Held .reply s0 s) : Held .reply s0 s.keypadTask := by
  unfold State.keypadTask
  exact (Held.foldl (hk.reply_same (by rfl)) (fun _ _ hs => hs.takeKey)).ready

/-! ### The operations of Machine/Update.lean -/

theorem Held.openSession {owner kind length : ℕ} (hk : Held .reply s0 s) : Held .reply s0 (s.openSession owner kind length) := by
  unfold State.openSession
  exact (hk.freeUpdates.put.put.put.put.put.put.reply_same (by rfl)).setSession

theorem Held.updBegin {owner : ℕ} {f : List ℕ} (hk : Held .reply s0 s) : HeldP .reply s0 (s.updBegin owner f) := by
  unfold State.updBegin
  exact HeldP.ite (HeldP.pair hk) (HeldP.ite (HeldP.pair hk) (HeldP.pair hk.openSession))

theorem Held.updData {f : List ℕ} (hk : Held .reply s0 s) : HeldP .reply s0 (s.updData f) := by
  unfold State.updData
  extract_lets -merge -underBinder off d next
  refine HeldP.ite ?_ ?_
  · exact HeldP.pair hk
  · refine HeldP.ite ?_ ?_
    · exact HeldP.pair hk
    · refine HeldP.ite ?_ ?_
      · exact HeldP.pair hk
      · refine HeldP.ite ?_ ?_
        · exact HeldP.pair hk
        · split
          · rename_i slot s1 heq
            have hs1 : Held .reply s0 s1 := HeldP.of_eq heq hk.enqueue
            exact HeldP.pair (hs1.put.reply_same (by rfl)).ready

theorem Held.updEnd (hk : Held .reply s0 s) : HeldP .reply s0 s.updEnd := by
  unfold State.updEnd
  exact HeldP.ite (HeldP.pair (hk.put.reply_same (by rfl)).ready) (HeldP.pair hk)

theorem Held.updActivate (hk : Held .reply s0 s) : HeldP .reply s0 s.updActivate := by
  unfold State.updActivate
  exact HeldP.ite (HeldP.pair hk) (HeldP.ite (HeldP.pair hk) (HeldP.pair (hk.reply_same (by rfl))))

theorem Held.updMessage {src : Source} {type : ℕ} {f : List ℕ} (hk : Held .reply s0 s) :
    HeldP .reply s0 (s.updMessage src type f) := by
  unfold State.updMessage
  dsimp -zeta only
  refine HeldP.ite ?_ ?_
  · exact HeldP.pair hk
  · refine HeldP.ite ?_ ?_
    · exact HeldP.pair hk
    · exact HeldP.pair (HeldP.out (by
        refine HeldP.ite ?_ ?_
        · exact HeldP.pair (Held.ite (hk.reply_same (by rfl)) hk)
        · refine HeldP.ite ?_ ?_
          · exact HeldP.pair hk
          · extract_lets -merge -underBinder src z
            have hz : Held .reply s0 z := hk.reply_same (by rfl)
            refine HeldP.ite ?_ ?_
            · exact hz.updBegin
            · split
              · exact HeldP.pair (hz.reply_same (by rfl))
              · exact HeldP.ite hz.updData (HeldP.ite (HeldP.pair hz) (HeldP.ite hz.updEnd (HeldP.ite hz.updActivate
                    (HeldP.pair (Held.ite hz.endSession hz)))))))

theorem Held.keepProgress (hk : Held .reply s0 s) : Held .reply s0 s.keepProgress := by
  unfold State.keepProgress
  split
  · exact hk
  · exact Held.ite hk hk.setSession

theorem Held.eraseSector (hk : Held .reply s0 s) : Held .reply s0 s.eraseSector := by
  unfold State.eraseSector
  exact hk.reply_same (by rfl)

theorem Held.program {n : Nat} (h : Held .reply s0 s) : Held .reply s0 (State.program n s) := by
  induction n generalizing s with
  | zero => exact h
  | succ n ih =>
    unfold State.program
    split
    · exact h
    · exact Held.ite (ih (h.reply_same (by rfl)).consume) h

theorem Held.checkHeader (hk : Held .reply s0 s) : Held .reply s0 s.checkHeader := by
  unfold State.checkHeader
  exact Held.ite hk (Held.ite (hk.reply_same (by rfl)) hk.endSession)

theorem Held.hashBody (hk : Held .reply s0 s) : Held .reply s0 s.hashBody := by
  unfold State.hashBody
  exact Held.ite (hk.put.reply_same (by rfl)) hk.endSession

theorem Held.updTask {bad : Bool} (hk : Held .reply s0 s) : Held .reply s0 (s.updTask bad) := by
  unfold State.updTask
  split
  · exact Held.ite (Held.ite hk.eraseSector.endSession hk.eraseSector.ready) (Held.ite hk.program.endSession
        hk.program.checkHeader.keepProgress)
  · exact Held.ite hk.hashBody hk

theorem Held.updAll {n : Nat} (h : Held .reply s0 s) : Held .reply s0 (State.updAll n s) := by
  induction n generalizing s with
  | zero => exact h
  | succ n ih => exact Held.ite (ih h.updTask) h

theorem Held.activatePersist (hk : Held .reply s0 s) : Held .reply s0 s.activatePersist := by
  unfold State.activatePersist
  exact Held.ite hk (hk.reply_same (by rfl)).endSession.bump

end
end Sys2Proof.Machine
end

section
set_option Elab.async false
/-! PROOF. The command language and the tasks of a Service window (R34 to R37, R325). -/

namespace Sys2Proof.Machine

section
variable {s0 s t : State}

/-! ### The operations of Machine/Access.lean -/

theorem Held.senseGpio {a : ℕ} (hk : Held .reply s0 s) : Held .reply s0 (s.senseGpio a) := by
  unfold State.senseGpio
  extract_lets -merge -underBinder n f
  refine Held.ite ?_ ?_
  · refine Held.ite ?_ ?_
    · split
      · rename_i v s1 heq
        have hs1 : Held .reply s0 s1 := HeldP.of_eq heq hk.draw
        exact hs1.put
    · exact hk.clr
  · exact hk

theorem Held.readReg {rank a : ℕ} {pend : Bool} (hk : Held .reply s0 s) : HeldP .reply s0 (s.readReg rank a pend) := by
  have h : Held .reply s0 (if pend then s else s.senseGpio a) := Held.ite hk hk.senseGpio
  change Held .reply s0 (s.readReg rank a pend).2
  unfold State.readReg
  generalize (if pend then s else s.senseGpio a) = t at h
  exact Held.ite h.put h

theorem Held.readCrs {rank a : ℕ} (hk : Held .reply s0 s) : HeldP .reply s0 (s.readCrs rank a) := by
  have h : ∀ x n, Held .reply s0 (s.eccMeet x n) := fun x n => hk.eccMeet
  show Held .reply s0 (State.readCrs s rank a).2
  unfold State.readCrs
  extract_lets slot r t rcd off
  clear_value slot off
  split
  · exact hk
  · split
    · exact hk
    · split
      · exact hk
      · split
        · exact (h _ _).draw (n := 2 ^ 32)
        · exact h _ _

theorem Held.readNvm {rank a : ℕ} (hk : Held .reply s0 s) : HeldP .reply s0 (s.readNvm rank a) := by
  unfold State.readNvm
  exact HeldP.ite (HeldP.pair hk) (HeldP.ite hk.draw (HeldP.pair hk))

theorem Held.readWord {rank a : ℕ} {pend : Bool} (hk : Held .reply s0 s) : HeldP .reply s0 (s.readWord rank a pend) := by
  unfold State.readWord
  split
  · refine HeldP.ite ?_ ?_
    · split
      · rename_i v s1 heq
        have hs1 : Held .reply s0 s1 := HeldP.of_eq heq hk.readReg
        exact HeldP.pair hs1
    · refine HeldP.ite ?_ ?_
      · exact hk.readCrs
      · refine HeldP.ite ?_ ?_
        · split
          · rename_i v s1 heq
            have hs1 : Held .reply s0 s1 := HeldP.of_eq heq hk.readNvm
            exact HeldP.pair hs1
        · exact HeldP.pair hk

theorem Held.writeRw {a : ℕ} {r : RegRow} {m : ℕ} {w : Word} (hk : Held .reply s0 s) : Held .reply s0 (s.writeRw a r m w) := by
  unfold State.writeRw
  exact Held.ite (Held.ite hk hk.wr) ((Held.ite hk hk.wr).stage)

theorem Held.writeW1c {a : ℕ} {r : RegRow} {m : ℕ} {w : Word} (hk : Held .reply s0 s) : Held .reply s0 (s.writeW1c a r m w) := by
  unfold State.writeW1c
  exact Held.ite (Held.foldl hk (fun _ _ ht => Held.ite ht.clr ht)) (Held.ite hk hk.wr)

theorem Held.writeAction {a m : ℕ} {w : Word} (hk : Held .reply s0 s) : HeldP .reply s0 (s.writeAction a m w) := by
  unfold State.writeAction
  extract_lets -merge -underBinder on s1 src v s1x2 s1x3
  have hs1 : Held .reply s0 s1 := Held.ite hk.schedCommit hk
  have hs1x2 : Held .reply s0 s1x2 := Held.ite hk.programDebug hk
  have hs1x3 : Held .reply s0 s1x3 := Held.ite hk.ackSafe hk
  refine HeldP.ite ?_ ?_
  · exact HeldP.pair (Held.ite hs1.schedDiscard hs1)
  · refine HeldP.ite ?_ ?_
    · exact HeldP.pair (Held.ite (hk.reply_same (by rfl)) hk)
    · refine HeldP.ite ?_ ?_
      · exact HeldP.pair (Held.ite hk.startTimeWrite hk)
      · refine HeldP.ite ?_ ?_
        · exact HeldP.pair hk.holdDate
        · refine HeldP.ite ?_ ?_
          · exact HeldP.pair hk.setTimeOfDay
          · refine HeldP.ite ?_ ?_
            · exact HeldP.pair (Held.ite hk.startCapture hk)
            · refine HeldP.ite ?_ ?_
              · exact HeldP.pair (Held.ite hk.closeRequest hk)
              · refine HeldP.ite ?_ ?_
                · refine HeldP.ite ?_ ?_
                  · exact HeldP.pair hk.remoteClose
                  · refine HeldP.ite ?_ ?_
                    · split
                      · rename_i ok s1 heq
                        have hs1 : Held .reply s0 s1 := HeldP.of_eq heq hk.remoteOpen
                        exact HeldP.pair hs1
                    · exact HeldP.pair hk
                · exact HeldP.ite (HeldP.pair (Held.ite hs1x2.holdAckWrite hs1x2)) (HeldP.ite (HeldP.ite (HeldP.ite (HeldP.pair
                      hs1x3.forceSafe) (HeldP.pair hk)) (HeldP.pair hs1x3)) (HeldP.pair hk))

theorem Held.writeShow {b : Block} {a : ℕ} (hk : Held .reply s0 s) : Held .reply s0 (s.writeShow b a) := by
  unfold State.writeShow
  exact Held.ite hk.buildPdur (Held.ite hk.putB hk)

theorem Held.writeWord {rank a sel : ℕ} {w : Word} (hk : Held .reply s0 s) : HeldP .reply s0 (s.writeWord rank a sel w) := by
  unfold State.writeWord
  split
  · exact HeldP.pair hk
  · extract_lets -merge -underBinder m s1 s2
    have hs1 : Held .reply s0 s1 := hk.writeRw.writeW1c
    have hs2 : Held .reply s0 s2 := Held.ite hk hs1
    refine HeldP.ite ?_ ?_
    · exact HeldP.pair hk
    · refine HeldP.ite ?_ ?_
      · exact HeldP.pair hk
      · refine HeldP.ite ?_ ?_
        · exact HeldP.pair hk
        · refine HeldP.ite ?_ ?_
          · exact HeldP.pair hk
          · refine HeldP.ite ?_ ?_
            · exact HeldP.pair hk
            · split
              · rename_i s3 heq
                have hs3 : Held .reply s0 s3 := HeldP.of_eq heq hs2.writeAction
                exact HeldP.pair hs3.writeShow
              · exact HeldP.pair hk

/-! ### The operations of Machine/Carriers.lean -/

theorem Held.dropKeyBuf {c : Carrier} (hk : Held .reply s0 s) : Held .reply s0 (s.dropKeyBuf c) := by
  unfold State.dropKeyBuf
  exact hk.reply_same (by rfl)

theorem Held.endSessionOn {c : Carrier} (hk : Held .reply s0 s) : Held .reply s0 (s.endSessionOn c) := by
  unfold State.endSessionOn
  exact hk.setCar.dropKeyBuf

theorem Held.send {c : Carrier} {inv : Byte} {l : LineForm} {r : Resp} (hk : Held .reply s0 s) :
    Held .reply s0 (s.send c inv l r) := by
  unfold State.send
  exact Held.ite ((Held.ite hk hk.bump).setCar) ((Held.ite hk hk.bump).emit)

theorem Held.conclude {c : Carrier} {inv : Byte} {l : LineForm} {r : Resp} (hk : Held .reply s0 s) :
    Held .reply s0 (s.conclude c inv l r) := by
  unfold State.conclude
  split
  · exact hk.setCar
  · exact Held.ite hk.send hk.setCar
  · exact hk.send

theorem Held.releaseTokens (hk : Held .reply s0 s) : Held .reply s0 s.releaseTokens := by
  unfold State.releaseTokens
  exact Held.ite hk (Held.foldl hk (fun t c ht => by
      split
      · exact ht.flushAfter
      · exact ht))

theorem Held.answer {c : Carrier} {inv : Byte} {l : LineForm} {keep : Bool} {f : State → Resp × State} (hk : Held .reply s0 s)
    (hf : ∀ t, Held .reply s0 t → HeldP .reply s0 (f t)) :
    Held .reply s0 (s.answer c inv l keep f) := by
  unfold State.answer
  refine Held.ite ?_ ?_
  · exact hk
  · extract_lets -merge -underBinder s1 s2
    have hs1 : Held .reply s0 s1 := Held.ite hk hk.dropKeyBuf
    have hs2 : Held .reply s0 s2 := hs1.bump
    refine Held.ite ?_ ?_
    · exact hs1.send
    · refine Held.ite ?_ ?_
      · exact hs2.send
      · split
        · rename_i r s3 heq
          have hs3 : Held .reply s0 s3 := HeldP.of_eq heq (hf _ hs2)
          exact hs3.conclude

theorem Held.queueLine {c : Carrier} {kind : ℕ} {body : List Byte} (hk : Held .reply s0 s) :
    Held .reply s0 (s.queueLine c kind body) := by
  unfold State.queueLine
  dsimp -zeta only
  exact (HeldP.ite hk.lineMark (HeldP.pair hk)).out.setCar.ready

/-! ### The operations of Machine/Objects.lean -/

theorem Held.setCalendar {w : Word × Word} (hk : Held .reply s0 s) : HeldP .reply s0 (s.setCalendar w) := by
  unfold State.setCalendar
  exact HeldP.ite (HeldP.pair hk) (HeldP.pair hk.holdDate.setTimeOfDay)

theorem Held.stageTable {addr : ℕ → ℕ} {n : ℕ} {l : List (ℕ × Word)} (hk : Held .reply s0 s) :
    Held .reply s0 (s.stageTable addr n l) := by
  unfold State.stageTable
  exact Held.foldl hk (fun t i ht => by
      split
      · exact ht.stage
      · exact ht.stageField)

theorem Held.stageDays {l : List (ℕ × List Word)} (hk : Held .reply s0 s) : Held .reply s0 (s.stageDays l) := by
  unfold State.stageDays
  exact Held.foldl hk (fun _ _ ht => Held.foldl ht (fun u e hu => by
      split
      · exact hu.stage
      · exact Held.ite hu hu.stageField))

theorem Held.writeCalendar {a : ℕ} {v : Val} (hk : Held .reply s0 s) : HeldP .reply s0 (s.writeCalendar a v) := by
  unfold State.writeCalendar
  split
  · refine HeldP.ite ?_ ?_
    · split
      · exact HeldP.ite (HeldP.pair hk.stageTable) (HeldP.pair hk)
      · exact HeldP.pair hk
    · refine HeldP.ite ?_ ?_
      · split
        · exact HeldP.ite (HeldP.pair (Held.foldl hk (fun _ _ hu => hu.stage))) (HeldP.pair hk)
        · exact HeldP.pair hk
      · split
        · exact HeldP.ite (HeldP.pair hk.stageDays) (HeldP.pair hk)
        · exact HeldP.pair hk
  · exact HeldP.pair hk

theorem Held.specialInsert {v : Val} (hk : Held .reply s0 s) : HeldP .reply s0 (s.specialInsert v) := by
  unfold State.specialInsert
  split
  · exact HeldP.pair hk.stage
  · exact HeldP.pair hk

theorem Held.specialDelete {v : Val} (hk : Held .reply s0 s) : HeldP .reply s0 (s.specialDelete v) := by
  unfold State.specialDelete
  split
  · exact HeldP.ite (HeldP.pair hk.stageField) (HeldP.pair hk)
  · exact HeldP.pair hk

theorem Held.writeAttr {k : ObjKind} {a : ℕ} {v : Val} (hk : Held .reply s0 s) : HeldP .reply s0 (s.writeAttr k a v) := by
  unfold State.writeAttr
  split
  · split
    · exact hk.setCalendar
    · exact HeldP.pair hk
  · split
    · exact HeldP.ite (HeldP.pair hk.stageTable) (HeldP.pair hk)
    · exact HeldP.pair hk
  · exact hk.writeCalendar
  · exact HeldP.pair hk

theorem Held.setAttr {rank : ℕ} {obis : List ℕ} {a : ℕ} {v : Option Val} (hk : Held .reply s0 s) :
    HeldP .reply s0 (s.setAttr rank obis a v) := by
  unfold State.setAttr
  split
  · exact HeldP.pair hk
  · refine HeldP.ite ?_ ?_
    · exact HeldP.pair hk
    · refine HeldP.ite ?_ ?_
      · exact HeldP.pair hk
      · split
        · exact HeldP.pair hk
        · split
          · rename_i s1 heq
            have hs1 : Held .reply s0 s1 := HeldP.of_eq heq hk.writeAttr
            exact HeldP.ite (HeldP.pair hk) (HeldP.pair hs1)
          · exact HeldP.pair hk

theorem Held.method {k : ObjKind} {m : ℕ} {v : Option Val} (hk : Held .reply s0 s) : HeldP .reply s0 (s.method k m v) := by
  unfold State.method
  split
  · refine HeldP.ite ?_ ?_
    · exact HeldP.pair hk.remoteClose
    · split
      · rename_i ok s1 heq
        have hs1 : Held .reply s0 s1 := HeldP.of_eq heq hk.remoteOpen
        exact HeldP.pair hs1
  · split
    · exact HeldP.pair hk
    · exact HeldP.ite hk.specialInsert hk.specialDelete
  · exact HeldP.pair hk

theorem Held.invokeMethod {rank : ℕ} {obis : List ℕ} {m : ℕ} {v : Option Val} (hk : Held .reply s0 s) :
    HeldP .reply s0 (s.invokeMethod rank obis m v) := by
  unfold State.invokeMethod
  split
  · exact HeldP.pair hk
  · refine HeldP.ite ?_ ?_
    · exact HeldP.pair hk
    · refine HeldP.ite ?_ ?_
      · exact HeldP.pair hk
      · split
        · rename_i s1 heq
          have hs1 : Held .reply s0 s1 := HeldP.of_eq heq hk.method
          exact HeldP.ite (HeldP.pair hk) (HeldP.pair hs1)
        · exact HeldP.pair hk

theorem Held.objReply {nb service : ℕ} {invoke : Byte} {code : ℕ} {data : List Byte} (hk : Held .reply s0 s) :
    Held .reply s0 (s.objReply nb service invoke code data) := by
  unfold State.objReply
  exact hk.linkSend

theorem Held.objGet {nb : Fin 32} {sec : Bool} {invoke : Byte} {cls : ℕ} {obis : List Byte} {index : ℕ} {sel : Option (ℕ × ℕ ×
    ℕ)} (hk : Held .reply s0 s) :
    Held .reply s0 (s.objGet nb sec invoke cls obis index sel) := by
  unfold State.objGet
  split
  · exact hk.objReply

theorem Held.objSet {nb : Fin 32} {sec : Bool} {invoke : Byte} {cls : ℕ} {obis : List Byte} {index : ℕ} {data : List Byte} (hk
    : Held .reply s0 s) :
    Held .reply s0 (s.objSet nb sec invoke cls obis index data) := by
  unfold State.objSet
  refine Held.ite ?_ ?_
  · exact hk.objReply
  · split
    · rename_i code s1 heq
      have hs1 : Held .reply s0 s1 := HeldP.of_eq heq hk.setAttr
      exact hs1.objReply

theorem Held.objAction {nb : Fin 32} {sec : Bool} {invoke : Byte} {cls : ℕ} {obis : List Byte} {index : ℕ} {data : List Byte}
    (hk : Held .reply s0 s) :
    Held .reply s0 (s.objAction nb sec invoke cls obis index data) := by
  unfold State.objAction
  refine Held.ite ?_ ?_
  · exact hk.objReply
  · split
    · rename_i code s1 heq
      have hs1 : Held .reply s0 s1 := HeldP.of_eq heq hk.invokeMethod
      exact hs1.objReply

/-! ### The operations of Machine/Command.lean -/

theorem Held.timeText {rank : ℕ} (hk : Held .reply s0 s) : HeldP .reply s0 (s.timeText rank) := by
  unfold State.timeText
  exact HeldP.ite (HeldP.pair hk) (HeldP.pair hk.capture)

theorem Held.getNamed {rank : ℕ} {pend raw : Bool} {x : Named} (hk : Held .reply s0 s) :
    HeldP .reply s0 (s.getNamed rank pend raw x) := by
  unfold State.getNamed
  split
  · split
    · rename_i v s1 heq
      have hs1 : Held .reply s0 s1 := HeldP.of_eq heq hk.readReg
      exact HeldP.pair hs1
  · split
    · rename_i v s1 heq
      have hs1 : Held .reply s0 s1 := HeldP.of_eq heq hk.readReg
      exact HeldP.pair hs1
  · exact HeldP.pair hk
  · split
    · rename_i t s1 heq
      have hs1 : Held .reply s0 s1 := HeldP.of_eq heq hk.timeText
      exact HeldP.pair hs1
  · split <;> exact HeldP.pair hk
  · exact HeldP.pair hk

theorem Held.edgeOrNot (hk : Held .reply s0 s) : Held .reply s0 s.edgeOrNot := by
  unfold State.edgeOrNot
  split
  · rename_i s1 heq
    have hs1 : Held .reply s0 s1 := HeldP.of_eq heq hk.draw
    exact hs1.advance
  · rename_i fst s1 _ heq
    have hs1 : Held .reply s0 s1 := HeldP.of_eq heq hk.draw
    exact hs1

theorem Held.readWords {rank n a : Nat} {pend : Bool} (h : Held .reply s0 s) : HeldP .reply s0 (s.readWords rank pend n a) := by
  induction n generalizing s a with
  | zero => exact h
  | succ n ih =>
    have h1 := h.readWord (rank := rank) (a := a) (pend := pend)
    unfold State.readWords
    split
    · rename_i s1 heq
      rw [heq] at h1
      exact h1
    · rename_i v s1 heq
      rw [heq] at h1
      have h3 : Held .reply s0 (if a = F.RTC_SEC ∧ n ≠ 0 then s1.edgeOrNot else s1) := Held.ite h1.edgeOrNot h1
      have h2 := ih (a := a + 4) h3
      split <;> (rename_i heq2; rw [heq2] at h2; exact h2)

theorem Held.getAddr {rank a : ℕ} {pend : Bool} {count : Option ℕ} (hk : Held .reply s0 s) :
    HeldP .reply s0 (s.getAddr rank a pend count) := by
  unfold State.getAddr
  refine HeldP.ite ?_ ?_
  · exact HeldP.pair hk
  · split
    · split
      · rename_i v s1 heq
        have hs1 : Held .reply s0 s1 := HeldP.of_eq heq hk.readWord
        exact HeldP.pair hs1
      · exact HeldP.pair hk
    · refine HeldP.ite ?_ ?_
      · exact HeldP.pair hk
      · split
        · rename_i l s1 heq
          have hs1 : Held .reply s0 s1 := HeldP.of_eq heq hk.readWords
          exact HeldP.pair hs1
        · exact HeldP.pair hk

theorem Held.aclGet {rank : ℕ} {o : ObjRef} {pend raw : Bool} {count : Option ℕ} (hk : Held .reply s0 s) :
    HeldP .reply s0 (s.aclGet rank o pend raw count) := by
  unfold State.aclGet
  split
  · exact HeldP.ite (HeldP.pair hk) hk.getAddr
  · refine HeldP.ite ?_ ?_
    · exact HeldP.pair hk
    · split
      · exact hk.getNamed
      · exact HeldP.pair hk

theorem Held.aclShow {rank : ℕ} {o : ObjRef} (hk : Held .reply s0 s) : HeldP .reply s0 (s.aclShow rank o) := by
  unfold State.aclShow
  split
  · exact HeldP.pair hk
  · split
    · split
      · split
        · rename_i v s1 heq
          have hs1 : Held .reply s0 s1 := HeldP.of_eq heq hk.readReg
          exact HeldP.pair hs1
      · exact HeldP.pair hk
    · split
      · rename_i v s1 heq
        have hs1 : Held .reply s0 s1 := HeldP.of_eq heq hk.readReg
        exact HeldP.pair hs1
    · exact HeldP.pair hk
    · split
      · rename_i t s1 heq
        have hs1 : Held .reply s0 s1 := HeldP.of_eq heq hk.timeText
        exact HeldP.pair hs1
    · split <;> exact HeldP.pair hk
    · split <;> exact HeldP.pair hk
    · exact HeldP.pair hk

theorem coded_held {x : Nat × State} (h : HeldP .reply s0 x) : HeldP .reply s0 (coded x) := h

theorem Held.setReg {rank a sel : ℕ} {v : ℤ} (hk : Held .reply s0 s) : HeldP .reply s0 (s.setReg rank a sel v) := by
  unfold State.setReg
  exact HeldP.ite (HeldP.pair hk) (HeldP.ite (HeldP.pair hk) (coded_held hk.writeWord))

theorem Held.setField {rank a : ℕ} {f : FieldRow} {v : ℤ} (hk : Held .reply s0 s) : HeldP .reply s0 (s.setField rank a f v) := by
  unfold State.setField
  exact HeldP.ite (HeldP.pair hk) (HeldP.ite (HeldP.pair hk) (coded_held hk.writeWord))

theorem Held.setQty {rank : ℕ} {q : Qty} {t : Text} {unit : Option Text} (hk : Held .reply s0 s) :
    HeldP .reply s0 (s.setQty rank q t unit) := by
  unfold State.setQty
  extract_lets -merge -underBinder coded0 v unitOk
  clear_value v
  split
  · exact HeldP.pair hk
  · exact HeldP.ite (HeldP.pair hk) (HeldP.ite (HeldP.pair hk) (HeldP.ite (HeldP.pair hk) (coded_held hk.writeWord)))

theorem Held.setTime {rank : ℕ} {t : Text} (hk : Held .reply s0 s) : HeldP .reply s0 (s.setTime rank t) := by
  unfold State.setTime
  split
  · exact HeldP.ite (HeldP.pair hk) (HeldP.ite (HeldP.pair hk) (coded_held hk.setCalendar))
  · exact HeldP.pair hk

theorem Held.setCosem {rank : ℕ} {o : List ℕ} {n : ℕ} {method : Bool} {t : Text} (hk : Held .reply s0 s) :
    HeldP .reply s0 (s.setCosem rank o n method t) := by
  unfold State.setCosem
  split
  · exact HeldP.pair hk
  · exact HeldP.ite (HeldP.pair hk) (coded_held (HeldP.ite hk.invokeMethod hk.setAttr))

theorem Held.update {src : Source} {type : ℕ} {f : List ℕ} (hk : Held .reply s0 s) : HeldP .reply s0 (s.update src type f) := by
  unfold State.update
  refine HeldP.ite ?_ ?_
  · exact hk.updMessage
  · extract_lets -merge -underBinder app
    refine HeldP.ite ?_ ?_
    · exact HeldP.pair hk
    · split
      · rename_i code fst snd s1 heq
        have hs1 : Held .reply s0 s1 := HeldP.of_eq heq hk.updMessage
        exact HeldP.pair (Held.ite (hs1.updAll.activatePersist.reply_same (by rfl)) hs1.updAll)

theorem Held.setUpd {c : Carrier} {t : Text} (hk : Held .reply s0 s) : HeldP .reply s0 (s.setUpd c t) := by
  unfold State.setUpd
  split
  · refine HeldP.ite ?_ ?_
    · exact HeldP.pair hk
    · split
      · rename_i st next s1 heq
        have hs1 : Held .reply s0 s1 := HeldP.of_eq heq hk.update
        exact HeldP.pair hs1
      · rename_i e fst snd s1 _ heq
        have hs1 : Held .reply s0 s1 := HeldP.of_eq heq hk.update
        exact HeldP.pair hs1
  · exact HeldP.pair hk

theorem Held.aclSet {c : Carrier} {o : ObjRef} {value : Text} (hk : Held .reply s0 s) : HeldP .reply s0 (s.aclSet c o value) := by
  unfold State.aclSet
  extract_lets -merge -underBinder rank w unit
  clear_value w
  split
  · exact HeldP.pair hk
  · refine HeldP.ite ?_ ?_
    · exact HeldP.pair hk
    · split
      · clear_value unit
        split
        · exact HeldP.ite (HeldP.pair hk) (HeldP.ite (HeldP.pair hk) hk.setReg)
        · exact HeldP.pair hk
      · split
        · exact HeldP.pair hk
        · exact hk.setQty
        · refine HeldP.ite ?_ ?_
          · exact HeldP.pair hk
          · split
            · split
              · exact hk.setReg
              · exact HeldP.pair hk
            · split
              · exact hk.setField
              · exact HeldP.pair hk
            · exact hk.setTime
            · exact hk.setUpd
            · exact hk.setCosem
            · exact hk.setCosem
            · exact HeldP.pair hk

theorem Held.aclShot {c : Carrier} {path : ℕ} {count : Option ℕ} (hk : Held .reply s0 s) :
    HeldP .reply s0 (s.aclShot c path count) := by
  unfold State.aclShot
  exact HeldP.ite (HeldP.pair hk) (HeldP.ite (HeldP.pair hk) (HeldP.ite (HeldP.pair hk) (HeldP.ite (HeldP.pair hk) (HeldP.pair
      (hk.reply_same (by rfl))))))

theorem Held.aclCapture {c : Carrier} (hk : Held .reply s0 s) : HeldP .reply s0 (s.aclCapture c) := by
  unfold State.aclCapture
  exact HeldP.ite (HeldP.pair hk) (HeldP.pair hk.capture)

theorem Held.aclLog {c : Carrier} {legal : Bool} {first count : Option ℕ} (hk : Held .reply s0 s) :
    HeldP .reply s0 (s.aclLog c legal first count) := by
  unfold State.aclLog
  exact HeldP.ite (HeldP.pair hk) (HeldP.ite (HeldP.pair hk) (HeldP.ite (HeldP.pair hk) (HeldP.ite (HeldP.pair hk) (HeldP.pair
      (Held.foldl hk (fun _ _ ht => ht.eccMeet))))))

theorem Held.showLocks (hk : Held .reply s0 s) : Held .reply s0 s.showLocks := by
  unfold State.showLocks
  exact hk.put

theorem Held.loginFail {c : Carrier} (hk : Held .reply s0 s) : Held .reply s0 (s.loginFail c) := by
  unfold State.loginFail
  exact Held.ite hk.bump.setCar hk.bump.setCar.showLocks.logTrouble

theorem Held.loginOk {c : Carrier} {r : Role} (hk : Held .reply s0 s) : Held .reply s0 (s.loginOk c r) := by
  unfold State.loginOk
  exact hk.setCar

theorem Held.authKey {r : Role} (hk : Held .reply s0 s) : HeldP .reply s0 (s.authKey r) := by
  unfold State.authKey
  refine HeldP.ite ?_ ?_
  · exact HeldP.pair hk
  · split
    · exact hk.slotKey
    · exact HeldP.pair hk

theorem Held.loginPassword {c : Carrier} {r : Role} {secret : Option Text} (hk : Held .reply s0 s) :
    Held .reply s0 (s.loginPassword c r secret) := by
  unfold State.loginPassword
  extract_lets -merge -underBinder kept
  clear_value kept
  split
  · exact Held.ite hk.loginOk hk.loginFail
  · exact hk.loginFail

theorem Held.loginResponse {c : Carrier} {r : Role} {t : Text} (hk : Held .reply s0 s) :
    Held .reply s0 (s.loginResponse c r t) := by
  unfold State.loginResponse
  extract_lets -merge -underBinder ch src s1
  have hs1 : Held .reply s0 s1 := hk.setCar
  clear_value ch
  split
  · refine Held.ite ?_ ?_
    · exact hs1.loginFail
    · split
      · rename_i k s2 heq
        have hs2 : Held .reply s0 s2 := HeldP.of_eq heq hs1.authKey
        exact Held.ite hs2.loginOk hs2.loginFail
      · rename_i s2 heq
        have hs2 : Held .reply s0 s2 := HeldP.of_eq heq hs1.authKey
        exact hs2.loginFail
  · exact hs1.loginFail

theorem Held.aclLogin {c : Carrier} {r : Role} {secret : Option Text} (hk : Held .reply s0 s) :
    HeldP .reply s0 (s.aclLogin c r secret) := by
  unfold State.aclLogin
  extract_lets -merge -underBinder locked
  refine HeldP.ite ?_ ?_
  · exact HeldP.pair hk
  · split
    · exact HeldP.pair hk
    · exact HeldP.pair hk.loginPassword
    · exact HeldP.pair hk.loginPassword
    · split
      · exact HeldP.pair hk.loginResponse
      · refine HeldP.ite ?_ ?_
        · exact HeldP.pair hk
        · split
          · rename_i v s1 heq
            have hs1 : Held .reply s0 s1 := HeldP.of_eq heq hk.draw
            exact HeldP.pair hs1.setCar
    · split
      · exact HeldP.pair hk.loginResponse
      · refine HeldP.ite ?_ ?_
        · exact HeldP.pair hk
        · split
          · rename_i v s1 heq
            have hs1 : Held .reply s0 s1 := HeldP.of_eq heq hk.draw
            exact HeldP.pair hs1.setCar

theorem Held.aclLogout {c : Carrier} (hk : Held .reply s0 s) : HeldP .reply s0 (s.aclLogout c) := by
  unfold State.aclLogout
  exact HeldP.pair (Held.ite hk.endSessionOn hk)

theorem Held.setKeyBuf {c : Carrier} {b : List Byte} (hk : Held .reply s0 s) : Held .reply s0 (s.setKeyBuf c b) := by
  unfold State.setKeyBuf
  exact hk.dropKeyBuf.reply_same (by rfl)

theorem Held.aclKeyLoad {c : Carrier} {l : LineForm} {piece : Text} (hk : Held .reply s0 s) :
    HeldP .reply s0 (s.aclKeyLoad c l piece) := by
  unfold State.aclKeyLoad
  dsimp -zeta only
  split
  · extract_lets -merge -underBinder all
    refine HeldP.ite ?_ ?_
    · exact HeldP.pair hk.dropKeyBuf
    · refine HeldP.ite ?_ ?_
      · exact HeldP.pair hk.setKeyBuf
      · refine HeldP.ite ?_ ?_
        · exact HeldP.pair hk
        · split
          · rename_i val s1 heq
            have hs1 : Held .reply s0 s1 := HeldP.of_eq heq hk.dropKeyBuf.keyMessage
            exact HeldP.pair hs1
          · rename_i s1 heq
            have hs1 : Held .reply s0 s1 := HeldP.of_eq heq hk.dropKeyBuf.keyMessage
            exact HeldP.pair hs1
  · exact HeldP.pair hk.dropKeyBuf

theorem Held.aclKeyStatus {digest : Text} (hk : Held .reply s0 s) : HeldP .reply s0 (s.aclKeyStatus digest) := by
  unfold State.aclKeyStatus
  refine HeldP.ite ?_ ?_
  · exact HeldP.pair hk
  · split <;> exact HeldP.pair hk

theorem Held.aclKeyPassword {c : Carrier} {r : Role} {t : Text} (hk : Held .reply s0 s) :
    HeldP .reply s0 (s.aclKeyPassword c r t) := by
  unfold State.aclKeyPassword
  exact HeldP.ite (HeldP.pair hk) (HeldP.ite (HeldP.pair hk) (HeldP.pair (hk.reply_same (by rfl))))

theorem Held.aclToken {digits : Text} (hk : Held .reply s0 s) : HeldP .reply s0 (s.aclToken digits) := by
  unfold State.aclToken
  split
  · exact HeldP.pair hk
  · refine HeldP.ite ?_ ?_
    · exact HeldP.pair hk
    · split
      · rename_i s1 heq
        have hs1 : Held .reply s0 s1 := HeldP.of_eq heq hk.evalToken
        exact HeldP.pair hs1
      · rename_i s1 heq
        have hs1 : Held .reply s0 s1 := HeldP.of_eq heq hk.evalToken
        exact HeldP.pair hs1
      · rename_i fst s1 _ _ heq
        have hs1 : Held .reply s0 s1 := HeldP.of_eq heq hk.evalToken
        exact HeldP.pair hs1

theorem Held.zcDeny {x : ℕ} (hk : Held .reply s0 s) : Held .reply s0 (s.zcDeny x) := by
  unfold State.zcDeny
  exact hk.zcStart.clr.reply_same (by rfl)

theorem Held.aclZerocal {c : Carrier} {mp : MeterPoint} (hk : Held .reply s0 s) : HeldP .reply s0 (s.aclZerocal c mp) := by
  unfold State.aclZerocal
  exact HeldP.ite (HeldP.pair hk) (HeldP.ite (HeldP.pair (Held.ite hk.put hk.zcDeny)) (HeldP.ite (HeldP.pair hk) (HeldP.pair
      hk.zcStart)))

theorem Held.aclCommit {c : Carrier} (hk : Held .reply s0 s) : HeldP .reply s0 (s.aclCommit c) := by
  unfold State.aclCommit
  exact HeldP.ite (HeldP.pair hk) (HeldP.ite (HeldP.pair hk) (HeldP.pair (hk.set1.reply_same (by rfl))))

theorem Held.aclScheduleCommit {c : Carrier} (hk : Held .reply s0 s) : HeldP .reply s0 (s.aclScheduleCommit c) := by
  unfold State.aclScheduleCommit
  refine HeldP.ite ?_ ?_
  · exact HeldP.pair hk
  · extract_lets -merge -underBinder s1 cost
    have hs1 : Held .reply s0 s1 := hk.schedCommit
    split
    · exact HeldP.ite (HeldP.pair hk) (HeldP.pair hs1)
    · exact HeldP.pair hs1
    · exact HeldP.pair hs1

theorem Held.aclScheduleDiscard {c : Carrier} (hk : Held .reply s0 s) : HeldP .reply s0 (s.aclScheduleDiscard c) := by
  unfold State.aclScheduleDiscard
  exact HeldP.ite (HeldP.pair hk) (HeldP.ite (HeldP.pair hk) (HeldP.pair hk.schedDiscard))

theorem Held.aclScheduleShow {c : Carrier} {pend : Bool} (hk : Held .reply s0 s) :
    HeldP .reply s0 (s.aclScheduleShow c pend) := by
  unfold State.aclScheduleShow
  exact HeldP.ite (HeldP.pair hk) (HeldP.pair hk)

theorem Held.aclReset {c : Carrier} (hk : Held .reply s0 s) : HeldP .reply s0 (s.aclReset c) := by
  unfold State.aclReset
  exact HeldP.ite (HeldP.pair hk) (HeldP.pair (hk.reply_same (by rfl)))

theorem Held.aclStatus {c : Carrier} (hk : Held .reply s0 s) : HeldP .reply s0 (s.aclStatus c) := by
  unfold State.aclStatus
  exact HeldP.pair hk

theorem Held.aclHelp {command : Option Text} (hk : Held .reply s0 s) : HeldP .reply s0 (s.aclHelp command) := by
  unfold State.aclHelp
  split
  · exact HeldP.pair hk
  · split <;> exact HeldP.pair hk

/-- An operation of a row that keeps the answer owed. -/
def Op.Held (o : Op) : Prop := ∀ s0 s : State, Machine.Held .reply s0 s → HeldP .reply s0 (o.run s)

theorem Held.runOp {c : Carrier} {inv : Byte} {l : LineForm} {o : Op} (h : Held .reply s0 s) (ho : o.Held) :
    Held .reply s0 (s.runOp c inv l o) := h.answer (fun t ht => HeldP.ite ht (ho s0 t ht))

theorem errOp_held {n : Nat} : (errOp n).Held := fun _ _ h => h

theorem Op.held_ite {p : Prop} [Decidable p] {a b : Op} (ha : a.Held) (hb : b.Held) : (if p then a else b).Held := by
  split <;> assumption

theorem logOp_held {c : Carrier} {w : List Text} : (logOp c w).Held := by
  unfold logOp
  split
  · exact errOp_held
  · refine Op.held_ite ?_ errOp_held
    split
    · exact fun _ _ h => h.aclLog
    · exact errOp_held

theorem keyOp_held {c : Carrier} {l : LineForm} {w : List Text} : (keyOp c l w).Held := by
  unfold keyOp
  split
  · exact errOp_held
  · refine Op.held_ite (fun _ _ h => h.aclKeyLoad) (Op.held_ite ?_ (Op.held_ite ?_ errOp_held))
    · split
      · exact fun _ _ h => h.aclKeyStatus
      · exact errOp_held
    · split
      · split
        · exact fun _ _ h => h.aclKeyPassword
        · exact errOp_held
      · exact errOp_held

theorem scheduleOp_held {c : Carrier} {w : List Text} : (scheduleOp c w).Held := by
  unfold scheduleOp
  split
  · exact errOp_held
  · refine Op.held_ite (Op.held_ite (fun _ _ h => h.aclScheduleCommit) errOp_held)
      (Op.held_ite (Op.held_ite (fun _ _ h => h.aclScheduleDiscard) errOp_held) (Op.held_ite ?_ errOp_held))
    split
    · exact fun _ _ h => h.aclScheduleShow
    · exact Op.held_ite (fun _ _ h => h.aclScheduleShow) errOp_held
    · exact errOp_held

theorem getOp_held {c : Carrier} {w : List Text} : (getOp c w).Held := by
  unfold getOp
  split
  · exact errOp_held
  · split
    · exact errOp_held
    · split
      · exact fun _ _ h => h.aclGet
      · exact errOp_held

theorem argOp_held {c : Carrier} {l : LineForm} {t : Text} {w : List Text} : (argOp c l t w).Held := by
  unfold argOp
  refine Op.held_ite getOp_held (Op.held_ite ?set (Op.held_ite ?shown (Op.held_ite ?shot (Op.held_ite logOp_held
    (Op.held_ite ?login (Op.held_ite keyOp_held (Op.held_ite ?token (Op.held_ite ?zerocal (Op.held_ite scheduleOp_held
    (Op.held_ite ?help errOp_held))))))))))
  case set =>
    split
    · split
      · exact fun _ _ h => h.aclSet
      · exact errOp_held
    · exact errOp_held
  case shown =>
    split
    · split
      · exact fun _ _ h => h.aclShow
      · exact errOp_held
    · exact errOp_held
  case shot =>
    split
    · exact fun _ _ h => h.aclShot
    · exact fun _ _ h => h.aclShot
    · exact errOp_held
  case login =>
    split
    · split
      · exact fun _ _ h => h.aclLogin
      · exact errOp_held
    · split
      · exact fun _ _ h => h.aclLogin
      · exact errOp_held
    · exact errOp_held
  case token =>
    split
    · exact fun _ _ h => h.aclToken
    · exact errOp_held
  case zerocal =>
    split
    · exact Op.held_ite (fun _ _ h => h.aclZerocal) (Op.held_ite (fun _ _ h => h.aclZerocal) errOp_held)
    · exact errOp_held
  case help =>
    split
    · exact fun _ _ h => h.aclHelp
    · exact fun _ _ h => h.aclHelp
    · exact errOp_held

/-- What a command without arguments may do. -/
def HeldOp (x : Option Op) : Prop := ∀ o, x = some o → o.Held

theorem HeldOp.ite {p : Prop} [Decidable p] {o : Op} {x : Option Op} (ho : o.Held) (hx : HeldOp x) : HeldOp (if p then some o else x) := by
  split
  · intro q hq
    cases hq
    exact ho
  · exact hx

theorem bareOp_held {c : Carrier} {t : Text} : HeldOp (bareOp c t) := by
  unfold bareOp
  exact .ite (fun _ _ h => h.aclCapture) (.ite (fun _ _ h => h.aclLogout) (.ite (fun _ _ h => h.aclCommit)
    (.ite (fun _ _ h => h.aclReset) (.ite (fun _ _ h => h.aclStatus) fun _ hq => nomatch hq))))

theorem opOf_held {c : Carrier} {l : LineForm} {w : List Text} : (opOf c l w).Held := by
  unfold opOf
  split
  · exact errOp_held
  · split
    · rename_i heq
      split
      · exact bareOp_held _ heq
      · exact errOp_held
    · exact argOp_held

theorem Held.enterTunnel {n : ℕ} {sec : Bool} (hk : Held .reply s0 s) : Held .reply s0 (s.enterTunnel n sec) := by
  unfold State.enterTunnel
  exact hk.setCar

theorem Held.runText {c : Carrier} {inv : Byte} {kind : ℕ} {t : Text} (hk : Held .reply s0 s) :
    Held .reply s0 (s.runText c inv kind t) := by
  unfold State.runText
  refine Held.ite ?_ ?_
  · exact hk
  · split
    · refine Held.ite ?_ ?_
      · exact hk.dropKeyBuf.send
      · exact Held.ite hk.dropKeyBuf.send (Held.ite ((Held.ite hk hk.bump).dropKeyBuf.send) (Held.ite hk.bump.dropKeyBuf.send
            (hk.runOp opOf_held)))

theorem Held.tunnelLine {nb : Fin 32} {sec : Bool} {inv : Byte} {kind : ℕ} {line : List Byte} (hk : Held .reply s0 s) :
    Held .reply s0 (s.tunnelLine nb sec inv kind line) := by
  unfold State.tunnelLine
  exact Held.ite hk hk.enterTunnel.runText

theorem Held.updateFrom {src : Source} {type : ℕ} {data : List Byte} (hk : Held .reply s0 s) :
    Held .reply s0 (s.updateFrom src type data) := by
  unfold State.updateFrom
  refine Held.ite ?_ ?_
  · exact hk
  · split
    · rename_i code st next s1 heq
      have hs1 : Held .reply s0 s1 := HeldP.of_eq heq hk.update
      split
      · exact hs1.linkSend
      · exact hs1

theorem Held.beginLine {c : Carrier} (hk : Held .reply s0 s) : Held .reply s0 (s.beginLine c) := by
  unfold State.beginLine
  split
  · exact hk.setCar
  · exact hk

theorem Held.endLineRun {c : Carrier} (hk : Held .reply s0 s) : Held .reply s0 (s.endLineRun c) := by
  unfold State.endLineRun
  exact hk.setCar

theorem Held.runNext {c : Carrier} (hk : Held .reply s0 s) : Held .reply s0 (s.runNext c) := by
  unfold State.runNext
  split
  · exact hk
  · exact Held.endLineRun (by
      split
      · exact hk.beginLine.tunnelLine
      · exact hk.beginLine.runText
      · exact hk.beginLine)

theorem Held.setWork {log : Bool} {v : ℕ} (hk : Held .reply s0 s) : Held .reply s0 (s.setWork log v) := by
  unfold State.setWork
  exact Held.ite (hk.reply_same (by rfl)) (hk.reply_same (by rfl))

theorem Held.runLines {log : Bool} {time step slice n used : Nat} (h : Held .reply s0 s) :
    HeldP .reply s0 (State.runLines log time step slice n used s) := by
  induction n generalizing used s with
  | zero => exact h
  | succ n ih =>
    unfold State.runLines
    refine HeldP.ite h ?_
    split
    · exact h
    · exact HeldP.ite h (HeldP.ite (ih h.setWork.runNext)
        (ih h.setWork.beginLine))

/-! ### The operations of Machine/Tick.lean -/

theorem Held.queueTunnel {x : RxItem} (hk : Held .reply s0 s) : Held .reply s0 (s.queueTunnel x) := by
  unfold State.queueTunnel
  extract_lets -merge -underBinder c
  refine Held.ite ?_ ?_
  · exact hk
  · split
    · exact hk.queueLine
    · exact hk

theorem Held.objectPayload {x : RxItem} (hk : Held .reply s0 s) : Held .reply s0 (s.objectPayload x) := by
  unfold State.objectPayload
  extract_lets -merge -underBinder b nb inv cls obis a
  refine Held.ite ?_ ?_
  · exact hk
  · split
    · exact hk.objGet
    · exact hk.objSet
    · exact hk.objAction

theorem Held.queryPayload {x : RxItem} (hk : Held .reply s0 s) : Held .reply s0 (s.queryPayload x) := by
  unfold State.queryPayload
  exact Held.ite hk hk.linkSend

theorem Held.linkPayload {x : RxItem} (hk : Held .reply s0 s) : Held .reply s0 (s.linkPayload x) := by
  unfold State.linkPayload
  exact Held.ite hk (Held.ite hk.objectPayload (Held.ite hk.queueTunnel (Held.ite hk.keyFromLink (Held.ite hk.queryPayload
      (Held.ite hk.updateFrom hk)))))

theorem Held.takeInbox (hk : Held .reply s0 s) : Held .reply s0 s.takeInbox := by
  unfold State.takeInbox
  exact Held.foldl (hk.reply_same (by rfl)) (fun _ _ ht => ht.linkPayload.dequeue)

theorem Held.noteWork (hk : Held .reply s0 s) : Held .reply s0 s.noteWork := by
  unfold State.noteWork
  exact Held.foldl hk (fun _ _ ht => Held.ite ht.ready ht)

theorem Held.taskSliceRun {task time : ℕ} {flashBad : Bool} (hk : Held .reply s0 s) :
    HeldP .reply s0 (s.taskSliceRun task time flashBad) := by
  unfold State.taskSliceRun
  split
  · exact HeldP.pair hk.takeInbox.radioTask
  · exact HeldP.pair hk.dispTask
  · exact hk.runLines
  · exact hk.runLines
  · exact HeldP.pair hk.updTask
  · exact HeldP.pair hk.keypadTask
  · exact HeldP.pair hk

theorem HeldPP.serveTask {work : ServiceIn} {x : Nat × List Nat × State} {task : Nat} (h : HeldPP .reply s0 x) :
    HeldPP .reply s0 (State.serveTask work x task) := by
  unfold State.serveTask
  obtain ⟨left, served, s⟩ := x
  have hs : Held .reply s0 s := h
  dsimp -zeta only
  refine HeldPP.ite ?_ h
  extract_lets time s2 age
  have h2 : Held .reply s0 s2 := Held.ite hs.taskSliceRun.out.overrun
    hs.taskSliceRun.out
  exact h2.reply_same (by rfl)

theorem Held.ageTasks {served : List ℕ} (hk : Held .reply s0 s) : Held .reply s0 (s.ageTasks served) := by
  unfold State.ageTasks
  extract_lets -merge -underBinder older was src s1
  have hs1 : Held .reply s0 s1 := hk.reply_same (by rfl)
  exact Held.ite hs1.set1 hs1

theorem Held.releaseAll {d : Deferred} {r : Resp} (hk : Held .reply s0 s) : Held .reply s0 (s.releaseAll d r) := by
  unfold State.releaseAll
  exact Held.foldl hk (fun t c ht => by
      split
      · exact Held.ite ht.release ht
      · exact ht)

/-- Once the answers owed for saves are given, none is owed. -/
theorem State.answerSaves_reply : s.answerSaves.cmd.saveReply = false := by
  unfold State.answerSaves
  extract_lets -merge -underBinder z src s1
  split
  · rfl
  · rename_i o _
    have h : Held .reply s1 (s1.releaseAll .zerocal (zcResp o)) := Held.refl.releaseAll
    generalize s1.releaseAll .zerocal (zcResp o) = u at h
    exact h.reply rfl

theorem Held.answerShot (hk : Held .reply s0 s) : Held .reply s0 s.answerShot := by
  unfold State.answerShot
  split
  · exact hk
  · split
    · exact Held.ite (hk.releaseAll.reply_same (by rfl)) hk.releaseAll
    · exact Held.ite hk.dropShot hk

theorem Held.answerKey (hk : Held .reply s0 s) : Held .reply s0 s.answerKey := by
  unfold State.answerKey
  split
  · exact hk
  · extract_lets -merge -underBinder src s1
    have hs1 : Held .reply s0 s1 := hk.reply_same (by rfl)
    split
    · exact hs1.linkSend
    · exact hs1.release
    · exact hs1

theorem Held.endService (hk : Held .reply s0 s) : Held .reply s0 s.endService := by
  unfold State.endService
  exact (Held.ite hk.put hk.endPhases).xo24Rest.reply_same (by rfl)

/-! ### The whole window -/

/-- The answers owed, and what the tasks work on. -/
def State.serviceBegun (s : State) : State := s.releaseTokens.keyService.answerSaves.answerShot.answerKey.balanceRequests.noteWork

/-- The tasks' slices: the time left, the tasks served and the state. -/
def State.slices (s : State) (avail : Nat) (work : ServiceIn) : Nat × List Nat × State :=
  s.taskOrder.foldl (State.serveTask work) (max avail (sumNat (s.urgent.map s.taskSlice)), [], s)

/-- The window up to its end. -/
def State.serviceWork (s : State) (avail : Nat) (work : ServiceIn) : State :=
  let u := s.serviceBegun
  let x := u.slices avail work
  let s4 := x.2.2.ageTasks x.2.1
  s4.put F.MGMT_LOAD_SVCMAX (max (s4.get F.MGMT_LOAD_SVCMAX) (satNat 16 (max avail (sumNat (u.urgent.map u.taskSlice)) - x.1)))

theorem State.servicePhase_eq (avail : Nat) (work : ServiceIn) : s.servicePhase avail work = (s.serviceWork avail
    work).endService := rfl

theorem State.serviceWork_canonical (hc : s.canonical = true) (avail : Nat) (work : ServiceIn) : (s.serviceWork avail
    work).canonical = true := by
  have h0 : Keeps s s.serviceBegun := State.noteWork_keeps (State.balanceRequests_keeps (State.answerKey_keeps
    (State.answerShot_keeps (State.answerSaves_keeps (State.keyService_keeps (State.releaseTokens_keeps (Keeps.refl s)))))))
  have hx : KeepsPP s (s.serviceBegun.slices avail work) :=
    KeepsPP.foldl (KeepsPP.pair (KeepsP.pair h0)) (fun _ _ hx => State.serveTask_keeps hx)
  exact (State.put_keeps (State.ageTasks_keeps hx.out.out)).2.1 hc

theorem State.serviceWork_reply {avail : Nat} {work : ServiceIn} : (s.serviceWork avail work).cmd.saveReply = false := by
  have h0 : Held .reply s.releaseTokens.keyService.answerSaves s.serviceBegun :=
    Held.refl.answerShot.answerKey.balanceRequests.noteWork
  have hx : HeldPP .reply s.releaseTokens.keyService.answerSaves (s.serviceBegun.slices avail work) :=
    HeldPP.foldl (HeldPP.pair (HeldP.pair h0)) (fun _ _ hx => hx.serveTask)
  have h : Held .reply s.releaseTokens.keyService.answerSaves (s.serviceWork avail work) := hx.out.out.ageTasks.put
  exact (h.reply rfl).trans State.answerSaves_reply

/-- The window's end shows the Persist phase or the end of the tick, with no phase under way. -/
theorem State.endService_spec (hc : s.canonical = true) :
    (s.endService.get F.FT_PHASE_PHASE = 3 ∨ s.endService.get F.FT_PHASE_PHASE = 5) ∧ s.endService.rm.phaseDone = true
      ∧ s.endService.cmd.saveReply = s.cmd.saveReply := by
  have h : (s.endService).get F.FT_PHASE_PHASE = (if s.persistPhaseDue then s.put F.FT_PHASE_PHASE 3 else s.endPhases).get
      F.FT_PHASE_PHASE := by
    have h1 : Changes [F.FT_PHASE_PHASE.zone, F.PWR_STATE_STATE.zone] [] s (if s.persistPhaseDue then s.put F.FT_PHASE_PHASE 3
        else s.endPhases) :=
      .ite ((Changes.refl hc).put) (State.endPhases_changes hc)
    exact (State.xo24Rest_changes h1.canonical).get F.FT_PHASE_PHASE
  refine ⟨?_, rfl, (Held.refl (k := .reply)).endService.reply rfl⟩
  rw [h]
  split
  · exact .inl (State.get_put hc (by decide))
  · have h5 : Changes [F.FT_PHASE_PHASE.zone] [] s (s.put F.FT_PHASE_PHASE 5) := (Changes.refl hc).put
    exact .inr (((State.restPower_changes h5.canonical).get F.FT_PHASE_PHASE).trans (State.get_put hc (by decide)))

end

/-- Settles O23: no work of the window owes the answer of a save again, and its end shows the phase that follows. -/
theorem serviceWindowAndPromotion : Obligations.ServiceWindowAndPromotion := by
  intro avail work s hc
  refine ⟨fun hdue hno => ?_, fun hrun hphase hurgent => ?_, fun hrun hsince => ?_⟩
  · have hexec : exec (.serviceWindow avail work) s = .next (s.servicePhase avail work) := by
      change Host.Outcome.next (if s.serviceDue then (s.servicePhase avail work).endTick else s) = _
      rw [if_pos hdue]
      exact congrArg Host.Outcome.next (if_neg (by rw [hno]; simp))
    have hw := State.serviceWork_canonical hc avail work
    obtain ⟨hp, hd, hr⟩ := State.endService_spec hw
    rw [← State.servicePhase_eq] at hp hd hr
    exact ⟨_, hexec, hp, hd, hr.trans State.serviceWork_reply⟩
  · have hset : Changes [F.FT_STAT_PROMOTED.zone] [] s (s.set1 F.FT_STAT_PROMOTED) := (Changes.refl hc).set1
    exact ⟨_, next_of_due ⟨decide_eq_true hrun, hphase, hurgent⟩ _, State.set1_flag hc, hset.regsBut, rfl⟩
  · exact ⟨_, next_of_due ⟨decide_eq_true hrun, hsince⟩ _, rfl⟩

end Sys2Proof.Machine
end
